-- ==== Sys2Proof/Word.lean ====
section
/-! DEFINITION. The word types of the machine and their plainest arithmetic. -/

namespace Sys2Proof

/-- A byte of memory. -/
abbrev Byte := BitVec 8

/-- A general register's contents, an address while it is computed (02 R35). -/
abbrev Word := BitVec 64

/-- The contents of one vector register at full grant (02 R34). -/
abbrev VWord := BitVec 16384

/-- The validity field of one vector register (02 R38). -/
abbrev Validity := BitVec 128

/-- The contents of one mask register (02 R34). -/
abbrev KWord := BitVec 4096

end Sys2Proof
end

