-- ==== Sys2Proof/Syntax.lean ====
section
/-! DEFINITION. The instructions, weight-block opcodes and events of the machine: one constructor for each row of the
opcode table, with the operand types they use. An event is a step of an agent other than a hart's own instruction stream. -/

namespace Sys2Proof

/-- The number of a general register (02 R35). -/
abbrev GReg := BitVec 5
/-- The number of a vector register (02 R36). -/
abbrev VReg := BitVec 5
/-- The number of a mask register; as a k field 0 means unmasked (02 R37). -/
abbrev KReg := BitVec 3
/-- The number of an accumulator tile (09 R212). -/
abbrev Acc := BitVec 2
/-- The number of a stream engine (11 R272). -/
abbrev Engine := BitVec 2
/-- The status register of a scalar remote form: present in the .s variant (05 R116). -/
abbrev Status := Option GReg
/-- The status k register of a vector remote form: present in the .s variant (05 R116). -/
abbrev KStatus := Option KReg

/-- Operand b of an FV instruction by its source kind (05 R103). -/
inductive Src where
  | v (r : VReg)
  | g (r : GReg)
  | q (n : BitVec 2)
  | imm (i : BitVec 5)
  deriving DecidableEq, Repr

/-- The address form of a vector atomic (08 R206): unit stride, strided, indexed. -/
inductive VAddr where
  | unit (off : BitVec 5)
  | strided (b : GReg)
  | indexed (v : VReg)
  deriving DecidableEq, Repr

/-- Scopes (04 R82). -/
inductive Scope where
  | hart | tile | die | pkg | sys
  deriving DecidableEq, Repr

/-- Ordering codes (04 R83). -/
inductive MemOrd where
  | rlx | acq | rel | ar
  deriving DecidableEq, Repr

/-- Access sizes of 1, 2, 4 and 8 bytes (05 R109). -/
inductive Size where
  | b | h | w | d
  deriving DecidableEq, Repr

/-- Access sizes of the atomics, 4 and 8 bytes (05 R109). -/
inductive WSize where
  | w | d
  deriving DecidableEq, Repr

/-- Scalar floating-point formats (05 R111). -/
inductive FFmt where
  | fp64 | fp32 | fp16 | bf16
  deriving DecidableEq, Repr

/-- Conditions of FCMP (06 R142). -/
inductive FCmpCond where
  | eq | lt | le | uno
  deriving DecidableEq, Repr

/-- Integer types of FCVT (05 R111). -/
inductive IntTy where
  | i64 | n64 | i32 | n32
  deriving DecidableEq, Repr

/-- Sources of a conversion to a float (05 R111). -/
inductive CvtSrc where
  | float (f : FFmt)
  | int (t : IntTy)
  deriving DecidableEq, Repr

/-- Element types by their FMT codes 0 to 15 (02 R42). -/
inductive ElemTy where
  | i8 | n8 | i16 | n16 | i32 | n32 | i64 | n64 | fp64 | fp32 | bf16 | fp16 | e4m3 | e5m2 | e2m1 | i4
  deriving DecidableEq, Repr

/-- Reservation policies (04 R90). -/
inductive Policy where
  | wait | split | trap
  deriving DecidableEq, Repr

/-- Targets of SBIND (11 R274). -/
inductive BindTarget where
  | fin (pe : BitVec 6) (ch : BitVec 2)
  | fout (pe : BitVec 6) (ch : BitVec 2)
  | queue (n : BitVec 2)
  deriving DecidableEq, Repr

/-- A hart of the package: its tile by index x + 36 y, and which of the tile's two harts it is (00 R2, 01 R12). -/
structure HartId where
  tile : Nat
  h1 : Bool
  deriving DecidableEq, Repr

/-- What a write of REGISTER_WRITE names (06 R146, 16 R327): a control register by number, or bytes of the device
register window by physical address. -/
inductive RegTarget where
  | cr (n : BitVec 12)
  | device (addr : Nat) (bytes : Nat)
  deriving DecidableEq, Repr

/-- The operations of the atomics, numbered 0 to 7 (05 R109). -/
inductive AmoOp where
  | add | and | or | xor | min | max | swp | cas
  deriving DecidableEq, Repr

/-- One remote operation: what it does at its destination (10 R233, R237, R239, R241). -/
inductive RemoteKind where
  | load (bytes : Nat)
  | store (bytes : Nat) (x : Word)
  | atomic (op : AmoOp) (bytes : Nat) (x expected : Word)
  | append (x : Word)
  | arrive
  deriving DecidableEq, Repr

/-- A remote operation with its peer, heap offset and, in a vector form, its element index (10 R227, R237). -/
structure RemoteOp where
  kind : RemoteKind
  peer : BitVec 16
  off : Nat
  elem : Nat
  deriving DecidableEq, Repr

/-- A sub-batch as its destination receives it (10 R229): the source package, context, hart and batch, its operations,
and whether its payload passes the end-to-end check (10 R232). -/
structure SubBatch where
  src : BitVec 16
  ctx : BitVec 16
  hart : HartId
  batch : Nat
  ops : List RemoteOp
  intact : Bool
  deriving DecidableEq, Repr

/-- The answer to one remote operation: its status code and the value it returns (10 R228, R233). -/
structure RemoteResult where
  code : BitVec 8
  val : Word
  deriving DecidableEq, Repr

/-- What a requester asks of a home (18 R360, R362): a fill, a read, a masked write, a write of one nibble (04 R79), an atomic
(unsigned tells MIN and MAX of the .n variants). -/
inductive HomeAction where
  | fill
  | read (bytes addr : Nat)
  | write (cells : List (Nat × Byte))
  | nibble (addr : Nat) (high : Bool) (x : BitVec 4)
  | atomic (op : AmoOp) (unsigned : Bool) (bytes addr : Nat) (x expected : Word)
  deriving DecidableEq, Repr

/-- A request of a tile to the home of a line (18 R362, R363): AGE counts its refusals. -/
structure HomeReq where
  line : Nat
  tile : Nat
  h1 : Bool
  action : HomeAction
  age : Nat
  deriving DecidableEq, Repr

/-- One constructor for each row of the opcode table: the 231 encoded instructions (05 R107 to R116), the eleven block
opcodes of weight-driven mode with the block's header (12 R287), and the events of the machine's agents, whose operands
stand in Event. -/
inductive Instr where
  -- 06 R127
  | add (d a b : GReg)
  | sub (d a b : GReg)
  | and (d a b : GReg)
  | or (d a b : GReg)
  | xor (d a b : GReg)
  | sll (d a b : GReg)
  | srl (d a b : GReg)
  | sra (d a b : GReg)
  | slt (d a b : GReg)
  | sltn (d a b : GReg)
  | min (d a b : GReg)
  | max (d a b : GReg)
  | minn (d a b : GReg)
  | maxn (d a b : GReg)
  | mul (d a b : GReg)
  | mulh (d a b : GReg)
  | mulhn (d a b : GReg)
  -- 06 R128
  | div (d a b : GReg)
  | divn (d a b : GReg)
  | rem (d a b : GReg)
  | remn (d a b : GReg)
  -- 06 R127
  | clz (d a : GReg)
  | ctz (d a : GReg)
  | popc (d a : GReg)
  | brev (d a : GReg)
  -- 06 R129
  | addi (d a : GReg) (imm : BitVec 15)
  | andi (d a : GReg) (imm : BitVec 15)
  | ori (d a : GReg) (imm : BitVec 15)
  | xori (d a : GReg) (imm : BitVec 15)
  | slti (d a : GReg) (imm : BitVec 15)
  | sltni (d a : GReg) (imm : BitVec 15)
  -- 06 R130
  | slli (d a : GReg) (sh : BitVec 6)
  | srli (d a : GReg) (sh : BitVec 6)
  | srai (d a : GReg) (sh : BitVec 6)
  -- 06 R131
  | lui (d : GReg) (imm : BitVec 20)
  | auipc (d : GReg) (imm : BitVec 20)
  | limm (d : GReg) (imm : BitVec 32)
  | limmH (d : GReg) (imm : BitVec 32)
  -- 06 R132
  | ldb (d a : GReg) (off : BitVec 10)
  | ldh (d a : GReg) (off : BitVec 10)
  | ldw (d a : GReg) (off : BitVec 10)
  | ldd (d a : GReg) (off : BitVec 10)
  | ldbN (d a : GReg) (off : BitVec 10)
  | ldhN (d a : GReg) (off : BitVec 10)
  | ldwN (d a : GReg) (off : BitVec 10)
  -- 06 R134
  | ldaq (d a : GReg) (n : Bool) (sz : Size) (sc : Scope)
  -- 06 R132
  | stb (d a : GReg) (off : BitVec 10)
  | sth (d a : GReg) (off : BitVec 10)
  | stw (d a : GReg) (off : BitVec 10)
  | std (d a : GReg) (off : BitVec 10)
  -- 06 R134
  | strel (d a : GReg) (sz : Size) (sc : Scope)
  -- 06 R135
  | amoadd (d a b : GReg) (o : MemOrd) (sc : Scope) (sz : WSize)
  | amoand (d a b : GReg) (o : MemOrd) (sc : Scope) (sz : WSize)
  | amoor (d a b : GReg) (o : MemOrd) (sc : Scope) (sz : WSize)
  | amoxor (d a b : GReg) (o : MemOrd) (sc : Scope) (sz : WSize)
  | amomin (d a b : GReg) (o : MemOrd) (sc : Scope) (sz : WSize) (n : Bool)
  | amomax (d a b : GReg) (o : MemOrd) (sc : Scope) (sz : WSize) (n : Bool)
  | amoswp (d a b : GReg) (o : MemOrd) (sc : Scope) (sz : WSize)
  | amocas (d a b : GReg) (o : MemOrd) (sc : Scope) (sz : WSize)
  -- 06 R137
  | beq (a b : GReg) (off : BitVec 10)
  | bne (a b : GReg) (off : BitVec 10)
  | blt (a b : GReg) (off : BitVec 10)
  | bge (a b : GReg) (off : BitVec 10)
  | bltn (a b : GReg) (off : BitVec 10)
  | bgen (a b : GReg) (off : BitVec 10)
  -- 06 R138
  | jal (d : GReg) (imm : BitVec 20)
  | jalr (d a : GReg) (imm : BitVec 15)
  -- 06 R141
  | fadd (d a b : GReg) (f : FFmt)
  | fsub (d a b : GReg) (f : FFmt)
  | fmul (d a b : GReg) (f : FFmt)
  | fdiv (d a b : GReg) (f : FFmt)
  | fsqrt (d a : GReg) (f : FFmt)
  | fmin (d a b : GReg) (f : FFmt)
  | fmax (d a b : GReg) (f : FFmt)
  -- 06 R142
  | fcmp (d a b : GReg) (f : FFmt) (c : FCmpCond)
  -- 06 R143
  | fcvtToFloat (d a : GReg) (f : FFmt) (src : CvtSrc)
  | fcvtToInteger (d a : GReg) (f : FFmt) (dst : IntTy)
  -- 06 R144
  | fclass (d a : GReg) (f : FFmt)
  -- 06 R145
  | fma (d a b c : GReg) (f : FFmt)
  -- 06 R146
  | crr (d : GReg) (n : BitVec 12)
  | crw (d a : GReg) (n : BitVec 12)
  | crs (d a : GReg) (n : BitVec 12)
  | crc (d a : GReg) (n : BitVec 12)
  -- 06 R148
  | ecall
  | ebrk
  -- 15 R308
  | trapret
  -- 02 R51
  | uret
  -- 06 R150
  | wfe
  -- 06 R151
  | halt
  -- 16 R340
  | tlbinv (d a : GReg)
  -- 06 R155
  | cinv (d a : GReg)
  -- 04 R87
  | fence (o : MemOrd) (sc : Scope)
  -- 06 R152
  | safept (id : BitVec 16)
  -- 07 R164
  | setvl (d a b : GReg)
  | setvli (d a : GReg) (fmt : ElemTy) (grp : BitVec 3) (sc : Bool)
  -- 07 R167
  | lpreq (d a : GReg)
  -- 07 R170
  | vadd (d a : VReg) (b : Src) (k : KReg)
  | vsub (d a : VReg) (b : Src) (k : KReg)
  | vmul (d a : VReg) (b : Src) (k : KReg)
  | vmulh (d a : VReg) (b : Src) (k : KReg)
  | vmadd (d a : VReg) (b : Src) (k : KReg)
  | vand (d a : VReg) (b : Src) (k : KReg)
  | vor (d a : VReg) (b : Src) (k : KReg)
  | vxor (d a : VReg) (b : Src) (k : KReg)
  | vsll (d a : VReg) (b : Src) (k : KReg)
  | vsrl (d a : VReg) (b : Src) (k : KReg)
  | vsra (d a : VReg) (b : Src) (k : KReg)
  | vmin (d a : VReg) (b : Src) (k : KReg)
  | vmax (d a : VReg) (b : Src) (k : KReg)
  | vminn (d a : VReg) (b : Src) (k : KReg)
  | vmaxn (d a : VReg) (b : Src) (k : KReg)
  | vsadd (d a : VReg) (b : Src) (k : KReg)
  | vssub (d a : VReg) (b : Src) (k : KReg)
  -- 07 R171
  | vcmpEq (d : KReg) (a : VReg) (b : Src) (k : KReg)
  | vcmpNe (d : KReg) (a : VReg) (b : Src) (k : KReg)
  | vcmpLt (d : KReg) (a : VReg) (b : Src) (k : KReg)
  | vcmpGe (d : KReg) (a : VReg) (b : Src) (k : KReg)
  | vcmpLtn (d : KReg) (a : VReg) (b : Src) (k : KReg)
  | vcmpGen (d : KReg) (a : VReg) (b : Src) (k : KReg)
  -- 07 R172
  | vmerge (d a : VReg) (b : Src) (k : KReg)
  -- 07 R173
  | vmv (d : VReg) (b : Src) (k : KReg)
  -- 07 R174
  | vfadd (d a : VReg) (b : Src) (k : KReg)
  | vfsub (d a : VReg) (b : Src) (k : KReg)
  | vfmul (d a : VReg) (b : Src) (k : KReg)
  | vfdiv (d a : VReg) (b : Src) (k : KReg)
  | vfsqrt (d : VReg) (b : Src) (k : KReg)
  | vfmin (d a : VReg) (b : Src) (k : KReg)
  | vfmax (d a : VReg) (b : Src) (k : KReg)
  -- 07 R171
  | vfcmpEq (d : KReg) (a : VReg) (b : Src) (k : KReg)
  | vfcmpNe (d : KReg) (a : VReg) (b : Src) (k : KReg)
  | vfcmpLt (d : KReg) (a : VReg) (b : Src) (k : KReg)
  | vfcmpLe (d : KReg) (a : VReg) (b : Src) (k : KReg)
  -- 07 R175
  | vfexp2 (d : VReg) (b : Src) (k : KReg)
  | vfrcp (d : VReg) (b : Src) (k : KReg)
  | vfrsq (d : VReg) (b : Src) (k : KReg)
  -- 07 R174
  | vfma (d a : VReg) (b : Src) (k : KReg)
  | vfnma (d a : VReg) (b : Src) (k : KReg)
  -- 07 R176
  | vfcvt (d : VReg) (src : ElemTy) (b : Src) (k : KReg)
  -- 07 R177
  | kand (d a b : KReg)
  | kor (d a b : KReg)
  | kxor (d a b : KReg)
  | knot (d b : KReg)
  | kpopc (d : GReg) (a b : KReg)
  | kfirst (d : GReg) (a b : KReg)
  | kmov (d b : KReg)
  -- 07 R184
  | vredsum (d a : GReg) (b : Src) (k : KReg)
  | vredmax (d a : GReg) (b : Src) (k : KReg)
  | vredmin (d a : GReg) (b : Src) (k : KReg)
  | vfredsum (d a : GReg) (b : Src) (k : KReg)
  | vfredo (d a : GReg) (b : Src) (k : KReg)
  -- 07 R178
  | vslideup (d a : VReg) (b : Src) (k : KReg)
  | vslidedn (d a : VReg) (b : Src) (k : KReg)
  -- 07 R179
  | vperm (d a : VReg) (b : Src) (k : KReg)
  -- 07 R180
  | vcompress (d : VReg) (b : Src) (k : KReg)
  | vexpand (d : VReg) (b : Src) (k : KReg)
  -- 07 R181
  | viota (d : VReg) (b k : KReg)
  -- 07 R182
  | vbcast (d : VReg) (b : Src) (k : KReg)
  -- 07 R183
  | vextr (d : GReg) (a : VReg) (b : Src)
  | vins (d : VReg) (a : GReg) (b : Src) (k : KReg)
  -- 08 R188
  | vld (d : VReg) (a : GReg) (off : BitVec 5) (k : KReg)
  -- 08 R191
  | vldSc (d : VReg) (a : GReg) (off : BitVec 5) (k : KReg)
  -- 08 R188
  | vlds (d : VReg) (a b : GReg) (k : KReg)
  | vldx (d : VReg) (a : GReg) (b : VReg) (k : KReg)
  | vst (d : VReg) (a : GReg) (off : BitVec 5) (k : KReg)
  -- 08 R191
  | vstSc (d : VReg) (a : GReg) (off : BitVec 5) (k : KReg)
  -- 08 R188
  | vsts (d : VReg) (a b : GReg) (k : KReg)
  | vstx (d : VReg) (a : GReg) (b : VReg) (k : KReg)
  -- 01 R23
  | vldq (q : BitVec 2) (a : GReg) (off : BitVec 5) (k : KReg)
  | vldqStrided (q : BitVec 2) (a b : GReg) (k : KReg)
  | vldqIndexed (q : BitVec 2) (a : GReg) (b : VReg) (k : KReg)
  -- 08 R206
  | vamoadd (d : VReg) (a : GReg) (b : VAddr) (k : KReg)
  | vamoand (d : VReg) (a : GReg) (b : VAddr) (k : KReg)
  | vamoor (d : VReg) (a : GReg) (b : VAddr) (k : KReg)
  | vamoxor (d : VReg) (a : GReg) (b : VAddr) (k : KReg)
  | vamomin (d : VReg) (a : GReg) (b : VAddr) (k : KReg)
  | vamomax (d : VReg) (a : GReg) (b : VAddr) (k : KReg)
  | vamoswp (d : VReg) (a : GReg) (b : VAddr) (k : KReg)
  | vpostadd (a : GReg) (b : VAddr) (k : KReg)
  | vpostand (a : GReg) (b : VAddr) (k : KReg)
  | vpostor (a : GReg) (b : VAddr) (k : KReg)
  | vpostxor (a : GReg) (b : VAddr) (k : KReg)
  | vpostmin (a : GReg) (b : VAddr) (k : KReg)
  | vpostmax (a : GReg) (b : VAddr) (k : KReg)
  | vpostswp (a : GReg) (b : VAddr) (k : KReg)
  -- 08 R208
  | vcapp (a : GReg) (k : KReg)
  -- 08 R201
  | vldz (d : VReg) (a p : GReg) (k : KReg) (off : BitVec 32)
  -- 08 R202
  | vstz (d : VReg) (a p : GReg) (k : KReg) (off : BitVec 32)
  -- 08 R205
  | vcopy (d a : GReg) (k : KReg)
  | vfill (d p : GReg) (k : KReg)
  -- 08 R192
  | vldsImmediate (d : VReg) (a : GReg) (k : KReg) (stride : BitVec 32)
  | vstsImmediate (d : VReg) (a : GReg) (k : KReg) (stride : BitVec 32)
  -- 09 R217
  | mcfg (tiles : BitVec 4) (fmt : ElemTy) (sc int32 : Bool) (m n : BitVec 7)
  -- 09 R219
  | mma (c : Acc) (a b : VReg)
  -- 09 R218
  | mzero (c : Acc)
  -- 09 R213
  | mrel (c : Acc)
  -- 09 R221
  | mdrain (c : Acc) (a p : GReg) (row : BitVec 6) (rows : BitVec 7) (k : KReg)
  | mdrainx (c : Acc) (a : GReg) (p : VReg) (row : BitVec 6) (rows : BitVec 7) (k : KReg)
  -- 09 R222
  | mldacc (c : Acc) (a p : GReg) (row : BitVec 6) (rows : BitVec 7)
  -- 10 R233
  | rld (d a p : GReg) (sz : Size) (s : Status) (off : BitVec 23)
  | rst (c a p : GReg) (sz : Size) (s : Status) (off : BitVec 23)
  | ramoadd (d c a p : GReg) (sz : WSize) (s : Status) (off : BitVec 23)
  | ramoand (d c a p : GReg) (sz : WSize) (s : Status) (off : BitVec 23)
  | ramoor (d c a p : GReg) (sz : WSize) (s : Status) (off : BitVec 23)
  | ramoxor (d c a p : GReg) (sz : WSize) (s : Status) (off : BitVec 23)
  | ramomin (d c a p : GReg) (sz : WSize) (s : Status) (off : BitVec 23)
  | ramomax (d c a p : GReg) (sz : WSize) (s : Status) (off : BitVec 23)
  | ramoswp (d c a p : GReg) (sz : WSize) (s : Status) (off : BitVec 23)
  | ramocas (d c a p : GReg) (sz : WSize) (s : Status) (off : BitVec 23)
  -- 10 R234
  | rfence
  -- 10 R237
  | rldx (d a p : VReg) (k : KReg) (s : KStatus)
  | rstx (d a p : VReg) (k : KReg) (s : KStatus)
  -- 10 R239
  | rapp (d : VReg) (a : GReg) (p : VReg) (k : KReg) (s : KStatus)
  -- 10 R235
  | rbatch
  | rwait (n : BitVec 5)
  -- 10 R241
  | barrive (a : GReg)
  -- 10 R242
  | bwait (d a : GReg)
  -- 10 R245
  | trigger
  -- 01 R16
  | nexts
  -- 10 R246
  | launch (d a : GReg) (q : BitVec 10)
  | crec (d a : GReg)
  -- 11 R265
  | fswap (a : GReg)
  -- 11 R267
  | fdrain (a : GReg)
  -- 11 R268
  | fstat (d : GReg)
  -- 11 R269
  | fpush (a b : GReg)
  | fpop (d a : GReg)
  -- 11 R264
  | fload (a : GReg) (off : BitVec 32)
  -- 11 R273
  | sopen (d a : GReg) (e : Engine) (wr : Bool) (pol : Policy)
  -- 11 R274
  | sbind (d : GReg) (e : Engine) (t : BindTarget)
  -- 11 R277
  | sclose (d : GReg) (e : Engine)
  | sstat (d : GReg) (e : Engine)
  -- 12 R278
  | wdrive (a : GReg) (off : BitVec 32)
  -- 12 R288
  | wbMma (hdr : BitVec 512)
  -- 12 R290
  | wbAdd (hdr : BitVec 512)
  | wbScale (hdr : BitVec 512)
  | wbAct (hdr : BitVec 512)
  -- 12 R291
  | wbDrain (hdr : BitVec 512)
  -- 12 R289
  | wbBranch (hdr : BitVec 512)
  | wbCall (hdr : BitVec 512)
  | wbRet (hdr : BitVec 512)
  -- 12 R291
  | wbSync (hdr : BitVec 512)
  -- 12 R287
  | wbNop (hdr : BitVec 512)
  | wbExit (hdr : BitVec 512)
  -- 12 R295
  | weightBlockPost
  -- 15 R307
  | interruptEntry
  -- 02 R51
  | userLevelInterrupt
  -- 15 R304
  | scountZero
  -- 15 R314
  | safePointDistanceFault
  -- 06 R150
  | wfeTimeLimit
  -- 16 R328
  | ctxidWrite
  -- 15 R305
  | vlWrite
  | vtypeWrite
  -- 17 R352
  | vlpWrite
  -- 02 R41
  | fflagsWrite
  | vesWrite
  -- 19 R408
  | validityFieldWrite
  -- 06 R146
  | registerWrite
  -- 21 R414
  | pinfo
  | logread
  | peerreg
  | fabesc
  | attest
  -- 18 R385
  | qpopen
  | qpclose
  -- 17 R346
  | workQueueDoorbell
  -- 17 R349
  | packetTake
  -- 17 R351
  | hartPlacement
  -- 17 R358
  | farmCompletion
  -- 18 R382
  | killNotice
  | killAcknowledgement
  | killAcknowledgementTimeout
  -- 18 R362
  | fillRequest
  | writeRequest
  | evictionNotice
  | invalidation
  | invalidationAcknowledgement
  -- 18 R365
  | fillResponse
  -- 18 R362
  | writeAcknowledgement
  -- 18 R369
  | holdAcknowledgement
  -- 18 R363
  | requestRefusal
  | retryBackoffExpiry
  -- 18 R377
  | hostRequest
  | backInvalidateResponse
  -- 16 R342
  | hostSnoop
  -- 04 R78
  | writeCombineFlush
  -- 18 R366
  | reservationRegistration
  -- 18 R368
  | cutNotice
  -- 18 R369
  | reservationFree
  -- 10 R229
  | subBatchArrival
  -- 10 R233
  | remoteReply
  -- 04 R96
  | batchCompletion
  -- 10 R240
  | barrierArrival
  -- 11 R275
  | streamReadElement
  | streamWriteElement
  -- 11 R249
  | peFire
  -- 11 R417
  | tokenTransfer
  -- 11 R260
  | fabricFaultDelivery
  -- 11 R266
  | peQuiescence
  | regionDrained
  -- 11 R264
  | stagingComplete
  -- 11 R265
  | swapComplete
  -- 19 R399
  | clusterRetirement
  -- 19 R400
  | guardBandRaise
  -- 19 R401
  | tileDeconfiguration
  -- 21 R416
  | thermalStop
  -- 19 R404
  | healthMonitorSample
  | healthMonitorClear
  -- 21 R409
  | powerOn
  -- 18 R389
  | sendQueueDoorbell
  | receiveQueueDoorbell
  | completionQueueDoorbell
  -- 18 R386
  | send
  | sendWithImmediate
  | rdmaWrite
  | rdmaWriteWithImmediate
  | rdmaRead
  | incomingSend
  -- 18 R388
  | incomingRdmaWrite
  | incomingRdmaRead
  -- 18 R390
  | ack
  | sequenceErrorNak
  | receiverNotReadyNak
  -- 18 R388
  | remoteAccessNak
  -- 18 R390
  | ackTimeout
  | rnrWaitExpiry
  | congestionNotificationPacket
  | ceMarkedPacket
  | rateRecovery
  | priorityFlowControl
  -- 01 R18
  | vectorInstructionRetirement
  -- 10 R228
  | peerUnreachable
  -- 19 R403
  | powerLoss
  -- 18 R386
  | rdmaReadResponse
  -- 18 R387
  | remoteOperationNak
  -- 21 R412
  | hostLinkTraining
  -- 04 R99
  | cxlCacheResponse
  deriving DecidableEq, Repr

/-- An event with its operands: a step of an agent other than a hart's instruction stream, or of a hart beside its
stream. -/
inductive Event where
  -- 12 R295
  | weightBlockPost (t : Nat)
  -- 15 R307
  | interruptEntry (h : HartId)
  -- 02 R51
  | userLevelInterrupt (h : HartId)
  -- 15 R304
  | scountZero (h : HartId)
  -- 15 R314
  | safePointDistanceFault (h : HartId)
  -- 06 R150
  | wfeTimeLimit (h : HartId)
  -- 16 R328
  | ctxidWrite (v : Word)
  -- 15 R305
  | vlWrite (v : Word)
  | vtypeWrite (v : Word)
  -- 17 R352
  | vlpWrite (v : Word)
  -- 02 R41
  | fflagsWrite (v : Word)
  | vesWrite (v : Word)
  -- 19 R408
  | validityFieldWrite (n : BitVec 12) (v : Word)
  -- 06 R146
  | registerWrite (r : RegTarget) (v : Word)
  -- 21 R414
  | pinfo (h : HartId)
  | logread (h : HartId)
  | peerreg (h : HartId)
  | fabesc (h : HartId)
  | attest (h : HartId)
  -- 18 R385
  | qpopen (h : HartId)
  | qpclose (h : HartId)
  -- 17 R346
  | workQueueDoorbell (q : Nat) (v : Word)
  -- 17 R349
  | packetTake (q : Nat)
  -- 17 R351
  | hartPlacement (farm : Nat)
  -- 17 R358
  | farmCompletion (farm : Nat)
  -- 18 R382
  | killNotice (peer ctx : BitVec 16)
  | killAcknowledgement (peer ctx : BitVec 16)
  | killAcknowledgementTimeout (peer ctx : BitVec 16)
  -- 18 R362
  | fillRequest (q : HomeReq)
  | writeRequest (q : HomeReq)
  | evictionNotice (line tile : Nat)
  | invalidation (line tile : Nat)
  | invalidationAcknowledgement (line tile : Nat)
  -- 18 R365
  | fillResponse (q : HomeReq) (cacheable : Bool)
  -- 18 R362
  | writeAcknowledgement (q : HomeReq) (old : Word)
  -- 18 R369
  | holdAcknowledgement (q : HomeReq)
  -- 18 R363
  | requestRefusal (q : HomeReq)
  | retryBackoffExpiry (q : HomeReq)
  -- 18 R377
  | hostRequest (addr : Nat) (data : Option (List Byte))
  | backInvalidateResponse (line : Nat)
  -- 16 R342
  | hostSnoop (line : Nat) (data : List Byte)
  -- 04 R78
  | writeCombineFlush (h : HartId) (line : Nat)
  -- 18 R366
  | reservationRegistration (tile : Nat) (e : Engine) (line : Nat)
  -- 18 R368
  | cutNotice (tile : Nat) (e : Engine)
  -- 18 R369
  | reservationFree (tile : Nat) (e : Engine)
  -- 10 R229
  | subBatchArrival (b : SubBatch)
  -- 10 R233
  | remoteReply (h : HartId) (batch : Nat) (peer : BitVec 16) (res : List RemoteResult) (intact : Bool)
  -- 04 R96
  | batchCompletion (h : HartId) (batch : Nat)
  -- 10 R240
  | barrierArrival (addr : Nat) (good : Bool)
  -- 11 R275
  | streamReadElement (tile : Nat) (e : Engine)
  | streamWriteElement (tile : Nat) (e : Engine)
  -- 11 R249
  | peFire (tile : Nat) (pe : BitVec 6)
  -- 11 R417
  | tokenTransfer (tile : Nat) (pe : BitVec 6) (ch : BitVec 2)
  -- 11 R260
  | fabricFaultDelivery (h : HartId)
  -- 11 R266
  | peQuiescence (tile : Nat) (pe : BitVec 6)
  | regionDrained (tile region : Nat)
  -- 11 R264
  | stagingComplete (tile : Nat)
  -- 11 R265
  | swapComplete (tile : Nat)
  -- 19 R399
  | clusterRetirement (tile : Nat) (cluster : BitVec 3)
  -- 19 R400
  | guardBandRaise (domain : Nat)
  -- 19 R401
  | tileDeconfiguration (tile : Nat)
  -- 21 R416
  | thermalStop (tile : Nat) (sample : BitVec 32)
  -- 19 R404
  | healthMonitorSample (tile : Nat) (m : BitVec 2) (v : BitVec 32)
  | healthMonitorClear (tile : Nat) (m : BitVec 2)
  -- 21 R409
  | powerOn
  -- 18 R389
  | sendQueueDoorbell (port qp : Nat) (v : Word)
  | receiveQueueDoorbell (port qp : Nat) (v : Word)
  | completionQueueDoorbell (port qp : Nat) (v : Word)
  -- 18 R386
  | send (port qp : Nat)
  | sendWithImmediate (port qp : Nat)
  | rdmaWrite (port qp : Nat)
  | rdmaWriteWithImmediate (port qp : Nat)
  | rdmaRead (port qp : Nat)
  | incomingSend (port : Nat) (qpn : BitVec 24) (data : List Byte) (imm : Option (BitVec 32))
  -- 18 R388
  | incomingRdmaWrite (port : Nat) (qpn : BitVec 24) (key : BitVec 32) (addr : Nat) (data : List Byte) (imm : Option (BitVec 32))
  | incomingRdmaRead (port : Nat) (qpn : BitVec 24) (key : BitVec 32) (addr len : Nat)
  -- 18 R390
  | ack (port : Nat) (qpn : BitVec 24) (psn : BitVec 24)
  | sequenceErrorNak (port : Nat) (qpn : BitVec 24) (psn : BitVec 24)
  | receiverNotReadyNak (port : Nat) (qpn : BitVec 24) (psn : BitVec 24)
  -- 18 R388
  | remoteAccessNak (port : Nat) (qpn : BitVec 24) (psn : BitVec 24)
  -- 18 R390
  | ackTimeout (port qp : Nat)
  | rnrWaitExpiry (port qp : Nat)
  | congestionNotificationPacket (port : Nat) (qpn : BitVec 24)
  | ceMarkedPacket (port : Nat) (qpn : BitVec 24)
  | rateRecovery (port qp : Nat)
  | priorityFlowControl (port : Nat) (prio : BitVec 3) (pause sent : Bool)
  -- 01 R18
  | vectorInstructionRetirement (h : HartId)
  -- 10 R228
  | peerUnreachable (h : HartId) (batch : Nat) (peer : BitVec 16)
  -- 19 R403
  | powerLoss
  -- 18 R386
  | rdmaReadResponse (port : Nat) (qpn : BitVec 24) (data : List Byte)
  -- 18 R387
  | remoteOperationNak (port : Nat) (qpn : BitVec 24) (psn : BitVec 24)
  -- 21 R412
  | hostLinkTraining
  -- 04 R99
  | cxlCacheResponse (id : Nat)
  deriving DecidableEq, Repr

/-- The row of the opcode table that an event belongs to. -/
def Event.row : Event → Instr
  | .weightBlockPost _ => .weightBlockPost
  | .interruptEntry _ => .interruptEntry
  | .userLevelInterrupt _ => .userLevelInterrupt
  | .scountZero _ => .scountZero
  | .safePointDistanceFault _ => .safePointDistanceFault
  | .wfeTimeLimit _ => .wfeTimeLimit
  | .ctxidWrite _ => .ctxidWrite
  | .vlWrite _ => .vlWrite
  | .vtypeWrite _ => .vtypeWrite
  | .vlpWrite _ => .vlpWrite
  | .fflagsWrite _ => .fflagsWrite
  | .vesWrite _ => .vesWrite
  | .validityFieldWrite _ _ => .validityFieldWrite
  | .registerWrite _ _ => .registerWrite
  | .pinfo _ => .pinfo
  | .logread _ => .logread
  | .peerreg _ => .peerreg
  | .fabesc _ => .fabesc
  | .attest _ => .attest
  | .qpopen _ => .qpopen
  | .qpclose _ => .qpclose
  | .workQueueDoorbell _ _ => .workQueueDoorbell
  | .packetTake _ => .packetTake
  | .hartPlacement _ => .hartPlacement
  | .farmCompletion _ => .farmCompletion
  | .killNotice _ _ => .killNotice
  | .killAcknowledgement _ _ => .killAcknowledgement
  | .killAcknowledgementTimeout _ _ => .killAcknowledgementTimeout
  | .fillRequest _ => .fillRequest
  | .writeRequest _ => .writeRequest
  | .evictionNotice _ _ => .evictionNotice
  | .invalidation _ _ => .invalidation
  | .invalidationAcknowledgement _ _ => .invalidationAcknowledgement
  | .fillResponse _ _ => .fillResponse
  | .writeAcknowledgement _ _ => .writeAcknowledgement
  | .holdAcknowledgement _ => .holdAcknowledgement
  | .requestRefusal _ => .requestRefusal
  | .retryBackoffExpiry _ => .retryBackoffExpiry
  | .hostRequest _ _ => .hostRequest
  | .backInvalidateResponse _ => .backInvalidateResponse
  | .hostSnoop _ _ => .hostSnoop
  | .writeCombineFlush _ _ => .writeCombineFlush
  | .reservationRegistration _ _ _ => .reservationRegistration
  | .cutNotice _ _ => .cutNotice
  | .reservationFree _ _ => .reservationFree
  | .subBatchArrival _ => .subBatchArrival
  | .remoteReply _ _ _ _ _ => .remoteReply
  | .batchCompletion _ _ => .batchCompletion
  | .barrierArrival _ _ => .barrierArrival
  | .streamReadElement _ _ => .streamReadElement
  | .streamWriteElement _ _ => .streamWriteElement
  | .peFire _ _ => .peFire
  | .tokenTransfer _ _ _ => .tokenTransfer
  | .fabricFaultDelivery _ => .fabricFaultDelivery
  | .peQuiescence _ _ => .peQuiescence
  | .regionDrained _ _ => .regionDrained
  | .stagingComplete _ => .stagingComplete
  | .swapComplete _ => .swapComplete
  | .clusterRetirement _ _ => .clusterRetirement
  | .guardBandRaise _ => .guardBandRaise
  | .tileDeconfiguration _ => .tileDeconfiguration
  | .thermalStop _ _ => .thermalStop
  | .healthMonitorSample _ _ _ => .healthMonitorSample
  | .healthMonitorClear _ _ => .healthMonitorClear
  | .powerOn => .powerOn
  | .sendQueueDoorbell _ _ _ => .sendQueueDoorbell
  | .receiveQueueDoorbell _ _ _ => .receiveQueueDoorbell
  | .completionQueueDoorbell _ _ _ => .completionQueueDoorbell
  | .send _ _ => .send
  | .sendWithImmediate _ _ => .sendWithImmediate
  | .rdmaWrite _ _ => .rdmaWrite
  | .rdmaWriteWithImmediate _ _ => .rdmaWriteWithImmediate
  | .rdmaRead _ _ => .rdmaRead
  | .incomingSend _ _ _ _ => .incomingSend
  | .incomingRdmaWrite _ _ _ _ _ _ => .incomingRdmaWrite
  | .incomingRdmaRead _ _ _ _ _ => .incomingRdmaRead
  | .ack _ _ _ => .ack
  | .sequenceErrorNak _ _ _ => .sequenceErrorNak
  | .receiverNotReadyNak _ _ _ => .receiverNotReadyNak
  | .remoteAccessNak _ _ _ => .remoteAccessNak
  | .ackTimeout _ _ => .ackTimeout
  | .rnrWaitExpiry _ _ => .rnrWaitExpiry
  | .congestionNotificationPacket _ _ => .congestionNotificationPacket
  | .ceMarkedPacket _ _ => .ceMarkedPacket
  | .rateRecovery _ _ => .rateRecovery
  | .priorityFlowControl _ _ _ _ => .priorityFlowControl
  | .vectorInstructionRetirement _ => .vectorInstructionRetirement
  | .peerUnreachable _ _ _ => .peerUnreachable
  | .powerLoss => .powerLoss
  | .rdmaReadResponse _ _ _ => .rdmaReadResponse
  | .remoteOperationNak _ _ _ => .remoteOperationNak
  | .hostLinkTraining => .hostLinkTraining
  | .cxlCacheResponse _ => .cxlCacheResponse


end Sys2Proof
end

