-- ==== Sys2Proof/Config.lean ====
section
/-! DEFINITION. What the spec leaves open, as constants without a body: nothing can be proved of a value they take. Each is
named in a log entry. -/

namespace Sys2Proof.Config

/-- The tile clocks that the n-th step takes (00 R5; log 6). -/
opaque clocks : Nat → Nat

/-- Which neighbour of an inexact result an approximate function returns, by operation and operand bits: true for the one
farther from zero (07 R175; log 11). -/
opaque farNeighbour : Nat → Nat → Bool

/-- The n-th unpredictable byte of a sub-batch that failed its check (10 R232; log 13). -/
opaque freeByte : Nat → Byte

/-- The hash that spreads lines, or pages, over home slices, by home policy (16 R334; log 12). -/
opaque homeHash : Nat → Nat → Nat

/-- The base die whose HBM4E controllers hold a page, by the aligned 16 GiB that hold it (16 R334; log 12). -/
opaque dieOfPage : Nat → Nat

/-- What the n-th read of a host register gives (16 R342; log 16). -/
opaque hostRegister : Nat → Nat

/-- Which of several parked hart indices of a context a hart takes up when it resumes the context (17 R354; log 23). -/
opaque resumed : Nat → Nat

/-- SEV of the record kinds for which 19 R405 and R406 do not settle it (log 24). -/
opaque severity : Nat → BitVec 8

/-- SHA-384 of a list of bytes (21 R414; log 14). -/
opaque sha384 : List Byte → BitVec 384

/-- SHA-384 of the firmware image of a version (21 R414; log 14). -/
opaque imageDigest : BitVec 32 → BitVec 384

/-- The device identity key's signature of a list of bytes (21 R410, R414; log 14). -/
opaque attestSignature : List Byte → BitVec 768

/-- What a queue entry that cannot be read gives for its completion (18 R387; log 25). -/
opaque unreadEntry : Nat → Nat

/-- Whether 50 µs have passed since the last congestion notification packet of a queue pair (18 R390; log 26). -/
opaque notificationDue : Nat → Bool

/-- The index under which a home keeps the reservation entry of a tile's engine (18 R361; log 31). -/
opaque reservationIndex : Nat → Nat → BitVec 4

/-- Bits 47:0 of what PINFO answers for a range of 2^48 bytes or more, by its length: the spec states no result (21 R414; log 43). -/
opaque longRange : Nat → Nat

end Sys2Proof.Config
end

