-- ==== Sys2Proof/WellFormed.lean ====
section
/-! DEFINITION. Which instructions the encoding admits (05 R104): the checks that the operand types do not already make. -/

namespace Sys2Proof

/-- The source kinds that a register or a queue head supply (07 R179, R180, R184). -/
def Src.isVec : Src → Bool
  | .v _ | .q _ => true
  | _ => false

/-- The source kinds of an index or offset (07 R178, R183): a negative immediate is reserved. -/
def Src.isIndex : Src → Bool
  | .g _ => true
  | .imm i => !i.msb
  | _ => false

/-- An instruction whose fields hold no reserved combination (05 R104). -/
def Instr.wellFormed : Instr → Bool
  | .ldaq _ _ n sz _ => !(n && sz == .d)
  | .fcvtToFloat _ _ f src => src != .float f
  | .fence o _ => o != .rlx
  | .vmerge _ _ _ k => k != 0
  | .vfcvt _ _ b _ => match b with | .imm _ => false | _ => true
  | .vredsum _ _ b _ | .vredmax _ _ b _ | .vredmin _ _ b _ | .vfredsum _ _ b _ | .vfredo _ _ b _ => b.isVec
  | .vperm _ _ b _ | .vcompress _ b _ | .vexpand _ b _ => b.isVec
  | .vslideup _ _ b _ | .vslidedn _ _ b _ | .vextr _ _ b | .vins _ _ b _ => b.isIndex
  | .vbcast _ b _ => match b with | .q _ => false | _ => true
  | _ => true

end Sys2Proof
end

