-- ==== Sys2Proof/Decode.lean ====
section
/-! DEFINITION. The decoder and the encoder of the instruction words (spec 05). A word is a natural number below 2^32.
The decoder is total: what is not an instruction is rejected under the name of the clause of R104 it breaks. -/

namespace Sys2Proof

/-- Why words are not an instruction (05 R104). -/
inductive Reject where
  | reservedMajor
  | reservedFunction
  | reservedField
  | reservedValue
  | truncated
  deriving DecidableEq, Repr

/-- What the decoder answers. -/
inductive Decoded where
  | instr (i : Instr)
  | reserved (r : Reject)
  deriving DecidableEq, Repr

/-- The instruction, if there is one. -/
def Decoded.toOption : Decoded → Option Instr
  | .instr i => some i
  | .reserved _ => none

/-- Bits lo + n − 1 down to lo of w. -/
def fld (w lo n : Nat) : Nat := w / 2 ^ lo % 2 ^ n

/-- The d field (05 R103). -/
def fldD (w : Nat) : BitVec 5 := BitVec.ofNat 5 (w / 2 ^ 7)
/-- The a field (05 R103). -/
def fldA (w : Nat) : BitVec 5 := BitVec.ofNat 5 (w / 2 ^ 12)
/-- The b field of a short form and the p field of a long form (05 R103). -/
def fldB (w : Nat) : BitVec 5 := BitVec.ofNat 5 (w / 2 ^ 17)
/-- The c field (05 R103). -/
def fldC (w : Nat) : BitVec 5 := BitVec.ofNat 5 (w / 2 ^ 22)
/-- The k field of FV and of long major 0x05 (05 R103, R116). -/
def fldK (w : Nat) : BitVec 3 := BitVec.ofNat 3 (w / 2 ^ 22)

/-- The instruction if a condition holds, else a rejection. -/
def need (c : Bool) (r : Reject) (k : Decoded) : Decoded := if c then k else .reserved r

/-- A decoded operand, or a rejection where its code is reserved. -/
def withVal {α : Type} (o : Option α) (k : α → Decoded) : Decoded :=
  match o with
  | some a => k a
  | none => .reserved .reservedValue

/-- Scope codes (04 R82). -/
def scopeOf : Nat → Option Scope
  | 0 => some .hart
  | 1 => some .tile
  | 2 => some .die
  | 3 => some .pkg
  | 4 => some .sys
  | _ => none

/-- Scope codes (04 R82). -/
def Scope.code : Scope → Nat
  | .hart => 0
  | .tile => 1
  | .die => 2
  | .pkg => 3
  | .sys => 4

/-- Ordering codes (04 R83). -/
def memOrdOf : Nat → Option MemOrd
  | 0 => some .rlx
  | 1 => some .acq
  | 2 => some .rel
  | 3 => some .ar
  | _ => none

/-- Ordering codes (04 R83). -/
def MemOrd.code : MemOrd → Nat
  | .rlx => 0
  | .acq => 1
  | .rel => 2
  | .ar => 3

/-- Size codes (05 R109). -/
def sizeOf : Nat → Option Size
  | 0 => some .b
  | 1 => some .h
  | 2 => some .w
  | 3 => some .d
  | _ => none

/-- Size codes (05 R109). -/
def Size.code : Size → Nat
  | .b => 0
  | .h => 1
  | .w => 2
  | .d => 3

/-- Size codes of the atomics (05 R109). -/
def wSizeOf : Nat → Option WSize
  | 0 => some .w
  | 1 => some .d
  | _ => none

/-- Size codes of the atomics (05 R109). -/
def WSize.code : WSize → Nat
  | .w => 0
  | .d => 1

/-- Format codes of scalar floating point (05 R111). -/
def fFmtOf : Nat → Option FFmt
  | 0 => some .fp64
  | 1 => some .fp32
  | 2 => some .fp16
  | 3 => some .bf16
  | _ => none

/-- Format codes of scalar floating point (05 R111). -/
def FFmt.code : FFmt → Nat
  | .fp64 => 0
  | .fp32 => 1
  | .fp16 => 2
  | .bf16 => 3

/-- Auxiliary codes of FCMP (05 R111). -/
def fCmpCondOf : Nat → Option FCmpCond
  | 0 => some .eq
  | 1 => some .lt
  | 2 => some .le
  | 3 => some .uno
  | _ => none

/-- Auxiliary codes of FCMP (05 R111). -/
def FCmpCond.code : FCmpCond → Nat
  | .eq => 0
  | .lt => 1
  | .le => 2
  | .uno => 3

/-- Integer type codes of FCVT less 4 (05 R111). -/
def intTyOf : Nat → Option IntTy
  | 0 => some .i64
  | 1 => some .n64
  | 2 => some .i32
  | 3 => some .n32
  | _ => none

/-- Integer type codes of FCVT less 4 (05 R111). -/
def IntTy.code : IntTy → Nat
  | .i64 => 0
  | .n64 => 1
  | .i32 => 2
  | .n32 => 3

/-- FMT codes (02 R42). -/
def elemTyOf : Nat → Option ElemTy
  | 0 => some .i8
  | 1 => some .n8
  | 2 => some .i16
  | 3 => some .n16
  | 4 => some .i32
  | 5 => some .n32
  | 6 => some .i64
  | 7 => some .n64
  | 8 => some .fp64
  | 9 => some .fp32
  | 10 => some .bf16
  | 11 => some .fp16
  | 12 => some .e4m3
  | 13 => some .e5m2
  | 14 => some .e2m1
  | 15 => some .i4
  | _ => none

/-- FMT codes (02 R42). -/
def ElemTy.code : ElemTy → Nat
  | .i8 => 0
  | .n8 => 1
  | .i16 => 2
  | .n16 => 3
  | .i32 => 4
  | .n32 => 5
  | .i64 => 6
  | .n64 => 7
  | .fp64 => 8
  | .fp32 => 9
  | .bf16 => 10
  | .fp16 => 11
  | .e4m3 => 12
  | .e5m2 => 13
  | .e2m1 => 14
  | .i4 => 15

/-- Policy codes of SOPEN (05 R116). -/
def policyOf : Nat → Option Policy
  | 0 => some .wait
  | 1 => some .split
  | 2 => some .trap
  | _ => none

/-- Policy codes of SOPEN (05 R116). -/
def Policy.code : Policy → Nat
  | .wait => 0
  | .split => 1
  | .trap => 2

/-- Auxiliary codes of a conversion to a float: a source format, or 4 and above an integer type (05 R111). -/
def cvtSrcOf (n : Nat) : Option CvtSrc :=
  if n < 4 then (fFmtOf n).map .float else (intTyOf (n - 4)).map .int

/-- Auxiliary codes of a conversion to a float (05 R111). -/
def CvtSrc.code : CvtSrc → Nat
  | .float f => f.code
  | .int t => t.code + 4

/-- A flag bit as a number. -/
def bit (b : Bool) : Nat := if b then 1 else 0

/-- Operand b of FV by source kind (05 R103): a queue number above 3 is a reserved value. -/
def srcOf (w : Nat) : Option Src :=
  match fld w 25 2 with
  | 0 => some (.v (fldB w))
  | 1 => some (.g (fldB w))
  | 2 => if fld w 19 3 = 0 then some (.q (BitVec.ofNat 2 (w / 2 ^ 17))) else none
  | _ => some (.imm (fldB w))

/-- The s field and the b field of operand b (05 R103). -/
def Src.code : Src → Nat
  | .v r => r.toNat * 2 ^ 17
  | .g r => 2 ^ 25 + r.toNat * 2 ^ 17
  | .q n => 2 * 2 ^ 25 + n.toNat * 2 ^ 17
  | .imm i => 3 * 2 ^ 25 + i.toNat * 2 ^ 17

/-- The address form of a vector atomic by source kind (05 R114). -/
def vAddrOf (w : Nat) : Option VAddr :=
  match fld w 25 2 with
  | 0 => some (.indexed (fldB w))
  | 1 => some (.strided (fldB w))
  | 2 => none
  | _ => some (.unit (fldB w))

/-- The s field and the b field of the address form (05 R114). -/
def VAddr.code : VAddr → Nat
  | .indexed v => v.toNat * 2 ^ 17
  | .strided b => 2 ^ 25 + b.toNat * 2 ^ 17
  | .unit i => 3 * 2 ^ 25 + i.toNat * 2 ^ 17

/-- A status register field under its S bit; with S = 0 the field must be 0 (05 R116). -/
def statusOf (s n : Nat) : Option Status :=
  if s = 1 then some (some (BitVec.ofNat 5 n)) else if n = 0 then some none else none

/-- A status k register field under its S bit; with S = 0 the field must be 0 (05 R116). -/
def kStatusOf (s n : Nat) : Option KStatus :=
  if s = 1 then some (some (BitVec.ofNat 3 n)) else if n = 0 then some none else none

/-- The target of SBIND (05 R116): the kind, the PE (0 for a queue) and the channel or queue. -/
def bindTargetOf (w1 : Nat) : Option BindTarget :=
  match fld w1 2 3 with
  | 0 => some (.fin (BitVec.ofNat 6 (w1 / 2 ^ 5)) (BitVec.ofNat 2 (w1 / 2 ^ 11)))
  | 1 => some (.fout (BitVec.ofNat 6 (w1 / 2 ^ 5)) (BitVec.ofNat 2 (w1 / 2 ^ 11)))
  | 2 => if fld w1 5 6 = 0 then some (.queue (BitVec.ofNat 2 (w1 / 2 ^ 11))) else none
  | _ => none

/-- The second-word fields of the target of SBIND (05 R116). -/
def BindTarget.code : BindTarget → Nat
  | .fin pe ch => pe.toNat * 2 ^ 5 + ch.toNat * 2 ^ 11
  | .fout pe ch => 2 ^ 2 + pe.toNat * 2 ^ 5 + ch.toNat * 2 ^ 11
  | .queue n => 2 * 2 ^ 2 + n.toNat * 2 ^ 11

/-- Major 0x01, integer register (05 R108). -/
def decodeIntReg (w : Nat) : Decoded :=
  match fld w 22 10 with
  | 0x000 => .instr (.add (fldD w) (fldA w) (fldB w))
  | 0x001 => .instr (.sub (fldD w) (fldA w) (fldB w))
  | 0x002 => .instr (.and (fldD w) (fldA w) (fldB w))
  | 0x003 => .instr (.or (fldD w) (fldA w) (fldB w))
  | 0x004 => .instr (.xor (fldD w) (fldA w) (fldB w))
  | 0x005 => .instr (.sll (fldD w) (fldA w) (fldB w))
  | 0x006 => .instr (.srl (fldD w) (fldA w) (fldB w))
  | 0x007 => .instr (.sra (fldD w) (fldA w) (fldB w))
  | 0x008 => .instr (.slt (fldD w) (fldA w) (fldB w))
  | 0x009 => .instr (.sltn (fldD w) (fldA w) (fldB w))
  | 0x00A => .instr (.min (fldD w) (fldA w) (fldB w))
  | 0x00B => .instr (.max (fldD w) (fldA w) (fldB w))
  | 0x00C => .instr (.minn (fldD w) (fldA w) (fldB w))
  | 0x00D => .instr (.maxn (fldD w) (fldA w) (fldB w))
  | 0x010 => .instr (.mul (fldD w) (fldA w) (fldB w))
  | 0x011 => .instr (.mulh (fldD w) (fldA w) (fldB w))
  | 0x012 => .instr (.mulhn (fldD w) (fldA w) (fldB w))
  | 0x013 => .instr (.div (fldD w) (fldA w) (fldB w))
  | 0x014 => .instr (.divn (fldD w) (fldA w) (fldB w))
  | 0x015 => .instr (.rem (fldD w) (fldA w) (fldB w))
  | 0x016 => .instr (.remn (fldD w) (fldA w) (fldB w))
  | 0x020 => need (fldB w = 0) .reservedField (.instr (.clz (fldD w) (fldA w)))
  | 0x021 => need (fldB w = 0) .reservedField (.instr (.ctz (fldD w) (fldA w)))
  | 0x022 => need (fldB w = 0) .reservedField (.instr (.popc (fldD w) (fldA w)))
  | 0x023 => need (fldB w = 0) .reservedField (.instr (.brev (fldD w) (fldA w)))
  | _ => .reserved .reservedFunction

/-- Major 0x08, shift immediate (05 R108). -/
def decodeShiftImm (w : Nat) : Decoded :=
  need (fld w 25 7 = 0) .reservedField <|
  match fld w 23 2 with
  | 0 => .instr (.slli (fldD w) (fldA w) (BitVec.ofNat 6 (w / 2 ^ 17)))
  | 1 => .instr (.srli (fldD w) (fldA w) (BitVec.ofNat 6 (w / 2 ^ 17)))
  | 2 => .instr (.srai (fldD w) (fldA w) (BitVec.ofNat 6 (w / 2 ^ 17)))
  | _ => .reserved .reservedValue

/-- Major 0x0B, loads and LDAQ (05 R109, 06 R132). -/
def decodeLoad (w : Nat) : Decoded :=
  need (fld w 31 1 = 0) .reservedField <|
  if fld w 30 1 = 1 then
    need (fld w 20 7 = 0) .reservedField <|
    need (fld w 27 3 ≠ 7) .reservedValue <|
    withVal (sizeOf (fld w 27 2)) fun sz => withVal (scopeOf (fld w 17 3)) fun sc =>
    .instr (.ldaq (fldD w) (fldA w) (fld w 29 1 = 1) sz sc)
  else
  match fld w 27 3 with
  | 0 => .instr (.ldb (fldD w) (fldA w) (BitVec.ofNat 10 (w / 2 ^ 17)))
  | 1 => .instr (.ldh (fldD w) (fldA w) (BitVec.ofNat 10 (w / 2 ^ 17)))
  | 2 => .instr (.ldw (fldD w) (fldA w) (BitVec.ofNat 10 (w / 2 ^ 17)))
  | 3 => .instr (.ldd (fldD w) (fldA w) (BitVec.ofNat 10 (w / 2 ^ 17)))
  | 4 => .instr (.ldbN (fldD w) (fldA w) (BitVec.ofNat 10 (w / 2 ^ 17)))
  | 5 => .instr (.ldhN (fldD w) (fldA w) (BitVec.ofNat 10 (w / 2 ^ 17)))
  | 6 => .instr (.ldwN (fldD w) (fldA w) (BitVec.ofNat 10 (w / 2 ^ 17)))
  | _ => .reserved .reservedValue

/-- Major 0x0C, stores and STREL (05 R109, 06 R132). -/
def decodeStore (w : Nat) : Decoded :=
  need (fld w 31 1 = 0) .reservedField <|
  need (fld w 29 1 = 0) .reservedValue <|
  if fld w 30 1 = 1 then
    need (fld w 20 7 = 0) .reservedField <|
    withVal (sizeOf (fld w 27 2)) fun sz => withVal (scopeOf (fld w 17 3)) fun sc =>
    .instr (.strel (fldD w) (fldA w) sz sc)
  else
  match fld w 27 2 with
  | 0 => .instr (.stb (fldD w) (fldA w) (BitVec.ofNat 10 (w / 2 ^ 17)))
  | 1 => .instr (.sth (fldD w) (fldA w) (BitVec.ofNat 10 (w / 2 ^ 17)))
  | 2 => .instr (.stw (fldD w) (fldA w) (BitVec.ofNat 10 (w / 2 ^ 17)))
  | 3 => .instr (.std (fldD w) (fldA w) (BitVec.ofNat 10 (w / 2 ^ 17)))
  | _ => .reserved .reservedValue

/-- Major 0x0D, scalar atomics (05 R109). -/
def decodeAmo (w : Nat) : Decoded :=
  withVal (memOrdOf (fld w 27 2)) fun o => withVal (scopeOf (fld w 24 3)) fun sc =>
  withVal (wSizeOf (fld w 23 1)) fun sz =>
  match fld w 29 3 with
  | 0 => need (fld w 22 1 = 0) .reservedValue (.instr (.amoadd (fldD w) (fldA w) (fldB w) o sc sz))
  | 1 => need (fld w 22 1 = 0) .reservedValue (.instr (.amoand (fldD w) (fldA w) (fldB w) o sc sz))
  | 2 => need (fld w 22 1 = 0) .reservedValue (.instr (.amoor (fldD w) (fldA w) (fldB w) o sc sz))
  | 3 => need (fld w 22 1 = 0) .reservedValue (.instr (.amoxor (fldD w) (fldA w) (fldB w) o sc sz))
  | 4 => .instr (.amomin (fldD w) (fldA w) (fldB w) o sc sz (fld w 22 1 = 1))
  | 5 => .instr (.amomax (fldD w) (fldA w) (fldB w) o sc sz (fld w 22 1 = 1))
  | 6 => need (fld w 22 1 = 0) .reservedValue (.instr (.amoswp (fldD w) (fldA w) (fldB w) o sc sz))
  | 7 => need (fld w 22 1 = 0) .reservedValue (.instr (.amocas (fldD w) (fldA w) (fldB w) o sc sz))
  | _ => .reserved .reservedFunction

/-- Major 0x0E, branches (05 R110). -/
def decodeBranch (w : Nat) : Decoded :=
  match fld w 7 5 with
  | 0 => .instr (.beq (fldA w) (fldB w) (BitVec.ofNat 10 (w / 2 ^ 22)))
  | 1 => .instr (.bne (fldA w) (fldB w) (BitVec.ofNat 10 (w / 2 ^ 22)))
  | 2 => .instr (.blt (fldA w) (fldB w) (BitVec.ofNat 10 (w / 2 ^ 22)))
  | 3 => .instr (.bge (fldA w) (fldB w) (BitVec.ofNat 10 (w / 2 ^ 22)))
  | 4 => .instr (.bltn (fldA w) (fldB w) (BitVec.ofNat 10 (w / 2 ^ 22)))
  | 5 => .instr (.bgen (fldA w) (fldB w) (BitVec.ofNat 10 (w / 2 ^ 22)))
  | _ => .reserved .reservedValue

/-- Major 0x11, scalar floating point (05 R111). -/
def decodeFp (w : Nat) : Decoded :=
  withVal (fFmtOf (fld w 25 2)) fun f =>
  match fld w 27 5 with
  | 0 => need (fld w 22 3 = 0) .reservedField (.instr (.fadd (fldD w) (fldA w) (fldB w) f))
  | 1 => need (fld w 22 3 = 0) .reservedField (.instr (.fsub (fldD w) (fldA w) (fldB w) f))
  | 2 => need (fld w 22 3 = 0) .reservedField (.instr (.fmul (fldD w) (fldA w) (fldB w) f))
  | 3 => need (fld w 22 3 = 0) .reservedField (.instr (.fdiv (fldD w) (fldA w) (fldB w) f))
  | 4 => need (fld w 22 3 = 0 ∧ fldB w = 0) .reservedField (.instr (.fsqrt (fldD w) (fldA w) f))
  | 5 => need (fld w 22 3 = 0) .reservedField (.instr (.fmin (fldD w) (fldA w) (fldB w) f))
  | 6 => need (fld w 22 3 = 0) .reservedField (.instr (.fmax (fldD w) (fldA w) (fldB w) f))
  | 7 => withVal (fCmpCondOf (fld w 22 3)) fun c => .instr (.fcmp (fldD w) (fldA w) (fldB w) f c)
  | 8 => need (fldB w = 0) .reservedField <| withVal (cvtSrcOf (fld w 22 3)) fun s =>
    need (s ≠ .float f) .reservedValue (.instr (.fcvtToFloat (fldD w) (fldA w) f s))
  | 9 => need (fldB w = 0) .reservedField <| need (fld w 24 1 = 1) .reservedValue <|
    withVal (intTyOf (fld w 22 2)) fun t => .instr (.fcvtToInteger (fldD w) (fldA w) f t)
  | 10 => need (fld w 22 3 = 0 ∧ fldB w = 0) .reservedField (.instr (.fclass (fldD w) (fldA w) f))
  | _ => .reserved .reservedFunction

/-- Major 0x12, scalar FMA (05 R111). -/
def decodeFma (w : Nat) : Decoded :=
  need (fld w 29 3 = 0) .reservedFunction <| withVal (fFmtOf (fld w 27 2)) fun f =>
  .instr (.fma (fldD w) (fldA w) (fldB w) (fldC w) f)

/-- Major 0x13, operation 4: the instructions numbered by N (05 R110). -/
def decodeSystemN (w : Nat) : Decoded :=
  match fld w 17 12 with
  | 0 => need (fldD w = 0 ∧ fldA w = 0) .reservedField (.instr .ecall)
  | 1 => need (fldD w = 0 ∧ fldA w = 0) .reservedField (.instr .ebrk)
  | 2 => need (fldD w = 0 ∧ fldA w = 0) .reservedField (.instr .trapret)
  | 3 => need (fldD w = 0 ∧ fldA w = 0) .reservedField (.instr .uret)
  | 4 => need (fldD w = 0 ∧ fldA w = 0) .reservedField (.instr .wfe)
  | 5 => need (fldD w = 0 ∧ fldA w = 0) .reservedField (.instr .halt)
  | 6 => .instr (.tlbinv (fldD w) (fldA w))
  | 7 => .instr (.cinv (fldD w) (fldA w))
  | _ => .reserved .reservedFunction

/-- Major 0x13, system (05 R110). -/
def decodeSystem (w : Nat) : Decoded :=
  match fld w 29 3 with
  | 0 => need (fldA w = 0) .reservedField (.instr (.crr (fldD w) (BitVec.ofNat 12 (w / 2 ^ 17))))
  | 1 => .instr (.crw (fldD w) (fldA w) (BitVec.ofNat 12 (w / 2 ^ 17)))
  | 2 => .instr (.crs (fldD w) (fldA w) (BitVec.ofNat 12 (w / 2 ^ 17)))
  | 3 => .instr (.crc (fldD w) (fldA w) (BitVec.ofNat 12 (w / 2 ^ 17)))
  | 4 => decodeSystemN w
  | _ => .reserved .reservedFunction

/-- Major 0x14, FENCE (05 R110); ordering code 0 is reserved (04 R83). -/
def decodeFence (w : Nat) : Decoded :=
  need (fld w 27 5 = 0 ∧ fld w 7 15 = 0) .reservedField <| need (fld w 22 2 ≠ 0) .reservedValue <|
  withVal (memOrdOf (fld w 22 2)) fun o => withVal (scopeOf (fld w 24 3)) fun sc => .instr (.fence o sc)

/-- Major 0x15, SAFEPT (05 R110). -/
def decodeSafept (w : Nat) : Decoded :=
  need (fld w 28 4 = 0 ∧ fldD w = 0) .reservedField (.instr (.safept (BitVec.ofNat 16 (w / 2 ^ 12))))

/-- Major 0x18, vector configuration (05 R112). -/
def decodeConfig (w : Nat) : Decoded :=
  match fld w 29 3 with
  | 0 => need (fld w 22 7 = 0) .reservedField (.instr (.setvl (fldD w) (fldA w) (fldB w)))
  | 1 => need (fld w 25 4 = 0) .reservedField <| withVal (elemTyOf (fld w 17 4)) fun t =>
    .instr (.setvli (fldD w) (fldA w) t (BitVec.ofNat 3 (w / 2 ^ 21)) (fld w 24 1 = 1))
  | 2 => need (fld w 17 12 = 0) .reservedField (.instr (.lpreq (fldD w) (fldA w)))
  | _ => .reserved .reservedFunction

/-- Major 0x19, vector integer A (05 R113). -/
def decodeVecIntA (w : Nat) : Decoded :=
  withVal (srcOf w) fun b =>
  match fld w 27 5 with
  | 0 => .instr (.vadd (fldD w) (fldA w) b (fldK w))
  | 1 => .instr (.vsub (fldD w) (fldA w) b (fldK w))
  | 2 => .instr (.vmul (fldD w) (fldA w) b (fldK w))
  | 3 => .instr (.vmulh (fldD w) (fldA w) b (fldK w))
  | 4 => .instr (.vmadd (fldD w) (fldA w) b (fldK w))
  | 5 => .instr (.vand (fldD w) (fldA w) b (fldK w))
  | 6 => .instr (.vor (fldD w) (fldA w) b (fldK w))
  | 7 => .instr (.vxor (fldD w) (fldA w) b (fldK w))
  | 8 => .instr (.vsll (fldD w) (fldA w) b (fldK w))
  | 9 => .instr (.vsrl (fldD w) (fldA w) b (fldK w))
  | 10 => .instr (.vsra (fldD w) (fldA w) b (fldK w))
  | 11 => .instr (.vmin (fldD w) (fldA w) b (fldK w))
  | 12 => .instr (.vmax (fldD w) (fldA w) b (fldK w))
  | 13 => .instr (.vminn (fldD w) (fldA w) b (fldK w))
  | 14 => .instr (.vmaxn (fldD w) (fldA w) b (fldK w))
  | 15 => .instr (.vsadd (fldD w) (fldA w) b (fldK w))
  | 16 => .instr (.vssub (fldD w) (fldA w) b (fldK w))
  | _ => .reserved .reservedFunction

/-- Major 0x1A, vector integer B (05 R113). -/
def decodeVecIntB (w : Nat) : Decoded :=
  withVal (srcOf w) fun b =>
  match fld w 27 5 with
  | 0 => need (fld w 10 2 = 0) .reservedValue (.instr (.vcmpEq (BitVec.ofNat 3 (w / 2 ^ 7)) (fldA w) b (fldK w)))
  | 1 => need (fld w 10 2 = 0) .reservedValue (.instr (.vcmpNe (BitVec.ofNat 3 (w / 2 ^ 7)) (fldA w) b (fldK w)))
  | 2 => need (fld w 10 2 = 0) .reservedValue (.instr (.vcmpLt (BitVec.ofNat 3 (w / 2 ^ 7)) (fldA w) b (fldK w)))
  | 3 => need (fld w 10 2 = 0) .reservedValue (.instr (.vcmpGe (BitVec.ofNat 3 (w / 2 ^ 7)) (fldA w) b (fldK w)))
  | 4 => need (fld w 10 2 = 0) .reservedValue (.instr (.vcmpLtn (BitVec.ofNat 3 (w / 2 ^ 7)) (fldA w) b (fldK w)))
  | 5 => need (fld w 10 2 = 0) .reservedValue (.instr (.vcmpGen (BitVec.ofNat 3 (w / 2 ^ 7)) (fldA w) b (fldK w)))
  | 8 => need (fldK w ≠ 0) .reservedValue (.instr (.vmerge (fldD w) (fldA w) b (fldK w)))
  | 9 => need (fldA w = 0) .reservedField (.instr (.vmv (fldD w) b (fldK w)))
  | _ => .reserved .reservedFunction

/-- Major 0x1B, vector floating point (05 R113). -/
def decodeVecFp (w : Nat) : Decoded :=
  withVal (srcOf w) fun b =>
  match fld w 27 5 with
  | 0 => .instr (.vfadd (fldD w) (fldA w) b (fldK w))
  | 1 => .instr (.vfsub (fldD w) (fldA w) b (fldK w))
  | 2 => .instr (.vfmul (fldD w) (fldA w) b (fldK w))
  | 3 => .instr (.vfdiv (fldD w) (fldA w) b (fldK w))
  | 4 => need (fldA w = 0) .reservedField (.instr (.vfsqrt (fldD w) b (fldK w)))
  | 5 => .instr (.vfmin (fldD w) (fldA w) b (fldK w))
  | 6 => .instr (.vfmax (fldD w) (fldA w) b (fldK w))
  | 8 => need (fld w 10 2 = 0) .reservedValue (.instr (.vfcmpEq (BitVec.ofNat 3 (w / 2 ^ 7)) (fldA w) b (fldK w)))
  | 9 => need (fld w 10 2 = 0) .reservedValue (.instr (.vfcmpNe (BitVec.ofNat 3 (w / 2 ^ 7)) (fldA w) b (fldK w)))
  | 10 => need (fld w 10 2 = 0) .reservedValue (.instr (.vfcmpLt (BitVec.ofNat 3 (w / 2 ^ 7)) (fldA w) b (fldK w)))
  | 11 => need (fld w 10 2 = 0) .reservedValue (.instr (.vfcmpLe (BitVec.ofNat 3 (w / 2 ^ 7)) (fldA w) b (fldK w)))
  | 12 => need (fldA w = 0) .reservedField (.instr (.vfexp2 (fldD w) b (fldK w)))
  | 13 => need (fldA w = 0) .reservedField (.instr (.vfrcp (fldD w) b (fldK w)))
  | 14 => need (fldA w = 0) .reservedField (.instr (.vfrsq (fldD w) b (fldK w)))
  | _ => .reserved .reservedFunction

/-- Major 0x1C, vector FMA (05 R113). -/
def decodeVecFma (w : Nat) : Decoded :=
  withVal (srcOf w) fun b =>
  match fld w 27 5 with
  | 0 => .instr (.vfma (fldD w) (fldA w) b (fldK w))
  | 1 => .instr (.vfnma (fldD w) (fldA w) b (fldK w))
  | _ => .reserved .reservedFunction

/-- Major 0x1D, vector convert (05 R113); source kind 11 is reserved (07 R176). -/
def decodeVecCvt (w : Nat) : Decoded :=
  need (fld w 31 1 = 0) .reservedFunction <| need (fldA w = 0) .reservedField <|
  need (fld w 25 2 ≠ 3) .reservedValue <| withVal (srcOf w) fun b =>
  withVal (elemTyOf (fld w 27 4)) fun t => .instr (.vfcvt (fldD w) t b (fldK w))

/-- Major 0x1E, mask (05 R113): the k field and s are 0, and a k number above 7 is reserved (07 R177). -/
def decodeMask (w : Nat) : Decoded :=
  need (fld w 22 5 = 0) .reservedField <| need (fld w 20 2 = 0) .reservedValue <|
  match fld w 27 5 with
  | 0 => need (fld w 10 2 = 0 ∧ fld w 15 2 = 0) .reservedValue (.instr (.kand (BitVec.ofNat 3 (w / 2 ^ 7)) (BitVec.ofNat 3 (w / 2 ^ 12)) (BitVec.ofNat 3 (w / 2 ^ 17))))
  | 1 => need (fld w 10 2 = 0 ∧ fld w 15 2 = 0) .reservedValue (.instr (.kor (BitVec.ofNat 3 (w / 2 ^ 7)) (BitVec.ofNat 3 (w / 2 ^ 12)) (BitVec.ofNat 3 (w / 2 ^ 17))))
  | 2 => need (fld w 10 2 = 0 ∧ fld w 15 2 = 0) .reservedValue (.instr (.kxor (BitVec.ofNat 3 (w / 2 ^ 7)) (BitVec.ofNat 3 (w / 2 ^ 12)) (BitVec.ofNat 3 (w / 2 ^ 17))))
  | 3 => need (fldA w = 0) .reservedField <| need (fld w 10 2 = 0) .reservedValue (.instr (.knot (BitVec.ofNat 3 (w / 2 ^ 7)) (BitVec.ofNat 3 (w / 2 ^ 17))))
  | 4 => need (fld w 15 2 = 0) .reservedValue (.instr (.kpopc (fldD w) (BitVec.ofNat 3 (w / 2 ^ 12)) (BitVec.ofNat 3 (w / 2 ^ 17))))
  | 5 => need (fld w 15 2 = 0) .reservedValue (.instr (.kfirst (fldD w) (BitVec.ofNat 3 (w / 2 ^ 12)) (BitVec.ofNat 3 (w / 2 ^ 17))))
  | 6 => need (fldA w = 0) .reservedField <| need (fld w 10 2 = 0) .reservedValue (.instr (.kmov (BitVec.ofNat 3 (w / 2 ^ 7)) (BitVec.ofNat 3 (w / 2 ^ 17))))
  | _ => .reserved .reservedFunction

/-- Major 0x1F, permutes and reductions (05 R113) with the source kinds of 07 R178 to R184; a negative immediate index is a
reserved value. -/
def decodePermute (w : Nat) : Decoded :=
  withVal (srcOf w) fun b =>
  match fld w 27 5 with
  | 0 => need (fld w 25 1 = 0) .reservedValue (.instr (.vredsum (fldD w) (fldA w) b (fldK w)))
  | 1 => need (fld w 25 1 = 0) .reservedValue (.instr (.vredmax (fldD w) (fldA w) b (fldK w)))
  | 2 => need (fld w 25 1 = 0) .reservedValue (.instr (.vredmin (fldD w) (fldA w) b (fldK w)))
  | 3 => need (fld w 25 1 = 0) .reservedValue (.instr (.vfredsum (fldD w) (fldA w) b (fldK w)))
  | 4 => need (fld w 25 1 = 0) .reservedValue (.instr (.vfredo (fldD w) (fldA w) b (fldK w)))
  | 5 => need (fld w 25 1 = 1 ∧ fld w 26 1 * fld w 21 1 = 0) .reservedValue (.instr (.vslideup (fldD w) (fldA w) b (fldK w)))
  | 6 => need (fld w 25 1 = 1 ∧ fld w 26 1 * fld w 21 1 = 0) .reservedValue (.instr (.vslidedn (fldD w) (fldA w) b (fldK w)))
  | 7 => need (fld w 25 1 = 0) .reservedValue (.instr (.vperm (fldD w) (fldA w) b (fldK w)))
  | 8 => need (fld w 25 1 = 0) .reservedValue <| need (fldA w = 0) .reservedField (.instr (.vcompress (fldD w) b (fldK w)))
  | 9 => need (fld w 25 1 = 0) .reservedValue <| need (fldA w = 0) .reservedField (.instr (.vexpand (fldD w) b (fldK w)))
  | 10 => need (fldA w = 0) .reservedField <| need (fld w 25 2 = 0 ∧ fld w 20 2 = 0) .reservedValue
    (.instr (.viota (fldD w) (BitVec.ofNat 3 (w / 2 ^ 17)) (fldK w)))
  | 11 => need (fld w 25 2 ≠ 2) .reservedValue <| need (fldA w = 0) .reservedField (.instr (.vbcast (fldD w) b (fldK w)))
  | 12 => need (fld w 25 1 = 1 ∧ fld w 26 1 * fld w 21 1 = 0) .reservedValue <| need (fldK w = 0) .reservedField (.instr (.vextr (fldD w) (fldA w) b))
  | 13 => need (fld w 25 1 = 1 ∧ fld w 26 1 * fld w 21 1 = 0) .reservedValue (.instr (.vins (fldD w) (fldA w) b (fldK w)))
  | _ => .reserved .reservedFunction

/-- Major 0x20, vector loads (05 R114, 08 R185). -/
def decodeVecLoad (w : Nat) : Decoded :=
  need (fld w 28 4 = 0) .reservedField <|
  match fld w 25 2 with
  | 3 => if fld w 27 1 = 1 then .instr (.vldSc (fldD w) (fldA w) (fldB w) (fldK w))
    else .instr (.vld (fldD w) (fldA w) (fldB w) (fldK w))
  | 1 => need (fld w 27 1 = 0) .reservedField (.instr (.vlds (fldD w) (fldA w) (fldB w) (fldK w)))
  | 0 => need (fld w 27 1 = 0) .reservedField (.instr (.vldx (fldD w) (fldA w) (fldB w) (fldK w)))
  | _ => .reserved .reservedValue

/-- Major 0x21, vector stores (05 R114, 08 R185). -/
def decodeVecStore (w : Nat) : Decoded :=
  need (fld w 28 4 = 0) .reservedField <|
  match fld w 25 2 with
  | 3 => if fld w 27 1 = 1 then .instr (.vstSc (fldD w) (fldA w) (fldB w) (fldK w))
    else .instr (.vst (fldD w) (fldA w) (fldB w) (fldK w))
  | 1 => need (fld w 27 1 = 0) .reservedField (.instr (.vsts (fldD w) (fldA w) (fldB w) (fldK w)))
  | 0 => need (fld w 27 1 = 0) .reservedField (.instr (.vstx (fldD w) (fldA w) (fldB w) (fldK w)))
  | _ => .reserved .reservedValue

/-- Major 0x22, loads to a queue (05 R114, 08 R185). -/
def decodeVecLoadQ (w : Nat) : Decoded :=
  need (fld w 28 4 = 0 ∧ fld w 9 3 = 0) .reservedField <|
  match fld w 25 2 with
  | 3 => if fld w 27 1 = 1 then .reserved .reservedField
    else .instr (.vldq (BitVec.ofNat 2 (w / 2 ^ 7)) (fldA w) (fldB w) (fldK w))
  | 1 => need (fld w 27 1 = 0) .reservedField (.instr (.vldqStrided (BitVec.ofNat 2 (w / 2 ^ 7)) (fldA w) (fldB w) (fldK w)))
  | 0 => need (fld w 27 1 = 0) .reservedField (.instr (.vldqIndexed (BitVec.ofNat 2 (w / 2 ^ 7)) (fldA w) (fldB w) (fldK w)))
  | _ => .reserved .reservedValue

/-- Major 0x23, vector atomics and VCAPP (05 R114). -/
def decodeVecAmo (w : Nat) : Decoded :=
  match fld w 27 5 with
  | 0 => withVal (vAddrOf w) fun b => .instr (.vamoadd (fldD w) (fldA w) b (fldK w))
  | 1 => withVal (vAddrOf w) fun b => .instr (.vamoand (fldD w) (fldA w) b (fldK w))
  | 2 => withVal (vAddrOf w) fun b => .instr (.vamoor (fldD w) (fldA w) b (fldK w))
  | 3 => withVal (vAddrOf w) fun b => .instr (.vamoxor (fldD w) (fldA w) b (fldK w))
  | 4 => withVal (vAddrOf w) fun b => .instr (.vamomin (fldD w) (fldA w) b (fldK w))
  | 5 => withVal (vAddrOf w) fun b => .instr (.vamomax (fldD w) (fldA w) b (fldK w))
  | 6 => withVal (vAddrOf w) fun b => .instr (.vamoswp (fldD w) (fldA w) b (fldK w))
  | 8 => need (fldD w = 0) .reservedField <| withVal (vAddrOf w) fun b => .instr (.vpostadd (fldA w) b (fldK w))
  | 9 => need (fldD w = 0) .reservedField <| withVal (vAddrOf w) fun b => .instr (.vpostand (fldA w) b (fldK w))
  | 10 => need (fldD w = 0) .reservedField <| withVal (vAddrOf w) fun b => .instr (.vpostor (fldA w) b (fldK w))
  | 11 => need (fldD w = 0) .reservedField <| withVal (vAddrOf w) fun b => .instr (.vpostxor (fldA w) b (fldK w))
  | 12 => need (fldD w = 0) .reservedField <| withVal (vAddrOf w) fun b => .instr (.vpostmin (fldA w) b (fldK w))
  | 13 => need (fldD w = 0) .reservedField <| withVal (vAddrOf w) fun b => .instr (.vpostmax (fldA w) b (fldK w))
  | 14 => need (fldD w = 0) .reservedField <| withVal (vAddrOf w) fun b => .instr (.vpostswp (fldA w) b (fldK w))
  | 16 => need (fldD w = 0 ∧ fldB w = 0 ∧ fld w 25 2 = 0) .reservedField (.instr (.vcapp (fldA w) (fldK w)))
  | _ => .reserved .reservedFunction

/-- Major 0x25, short fabric forms (05 R115). -/
def decodeFabric (w : Nat) : Decoded :=
  match fld w 22 10 with
  | 0 => need (fldB w = 0 ∧ fldD w = 0) .reservedField (.instr (.fswap (fldA w)))
  | 1 => need (fldB w = 0 ∧ fldD w = 0) .reservedField (.instr (.fdrain (fldA w)))
  | 2 => need (fldB w = 0 ∧ fldA w = 0) .reservedField (.instr (.fstat (fldD w)))
  | 3 => need (fldD w = 0) .reservedField (.instr (.fpush (fldA w) (fldB w)))
  | 4 => need (fldB w = 0) .reservedField (.instr (.fpop (fldD w) (fldA w)))
  | _ => .reserved .reservedFunction

/-- Major 0x26, short matrix forms (05 R115). -/
def decodeMatrix (w : Nat) : Decoded :=
  need (fld w 9 3 = 0) .reservedField <|
  match fld w 22 10 with
  | 0 => .instr (.mma (BitVec.ofNat 2 (w / 2 ^ 7)) (fldA w) (fldB w))
  | 1 => need (fldB w = 0 ∧ fldA w = 0) .reservedField (.instr (.mzero (BitVec.ofNat 2 (w / 2 ^ 7))))
  | 2 => need (fldB w = 0 ∧ fldA w = 0) .reservedField (.instr (.mrel (BitVec.ofNat 2 (w / 2 ^ 7))))
  | _ => .reserved .reservedFunction

/-- Major 0x27, synchronisation (05 R115). -/
def decodeSync (w : Nat) : Decoded :=
  match fld w 22 10 with
  | 0 => need (fldB w = 0 ∧ fldD w = 0) .reservedField (.instr (.barrive (fldA w)))
  | 1 => need (fldB w = 0) .reservedField (.instr (.bwait (fldD w) (fldA w)))
  | 2 => need (fld w 7 15 = 0) .reservedField (.instr .rbatch)
  | 3 => need (fld w 7 10 = 0) .reservedField (.instr (.rwait (fldB w)))
  | 4 => need (fld w 7 15 = 0) .reservedField (.instr .trigger)
  | 5 => need (fld w 7 15 = 0) .reservedField (.instr .nexts)
  | _ => .reserved .reservedFunction

/-- A short form by its major opcode (05 R107). -/
def decodeShort (w : Nat) : Decoded :=
  match fld w 1 6 with
  | 0x01 => decodeIntReg w
  | 0x02 => .instr (.addi (fldD w) (fldA w) (BitVec.ofNat 15 (w / 2 ^ 17)))
  | 0x03 => .instr (.andi (fldD w) (fldA w) (BitVec.ofNat 15 (w / 2 ^ 17)))
  | 0x04 => .instr (.ori (fldD w) (fldA w) (BitVec.ofNat 15 (w / 2 ^ 17)))
  | 0x05 => .instr (.xori (fldD w) (fldA w) (BitVec.ofNat 15 (w / 2 ^ 17)))
  | 0x06 => .instr (.slti (fldD w) (fldA w) (BitVec.ofNat 15 (w / 2 ^ 17)))
  | 0x07 => .instr (.sltni (fldD w) (fldA w) (BitVec.ofNat 15 (w / 2 ^ 17)))
  | 0x08 => decodeShiftImm w
  | 0x09 => .instr (.lui (fldD w) (BitVec.ofNat 20 (w / 2 ^ 12)))
  | 0x0A => .instr (.auipc (fldD w) (BitVec.ofNat 20 (w / 2 ^ 12)))
  | 0x0B => decodeLoad w
  | 0x0C => decodeStore w
  | 0x0D => decodeAmo w
  | 0x0E => decodeBranch w
  | 0x0F => .instr (.jal (fldD w) (BitVec.ofNat 20 (w / 2 ^ 12)))
  | 0x10 => .instr (.jalr (fldD w) (fldA w) (BitVec.ofNat 15 (w / 2 ^ 17)))
  | 0x11 => decodeFp w
  | 0x12 => decodeFma w
  | 0x13 => decodeSystem w
  | 0x14 => decodeFence w
  | 0x15 => decodeSafept w
  | 0x18 => decodeConfig w
  | 0x19 => decodeVecIntA w
  | 0x1A => decodeVecIntB w
  | 0x1B => decodeVecFp w
  | 0x1C => decodeVecFma w
  | 0x1D => decodeVecCvt w
  | 0x1E => decodeMask w
  | 0x1F => decodePermute w
  | 0x20 => decodeVecLoad w
  | 0x21 => decodeVecStore w
  | 0x22 => decodeVecLoadQ w
  | 0x23 => decodeVecAmo w
  | 0x25 => decodeFabric w
  | 0x26 => decodeMatrix w
  | 0x27 => decodeSync w
  | _ => .reserved .reservedMajor

/-- Long major 0x01, LIMM and LIMM.H (05 R116). -/
def decodeLimm (w0 w1 : Nat) : Decoded :=
  need (fld w0 23 9 = 0 ∧ fldA w0 = 0 ∧ fldB w0 = 0) .reservedField <|
  if fld w0 22 1 = 1 then .instr (.limmH (fldD w0) (BitVec.ofNat 32 w1))
  else .instr (.limm (fldD w0) (BitVec.ofNat 32 w1))

/-- Long major 0x02, remote atomics (05 R116). -/
def decodeRamo (w0 w1 : Nat) : Decoded :=
  need (fld w0 28 1 = 1) .reservedValue <| withVal (wSizeOf (fld w0 27 1)) fun sz =>
  withVal (statusOf (fld w1 31 1) (fld w1 23 5)) fun s =>
  match fld w1 28 3 with
  | 0 => .instr (.ramoadd (fldD w0) (fldC w0) (fldA w0) (fldB w0) sz s (BitVec.ofNat 23 w1))
  | 1 => .instr (.ramoand (fldD w0) (fldC w0) (fldA w0) (fldB w0) sz s (BitVec.ofNat 23 w1))
  | 2 => .instr (.ramoor (fldD w0) (fldC w0) (fldA w0) (fldB w0) sz s (BitVec.ofNat 23 w1))
  | 3 => .instr (.ramoxor (fldD w0) (fldC w0) (fldA w0) (fldB w0) sz s (BitVec.ofNat 23 w1))
  | 4 => .instr (.ramomin (fldD w0) (fldC w0) (fldA w0) (fldB w0) sz s (BitVec.ofNat 23 w1))
  | 5 => .instr (.ramomax (fldD w0) (fldC w0) (fldA w0) (fldB w0) sz s (BitVec.ofNat 23 w1))
  | 6 => .instr (.ramoswp (fldD w0) (fldC w0) (fldA w0) (fldB w0) sz s (BitVec.ofNat 23 w1))
  | 7 => .instr (.ramocas (fldD w0) (fldC w0) (fldA w0) (fldB w0) sz s (BitVec.ofNat 23 w1))
  | _ => .reserved .reservedFunction

/-- Long major 0x02, scalar remote (05 R116). -/
def decodeRemote (w0 w1 : Nat) : Decoded :=
  match fld w0 29 3 with
  | 0 => need (fldC w0 = 0 ∧ fld w1 28 3 = 0) .reservedField <| withVal (sizeOf (fld w0 27 2)) fun sz =>
    withVal (statusOf (fld w1 31 1) (fld w1 23 5)) fun s =>
    .instr (.rld (fldD w0) (fldA w0) (fldB w0) sz s (BitVec.ofNat 23 w1))
  | 1 => need (fldD w0 = 0 ∧ fld w1 28 3 = 0) .reservedField <| withVal (sizeOf (fld w0 27 2)) fun sz =>
    withVal (statusOf (fld w1 31 1) (fld w1 23 5)) fun s =>
    .instr (.rst (fldC w0) (fldA w0) (fldB w0) sz s (BitVec.ofNat 23 w1))
  | 2 => decodeRamo w0 w1
  | 3 => need (fld w0 7 22 = 0 ∧ w1 = 0) .reservedField (.instr .rfence)
  | _ => .reserved .reservedFunction

/-- Long major 0x03, vector remote (05 R116). -/
def decodeVecRemote (w0 w1 : Nat) : Decoded :=
  need (fld w0 22 10 = 0 ∧ fld w1 0 22 = 0) .reservedField <|
  withVal (kStatusOf (fld w1 31 1) (fld w1 22 3)) fun s =>
  match fld w1 28 3 with
  | 0 => .instr (.rldx (fldD w0) (fldA w0) (fldB w0) (BitVec.ofNat 3 (w1 / 2 ^ 25)) s)
  | 1 => .instr (.rstx (fldD w0) (fldA w0) (fldB w0) (BitVec.ofNat 3 (w1 / 2 ^ 25)) s)
  | 2 => .instr (.rapp (fldD w0) (fldA w0) (fldB w0) (BitVec.ofNat 3 (w1 / 2 ^ 25)) s)
  | _ => .reserved .reservedFunction

/-- Long major 0x04, streams (05 R116). -/
def decodeStream (w0 w1 : Nat) : Decoded :=
  need (fldB w0 = 0) .reservedField <|
  match fld w0 22 10 with
  | 0 => need (fld w1 5 27 = 0) .reservedField <| withVal (policyOf (fld w1 3 2)) fun pol =>
    .instr (.sopen (fldD w0) (fldA w0) (BitVec.ofNat 2 w1) (fld w1 2 1 = 1) pol)
  | 1 => need (fldA w0 = 0 ∧ fld w1 13 19 = 0) .reservedField <| withVal (bindTargetOf w1) fun t =>
    .instr (.sbind (fldD w0) (BitVec.ofNat 2 w1) t)
  | 2 => need (fldA w0 = 0 ∧ fld w1 2 30 = 0) .reservedField (.instr (.sclose (fldD w0) (BitVec.ofNat 2 w1)))
  | 3 => need (fldA w0 = 0 ∧ fld w1 2 30 = 0) .reservedField (.instr (.sstat (fldD w0) (BitVec.ofNat 2 w1)))
  | _ => .reserved .reservedFunction

/-- Long major 0x05, extended vector memory (05 R116, 08 R192, R200, R205). -/
def decodeVecExt (w0 w1 : Nat) : Decoded :=
  match fld w0 25 7 with
  | 0 => .instr (.vldz (fldD w0) (fldA w0) (fldB w0) (fldK w0) (BitVec.ofNat 32 w1))
  | 1 => .instr (.vstz (fldD w0) (fldA w0) (fldB w0) (fldK w0) (BitVec.ofNat 32 w1))
  | 2 => need (fldB w0 = 0 ∧ w1 = 0) .reservedField (.instr (.vcopy (fldD w0) (fldA w0) (fldK w0)))
  | 3 => need (fldA w0 = 0 ∧ w1 = 0) .reservedField (.instr (.vfill (fldD w0) (fldB w0) (fldK w0)))
  | 4 => need (fldB w0 = 0) .reservedField (.instr (.vldsImmediate (fldD w0) (fldA w0) (fldK w0) (BitVec.ofNat 32 w1)))
  | 5 => need (fldB w0 = 0) .reservedField (.instr (.vstsImmediate (fldD w0) (fldA w0) (fldK w0) (BitVec.ofNat 32 w1)))
  | _ => .reserved .reservedFunction

/-- Long major 0x06, matrix long forms (05 R116, 09 R215). -/
def decodeMatrixLong (w0 w1 : Nat) : Decoded :=
  need (fld w0 9 3 = 0) .reservedField <|
  match fld w0 22 10 with
  | 0 => need (fldD w0 = 0 ∧ fldA w0 = 0 ∧ fldB w0 = 0 ∧ fld w1 25 7 = 0) .reservedField <|
    need (fld w1 10 1 = 0) .reservedValue <| withVal (elemTyOf (fld w1 4 4)) fun t =>
    .instr (.mcfg (BitVec.ofNat 4 w1) t (fld w1 8 1 = 1) (fld w1 9 1 = 1) (BitVec.ofNat 7 (w1 / 2 ^ 11))
      (BitVec.ofNat 7 (w1 / 2 ^ 18)))
  | 1 => need (fld w1 16 16 = 0) .reservedField
    (.instr (.mdrain (BitVec.ofNat 2 (w0 / 2 ^ 7)) (fldA w0) (fldB w0) (BitVec.ofNat 6 w1) (BitVec.ofNat 7 (w1 / 2 ^ 6)) (BitVec.ofNat 3 (w1 / 2 ^ 13))))
  | 2 => need (fld w1 16 16 = 0) .reservedField
    (.instr (.mdrainx (BitVec.ofNat 2 (w0 / 2 ^ 7)) (fldA w0) (fldB w0) (BitVec.ofNat 6 w1) (BitVec.ofNat 7 (w1 / 2 ^ 6)) (BitVec.ofNat 3 (w1 / 2 ^ 13))))
  | 3 => need (fld w1 13 19 = 0) .reservedField (.instr (.mldacc (BitVec.ofNat 2 (w0 / 2 ^ 7)) (fldA w0) (fldB w0) (BitVec.ofNat 6 w1) (BitVec.ofNat 7 (w1 / 2 ^ 6))))
  | _ => .reserved .reservedFunction

/-- Long major 0x07, FLOAD (05 R116). -/
def decodeFload (w0 w1 : Nat) : Decoded :=
  need (fld w0 22 10 = 0 ∧ fldD w0 = 0 ∧ fldB w0 = 0) .reservedField
    (.instr (.fload (fldA w0) (BitVec.ofNat 32 w1)))

/-- Long major 0x08, LAUNCH and CREC (05 R116). -/
def decodeLaunch (w0 w1 : Nat) : Decoded :=
  need (fldB w0 = 0) .reservedField <|
  match fld w0 22 10 with
  | 0 => need (fld w1 10 22 = 0) .reservedField (.instr (.launch (fldD w0) (fldA w0) (BitVec.ofNat 10 w1)))
  | 1 => need (w1 = 0) .reservedField (.instr (.crec (fldD w0) (fldA w0)))
  | _ => .reserved .reservedFunction

/-- Long major 0x09, WDRIVE (05 R116). -/
def decodeWdrive (w0 w1 : Nat) : Decoded :=
  need (fld w0 22 10 = 0 ∧ fldD w0 = 0 ∧ fldB w0 = 0) .reservedField
    (.instr (.wdrive (fldA w0) (BitVec.ofNat 32 w1)))

/-- A long form by its long major opcode (05 R116). -/
def decodeLong (w0 w1 : Nat) : Decoded :=
  match fld w0 1 6 with
  | 0x01 => decodeLimm w0 w1
  | 0x02 => decodeRemote w0 w1
  | 0x03 => decodeVecRemote w0 w1
  | 0x04 => decodeStream w0 w1
  | 0x05 => decodeVecExt w0 w1
  | 0x06 => decodeMatrixLong w0 w1
  | 0x07 => decodeFload w0 w1
  | 0x08 => decodeLaunch w0 w1
  | 0x09 => decodeWdrive w0 w1
  | _ => .reserved .reservedMajor

/-- Whether a first word begins a long form (05 R101). -/
def isLong (w0 : Nat) : Bool := w0 % 2 = 1

/-- The instruction that a first word and, for a long form, a second word hold (05 R101, R104). -/
def decode (w0 w1 : Nat) : Decoded := if isLong w0 then decodeLong w0 w1 else decodeShort w0

/-- The 32-bit word of four bytes, the first at the lowest address (00 R7). -/
def wordOf (b0 b1 b2 b3 : Byte) : Nat := b0.toNat + b1.toNat * 2 ^ 8 + b2.toNat * 2 ^ 16 + b3.toNat * 2 ^ 24

/-- The bytes of a 32-bit word, lowest first (00 R7). -/
def wordBytes (w : Nat) : List Byte :=
  [BitVec.ofNat 8 w, BitVec.ofNat 8 (w / 2 ^ 8), BitVec.ofNat 8 (w / 2 ^ 16), BitVec.ofNat 8 (w / 2 ^ 24)]

/-- The instruction at the head of a list of bytes and the bytes after it (05 R101). -/
def decodeBytes : List Byte → Decoded × List Byte
  | b0 :: b1 :: b2 :: b3 :: rest =>
    if isLong (wordOf b0 b1 b2 b3) then
      match rest with
      | c0 :: c1 :: c2 :: c3 :: rest' => (decode (wordOf b0 b1 b2 b3) (wordOf c0 c1 c2 c3), rest')
      | _ => (.reserved .truncated, rest)
    else (decode (wordOf b0 b1 b2 b3) 0, rest)
  | bs => (.reserved .truncated, bs)

/-- The instruction whose bits are w, numbered as the opcode table numbers them, with zeros above nbits. -/
def decodeTableWord (nbits w : Nat) : Option Instr :=
  (decodeBytes (wordBytes (w % 2 ^ nbits) ++ wordBytes (w % 2 ^ nbits / 2 ^ 32))).1.toOption

/-! The encoder, from the same formats. -/

/-- Format F3, and FB with the condition in the d field (05 R103). -/
def encF3 (fn b a d major : Nat) : Nat := fn * 2 ^ 22 + b * 2 ^ 17 + a * 2 ^ 12 + d * 2 ^ 7 + major * 2
/-- Format FI (05 R103). -/
def encFI (imm a d major : Nat) : Nat := imm * 2 ^ 17 + a * 2 ^ 12 + d * 2 ^ 7 + major * 2
/-- Formats FU and FJ (05 R103). -/
def encFU (imm d major : Nat) : Nat := imm * 2 ^ 12 + d * 2 ^ 7 + major * 2
/-- Format FM (05 R103). -/
def encFM (wf imm a d major : Nat) : Nat := wf * 2 ^ 27 + imm * 2 ^ 17 + a * 2 ^ 12 + d * 2 ^ 7 + major * 2
/-- Scalar floating point in F3 (05 R111). -/
def encFP (op fmt aux b a d : Nat) : Nat := encF3 (op * 2 ^ 5 + fmt * 2 ^ 3 + aux) b a d 0x11
/-- Scalar FMA in F4 (05 R111). -/
def encF4 (fmt c b a d : Nat) : Nat := encF3 (fmt * 2 ^ 5 + c) b a d 0x12
/-- Format FV; src holds the s and b fields (05 R103). -/
def encFV (fn src k a d major : Nat) : Nat :=
  fn * 2 ^ 27 + src + k * 2 ^ 22 + a * 2 ^ 12 + d * 2 ^ 7 + major * 2
/-- The first word of a long form (05 R103). -/
def encL (fn p a d lmajor : Nat) : Nat := fn * 2 ^ 22 + p * 2 ^ 17 + a * 2 ^ 12 + d * 2 ^ 7 + lmajor * 2 + 1
/-- S and the status register in a second word (05 R116). -/
def encStatus : Status → Nat
  | some r => 2 ^ 31 + r.toNat * 2 ^ 23
  | none => 0
/-- S and the status k register in a second word (05 R116). -/
def encKStatus : KStatus → Nat
  | some r => 2 ^ 31 + r.toNat * 2 ^ 22
  | none => 0

/-- The first and second words of an encoded instruction; a short form has second word 0. Blocks and events have no
instruction words and give 0. -/
def encode : Instr → Nat × Nat
  | .add d a b => (encF3 0x000 b.toNat a.toNat d.toNat 0x01, 0)
  | .sub d a b => (encF3 0x001 b.toNat a.toNat d.toNat 0x01, 0)
  | .and d a b => (encF3 0x002 b.toNat a.toNat d.toNat 0x01, 0)
  | .or d a b => (encF3 0x003 b.toNat a.toNat d.toNat 0x01, 0)
  | .xor d a b => (encF3 0x004 b.toNat a.toNat d.toNat 0x01, 0)
  | .sll d a b => (encF3 0x005 b.toNat a.toNat d.toNat 0x01, 0)
  | .srl d a b => (encF3 0x006 b.toNat a.toNat d.toNat 0x01, 0)
  | .sra d a b => (encF3 0x007 b.toNat a.toNat d.toNat 0x01, 0)
  | .slt d a b => (encF3 0x008 b.toNat a.toNat d.toNat 0x01, 0)
  | .sltn d a b => (encF3 0x009 b.toNat a.toNat d.toNat 0x01, 0)
  | .min d a b => (encF3 0x00A b.toNat a.toNat d.toNat 0x01, 0)
  | .max d a b => (encF3 0x00B b.toNat a.toNat d.toNat 0x01, 0)
  | .minn d a b => (encF3 0x00C b.toNat a.toNat d.toNat 0x01, 0)
  | .maxn d a b => (encF3 0x00D b.toNat a.toNat d.toNat 0x01, 0)
  | .mul d a b => (encF3 0x010 b.toNat a.toNat d.toNat 0x01, 0)
  | .mulh d a b => (encF3 0x011 b.toNat a.toNat d.toNat 0x01, 0)
  | .mulhn d a b => (encF3 0x012 b.toNat a.toNat d.toNat 0x01, 0)
  | .div d a b => (encF3 0x013 b.toNat a.toNat d.toNat 0x01, 0)
  | .divn d a b => (encF3 0x014 b.toNat a.toNat d.toNat 0x01, 0)
  | .rem d a b => (encF3 0x015 b.toNat a.toNat d.toNat 0x01, 0)
  | .remn d a b => (encF3 0x016 b.toNat a.toNat d.toNat 0x01, 0)
  | .clz d a => (encF3 0x020 0 a.toNat d.toNat 0x01, 0)
  | .ctz d a => (encF3 0x021 0 a.toNat d.toNat 0x01, 0)
  | .popc d a => (encF3 0x022 0 a.toNat d.toNat 0x01, 0)
  | .brev d a => (encF3 0x023 0 a.toNat d.toNat 0x01, 0)
  | .addi d a imm => (encFI imm.toNat a.toNat d.toNat 0x02, 0)
  | .andi d a imm => (encFI imm.toNat a.toNat d.toNat 0x03, 0)
  | .ori d a imm => (encFI imm.toNat a.toNat d.toNat 0x04, 0)
  | .xori d a imm => (encFI imm.toNat a.toNat d.toNat 0x05, 0)
  | .slti d a imm => (encFI imm.toNat a.toNat d.toNat 0x06, 0)
  | .sltni d a imm => (encFI imm.toNat a.toNat d.toNat 0x07, 0)
  | .slli d a sh => (encFI (0 * 2 ^ 6 + sh.toNat) a.toNat d.toNat 0x08, 0)
  | .srli d a sh => (encFI (1 * 2 ^ 6 + sh.toNat) a.toNat d.toNat 0x08, 0)
  | .srai d a sh => (encFI (2 * 2 ^ 6 + sh.toNat) a.toNat d.toNat 0x08, 0)
  | .lui d imm => (encFU imm.toNat d.toNat 0x09, 0)
  | .auipc d imm => (encFU imm.toNat d.toNat 0x0A, 0)
  | .limm d imm => (encL 0 0 0 d.toNat 0x01, imm.toNat)
  | .limmH d imm => (encL 1 0 0 d.toNat 0x01, imm.toNat)
  | .ldb d a off => (encFM 0 off.toNat a.toNat d.toNat 0x0B, 0)
  | .ldh d a off => (encFM 1 off.toNat a.toNat d.toNat 0x0B, 0)
  | .ldw d a off => (encFM 2 off.toNat a.toNat d.toNat 0x0B, 0)
  | .ldd d a off => (encFM 3 off.toNat a.toNat d.toNat 0x0B, 0)
  | .ldbN d a off => (encFM 4 off.toNat a.toNat d.toNat 0x0B, 0)
  | .ldhN d a off => (encFM 5 off.toNat a.toNat d.toNat 0x0B, 0)
  | .ldwN d a off => (encFM 6 off.toNat a.toNat d.toNat 0x0B, 0)
  | .ldaq d a n sz sc => (encFM (8 + bit n * 4 + sz.code) sc.code a.toNat d.toNat 0x0B, 0)
  | .stb d a off => (encFM 0 off.toNat a.toNat d.toNat 0x0C, 0)
  | .sth d a off => (encFM 1 off.toNat a.toNat d.toNat 0x0C, 0)
  | .stw d a off => (encFM 2 off.toNat a.toNat d.toNat 0x0C, 0)
  | .std d a off => (encFM 3 off.toNat a.toNat d.toNat 0x0C, 0)
  | .strel d a sz sc => (encFM (8 + sz.code) sc.code a.toNat d.toNat 0x0C, 0)
  | .amoadd d a b o sc sz => (encF3 (0 * 2 ^ 7 + o.code * 2 ^ 5 + sc.code * 2 ^ 2 + sz.code * 2) b.toNat a.toNat d.toNat 0x0D, 0)
  | .amoand d a b o sc sz => (encF3 (1 * 2 ^ 7 + o.code * 2 ^ 5 + sc.code * 2 ^ 2 + sz.code * 2) b.toNat a.toNat d.toNat 0x0D, 0)
  | .amoor d a b o sc sz => (encF3 (2 * 2 ^ 7 + o.code * 2 ^ 5 + sc.code * 2 ^ 2 + sz.code * 2) b.toNat a.toNat d.toNat 0x0D, 0)
  | .amoxor d a b o sc sz => (encF3 (3 * 2 ^ 7 + o.code * 2 ^ 5 + sc.code * 2 ^ 2 + sz.code * 2) b.toNat a.toNat d.toNat 0x0D, 0)
  | .amomin d a b o sc sz n => (encF3 (4 * 2 ^ 7 + o.code * 2 ^ 5 + sc.code * 2 ^ 2 + sz.code * 2 + bit n) b.toNat a.toNat d.toNat 0x0D, 0)
  | .amomax d a b o sc sz n => (encF3 (5 * 2 ^ 7 + o.code * 2 ^ 5 + sc.code * 2 ^ 2 + sz.code * 2 + bit n) b.toNat a.toNat d.toNat 0x0D, 0)
  | .amoswp d a b o sc sz => (encF3 (6 * 2 ^ 7 + o.code * 2 ^ 5 + sc.code * 2 ^ 2 + sz.code * 2) b.toNat a.toNat d.toNat 0x0D, 0)
  | .amocas d a b o sc sz => (encF3 (7 * 2 ^ 7 + o.code * 2 ^ 5 + sc.code * 2 ^ 2 + sz.code * 2) b.toNat a.toNat d.toNat 0x0D, 0)
  | .beq a b off => (encF3 off.toNat b.toNat a.toNat 0 0x0E, 0)
  | .bne a b off => (encF3 off.toNat b.toNat a.toNat 1 0x0E, 0)
  | .blt a b off => (encF3 off.toNat b.toNat a.toNat 2 0x0E, 0)
  | .bge a b off => (encF3 off.toNat b.toNat a.toNat 3 0x0E, 0)
  | .bltn a b off => (encF3 off.toNat b.toNat a.toNat 4 0x0E, 0)
  | .bgen a b off => (encF3 off.toNat b.toNat a.toNat 5 0x0E, 0)
  | .jal d imm => (encFU imm.toNat d.toNat 0x0F, 0)
  | .jalr d a imm => (encFI imm.toNat a.toNat d.toNat 0x10, 0)
  | .fadd d a b f => (encFP 0 f.code 0 b.toNat a.toNat d.toNat, 0)
  | .fsub d a b f => (encFP 1 f.code 0 b.toNat a.toNat d.toNat, 0)
  | .fmul d a b f => (encFP 2 f.code 0 b.toNat a.toNat d.toNat, 0)
  | .fdiv d a b f => (encFP 3 f.code 0 b.toNat a.toNat d.toNat, 0)
  | .fsqrt d a f => (encFP 4 f.code 0 0 a.toNat d.toNat, 0)
  | .fmin d a b f => (encFP 5 f.code 0 b.toNat a.toNat d.toNat, 0)
  | .fmax d a b f => (encFP 6 f.code 0 b.toNat a.toNat d.toNat, 0)
  | .fcmp d a b f c => (encFP 7 f.code c.code b.toNat a.toNat d.toNat, 0)
  | .fcvtToFloat d a f src => (encFP 8 f.code src.code 0 a.toNat d.toNat, 0)
  | .fcvtToInteger d a f dst => (encFP 9 f.code (dst.code + 4) 0 a.toNat d.toNat, 0)
  | .fclass d a f => (encFP 10 f.code 0 0 a.toNat d.toNat, 0)
  | .fma d a b c f => (encF4 f.code c.toNat b.toNat a.toNat d.toNat, 0)
  | .crr d n => (encFI n.toNat 0 d.toNat 0x13, 0)
  | .crw d a n => (encFI (1 * 2 ^ 12 + n.toNat) a.toNat d.toNat 0x13, 0)
  | .crs d a n => (encFI (2 * 2 ^ 12 + n.toNat) a.toNat d.toNat 0x13, 0)
  | .crc d a n => (encFI (3 * 2 ^ 12 + n.toNat) a.toNat d.toNat 0x13, 0)
  | .ecall => (encFI (4 * 2 ^ 12 + 0) 0 0 0x13, 0)
  | .ebrk => (encFI (4 * 2 ^ 12 + 1) 0 0 0x13, 0)
  | .trapret => (encFI (4 * 2 ^ 12 + 2) 0 0 0x13, 0)
  | .uret => (encFI (4 * 2 ^ 12 + 3) 0 0 0x13, 0)
  | .wfe => (encFI (4 * 2 ^ 12 + 4) 0 0 0x13, 0)
  | .halt => (encFI (4 * 2 ^ 12 + 5) 0 0 0x13, 0)
  | .tlbinv d a => (encFI (4 * 2 ^ 12 + 6) a.toNat d.toNat 0x13, 0)
  | .cinv d a => (encFI (4 * 2 ^ 12 + 7) a.toNat d.toNat 0x13, 0)
  | .fence o sc => (encF3 (sc.code * 2 ^ 2 + o.code) 0 0 0 0x14, 0)
  | .safept id => (encFU id.toNat 0 0x15, 0)
  | .setvl d a b => (encF3 0 b.toNat a.toNat d.toNat 0x18, 0)
  | .setvli d a fmt grp sc => (encF3 (2 ^ 7 + bit sc * 2 ^ 2) 0 a.toNat d.toNat 0x18 + grp.toNat * 2 ^ 21 + fmt.code * 2 ^ 17, 0)
  | .lpreq d a => (encF3 (2 * 2 ^ 7) 0 a.toNat d.toNat 0x18, 0)
  | .vadd d a b k => (encFV 0 b.code k.toNat a.toNat d.toNat 0x19, 0)
  | .vsub d a b k => (encFV 1 b.code k.toNat a.toNat d.toNat 0x19, 0)
  | .vmul d a b k => (encFV 2 b.code k.toNat a.toNat d.toNat 0x19, 0)
  | .vmulh d a b k => (encFV 3 b.code k.toNat a.toNat d.toNat 0x19, 0)
  | .vmadd d a b k => (encFV 4 b.code k.toNat a.toNat d.toNat 0x19, 0)
  | .vand d a b k => (encFV 5 b.code k.toNat a.toNat d.toNat 0x19, 0)
  | .vor d a b k => (encFV 6 b.code k.toNat a.toNat d.toNat 0x19, 0)
  | .vxor d a b k => (encFV 7 b.code k.toNat a.toNat d.toNat 0x19, 0)
  | .vsll d a b k => (encFV 8 b.code k.toNat a.toNat d.toNat 0x19, 0)
  | .vsrl d a b k => (encFV 9 b.code k.toNat a.toNat d.toNat 0x19, 0)
  | .vsra d a b k => (encFV 10 b.code k.toNat a.toNat d.toNat 0x19, 0)
  | .vmin d a b k => (encFV 11 b.code k.toNat a.toNat d.toNat 0x19, 0)
  | .vmax d a b k => (encFV 12 b.code k.toNat a.toNat d.toNat 0x19, 0)
  | .vminn d a b k => (encFV 13 b.code k.toNat a.toNat d.toNat 0x19, 0)
  | .vmaxn d a b k => (encFV 14 b.code k.toNat a.toNat d.toNat 0x19, 0)
  | .vsadd d a b k => (encFV 15 b.code k.toNat a.toNat d.toNat 0x19, 0)
  | .vssub d a b k => (encFV 16 b.code k.toNat a.toNat d.toNat 0x19, 0)
  | .vcmpEq d a b k => (encFV 0 b.code k.toNat a.toNat d.toNat 0x1A, 0)
  | .vcmpNe d a b k => (encFV 1 b.code k.toNat a.toNat d.toNat 0x1A, 0)
  | .vcmpLt d a b k => (encFV 2 b.code k.toNat a.toNat d.toNat 0x1A, 0)
  | .vcmpGe d a b k => (encFV 3 b.code k.toNat a.toNat d.toNat 0x1A, 0)
  | .vcmpLtn d a b k => (encFV 4 b.code k.toNat a.toNat d.toNat 0x1A, 0)
  | .vcmpGen d a b k => (encFV 5 b.code k.toNat a.toNat d.toNat 0x1A, 0)
  | .vmerge d a b k => (encFV 8 b.code k.toNat a.toNat d.toNat 0x1A, 0)
  | .vmv d b k => (encFV 9 b.code k.toNat 0 d.toNat 0x1A, 0)
  | .vfadd d a b k => (encFV 0 b.code k.toNat a.toNat d.toNat 0x1B, 0)
  | .vfsub d a b k => (encFV 1 b.code k.toNat a.toNat d.toNat 0x1B, 0)
  | .vfmul d a b k => (encFV 2 b.code k.toNat a.toNat d.toNat 0x1B, 0)
  | .vfdiv d a b k => (encFV 3 b.code k.toNat a.toNat d.toNat 0x1B, 0)
  | .vfsqrt d b k => (encFV 4 b.code k.toNat 0 d.toNat 0x1B, 0)
  | .vfmin d a b k => (encFV 5 b.code k.toNat a.toNat d.toNat 0x1B, 0)
  | .vfmax d a b k => (encFV 6 b.code k.toNat a.toNat d.toNat 0x1B, 0)
  | .vfcmpEq d a b k => (encFV 8 b.code k.toNat a.toNat d.toNat 0x1B, 0)
  | .vfcmpNe d a b k => (encFV 9 b.code k.toNat a.toNat d.toNat 0x1B, 0)
  | .vfcmpLt d a b k => (encFV 10 b.code k.toNat a.toNat d.toNat 0x1B, 0)
  | .vfcmpLe d a b k => (encFV 11 b.code k.toNat a.toNat d.toNat 0x1B, 0)
  | .vfexp2 d b k => (encFV 12 b.code k.toNat 0 d.toNat 0x1B, 0)
  | .vfrcp d b k => (encFV 13 b.code k.toNat 0 d.toNat 0x1B, 0)
  | .vfrsq d b k => (encFV 14 b.code k.toNat 0 d.toNat 0x1B, 0)
  | .vfma d a b k => (encFV 0 b.code k.toNat a.toNat d.toNat 0x1C, 0)
  | .vfnma d a b k => (encFV 1 b.code k.toNat a.toNat d.toNat 0x1C, 0)
  | .vfcvt d src b k => (encFV src.code b.code k.toNat 0 d.toNat 0x1D, 0)
  | .kand d a b => (encFV 0 (b.toNat * 2 ^ 17) 0 a.toNat d.toNat 0x1E, 0)
  | .kor d a b => (encFV 1 (b.toNat * 2 ^ 17) 0 a.toNat d.toNat 0x1E, 0)
  | .kxor d a b => (encFV 2 (b.toNat * 2 ^ 17) 0 a.toNat d.toNat 0x1E, 0)
  | .knot d b => (encFV 3 (b.toNat * 2 ^ 17) 0 0 d.toNat 0x1E, 0)
  | .kpopc d a b => (encFV 4 (b.toNat * 2 ^ 17) 0 a.toNat d.toNat 0x1E, 0)
  | .kfirst d a b => (encFV 5 (b.toNat * 2 ^ 17) 0 a.toNat d.toNat 0x1E, 0)
  | .kmov d b => (encFV 6 (b.toNat * 2 ^ 17) 0 0 d.toNat 0x1E, 0)
  | .vredsum d a b k => (encFV 0 b.code k.toNat a.toNat d.toNat 0x1F, 0)
  | .vredmax d a b k => (encFV 1 b.code k.toNat a.toNat d.toNat 0x1F, 0)
  | .vredmin d a b k => (encFV 2 b.code k.toNat a.toNat d.toNat 0x1F, 0)
  | .vfredsum d a b k => (encFV 3 b.code k.toNat a.toNat d.toNat 0x1F, 0)
  | .vfredo d a b k => (encFV 4 b.code k.toNat a.toNat d.toNat 0x1F, 0)
  | .vslideup d a b k => (encFV 5 b.code k.toNat a.toNat d.toNat 0x1F, 0)
  | .vslidedn d a b k => (encFV 6 b.code k.toNat a.toNat d.toNat 0x1F, 0)
  | .vperm d a b k => (encFV 7 b.code k.toNat a.toNat d.toNat 0x1F, 0)
  | .vcompress d b k => (encFV 8 b.code k.toNat 0 d.toNat 0x1F, 0)
  | .vexpand d b k => (encFV 9 b.code k.toNat 0 d.toNat 0x1F, 0)
  | .viota d b k => (encFV 10 (b.toNat * 2 ^ 17) k.toNat 0 d.toNat 0x1F, 0)
  | .vbcast d b k => (encFV 11 b.code k.toNat 0 d.toNat 0x1F, 0)
  | .vextr d a b => (encFV 12 b.code 0 a.toNat d.toNat 0x1F, 0)
  | .vins d a b k => (encFV 13 b.code k.toNat a.toNat d.toNat 0x1F, 0)
  | .vld d a off k => (encFV 0 (3 * 2 ^ 25 + off.toNat * 2 ^ 17) k.toNat a.toNat d.toNat 0x20, 0)
  | .vldSc d a off k => (encFV 1 (3 * 2 ^ 25 + off.toNat * 2 ^ 17) k.toNat a.toNat d.toNat 0x20, 0)
  | .vlds d a b k => (encFV 0 (2 ^ 25 + b.toNat * 2 ^ 17) k.toNat a.toNat d.toNat 0x20, 0)
  | .vldx d a b k => (encFV 0 (b.toNat * 2 ^ 17) k.toNat a.toNat d.toNat 0x20, 0)
  | .vst d a off k => (encFV 0 (3 * 2 ^ 25 + off.toNat * 2 ^ 17) k.toNat a.toNat d.toNat 0x21, 0)
  | .vstSc d a off k => (encFV 1 (3 * 2 ^ 25 + off.toNat * 2 ^ 17) k.toNat a.toNat d.toNat 0x21, 0)
  | .vsts d a b k => (encFV 0 (2 ^ 25 + b.toNat * 2 ^ 17) k.toNat a.toNat d.toNat 0x21, 0)
  | .vstx d a b k => (encFV 0 (b.toNat * 2 ^ 17) k.toNat a.toNat d.toNat 0x21, 0)
  | .vldq q a off k => (encFV 0 (3 * 2 ^ 25 + off.toNat * 2 ^ 17) k.toNat a.toNat q.toNat 0x22, 0)
  | .vldqStrided q a b k => (encFV 0 (2 ^ 25 + b.toNat * 2 ^ 17) k.toNat a.toNat q.toNat 0x22, 0)
  | .vldqIndexed q a b k => (encFV 0 (b.toNat * 2 ^ 17) k.toNat a.toNat q.toNat 0x22, 0)
  | .vamoadd d a b k => (encFV 0 b.code k.toNat a.toNat d.toNat 0x23, 0)
  | .vamoand d a b k => (encFV 1 b.code k.toNat a.toNat d.toNat 0x23, 0)
  | .vamoor d a b k => (encFV 2 b.code k.toNat a.toNat d.toNat 0x23, 0)
  | .vamoxor d a b k => (encFV 3 b.code k.toNat a.toNat d.toNat 0x23, 0)
  | .vamomin d a b k => (encFV 4 b.code k.toNat a.toNat d.toNat 0x23, 0)
  | .vamomax d a b k => (encFV 5 b.code k.toNat a.toNat d.toNat 0x23, 0)
  | .vamoswp d a b k => (encFV 6 b.code k.toNat a.toNat d.toNat 0x23, 0)
  | .vpostadd a b k => (encFV 8 b.code k.toNat a.toNat 0 0x23, 0)
  | .vpostand a b k => (encFV 9 b.code k.toNat a.toNat 0 0x23, 0)
  | .vpostor a b k => (encFV 10 b.code k.toNat a.toNat 0 0x23, 0)
  | .vpostxor a b k => (encFV 11 b.code k.toNat a.toNat 0 0x23, 0)
  | .vpostmin a b k => (encFV 12 b.code k.toNat a.toNat 0 0x23, 0)
  | .vpostmax a b k => (encFV 13 b.code k.toNat a.toNat 0 0x23, 0)
  | .vpostswp a b k => (encFV 14 b.code k.toNat a.toNat 0 0x23, 0)
  | .vcapp a k => (encFV 16 0 k.toNat a.toNat 0 0x23, 0)
  | .vldz d a p k off => (encL k.toNat p.toNat a.toNat d.toNat 0x05, off.toNat)
  | .vstz d a p k off => (encL (2 ^ 3 + k.toNat) p.toNat a.toNat d.toNat 0x05, off.toNat)
  | .vcopy d a k => (encL (2 * 2 ^ 3 + k.toNat) 0 a.toNat d.toNat 0x05, 0)
  | .vfill d p k => (encL (3 * 2 ^ 3 + k.toNat) p.toNat 0 d.toNat 0x05, 0)
  | .vldsImmediate d a k stride => (encL (4 * 2 ^ 3 + k.toNat) 0 a.toNat d.toNat 0x05, stride.toNat)
  | .vstsImmediate d a k stride => (encL (5 * 2 ^ 3 + k.toNat) 0 a.toNat d.toNat 0x05, stride.toNat)
  | .mcfg tiles fmt sc int32 m n => (encL 0 0 0 0 0x06, tiles.toNat + fmt.code * 2 ^ 4 + bit sc * 2 ^ 8 + bit int32 * 2 ^ 9 + m.toNat * 2 ^ 11 + n.toNat * 2 ^ 18)
  | .mma c a b => (encF3 0 b.toNat a.toNat c.toNat 0x26, 0)
  | .mzero c => (encF3 1 0 0 c.toNat 0x26, 0)
  | .mrel c => (encF3 2 0 0 c.toNat 0x26, 0)
  | .mdrain c a p row rows k => (encL 1 p.toNat a.toNat c.toNat 0x06, row.toNat + rows.toNat * 2 ^ 6 + k.toNat * 2 ^ 13)
  | .mdrainx c a p row rows k => (encL 2 p.toNat a.toNat c.toNat 0x06, row.toNat + rows.toNat * 2 ^ 6 + k.toNat * 2 ^ 13)
  | .mldacc c a p row rows => (encL 3 p.toNat a.toNat c.toNat 0x06, row.toNat + rows.toNat * 2 ^ 6)
  | .rld d a p sz s off => (encL (sz.code * 2 ^ 5) p.toNat a.toNat d.toNat 0x02, encStatus s + off.toNat)
  | .rst c a p sz s off => (encL (2 ^ 7 + sz.code * 2 ^ 5 + c.toNat) p.toNat a.toNat 0 0x02, encStatus s + off.toNat)
  | .ramoadd d c a p sz s off => (encL (2 * 2 ^ 7 + (sz.code + 2) * 2 ^ 5 + c.toNat) p.toNat a.toNat d.toNat 0x02, encStatus s + 0 * 2 ^ 28 + off.toNat)
  | .ramoand d c a p sz s off => (encL (2 * 2 ^ 7 + (sz.code + 2) * 2 ^ 5 + c.toNat) p.toNat a.toNat d.toNat 0x02, encStatus s + 1 * 2 ^ 28 + off.toNat)
  | .ramoor d c a p sz s off => (encL (2 * 2 ^ 7 + (sz.code + 2) * 2 ^ 5 + c.toNat) p.toNat a.toNat d.toNat 0x02, encStatus s + 2 * 2 ^ 28 + off.toNat)
  | .ramoxor d c a p sz s off => (encL (2 * 2 ^ 7 + (sz.code + 2) * 2 ^ 5 + c.toNat) p.toNat a.toNat d.toNat 0x02, encStatus s + 3 * 2 ^ 28 + off.toNat)
  | .ramomin d c a p sz s off => (encL (2 * 2 ^ 7 + (sz.code + 2) * 2 ^ 5 + c.toNat) p.toNat a.toNat d.toNat 0x02, encStatus s + 4 * 2 ^ 28 + off.toNat)
  | .ramomax d c a p sz s off => (encL (2 * 2 ^ 7 + (sz.code + 2) * 2 ^ 5 + c.toNat) p.toNat a.toNat d.toNat 0x02, encStatus s + 5 * 2 ^ 28 + off.toNat)
  | .ramoswp d c a p sz s off => (encL (2 * 2 ^ 7 + (sz.code + 2) * 2 ^ 5 + c.toNat) p.toNat a.toNat d.toNat 0x02, encStatus s + 6 * 2 ^ 28 + off.toNat)
  | .ramocas d c a p sz s off => (encL (2 * 2 ^ 7 + (sz.code + 2) * 2 ^ 5 + c.toNat) p.toNat a.toNat d.toNat 0x02, encStatus s + 7 * 2 ^ 28 + off.toNat)
  | .rfence => (encL (3 * 2 ^ 7) 0 0 0 0x02, 0)
  | .rldx d a p k s => (encL 0 p.toNat a.toNat d.toNat 0x03, encKStatus s + 0 * 2 ^ 28 + k.toNat * 2 ^ 25)
  | .rstx d a p k s => (encL 0 p.toNat a.toNat d.toNat 0x03, encKStatus s + 1 * 2 ^ 28 + k.toNat * 2 ^ 25)
  | .rapp d a p k s => (encL 0 p.toNat a.toNat d.toNat 0x03, encKStatus s + 2 * 2 ^ 28 + k.toNat * 2 ^ 25)
  | .rbatch => (encF3 2 0 0 0 0x27, 0)
  | .rwait n => (encF3 3 n.toNat 0 0 0x27, 0)
  | .barrive a => (encF3 0 0 a.toNat 0 0x27, 0)
  | .bwait d a => (encF3 1 0 a.toNat d.toNat 0x27, 0)
  | .trigger => (encF3 4 0 0 0 0x27, 0)
  | .nexts => (encF3 5 0 0 0 0x27, 0)
  | .launch d a q => (encL 0 0 a.toNat d.toNat 0x08, q.toNat)
  | .crec d a => (encL 1 0 a.toNat d.toNat 0x08, 0)
  | .fswap a => (encF3 0 0 a.toNat 0 0x25, 0)
  | .fdrain a => (encF3 1 0 a.toNat 0 0x25, 0)
  | .fstat d => (encF3 2 0 0 d.toNat 0x25, 0)
  | .fpush a b => (encF3 3 b.toNat a.toNat 0 0x25, 0)
  | .fpop d a => (encF3 4 0 a.toNat d.toNat 0x25, 0)
  | .fload a off => (encL 0 0 a.toNat 0 0x07, off.toNat)
  | .sopen d a e wr pol => (encL 0 0 a.toNat d.toNat 0x04, e.toNat + bit wr * 2 ^ 2 + pol.code * 2 ^ 3)
  | .sbind d e t => (encL 1 0 0 d.toNat 0x04, e.toNat + t.code)
  | .sclose d e => (encL 2 0 0 d.toNat 0x04, e.toNat)
  | .sstat d e => (encL 3 0 0 d.toNat 0x04, e.toNat)
  | .wdrive a off => (encL 0 0 a.toNat 0 0x09, off.toNat)
  | _ => (0, 0)

/-- Whether the constructor is an encoded instruction: a row with an encoding in 05. -/
def Instr.isEncoded : Instr → Bool
  | .wbMma _
  | .wbAdd _
  | .wbScale _
  | .wbAct _
  | .wbDrain _
  | .wbBranch _
  | .wbCall _
  | .wbRet _
  | .wbSync _
  | .wbNop _
  | .wbExit _
  | .weightBlockPost
  | .interruptEntry
  | .userLevelInterrupt
  | .scountZero
  | .safePointDistanceFault
  | .wfeTimeLimit
  | .ctxidWrite
  | .vlWrite
  | .vtypeWrite
  | .vlpWrite
  | .fflagsWrite
  | .vesWrite
  | .validityFieldWrite
  | .registerWrite
  | .pinfo
  | .logread
  | .peerreg
  | .fabesc
  | .attest
  | .qpopen
  | .qpclose
  | .workQueueDoorbell
  | .packetTake
  | .hartPlacement
  | .farmCompletion
  | .killNotice
  | .killAcknowledgement
  | .killAcknowledgementTimeout
  | .fillRequest
  | .writeRequest
  | .evictionNotice
  | .invalidation
  | .invalidationAcknowledgement
  | .fillResponse
  | .writeAcknowledgement
  | .holdAcknowledgement
  | .requestRefusal
  | .retryBackoffExpiry
  | .hostRequest
  | .backInvalidateResponse
  | .hostSnoop
  | .writeCombineFlush
  | .reservationRegistration
  | .cutNotice
  | .reservationFree
  | .subBatchArrival
  | .remoteReply
  | .batchCompletion
  | .barrierArrival
  | .streamReadElement
  | .streamWriteElement
  | .peFire
  | .tokenTransfer
  | .fabricFaultDelivery
  | .peQuiescence
  | .regionDrained
  | .stagingComplete
  | .swapComplete
  | .clusterRetirement
  | .guardBandRaise
  | .tileDeconfiguration
  | .thermalStop
  | .healthMonitorSample
  | .healthMonitorClear
  | .powerOn
  | .sendQueueDoorbell
  | .receiveQueueDoorbell
  | .completionQueueDoorbell
  | .send
  | .sendWithImmediate
  | .rdmaWrite
  | .rdmaWriteWithImmediate
  | .rdmaRead
  | .incomingSend
  | .incomingRdmaWrite
  | .incomingRdmaRead
  | .ack
  | .sequenceErrorNak
  | .receiverNotReadyNak
  | .remoteAccessNak
  | .ackTimeout
  | .rnrWaitExpiry
  | .congestionNotificationPacket
  | .ceMarkedPacket
  | .rateRecovery
  | .priorityFlowControl
  | .vectorInstructionRetirement
  | .peerUnreachable
  | .powerLoss
  | .rdmaReadResponse
  | .remoteOperationNak
  | .hostLinkTraining
  | .cxlCacheResponse => false
  | _ => true

/-- The length of an encoded instruction in bytes (05 R101). -/
def Instr.size (i : Instr) : Nat := if isLong (encode i).1 then 8 else 4

/-- The encoding that a trap reports in TVAL (05 R102). -/
def Instr.tval (i : Instr) : Word := BitVec.ofNat 64 ((encode i).1 + (encode i).2 * 2 ^ 32)

end Sys2Proof
end

