-- ==== Sys2Proof/Machine/State.lean ====
section
/-! DEFINITION. The state of the package as plain data, the reasons a step can stop, and the state after reset. Each field's
docstring names the file and rule of the spec that gives it. -/

namespace Sys2Proof.Machine

/-- Why the machine stops. -/
inductive Fault where
  /-- Raised by every step while the module has no power (21 R409): nothing executes. Safe. -/
  | noPower
  deriving DecidableEq, Repr

/-- Why a step has no meaning. -/
inductive Refusal where
  /-- Raised by an arm of exec whose meaning is not written. Safe. -/
  | notModelled (mnemonic : String)
  deriving DecidableEq, Repr

/-- Privilege levels of a hart (15 R301). -/
inductive Level where
  | u | s
  deriving DecidableEq, Repr

/-- What a trap leaves in TCAUSE and TVAL, and whether the context can resume (15 R311). -/
structure TrapRec where
  code : BitVec 8
  sub : BitVec 4
  tval : Word
  unres : Bool
  deriving DecidableEq, Repr

/-- What a hart does: runs instructions, waits in WFE (06 R150), is free after HALT at U (17 R351), is stopped (15 R309),
waits for the management core (15 R310), runs weight blocks (12 R278). -/
inductive RunState where
  | running | wfe | halted | stopped | mgmt | weight
  deriving DecidableEq, Repr

/-- An accumulator tile (09 R212, R217). -/
structure AccTile where
  /-- OWNER: none, hart 0, hart 1 (15 R303). -/
  owner : Option Bool
  m : BitVec 7
  n : BitVec 7
  /-- AFMT: the accumulator is I32 (05 R116). -/
  int32 : Bool
  sc : Bool
  fmt : BitVec 4
  /-- Element (i, j) in bits 32 (64 i + j) + 31 down to 32 (64 i + j). -/
  data : BitVec 131072
  deriving DecidableEq, Repr

/-- A TLB entry (16 R336). -/
structure TlbEntry where
  asid : BitVec 16
  glob : Bool
  vpage : Nat
  bits : Nat
  leaf : Word
  ppage : Nat
  deriving DecidableEq, Repr

/-- A vector instruction in the queue between the access side and the execute side, with every value captured at issue
(01 R18, 02 R41). -/
structure Queued where
  instr : Instr
  pc : Word
  g : Vector Word 32
  level : Level
  vl : BitVec 16
  ill : Bool
  vtype : BitVec 8
  vlmax : BitVec 16
  frm : BitVec 2
  vmf : BitVec 12
  vmfs : BitVec 32
  vsreg : BitVec 13
  /-- The context in which its addresses are translated (16 R328). -/
  ctxid : BitVec 16
  translated : Bool
  root : Word
  asid : BitVec 16
  /-- The queue of the hart whose entries it consumes when it executes (01 R24). -/
  takes : Option (BitVec 2)
  /-- Entries that it took from an engine bound to its queue, with their flags (11 R274). -/
  bound : Option (List (VWord × BitVec 6))
  /-- The queue to whose count it has added at issue and whose entries it appends when it executes (01 R24). -/
  adds : Option (BitVec 2)
  /-- Owners and configurations of the accumulator tiles before it, without contents (09 R212). -/
  acc : Vector AccTile 4
  /-- Its place among all that the harts of the tile have queued (09 R213). -/
  seq : Nat
  /-- The translations that its accesses were given at issue (01 R20, 08 R209). -/
  pages : List TlbEntry := []
  /-- A VLDZ or VSTZ whose VL no later SETVL has replaced: it writes VL as it retires (01 R19, 08 R201, R202). -/
  setsVl : Bool := false
  deriving DecidableEq, Repr

/-- A remote operation of a batch and its answer, once there is one (10 R229, R231). -/
structure BatchOp where
  op : RemoteOp
  res : Option RemoteResult
  deriving DecidableEq, Repr

/-- A batch of remote operations (10 R229). -/
structure Batch where
  id : Nat
  sync : Bool
  ops : List BatchOp
  /-- Whether its sub-batches have been sent: a batch that ends with a barrier arrival waits for every earlier one (10 R241). -/
  sent : Bool
  deriving DecidableEq, Repr

/-- A synchronous remote instruction that waits for its batch (10 R229): its address, the batch, and the element at which
a vector form stopped on alignment, with that element's offset (10 R237). -/
structure SyncWait where
  pc : Word
  batch : Nat
  stop : Option (Nat × Word)
  deriving DecidableEq, Repr

/-- The farm a hart runs for (17 R351, R354). -/
structure Membership where
  farm : Nat
  index : Nat
  deriving DecidableEq, Repr

/-- A fabric event that waits for the hart's instruction boundary: an escalated fault record or a duplex mismatch
(11 R260, R261), with the owning context. -/
inductive FabricEvent where
  | fault (ctx : BitVec 16) (tval : Word)
  | mismatch (ctx : BitVec 16) (tval : Word)
  deriving DecidableEq, Repr

/-- A 64-bit word of register storage (19 R391, R393): kind 1 g register, 2 v register (from word 256 on its validity field),
3 k register, 4 queue entry (256 words to an entry), 5 accumulator tile; the register's number; the word. -/
structure StoreWord where
  kind : BitVec 8
  num : BitVec 8
  word : Nat
  deriving DecidableEq, Repr

/-- What an instruction meets in the replay window (19 R396, R397): results of the two copies that differ, a value that is bad
while its good source remains (with the TVAL it would give), old values of a performed VAMO that differ. -/
inductive ReplayCause where
  | mismatch
  | badValue (tval : Word)
  | oldValues
  deriving DecidableEq, Repr

/-- An error that the next instruction of a hart's replay window meets at an element (19 R396 to R398): again tells that its
replay meets it too, tickets how many elements of an .sc form were squashed (log 31). -/
structure Replay where
  cause : ReplayCause
  elem : Nat
  again : Bool
  tickets : Nat
  deriving DecidableEq, Repr

/-- A hart (01 R12, 02 R34, 15 R302). -/
structure Hart where
  /-- Address of the next instruction (05 R101). -/
  pc : Word
  /-- Privilege level (15 R301). -/
  level : Level
  run : RunState
  /-- g0 to g31; g0 reads as zero (02 R35). -/
  g : Vector Word 32
  /-- SHD0 to SHD7, the shadow copies of g24 to g31 (02 R51, 15 R304). -/
  shd : Vector Word 8
  /-- FRM (02 R45). -/
  frm : BitVec 2
  /-- FFLAGS: VINV, DZ, NX, UF, OF, NV (02 R46). -/
  fflags : BitVec 6
  /-- VMF: SAT, RND, SMODE, ENC (02 R47). -/
  vmf : BitVec 12
  /-- VMFS (02 R47). -/
  vmfs : BitVec 32
  /-- VSREG: BS in bits 12:8, AS in bits 4:0 (02 R48). -/
  vsreg : BitVec 13
  /-- VES (02 R43). -/
  ves : BitVec 16
  /-- ULIVEC: BASE in bits 51:2, EN in bit 0 (02 R51). -/
  ulivec : Word
  /-- ULIEPC (02 R51). -/
  uliepc : Word
  /-- ULIPEND: FDRAIN, CAPP, BATCH, STREAM (02 R51). -/
  ulipend : BitVec 4
  /-- ULICAUSE.ACTIVE (02 R51). -/
  uliActive : Bool
  /-- ULICAUSE.EVENT (02 R51). -/
  uliEvent : BitVec 4
  /-- VL (02 R42). -/
  vl : BitVec 16
  /-- VTYPE.ILL (02 R42). -/
  ill : Bool
  /-- VTYPE bits 7:0: SC, G, FMT (02 R42). -/
  vtype : BitVec 8
  /-- VLMAX (02 R42). -/
  vlmax : BitVec 16
  /-- SHBASE (02 R49). -/
  shbase : Word
  /-- CYC (02 R50). -/
  cyc : Word
  /-- TVEC: BASE in bits 51:2 (15 R303). -/
  tvec : Word
  /-- TCAUSE: INT in bit 63, SUB in bits 11:8, CODE in bits 7:0 (15 R303). -/
  tcause : Word
  /-- TVAL (15 R304). -/
  tval : Word
  /-- TEPC: EPC in bits 51:2 (15 R304). -/
  tepc : Word
  /-- TSTATUS.UNRES (15 R303). -/
  unres : Bool
  /-- TSTATUS.FRESH (15 R303). -/
  fresh : Bool
  /-- No well-formed SETVL or SETVLI at U yet since the hart started (01 R14, 07 R164; log 53). -/
  unset : Bool
  /-- TSTATUS.FULL (15 R303). -/
  full : Bool
  /-- TSTATUS.SPF (15 R303). -/
  spf : Bool
  /-- TSTATUS.TIP (15 R303). -/
  tip : Bool
  /-- TSTATUS.PP (15 R303). -/
  pp : Level
  /-- TSTATUS.PIE (15 R303). -/
  pie : Bool
  /-- TSTATUS.IE (15 R303). -/
  ie : Bool
  /-- TSCRATCH (15 R304). -/
  tscratch : Word
  /-- SIP: MGMT, CNT, PRE (15 R303). -/
  sip : BitVec 3
  /-- SEQ of the latest record that raised a notice since interrupt 0x22 was last taken (15 R307). -/
  noticeSeq : Word
  /-- SCOUNT (15 R304). -/
  scount : Word
  /-- CTXID (15 R304). -/
  ctxid : BitVec 16
  /-- Whether CTXID was written since bring-up, or the hart was placed: its accesses are then translated (16 R328). -/
  translated : Bool
  /-- ROOT read at the last write of CTXID (16 R328). -/
  root : Word
  /-- ASID read at the last write of CTXID (16 R328). -/
  asid : BitVec 16
  /-- VOWN.V (15 R303). -/
  vownV : Bool
  /-- VOWN.ID (15 R303). -/
  vownId : BitVec 16
  /-- VDIRTY: ACC, K, V (15 R303). -/
  vdirty : BitVec 41
  /-- SPTB (15 R304). -/
  sptb : Word
  /-- SPDIST (15 R304). -/
  spdist : BitVec 32
  /-- SPCNT (15 R304). -/
  spcnt : BitVec 32
  /-- SPE0 (15 R304). -/
  spe0 : Word
  /-- SPE1 (15 R304). -/
  spe1 : Word
  /-- VVSEL (15 R304). -/
  vvsel : BitVec 5
  /-- WBA.RES (12 R292). -/
  wbaRes : Bool
  /-- WBA.ADDR, bits 47:6 of the header address (12 R292). -/
  wbaAddr : BitVec 42
  /-- WBES.DONE (12 R292). -/
  wbesDone : Bool
  /-- WBES.ARR (12 R292). -/
  wbesArr : Bool
  /-- WBES.TKN (12 R292). -/
  wbesTkn : Bool
  /-- WBES.IDX (12 R292). -/
  wbesIdx : BitVec 32
  /-- Whether the block at WBA was resumed: SP is then ignored at its boundary (12 R292). -/
  wbResume : Bool
  /-- The encoding of the WDRIVE that runs the chain, for TVAL of cause 0x11 (05 R102, 15 R311). -/
  wdriveEnc : Word
  /-- CTAB0 to CTAB3 as the sequencer read them with the header of the block that waits at WBA (15 R326). -/
  wbCtab : Option (Vector Word 4)
  /-- The block at WBA once steps 1 to 5 have passed and its effect is under way: its header and its payload as the sequencer read
  them (12 R286). -/
  wbBlock : Option (BitVec 512 × List Byte)
  /-- WLS.DEPTH (12 R292). -/
  wls : BitVec 3
  /-- WLE0 to WLE3 (12 R292). -/
  wle : Vector (BitVec 48) 4
  /-- v0 to v31 (02 R36). -/
  v : Vector VWord 32
  /-- The validity fields of v0 to v31 (02 R38). -/
  val : Vector Validity 32
  /-- k0 to k7 (02 R34). -/
  k : Vector KWord 8
  /-- q0 to q3, each with up to four entries, the head first (01 R23). -/
  q : Vector (List VWord) 4
  /-- The effective set at the last SETVL (01 R26). -/
  eff : BitVec 8
  /-- Clusters that compute since the last SETVL (01 R28, 02 R36). -/
  clusters : Nat
  /-- Request W of LPREQ (07 R167). -/
  want : BitVec 4
  /-- Protected mode (17 R351, 19 R394). -/
  prot : Bool
  /-- The farm for which the hart is placed (17 R351). -/
  member : Option Membership
  /-- The vector instruction queue, oldest first (01 R18). -/
  vq : List Queued
  /-- The physical address of the queue object of a VCAPP that waits for COUNT, and the TAIL it reserved from (08 R208). -/
  capp : Option (Nat × Nat)
  /-- The write-combining buffer: bytes by physical address, the oldest first (04 R78). -/
  wcb : List (Nat × Byte)
  /-- Writes sent to their homes and not yet acknowledged, by line (04 R78, 18 R362). -/
  sentLines : List Nat
  /-- Writes held at their homes under WAIT (04 R90). -/
  heldWrites : Nat
  /-- Values of its held reads and atomics that were performed when their reservation was freed, for the instruction that waits:
  virtual address, bytes and value (04 R90, 18 R369). -/
  answers : List (Word × Nat × Nat)
  /-- The open batch of remote operations (10 R229). -/
  openBatch : Option Batch
  /-- Closed batches that are not complete, in closing order (10 R229). -/
  outstanding : List Batch
  /-- Failures of completed batches not yet reported, in closing order: the first failed operation of each (10 R231). -/
  failures : List (Nat × RemoteOp × BitVec 8)
  /-- An instruction of the hart waits for its batches (10 R235). -/
  batchWait : Bool
  /-- The synchronous remote instruction in progress (10 R229). -/
  sync : Option SyncWait
  /-- The remote reads of a BWAIT: their number, and the answers once they are there (10 R242). -/
  bwait : Option (Nat × Option (List RemoteResult))
  /-- An instruction that has begun and cannot be left: a synchronous remote instruction or a VCAPP that waits (log 8). -/
  inProgress : Option Instr
  /-- A synchronous trap that waits for the execute side (01 R21). -/
  trapWait : Option TrapRec
  /-- Fabric events that wait for the hart's boundary (11 R260, R261). -/
  fabricEvents : List FabricEvent
  /-- Words of its register storage whose error cannot be corrected (19 R391, R393). -/
  badStore : List StoreWord
  /-- The error that its next instruction of the replay window meets (19 R396 to R398; log 31). -/
  replay : Option Replay
  /-- The instruction that a replay under way has reissued, by its address or its block's, and the element that its error named (19
  R398). -/
  replayed : Option (Word × Nat)
  /-- Hart's number of the next batch (the model's own name for batches; 10 R229). -/
  nextBatch : Nat
  /-- A VLDQ that stopped at its first element after it appended its entries: its queue, its address and its context (08 R190; log
  52). -/
  openTail : Option (BitVec 2 × Word × BitVec 16)
  /-- The translations of the queued vector instruction that executes; none between two steps (01 R20; log 5). -/
  pages : List TlbEntry
  deriving DecidableEq, Repr

/-- A token of the fabric (11 R247). -/
inductive Token where
  | data (w : BitVec 32) (tag : BitVec 2)
  | drain
  deriving DecidableEq, Repr

/-- What a channel end is joined to (11 R255). -/
inductive ChanKind where
  | unused
  | wire (pe ch : Nat)
  | stream (n : Nat)
  | port
  | faultIn
  deriving DecidableEq, Repr

/-- A region of a configuration (11 R254). -/
structure RegionCfg where
  index : Nat
  pemask : BitVec 64
  rank : BitVec 3
  duplex : Bool
  fedge : Option Nat
  deriving DecidableEq, Repr

/-- A stream of a configuration (11 R257). -/
structure StreamCfg where
  index : Nat
  prodPe : Nat
  prodCh : Nat
  consPe : Nat
  consCh : Nat
  depth : Nat
  deriving DecidableEq, Repr

/-- The record of a PE in a configuration (11 R255). -/
structure PeCfg where
  pe : Nat
  region : Nat
  consts : List (BitVec 32)
  slots : List (BitVec 64)
  outs : List ChanKind
  ins : List ChanKind
  deriving DecidableEq, Repr

/-- A configuration, or the part of one that is staged (11 R253, R264). -/
structure FabricCfg where
  regions : List RegionCfg
  streams : List StreamCfg
  pes : List PeCfg
  deriving DecidableEq, Repr

/-- A fabric PE of a resident region (11 R247). -/
structure Pe where
  cfg : PeCfg
  d : Vector (BitVec 32) 8
  p : BitVec 8
  ins : Vector (List Token) 4
  outs : Vector (List Token) 4
  /-- It fires no further slot (11 R266). -/
  quiescent : Bool
  deriving DecidableEq, Repr

/-- A resident region (11 R260, R266, R268). -/
structure Region where
  cfg : RegionCfg
  /-- Stopped by a fault or a mismatch (11 R260, R261). -/
  stopped : Bool
  /-- Stopped by a mismatch: it passes no token on (11 R261). -/
  barred : Bool
  /-- Marked draining (11 R266). -/
  draining : Bool
  deriving DecidableEq, Repr

/-- A resident stream with its run in the channel buffer (11 R257, R258). -/
structure FStream where
  cfg : StreamCfg
  base : Nat
  q : List Token
  /-- The region of its producer has left, and that of its consumer (11 R266). -/
  prodGone : Bool
  consGone : Bool
  deriving DecidableEq, Repr

/-- A PE of a drained region whose output ports stay readable, with its mirror in a duplex region (11 R261, R266). -/
structure LeftPe where
  region : RegionCfg
  pe : Pe
  mirror : Option Pe
  /-- Its copies have differed: it passes no token on. -/
  barred : Bool
  deriving DecidableEq, Repr

/-- The spatial fabric of a tile (11 R247 to R271). -/
structure Fabric where
  /-- The hart and context that own it (11 R263). -/
  owner : Option (Bool × BitVec 16)
  /-- The farm for which the owner ran at its latest FLOAD: the task whose verdict the fabric charges (11 R261). -/
  farm : Option Nat
  regions : List Region
  pes : List (Nat × Pe)
  streams : List FStream
  staged : Option FabricCfg
  /-- Staging is in progress (11 R264). -/
  staging : Bool
  /-- The regions, streams and PEs of the swap in progress, and the indices of the regions it drains (11 R265). -/
  swap : Option (FabricCfg × List Nat)
  /-- Where the streams of the swap lie in the channel buffer (11 R257). -/
  swapBases : List Nat
  /-- Input ports of the swap's regions whose read streams have ended: each gets a drain token when they are resident (11
  R277). -/
  swapDrains : List (Nat × Nat)
  /-- Sticky flags (11 R252). -/
  flags : BitVec 5
  /-- PEs of drained regions that have output ports (11 R266). -/
  leftover : List (Nat × LeftPe)
  deriving DecidableEq, Repr

/-- What a stream engine is bound to (11 R274): coming tells a port of a region that a swap brings in; gone is a port that a
swap has replaced. -/
inductive Binding where
  | none
  | fin (pe ch : Nat) (coming : Bool)
  | fout (pe ch : Nat) (coming : Bool)
  | queue (n : BitVec 2)
  | gone
  deriving DecidableEq, Repr

/-- The shape of the queue entries an engine forms, fixed at SBIND (11 R274). -/
structure QueueShape where
  fmt : ElemTy
  width : Nat
  perEntry : Nat
  frm : BitVec 2
  deriving DecidableEq, Repr

/-- A stream descriptor (11 R272). -/
structure StreamDesc where
  base : Word
  icnt : Nat
  ocnt : Nat
  istr : Word
  ostr : Word
  esize : Nat
  enc : Nat
  tagm : Nat
  rsv : Bool
  bytes : Nat
  sbar : Word
  deriving DecidableEq, Repr

/-- Where a held engine stands: its reservation being registered, in use, its reservation being freed (11 R273, R277). -/
inductive EnginePhase where
  | opening | inUse | closing
  deriving DecidableEq, Repr

/-- A stream engine that is held (11 R272 to R277). -/
structure EngineState where
  /-- The hart that holds it. -/
  h1 : Bool
  ctx : BitVec 16
  phase : EnginePhase
  wr : Bool
  policy : Policy
  desc : StreamDesc
  /-- Translation captured at SOPEN (16 R329): none before the hart's first CTXID write. -/
  root : Option (Word × BitVec 16)
  part : Nat
  bind : Binding
  shape : Option QueueShape
  /-- Elements delivered or written. -/
  count : Nat
  /-- Next element to issue, the stream's position (04 R90). -/
  pos : Nat
  /-- Byte position and decoded elements pending under ENC 3 (11 R272). -/
  bytePos : Nat
  pending : List (BitVec 8)
  /-- The half of an 8-byte element that has been moved (11 R275). -/
  half : Option (BitVec 32)
  /-- The queue entry being formed: elements so far and their bits (11 R274). -/
  partElems : Nat
  partBits : VWord
  /-- Entries that wait in the bound queue, the head first (11 R274). -/
  entries : List VWord
  /-- Flags of the conversions of each entry waiting in the queue, and of the entry being formed (11 R274). -/
  entryFlags : List (BitVec 6)
  partFlags : BitVec 6
  /-- Entries, with their flags, that an instruction of 8 registers which waits for the rest has taken from the queue (01 R23; log 63). -/
  taken : List (VWord × BitVec 6) := []
  done : Bool
  err : Bool
  cause : BitVec 8
  swf : Bool
  /-- A write stream that ended discards tokens to the next drain token (11 R276). -/
  discarding : Bool
  /-- A drain token was taken (11 R266). -/
  drained : Bool
  /-- Physical addresses of the reserved elements, captured at SOPEN (16 R341). -/
  pages : List (Nat × Nat)
  /-- Lines of the range still to be registered (04 R89). -/
  registering : List Nat
  deriving DecidableEq, Repr

/-- A health monitor (19 R404). -/
structure Monitor where
  ctl : Word
  min : BitVec 32
  max : BitVec 32
  count : Word
  bins : Vector (BitVec 32) 16
  deriving DecidableEq, Repr

/-- A tile (00 R2, 01 R12). -/
structure Tile where
  h0 : Hart
  h1 : Hart
  /-- VLP (01 R26). -/
  vlp : BitVec 8
  /-- LANEMAP (19 R399). -/
  lanemap : BitVec 8
  /-- CTAB0 to CTAB3 (03 R67). -/
  ctab : Vector Word 4
  acc : Vector AccTile 4
  engines : Vector (Option EngineState) 4
  fabric : Fabric
  /-- The hart in weight-driven mode that holds the block sequencer and stream engine 0 (12 R278). -/
  seqr : Option Bool
  /-- The mailbox of the block sequencer: the posting tile and the block's address (12 R295). -/
  mailbox : Option (Nat × BitVec 48)
  /-- The answer to this tile's post: whether the target performed it (12 R295). -/
  postReply : Option Bool
  /-- Deconfigured (19 R401). -/
  dead : Bool
  /-- Corrected-error counts of the lane clusters (19 R399). -/
  errCounts : Vector Nat 8
  monitors : Vector Monitor 4
  /-- Lines its caches hold, with the pointer at the home (18 R360). -/
  lines : List Nat
  /-- Fills in flight that an invalidation made stale (18 R365). -/
  staleFills : List Nat
  /-- Lines of the instruction cache with their bytes (04 R100, 06 R155). -/
  icache : List (Nat × List Byte)
  /-- How many instructions its harts have queued (the model's own count; 09 R213). -/
  issued : Nat
  deriving DecidableEq, Repr

/-- A pointer of a directory entry (18 R361). -/
inductive DirPtr where
  | tile (t : Nat)
  | host
  | resv (tile : Nat) (e : Engine)
  deriving DecidableEq, Repr

/-- A request the home has begun and completes at the last acknowledgement (18 R362). -/
inductive Waiting where
  | req (q : HomeReq)
  /-- A write of a tile, or of a requester that is no tile (none), made again once the copies are gone (log 70). -/
  | again (writer : Option Nat)
  /-- The oldest copy given up for the pointer of a reservation that registers (18 R366). -/
  | evict
  | hostWrite (data : List Byte) (addr : Nat)
  | hostRead (addr : Nat)
  deriving DecidableEq, Repr

/-- The directory entry of a line (18 R361). A line not listed is in state I with every field clear. -/
structure DirEntry where
  /-- STATE is B: the copies whose acknowledgements are outstanding, and the transaction that waits. -/
  busy : Option (List DirPtr × Waiting)
  /-- POISON (18 R380). -/
  poison : Bool
  /-- REF (18 R364). -/
  ref : Nat
  /-- SV and SID: the requester for which the line is reserved. -/
  sv : Bool
  sid : Nat
  sage : Nat
  /-- PTR0 upward, the oldest first; state S when not empty. -/
  ptrs : List DirPtr
  deriving DecidableEq, Repr

/-- What the move being made must wait for at the home of a line (log 70): copies that a write of a tile, or of a requester that is
no tile, must first have back (18 R362), or the pointer of a reservation (18 R366); a refusal that the home counts against a requester
(18 R363, R364); a reservation under which the home holds it, a write or a read (18 R369). -/
structure Await where
  line : Nat
  out : List DirPtr := []
  writer : Option Nat := none
  evicts : Bool := false
  refused : Option Nat := none
  held : Option (Nat × Engine × Bool) := none
  deriving DecidableEq, Repr

/-- A range reservation (04 R89 to R93, 18 R366). -/
structure Resv where
  tile : Nat
  e : Engine
  h1 : Bool
  part : Nat
  ctx : BitVec 16
  asid : BitVec 16
  wi : Bool
  policy : Policy
  /-- The lines at which it is registered, in registration order. -/
  lines : List Nat
  /-- Cut: conflicts are served at once (18 R368). -/
  cut : Bool
  /-- The homes free it (18 R366, R369). -/
  freeing : Bool := false
  deriving DecidableEq, Repr

/-- A request held under WAIT (04 R90, 18 R369): the reservation's tile and engine, the hart and the action; returns tells a
read or an atomic whose value the hart's instruction waits for, at virtual address va; fill is the request of a held fill; event is
the move that makes a held request of a remote operation, a stream engine or other hardware, whose action then only names a byte
and whether it is written (log 56). -/
structure Held where
  tile : Nat
  e : Engine
  hart : Option HartId
  action : HomeAction
  returns : Bool
  fill : Option HomeReq
  va : Word := 0
  event : Option Event := none
  deriving DecidableEq, Repr

/-- A launch packet as taken (17 R347). -/
structure Packet where
  entry : Word
  n : Word
  s : Word
  crec : Word
  harts : Nat
  gang : Bool
  prot : Bool
  place : BitVec 2
  tge : BitVec 16
  args : Vector Word 10
  deriving DecidableEq, Repr

/-- The verdict of a farm (17 R357; log 31). -/
inductive Verdict where
  | clean | corrected | tainted
  deriving DecidableEq, Repr

/-- A hart index of a farm (17 R351, R353, R354). -/
structure FarmHart where
  /-- Its first strip: start and count (01 R15). -/
  start : Word
  cnt : Word
  placed : Bool
  /-- Where it runs now; none while unplaced, parked or exited. -/
  place : Option HartId
  exited : Bool
  triggered : Bool
  /-- Farm-barrier arrivals (10 R243). -/
  arrivals : Nat
  deriving DecidableEq, Repr

/-- A farm: a packet taken and not yet complete (17 R349 to R358). -/
structure Farm where
  id : Nat
  part : Nat
  queue : Nat
  cls : BitVec 2
  ctx : BitVec 16
  shb : Word
  packet : Packet
  /-- Waits for task-graph predecessors (STATE 1, 17 R356). -/
  waitsGraph : Bool
  /-- Next strip of the rake (01 R15). -/
  nextStrip : Word
  harts : List FarmHart
  /-- Tiles on which its harts were placed, without repeats (04 R95). -/
  tiles : List Nat
  verdict : Verdict
  /-- The kind of the first tainting record. -/
  firstKind : BitVec 16
  triggered : Bool
  killed : Bool
  /-- SEQ of the latest record charged to it (17 R358). -/
  bittern : Word
  /-- The farm whose harts it has asked to give way (17 R350). -/
  victim : Option Nat
  /-- When it came to wait for placement, as a number that rises (17 R350). -/
  since : Nat
  deriving DecidableEq, Repr

/-- A partition range (16 R335). -/
structure PRange where
  base : Nat
  len : Nat
  policy : BitVec 2
  host : Bool
  deriving DecidableEq, Repr

/-- A partition of the plan (21 R413). -/
structure Partition where
  num : Nat
  /-- Runs of tiles: first and count. -/
  tiles : List (Nat × Nat)
  ranges : List PRange
  firstQueue : Nat
  queueCount : Nat
  ctxBase : Nat
  queueBase : Nat
  graphBase : Nat
  graphLen : Nat
  firstQp : Nat
  qpCount : Nat
  /-- Addresses it may use: port and address. -/
  ips : List (Nat × BitVec 128)
  prio : BitVec 3
  notice : HartId
  boot : HartId
  entry : Word
  deriving DecidableEq, Repr

/-- A deconfiguration record in a slot of module flash (19 R403). -/
structure DeconfRecord where
  seq : Word
  serial : BitVec 128
  /-- Tiles that are deconfigured or have retired clusters. -/
  tiles : List (Nat × Bool × BitVec 8)
  /-- Guard bands above 0 by domain. -/
  gb : List (Nat × Nat)
  /-- Its signature verifies. -/
  valid : Bool
  deriving DecidableEq, Repr

/-- Module flash (19 R403, 21 R409, R413) and what bring-up finds besides. -/
structure Flash where
  imageOk : Bool
  fwver : BitVec 32
  slot0 : Option DeconfRecord
  slot1 : Option DeconfRecord
  planOk : Bool
  plan : List Partition
  cert : List Byte
  /-- Calibration and memory initialisation succeed at the next power-on (21 R409). -/
  calibrates : Bool
  memoryOk : Bool
  /-- Calibrated need of each domain above 0 (19 R400). -/
  needs : List (Nat × Nat)
  deriving DecidableEq, Repr

/-- A record of the bittern log (19 R405). -/
structure LogRecord where
  seq : Word
  kind : BitVec 16
  sev : BitVec 8
  part : BitVec 8
  ctx : BitVec 16
  tile : BitVec 16
  addr : Word
  data0 : Word
  data1 : Word
  data2 : Word
  deriving DecidableEq, Repr

/-- A registered peer-group table (18 R381). -/
structure PeerTable where
  part : Nat
  ctx : BitVec 16
  heap : Nat
  peers : List (BitVec 16 × BitVec 16)
  bars : List Nat
  deriving DecidableEq, Repr

/-- A kill whose notices are not all acknowledged (18 R382). -/
structure Kill where
  part : Nat
  ctx : BitVec 16
  peers : List (BitVec 16)
  deriving DecidableEq, Repr

/-- A packet to another package (18 R370, R371). -/
inductive PeerMsg where
  | subBatch (dst : BitVec 16) (b : SubBatch)
  | reply (dst : BitVec 16) (h : HartId) (batch : Nat) (res : List RemoteResult)
  | killNotice (dst ctx : BitVec 16)
  | killAck (dst ctx : BitVec 16)
  deriving DecidableEq, Repr

/-- What the package sends to the host (18 R376, R377; 21 R412). -/
inductive HostMsg where
  | data (addr : Nat) (bytes : List Byte)
  | poison (addr : Nat)
  | done (addr : Nat)
  | backInvalidate (line : Nat)
  | giveUp (line : Nat)
  | msix (seq : Word)
  /-- A read and a write of host registers through a TYPE 3 page (16 R342). -/
  | registerRead (addr bytes : Nat)
  | registerWrite (addr : Nat) (bytes : List Byte)
  deriving DecidableEq, Repr

/-- A write to host memory that the host's coherence domain has not accepted (04 R99). -/
structure HostWrite where
  id : Nat
  hart : HartId
  cells : List Host.Cell
  deriving DecidableEq, Repr

/-- State of a queue pair (18 R384). -/
inductive QpState where
  | reset | ready | error
  deriving DecidableEq, Repr

/-- A remote-access window (18 R388). -/
structure QpWindow where
  base : Nat
  len : Nat
  tag : BitVec 28
  read : Bool
  write : Bool
  deriving DecidableEq, Repr

/-- A message that a queue pair has sent and whose answer is outstanding (18 R386, R390). -/
structure EthSent where
  slot : Nat
  op : BitVec 8
  psn : BitVec 24
  /-- PSN of its last packet. -/
  last : BitVec 24
  len : Nat
  laddr : Word
  wrid : Word
  sig : Bool
  /-- Packets of it that are acknowledged (18 R390). -/
  acked : Nat := 0
  deriving DecidableEq, Repr

/-- A queue pair (18 R384 to R390). -/
structure Qp where
  state : QpState
  part : Nat
  ctx : BitVec 16
  mtu : Nat
  retry : Nat
  rnr : Nat
  dqpn : BitVec 24
  spsn : BitVec 24
  rpsn : BitVec 24
  udpSrc : BitVec 16
  tclass : BitVec 8
  hopLim : BitVec 8
  dmac : BitVec 48
  timeout : Nat
  rdmax : Nat
  sip : BitVec 128
  dip : BitVec 128
  sq : Word
  sqSize : Nat
  rq : Word
  rqSize : Nat
  cq : Word
  cqSize : Nat
  windows : List QpWindow
  /-- Producer counts accepted from doorbells, and the consumer count (18 R389). -/
  sqProd : BitVec 32
  rqProd : BitVec 32
  cqCons : BitVec 32
  /-- Send and receive entries taken. -/
  sqTaken : Nat
  rqTaken : Nat
  /-- Completions written since QPOPEN (18 R387). -/
  completions : Nat
  sent : List EthSent
  retries : Nat
  rnrRetries : Nat
  /-- Waits for the time an RNR NAK named (18 R390). -/
  rnrWait : Bool
  /-- Send rate in units of 1/256 of the line rate (18 R390). -/
  rate : Nat
  deriving DecidableEq, Repr

/-- The addresses and marks that the packets of a queue pair carry (18 R385, R390). -/
structure EthPath where
  dmac : BitVec 48
  sip : BitVec 128
  dip : BitVec 128
  hopLim : BitVec 8
  dscp : BitVec 6
  /-- The congestion bits: 2 is ECT(0). -/
  ecn : BitVec 2
  udpSrc : BitVec 16
  udpDst : BitVec 16
  deriving DecidableEq, Repr

/-- What a message of a queue pair carries (18 R386, R390). -/
inductive EthBody where
  /-- A message of a send entry; `solicited` is its solicited bit. -/
  | send (psn : BitVec 24) (op : BitVec 8) (raddr : Word) (rkey imm : BitVec 32) (solicited : Bool) (len : Nat)
      (data : List Byte)
  | ack (psn : BitVec 24)
  | readResponse (data : List Byte)
  | rnrNak
  | accessNak
  | operationNak
  | congestion
  deriving DecidableEq, Repr

/-- What a port puts on the wire: a message of a queue pair, under the QPNs of both ends (18 R384), or a frame of priority flow
control (18 R390). -/
inductive EthMsg where
  | message (port : Nat) (qpn dqpn : BitVec 24) (path : EthPath) (body : EthBody)
  | flowControl (port : Nat) (prio : BitVec 3) (pause : Bool)
  deriving DecidableEq, Repr

/-- Hardware's counts of a work queue (17 R344, R345). -/
structure QueueCounts where
  head : Word
  tail : Word
  deriving DecidableEq, Repr

/-- The position of a class in its weighted round (17 R349). -/
structure Round where
  part : Nat
  cls : BitVec 2
  queue : Nat
  used : Nat
  deriving DecidableEq, Repr

/-- An error of the hardware, which comes from outside as data on the agenda (19 R391 to R398; log 31). -/
inductive Upset where
  /-- An error in storage that a hart read, corrected (19 R391): the storage kind and address its record gives, and the lane
  cluster whose register or queue storage it was. -/
  | corrected (h : HartId) (storage addr : Word) (cluster : Option (BitVec 3))
  /-- An uncorrectable error in a codeword of HBM4E or a home slice. -/
  | codeword (w : Nat)
  /-- A parity error in the L1, the tile cache or the instruction cache of a hart's tile, in a line: storage kind and line. -/
  | parity (h : HartId) (storage : Word) (line : Nat)
  /-- An uncorrectable error in the directory entry of a line. -/
  | directory (line : Nat)
  /-- An uncorrectable error in the reservation entry under which a line is registered. -/
  | reservation (line : Nat)
  /-- An uncorrectable error in the register storage of a hart, and its lane cluster. -/
  | register (h : HartId) (x : StoreWord) (cluster : Option (BitVec 3))
  /-- An uncorrectable error in the channels, the channel buffer or the d registers of a PE. -/
  | fabric (tile pe : Nat)
  /-- The copies of a PE of a duplex region give different tokens at an output channel (11 R261). -/
  | duplex (tile pe ch : Nat)
  /-- An error that the next instruction of a hart's replay window meets (19 R396), and the lane cluster whose register storage cannot
  be corrected, where it is one (19 R399). -/
  | replay (h : HartId) (r : Replay) (cluster : Option (BitVec 3))
  /-- A protocol error at the home of a line (19 R406). -/
  | protocol (line : Nat)
  deriving DecidableEq, Repr

/-- A move of the agenda: an event, the turn of a hart, an error of the hardware, new ranges that the management core gives a
partition, or the step of bring-up that is in progress (16 R335, 21 R409; log 7, 31). -/
inductive Move where
  | event (e : Event)
  | turn (h : HartId)
  | upset (u : Upset)
  | ranges (part : Nat) (rs : List PRange)
  | bringUp
  deriving DecidableEq, Repr

/-- The package with what surrounds it, and the model's own fields (log 5, 6, 7). -/
structure State where
  /-- The module has power (21 R409). -/
  power : Bool
  /-- STATUS.READY, STAGE, ERR (21 R412). -/
  ready : Bool
  stage : BitVec 8
  errCode : BitVec 8
  /-- STATUS.FWVER and SERIAL (21 R412). -/
  fwver : BitVec 32
  serial : BitVec 128
  /-- The host link has trained (21 R412). -/
  link : Bool
  flash : Flash
  /-- The deconfiguration record applied at power-on (21 R409, R414). -/
  applied : Option DeconfRecord
  /-- The hart whose turn it is (log 7). -/
  cur : HartId
  /-- Tiles that differ from the reset tile or have been touched, by index x + 36 y, keys rising (00 R2). -/
  tiles : List (Nat × Tile)
  /-- The peer id of this package (10 R226). -/
  self : BitVec 16
  /-- HBM4E and host memory by physical address; a byte not listed is zero (16 R327, 21 R411, log 4). -/
  mem : List Host.Cell
  /-- 32-byte codewords whose error cannot be corrected (19 R391). -/
  bad : List Nat
  /-- The directory (18 R361). -/
  dir : List (Nat × DirEntry)
  /-- Host requests queued at the bridge (18 R362). -/
  bridge : List (Nat × Option (List Byte))
  /-- Refused requests in back-off (18 R363). -/
  backoffs : List HomeReq
  /-- Accesses that a home refused and that are not complete yet: requester id, line, AGE (18 R363, R364). -/
  refused : List (Nat × Nat × Nat)
  /-- Range reservations in force, in registration order (04 R89). -/
  resvs : List Resv
  /-- Requests held under WAIT, in arrival order (18 R369). -/
  held : List Held
  /-- Sub-batches whose next operation waits at its home, in arrival order: held under WAIT (04 R90), or for COUNT (10 R239). -/
  heldBatches : List SubBatch
  /-- The .sc ticket counter (04 R88). -/
  ticket : Word
  /-- TLB entries (16 R336). -/
  tlb : List TlbEntry
  farms : List Farm
  nextFarm : Nat
  /-- Farms of the task graph that have completed: a taint still passes through them (17 R357). -/
  ended : List Farm
  /-- Counts of work queues (17 R345); a queue not listed has both at zero. -/
  queues : List (Nat × QueueCounts)
  rounds : List Round
  /-- Partitions set up at bring-up (21 R413). -/
  parts : List Partition
  peerTables : List PeerTable
  /-- Dead contexts of this package, by partition and number (18 R382). -/
  deadCtxs : List (Nat × BitVec 16)
  /-- Dead pairs of peer package and context (18 R382). -/
  deadPairs : List (BitVec 16 × BitVec 16)
  kills : List Kill
  /-- The ring of the bittern log, oldest first, at most 4,096 records (19 R405). -/
  log : List LogRecord
  /-- LOGSEQ (19 R402). -/
  logSeq : Word
  /-- Calls that wait for the management core, in arrival order (21 R414). -/
  calls : List HartId
  /-- Guard bands above 0 by domain (19 R400). -/
  gb : List (Nat × Nat)
  /-- GEN of the configuration registers (19 R402). -/
  gen : Word
  qps : List (Nat × Qp)
  /-- Paused priorities by port (18 R390). -/
  paused : List (Nat × BitVec 3)
  /-- Packets sent to other packages, oldest first (18 R370). -/
  peerOut : List PeerMsg
  /-- What was sent to the host, oldest first (18 R376). -/
  hostOut : List HostMsg
  /-- Ethernet messages sent, oldest first (18 R386). -/
  ethOut : List EthMsg
  hostWrites : List HostWrite
  nextHostWrite : Nat
  /-- The agenda: the moves to come, the next first (log 7). -/
  events : List Move
  /-- Events that wait at a home, made again after the next turn of a hart (log 70). -/
  waiting : List Event
  /-- What the move being made must wait for at homes; nothing between two steps (log 70). -/
  await : List Await
  /-- Vector instructions, stores and cached translations may lag behind (log 5). -/
  relaxed : Bool
  /-- Index of the next free value (log 6, 13). -/
  draws : Nat
  deriving DecidableEq, Repr

/-- A hart that bring-up leaves free: at S in WFE with CTXID 0 (21 R413, 17 R351), every register at its Reset value
(02 R52, 15 R303, R304), and at zero where the spec gives none (log 3). -/
def Hart.free : Hart where
  pc := 0
  level := .s
  run := .wfe
  g := Vector.replicate 32 0
  shd := Vector.replicate 8 0
  frm := 0
  fflags := 0
  vmf := 0x1F
  vmfs := 0x3F800000
  vsreg := 0
  ves := 0
  ulivec := 0
  uliepc := 0
  ulipend := 0
  uliActive := false
  uliEvent := 0
  vl := 0
  ill := true
  vtype := 0
  vlmax := 0
  shbase := 0
  cyc := 0
  tvec := 0
  tcause := 0
  tval := 0
  tepc := 0
  unres := false
  fresh := true
  unset := true
  full := false
  spf := false
  tip := false
  pp := .u
  pie := false
  ie := false
  tscratch := 0
  sip := 0
  noticeSeq := 0
  scount := 0
  ctxid := 0
  translated := false
  root := 0
  asid := 0
  vownV := false
  vownId := 0
  vdirty := 0
  sptb := 0
  spdist := 0
  spcnt := 0
  spe0 := 0
  spe1 := 0
  vvsel := 0
  wbaRes := false
  wbaAddr := 0
  wbesDone := false
  wbesArr := false
  wbesTkn := false
  wbesIdx := 0
  wbResume := false
  wdriveEnc := 0
  wbCtab := none
  wbBlock := none
  wls := 0
  wle := Vector.replicate 4 0
  v := Vector.replicate 32 0
  val := Vector.replicate 32 (BitVec.allOnes 128)
  k := Vector.replicate 8 0
  q := Vector.replicate 4 []
  eff := 0
  clusters := 0
  want := 0
  prot := false
  member := none
  vq := []
  capp := none
  wcb := []
  sentLines := []
  heldWrites := 0
  answers := []
  openBatch := none
  outstanding := []
  failures := []
  batchWait := false
  sync := none
  bwait := none
  inProgress := none
  trapWait := none
  fabricEvents := []
  badStore := []
  replay := none
  replayed := none
  nextBatch := 0
  openTail := none
  pages := []

/-- The hart that runs first: its partition's boot hart, at S at the plan's entry address (21 R413; log 1, 3). -/
def Hart.boot (entry : Word) : Hart := { Hart.free with run := .running, pc := entry }

/-- An accumulator tile without an owner; its contents cannot be read (09 R212, R213; log 3). -/
def AccTile.free : AccTile where
  owner := none
  m := 0
  n := 0
  int32 := false
  sc := false
  fmt := 0
  data := 0

/-- A health monitor at reset (19 R404). -/
def Monitor.reset : Monitor where
  ctl := 0
  min := BitVec.allOnes 32
  max := 0
  count := 0
  bins := Vector.replicate 16 0

/-- An empty fabric without an owner (11 R263). -/
def Fabric.empty : Fabric where
  owner := none
  farm := none
  regions := []
  pes := []
  streams := []
  staged := none
  staging := false
  swap := none
  swapBases := []
  swapDrains := []
  flags := 0
  leftover := []

/-- A tile after bring-up whose harts wait free (21 R411, R413; log 1, 3). -/
def Tile.reset : Tile where
  h0 := Hart.free
  h1 := Hart.free
  vlp := 0
  lanemap := 0
  ctab := Vector.replicate 4 0
  acc := Vector.replicate 4 AccTile.free
  engines := Vector.replicate 4 none
  fabric := Fabric.empty
  seqr := none
  mailbox := none
  postReply := none
  dead := false
  errCounts := Vector.replicate 8 0
  monitors := Vector.replicate 4 Monitor.reset
  lines := []
  staleFills := []
  icache := []
  issued := 0

/-- The partition of the model's plan (log 1): every tile, the whole HBM4E range, every queue, the boot hart
hart 0 of tile (0, 0) with entry address 0. -/
def Partition.whole : Partition where
  num := 0
  tiles := [(0, 2304)]
  ranges := [{ base := 0, len := 2 ^ 40, policy := 0, host := true },
             { base := 0x4000000000000, len := 2 ^ 32, policy := 0, host := false },
             { base := 0x8000000000000, len := 2 ^ 51, policy := 0, host := false }]
  firstQueue := 0
  queueCount := 1024
  ctxBase := 0x100000
  queueBase := 0x200000
  graphBase := 0x300000
  graphLen := 4096
  firstQp := 0
  qpCount := 4096
  ips := [(0, 0x0100000AFFFF00000000000000000000), (1, 0x0100000AFFFF00000000000000000000),
          (2, 0x0100000AFFFF00000000000000000000)]
  prio := 0
  notice := ⟨0, false⟩
  boot := ⟨0, false⟩
  entry := 0

/-- Module flash of the model (log 1): a verified image, one valid record with nothing retired, the plan above. -/
def Flash.fresh : Flash where
  imageOk := true
  fwver := 0
  slot0 := some { seq := 1, serial := 0, tiles := [], gb := [], valid := true }
  slot1 := none
  planOk := true
  plan := [Partition.whole]
  cert := []
  calibrates := true
  memoryOk := true
  needs := []

/-- The machine right after bring-up (21 R409 to R413): READY is set, the boot hart runs at S at its entry address,
every other hart waits free, memory is zero (log 1, 3). -/
def State.reset : State where
  power := true
  ready := true
  stage := 5
  errCode := 0
  fwver := 0
  serial := 0
  link := true
  flash := Flash.fresh
  applied := Flash.fresh.slot0
  cur := ⟨0, false⟩
  tiles := [(0, { Tile.reset with h0 := Hart.boot 0 })]
  self := 0
  mem := []
  bad := []
  dir := []
  bridge := []
  backoffs := []
  refused := []
  resvs := []
  held := []
  heldBatches := []
  ticket := 0
  tlb := []
  farms := []
  nextFarm := 0
  ended := []
  queues := []
  rounds := []
  parts := [Partition.whole]
  peerTables := []
  deadCtxs := []
  deadPairs := []
  kills := []
  log := []
  logSeq := 0
  calls := []
  gb := []
  gen := 1
  qps := []
  paused := []
  peerOut := []
  hostOut := []
  ethOut := []
  hostWrites := []
  nextHostWrite := 0
  events := []
  waiting := []
  await := []
  relaxed := false
  draws := 0

end Sys2Proof.Machine
end

