-- ==== Sys2Proof/Machine/Maps.lean ====
section
/-! DEFINITION. Sparse maps by number, the byte memory in its canonical form, and bit-field helpers. -/

namespace Sys2Proof.Machine

/-- The value at a key of a map whose keys rise (log 4). -/
def alGet {α : Type} : List (Nat × α) → Nat → Option α
  | [], _ => none
  | (k, x) :: t, a => if k = a then some x else if a < k then none else alGet t a

/-- The map with a key set, its keys still rising (log 4). -/
def alSet {α : Type} : List (Nat × α) → Nat → α → List (Nat × α)
  | [], a, y => [(a, y)]
  | (k, x) :: t, a, y =>
    if k < a then (k, x) :: alSet t a y else if k = a then (a, y) :: t else (a, y) :: (k, x) :: t

/-- The map without a key. -/
def alDel {α : Type} : List (Nat × α) → Nat → List (Nat × α)
  | [], _ => []
  | (k, x) :: t, a => if k = a then t else (k, x) :: alDel t a

/-- The byte at an address: zero where none is listed (21 R411; log 4). -/
def memGet : List Host.Cell → Nat → Byte
  | [], _ => 0
  | (k, b) :: t, a => if k = a then b else if a < k then 0 else memGet t a

/-- The memory with one byte written, in canonical form: addresses rise and no listed byte is zero (log 4). -/
def memSet : List Host.Cell → Nat → Byte → List Host.Cell
  | [], a, b => if b = 0 then [] else [(a, b)]
  | (k, x) :: t, a, b =>
    if k < a then (k, x) :: memSet t a b
    else if k = a then (if b = 0 then t else (a, b) :: t)
    else (if b = 0 then (k, x) :: t else (a, b) :: (k, x) :: t)

/-- Canonical form above a lower bound: addresses rise strictly and no listed byte is zero. -/
def Memory.wfFrom : Nat → List Host.Cell → Bool
  | _, [] => true
  | lo, (k, b) :: t => decide (lo ≤ k) && decide (b ≠ 0) && wfFrom (k + 1) t

/-- The canonical form of memory (log 4). -/
def Memory.wf (m : List Host.Cell) : Bool := Memory.wfFrom 0 m

/-- n bytes from an address as a number, the lowest address least significant (00 R7). -/
def memRead (m : List Host.Cell) : Nat → Nat → Nat
  | 0, _ => 0
  | n + 1, a => (memGet m a).toNat + 2 ^ 8 * memRead m n (a + 1)

/-- The memory with n bytes of a number written from an address (00 R7). -/
def memWrite (m : List Host.Cell) : Nat → Nat → Nat → List Host.Cell
  | 0, _, _ => m
  | n + 1, a, x => memWrite (memSet m a (BitVec.ofNat 8 x)) n (a + 1) (x / 2 ^ 8)

/-- The memory with a list of bytes written. -/
def memPut (m : List Host.Cell) : List Host.Cell → List Host.Cell
  | [] => m
  | (a, b) :: t => memPut (memSet m a b) t

/-- n bytes of a number as cells from an address. -/
def cellsOf : Nat → Nat → Nat → List Host.Cell
  | 0, _, _ => []
  | n + 1, a, x => (a, BitVec.ofNat 8 x) :: cellsOf n (a + 1) (x / 2 ^ 8)

/-- A list of bytes as cells from an address. -/
def cellsOfBytes : Nat → List Byte → List Host.Cell
  | _, [] => []
  | a, b :: t => (a, b) :: cellsOfBytes (a + 1) t

/-- n bytes of memory from an address. -/
def memBytes (m : List Host.Cell) : Nat → Nat → List Byte
  | 0, _ => []
  | n + 1, a => memGet m a :: memBytes m n (a + 1)

/-- A list of bytes as a number, the first least significant. -/
def bytesNat : List Byte → Nat
  | [] => 0
  | b :: t => b.toNat + 2 ^ 8 * bytesNat t

/-- n bytes of a number, least significant first. -/
def natBytes : Nat → Nat → List Byte
  | 0, _ => []
  | n + 1, x => BitVec.ofNat 8 x :: natBytes n (x / 2 ^ 8)

/-- Bits lo + n − 1 to lo of a number replaced. -/
def putBits (x lo n y : Nat) : Nat := x - fld x lo n * 2 ^ lo + y % 2 ^ n * 2 ^ lo

/-- One bit of a number. -/
def bitAt (x i : Nat) : Bool := fld x i 1 = 1

/-- A number of n bits read as two's complement (03 R53). -/
def sint (n x : Nat) : Int := if x % 2 ^ n < 2 ^ (n - 1) then (x % 2 ^ n : Nat) else (x % 2 ^ n : Nat) - (2 ^ n : Nat)

/-- The low n bits of an integer (03 R53). -/
def wrap (n : Nat) (x : Int) : Nat := (x % (2 ^ n : Nat)).toNat

/-- The numbers from a to a + n − 1. -/
def upTo : Nat → Nat → List Nat
  | _, 0 => []
  | a, n + 1 => a :: upTo (a + 1) n

/-- The list with the first element that satisfies a test replaced. -/
def replaceFirst {α : Type} (p : α → Bool) (f : α → α) : List α → List α
  | [] => []
  | x :: t => if p x then f x :: t else x :: replaceFirst p f t

/-- The element at a position replaced. -/
def setNth {α : Type} : List α → Nat → α → List α
  | [], _, _ => []
  | _ :: t, 0, y => y :: t
  | x :: t, n + 1, y => x :: setNth t n y

/-- The list sorted by a key, equal keys in order. -/
def insertBy {α : Type} (key : α → Nat) (x : α) : List α → List α
  | [] => [x]
  | y :: t => if key x ≤ key y then x :: y :: t else y :: insertBy key x t

/-- Insertion sort by a key, stable. -/
def sortBy {α : Type} (key : α → Nat) : List α → List α
  | [] => []
  | x :: t => insertBy key x (sortBy key t)

/-- The list without repeats, the first of equals kept. -/
def nubNat : List Nat → List Nat
  | [] => []
  | x :: t => x :: (nubNat t).filter (· ≠ x)

end Sys2Proof.Machine
end

