-- ==== Sys2Proof/Machine/Base.lean ====
section
/-! DEFINITION. Named access to harts, tiles, registers, partitions and physical memory; the agenda; the bittern log and
notices; the homes' reaction to a performed write. -/

namespace Sys2Proof.Machine

/-- What a step answers. -/
abbrev Out := Host.Outcome State Fault Refusal

/-- The tile of an index. -/
def tileAt (s : State) (t : Nat) : Tile := (alGet s.tiles t).getD Tile.reset

/-- The state with a tile replaced. -/
def setTile (s : State) (t : Nat) (x : Tile) : State := { s with tiles := alSet s.tiles t x }

/-- The state with a tile changed. -/
def modTile (s : State) (t : Nat) (f : Tile → Tile) : State := setTile s t (f (tileAt s t))

/-- One of the two harts of a tile. -/
def Tile.hart (x : Tile) (h1 : Bool) : Hart := if h1 then x.h1 else x.h0

/-- The tile with one of its harts replaced. -/
def Tile.setHart (x : Tile) (h1 : Bool) (h : Hart) : Tile := if h1 then { x with h1 := h } else { x with h0 := h }

/-- A hart of the package. -/
def getHart (s : State) (i : HartId) : Hart := (tileAt s i.tile).hart i.h1

/-- The state with a hart replaced. -/
def putHart (s : State) (i : HartId) (h : Hart) : State := modTile s i.tile fun x => x.setHart i.h1 h

/-- The state with a hart changed. -/
def modHart (s : State) (i : HartId) (f : Hart → Hart) : State := putHart s i (f (getHart s i))

/-- The hart whose turn it is. -/
def State.hart (s : State) : Hart := getHart s s.cur

/-- The tile of the hart whose turn it is. -/
def State.tile (s : State) : Tile := tileAt s s.cur.tile

/-- The state with the hart whose turn it is replaced. -/
def State.setHart (s : State) (h : Hart) : State := putHart s s.cur h

/-- The state with the hart whose turn it is changed. -/
def State.modHart (s : State) (f : Hart → Hart) : State := s.setHart (f s.hart)

/-- The state with the current hart's tile changed. -/
def State.modTile (s : State) (f : Tile → Tile) : State := Machine.modTile s s.cur.tile f

/-- Whether a register name refers to a shadow copy: g24 to g31 at U while a user-level handler runs (02 R51, 15 R305). -/
def Hart.shadowed (h : Hart) (r : GReg) : Bool := h.level == .u && h.uliActive && decide (24 ≤ r.toNat)

/-- The value of a general register; g0 reads as zero (02 R35). -/
def Hart.rg (h : Hart) (r : GReg) : Word :=
  if r = 0 then 0 else if h.shadowed r then h.shd.toList.getD (r.toNat - 24) 0 else h.g.get ⟨r.toNat, r.isLt⟩

/-- The hart with a general register written; a write to g0 is discarded (02 R35). -/
def Hart.wg (h : Hart) (r : GReg) (x : Word) : Hart :=
  if r = 0 then h
  else if h.shadowed r then { h with shd := h.shd.setIfInBounds (r.toNat - 24) x }
  else { h with g := h.g.set r.toNat x r.isLt }

/-- The hart moved past an instruction of n bytes. -/
def Hart.advance (h : Hart) (n : Nat) : Hart := { h with pc := h.pc + BitVec.ofNat 64 n }

/-- A vector register. -/
def Hart.rv (h : Hart) (r : VReg) : VWord := h.v.get ⟨r.toNat, r.isLt⟩

/-- A mask register. -/
def Hart.rk (h : Hart) (r : KReg) : KWord := h.k.get ⟨r.toNat, r.isLt⟩

/-- The partition that holds a tile (21 R413). -/
def partOf (s : State) (t : Nat) : Option Partition :=
  s.parts.find? fun p => p.tiles.any fun r => decide (r.1 ≤ t) && decide (t < r.1 + r.2)

/-- The number of the partition that holds a tile; 0xFF for none (19 R405). -/
def partNum (s : State) (t : Nat) : Nat := match partOf s t with | some p => p.num | none => 0xFF

/-- A partition by number. -/
def partByNum (s : State) (n : Nat) : Option Partition := s.parts.find? fun p => p.num == n

/-- The tiles of a partition in order of index (log 35). -/
def Partition.tileList (p : Partition) : List Nat := sortBy (fun t => t) (p.tiles.flatMap fun r => upTo r.1 r.2)

/-- Events put at the end of the agenda (log 7). -/
def schedule (s : State) (es : List Event) : State := { s with events := s.events ++ es.map Move.event }

/-- n bytes of physical memory as a number (16 R327). -/
def physRead (s : State) (n a : Nat) : Nat := memRead s.mem n a

/-- The operands of the event at the head of the agenda, and the state without it; none where the head is not an event. -/
def headEvent (s : State) : Option (Event × State) :=
  match s.events with
  | .event e :: t => some (e, { s with events := t })
  | _ => none

/-- n bytes of physical memory written by hardware at their home. -/
def physWrite (s : State) (n a x : Nat) : State := { s with mem := memWrite s.mem n a x }

/-- The 128-byte line of a physical address (04 R78). -/
def lineOf (a : Nat) : Nat := a / 128

/-- The 32-byte codeword of a physical address (19 R391). -/
def codewordOf (a : Nat) : Nat := a / 32

/-- The directory entry of a line in state I with every field clear (18 R361). -/
def DirEntry.clear : DirEntry :=
  { busy := none, poison := false, ref := 0, sv := false, sid := 0, sage := 0, ptrs := [] }

/-- The directory entry of a line. -/
def dirAt (s : State) (l : Nat) : DirEntry := (alGet s.dir l).getD DirEntry.clear

/-- The directory with an entry set; a clear entry is not listed (log 4). -/
def setDir (s : State) (l : Nat) (d : DirEntry) : State :=
  { s with dir := if d = DirEntry.clear then alDel s.dir l else alSet s.dir l d }

/-- A tile without a line in its caches (04 R78). -/
def dropLine (s : State) (t l : Nat) : State :=
  if (tileAt s t).lines.contains l then modTile s t fun x => { x with lines := x.lines.filter (· ≠ l) } else s

/-- Whether a fill of a line is on its way to a tile. -/
def fillInFlight (s : State) (l t : Nat) : Bool :=
  s.events.any fun m => match m with
    | .event (.fillResponse q _) => q.line == l && q.tile == t
    | _ => false

/-- What an invalidation does at a tile: the line is dropped, a fill in flight is stale (18 R362, R365). -/
def dropCopy (s : State) (t l : Nat) : State :=
  let s := dropLine s t l
  if fillInFlight s l t then modTile s t fun x => { x with staleFills := x.staleFills ++ [l] } else s

/-- Something that the move being made must wait for at a home (log 70). -/
def awaitOn (s : State) (a : Await) : State := if s.await.contains a then s else { s with await := s.await ++ [a] }

/-- A line at whose home the move being made must wait (log 70). -/
def awaitLine (s : State) (l : Nat) : State := awaitOn s { line := l }

/-- The mesh x and y of a tile (00 R2). -/
def tileX (t : Nat) : Nat := t % 36
def tileY (t : Nat) : Nat := t / 36

/-- Ids of requesters (18 R361, R370): a tile by its x and y with endpoint 0, the remote agent with endpoint 3, the management core,
with whose id the model also names the scheduler, with endpoint 4 (log 66, 73). -/
def tileId (t : Nat) : Nat := tileX t + 64 * tileY t
def remoteId : Nat := 3 * 2 ^ 12
def coreId : Nat := 4 * 2 ^ 12

/-- Whether a pointer names a tile or the host (18 R361). -/
def DirPtr.isCopy : DirPtr → Bool
  | .tile _ | .host => true
  | .resv _ _ => false

/-- The copies of a line that a write of a tile, or of a requester that is no tile, must have back before it is performed: every
other tile's, and the host's (18 R362, R377). -/
def DirEntry.others (d : DirEntry) (writer : Option Nat) : List DirPtr :=
  d.ptrs.filter fun p => p.isCopy && writer.map DirPtr.tile != some p

/-- What a performed write does to the other copies of a line: they are gone before it is performed. Where there are such, or the
home is busy with the line, the move waits, and the home invalidates them (04 R78, 18 R362, R377; log 70). -/
def invalidateOthers (s : State) (writer : Option Nat) (l : Nat) : State :=
  match alGet s.dir l with
  | none => s
  | some d =>
    if d.busy.isSome then awaitOn s { line := l, refused := some ((writer.map tileId).getD coreId) }
    else if (d.others writer).isEmpty then s
    else awaitOn s { line := l, out := d.others writer, writer := writer }

/-- A write performed at its homes: the bytes of one request, the other copies invalidated, and codewords and poisoned lines
that the request covers whole repaired (04 R78, 18 R380, 19 R391). -/
def performWrite (s : State) (writer : Option Nat) (cells : List Host.Cell) : State :=
  let s := { s with mem := memPut s.mem cells }
  let lines := if s.dir.isEmpty then [] else nubNat (cells.map fun c => lineOf c.1)
  let s := lines.foldl (fun s l => invalidateOthers s writer l) s
  let s := lines.foldl (fun s l =>
    if (dirAt s l).poison && (upTo (128 * l) 128).all fun a => cells.any fun c => c.1 == a then
      setDir s l { dirAt s l with poison := false } else s) s
  if s.bad.isEmpty then s else
  { s with bad := s.bad.filter fun w => !((upTo (32 * w) 32).all fun a => cells.any fun c => c.1 == a) }

/-- Whether a byte lies in a codeword whose error cannot be corrected, or in a poisoned line (18 R380, 19 R391; log 31). -/
def isBad (s : State) (a : Nat) : Bool := s.bad.contains (codewordOf a) || (dirAt s (lineOf a)).poison

/-- The first bad byte of a range (log 31). -/
def badIn (s : State) (a n : Nat) : Option Nat :=
  if s.bad.isEmpty && s.dir.isEmpty then none else (upTo a n).find? fun x => isBad s x

/-- The new value of an atomic on w bits; none where AMOCAS fails (06 R135). -/
def amoNew (op : AmoOp) (n : Bool) (w old opnd expected : Nat) : Option Nat :=
  let less := if n then decide (old < opnd) else decide (sint w old < sint w opnd)
  match op with
  | .add => some ((old + opnd) % 2 ^ w)
  | .and => some (old &&& opnd)
  | .or => some (old ||| opnd)
  | .xor => some (old ^^^ opnd)
  | .min => some (if less then old else opnd)
  | .max => some (if less then opnd else old)
  | .swp => some opnd
  | .cas => if old = expected then some opnd else none

/-- The bytes of memory that a request touches, with what a write puts there. -/
def actionCells : HomeAction → List Host.Cell
  | .fill => []
  | .read n a => cellsOf n a 0
  | .write cells => cells
  | .nibble a _ _ => [(a, 0)]
  | .atomic _ _ n a _ _ => cellsOf n a 0

/-- A byte with one of its nibbles replaced (03 R54). -/
def withNibble (b : Byte) (hi : Bool) (x : Nat) : Byte := BitVec.ofNat 8 (putBits b.toNat (4 * bit hi) 4 x)

/-- A request of a writer's tile performed at its home (18 R362, R369); a nibble is merged there with the other of its byte
(04 R79). -/
def performAction (s : State) (writer : Option Nat) (x : HomeAction) : State :=
  match x with
  | .fill | .read _ _ => s
  | .write cells => performWrite s writer cells
  | .nibble a hi x => performWrite s writer [(a, withNibble (memGet s.mem a) hi x.toNat)]
  | .atomic op n k a v ex =>
    match amoNew op n (8 * k) (physRead s k a) (v.toNat % 2 ^ (8 * k)) (ex.toNat % 2 ^ (8 * k)) with
    | some y => performWrite s writer (cellsOf k a y)
    | none => s

/-- A record entered in the bittern log with a SEV (0: the kind's, which the spec does not settle): the next SEQ, the ring of
4,096 records, LOGSEQ and GEN (19 R402, R405; log 24, 40, 42). -/
def addLog (s : State) (kind sev part : Nat) (ctx : BitVec 16) (tile : Nat) (addr data0 data1 : Nat) : State :=
  let seq := s.logSeq + 1
  let rec' : LogRecord :=
    { seq := seq, kind := BitVec.ofNat 16 kind, sev := if sev = 0 then Config.severity kind else BitVec.ofNat 8 sev, part := BitVec.ofNat 8 part, ctx := ctx,
      tile := BitVec.ofNat 16 tile, addr := BitVec.ofNat 64 addr, data0 := BitVec.ofNat 64 data0,
      data1 := BitVec.ofNat 64 data1, data2 := 0 }
  let l := s.log ++ [rec']
  { s with log := l.drop (l.length - 4096), logSeq := seq, gen := s.gen + 1 }

/-- A management notice on a hart: SIP.MGMT and the SEQ that interrupt 0x22 reports (15 R307). MSI-X tells the host
(18 R376; log 41). -/
def notify (s : State) (i : HartId) (seq : Word) : State :=
  let s := Machine.modHart s i fun h => { h with sip := h.sip ||| 4, noticeSeq := seq }
  if s.link then { s with hostOut := s.hostOut ++ [.msix seq] } else s

/-- The compute die of a tile (00 R2). -/
def dieOf (t : Nat) : Nat := 2 * (t / 36 / 16) + t % 36 / 18

/-- The voltage domain of a tile (19 R400). -/
def domainOf (t : Nat) : Nat :=
  let y := t / 36 % 16
  9 * dieOf t + 3 * (if y < 5 then 0 else if y < 10 then 1 else 2) + t % 36 % 18 / 6

/-- Both harts of every tile that the state lists. -/
def listedHarts (s : State) : List HartId := s.tiles.flatMap fun e => [⟨e.1, false⟩, ⟨e.1, true⟩]

/-- The flags of FFLAGS (02 R46): NV, OF, UF, NX, DZ, VINV. -/
def flagNV : BitVec 6 := 1
def flagOF : BitVec 6 := 2
def flagUF : BitVec 6 := 4
def flagNX : BitVec 6 := 8
def flagDZ : BitVec 6 := 16
def flagVINV : BitVec 6 := 32

/-- Bits 51:2 of an address register (15 R303, R304). -/
def addrField (x : Word) : Word := x &&& 0x000FFFFFFFFFFFFC

end Sys2Proof.Machine
end

