-- ==== Sys2Proof/Machine/Mmu.lean ====
section
/-! DEFINITION. Address translation (spec 16), memory types (04 R76), and the conflict rules of range reservations
(04 R89 to R92, 18 R366 to R369). -/

namespace Sys2Proof.Machine

/-- The kinds of access that translation tells apart (16 R332, R333). -/
inductive AccKind where
  | fetch | load | store | weight
  deriving DecidableEq, Repr

/-- The page fault of an access kind (16 R332). -/
def AccKind.pageFault : AccKind → BitVec 8
  | .fetch => 0x05 | .load => 0x06 | .store => 0x07 | .weight => 0x06

/-- The subcode of cause 0x08 (16 R333). -/
def AccKind.sub : AccKind → BitVec 4
  | .fetch => 2 | .load => 0 | .store => 1 | .weight => 3

/-- A trap of a cause with subcode 0 from which the context can resume. -/
def trapOf (code : BitVec 8) (tval : Word) : TrapRec := { code := code, sub := 0, tval := tval, unres := false }

/-- Cause 0x0E for bad data at a physical address: TVAL names the codeword (19 R393; log 72). -/
def badDataTrap (pa : Nat) : TrapRec :=
  { code := 0x0E, sub := 0, tval := BitVec.ofNat 64 (32 * codewordOf pa), unres := true }

/-- Who makes an access, for the reservation rules (04 R90). -/
inductive Accessor where
  /-- A hart in its context. -/
  | hart (i : HartId) (part : Nat) (ctx : BitVec 16)
  /-- A stream engine of a tile. -/
  | engine (tile : Nat) (e : Engine)
  /-- The host over CXL. -/
  | host
  /-- A remote operation from a peer. -/
  | remote
  /-- Hardware that acts for no context: a table walk, the scheduler, the management core. -/
  | agent
  deriving DecidableEq, Repr

/-- The id under which an accessor asks a home (18 R361). -/
def Accessor.id : Accessor → Nat
  | .hart i _ _ => tileId i.tile
  | .engine t _ => tileId t
  | .remote => remoteId
  | .host | .agent => coreId

/-- The tile whose caches an accessor shares. -/
def Accessor.tile : Accessor → Option Nat
  | .hart i _ _ => some i.tile
  | .engine t _ => some t
  | .remote | .host | .agent => none

/-- The address space an access is made in: level, root and ASID (none while the hart is untranslated), partition
(16 R328, R329, R335); who walks it, the line of the context entry it was read from, where a use of it reads that entry (04 R89), and
the translations that a queued vector instruction was given at its issue (01 R20). -/
structure Space where
  level : Level
  table : Option (Word × BitVec 16)
  part : Option Partition
  who : Accessor := .agent
  ctxLine : Option Nat := none
  pinned : List TlbEntry := []
  deriving DecidableEq, Repr

/-- The windows of physical addresses (16 R327). -/
inductive Window where
  | hbm | device | host | outside
  deriving DecidableEq, Repr

/-- The window of a physical address (16 R327). -/
def windowOf (pa : Nat) : Window :=
  if pa < 0x10000000000 then .hbm
  else if 0x4000000000000 ≤ pa && pa < 0x4000100000000 then .device
  else if 0x8000000000000 ≤ pa && pa < 0x10000000000000 then .host
  else .outside

/-- Whether a memory type may map a window (16 R327). -/
def typeSuits (ty : Nat) : Window → Bool
  | .hbm => ty == 0 || ty == 2
  | .device => ty == 3
  | .host => ty == 1 || ty == 3
  | .outside => false

/-- The memory type of an untranslated access by its window (16 R328). -/
def untranslatedType : Window → Option Nat
  | .hbm => some 0
  | .device => some 3
  | .host => some 3
  | .outside => none

/-- The range of a partition that holds a physical address (16 R335). -/
def rangeOf (p : Option Partition) (pa : Nat) : Option PRange :=
  match p with
  | none => none
  | some p => p.ranges.find? fun r => decide (r.base ≤ pa) && decide (pa < r.base + r.len)

/-- The identity of a reservation (04 R92). -/
def Resv.ident (r : Resv) : Word :=
  BitVec.ofNat 64 (r.asid.toNat * 2 ^ 48 + tileY r.tile * 2 ^ 12 + tileX r.tile * 2 ^ 6 + r.e.toNat * 2 ^ 4 + bit r.wi)

/-- Whether the accessor is the hart that opened a reservation (04 R90, 15 R325). -/
def Resv.opener (r : Resv) : Accessor → Bool
  | .hart i part ctx => i.tile == r.tile && i.h1 == r.h1 && part == r.part && ctx == r.ctx
  | _ => false

/-- Whether the access is the reservation's own stream engine's (18 R367). -/
def Resv.own (r : Resv) : Accessor → Bool
  | .engine t e => t == r.tile && e == r.e
  | _ => false

/-- How the homes answer an access that may meet reservations (04 R90, R91). -/
inductive Conflict where
  /-- Served; the named reservations are cut. -/
  | serve (cuts : List (Nat × Engine))
  /-- Cause 0x09 with the identity; for a remote operation status 4. -/
  | refuse (ident : Word)
  /-- Held until the reservation is released. -/
  | hold (tile : Nat) (e : Engine)
  deriving DecidableEq, Repr

/-- The TRAP reservation among some that was registered first at the home of the first line where one stands: the directory
keeps the order in which pointers were added (04 R91, 18 R361). -/
def firstTrap (s : State) (live : List Resv) (lines : List Nat) : Option Resv :=
  let trap := live.filter fun r => r.policy == .trap
  match lines.findSome? fun l => (dirAt s l).ptrs.findSome? fun p => match p with
    | .resv t e => trap.find? fun r => r.tile == t && r.e == e
    | .tile _ | .host => none with
  | some r => some r
  | none => trap.head?

/-- Whether the move being made is that of a request which was held under a reservation that its homes free: what frees the rest comes
next (18 R369; log 56). -/
def fromHold (s : State) (r : Resv) : Bool :=
  r.freeing && (match s.events with
    | .event (.reservationFree t e) :: _ => t == r.tile && e == r.e
    | _ => false)

/-- The answer of the homes to an access of some lines: a reservation that is being freed still stands in the way of what comes after the
requests held under it (04 R89 to R91, 18 R369). -/
def conflict (s : State) (who : Accessor) (lines : List Nat) (write : Bool) : Conflict :=
  if s.resvs.isEmpty then .serve [] else
  let rs := s.resvs.filter fun r => (r.wi || write) && !r.own who && r.lines.any fun l => lines.contains l
  let live := rs.filter fun r => !r.cut && !fromHold s r
  match live.find? fun r => r.opener who with
  | some r => .refuse r.ident
  | none =>
    let cuts := (live.filter fun r => r.policy == .split || who == .host).map fun r => (r.tile, r.e)
    if who == .host then .serve cuts else
    match firstTrap s live lines with
    | some r => .refuse r.ident
    | none =>
      match live.find? fun r => r.policy == .wait with
      | some r => .hold r.tile r.e
      | none => .serve cuts

/-- Every SPLIT reservation among those an access meets is cut before a held access waits (04 R91). -/
def splitCuts (s : State) (who : Accessor) (lines : List Nat) (write : Bool) : List (Nat × Engine) :=
  (s.resvs.filter fun r => (r.wi || write) && !r.own who && !r.cut && r.policy == .split &&
    r.lines.any fun l => lines.contains l).map fun r => (r.tile, r.e)

/-- Reservations cut: the home serves conflicts at once and tells the engine (18 R368). -/
def cutResvs (s : State) (cuts : List (Nat × Engine)) : State :=
  if cuts.isEmpty then s else
  let s := { s with resvs := s.resvs.map fun r => if cuts.contains (r.tile, r.e) then { r with cut := true } else r }
  schedule s (cuts.map fun c => .cutNotice c.1 c.2)

/-- The lines that n bytes from a physical address lie in. -/
def linesOf (pa n : Nat) : List Nat := nubNat ((upTo pa n).map lineOf)

/-- One address in each 64 KiB that a range touches, rising. -/
def probes (va n : Nat) : List Nat :=
  va :: (upTo (va / 2 ^ 16 + 1) ((va + n - 1) / 2 ^ 16 - va / 2 ^ 16)).map fun p => p * 2 ^ 16

/-- The lines that one access of at most 8 aligned bytes lies in. -/
def lineList (pa n : Nat) : List Nat := if lineOf pa = lineOf (pa + n - 1) then [lineOf pa] else linesOf pa n

/-- The home slice of a line (16 R334; log 12): a line of host memory at a bridge slice of base die 0, numbered from 2,048;
else, by the home policy of the range that holds it, one of the 2,048 slices of the package, one of the 256 of the base die of
its page, or the one slice of its page: of its aligned 16 GiB, which hold whole every page, whatever its size, that contains the line. -/
def sliceOf (s : State) (l : Nat) : Nat :=
  let page := 128 * l / 2 ^ 34
  if windowOf (128 * l) = .host then 2048 + Config.homeHash 3 l
  else match (s.parts.findSome? fun p => rangeOf (some p) (128 * l)).map fun r => r.policy.toNat with
    | some 1 => 256 * (Config.dieOfPage page % 8) + Config.homeHash 1 l % 256
    | some 2 => Config.homeHash 2 page % 2048
    | _ => Config.homeHash 0 l % 2048

/-- Whether a home refuses a requester an access to a line: it is busy, or reserved for another (18 R362 to R364). -/
def lineDenied (s : State) (id l : Nat) : Bool :=
  match alGet s.dir l with
  | some d => d.busy.isSome || (d.sv && d.sid != id)
  | none => false

/-- A refusal counted toward starvation (18 R364): REF, the refused request with the highest AGE, SV at 16 (log 66). -/
def DirEntry.refusal (d : DirEntry) (id age : Nat) : DirEntry :=
  let newer := (d.ref == 0 && !d.sv && d.sid == 0 && d.sage == 0) || decide (d.sage < age) || (d.sage == age && decide (id < d.sid))
  let ref := min 16 (d.ref + 1)
  { d with ref := ref, sid := if newer then id else d.sid, sage := if newer then age else d.sage, sv := d.sv || ref == 16 }

/-- A request that completes (18 R364): with AGE above 0 it clears REF, and SV where it is SID's (log 66). -/
def DirEntry.completed (d : DirEntry) (id age : Nat) : DirEntry :=
  if age = 0 then d
  else if d.sid = id then { d with ref := 0, sv := false, sid := 0, sage := 0 } else { d with ref := 0 }

/-- The AGE of an access that a home has refused (18 R363). -/
def ageOf (s : State) (id l : Nat) : Nat := ((s.refused.find? fun r => r.1 == id && r.2.1 == l).map fun r => r.2.2).getD 0

/-- Whether a home is busy with a line for the write of the requester itself, which it completes at its retry (18 R362; log 70). -/
def busyFor (s : State) (id l : Nat) : Bool :=
  match (dirAt s l).busy with
  | some (_, .again (some t)) => tileId t == id
  | some (_, .again none) => decide (remoteId ≤ id)
  | some (_, .req _) | some (_, .evict) | some (_, .hostWrite _ _) | some (_, .hostRead _) | none => false

/-- The refusals of an access of some lines counted, at the homes and in its AGE (18 R363, R364). -/
def refuseLines (s : State) (id : Nat) (lines : List Nat) : State :=
  (lines.filter fun l => lineDenied s id l && !busyFor s id l).foldl (fun s l =>
    let age := ageOf s id l
    let s := setDir s l ((dirAt s l).refusal id age)
    { s with refused := (id, l, min 255 (age + 1)) :: s.refused.filter fun r => !(r.1 == id && r.2.1 == l) }) s

/-- An access of some lines that a home had refused and that completes now (18 R364). -/
def completeLines (s : State) (id : Nat) (lines : List Nat) : State :=
  if s.refused.isEmpty then s else
  lines.foldl (fun s l =>
    let age := ageOf s id l
    if age = 0 then s else
    let s := setDir s l ((dirAt s l).completed id age)
    { s with refused := s.refused.filter fun r => !(r.1 == id && r.2.1 == l) }) s

/-- An access of some lines as their homes meet it, for one that cannot answer that it waits (04 R89 to R91, 18 R363, R364, R367): the
identity of the TRAP reservation that refuses it, where one does; where a home holds it under WAIT or refuses it for now, the move
waits (log 70). -/
def meetAt (s : State) (who : Accessor) (lines : List Nat) (write : Bool) : Option Word × State :=
  match conflict s who lines write with
  | .refuse ident => (some ident, s)
  | .hold t e =>
    (none, lines.foldl (fun s l => awaitOn s { line := l, held := some (t, e, write) }) (cutResvs s (splitCuts s who lines write)))
  | .serve cuts =>
    let s := cutResvs s cuts
    match lines.filter fun l => lineDenied s who.id l with
    | [] => (none, completeLines s who.id lines)
    | den => (none, den.foldl (fun s l => awaitOn s { line := l, refused := some who.id }) s)

/-- The state after an access of some lines that no TRAP reservation refuses (18 R367; log 70). -/
def meet (s : State) (who : Accessor) (lines : List Nat) (write : Bool) : State := (meetAt s who lines write).2

/-- Whether a TRAP reservation refuses an access (04 R90, 18 R367; log 70). -/
def refuses (s : State) (who : Accessor) (lines : List Nat) (write : Bool) : Bool :=
  match conflict s who lines write with
  | .refuse _ => true
  | .serve _ | .hold _ _ => false

/-- The low index bit of a level of the table (16 R330). -/
def levelShift : Nat → Nat
  | 0 => 43 | 1 => 34 | 2 => 25 | _ => 16

/-- How a walk ends: at a leaf with the entry's physical address, its value and the bits of the page offset; in a bad entry;
at an entry that cannot be read (16 R332). -/
inductive Walk where
  | leaf (entry value bits : Nat)
  | fault
  | unreadable (entry : Nat)
  deriving DecidableEq, Repr

/-- A walk from a level whose table lies at a physical address (16 R330 to R332); fuel counts the levels left (log 19). -/
def walkFrom (s : State) (p : Option Partition) (va : Nat) : Nat → Nat → Nat → Walk
  | 0, _, _ => .fault
  | fuel + 1, lvl, table =>
    let a := table + 8 * fld va (levelShift lvl) 9
    if (rangeOf p a).isNone || (badIn s a 8).isSome then .unreadable a else
    let e := physRead s 8 a
    if fld e 0 1 = 0 then .fault
    else if fld e 1 4 = 0 then
      if fld e 52 12 ≠ 0 || fld e 1 11 ≠ 0 || lvl = 3 then .fault
      else walkFrom s p va fuel (lvl + 1) (fld e 12 40 * 4096)
    else .leaf a e (levelShift lvl)

/-- The walk of a virtual address from ROOT (16 R330). -/
def walk (s : State) (p : Option Partition) (root : Word) (va : Nat) : Walk := walkFrom s p va 4 0 root.toNat

/-- The physical address that a leaf gives a virtual address (16 R331). -/
def leafAddr (e bits va : Nat) : Nat := fld e bits (52 - bits) * 2 ^ bits + va % 2 ^ bits

/-- Whether a leaf at a page size is good (16 R332): the fields that must be zero, W without R, TYPE, HOME, the window of the
whole page and the policy of every range of the partition that the page touches (log 71). -/
def goodLeaf (p : Option Partition) (e bits : Nat) : Bool :=
  let base := leafAddr e bits 0
  let ty := fld e 56 3
  let home := fld e 9 2
  bits != 43 && fld e 52 4 == 0 && fld e 11 5 == 0 && fld e 16 (bits - 16) == 0 &&
  !(fld e 2 1 == 1 && fld e 1 1 == 0) && ty < 4 && home != 3 &&
  typeSuits ty (windowOf base) && windowOf base == windowOf (base + 2 ^ bits - 1) &&
  !(home != 0 && (ty == 1 || ty == 3)) &&
  (match p with
   | some p => p.ranges.all fun r =>
      r.policy.toNat == home || decide (r.base + r.len ≤ base) || decide (base + 2 ^ bits ≤ r.base)
   | none => true)

/-- Whether a good leaf permits an access (16 R333). -/
def permits (k : AccKind) (lvl : Level) (e : Nat) : Bool :=
  let u := fld e 5 1 == 1
  match k with
  | .fetch => fld e 3 1 == 1 && (match lvl with | .u => u | .s => !u)
  | .load => fld e 1 1 == 1 && (match lvl with | .u => u | .s => true)
  | .store => fld e 2 1 == 1 && (match lvl with | .u => u | .s => true)
  | .weight => fld e 4 1 == 1 && (match lvl with | .u => u | .s => true)

/-- A translation: physical address, memory type, the leaf entry where there is one; or a trap. -/
inductive Trans where
  | ok (pa ty : Nat) (entry : Option (Nat × Nat × Nat))
  | trap (t : TrapRec)
  deriving DecidableEq, Repr

/-- The page fault of a kind at a virtual address. -/
def pageFaultAt (k : AccKind) (va : Nat) : Trans := .trap (trapOf k.pageFault (BitVec.ofNat 64 va))

/-- Cause 0x08 of a kind with an address. -/
def permissionAt (k : AccKind) (a : Nat) : Trans :=
  .trap { code := 0x08, sub := k.sub, tval := BitVec.ofNat 64 a, unres := false }

/-- What a leaf gives an access: the fault of a bad or refusing leaf, or the translation (16 R332, R333, R335; log 71). -/
def leafTrans (sp : Space) (k : AccKind) (va entry e bits : Nat) : Trans :=
  if !goodLeaf sp.part e bits then pageFaultAt k va
  else
    let pa := leafAddr e bits va
    if !permits k sp.level e then permissionAt k va
    else if (rangeOf sp.part pa).isNone then permissionAt k va
    else if fld e 56 3 == 3 && k == .fetch then permissionAt k va
    else .ok pa (fld e 56 3) (some (entry, e, bits))

/-- The addresses of the entries that a walk reads (16 R330). -/
def walkReads (s : State) (p : Option Partition) (va : Nat) : Nat → Nat → Nat → List Nat
  | 0, _, _ => []
  | fuel + 1, lvl, table =>
    let a := table + 8 * fld va (levelShift lvl) 9
    if (rangeOf p a).isNone || (badIn s a 8).isSome then [a] else
    let e := physRead s 8 a
    a :: if fld e 0 1 = 1 ∧ fld e 1 4 = 0 ∧ fld e 52 12 = 0 ∧ fld e 1 11 = 0 then
        walkReads s p va fuel (lvl + 1) (fld e 12 40 * 4096) else []

/-- The identity of the TRAP reservation that refuses a walk one of its reads (04 R89, R90). -/
def walkRefusal (s : State) (sp : Space) (root : Word) (va : Nat) : Option Word :=
  if s.resvs.isEmpty then none else
  (walkReads s sp.part va 4 0 root.toNat).findSome? fun a => match conflict s sp.who [lineOf a] false with
    | .refuse ident => some ident
    | .serve _ | .hold _ _ => none

/-- A fresh walk for an access (16 R330 to R335): a read of it that a TRAP reservation refuses traps with cause 0x09 (04 R90; log 19,
72). -/
def walkTrans (s : State) (sp : Space) (root : Word) (k : AccKind) (va : Nat) : Trans :=
  match walkRefusal s sp root va with
  | some ident => .trap (trapOf 0x09 ident)
  | none =>
    match walk s sp.part root va with
    | .fault => pageFaultAt k va
    | .unreadable a => .trap { badDataTrap a with tval := BitVec.ofNat 64 a }
    | .leaf entry e bits => leafTrans sp k va entry e bits

/-- The cached translation of an address (16 R336). -/
def tlbFind (s : State) (asid : BitVec 16) (va : Nat) : Option TlbEntry :=
  s.tlb.find? fun t => (t.glob || t.asid == asid) && t.vpage == va / 2 ^ t.bits

/-- The bits of a leaf that an access of a kind asks for: A, and D for a write (16 R337). -/
def markBits (k : AccKind) : Nat := if k == .store then 0xC0 else 0x40

/-- A cached translation that grants an access, but not with A and D set as it needs them: what the entry at its home gives now
(16 R337; log 72). -/
def refreshed (s : State) (sp : Space) (k : AccKind) (va entry bits : Nat) : Trans :=
  let e := physRead s 8 entry
  if (badIn s entry 8).isSome then .trap { badDataTrap entry with tval := BitVec.ofNat 64 entry }
  else if fld e 0 1 = 0 ∨ fld e 1 4 = 0 then pageFaultAt k va
  else leafTrans sp k va entry e bits

/-- What the cached translation of an address gives an access: none where there is none, or where what it gives is a fault, so that the
tables are walked once more from ROOT (16 R336 to R338). -/
def cachedTrans (s : State) (sp : Space) (k : AccKind) (asid : BitVec 16) (va : Nat) : Option Trans :=
  match tlbFind s asid va with
  | none => none
  | some t =>
    match leafTrans sp k va t.ppage t.leaf.toNat t.bits with
    | .trap _ => none
    | .ok pa ty e =>
      if t.leaf.toNat &&& markBits k = markBits k then some (.ok pa ty e)
      else match refreshed s sp k va t.ppage t.bits with
        | .trap _ => none
        | r => some r

/-- A translation whose leaf must be marked first, where a TRAP reservation refuses that write (04 R90, 16 R337). -/
def markable (s : State) (sp : Space) (k : AccKind) (t : Trans) : Trans :=
  match t with
  | .ok _ _ (some (entry, e, _)) =>
    if e &&& markBits k = markBits k then t
    else match conflict s sp.who [lineOf entry] true with
      | .refuse ident => .trap (trapOf 0x09 ident)
      | .serve _ | .hold _ _ => t
  | .ok _ _ none | .trap _ => t

/-- The translation of an address that a vector instruction was given at its issue (01 R20). -/
def pinnedTrans (sp : Space) (k : AccKind) (va : Nat) : Option Trans :=
  (sp.pinned.find? fun t => t.vpage == va / 2 ^ t.bits).bind fun t =>
    match leafTrans sp k va t.ppage t.leaf.toNat t.bits with
    | .ok pa ty e => some (.ok pa ty e)
    | .trap _ => none

/-- Translation of an address for an access: the address check of 06 R126, before that of 16 R328 (log 19), the untranslated rule of 16
R328, the translation given at issue, a cached translation where it grants the access, else a walk (16 R330 to R338). -/
def translate (s : State) (sp : Space) (k : AccKind) (va : Word) : Trans :=
  let a := va.toNat
  if 2 ^ 52 ≤ a then pageFaultAt k a else
  match sp.table with
  | none =>
    match untranslatedType (windowOf a) with
    | none => permissionAt k a
    | some ty =>
      if (rangeOf sp.part a).isNone then permissionAt k a
      else if ty == 3 && k == .fetch then permissionAt k a
      else .ok a ty none
  | some (root, asid) =>
    match pinnedTrans sp k a with
    | some t => t
    | none => markable s sp k ((cachedTrans s sp k asid a).getD (walkTrans s sp root k a))

/-- The state without the cached translations of an address: a refusing one is dropped before the fault is reported (16 R338).
-/
def dropTrans (s : State) (sp : Space) (va : Nat) : State :=
  match sp.table with
  | none => s
  | some (_, asid) => if s.tlb.isEmpty then s else { s with tlb := s.tlb.filter fun x => !((x.glob || x.asid == asid) && x.vpage == va / 2 ^ x.bits) }

/-- The line of a held request. -/
def Held.line (h : Held) : Nat :=
  match h.fill with
  | some q => q.line
  | none => ((actionCells h.action).head?.map fun c => lineOf c.1).getD 0

/-- How many more requests the hold buffer of a line's home slice takes (18 R366, R369; log 12). -/
def holdRoom (s : State) (l : Nat) : Nat :=
  if s.held.isEmpty then 64 else 64 - (s.held.filter fun h => sliceOf s h.line == sliceOf s l).length

/-- Whether the hold buffer of a line's home slice is full (18 R366, R369; log 12). -/
def holdFull (s : State) (l : Nat) : Bool :=
  if s.held.length < 64 then false else holdRoom s l == 0

/-- Whether a home is busy with a line: a request is then refused and retried (18 R362, R363). -/
def lineBusy (s : State) (l : Nat) : Bool := match alGet s.dir l with | some d => d.busy.isSome | none => false

/-- The reads of a walk, and that of the context entry, as the homes of the entries meet them (16 R330, 18 R367). -/
def meetWalk (s : State) (sp : Space) (k : AccKind) (va : Nat) : State :=
  if s.resvs.isEmpty && s.dir.isEmpty then s else
  let s := match sp.ctxLine with
    | some l => meet s sp.who [l] false
    | none => s
  match sp.table with
  | none => s
  | some (root, asid) =>
    if (pinnedTrans sp k va).isSome || (cachedTrans s sp k asid va).isSome || decide (2 ^ 52 ≤ va) then s
    else meet s sp.who (nubNat ((walkReads s sp.part va 4 0 root.toNat).map lineOf)) false

/-- What the hardware writes before an access through a leaf is performed: A, and D for a write, by an atomic update at the
entry's home, which writes only where the entry then read still grants the access, and the cached translation while caching is modelled
(16 R336, R337). An entry whose bits are set is not written (log 5). -/
def markLeaf (s : State) (sp : Space) (k : AccKind) (va : Nat) : Option (Nat × Nat × Nat) → State
  | none => s
  | some (entry, e, bits) =>
    let s := meetWalk s sp k va
    let e' := e ||| markBits k
    let now := physRead s 8 entry
    let grants := fld now 0 1 == 1 && fld now 1 4 != 0 && (match leafTrans sp k va entry now bits with | .ok _ _ _ => true | .trap _ => false)
    let s := if e &&& markBits k = markBits k then s
      else if !grants || refuses s sp.who [lineOf entry] true then s
      else performWrite (meet s sp.who [lineOf entry] true) sp.who.tile (cellsOf 8 entry (physRead s 8 entry ||| markBits k))
    match sp.table with
    | none => s
    | some (_, asid) =>
      if !s.relaxed then s else
      let t : TlbEntry := { asid := asid, glob := bitAt e 8, vpage := va / 2 ^ bits, bits := bits,
                            leaf := BitVec.ofNat 64 e', ppage := entry }
      { dropTrans s sp va with tlb := t :: (dropTrans s sp va).tlb }

/-- What a translation that fails leaves: its reads met at their homes, the cached translations of the address dropped (16 R338, 18
R367). -/
def failTrans (s : State) (sp : Space) (k : AccKind) (va : Nat) : State := dropTrans (meetWalk s sp k va) sp va

/-- Translation for an agent that memory of type 3 rejects: a rejection found through a cached translation is reported only
where a fresh walk finds it too (04 R76, 16 R338). -/
def agentTrans (s : State) (sp : Space) (k : AccKind) (va : Word) : Trans :=
  match translate s sp k va with
  | .ok pa 3 e => if s.tlb.isEmpty then .ok pa 3 e else translate { s with tlb := [] } sp k va
  | t => t

/-- The root and ASID of a context's entry in its partition's context table; none where the entry cannot be read, is not
valid or has a non-zero bit that must be zero (16 R328; log 19). -/
def ctxEntry (s : State) (p : Partition) (c : BitVec 16) : Option (Word × BitVec 16) :=
  let a := p.ctxBase + 16 * c.toNat
  if (rangeOf (some p) a).isNone || (badIn s a 16).isSome then none else
  let lo := physRead s 8 a
  let hi := physRead s 8 (a + 8)
  if fld lo 0 1 = 1 ∧ fld lo 1 11 = 0 ∧ fld lo 52 12 = 0 ∧ hi < 2 ^ 16 then
    some (BitVec.ofNat 64 (fld lo 12 40 * 4096), BitVec.ofNat 16 hi)
  else none

/-- The line of a context's entry (16 R328). -/
def ctxLineOf (p : Partition) (c : BitVec 16) : Nat := lineOf (p.ctxBase + 16 * c.toNat)

/-- The entry of a context as an accessor reads it: none also where a TRAP reservation refuses the read (04 R90, 16 R328). -/
def ctxEntryFor (s : State) (who : Accessor) (p : Partition) (c : BitVec 16) : Option (Word × BitVec 16) :=
  if refuses s who [ctxLineOf p c] false then none else ctxEntry s p c

/-- The address space of a context for an agent of a partition (16 R329): agents act at U (log 29). -/
def ctxSpace (s : State) (who : Accessor) (p : Partition) (c : BitVec 16) : Option Space :=
  (ctxEntryFor s who p c).map fun t =>
    { level := .u, table := some t, part := some p, who := who, ctxLine := some (ctxLineOf p c) }

/-- The address space in which the scheduler reaches a completion record (17 R348, R358): it is no agent that the context
started, and pages with either value of U serve it (log 29). -/
def recordSpace (s : State) (p : Partition) (c : BitVec 16) : Option Space :=
  (ctxSpace s .agent p c).map fun sp => { sp with level := .s }

/-- A held request that returns nothing (04 R90): in the hold buffer, counted by its hart. -/
def holdAction (s : State) (tile : Nat) (e : Engine) (i : Option HartId) (x : HomeAction) : State :=
  let s := { s with held := s.held ++ [{ tile := tile, e := e, hart := i, action := x, returns := false, fill := none }] }
  match i with
  | none => s
  | some i => Machine.modHart s i fun h => { h with heldWrites := h.heldWrites + 1 }

/-- A held read of a hart, or an atomic whose old value it waits for, at a virtual address (04 R90, 18 R369): once in the hold buffer,
unless that is full. -/
def holdRead (s : State) (tile : Nat) (e : Engine) (i : Option HartId) (va : Word) (x : HomeAction) : State :=
  match i with
  | none => s
  | some i =>
    if (s.held.any fun h => h.returns && h.hart == some i) || (actionCells x).any (fun c => holdFull s (lineOf c.1)) then s
    else { s with held := s.held ++ [{ tile := tile, e := e, hart := some i, action := x, returns := true, fill := none, va := va }] }

/-- A held write (04 R90). -/
def holdWrite (s : State) (tile : Nat) (e : Engine) (i : Option HartId) (cells : List Host.Cell) : State :=
  holdAction s tile e i (.write cells)

/-- A read by an agent in an address space, of n bytes that lie in one page: the bytes as a number, or none where the access
faults, meets bad data or is refused. One that a home holds, or is busy for, lets the move wait (04 R90; log 70). -/
def agentLoad (s : State) (who : Accessor) (sp : Space) (n : Nat) (va : Word) : Option Nat × State :=
  match agentTrans s sp .load va with
  | .trap _ => (none, failTrans s sp .load va.toNat)
  | .ok pa ty entry =>
    if ty == 3 then (none, failTrans s sp .load va.toNat) else
    if refuses s who (lineList pa n) false then (none, s) else
    let u := meet s who (lineList pa n) false
    if (badIn s pa n).isSome then (none, u) else (some (physRead s n pa), markLeaf u sp .load va.toNat entry)

/-- A write by an agent in an address space, of n bytes that lie in one page; false where the access faults or is refused. One
that a home holds, or is busy for, lets the move wait (04 R90; log 70). -/
def agentStore (s : State) (who : Accessor) (sp : Space) (n : Nat) (va : Word) (x : Nat) : Bool × State :=
  match agentTrans s sp .store va with
  | .trap _ => (false, failTrans s sp .store va.toNat)
  | .ok pa ty entry =>
    if ty == 3 then (false, failTrans s sp .store va.toNat) else
    if refuses s who (lineList pa n) true then (false, s) else
    let s := markLeaf (meet s who (lineList pa n) true) sp .store va.toNat entry
    (true, performWrite s who.tile (cellsOf n pa x))

end Sys2Proof.Machine
end

