-- ==== Sys2Proof/Machine/Farms.lean ====
section
/-! DEFINITION. Strip farms: the rake (01 R15), verdicts and the task graph (17 R355 to R357), completion records
(17 R358). -/

namespace Sys2Proof.Machine

/-- A farm by its number. -/
def farmBy (s : State) (id : Nat) : Option Farm := s.farms.find? fun f => f.id == id

/-- The state with a farm changed. -/
def modFarm (s : State) (id : Nat) (f : Farm → Farm) : State :=
  { s with farms := s.farms.map fun x => if x.id == id then f x else x }

/-- The number of strips of a packet (01 R15). -/
def Packet.strips (p : Packet) : Nat := (p.n.toNat + p.s.toNat - 1) / p.s.toNat

/-- Start and count of strip j (01 R15); N and 0 where there is none (01 R13, R16). -/
def Packet.strip (p : Packet) (j : Nat) : Word × Word :=
  if j < p.strips then (BitVec.ofNat 64 (j * p.s.toNat), BitVec.ofNat 64 (min p.s.toNat (p.n.toNat - j * p.s.toNat)))
  else (p.n, 0)

/-- The rake's answer to one request, and the farm after it (01 R15, R16; log 35). -/
def Farm.take (f : Farm) : (Word × Word) × Farm :=
  (f.packet.strip f.nextStrip.toNat,
   if f.nextStrip.toNat < f.packet.strips then { f with nextStrip := f.nextStrip + 1 } else f)

/-- A farm once a hart has exited: where every strip is dispensed and every hart that was placed has exited, the harts of a farm
without the gang bit that were never placed and hold no strip count as exited from then on (17 R353; log 35). -/
def Farm.settleRest (f : Farm) : Farm :=
  if !f.packet.gang && decide (f.packet.strips ≤ f.nextStrip.toNat) && f.harts.all fun x => !x.placed || x.exited then
    { f with harts := f.harts.map fun x => if !x.placed && x.cnt == 0 then { x with exited := true } else x }
  else f

/-- Whether every hart index has exited. -/
def Farm.allOut (f : Farm) : Bool := f.harts.all fun x => x.exited

/-- Whether the farm has reached its trigger point (17 R356). -/
def Farm.atTrigger (f : Farm) : Bool := f.harts.all fun x => x.triggered || x.exited

/-- The physical address of a task-graph entry (17 R355). -/
def graphAddr (p : Partition) (e : Nat) : Nat := p.graphBase + 64 * e

/-- STATE of a task-graph entry. -/
def graphState (s : State) (p : Partition) (e : Nat) : Nat := physRead s 1 (graphAddr p e + 4)

/-- Whether a TRAP reservation refuses the scheduler a task-graph entry: it then leaves the entry as it is, and finds nothing in it (18
R367; log 70). -/
def graphRefused (s : State) (p : Partition) (e : Nat) (write : Bool) : Bool :=
  refuses s .agent [lineOf (graphAddr p e)] write

/-- Bytes of a task-graph entry written at its home (17 R355; log 33, 34). -/
def graphWrite (s : State) (p : Partition) (e off n x : Nat) : State :=
  if graphRefused s p e true then s
  else performWrite (meet s .agent [lineOf (graphAddr p e)] true) none (cellsOf n (graphAddr p e + off) x)

/-- The read of a task-graph entry as its home meets it (04 R89). -/
def meetGraph (s : State) (p : Partition) (e : Nat) : State := meet s .agent [lineOf (graphAddr p e)] false

/-- The successors that an entry lists (17 R355). -/
def graphSuccs (s : State) (p : Partition) (e : Nat) : List Nat :=
  if graphRefused s p e false then []
  else (upTo 0 (min 16 (physRead s 1 (graphAddr p e + 5)))).map fun m => physRead s 2 (graphAddr p e + 16 + 2 * m)

/-- The entry of a packet, where it has one. -/
def Packet.entryNo (p : Packet) : Option Nat := if p.tge = 0xFFFF then none else some p.tge.toNat

/-- Saturation at 2^32 − 1 (17 R358). -/
def sat32 (n : Nat) : Nat := min n (2 ^ 32 - 1)

/-- Codes of VERDICT (17 R358). -/
def Verdict.code : Verdict → Nat
  | .clean => 0
  | .corrected => 1
  | .tainted => 2

/-- A completion record written: bytes 8 to 31 first, then the status word (17 R358). Where CREC does not translate any more,
nothing is written (log 30). -/
def writeRecord (s : State) (f : Farm) (status reason verdict harts undisp notrig : Nat) (bittern : Word) : State :=
  match partByNum s f.part with
  | none => s
  | some p =>
    match recordSpace s p f.ctx with
    | none => s
    | some sp =>
      let body := harts + undisp * 2 ^ 32 + notrig * 2 ^ 64 + bittern.toNat * 2 ^ 128
      match agentStore s .agent sp 24 (f.packet.crec + 8) body with
      | (false, s) => s
      | (true, s) => (agentStore s .agent sp 8 f.packet.crec (status + reason * 2 ^ 8 + verdict * 2 ^ 16)).2

/-- A farm ended: its completion record written, the farm gone (17 R358). -/
def endFarm (s : State) (f : Farm) (status reason : Nat) : State :=
  let n := sat32 (f.harts.filter fun x => x.placed).length
  let u := sat32 (f.packet.strips - f.nextStrip.toNat)
  let t := sat32 (f.harts.filter fun x => x.placed && x.exited && !x.triggered).length
  let s := writeRecord s f status reason f.verdict.code n u t f.bittern
  { s with farms := s.farms.filter fun x => x.id != f.id,
           ended := if status == 1 && f.packet.entryNo.isSome then s.ended ++ [f] else s.ended }

/-- What passes along the task graph (17 R357): a farm becomes tainted, an entry is held on account of a farm, which its context and
CREC name. -/
inductive GraphAct where
  | taint (farm : Nat) (kind : BitVec 16) (reason : Nat)
  | hold (part entry reason : Nat) (ctx : BitVec 16) (crec : Word)
  deriving DecidableEq, Repr

/-- The farm that has started under an entry, be it complete by now (17 R357). -/
def startedAt (s : State) (p : Partition) (e : Nat) : Option Farm :=
  let mine (f : Farm) : Bool := f.part == p.num && f.packet.entryNo == some e && !f.waitsGraph
  match s.farms.find? mine with
  | some f => some f
  | none => if !graphRefused s p e false && graphState s p e == 2 then s.ended.find? mine else none

/-- A farm that runs or has completed, by its number. -/
def knownFarm (s : State) (id : Nat) : Option Farm :=
  match farmBy s id with
  | some f => some f
  | none => s.ended.find? fun f => f.id == id

/-- A farm that becomes tainted: the record of kind 0x09, the notice, its verdict (17 R357). -/
def markTainted (s : State) (f : Farm) (kind : BitVec 16) : State :=
  let s := addLog s 0x09 2 f.part f.ctx 0xFFFF 0 f.packet.crec.toNat kind.toNat
  let s := match partByNum s f.part with
    | some p => notify s p.notice s.logSeq
    | none => s
  let mark (f : Farm) : Farm := { f with verdict := .tainted, firstKind := kind, bittern := s.logSeq }
  { modFarm s f.id mark with ended := s.ended.map fun x => if x.id == f.id then mark x else x }

/-- What the successors of a farm meet when it is tainted or killed: those that have started become tainted, those that have
not are held (17 R357, R359). A successor outside the table is skipped and logged (17 R356). -/
def succActs (s : State) (f : Farm) (reason : Nat) : State × List GraphAct :=
  match partByNum s f.part, f.packet.entryNo with
  | some p, some e =>
    (graphSuccs s p e).foldl (fun (x : State × List GraphAct) m =>
      if p.graphLen ≤ m then (addLog x.1 0x0D 0 f.part f.ctx 0xFFFF 0 m f.packet.crec.toNat, x.2)
      else
        let u := meetGraph x.1 p m
        let held := (u, x.2 ++ [GraphAct.hold f.part m reason f.ctx f.packet.crec])
        match startedAt s p m with
        | some g => if f.triggered then (u, x.2 ++ [.taint g.id 0x09 1]) else held
        | none => held) (meetGraph s p e, [])
  | _, _ => (s, [])

/-- The acts of a list and all that follow from them; fuel bounds their number (log 34). -/
def spread : Nat → List GraphAct → State → State
  | 0, _, s => s
  | _ + 1, [], s => s
  | fuel + 1, .taint id kind reason :: rest, s =>
    match knownFarm s id with
    | none => spread fuel rest s
    | some f =>
      if f.verdict = .tainted then spread fuel rest s else
      let (s, acts) := succActs (markTainted s f kind) f reason
      spread fuel (rest ++ acts) s
  | fuel + 1, .hold pn e reason ctx crec :: rest, s =>
    match partByNum s pn with
    | none => spread fuel rest s
    | some p =>
      let s := meetGraph s p e
      if graphRefused s p e true || decide (1 < graphState s p e) then spread fuel rest s else
      let s := graphWrite s p e 4 1 3
      let s := graphWrite s p e 6 1 reason
      let s := match s.farms.find? (fun g => g.part == pn && g.packet.entryNo == some e && g.waitsGraph) with
        | some g =>
          let s := writeRecord s g 4 reason 2 0 0 0 g.bittern
          { s with farms := s.farms.filter fun x => x.id != g.id }
        | none => s
      let (s, next) := (graphSuccs s p e).foldl (fun (x : State × List GraphAct) m =>
        if p.graphLen ≤ m then (addLog x.1 0x0D 0 pn ctx 0xFFFF 0 m crec.toNat, x.2)
        else (x.1, x.2 ++ [.hold pn m reason ctx crec])) (s, [])
      spread fuel (rest ++ next) s

/-- The number of acts that a graph of the largest size can cause. -/
def spreadFuel : Nat := 2 ^ 21

/-- A farm charged with a tainting event of a record kind (17 R357). -/
def taintFarm (s : State) (id : Nat) (kind : BitVec 16) : State := spread spreadFuel [.taint id kind 1] s

/-- A farm charged with a tainting event whose record is the latest; one that is tainted already keeps only the record's number
(17 R357, R358). -/
def chargeFarm (s : State) (id : Nat) (kind : BitVec 16) : State :=
  match farmBy s id with
  | some f => if f.verdict = .tainted then modFarm s f.id fun f => { f with bittern := s.logSeq } else taintFarm s f.id kind
  | none => s

/-- The farm of a hart charged with a tainting event (17 R357). -/
def taintHart (s : State) (i : HartId) (kind : BitVec 16) : State :=
  match (getHart s i).member with
  | none => s
  | some m => chargeFarm s m.farm kind

/-- One successor's PCOUNT decremented; at zero its waiting packet goes to placement (17 R356). -/
def decrement (s : State) (p : Partition) (f : Farm) (m : Nat) : State :=
  if p.graphLen ≤ m then addLog s 0x0D 0 f.part f.ctx 0xFFFF 0 m f.packet.crec.toNat else
  if graphRefused s p m true then s else
  let s := meetGraph s p m
  let c := physRead s 4 (graphAddr p m)
  if c = 0 then addLog s 0x0D 0 f.part f.ctx 0xFFFF 0 m f.packet.crec.toNat else
  let s := graphWrite s p m 0 4 (c - 1)
  if c = 1 ∧ graphState s p m = 1 then
    let s := graphWrite s p m 4 1 2
    { s with nextFarm := s.nextFarm + 1, farms := s.farms.map fun g =>
        if g.part == f.part && g.packet.entryNo == some m && g.waitsGraph then { g with waitsGraph := false, since := s.nextFarm } else g }
  else s

/-- What happens when a farm may have reached its trigger point: the first time, the successors of a farm that is not tainted
are decremented (17 R356). -/
def checkTrigger (s : State) (id : Nat) : State :=
  match farmBy s id with
  | none => s
  | some f =>
    if f.triggered || f.waitsGraph || !f.atTrigger then s else
    let s := modFarm s id fun f => { f with triggered := true }
    if f.verdict = .tainted then s else
    match partByNum s f.part, f.packet.entryNo with
    | some p, some e => (graphSuccs s p e).foldl (fun s m => decrement s p f m) (meetGraph s p e)
    | _, _ => s

/-- The state with a hart index of a farm changed. -/
def modFarmHart (s : State) (m : Membership) (g : FarmHart → FarmHart) : State :=
  modFarm s m.farm fun f => { f with harts := f.harts.mapIdx fun n x => if n = m.index then g x else x }

/-- A hart leaves its farm: it exits at HALT (01 R17), or is parked by a write of CTXID (17 R354). -/
def leaveFarm (s : State) (i : HartId) (exits : Bool) : State :=
  match (getHart s i).member with
  | none => s
  | some m =>
    let s := modFarmHart s m fun x => { x with place := none, exited := x.exited || exits }
    let s := Machine.modHart s i fun h => { h with member := none }
    if exits then checkTrigger (modFarm s m.farm Farm.settleRest) m.farm else s

/-- A tile's lane clusters of one hart pass to the other (01 R27). -/
def passClusters (s : State) (i : HartId) : State :=
  let s := Machine.modTile s i.tile fun x => { x with vlp := if i.h1 then 0 else BitVec.allOnes 8 }
  Machine.modHart s i fun h => { h with eff := 0 }

/-- Whether a hart is free (17 R351): after HALT at U, or at S with CTXID 0 waiting in WFE, once its queued vector instructions have
retired (log 35). -/
def Hart.isFree (h : Hart) : Bool :=
  h.vq.isEmpty && (h.run == .halted || (h.level == .s && h.ctxid == 0 && h.run == .wfe))

end Sys2Proof.Machine
end

