-- ==== Sys2Proof/Machine/Kill.lean ====
section
/-! DEFINITION. Release of stream engines and reservations (04 R93), barriers in memory (10 R240), the kill of a context
(04 R98, 17 R359, 18 R382), escalation (15 R309). -/

namespace Sys2Proof.Machine

/-- The id of a requester: tile x, tile y, endpoint 0 (18 R361). -/
def reqId (q : HomeReq) : Nat := tileId q.tile

/-- Whether a request is a fill. -/
def isFill (q : HomeReq) : Bool := match q.action with | .fill => true | _ => false

/-- The row that a request of a tile arrives as. -/
def reqEvent (q : HomeReq) : Event := if isFill q then .fillRequest q else .writeRequest q

/-- The directory entry of a line changed. -/
def modDir (s : State) (l : Nat) (f : DirEntry → DirEntry) : State := setDir s l (f (dirAt s l))

/-- A request refused (18 R363). -/
def refuseReq (s : State) (q : HomeReq) (counts : Bool) : State :=
  let s := if counts then modDir s q.line fun d => d.refusal (reqId q) q.age else s
  schedule s [.requestRefusal q]

/-- A pointer added unless it is there. -/
def addPtr (d : DirEntry) (p : DirPtr) : DirEntry := if d.ptrs.contains p then d else { d with ptrs := d.ptrs ++ [p] }

/-- An invalidation sent to the holder of a copy. -/
def sendInvalidation (s : State) (l : Nat) (p : DirPtr) : State :=
  match p with
  | .tile t => schedule s [.invalidation l t]
  | .host => { s with hostOut := s.hostOut ++ [.backInvalidate l] }
  | .resv _ _ => s

/-- A home that becomes busy: every copy of a list is invalidated, and a transaction waits for the acknowledgements. -/
def becomeBusy (s : State) (l : Nat) (out : List DirPtr) (w : Waiting) : State :=
  let s := modDir s l fun d => { d with busy := some (out, w) }
  out.foldl (fun s p => sendInvalidation s l p) s

/-- The oldest copy that gives way to a seventh sharer (18 R362); none: the entry has room. -/
inductive Room where
  | free
  | evict (p : DirPtr)
  | full
  deriving DecidableEq, Repr

/-- The room of a directory entry for one more sharer (18 R362; log 66). -/
def DirEntry.room (d : DirEntry) : Room :=
  if d.ptrs.length < 6 then .free
  else match d.ptrs.find? DirPtr.isCopy with
    | some p => .evict p
    | none => .full

/-- Whether a home must refuse a request: the line is busy, or reserved for another requester (18 R362, R364). -/
def mustRefuse (d : DirEntry) (q : HomeReq) : Bool := d.busy.isSome || (d.sv && d.sid != reqId q)

/-- A request held under one reservation that another reservation still holds (04 R91). -/
def stillHeld (s : State) (h : Held) : Option (Nat × Engine) :=
  let writes := match h.action with | .read _ _ | .fill => false | .write _ | .nibble _ _ _ | .atomic _ _ _ _ _ _ => true
  match s.resvs.find? (fun r => !r.cut && !r.freeing && r.policy == .wait && (r.wi || writes) && r.lines.contains h.line) with
  | some r => some (r.tile, r.e)
  | none => none

/-- A line sent to a tile, with a pointer where it is cacheable (18 R362). -/
def sendFill (s : State) (q : HomeReq) (cacheable : Bool) : State :=
  let d := dirAt s q.line
  let d := if cacheable && !d.ptrs.contains (.tile q.tile) then { d with ptrs := d.ptrs ++ [.tile q.tile] } else d
  schedule (setDir s q.line (d.completed (tileId q.tile) q.age)) [.fillResponse q cacheable]

/-- A fill served at its home: a full entry first has its oldest copy back, one full of reservations sends the line as uncacheable (18
R362; log 66). -/
def answerFill (s : State) (q : HomeReq) : State :=
  match (dirAt s q.line).room with
  | .free => sendFill s q true
  | .evict p => becomeBusy s q.line [p] (.req q)
  | .full => sendFill s q false

/-- A held request performed: a fill is served; a write is performed and no longer counted by its hart; a read or a returning atomic
leaves its value for the instruction that waits, which finds bad data itself (04 R90, 18 R369). -/
def performOne (s : State) (h : Held) : State :=
  match h.fill, h.hart with
  | some q, _ => if mustRefuse (dirAt s q.line) q then refuseReq s q true else answerFill s q
  | none, none => performAction s none h.action
  | none, some i =>
    if !h.returns then
      Machine.modHart (performAction s (some i.tile) h.action) i fun x => { x with heldWrites := x.heldWrites - 1 }
    else
      match h.action with
      | .read n a | .atomic _ _ n a _ _ =>
        if (badIn s a n).isSome then s else
        let old := physRead s n a
        Machine.modHart (performAction s (some i.tile) h.action) i fun x => { x with answers := x.answers ++ [(h.va, n, old)] }
      | .fill | .write _ | .nibble _ _ _ => s

/-- The requests held under a reservation that is freed, performed in arrival order; true once none is left. One of a remote operation,
a stream engine or other hardware is made by its event, which comes next, and the rest after it (18 R369; log 56). -/
def performHeld : List Held → State → Bool × State
  | [], s => (true, s)
  | h :: t, s =>
    match stillHeld s h with
    | some (tile, e) => performHeld t { s with held := s.held.replace h { h with tile := tile, e := e } }
    | none =>
      let s := { s with held := s.held.erase h }
      match h.event with
      | some ev => (false, { s with events := .event ev :: .event (.reservationFree h.tile h.e) :: s.events })
      | none => performHeld t (performOne s h)

/-- A request of a remote operation, a stream engine or other hardware held at the home of a line: the event that makes it once the
reservation is freed (18 R369; log 56). -/
def heldEvent (tile : Nat) (e : Engine) (l : Nat) (write : Bool) (ev : Event) : Held :=
  { tile := tile, e := e, hart := none, action := if write then .write [(128 * l, 0)] else .read 1 (128 * l), returns := false,
    fill := none, event := some ev }

/-- The pointers of a reservation removed from the directory (18 R368). -/
def dropResvPtrs (s : State) (tile : Nat) (e : Engine) (lines : List Nat) : State :=
  lines.foldl (fun s l =>
    let d := dirAt s l
    setDir s l { d with ptrs := d.ptrs.filter fun p => p != .resv tile e }) s

/-- A reservation freed at every home: the held requests are performed in arrival order, then its pointers are removed; some may still
be to come, and what they come before waits behind them (04 R93, 18 R369; log 56). -/
def freeResv (s : State) (tile : Nat) (e : Engine) : State :=
  match s.resvs.find? (fun r => r.tile == tile && r.e == e) with
  | none => s
  | some r =>
    let s := { s with resvs := s.resvs.map fun r => if r.tile == tile && r.e == e then { r with freeing := true } else r }
    match performHeld (s.held.filter fun h => h.tile == tile && h.e == e) s with
    | (false, s) => s
    | (true, s) =>
      { dropResvPtrs s tile e r.lines with resvs := s.resvs.filter fun r => !(r.tile == tile && r.e == e) }

/-- Whether the homes still free a reservation of an engine (18 R369). -/
def freeing (s : State) (tile : Nat) (e : Engine) : Bool := s.resvs.any fun r => r.tile == tile && r.e == e && r.freeing

/-- A stream engine of a tile set. -/
def setEngine (s : State) (tile : Nat) (e : Engine) (x : Option EngineState) : State :=
  Machine.modTile s tile fun t => { t with engines := t.engines.set e.toNat x e.isLt }

/-- A stream engine of a tile. -/
def engineAt (s : State) (tile : Nat) (e : Engine) : Option EngineState := (tileAt s tile).engines.get ⟨e.toNat, e.isLt⟩

/-- An engine and its reservation released (04 R93). -/
def releaseEngine (s : State) (tile : Nat) (e : Engine) : State := setEngine (freeResv s tile e) tile e none

/-- An engine lost in service (18 R380): under write intent its lines are poisoned and the range logged. -/
def loseEngine (s : State) (tile : Nat) (e : Engine) : State :=
  match s.resvs.find? (fun r => r.tile == tile && r.e == e && r.wi) with
  | none => releaseEngine s tile e
  | some r =>
    let s := r.lines.foldl (fun s l => setDir s l { dirAt s l with poison := true }) s
    let s := addLog s 0x0A 3 r.part r.ctx tile 0 r.ident.toNat r.lines.length
    releaseEngine s tile e

/-- One arrival at the counting copy of a barrier, as one step at its home (10 R240). The address is physical. -/
def barrierArrive (s : State) (pa : Nat) (good : Bool) : State :=
  let m := s.mem
  if bitAt (memRead m 1 (pa + 22)) 0 then s else
  let count := (memRead m 4 pa + if good then 1 else 0) % 2 ^ 32
  let fail := (memRead m 4 (pa + 4) + if good then 0 else 1) % 2 ^ 32
  if memRead m 4 (pa + 8) ≤ count + fail then
    performWrite s none (cellsOf 8 pa 0 ++ cellsOf 8 (pa + 12) ((memRead m 4 (pa + 12) + 1) % 2 ^ 32 + fail * 2 ^ 32))
  else performWrite s none (cellsOf 8 pa (count + fail * 2 ^ 32))

/-- STATE.DEAD set at a barrier, unless a TRAP reservation refuses that (10 R240, 18 R367). -/
def barrierDead (s : State) (pa : Nat) : State :=
  if refuses s .agent [lineOf pa] true then s else
  performWrite (meet s .agent [lineOf pa] true) none (cellsOf 1 (pa + 22) (memRead s.mem 1 (pa + 22) ||| 1))

/-- SHBASE of a context on this package (02 R49): that of a hart that runs it, else of a farm, else of a work queue of the
partition that names it (log 22). -/
def ctxShbase (s : State) (p : Partition) (c : BitVec 16) : Option Word :=
  match (listedHarts s).find? (fun i => (partNum s i.tile == p.num) && (getHart s i).ctxid == c && (getHart s i).translated) with
  | some i => some (getHart s i).shbase
  | none =>
    match s.farms.find? (fun f => f.part == p.num && f.ctx == c) with
    | some f => some (f.shb &&& 0x000FFFFFFFFF0000)
    | none =>
      match (upTo 0 p.queueCount).find? (fun n => physRead s 2 (p.queueBase + 64 * n + 12) == c.toNat &&
          bitAt (physRead s 1 (p.queueBase + 64 * n + 14)) 7) with
      | some n => some (BitVec.ofNat 64 (physRead s 8 (p.queueBase + 64 * n + 24)) &&& 0x000FFFFFFFFF0000)
      | none => none

/-- The physical address of a heap offset of a context, for an access of n bytes by an accessor: none where the offset passes the heap
or the translation fails (10 R227; log 22). -/
def heapAddr (s : State) (who : Accessor) (p : Partition) (c : BitVec 16) (heap : Nat) (k : AccKind) (off n : Nat) :
    Option Nat × State :=
  if off + n > heap ∨ off + n > 2 ^ 40 then (none, s) else
  match ctxSpace s who p c, ctxShbase s p c with
  | some sp, some b =>
    match agentTrans s sp k (b + BitVec.ofNat 64 off) with
    | .ok pa ty entry =>
      if ty == 3 then (none, failTrans s sp k (b.toNat + off)) else (some pa, markLeaf s sp k (b.toNat + off) entry)
    | .trap _ => (none, failTrans s sp k (b.toNat + off))
  | _, _ => (none, s)

/-- STATE.DEAD set in every listed barrier whose HOME is this package (18 R382). -/
def deadBarriers (s : State) (p : Partition) (t : PeerTable) : State :=
  t.bars.foldl (fun s off =>
    match heapAddr s .agent p t.ctx t.heap .store off 128 with
    | (none, s) => s
    | (some pa, s) =>
      let s := meet s .agent [lineOf pa] false
      let home := memRead s.mem 2 (pa + 20)
      if home = 0xFFFF ∨ home = s.self.toNat then barrierDead s pa else s) s

/-- Farms completed by a kill: each is tainted, then their started successors are tainted and the others held with REASON 2
(17 R359). -/
def killFarms (s : State) (ids : List Nat) : State :=
  let (s, acts) := ids.foldl (fun (x : State × List GraphAct) id =>
    match farmBy x.1 id with
    | none => x
    | some f =>
      let (s, acts) := succActs (if f.verdict = .tainted then x.1 else markTainted x.1 f 0) f 2
      (s, x.2 ++ acts)) (s, [])
  ids.foldl (fun s id => match farmBy s id with
    | some f => endFarm s { f with killed := true } 3 0
    | none => s) (spread spreadFuel acts s)

/-- A hart that leaves weight-driven mode: the tile's sequencer and stream engine 0 are free, a post of its block that is not
accepted is withdrawn (12 R278, R295). -/
def leaveWeight (s : State) (i : HartId) : State :=
  if (tileAt s i.tile).seqr != some i.h1 then s else
  let s := Machine.modTile s i.tile fun x => { x with seqr := none, postReply := none }
  { s with tiles := s.tiles.map fun e => match e.2.mailbox with
      | some m => if m.1 = i.tile then (e.1, { e.2 with mailbox := none }) else e
      | none => e }

/-- Whether a hart of a context that is killed stops: one at U, or one that runs for a farm of it (17 R359; log 20). -/
def Hart.stopsAtKill (h : Hart) : Bool := h.level == .u || h.member.isSome

/-- What a kill leaves of a hart of the context: it stops and is free; a supervisor that runs for no farm runs on (17 R359).
What its queues and batches held is lost (04 R98; log 20). -/
def Hart.kill (h : Hart) : Hart :=
  if !h.stopsAtKill then h else { h with
      run := .halted, member := none, eff := 0, vq := [], openTail := none, capp := none, wcb := [], sentLines := [],
      answers := [], openBatch := none, outstanding := [], failures := [], batchWait := false, sync := none, bwait := none,
      inProgress := none, trapWait := none, fabricEvents := [], wbaRes := false, wbResume := false,
      wbBlock := none, replay := none, replayed := none,
      vownV := h.vownV && h.vownId != h.ctxid }

/-- The accumulator tiles of a context on a tile released: those of a hart whose vector state is the context's (09 R213, 15
R319; log 20). -/
def releaseAccs (s : State) (ctx : BitVec 16) (t : Nat) : State :=
  let ends (h : Hart) : Bool := if h.vownV then h.vownId == ctx else h.translated && h.ctxid == ctx
  Machine.modTile s t fun x => { x with acc := x.acc.map fun a => match a.owner with
    | some b => if ends (x.hart b) then AccTile.free else a
    | none => a }

/-- One tile of a partition at the kill of a context: its harts, its engines, its fabric, its block sequencer (log 20). -/
def killTile (s : State) (ctx : BitVec 16) (t : Nat) : State :=
  let one (s : State) (i : HartId) : State :=
    let h := getHart s i
    if h.ctxid == ctx && h.translated && !(h.run == .halted) && !(h.run == .stopped) then
      let s := if h.stopsAtKill then leaveWeight s i else s
      let s := { s with held := s.held.filter fun x => !(x.returns && x.hart == some i) }
      Machine.modHart s i Hart.kill
    else s
  let s := one (one (releaseAccs s ctx t) ⟨t, false⟩) ⟨t, true⟩
  let s := (upTo 0 4).foldl (fun s n => match engineAt s t (BitVec.ofNat 2 n) with
    | some e => if e.ctx == ctx then releaseEngine s t (BitVec.ofNat 2 n) else s
    | none => s) s
  match (tileAt s t).fabric.owner with
  | some (_, c) => if c == ctx then Machine.modTile s t fun x => { x with fabric := Fabric.empty } else s
  | none => s

/-- The kill of a context of a partition: its harts and agents stop, it is dead, the listed barriers here are dead, the notices leave
(17 R359, 18 R382; 04 R98; log 20). -/
def killContext (s : State) (p : Partition) (ctx : BitVec 16) : State :=
  let table := s.peerTables.find? fun t => t.part == p.num && t.ctx == ctx
  let s := (s.tiles.map fun e => e.1).foldl (fun s t => if partNum s t == p.num then killTile s ctx t else s) s
  let s := { s with calls := s.calls.filter fun i => (getHart s i).run == .mgmt }
  let s := killFarms s ((s.farms.filter fun f => f.part == p.num && f.ctx == ctx && f.harts.any fun x => x.placed).map fun f => f.id)
  let s := { s with deadCtxs := if s.deadCtxs.contains (p.num, ctx) then s.deadCtxs else s.deadCtxs ++ [(p.num, ctx)] }
  match table with
  | none => s
  | some t =>
    let s := deadBarriers s p t
    if t.peers.isEmpty then s else
    { s with
      peerOut := s.peerOut ++ t.peers.map fun q => .killNotice q.1 ctx
      kills := s.kills ++ [{ part := p.num, ctx := ctx, peers := t.peers.map fun q => q.1 }] }

/-- The kill of the context of a hart, where its tile lies in a partition. -/
def killOf (s : State) (i : HartId) (ctx : BitVec 16) : State :=
  match partOf s i.tile with
  | some p => killContext s p ctx
  | none => s

/-- Escalation of a hart to the management core with a record of kind 0x08: TCAUSE and TEPC of the hart (15 R309,
19 R406; log 39). -/
def escalateLog (s : State) (i : HartId) : State :=
  let h := getHart s i
  addLog s 0x08 0 (partNum s i.tile) h.ctxid i.tile 0 h.tcause.toNat h.tepc.toNat

/-- Escalation after a synchronous trap at S while TIP = 1, or after EBRK at S: the context is killed unless it is context 0,
and the hart restarts at S at TVEC with a management notice (15 R309; log 39). -/
def escalateKill (s : State) (i : HartId) : State :=
  let s := escalateLog (leaveWeight s i) i
  let seq := s.logSeq
  let c := (getHart s i).ctxid
  let s := if c = 0 then s else killOf s i c
  Machine.modHart s i fun h =>
    { h with level := .s, run := .running, pc := h.tvec, tip := false, ie := false, sip := h.sip ||| 4, noticeSeq := seq,
             wbBlock := none, replay := none, replayed := none }

end Sys2Proof.Machine
end

