-- ==== Sys2Proof/Machine/Ports.lean ====
section
/-! DEFINITION. The queue pairs of the scale-out ports: completions, the flush of a queue pair in Error, doorbells
(18 R384 to R389). A queue pair is named by 4,096 × port + index. -/

namespace Sys2Proof.Machine

/-- The name of a queue pair. -/
def qpKey (port qp : Nat) : Nat := 4096 * port + qp

/-- The number of a queue pair on the wire, its QPN (18 R384). -/
def qpNumber (port qp : Nat) : BitVec 24 := BitVec.ofNat 24 (0x100000 * (port + 1) + qp)

/-- The index of the queue pair of a port that a QPN names, if it names one (18 R384). -/
def qpIndex (port : Nat) (qpn : BitVec 24) : Option Nat :=
  let i := qpn.toNat - 0x100000 * (port + 1)
  if 0x100000 * (port + 1) ≤ qpn.toNat ∧ i < 4096 then some i else none

/-- The path of a queue pair's packets: to UDP port 4791, as ECT(0) (18 R385, R390). -/
def Qp.path (q : Qp) : EthPath where
  dmac := q.dmac
  sip := q.sip
  dip := q.dip
  hopLim := q.hopLim
  dscp := q.tclass.extractLsb' 2 6
  ecn := 2
  udpSrc := q.udpSrc
  udpDst := 4791

/-- A message of a queue pair as it goes on the wire (18 R384, R390). -/
def Qp.message (q : Qp) (k : Nat) (b : EthBody) : EthMsg :=
  .message (k / 4096) (qpNumber (k / 4096) (k % 4096)) q.dqpn q.path b

/-- The state with a queue pair changed. -/
def modQp (s : State) (k : Nat) (f : Qp → Qp) : State :=
  match alGet s.qps k with
  | some q => { s with qps := alSet s.qps k (f q) }
  | none => s

/-- The address space of a queue pair (18 R383): that of the context its setup names (log 29). -/
def Qp.space (s : State) (q : Qp) : Option Space :=
  match partByNum s q.part with
  | some p => ctxSpace s .remote p q.ctx
  | none => none

/-- n bytes read for a queue pair, in pieces that lie within one page. -/
def qpLoad (s : State) (q : Qp) (n : Nat) (va : Word) : Option Nat × State :=
  match q.space s with
  | some sp => agentLoad s .remote sp n va
  | none => (none, s)

/-- n bytes written for a queue pair, within one page. -/
def qpStore (s : State) (q : Qp) (n : Nat) (va : Word) (x : Nat) : Bool × State :=
  match q.space s with
  | some sp => agentStore s .remote sp n va x
  | none => (false, s)

/-- A list of bytes written for a queue pair, byte by byte; the bytes before a fault stay (18 R388). -/
def qpStoreBytes (s : State) (q : Qp) : Word → List Byte → State × Bool
  | _, [] => (s, true)
  | va, b :: t =>
    match qpStore s q 1 va b.toNat with
    | (false, s) => (s, false)
    | (true, s) => qpStoreBytes s q (va + 1) t

/-- A list of bytes read for a queue pair, up to a fault. -/
def qpLoadBytes (s : State) (q : Qp) : Nat → Word → Option (List Byte) × State
  | 0, _ => (some [], s)
  | n + 1, va =>
    match qpLoad s q 1 va with
    | (none, s) => (none, s)
    | (some b, s) =>
      let r := qpLoadBytes s q n (va + 1)
      (r.1.map fun t => BitVec.ofNat 8 b :: t, r.2)

/-- A completion of a queue pair (18 R387). -/
structure Completion where
  wrid : Word
  bytes : Nat
  imm : Nat
  status : Nat
  op : Nat
  deriving DecidableEq, Repr

/-- One completion written: bytes 0 to 30, then byte 31 with PHASE; one that would overrun the queue is not written, and
moves the queue pair to Error with a record of kind 0x12 (18 R387; log 40). -/
def writeCompletion (s : State) (k : Nat) (c : Completion) : State :=
  match alGet s.qps k with
  | none => s
  | some q =>
    let n := q.completions
    if q.cqSize ≤ (n + 2 ^ 32 - q.cqCons.toNat) % 2 ^ 32 then
      addLog (modQp s k fun q => { q with state := .error }) 0x12 0 q.part q.ctx 0xFFFF 0 k n
    else
      let va := q.cq + BitVec.ofNat 64 (32 * (n % q.cqSize))
      let body := c.wrid.toNat + c.bytes * 2 ^ 64 + c.imm * 2 ^ 96 + c.status * 2 ^ 128 + c.op * 2 ^ 136 +
        (k % 4096) * 2 ^ 144 + (k / 4096) * 2 ^ 160
      let s := (qpStore s q 31 va body).2
      let s := (qpStore s q 1 (va + 31) (1 - n / q.cqSize % 2)).2
      let s := modQp s k fun q => { q with completions := n + 1 }
      if c.status = 0 ∨ c.status = 7 then s else modQp s k fun q => { q with state := .error }

/-- The virtual address of a send entry and of a receive entry (18 R386). -/
def Qp.sendAt (q : Qp) (n : Nat) : Word := q.sq + BitVec.ofNat 64 (64 * (n % q.sqSize))
def Qp.recvAt (q : Qp) (n : Nat) : Word := q.rq + BitVec.ofNat 64 (32 * (n % q.rqSize))

/-- Send and receive entries posted and not taken. -/
def Qp.sendsLeft (q : Qp) : Nat := (q.sqProd.toNat + 2 ^ 32 - q.sqTaken % 2 ^ 32) % 2 ^ 32
def Qp.recvsLeft (q : Qp) : Nat := (q.rqProd.toNat + 2 ^ 32 - q.rqTaken % 2 ^ 32) % 2 ^ 32

/-- An entry of n bytes of a queue pair; where it cannot be read, its contents are a free value (log 25). -/
def entryOf (s : State) (q : Qp) (n : Nat) (va : Word) : Nat × State :=
  match qpLoad s q n va with
  | (some x, s) => (x, s)
  | (none, s) => (Config.unreadEntry s.draws % 2 ^ (8 * n), { s with draws := s.draws + 1 })

/-- A completion with status 7 (18 R387; log 25). -/
def flushed (s : State) (k : Nat) (wrid op : Nat) : State :=
  writeCompletion s k { wrid := BitVec.ofNat 64 wrid, bytes := 0, imm := 0, status := 7, op := op }

/-- Every entry of a queue pair in Error, or being closed, that has not completed, completed with status 7 in slot order, the
send queue first (18 R385, R387). -/
def flushQp (s : State) (k : Nat) : State :=
  match alGet s.qps k with
  | none => s
  | some q =>
    let s := q.sent.foldl (fun s e => flushed s k e.wrid.toNat e.op.toNat) s
    let s := (upTo q.sqTaken q.sendsLeft).foldl (fun s n =>
      let r := entryOf s q 64 (q.sendAt n)
      flushed r.2 k (fld r.1 256 64) (fld r.1 0 8)) s
    let s := (upTo q.rqTaken q.recvsLeft).foldl (fun s n =>
      let r := entryOf s q 32 (q.recvAt n)
      flushed r.2 k (fld r.1 128 64) 0x80) s
    modQp s k fun x => { x with sent := [], sqTaken := q.sqTaken + q.sendsLeft, rqTaken := q.rqTaken + q.recvsLeft }

/-- A completion written; a queue pair that is then in Error is flushed (18 R387). -/
def completeQp (s : State) (k : Nat) (c : Completion) : State :=
  let s := writeCompletion s k c
  match alGet s.qps k with
  | some q => if q.state = .error then flushQp s k else s
  | none => s

/-- The queue pair whose traffic an event is, by port and index (18 R386 to R390). -/
def Event.pair : Event → Option (Nat × Nat)
  | .send p i | .sendWithImmediate p i | .rdmaWrite p i | .rdmaWriteWithImmediate p i | .rdmaRead p i => some (p, i)
  | .ackTimeout p i | .rnrWaitExpiry p i => some (p, i)
  | .incomingSend p n _ _ | .incomingRdmaWrite p n _ _ _ _ | .incomingRdmaRead p n _ _ _ | .rdmaReadResponse p n _
  | .ack p n _ | .sequenceErrorNak p n _ | .receiverNotReadyNak p n _ | .remoteAccessNak p n _ | .remoteOperationNak p n _ =>
    (qpIndex p n).map fun i => (p, i)
  | _ => none

/-- The hart whose management call an event serves (21 R414). -/
def Event.caller : Event → Option HartId
  | .pinfo i | .logread i | .peerreg i | .fabesc i | .attest i | .qpopen i | .qpclose i => some i
  | _ => none

/-- An Ethernet doorbell written by the host, or by a hart of a partition in a context (18 R389; log 40). -/
def ethDoorbell (s : State) (k : Nat) (who : Option (Nat × BitVec 16)) (v : Word) : State :=
  if !s.ready then s else
  let part := match who with | some w => w.1 | none => 0xFF
  let ignored := addLog s 0x0C 0 part 0 0xFFFF 0 (0x10000 + k) v.toNat
  match alGet s.qps k with
  | none => ignored
  | some q =>
    let kind := fld v.toNat 62 2
    let c := BitVec.ofNat 32 v.toNat
    let allowed := match who with
      | none => true
      | some (p, ctx) => p == q.part && (ctx == q.ctx || ctx == 0)
    let fits := match kind with
      | 0 => decide ((c - q.sqProd).toNat ≤ q.sqSize)
      | 1 => decide ((c - q.rqProd).toNat ≤ q.rqSize)
      | 2 => decide ((c - q.cqCons).toNat ≤ q.cqSize)
      | _ => false
    if q.state = .reset || fld v.toNat 32 30 != 0 || !allowed || !fits then ignored else
    match kind with
    | 0 => let s := modQp s k fun q => { q with sqProd := c }
           if q.state = .error then flushQp s k else s
    | 1 => let s := modQp s k fun q => { q with rqProd := c }
           if q.state = .error then flushQp s k else s
    | _ => modQp s k fun q => { q with cqCons := c }

end Sys2Proof.Machine
end

