-- ==== Sys2Proof/Machine/Device.lean ====
section
/-! DEFINITION. Work queues (17 R344 to R346) and the device register window (16 R327): status block, doorbells,
configuration registers, bittern log, health monitors. -/

namespace Sys2Proof.Machine

/-- The partition that owns a work queue (17 R344). -/
def queuePart (s : State) (q : Nat) : Option Partition :=
  s.parts.find? fun p => decide (p.firstQueue ≤ q) && decide (q < p.firstQueue + p.queueCount)

/-- The physical address of a queue's entry (17 R344). -/
def queueAddr (p : Partition) (q : Nat) : Nat := p.queueBase + 64 * (q - p.firstQueue)

/-- Fields of a queue's entry (17 R344). -/
def queueRing (s : State) (p : Partition) (q : Nat) : Nat := physRead s 8 (queueAddr p q)
def queueSize (s : State) (p : Partition) (q : Nat) : Nat := physRead s 4 (queueAddr p q + 8)
def queueCtx (s : State) (p : Partition) (q : Nat) : BitVec 16 := BitVec.ofNat 16 (physRead s 2 (queueAddr p q + 12))
def queueCtl (s : State) (p : Partition) (q : Nat) : Nat := physRead s 1 (queueAddr p q + 14)
def queueWeight (s : State) (p : Partition) (q : Nat) : Nat := physRead s 1 (queueAddr p q + 15)
def queueDevCtx (s : State) (p : Partition) (q : Nat) : BitVec 16 := BitVec.ofNat 16 (physRead s 2 (queueAddr p q + 16))
def queueShb (s : State) (p : Partition) (q : Nat) : Word := BitVec.ofNat 64 (physRead s 8 (queueAddr p q + 24))
def queueCls (s : State) (p : Partition) (q : Nat) : BitVec 2 := BitVec.ofNat 2 (queueCtl s p q)

/-- A power of two from 1 to a bound 2^k. -/
def powerOfTwo (n k : Nat) : Bool := (upTo 0 (k + 1)).any fun i => n == 2 ^ i

/-- Whether a queue is usable (17 R344). -/
def queueUsable (s : State) (p : Partition) (q : Nat) : Bool :=
  let c := queueCtl s p q
  bitAt c 7 && (bitAt c 5 != bitAt c 6) && fld c 2 3 == 0 && queueWeight s p q != 0 && powerOfTwo (queueSize s p q) 16 &&
  queueRing s p q % 4096 == 0 && queueCtx s p q != 0 && physRead s 6 (queueAddr p q + 18) == 0 &&
  physRead s 16 (queueAddr p q + 48) == 0

/-- HEAD and TAIL of a queue: what the scheduler holds while EN = 1, else what the entry says (17 R345). -/
def queueCounts (s : State) (p : Partition) (q : Nat) : QueueCounts :=
  match alGet s.queues q with
  | some c => if bitAt (queueCtl s p q) 7 then c
              else { head := BitVec.ofNat 64 (physRead s 8 (queueAddr p q + 32)),
                     tail := BitVec.ofNat 64 (physRead s 8 (queueAddr p q + 40)) }
  | none => { head := BitVec.ofNat 64 (physRead s 8 (queueAddr p q + 32)),
              tail := BitVec.ofNat 64 (physRead s 8 (queueAddr p q + 40)) }

/-- HEAD and TAIL set, and written back to the entry, unless a TRAP reservation refuses that (17 R345, 18 R367). -/
def setCounts (s : State) (p : Partition) (q : Nat) (c : QueueCounts) : State :=
  let s := { s with queues := alSet s.queues q c }
  if refuses s .agent [lineOf (queueAddr p q)] true then s else
  performWrite (meet s .agent [lineOf (queueAddr p q)] true) none
    (cellsOf 8 (queueAddr p q + 32) c.head.toNat ++ cellsOf 8 (queueAddr p q + 40) c.tail.toNat)

/-- The lines to which the host has writes that are not performed: queued at the bridge, or waiting at a home (17 R346). -/
def hostUnwritten (s : State) : List Nat :=
  ((s.bridge.filter fun r => r.2.isSome).map fun r => lineOf r.1) ++
  s.dir.filterMap fun e => match e.2.busy with
    | some (_, .hostWrite _ _) => some e.1
    | _ => none

/-- A write of a register by the host comes after the writes that it has made before: a doorbell is a release for its slot
(17 R346; log 70). -/
def afterHostWrites (s : State) : State := (hostUnwritten s).foldl awaitLine s

/-- A work-queue doorbell (17 R346); before READY it is ignored (21 R412; log 40). -/
def queueDoorbell (s : State) (q : Nat) (v : Word) : State :=
  if !s.ready then s else
  match queuePart s q with
  | none => addLog s 0x0C 0 0xFF 0 0xFFFF 0 q v.toNat
  | some p =>
    let s := meet s .agent [lineOf (queueAddr p q)] false
    let c := queueCounts s p q
    if !refuses s .agent [lineOf (queueAddr p q)] false && queueUsable s p q && bitAt (queueCtl s p q) 6 && decide (c.tail.toNat ≤ v.toNat) &&
        decide (v.toNat ≤ c.head.toNat + queueSize s p q) then
      setCounts s p q { c with tail := v }
    else addLog s 0x0C 0 p.num 0 0xFFFF 0 q v.toNat

/-- Base of the device register window (16 R327). -/
def deviceBase : Nat := 0x4000000000000

/-- The number of bits set among the low n. -/
def popCount : Nat → Nat → Nat
  | 0, _ => 0
  | n + 1, x => x % 2 + popCount n (x / 2)

/-- STATUS (21 R412). -/
def statusWord (s : State) : Nat :=
  s.fwver.toNat + s.stage.toNat * 2 ^ 32 + s.errCode.toNat * 2 ^ 40 + bit s.ready * 2 ^ 63

/-- Configured tiles and lane clusters not retired (19 R402). -/
def tileCount (s : State) : Nat := 2304 - (s.tiles.filter fun e => e.2.dead).length
def clusterCount (s : State) : Nat :=
  s.tiles.foldl (fun n e => n - if e.2.dead then 8 else popCount 8 e.2.lanemap.toNat) (8 * 2304)

/-- The record of a tile in the configuration registers (19 R402). -/
def tileWord (s : State) (t : Nat) : Nat :=
  let x := tileAt s t
  bit x.dead + x.lanemap.toNat * 2 ^ 8 + domainOf t * 2 ^ 16 + (alGet s.gb (domainOf t)).getD 0 % 2 ^ 8 * 2 ^ 24

/-- The 64 bytes of a log record as a number (19 R405). -/
def LogRecord.toNat (r : LogRecord) : Nat :=
  r.seq.toNat + r.kind.toNat * 2 ^ 64 + r.sev.toNat * 2 ^ 80 + r.part.toNat * 2 ^ 88 + r.ctx.toNat * 2 ^ 96 +
  r.tile.toNat * 2 ^ 112 + r.addr.toNat * 2 ^ 128 + r.data0.toNat * 2 ^ 192 + r.data1.toNat * 2 ^ 256 +
  r.data2.toNat * 2 ^ 320

/-- The record in a slot of the ring; an empty slot reads as zero. -/
def slotWord (s : State) (slot : Nat) : Nat :=
  match s.log.find? fun r => (r.seq.toNat - 1) % 4096 == slot with
  | some r => r.toNat
  | none => 0

/-- A monitor's registers as bytes 0 to 127 (19 R404). -/
def Monitor.toNat (m : Monitor) : Nat :=
  m.ctl.toNat + m.min.toNat * 2 ^ 64 + m.max.toNat * 2 ^ 96 + m.count.toNat * 2 ^ 128 +
  bytesNat (m.bins.toList.flatMap fun b => natBytes 4 b.toNat) * 2 ^ 512

/-- n bytes at an offset of the device register window; a reserved register and a doorbell read as zero. Before READY every
register but the status block reads as zero (21 R412; log 32). -/
def devRead (s : State) (off n : Nat) : Nat :=
  if off < 0x1000 then
    if off < 8 then fld (statusWord s) (8 * off) (8 * n)
    else if off < 0x18 then fld s.serial.toNat (8 * (off - 8)) (8 * n)
    else if 0x100 ≤ off ∧ off < 0x600 then bytesNat ((s.flash.cert.drop (off - 0x100)).take n)
    else 0
  else if !s.ready then 0
  else if 0x20000 ≤ off ∧ off < 0x20040 + 8 * 2304 then
    let o := off - 0x20000
    if o < 0x18 then
      fld (s.gen.toNat + tileCount s * 2 ^ 64 + clusterCount s * 2 ^ 96 + s.logSeq.toNat * 2 ^ 128) (8 * o) (8 * n)
    else if o < 0x40 then 0
    else fld (tileWord s ((o - 0x40) / 8)) (8 * (o % 8)) (8 * n)
  else if 0x80000 ≤ off ∧ off < 0xC0000 then fld (slotWord s ((off - 0x80000) / 64)) (8 * (off % 64)) (8 * n)
  else if 0x100000 ≤ off ∧ off < 0x100000 + 512 * 2304 then
    let o := off - 0x100000
    let m := (tileAt s (o / 512)).monitors.get ⟨o / 128 % 4, Nat.mod_lt _ (by decide)⟩
    fld m.toNat (8 * (o % 128)) (8 * n)
  else 0

/-- Bits of HMCTL that hold a value (19 R404). -/
def hmctlMask : Word := 0xC000001FFFFFFFFF

/-- What CLR does to a monitor (19 R404). -/
def Monitor.clear (m : Monitor) : Monitor :=
  { m with min := BitVec.allOnes 32, max := 0, count := 0, bins := Vector.replicate 16 0 }

/-- A write of HMCTL (19 R404). -/
def Monitor.writeCtl (m : Monitor) (v : Word) : Monitor :=
  let m := if v.getLsbD 61 then m.clear else m
  { m with ctl := v &&& hmctlMask }

/-- A monitor of a tile changed. -/
def modMonitor (s : State) (t : Nat) (m : BitVec 2) (f : Monitor → Monitor) : State :=
  Machine.modTile s t fun x => { x with monitors := x.monitors.set m.toNat (f (x.monitors.get ⟨m.toNat, m.isLt⟩)) m.isLt }

/-- Whether a monitor samples (19 R404): EN, not FRZ, and a signal that is not reserved. -/
def Monitor.samples (m : Monitor) : Bool :=
  m.ctl.getLsbD 63 && !m.ctl.getLsbD 62 && decide (1 ≤ fld m.ctl.toNat 0 8) && decide (fld m.ctl.toNat 0 8 ≤ 7)

/-- The bin of a sample (19 R404). -/
def Monitor.bin (m : Monitor) (v : Nat) : Fin 16 :=
  Fin.ofNat 16 (Nat.min 15 ((v - fld m.ctl.toNat 16 16) / 2 ^ fld m.ctl.toNat 32 5))

/-- A sample taken into the statistics (19 R404); a bin saturates. -/
def Monitor.take (m : Monitor) (v : BitVec 32) : Monitor :=
  if !m.samples then m else
  let b := m.bin v.toNat
  let n := m.bins.get b
  { m with min := if v < m.min then v else m.min, max := if m.max < v then v else m.max, count := m.count + 1,
           bins := m.bins.set b.val (if n = BitVec.allOnes 32 then n else n + 1) b.isLt }

/-- A request of a tile completed after a number of refusals, as the monitors of signal 2 sample it (19 R404; log 48). -/
def sampleRefusals (s : State) (t age : Nat) : State :=
  let one (m : Monitor) : Monitor := if fld m.ctl.toNat 0 8 = 2 then m.take (BitVec.ofNat 32 age) else m
  Machine.modTile s t fun x => { x with monitors := x.monitors.map one }

/-- n bytes written at an offset of the device register window by the host, or by a hart of a partition in a context.
Writes to read-only registers are ignored; a doorbell takes 8-byte writes; the host does not reach the
monitors (19 R404). Before READY every write is dropped (21 R412; log 32). -/
def devWrite (s : State) (who : Option (Nat × BitVec 16)) (off n x : Nat) : State :=
  if !s.ready then s
  else if 0x10000 ≤ off ∧ off < 0x10000 + 8 * 1024 then
    if n = 8 then queueDoorbell s ((off - 0x10000) / 8) (BitVec.ofNat 64 x) else s
  else if 0x40000 ≤ off ∧ off < 0x40000 + 8 * 3 * 4096 then
    if n = 8 then ethDoorbell s ((off - 0x40000) / 8) who (BitVec.ofNat 64 x) else s
  else if who.isSome ∧ 0x100000 ≤ off ∧ off < 0x100000 + 512 * 2304 ∧ off % 128 < 8 then
    let o := off - 0x100000
    modMonitor s (o / 512) (BitVec.ofNat 2 (o / 128)) fun m =>
      m.writeCtl (BitVec.ofNat 64 (putBits m.ctl.toNat (8 * (o % 128)) (8 * n) x))
  else s

end Sys2Proof.Machine
end

