-- ==== Sys2Proof/Machine/Ops.lean ====
section
/-! DEFINITION. The named operations that instructions share: accesses to memory with their faults, waits, taking a trap and
returning from one, control registers. -/

namespace Sys2Proof.Machine

/-- How an access ends: with a value, in a trap, or in a wait (the instruction is tried again). -/
inductive Access (α : Type) where
  | ok (a : α) (s : State)
  | trap (t : TrapRec) (s : State)
  | stall (s : State)

/-- What follows an access that ends with a value. -/
def Access.bind {α β : Type} (x : Access α) (f : α → State → Access β) : Access β :=
  match x with
  | .ok a s => f a s
  | .trap t s => .trap t s
  | .stall s => .stall s

/-- Who makes an access, in which address space, and whether it is one that memory of type 3 rejects (04 R76). -/
structure Actor where
  who : Accessor
  sp : Space
  hart : Option HartId
  agent : Bool
  deriving DecidableEq, Repr

/-- A hart as an accessor. -/
def hartWho (s : State) (i : HartId) : Accessor := .hart i (partNum s i.tile) (getHart s i).ctxid

/-- The address space of a hart (16 R328). -/
def hartSpace (s : State) (i : HartId) : Space :=
  let h := getHart s i
  { level := h.level, table := if h.translated then some (h.root, h.asid) else none, part := partOf s i.tile, who := hartWho s i,
    pinned := h.pages }

/-- The scalar side of a hart. -/
def scalarActor (s : State) (i : HartId) : Actor :=
  { who := hartWho s i, sp := hartSpace s i, hart := some i, agent := false }

/-- The vector side of a hart. -/
def vectorActor (s : State) (i : HartId) : Actor := { scalarActor s i with agent := true }

/-- Bad data consumed by a hart: a record of kind 0x02, and the verdict of its farm tainted (19 R392, R406; log 31, 40). -/
def consumeBad (s : State) (who : Option HartId) (pa : Nat) : State :=
  match who with
  | none => s
  | some i =>
    let s := addLog s 0x02 2 (partNum s i.tile) (getHart s i).ctxid i.tile (32 * codewordOf pa) 0x0E (getHart s i).pc.toNat
    taintHart s i 0x02

/-- The last byte that a list of cells holds for an address. -/
def lastCell (cells : List Host.Cell) (a : Nat) : Option Byte :=
  (cells.reverse.find? fun c => c.1 == a).map fun c => c.2

/-- What a pending write leaves of a byte at an address. -/
def pendingByte (a : Nat) (b : Byte) (x : HomeAction) : Byte :=
  match x with
  | .write cells => (lastCell cells a).getD b
  | .nibble pa hi v => if pa = a then withNibble b hi v.toNat else b
  | .fill | .read _ _ | .atomic _ _ _ _ _ _ => b

/-- A hart's writes that its stores have left on the way to host memory, and those held at their homes, oldest first (04 R90,
R99). -/
def pendingWrites (s : State) (i : HartId) : List HomeAction :=
  ((s.hostWrites.filter fun w => w.hart == i).map fun w => .write w.cells) ++
  ((s.held.filter fun h => h.hart == some i && !h.returns).map fun h => h.action)

/-- The byte a hart reads at a physical address: its own pending writes first, the newest before the older (01 R22, 04 R80). -/
def ownByte (s : State) (i : HartId) (a : Nat) : Byte :=
  match lastCell (getHart s i).wcb a with
  | some b => b
  | none => (pendingWrites s i).foldl (pendingByte a) (memGet s.mem a)

/-- n bytes read by a hart or an agent. -/
def readOwn (s : State) (who : Option HartId) (n pa : Nat) : Nat :=
  match who with
  | none => physRead s n pa
  | some i =>
    let h := getHart s i
    if h.wcb.isEmpty && h.heldWrites == 0 && s.hostWrites.isEmpty then physRead s n pa
    else bytesNat ((upTo pa n).map (ownByte s i))

/-- Whether an atomic of a hart that returns nothing is held at one of the lines: the value it leaves is not known yet (log
56). -/
def ownAtomicHeld (s : State) (who : Option HartId) (lines : List Nat) : Bool :=
  s.held.any fun h => h.hart == who && who.isSome && !h.returns && (match h.action with
    | .atomic _ _ _ a _ _ => lines.contains (lineOf a)
    | _ => false)

/-- The id under which an accessor of a hart's tile, or the remote agent, asks (18 R361). -/
def askerId (who : Option HartId) : Nat := match who with | some i => tileId i.tile | none => remoteId

/-- Whether an access must be tried again: a home refuses it, or the hart has a write to the line in flight, or an atomic held
there (18 R363, R364, 01 R22; log 56). -/
def mustRetry (s : State) (who : Option HartId) (lines : List Nat) : Bool :=
  ownAtomicHeld s who lines ||
  lines.any fun l => lineDenied s (askerId who) l || (match who with | some i => (getHart s i).sentLines.contains l | none => false)

/-- Whether a hart's earlier writes to some lines are still on their way to host memory (04 R99). -/
def hostPending (s : State) (who : Option HartId) (lines : List Nat) : Bool :=
  s.hostWrites.any fun w => who == some w.hart && w.cells.any fun c => lines.contains (lineOf c.1)

/-- Whether a hart's earlier writes to some lines are not at their homes: in its write-combining buffer, sent, or on their way to the
host's domain. What a home holds of the hart comes after them (01 R22; log 56). -/
def ownOnWay (s : State) (who : Option HartId) (lines : List Nat) : Bool :=
  hostPending s who lines || (match who with
    | some i =>
      let h := getHart s i
      (h.wcb.any fun c => lines.contains (lineOf c.1)) || h.sentLines.any fun l => lines.contains l
    | none => false)

/-- The reservation under which a home holds an earlier write of a hart to some lines, be it cut since: its later accesses that write
them come behind (01 R22, 18 R368; log 56). -/
def ownHeldAt (s : State) (who : Option HartId) (lines : List Nat) : Option (Nat × Engine) :=
  (s.held.find? fun h => who.isSome && h.hart == who && !h.returns && lines.contains h.line).map fun h => (h.tile, h.e)

/-- The value that a held read or atomic of a hart left for the instruction that waits for it at a virtual address (04 R90). -/
def answerOf (s : State) (who : Option HartId) (va : Word) (n : Nat) : Option (Nat × State) :=
  match who with
  | none => none
  | some i =>
    ((getHart s i).answers.find? fun a => a.1 == va && a.2.1 == n).map fun a =>
      (a.2.2, Machine.modHart s i fun h => { h with answers := h.answers.erase a })

/-- Whether a home holds a read or an atomic of a hart of n bytes at a virtual address: its translation is made (04 R90, 16 R340; log 56). -/
def heldAt (s : State) (who : Option HartId) (va : Word) (n : Nat) : Bool :=
  s.held.any fun h => h.returns && who.isSome && h.hart == who && h.va == va && (match h.action with
    | .read m _ => m == n
    | .atomic _ _ m _ _ _ => m == n
    | .fill | .write _ | .nibble _ _ _ => false)

/-- A write of a hart that is on its way: in its write-combining buffer, which will be flushed (04 R78), or sent to the host's domain (04
R99; log 5, 56). -/
def lagWrite (s : State) (i : HartId) (ty : Nat) (cells : List Host.Cell) : State :=
  if ty == 1 then
    schedule { s with hostWrites := s.hostWrites ++ [{ id := s.nextHostWrite, hart := i, cells := cells }],
                      nextHostWrite := s.nextHostWrite + 1 } [.cxlCacheResponse s.nextHostWrite]
  else
    let h := getHart s i
    let s := Machine.putHart s i { h with wcb := h.wcb ++ cells }
    schedule s (((nubNat (cells.map fun c => lineOf c.1)).filter fun l => !(h.wcb.any fun c => lineOf c.1 == l)).map fun l =>
      .writeCombineFlush i l)

/-- The state with a write accepted: performed at its home; held there under a reservation, or behind the hart's own writes that are; or
on its way, while stores may lag, behind the hart's own writes that are, or where the hold buffer is full (01 R22, 04 R90, 18 R369;
log 5, 56). -/
def acceptWrite (s : State) (who : Option HartId) (ty : Nat) (hold : Option (Nat × Engine)) (cells : List Host.Cell) : State :=
  match who with
  | none =>
    (match hold with
     | some (t, e) => holdWrite s t e none cells
     | none => performWrite s none cells)
  | some i =>
    let ls := nubNat (cells.map fun c => lineOf c.1)
    if (s.relaxed && hold.isNone) || ownOnWay s who ls then lagWrite s i ty cells
    else match hold.or (ownHeldAt s who ls) with
      | some (t, e) => if ls.any fun l => holdFull s l then lagWrite s i ty cells else holdWrite s t e who cells
      | none => performWrite s (some i.tile) cells

/-- While effects may lag (log 5), a scalar load of cacheable memory asks for a line that its tile does not hold (04 R76,
18 R360). -/
def wantFill (a : Actor) (ty pa : Nat) (s : State) : State :=
  match a.hart with
  | some i =>
    if s.relaxed && !a.agent && decide (ty < 2) && !(tileAt s i.tile).lines.contains (lineOf pa) then
      schedule s [.fillRequest { line := lineOf pa, tile := i.tile, h1 := i.h1, action := .fill, age := 0 }]
    else s
  | none => s

/-- Translation for an access: for one that memory of type 3 rejects, afresh before it is (16 R338). -/
def Actor.trans (a : Actor) (s : State) (k : AccKind) (va : Word) : Trans :=
  if a.agent then agentTrans s a.sp k va else translate s a.sp k va

/-- What a fault of translation leaves: its walk has met the homes, the cached translation is dropped, bad data is consumed (16 R338, 18
R367, 19 R392). -/
def Actor.faulted (a : Actor) (k : AccKind) (t : TrapRec) (va : Word) (s : State) : State :=
  let s := failTrans s a.sp k va.toNat
  match t.code with
  | 0x0E => consumeBad s a.hart t.tval.toNat
  | _ => s

/-- Cause 0x08 of an agent's access to memory of type 3: the load or the store subcode (04 R76). -/
def ioReject (k : AccKind) (va : Word) : TrapRec :=
  { code := 0x08, sub := if k == .store then 1 else 0, tval := va, unres := false }

/-- n bytes of I/O memory read: a register of the device, or of the host, whose value is free (04 R76, 16 R342; log 16). -/
def ioRead (s : State) (n pa : Nat) : Nat × State :=
  if windowOf pa = .host then
    (Config.hostRegister s.draws % 2 ^ (8 * n),
     { s with draws := s.draws + 1, hostOut := s.hostOut ++ [.registerRead pa n] })
  else (devRead s (pa - deviceBase) n, s)

/-- n bytes of I/O memory written: a register of the device, or of the host (04 R76, 16 R342; log 16). -/
def ioWrite (s : State) (who : Accessor) (n pa x : Nat) : State :=
  if windowOf pa = .host then { s with hostOut := s.hostOut ++ [.registerWrite pa (natBytes n x)] }
  else devWrite s (match who with | .hart _ p c => some (p, c) | _ => none) (pa - deviceBase) n x

/-- A read of n bytes that lie in one page: translation, permission, memory type, reservations, bad data, then the access
(06 R133). One that a home holds keeps the translation with which it was sent, and its leaf is marked before (16 R337, R340). Alignment
is checked before (log 72). -/
def loadAs (a : Actor) (k : AccKind) (n : Nat) (va : Word) (s : State) : Access Nat :=
  match answerOf s a.hart va n with
  | some (x, s) => .ok x s
  | none =>
  if heldAt s a.hart va n then .stall s else
  match a.trans s k va with
  | .trap t => .trap t (a.faulted k t va s)
  | .ok pa ty entry =>
    if ty == 3 then
      if a.agent then .trap (ioReject k va) s
      else
        let r := ioRead s n pa
        .ok r.1 (markLeaf r.2 a.sp k va.toNat entry)
    else
      let ls := lineList pa n
      match conflict s a.who ls false with
      | .refuse ident => .trap (trapOf 0x09 ident) s
      | .hold t e =>
        let s := cutResvs s (splitCuts s a.who ls false)
        if ownOnWay s a.hart ls then .stall s
        else .stall (holdRead (markLeaf s a.sp k va.toNat entry) t e a.hart va (.read n pa))
      | .serve cuts =>
        if mustRetry s a.hart ls then .stall (refuseLines s (askerId a.hart) ls) else
        let s := completeLines (cutResvs s cuts) (askerId a.hart) ls
        match badIn s pa n with
        | some b => .trap (badDataTrap b) (consumeBad s a.hart b)
        | none => .ok (readOwn s a.hart n pa) (wantFill a ty pa (markLeaf s a.sp k va.toNat entry))

/-- Where a checked write goes: its physical address and memory type, and the reservation that holds it, if one does. -/
structure Target where
  pa : Nat
  ty : Nat
  hold : Option (Nat × Engine)
  deriving DecidableEq, Repr

/-- The checks of a write of n bytes that lie in one page, and the marks of its leaf (06 R133, 04 R90): nothing is written. -/
def storeProbe (a : Actor) (n : Nat) (va : Word) (s : State) : Access Target :=
  match a.trans s .store va with
  | .trap t => .trap t (a.faulted .store t va s)
  | .ok pa ty entry =>
    if ty == 3 then
      if a.agent then .trap (ioReject .store va) s
      else .ok { pa := pa, ty := ty, hold := none } (markLeaf s a.sp .store va.toNat entry)
    else
      let ls := lineList pa n
      match conflict s a.who ls true with
      | .refuse ident => .trap (trapOf 0x09 ident) s
      | .hold t e =>
        .ok { pa := pa, ty := ty, hold := some (t, e) }
          (markLeaf (cutResvs s (splitCuts s a.who ls true)) a.sp .store va.toNat entry)
      | .serve cuts =>
        if !s.relaxed && mustRetry s a.hart ls then .stall (refuseLines s (askerId a.hart) ls)
        else .ok { pa := pa, ty := ty, hold := none }
          (markLeaf (completeLines (cutResvs s cuts) (askerId a.hart) ls) a.sp .store va.toNat entry)

/-- A checked write of cells performed, accepted or held. -/
def storeTo (a : Actor) (t : Target) (cells : List Host.Cell) (s : State) : State := acceptWrite s a.hart t.ty t.hold cells

/-- A write of n bytes that lie in one page (06 R133). -/
def storeAs (a : Actor) (n : Nat) (va : Word) (x : Nat) (s : State) : Access Unit :=
  (storeProbe a n va s).bind fun t s =>
    if t.ty == 3 then .ok () (ioWrite s a.who n t.pa x) else .ok () (storeTo a t (cellsOf n t.pa x) s)

/-- The bytes of a line that a hart's write-combining buffer holds, sent to the home before an atomic (06 R136). -/
def flushLine (s : State) (i : HartId) (l : Nat) : State :=
  let h := getHart s i
  let mine := h.wcb.filter fun c => lineOf c.1 == l
  if mine.isEmpty then s else
  let s := Machine.putHart s i { h with wcb := h.wcb.filter fun c => lineOf c.1 != l }
  performWrite s (some i.tile) mine

/-- An atomic: its operation, whether MIN and MAX read unsigned, the operand and the expected value (06 R135, 08 R206). -/
structure Rmw where
  op : AmoOp
  uns : Bool
  x : Word
  expected : Word
  deriving DecidableEq, Repr

/-- The new value of an atomic of n bytes; none where AMOCAS fails. -/
def Rmw.new (f : Rmw) (n old : Nat) : Option Nat :=
  amoNew f.op f.uns (8 * n) old (f.x.toNat % 2 ^ (8 * n)) (f.expected.toNat % 2 ^ (8 * n))

/-- An atomic of n bytes: the old value and, where there is a new one, its write as one access at the home; one that a home
holds is performed when its reservation is freed, at the address that it was sent to (06 R135, R136, 04 R90, 16 R340; log 16, 56). -/
def atomicAs (a : Actor) (n : Nat) (va : Word) (f : Rmw) (s : State) : Access Nat :=
  match answerOf s a.hart va n with
  | some (x, s) => .ok x s
  | none =>
  if heldAt s a.hart va n then .stall s else
  match a.trans s .store va with
  | .trap t => .trap t (a.faulted .store t va s)
  | .ok pa ty entry =>
    if ty == 3 then
      if a.agent then .trap (ioReject .store va) s
      else
        let r := ioRead (markLeaf s a.sp .store va.toNat entry) n pa
        match f.new n r.1 with
        | none => .ok r.1 r.2
        | some x => .ok r.1 (ioWrite r.2 a.who n pa x)
    else
      let ls := lineList pa n
      match conflict s a.who ls true with
      | .refuse ident => .trap (trapOf 0x09 ident) s
      | .hold t e =>
        let s := cutResvs s (splitCuts s a.who ls true)
        if ownOnWay s a.hart ls then .stall s
        else .stall (holdRead (markLeaf s a.sp .store va.toNat entry) t e a.hart va (.atomic f.op f.uns n pa f.x f.expected))
      | .serve cuts =>
        if mustRetry s a.hart ls || hostPending s a.hart ls || (ownHeldAt s a.hart ls).isSome then
          .stall (refuseLines s (askerId a.hart) ls)
        else
        let s := completeLines (cutResvs s cuts) (askerId a.hart) ls
        let s := match a.hart with
          | some i => flushLine s i (lineOf pa)
          | none => s
        match badIn s pa n with
        | some b => .trap (badDataTrap b) (consumeBad s a.hart b)
        | none =>
          let s := markLeaf s a.sp .store va.toNat entry
          let old := physRead s n pa
          match f.new n old with
          | none => .ok old s
          | some x => .ok old (performWrite s (match a.hart with | some i => some i.tile | none => none) (cellsOf n pa x))

/-- The reservation-free, alignment-checked form of a scalar access: cause 0x04 with the address (04 R79). -/
def aligned {α : Type} (n : Nat) (va : Word) (s : State) (k : Access α) : Access α :=
  if va.toNat % n = 0 then k else .trap (trapOf 0x04 va) s

/-- The wait of 01 R21: while a vector instruction is queued, the next retirement comes first (log 8). -/
def waitVq (s : State) (k : Out) : Out :=
  if s.hart.vq.isEmpty then k else .next (schedule s [.vectorInstructionRetirement s.cur])

/-- Whether every write of the current hart is performed: nothing in its write-combining buffer, in flight, held, or on its way
to the host's domain (04 R84). -/
def writesDone (s : State) : Bool :=
  let h := s.hart
  h.wcb.isEmpty && h.heldWrites == 0 && h.sentLines.isEmpty && !(s.hostWrites.any fun w => w.hart == s.cur)

/-- The wait of a release (04 R84): the execute side, then every write; the flushes of the write-combining buffer stand on the
agenda (log 8). -/
def waitPerformed (s : State) (k : State → Out) : Out :=
  waitVq s (if writesDone s then k s else .next s)

/-- Whether a stream engine binds a load-data queue of a hart in its context (11 R274). -/
def boundEngine (s : State) (i : HartId) (n : Nat) : Option (Engine × EngineState) :=
  let x := tileAt s i.tile
  let c := (x.hart i.h1).ctxid
  (upTo 0 4).findSome? fun m =>
    match engineAt s i.tile (BitVec.ofNat 2 m) with
    | some e => if e.h1 == i.h1 && e.ctx == c && e.bind == .queue (BitVec.ofNat 2 n) then some (BitVec.ofNat 2 m, e) else none
    | none => none

/-- Entries of a queue that a queued instruction has still to append, and to consume (01 R24). -/
def Queued.toAdd (x : Queued) (n : Nat) : Nat := if x.adds == some (BitVec.ofNat 2 n) then 2 ^ fld x.vtype.toNat 4 3 else 0
def Queued.toTake (x : Queued) (n : Nat) : Nat := if x.takes == some (BitVec.ofNat 2 n) then 2 ^ fld x.vtype.toNat 4 3 else 0

/-- The issue count of a queue (01 R24): the entries it holds, those that queued instructions will append, without those that
they will consume; a bound queue counts none. What a squash removes from the instruction queue returns by itself (19 R396). -/
def queueCount (h : Hart) (n : Nat) : Nat :=
  (h.q.toList.getD n []).length + (h.vq.map fun x => x.toAdd n).sum - (h.vq.map fun x => x.toTake n).sum

/-- Whether every load-data queue is empty: no counted entry, and none bound to an engine (01 R25, 11 R274). -/
def queuesEmpty (s : State) (i : HartId) : Bool :=
  let h := getHart s i
  (upTo 0 4).all fun n => queueCount h n == 0 && (boundEngine s i n).isNone

/-- TCAUSE as entry writes it (15 R303). -/
def causeWord (int : Bool) (sub : BitVec 4) (code : BitVec 8) : Word :=
  BitVec.ofNat 64 (bit int * 2 ^ 63 + sub.toNat * 2 ^ 8 + code.toNat)

/-- Entry into the supervisor: what a synchronous trap, an interrupt and a pre-emption have in common (15 R306). -/
def Hart.enter (h : Hart) (cause tval pc : Word) (full spf unres : Bool) : Hart :=
  { h with
    tepc := addrField pc, tcause := cause, tval := tval, full := full, spf := spf, pp := h.level, pie := h.ie,
    ie := false, tip := true, level := .s, pc := h.tvec, unres := h.unres || unres, run := .running,
    batchWait := false, bwait := none, trapWait := none, wbBlock := none, replay := none, replayed := none }

/-- What FULL shows after a synchronous trap: whether VES, a queue or a block holds something to restore (15 R323; log 39). -/
def Hart.fullAt (h : Hart) : Bool :=
  h.ves != 0 || (upTo 0 4).any (fun n => queueCount h n != 0) || h.wbaRes

/-- A synchronous trap of a hart at its pc: escalation at S while TIP = 1 (15 R309), else entry (15 R306, R311; log 39). -/
def trapAt (s : State) (i : HartId) (t : TrapRec) : State :=
  let h := getHart s i
  let cause := causeWord false t.sub t.code
  if h.level = .s ∧ h.tip = true then escalateKill s i
  else Machine.putHart (leaveWeight s i) i (h.enter cause t.tval h.pc h.fullAt false t.unres)

/-- A synchronous trap of the current hart, taken at once, or once the execute side has retired what is queued (01 R21). -/
def trapNow (s : State) (t : TrapRec) : State :=
  if s.hart.vq.isEmpty then trapAt s s.cur t else s.modHart fun h => { h with trapWait := some t }

/-- The current hart takes a synchronous trap. -/
def takeTrap (s : State) (t : TrapRec) : Out := .next (trapNow s t)

/-- An S-level interrupt of a hart (15 R307): TEPC names the next instruction, its SIP bit is cleared. -/
def takeInterrupt (s : State) (i : HartId) (code : BitVec 8) : State :=
  Machine.modHart (leaveWeight s i) i fun h =>
    let tval := if code = 0x22 then h.noticeSeq else 0
    let h' := h.enter (causeWord true 0 code) tval h.pc true false false
    { h' with sip := h'.sip &&& ~~~(if code = 0x22 then 4 else 2) }

/-- How an instruction ends whose accesses are done. -/
def Access.finish {α : Type} (x : Access α) (f : α → State → State) : Out :=
  match x with
  | .ok a s => .next (f a s)
  | .trap t s => takeTrap s t
  | .stall s => .next s

/-- Cause 0x01 with the encoding in TVAL (05 R104; log 17). -/
def illegal (i : Instr) : TrapRec := trapOf 0x01 i.tval

/-- Whether a hart stands at a boundary where an interrupt may be taken: between instructions, in WFE, or at or inside a
block that waits (06 R156, 12 R294), with the execute side at rest (01 R21; log 8, 28). -/
def Hart.atBoundary (h : Hart) : Bool :=
  (match h.run with | .running | .wfe | .weight => true | _ => false) &&
  h.vq.isEmpty && h.inProgress.isNone && h.trapWait.isNone

end Sys2Proof.Machine
end

