-- ==== Sys2Proof/Machine/Registers.lean ====
section
/-! DEFINITION. Control registers by number (02 R40 to R51, 12 R292, 15 R302 to R305), and the element types of VTYPE. -/

namespace Sys2Proof.Machine

/-- The width of an element type in bits (02 R42). -/
def elemWidth : ElemTy → Nat
  | .i8 | .n8 | .e4m3 | .e5m2 => 8
  | .i16 | .n16 | .bf16 | .fp16 => 16
  | .i32 | .n32 | .fp32 => 32
  | .i64 | .n64 | .fp64 => 64
  | .e2m1 | .i4 => 4

/-- The element type that FMT codes (02 R42). -/
def elemOf (c : Nat) : ElemTy :=
  match c with
  | 0 => .i8 | 1 => .n8 | 2 => .i16 | 3 => .n16 | 4 => .i32 | 5 => .n32 | 6 => .i64 | 7 => .n64
  | 8 => .fp64 | 9 => .fp32 | 10 => .bf16 | 11 => .fp16 | 12 => .e4m3 | 13 => .e5m2 | 14 => .e2m1 | _ => .i4

/-- FMT, the grouping factor and SC of bits 7:0 of VTYPE (02 R42). -/
def vtFmt (t : BitVec 8) : ElemTy := elemOf (fld t.toNat 0 4)
def vtG (t : BitVec 8) : Nat := 2 ^ fld t.toNat 4 3
def vtSc (t : BitVec 8) : Bool := bitAt t.toNat 7

/-- Whether bits 7:0 of a VTYPE value are well formed (02 R39). -/
def vtypeOk (t : BitVec 8) : Bool :=
  decide (fld t.toNat 4 3 ≤ 3) &&
  (!vtSc t || (match vtFmt t with | .e4m3 | .e5m2 | .e2m1 => true | _ => false)) &&
  decide (16384 / elemWidth (vtFmt t) * vtG t ≤ 4096)

/-- The clusters that compute: granted − retired − mirrored (01 R28). -/
def computing (eff lanemap : BitVec 8) (prot : Bool) : Nat :=
  let u := popCount 8 (eff &&& ~~~lanemap).toNat
  if prot then u / 2 else u

/-- VLMAX of a number of computing clusters at a well-formed type (01 R28). -/
def vlmaxOf (c : Nat) (t : BitVec 8) : Nat := c * 2048 / elemWidth (vtFmt t) * vtG t

/-- Element count E of one register (02 R37). -/
def Hart.perReg (h : Hart) : Nat := h.vlmax.toNat / vtG h.vtype

/-- What a control-register instruction does with the operand: write, set, clear (05 R110). -/
inductive CrOp where
  | w | s | c
  deriving DecidableEq, Repr

/-- The value of an RW field after the instruction (06 R146). -/
def CrOp.rw (o : CrOp) (old v : Word) : Word :=
  match o with
  | .w => v
  | .s => old ||| v
  | .c => old &&& ~~~v

/-- Whether a number names a control register of a hart (02 R40, 15 R302). -/
def crKnown (n : Nat) : Bool :=
  n ≤ 8 || (0x100 ≤ n && n ≤ 0x106) || (0x200 ≤ n && n ≤ 0x213) || (0x218 ≤ n && n ≤ 0x223) ||
  (0x228 ≤ n && n ≤ 0x22B) || (0x240 ≤ n && n ≤ 0x246) || (0x300 ≤ n && n ≤ 0x306)

/-- Whether a control-register instruction may name a number at a level (02 R40, 15 R301). -/
def crAllowed (l : Level) (n : Nat) (writes : Bool) : Bool :=
  crKnown n && !(writes && 0x100 ≤ n && n ≤ 0x1FF) && (match l with | .u => decide (n < 0x200) | .s => true)

/-- Whether an access to a control register waits for the execute side (01 R19, 02 R41, 20 R408). -/
def crWaits (n : Nat) : Bool := n == 1 || n == 5 || n == 0x211 || n == 0x212 || n == 0x213

/-- TSTATUS.TB: the hart holds a stream engine, or a resident or staged region (15 R303). -/
def holdsAgent (s : State) (i : HartId) : Bool :=
  let x := tileAt s i.tile
  let c := (x.hart i.h1).ctxid
  (x.engines.toList.any fun e => match e with | some e => e.h1 == i.h1 && e.ctx == c | none => false) ||
  (x.fabric.owner == some (i.h1, c) && (!x.fabric.regions.isEmpty || x.fabric.staged.isSome || x.fabric.swap.isSome))

/-- TSTATUS as a word (15 R303). -/
def tstatusWord (s : State) (i : HartId) : Nat :=
  let h := getHart s i
  bit h.unres * 2 ^ 8 + bit h.fresh * 2 ^ 7 + bit h.full * 2 ^ 6 + bit h.spf * 2 ^ 5 + bit (holdsAgent s i) * 2 ^ 4 +
  bit h.tip * 2 ^ 3 + bit (h.pp == .s) * 2 ^ 2 + bit h.pie * 2 + bit h.ie

/-- VTYPE as a word (02 R42). -/
def vtypeWord (h : Hart) : Nat := bit h.ill * 2 ^ 63 + h.vtype.toNat

/-- The bits of a validity field that cover no element of a register of E elements read as 1 (02 R38, 20 R408). -/
def validityView (h : Hart) (v : Validity) : Validity :=
  let blocks := (h.perReg + 31) / 32
  v ||| BitVec.allOnes 128 <<< blocks

/-- The validity field of the register that VVSEL names. -/
def Hart.selVal (h : Hart) : Validity := h.val.get ⟨h.vvsel.toNat, h.vvsel.isLt⟩

/-- ACCCFG of an accumulator tile (15 R303). -/
def accCfg (a : AccTile) : Nat :=
  (match a.owner with | none => 0 | some false => 1 | some true => 2) * 2 ^ 32 + a.n.toNat * 2 ^ 18 + a.m.toNat * 2 ^ 11 +
  bit a.int32 * 2 ^ 9 + bit a.sc * 2 ^ 8 + a.fmt.toNat * 2 ^ 4

/-- QCNT (15 R303). -/
def qcntWord (s : State) (i : HartId) : Nat :=
  let h := getHart s i
  (upTo 0 4).foldl (fun x n => x + queueCount h n * 2 ^ (4 * n) + bit (boundEngine s i n).isSome * 2 ^ (16 + n)) 0

/-- WLS.DEPTH as it reads: 5 to 7 read as 4 (12 R292). -/
def wlsDepth (h : Hart) : Nat := min h.wls.toNat 4

/-- The value of a control register of a hart; reserved fields read zero (00 R8). -/
def crValue (s : State) (i : HartId) (n : Nat) : Nat :=
  let h := getHart s i
  let x := tileAt s i.tile
  match n with
  | 0x000 => h.frm.toNat
  | 0x001 => h.fflags.toNat
  | 0x002 => h.vmf.toNat
  | 0x003 => h.vmfs.toNat
  | 0x004 => h.vsreg.toNat
  | 0x005 => h.ves.toNat
  | 0x006 => h.ulivec.toNat
  | 0x007 => h.uliepc.toNat
  | 0x008 => h.ulipend.toNat
  | 0x100 | 0x300 => h.vl.toNat
  | 0x101 | 0x301 => vtypeWord h
  | 0x102 | 0x302 => h.vlmax.toNat
  | 0x103 | 0x303 => x.vlp.toNat
  | 0x104 | 0x304 => h.shbase.toNat
  | 0x105 | 0x305 => h.cyc.toNat
  | 0x106 | 0x306 => bit h.uliActive * 2 ^ 63 + h.uliEvent.toNat
  | 0x200 => h.tvec.toNat
  | 0x201 => h.tcause.toNat
  | 0x202 => h.tval.toNat
  | 0x203 => h.tepc.toNat
  | 0x204 => tstatusWord s i
  | 0x205 => h.tscratch.toNat
  | 0x206 => h.sip.toNat
  | 0x207 => h.scount.toNat
  | 0x208 => h.ctxid.toNat
  | 0x209 => bit h.vownV * 2 ^ 63 + h.vownId.toNat
  | 0x20A => h.vdirty.toNat
  | 0x20B => h.sptb.toNat
  | 0x20C => h.spdist.toNat
  | 0x20D => h.spcnt.toNat
  | 0x20E => h.spe0.toNat
  | 0x20F => h.spe1.toNat
  | 0x210 => qcntWord s i
  | 0x211 => h.vvsel.toNat
  | 0x212 => fld (validityView h h.selVal).toNat 0 64
  | 0x213 => fld (validityView h h.selVal).toNat 64 64
  | 0x240 => bit h.wbaRes * 2 ^ 63 + h.wbaAddr.toNat * 2 ^ 6
  | 0x241 => bit h.wbesDone * 2 ^ 63 + bit h.wbesArr * 2 ^ 62 + bit h.wbesTkn * 2 ^ 61 + h.wbesIdx.toNat
  | 0x242 => wlsDepth h
  | n =>
    if 0x218 ≤ n ∧ n ≤ 0x21F then (h.shd.toList.getD (n - 0x218) 0).toNat
    else if 0x220 ≤ n ∧ n ≤ 0x223 then (x.ctab.toList.getD (n - 0x220) 0).toNat
    else if 0x228 ≤ n ∧ n ≤ 0x22B then accCfg (x.acc.toList.getD (n - 0x228) AccTile.free)
    else if 0x243 ≤ n ∧ n ≤ 0x246 then (h.wle.toList.getD (n - 0x243) 0).toNat
    else 0

/-- VL written at S: clamped to VLMAX (15 R305; log 51). -/
def vlWriteOp (s : State) (i : HartId) (v : Word) : State :=
  Machine.modHart s i fun h => { h with vl := BitVec.ofNat 16 (min v.toNat h.vlmax.toNat) }

/-- VTYPE written at S (15 R305): no cluster step, VLMAX formed with the current effective set (log 51). -/
def vtypeWriteOp (s : State) (i : HartId) (v : Word) : State :=
  let x := tileAt s i.tile
  Machine.modHart s i fun h =>
    let t := BitVec.ofNat 8 v.toNat
    if v.getLsbD 63 || !vtypeOk t then { h with vtype := t, ill := true, vlmax := 0, vl := 0 }
    else
      let c := computing h.eff x.lanemap h.prot
      let m := vlmaxOf c t
      { h with vtype := t, ill := false, vlmax := BitVec.ofNat 16 m, vl := BitVec.ofNat 16 (min h.vl.toNat m) }

/-- VLP written at S: the owner map at once, no effective set and no request (17 R352). -/
def vlpWriteOp (s : State) (i : HartId) (v : Word) : State :=
  Machine.modTile s i.tile fun x => { x with vlp := BitVec.ofNat 8 v.toNat }

/-- FFLAGS written (02 R46). -/
def fflagsWriteOp (s : State) (i : HartId) (v : Word) : State :=
  Machine.modHart s i fun h => { h with fflags := BitVec.ofNat 6 v.toNat }

/-- VES written (02 R43). -/
def vesWriteOp (s : State) (i : HartId) (v : Word) : State :=
  Machine.modHart s i fun h => { h with ves := BitVec.ofNat 16 v.toNat }

/-- Half of the validity field of v(VVSEL) written (15 R304, 20 R408). -/
def validityWriteOp (s : State) (i : HartId) (high : Bool) (v : Word) : State :=
  Machine.modHart s i fun h =>
    let old := h.selVal.toNat
    { h with val := h.val.set h.vvsel.toNat (BitVec.ofNat 128 (putBits old (if high then 64 else 0) 64 v.toNat)) h.vvsel.isLt }

/-- The parked hart indices of a context (17 R354): farm and index. -/
def parkedOf (s : State) (part : Nat) (c : BitVec 16) : List Membership :=
  s.farms.flatMap fun f =>
    if f.part == part && f.ctx == c then
      (f.harts.mapIdx fun n x => (n, x)).filterMap fun y =>
        if y.2.placed && y.2.place.isNone && !y.2.exited then some { farm := f.id, index := y.1 } else none
    else []

/-- A hart takes up a parked hart index of the context it resumes (17 R354); among several, a free choice (log 23). Whether that index has
had its first SETVL its FRESH tells, which the supervisor restores (log 53). -/
def resumeIndex (s : State) (i : HartId) (c : BitVec 16) : State :=
  let l := parkedOf s (partNum s i.tile) c
  match l with
  | [] => s
  | m :: t =>
    let m := if t.isEmpty then m else l.getD (Config.resumed s.draws % l.length) m
    let s := if t.isEmpty then s else { s with draws := s.draws + 1 }
    let s := modFarmHart s m fun x => { x with place := some i }
    let s := modFarm s m.farm fun f => { f with tiles := if f.tiles.contains i.tile then f.tiles else f.tiles ++ [i.tile] }
    Machine.modHart s i fun h => { h with member := some m, unset := false }

/-- CTXID written by a hart (16 R328): its context's entry is read first, and none, where that fails or a TRAP reservation refuses it,
means that nothing changes. A change of
context parks the hart's index of its farm (17 R354). -/
def ctxidWriteOp (s : State) (i : HartId) (v : Word) : Option State :=
  let c := BitVec.ofNat 16 v.toNat
  match partOf s i.tile with
  | none => none
  | some p =>
    let h := getHart s i
    let who : Accessor := .hart i p.num h.ctxid
    match ctxEntryFor s who p c with
    | none => none
    | some (root, asid) =>
      let s := meet s who [ctxLineOf p c] false
      let change := h.ctxid != c || !h.translated
      let s := if change then leaveFarm s i false else s
      let s := Machine.modHart s i fun h => { h with ctxid := c, translated := true, root := root, asid := asid }
      some (if change && c != 0 then resumeIndex s i c else s)

/-- A control register of the current hart after CRW, CRS or CRC with an operand; none where a write of CTXID fails
(02 R42 to R51, 12 R292, 15 R303 to R305). -/
def crPut (s : State) (o : CrOp) (n : Nat) (v : Word) : Option State :=
  let i := s.cur
  let x := o.rw (BitVec.ofNat 64 (crValue s i n)) v
  let m (f : Hart → Hart) : Option State := some (Machine.modHart s i f)
  match n with
  | 0x000 => m fun h => { h with frm := BitVec.ofNat 2 x.toNat }
  | 0x001 => some (fflagsWriteOp s i x)
  | 0x002 => m fun h => { h with vmf := BitVec.ofNat 12 x.toNat }
  | 0x003 => m fun h => { h with vmfs := BitVec.ofNat 32 x.toNat }
  | 0x004 => m fun h => { h with vsreg := BitVec.ofNat 13 (x.toNat &&& 0x1F1F) }
  | 0x005 => some (vesWriteOp s i x)
  | 0x006 => m fun h => { h with ulivec := x &&& 0x000FFFFFFFFFFFFD }
  | 0x007 => m fun h => { h with uliepc := addrField x }
  | 0x008 => m fun h => { h with ulipend := h.ulipend &&& ~~~BitVec.ofNat 4 v.toNat }
  | 0x300 => some (vlWriteOp s i x)
  | 0x301 => some (vtypeWriteOp s i x)
  | 0x303 => some (vlpWriteOp s i x)
  | 0x304 => m fun h => { h with shbase := x &&& 0x000FFFFFFFFF0000 }
  | 0x305 => m fun h => { h with cyc := x }
  | 0x306 => m fun h => { h with uliActive := x.getLsbD 63, uliEvent := BitVec.ofNat 4 x.toNat }
  | 0x200 => m fun h => { h with tvec := addrField x }
  | 0x201 => m fun h => { h with tcause := x &&& 0x8000000000000FFF }
  | 0x202 => m fun h => { h with tval := x }
  | 0x203 => m fun h => { h with tepc := addrField x }
  | 0x204 => m fun h =>
      { h with unres := h.unres && !v.getLsbD 8, fresh := x.getLsbD 7, tip := x.getLsbD 3,
               pp := if x.getLsbD 2 then .s else .u, pie := x.getLsbD 1, ie := x.getLsbD 0 }
  | 0x205 => m fun h => { h with tscratch := x }
  | 0x206 => m fun h => { h with sip := (h.sip &&& ~~~BitVec.ofNat 3 v.toNat &&& 6) ||| (BitVec.ofNat 3 x.toNat &&& 1) }
  | 0x207 => m fun h => { h with scount := x }
  | 0x208 => ctxidWriteOp s i x
  | 0x209 => m fun h => { h with vownV := x.getLsbD 63, vownId := BitVec.ofNat 16 x.toNat }
  | 0x20A => m fun h => { h with vdirty := BitVec.ofNat 41 x.toNat }
  | 0x20B => m fun h => { h with sptb := x &&& 0x000FFFFFFFFFFFF0 }
  | 0x20C => m fun h => { h with spdist := BitVec.ofNat 32 x.toNat }
  | 0x20D => m fun h => { h with spcnt := BitVec.ofNat 32 x.toNat }
  | 0x211 => m fun h => { h with vvsel := BitVec.ofNat 5 x.toNat }
  | 0x212 => some (validityWriteOp s i false x)
  | 0x213 => some (validityWriteOp s i true x)
  | 0x240 => m fun h => { h with wbaRes := x.getLsbD 63, wbaAddr := BitVec.ofNat 42 (fld x.toNat 6 42) }
  | 0x241 => m fun h =>
      { h with wbesDone := x.getLsbD 63, wbesArr := x.getLsbD 62, wbesTkn := x.getLsbD 61, wbesIdx := BitVec.ofNat 32 x.toNat }
  | 0x242 => m fun h => { h with wls := BitVec.ofNat 3 x.toNat }
  | n =>
    if 0x218 ≤ n ∧ n ≤ 0x21F then m fun h => { h with shd := h.shd.setIfInBounds (n - 0x218) x }
    else if 0x220 ≤ n ∧ n ≤ 0x223 then
      some (Machine.modTile s i.tile fun t => { t with ctab := t.ctab.setIfInBounds (n - 0x220) x })
    else if 0x243 ≤ n ∧ n ≤ 0x246 then m fun h => { h with wle := h.wle.setIfInBounds (n - 0x243) (BitVec.ofNat 48 x.toNat) }
    else some s

/-- Return from a trap (15 R308): the level from PP, IE from PIE; TIP, FULL and SPF cleared; TEPC. -/
def Hart.trapReturn (h : Hart) : Hart :=
  { h with level := h.pp, ie := h.pie, tip := false, full := false, spf := false, pc := h.tepc }

end Sys2Proof.Machine
end

