-- ==== Sys2Proof/Machine/Flags.lean ====
section
/-! DEFINITION. Floating point: formats, rounding and every flag computation (spec 03). A finite value is kept exactly, as a
sign, a magnitude and a power of two. -/

namespace Sys2Proof.Machine

/-- A binary floating-point format: exponent and fraction widths, bias, and whether it is finite-only (03 R55, R59). -/
structure FForm where
  ebits : Nat
  fbits : Nat
  bias : Nat
  narrow : Bool
  deriving DecidableEq, Repr

/-- The formats of the tables of 03 R55 and R59. -/
def fp64Form : FForm := { ebits := 11, fbits := 52, bias := 1023, narrow := false }
def fp32Form : FForm := { ebits := 8, fbits := 23, bias := 127, narrow := false }
def bf16Form : FForm := { ebits := 8, fbits := 7, bias := 127, narrow := false }
def fp16Form : FForm := { ebits := 5, fbits := 10, bias := 15, narrow := false }
def e4m3Form : FForm := { ebits := 4, fbits := 3, bias := 7, narrow := true }
def e5m2Form : FForm := { ebits := 5, fbits := 2, bias := 15, narrow := true }
def e2m1Form : FForm := { ebits := 2, fbits := 1, bias := 1, narrow := true }

/-- The width of a format in bits. -/
def FForm.width (f : FForm) : Nat := 1 + f.ebits + f.fbits

/-- The format of a scalar floating-point instruction (06 R140). -/
def fFmtForm : FFmt → FForm
  | .fp64 => fp64Form
  | .fp32 => fp32Form
  | .fp16 => fp16Form
  | .bf16 => bf16Form

/-- The format of an element type; none for an integer type. -/
def elemForm : ElemTy → Option FForm
  | .fp64 => some fp64Form
  | .fp32 => some fp32Form
  | .bf16 => some bf16Form
  | .fp16 => some fp16Form
  | .e4m3 => some e4m3Form
  | .e5m2 => some e5m2Form
  | .e2m1 => some e2m1Form
  | _ => none

/-- Rounding modes (02 R45). -/
inductive Mode where
  | rne | rdn | rup | rtz
  deriving DecidableEq, Repr

/-- The mode that a code selects (02 R45). -/
def modeOf (c : Nat) : Mode :=
  match c % 4 with
  | 0 => .rne
  | 1 => .rdn
  | 2 => .rup
  | _ => .rtz

/-- A decoded operand: a NaN (signalling or quiet), an infinity, or (−1)^neg × m × 2^e. -/
inductive FVal where
  | nan (signalling : Bool)
  | inf (neg : Bool)
  | fin (neg : Bool) (m : Nat) (e : Int)
  deriving DecidableEq, Repr

/-- The value that bits of a format stand for (03 R55, R59). -/
def FForm.decode (f : FForm) (x : Nat) : FVal :=
  let neg := bitAt x (f.ebits + f.fbits)
  let ex := fld x f.fbits f.ebits
  let fr := fld x 0 f.fbits
  if !f.narrow && ex == 2 ^ f.ebits - 1 then
    if fr = 0 then .inf neg else .nan (fld fr (f.fbits - 1) 1 == 0)
  else if ex = 0 then .fin neg fr (1 - (f.bias : Int) - f.fbits)
  else .fin neg (2 ^ f.fbits + fr) ((ex : Int) - f.bias - f.fbits)

/-- A result's bits and flags. -/
structure FOut where
  bits : Nat
  flags : BitVec 6
  deriving DecidableEq, Repr

/-- The sign bit of a format. -/
def FForm.sign (f : FForm) (neg : Bool) : Nat := bit neg * 2 ^ (f.ebits + f.fbits)

/-- The largest exponent field of a finite number. -/
def FForm.topExp (f : FForm) : Nat := if f.narrow then 2 ^ f.ebits - 1 else 2 ^ f.ebits - 2

/-- The magnitude of the largest finite number. -/
def FForm.maxFinite (f : FForm) : Nat := f.topExp * 2 ^ f.fbits + (2 ^ f.fbits - 1)

/-- A NaN result: the canonical quiet NaN (03 R56), or in a narrow format +0 with NV (03 R60). -/
def FForm.nanOut (f : FForm) (flags : BitVec 6) : FOut :=
  if f.narrow then { bits := 0, flags := flags ||| flagNV }
  else { bits := (2 ^ f.ebits - 1) * 2 ^ f.fbits + 2 ^ (f.fbits - 1), flags := flags }

/-- An infinite result: exact, or in a narrow format the largest finite number with OF and NX (03 R60). -/
def FForm.infOut (f : FForm) (neg : Bool) (flags : BitVec 6) : FOut :=
  if f.narrow then { bits := f.sign neg + f.maxFinite, flags := flags ||| flagOF ||| flagNX }
  else { bits := f.sign neg + (2 ^ f.ebits - 1) * 2 ^ f.fbits, flags := flags }

/-- An overflow (03 R58, R60). -/
def FForm.overflow (f : FForm) (mode : Mode) (neg : Bool) : FOut :=
  let toInf := match mode with
    | .rne => true
    | .rtz => false
    | .rdn => neg
    | .rup => !neg
  let flags := flagOF ||| flagNX
  if f.narrow || !toInf then { bits := f.sign neg + f.maxFinite, flags := flags } else f.infOut neg flags

/-- Whether a cut-off remainder rounds the magnitude up (03 R58): cmp compares it with one half, odd is the parity of what
stays. -/
def roundsUp (mode : Mode) (neg odd inexact : Bool) (cmp : Ordering) : Bool :=
  match mode with
  | .rne => match cmp with
    | .gt => true
    | .eq => odd
    | .lt => false
  | .rtz => false
  | .rdn => inexact && neg
  | .rup => inexact && !neg

/-- A magnitude m × 2^e, plus a part below one unit of m where sticky, rounded to a multiple of 2^q: the multiple, and whether
it is inexact. A sticky magnitude has at least two bits below 2^q. -/
def roundAt (mode : Mode) (neg : Bool) (m : Nat) (e : Int) (sticky : Bool) (q : Int) : Nat × Bool :=
  if q ≤ e then (m * 2 ^ (e - q).toNat, sticky)
  else
    let k := (q - e).toNat
    let n := m / 2 ^ k
    let r := m % 2 ^ k
    let half := 2 ^ (k - 1)
    let inexact := sticky || r != 0
    let cmp := if r < half then Ordering.lt else if r = half && !sticky then .eq else .gt
    (if roundsUp mode neg (n % 2 == 1) inexact cmp then n + 1 else n, inexact)

/-- RoundTo for an exact non-zero magnitude (03 R58, R60): tininess is detected after rounding (03 R57). -/
def FForm.round (f : FForm) (mode : Mode) (neg : Bool) (m : Nat) (e : Int) (sticky : Bool) : FOut :=
  if m = 0 ∧ sticky = false then { bits := f.sign neg, flags := 0 } else
  let emin : Int := 1 - f.bias
  let ex : Int := if m = 0 then e - 1 else e + Nat.log2 m
  let qUnb := ex - f.fbits
  let qMin := emin - f.fbits
  let q := if qUnb < qMin then qMin else qUnb
  let (n, inexact) := roundAt mode neg m e sticky q
  let tiny := if ex < emin then
      let (u, _) := roundAt mode neg m e sticky qUnb
      decide (ex < emin - 1) || decide (u < 2 ^ (f.fbits + 1))
    else false
  let flags : BitVec 6 := (if inexact then flagNX else 0) ||| (if tiny && inexact then flagUF else 0)
  if n < 2 ^ f.fbits then { bits := f.sign neg + n, flags := flags }
  else
    let (n, q) := if n = 2 ^ (f.fbits + 1) then (2 ^ f.fbits, q + 1) else (n, q)
    let field := (q + f.fbits + f.bias).toNat
    if f.topExp < field then f.overflow mode neg
    else { bits := f.sign neg + field * 2 ^ f.fbits + (n - 2 ^ f.fbits), flags := flags }

/-- Whether one of two operands is a signalling NaN, and whether one is a NaN. -/
def FVal.isNan : FVal → Bool
  | .nan _ => true
  | _ => false
def FVal.isSig : FVal → Bool
  | .nan s => s
  | _ => false
def FVal.neg : FVal → FVal
  | .nan s => .nan s
  | .inf n => .inf !n
  | .fin n m e => .fin (!n) m e

/-- NV where a condition holds. -/
def nvIf (b : Bool) : BitVec 6 := if b then flagNV else 0

/-- A signed magnitude as an integer multiple of 2^e. -/
def signed (neg : Bool) (m : Nat) : Int := if neg then -(m : Int) else m

/-- An exact sum of two finite values: an integer multiple of a power of two. -/
def exactAdd (na : Bool) (ma : Nat) (ea : Int) (nb : Bool) (mb : Nat) (eb : Int) : Int × Int :=
  let e := if ea < eb then ea else eb
  (signed na ma * 2 ^ (ea - e).toNat + signed nb mb * 2 ^ (eb - e).toNat, e)

/-- The sign of an exact zero sum (03 R58). -/
def zeroSign (mode : Mode) (na nb : Bool) : Bool := if na = nb then na else mode = .rdn

/-- A signed exact value rounded; a zero takes the given sign. -/
def FForm.roundInt (f : FForm) (mode : Mode) (x : Int) (e : Int) (zneg : Bool) : FOut :=
  if x = 0 then { bits := f.sign zneg, flags := 0 } else f.round mode (decide (x < 0)) x.natAbs e false

/-- a + b rounded once (03 R58). -/
def FForm.addV (f : FForm) (mode : Mode) (a b : FVal) : FOut :=
  match a, b with
  | .fin na ma ea, .fin nb mb eb =>
    let (x, e) := exactAdd na ma ea nb mb eb
    f.roundInt mode x e (zeroSign mode na nb)
  | .inf na, .inf nb => if na = nb then f.infOut na 0 else f.nanOut flagNV
  | .inf na, .fin _ _ _ => f.infOut na 0
  | .fin _ _ _, .inf nb => f.infOut nb 0
  | a, b => f.nanOut (nvIf (a.isSig || b.isSig))

/-- a × b rounded once. -/
def FForm.mulV (f : FForm) (mode : Mode) (a b : FVal) : FOut :=
  match a, b with
  | .fin na ma ea, .fin nb mb eb => f.round mode (na != nb) (ma * mb) (ea + eb) false
  | .inf na, .inf nb => f.infOut (na != nb) 0
  | .inf na, .fin nb mb _ => if mb = 0 then f.nanOut flagNV else f.infOut (na != nb) 0
  | .fin na ma _, .inf nb => if ma = 0 then f.nanOut flagNV else f.infOut (na != nb) 0
  | a, b => f.nanOut (nvIf (a.isSig || b.isSig))

/-- The number of bits of a magnitude. -/
def bitLen (n : Nat) : Nat := if n = 0 then 0 else Nat.log2 n + 1

/-- a ÷ b rounded once (06 R141). -/
def FForm.divV (f : FForm) (mode : Mode) (a b : FVal) : FOut :=
  match a, b with
  | .fin na ma ea, .fin nb mb eb =>
    if mb = 0 then
      if ma = 0 then f.nanOut flagNV else f.infOut (na != nb) flagDZ
    else if ma = 0 then { bits := f.sign (na != nb), flags := 0 }
    else
      let k := f.fbits + 4 + bitLen mb - bitLen ma
      f.round mode (na != nb) (ma * 2 ^ k / mb) (ea - eb - k) (ma * 2 ^ k % mb != 0)
  | .inf _, .inf _ => f.nanOut flagNV
  | .inf na, .fin nb _ _ => f.infOut (na != nb) 0
  | .fin na _ _, .inf nb => { bits := f.sign (na != nb), flags := 0 }
  | a, b => f.nanOut (nvIf (a.isSig || b.isSig))

/-- The integer square root, bit by bit from a number of bits. -/
def isqrt (n : Nat) : Nat → Nat → Nat
  | 0, acc => acc
  | k + 1, acc => if (acc + 2 ^ k) * (acc + 2 ^ k) ≤ n then isqrt n k (acc + 2 ^ k) else isqrt n k acc

/-- √a rounded once (06 R141). -/
def FForm.sqrtV (f : FForm) (mode : Mode) (a : FVal) : FOut :=
  match a with
  | .fin neg m e =>
    if m = 0 then { bits := f.sign neg, flags := 0 }
    else if neg then f.nanOut flagNV
    else
      let k := 2 * (f.fbits + 4)
      let (m, e) := if e % 2 = 0 then (m * 2 ^ k, e - k) else (m * 2 ^ (k + 1), e - k - 1)
      let r := isqrt m (bitLen m / 2 + 1) 0
      f.round mode false r (e / 2) (r * r != m)
  | .inf neg => if neg then f.nanOut flagNV else f.infOut false 0
  | .nan s => f.nanOut (nvIf s)

/-- a × b + c rounded once (06 R145). -/
def FForm.fmaV (f : FForm) (mode : Mode) (a b c : FVal) : FOut :=
  let sig := a.isSig || b.isSig || c.isSig
  match a, b with
  | .fin na ma ea, .fin nb mb eb =>
    match c with
    | .fin nc mc ec =>
      let (x, e) := exactAdd (na != nb) (ma * mb) (ea + eb) nc mc ec
      f.roundInt mode x e (zeroSign mode (na != nb) nc)
    | .inf nc => f.infOut nc 0
    | .nan _ => f.nanOut (nvIf sig)
  | .nan _, _ => f.nanOut (nvIf sig)
  | _, .nan _ => f.nanOut (nvIf sig)
  | a, b =>
    let zero := match a, b with
      | .fin _ m _, _ => m == 0
      | _, .fin _ m _ => m == 0
      | _, _ => false
    let neg : Bool := (match a with | .fin n _ _ => n | .inf n => n | .nan _ => false) !=
      (match b with | .fin n _ _ => n | .inf n => n | .nan _ => false)
    if zero then f.nanOut flagNV
    else match c with
      | .nan _ => f.nanOut (nvIf sig)
      | .inf nc => if nc = neg then f.infOut neg 0 else f.nanOut flagNV
      | .fin _ _ _ => f.infOut neg 0

/-- Whether a < b, for operands that are no NaN; zeros compare equal. -/
def FVal.lt (a b : FVal) : Bool :=
  match a, b with
  | .fin na ma ea, .fin nb mb eb => decide ((exactAdd na ma ea (!nb) mb eb).1 < 0)
  | .inf na, .inf nb => na && !nb
  | .inf na, .fin _ _ _ => na
  | .fin _ _ _, .inf nb => !nb
  | _, _ => false

/-- Whether a = b, for operands that are no NaN. -/
def FVal.eq (a b : FVal) : Bool := !a.isNan && !b.isNan && !a.lt b && !b.lt a

/-- The sign of a value. -/
def FVal.negative : FVal → Bool
  | .fin n _ _ => n
  | .inf n => n
  | .nan _ => false

/-- minimumNumber and maximumNumber on bits (03 R56): a NaN yields the other operand, −0 orders below +0. -/
def FForm.minmax (f : FForm) (isMax : Bool) (x y : Nat) : FOut :=
  let a := f.decode x
  let b := f.decode y
  let flags := nvIf (a.isSig || b.isSig)
  if a.isNan && b.isNan then f.nanOut flags
  else if a.isNan then { bits := y, flags := flags }
  else if b.isNan then { bits := x, flags := flags }
  else
    let less := a.lt b || (a.eq b && a.negative && !b.negative)
    { bits := if less != isMax then x else y, flags := 0 }

/-- The conditions of compares: equal, less, less or equal, unordered, not equal (06 R142, 07 R171). -/
inductive FRel where
  | eq | lt | le | uno | ne
  deriving DecidableEq, Repr

/-- A compare: whether the relation holds, and its flags (06 R142). -/
def fRel (r : FRel) (a b : FVal) : Bool × BitVec 6 :=
  let un := a.isNan || b.isNan
  let sig := a.isSig || b.isSig
  match r with
  | .eq => (a.eq b, nvIf sig)
  | .ne => (!(a.eq b), nvIf sig)
  | .lt => (!un && a.lt b, nvIf un)
  | .le => (!un && (a.lt b || a.eq b), nvIf un)
  | .uno => (un, nvIf sig)

/-- A conversion between formats (06 R143, 03 R60). -/
def FForm.convert (f : FForm) (mode : Mode) (a : FVal) : FOut :=
  match a with
  | .fin neg m e => f.round mode neg m e false
  | .inf neg => f.infOut neg 0
  | .nan s => f.nanOut (nvIf s)

/-- An integer converted to a format (03 R61). -/
def FForm.ofInt (f : FForm) (mode : Mode) (x : Int) : FOut := f.roundInt mode x 0 false

/-- A value converted to an integer format of w bits: rounded, then saturated (03 R61). -/
def toIntSat (mode : Mode) (isSigned : Bool) (w : Nat) (a : FVal) : FOut :=
  let hi : Int := if isSigned then (2 ^ (w - 1) : Nat) - 1 else (2 ^ w : Nat) - 1
  let lo : Int := if isSigned then -((2 ^ (w - 1) : Nat) : Int) else 0
  match a with
  | .nan _ => { bits := 0, flags := flagNV }
  | .inf neg => { bits := wrap w (if neg then lo else hi), flags := flagNV }
  | .fin neg m e =>
    let (n, inexact) := roundAt mode neg m e false 0
    let x := signed neg n
    if hi < x then { bits := wrap w hi, flags := flagNV }
    else if x < lo then { bits := wrap w lo, flags := flagNV }
    else { bits := wrap w x, flags := if inexact then flagNX else 0 }

/-- Whether an integer element type is signed (03 R53). -/
def elemSigned : ElemTy → Bool
  | .i8 | .i16 | .i32 | .i64 | .i4 => true
  | _ => false

/-- The class code of 06 R144. -/
def FForm.classify (f : FForm) (x : Nat) : Nat :=
  let kind := match f.decode x with
    | .nan s => if s then 5 else 4
    | .inf _ => 3
    | .fin _ m _ => if m = 0 then 0 else if fld x f.fbits f.ebits = 0 then 1 else 2
  kind + bit (bitAt x (f.ebits + f.fbits)) * 8 + bit (x % 2 ^ f.width == (f.nanOut 0).bits) * 16

/-- Flags ORed into FFLAGS of a hart (02 R41, R46). -/
def Hart.raise (h : Hart) (fl : BitVec 6) : Hart := { h with fflags := h.fflags ||| fl }

end Sys2Proof.Machine
end

