-- ==== Sys2Proof/Machine/Scalar.lean ====
section
/-! DEFINITION. Integer instructions, constants, scalar loads and stores, atomics, branches and jumps (06 R126 to R139). -/

namespace Sys2Proof.Machine

/-- A register form: G[d] from G[a] and G[b] (06 R127). -/
def regOp (f : Word → Word → Word) (d a b : GReg) (s : State) : Out :=
  .next (s.modHart fun h => (h.wg d (f (h.rg a) (h.rg b))).advance 4)

/-- An immediate form: G[d] from G[a] and the sign-extended immediate (06 R129). -/
def immOp (f : Word → Word → Word) (d a : GReg) (imm : BitVec 15) (s : State) : Out :=
  .next (s.modHart fun h => (h.wg d (f (h.rg a) (imm.signExtend 64))).advance 4)

/-- A value written to G[d] by an instruction of n bytes that reads the hart only. -/
def setG (n : Nat) (d : GReg) (f : Hart → Word) (s : State) : Out :=
  .next (s.modHart fun h => (h.wg d (f h)).advance n)

/-- A truth value as a word. -/
def boolWord (b : Bool) : Word := if b then 1 else 0

/-- Bits 5:0 of a shift operand (06 R127). -/
def shAmt (b : Word) : Nat := b.toNat % 64

/-- Quotient and remainder of signed words, rounded toward zero, with the edge cases of 06 R128. -/
def divS (a b : Word) : Word := if b = 0 then BitVec.allOnes 64 else BitVec.ofInt 64 (Int.tdiv a.toInt b.toInt)
def remS (a b : Word) : Word := if b = 0 then a else BitVec.ofInt 64 (Int.tmod a.toInt b.toInt)
/-- Quotient and remainder of unsigned words (06 R127, R128). -/
def divU (a b : Word) : Word := if b = 0 then BitVec.allOnes 64 else BitVec.ofNat 64 (a.toNat / b.toNat)
def remU (a b : Word) : Word := if b = 0 then a else BitVec.ofNat 64 (a.toNat % b.toNat)

/-- The number of leading zeros and of trailing zeros of a word (06 R127). -/
def clzW (a : Word) : Nat := 64 - bitLen a.toNat
def ctzGo : Nat → Nat → Nat
  | 0, _ => 0
  | n + 1, x => if x % 2 = 1 then 0 else 1 + ctzGo n (x / 2)
def ctzW (a : Word) : Nat := ctzGo 64 a.toNat
/-- A word with bit i moved to bit 63 − i (06 R127). -/
def brevGo : Nat → Nat → Nat → Nat
  | 0, _, acc => acc
  | n + 1, x, acc => brevGo n (x / 2) (2 * acc + x % 2)
def brevW (a : Word) : Word := BitVec.ofNat 64 (brevGo 64 a.toNat 0)

def execAdd (d a b : GReg) (s : State) : Out := regOp (· + ·) d a b s
def execSub (d a b : GReg) (s : State) : Out := regOp (· - ·) d a b s
def execAnd (d a b : GReg) (s : State) : Out := regOp (· &&& ·) d a b s
def execOr (d a b : GReg) (s : State) : Out := regOp (· ||| ·) d a b s
def execXor (d a b : GReg) (s : State) : Out := regOp (· ^^^ ·) d a b s
def execSll (d a b : GReg) (s : State) : Out := regOp (fun x y => x <<< shAmt y) d a b s
def execSrl (d a b : GReg) (s : State) : Out := regOp (fun x y => x >>> shAmt y) d a b s
def execSra (d a b : GReg) (s : State) : Out := regOp (fun x y => x.sshiftRight (shAmt y)) d a b s
def execSlt (d a b : GReg) (s : State) : Out := regOp (fun x y => boolWord (x.slt y)) d a b s
def execSltn (d a b : GReg) (s : State) : Out := regOp (fun x y => boolWord (x.ult y)) d a b s
def execMin (d a b : GReg) (s : State) : Out := regOp (fun x y => if x.slt y then x else y) d a b s
def execMax (d a b : GReg) (s : State) : Out := regOp (fun x y => if x.slt y then y else x) d a b s
def execMinn (d a b : GReg) (s : State) : Out := regOp (fun x y => if x.ult y then x else y) d a b s
def execMaxn (d a b : GReg) (s : State) : Out := regOp (fun x y => if x.ult y then y else x) d a b s
def execMul (d a b : GReg) (s : State) : Out := regOp (· * ·) d a b s
def execMulh (d a b : GReg) (s : State) : Out := regOp (fun x y => BitVec.ofInt 64 (x.toInt * y.toInt / 2 ^ 64)) d a b s
def execMulhn (d a b : GReg) (s : State) : Out := regOp (fun x y => BitVec.ofNat 64 (x.toNat * y.toNat / 2 ^ 64)) d a b s
def execDiv (d a b : GReg) (s : State) : Out := regOp divS d a b s
def execDivn (d a b : GReg) (s : State) : Out := regOp divU d a b s
def execRem (d a b : GReg) (s : State) : Out := regOp remS d a b s
def execRemn (d a b : GReg) (s : State) : Out := regOp remU d a b s
def execClz (d a : GReg) (s : State) : Out := setG 4 d (fun h => BitVec.ofNat 64 (clzW (h.rg a))) s
def execCtz (d a : GReg) (s : State) : Out := setG 4 d (fun h => BitVec.ofNat 64 (ctzW (h.rg a))) s
def execPopc (d a : GReg) (s : State) : Out := setG 4 d (fun h => BitVec.ofNat 64 (popCount 64 (h.rg a).toNat)) s
def execBrev (d a : GReg) (s : State) : Out := setG 4 d (fun h => brevW (h.rg a)) s

def execAddi (d a : GReg) (imm : BitVec 15) (s : State) : Out := immOp (· + ·) d a imm s
def execAndi (d a : GReg) (imm : BitVec 15) (s : State) : Out := immOp (· &&& ·) d a imm s
def execOri (d a : GReg) (imm : BitVec 15) (s : State) : Out := immOp (· ||| ·) d a imm s
def execXori (d a : GReg) (imm : BitVec 15) (s : State) : Out := immOp (· ^^^ ·) d a imm s
def execSlti (d a : GReg) (imm : BitVec 15) (s : State) : Out := immOp (fun x y => boolWord (x.slt y)) d a imm s
def execSltni (d a : GReg) (imm : BitVec 15) (s : State) : Out := immOp (fun x y => boolWord (x.ult y)) d a imm s

def execSlli (d a : GReg) (sh : BitVec 6) (s : State) : Out := setG 4 d (fun h => h.rg a <<< sh.toNat) s
def execSrli (d a : GReg) (sh : BitVec 6) (s : State) : Out := setG 4 d (fun h => h.rg a >>> sh.toNat) s
def execSrai (d a : GReg) (sh : BitVec 6) (s : State) : Out := setG 4 d (fun h => (h.rg a).sshiftRight sh.toNat) s

/-- A 20-bit immediate in units of 16 KiB (06 R131). -/
def upperImm (imm : BitVec 20) : Word := imm.signExtend 64 <<< 14

def execLui (d : GReg) (imm : BitVec 20) (s : State) : Out := setG 4 d (fun _ => upperImm imm) s
def execAuipc (d : GReg) (imm : BitVec 20) (s : State) : Out := setG 4 d (fun h => h.pc + upperImm imm) s
def execLimm (d : GReg) (imm : BitVec 32) (s : State) : Out := setG 8 d (fun _ => imm.signExtend 64) s
def execLimmH (d : GReg) (imm : BitVec 32) (s : State) : Out :=
  setG 8 d (fun h => BitVec.ofNat 64 ((h.rg d).toNat % 2 ^ 32 + imm.toNat * 2 ^ 32)) s

/-- The number of bytes of a size (05 R109). -/
def sizeBytes : Size → Nat
  | .b => 1
  | .h => 2
  | .w => 4
  | .d => 8

/-- The number of bytes of an atomic's size (05 R109). -/
def wsizeBytes : WSize → Nat
  | .w => 4
  | .d => 8

/-- n bytes extended to 64 bits (06 R132). -/
def extendBytes (n : Nat) (zero : Bool) (x : Nat) : Word := if zero then BitVec.ofNat 64 x else BitVec.ofInt 64 (sint (8 * n) x)

/-- The address of a plain scalar load or store (05 R109). -/
def Hart.memAddr (h : Hart) (a : GReg) (off : BitVec 10) : Word := h.rg a + off.signExtend 64

/-- A scalar load of n bytes at an address (06 R132, R133). -/
def loadG (n : Nat) (zero : Bool) (d : GReg) (va : Word) (s : State) : Out :=
  (aligned n va s (loadAs (scalarActor s s.cur) .load n va s)).finish fun x s =>
    s.modHart fun h => (h.wg d (extendBytes n zero x)).advance 4

/-- A scalar store of n bytes at an address (06 R132, R133). -/
def storeG (n : Nat) (d : GReg) (va : Word) (s : State) : Out :=
  (aligned n va s (storeAs (scalarActor s s.cur) n va ((s.hart.rg d).toNat % 2 ^ (8 * n)) s)).finish fun _ s =>
    s.modHart fun h => h.advance 4

def execLdb (d a : GReg) (off : BitVec 10) (s : State) : Out := loadG 1 false d (s.hart.memAddr a off) s
def execLdh (d a : GReg) (off : BitVec 10) (s : State) : Out := loadG 2 false d (s.hart.memAddr a off) s
def execLdw (d a : GReg) (off : BitVec 10) (s : State) : Out := loadG 4 false d (s.hart.memAddr a off) s
def execLdd (d a : GReg) (off : BitVec 10) (s : State) : Out := loadG 8 false d (s.hart.memAddr a off) s
def execLdbN (d a : GReg) (off : BitVec 10) (s : State) : Out := loadG 1 true d (s.hart.memAddr a off) s
def execLdhN (d a : GReg) (off : BitVec 10) (s : State) : Out := loadG 2 true d (s.hart.memAddr a off) s
def execLdwN (d a : GReg) (off : BitVec 10) (s : State) : Out := loadG 4 true d (s.hart.memAddr a off) s
/-- LDAQ: an acquire at its scope (06 R134). -/
def execLdaq (d a : GReg) (n : Bool) (sz : Size) (_sc : Scope) (s : State) : Out :=
  loadG (sizeBytes sz) n d (s.hart.rg a) s
def execStb (d a : GReg) (off : BitVec 10) (s : State) : Out := storeG 1 d (s.hart.memAddr a off) s
def execSth (d a : GReg) (off : BitVec 10) (s : State) : Out := storeG 2 d (s.hart.memAddr a off) s
def execStw (d a : GReg) (off : BitVec 10) (s : State) : Out := storeG 4 d (s.hart.memAddr a off) s
def execStd (d a : GReg) (off : BitVec 10) (s : State) : Out := storeG 8 d (s.hart.memAddr a off) s
/-- STREL: a release at its scope, which waits until every covered access is performed (06 R134). -/
def execStrel (d a : GReg) (sz : Size) (_sc : Scope) (s : State) : Out :=
  waitPerformed s fun s => storeG (sizeBytes sz) d (s.hart.rg a) s

/-- Whether an ordering code is a release (04 R83). -/
def ordIsRel : MemOrd → Bool
  | .rel | .ar => true
  | _ => false

/-- A scalar atomic after its release (06 R135, R136). -/
def amoG (op : AmoOp) (d a b : GReg) (sz : WSize) (n : Bool) (s : State) : Out :=
  let h := s.hart
  let k := wsizeBytes sz
  (aligned k (h.rg a) s (atomicAs (scalarActor s s.cur) k (h.rg a)
      { op := op, uns := n, x := h.rg b, expected := h.rg d } s)).finish fun old s =>
    s.modHart fun h => (h.wg d (extendBytes k n old)).advance 4

/-- A scalar atomic: a release waits first (04 R84). -/
def amo (op : AmoOp) (d a b : GReg) (o : MemOrd) (sz : WSize) (n : Bool) (s : State) : Out :=
  if ordIsRel o then waitPerformed s fun s => amoG op d a b sz n s else amoG op d a b sz n s

def execAmoadd (d a b : GReg) (o : MemOrd) (_sc : Scope) (sz : WSize) (s : State) : Out := amo .add d a b o sz false s
def execAmoand (d a b : GReg) (o : MemOrd) (_sc : Scope) (sz : WSize) (s : State) : Out := amo .and d a b o sz false s
def execAmoor (d a b : GReg) (o : MemOrd) (_sc : Scope) (sz : WSize) (s : State) : Out := amo .or d a b o sz false s
def execAmoxor (d a b : GReg) (o : MemOrd) (_sc : Scope) (sz : WSize) (s : State) : Out := amo .xor d a b o sz false s
def execAmomin (d a b : GReg) (o : MemOrd) (_sc : Scope) (sz : WSize) (n : Bool) (s : State) : Out :=
  amo .min d a b o sz n s
def execAmomax (d a b : GReg) (o : MemOrd) (_sc : Scope) (sz : WSize) (n : Bool) (s : State) : Out :=
  amo .max d a b o sz n s
def execAmoswp (d a b : GReg) (o : MemOrd) (_sc : Scope) (sz : WSize) (s : State) : Out := amo .swp d a b o sz false s
def execAmocas (d a b : GReg) (o : MemOrd) (_sc : Scope) (sz : WSize) (s : State) : Out := amo .cas d a b o sz false s

/-- A branch: PC + 4 × offset where the comparison holds (06 R137). -/
def branch (c : Word → Word → Bool) (a b : GReg) (off : BitVec 10) (s : State) : Out :=
  .next (s.modHart fun h =>
    if c (h.rg a) (h.rg b) then { h with pc := h.pc + off.signExtend 64 <<< 2 } else h.advance 4)

def execBeq (a b : GReg) (off : BitVec 10) (s : State) : Out := branch (fun x y => x == y) a b off s
def execBne (a b : GReg) (off : BitVec 10) (s : State) : Out := branch (fun x y => x != y) a b off s
def execBlt (a b : GReg) (off : BitVec 10) (s : State) : Out := branch (fun x y => x.slt y) a b off s
def execBge (a b : GReg) (off : BitVec 10) (s : State) : Out := branch (fun x y => !x.slt y) a b off s
def execBltn (a b : GReg) (off : BitVec 10) (s : State) : Out := branch (fun x y => x.ult y) a b off s
def execBgen (a b : GReg) (off : BitVec 10) (s : State) : Out := branch (fun x y => !x.ult y) a b off s

/-- JAL (05 R110, 06 R138). -/
def execJal (d : GReg) (imm : BitVec 20) (s : State) : Out :=
  .next (s.modHart fun h => { h.wg d (h.pc + 4) with pc := h.pc + imm.signExtend 64 <<< 2 })

/-- JALR: a target whose bits 1:0 are not zero traps with cause 0x04 (05 R110). -/
def execJalr (d a : GReg) (imm : BitVec 15) (s : State) : Out :=
  let t := s.hart.rg a + imm.signExtend 64
  if t.toNat % 4 ≠ 0 then takeTrap s (trapOf 0x04 t)
  else .next (s.modHart fun h => { h.wg d (h.pc + 4) with pc := t })

end Sys2Proof.Machine
end

