-- ==== Sys2Proof/Machine/Batches.lean ====
section
/-! DEFINITION. Batches of remote operations at their source: opening, closing, sending, completing, reporting
(10 R229 to R232). -/

namespace Sys2Proof.Machine

/-- The peer-group table of a context (18 R381). -/
def peerTable (s : State) (part : Nat) (c : BitVec 16) : Option PeerTable :=
  s.peerTables.find? fun t => t.part == part && t.ctx == c

/-- Whether a peer id names this package: its own number too, which needs no entry in the peer list, a choice (10 R226, R227; log 57). -/
def isSelf (s : State) (p : BitVec 16) : Bool := p == 0xFFFF || p == s.self

/-- Whether a peer id lies outside the largest domain: no route leads there (18 R373, R374; log 73). -/
def noRoute (p : BitVec 16) : Bool := p != 0xFFFF && (decide (16 ≤ fld p.toNat 0 8) || decide (16 ≤ fld p.toNat 8 8))

/-- Whether the context that serves a context on a peer has been killed (10 R244, 18 R382). -/
def peerDead (s : State) (part : Nat) (c p : BitVec 16) : Bool :=
  match peerTable s part c with
  | none => false
  | some t => match t.peers.find? (fun q => q.1 == p) with
    | some q => s.deadPairs.contains q
    | none => false

/-- The code with which an operation fails at its source, before anything is sent: where several apply, no entry in the table comes first,
then no route, then a killed context, a choice (10 R227, R228, R244; log 57). -/
def sourceFailure (s : State) (part : Nat) (c : BitVec 16) (p : BitVec 16) : Option (BitVec 8) :=
  if isSelf s p then none
  else match peerTable s part c with
    | none => some 4
    | some t =>
      if !(t.peers.any fun q => q.1 == p) then some 4
      else if noRoute p then some 1
      else if peerDead s part c p then some 2
      else none

/-- Whether every operation of a batch has its answer. -/
def Batch.complete (b : Batch) : Bool := b.ops.all fun o => o.res.isSome

/-- The batches of a hart changed. -/
def setBatch (h : Hart) (id : Nat) (f : Batch → Batch) : Hart :=
  { h with outstanding := h.outstanding.map fun b => if b.id == id then f b else b }

/-- One batch sent: a sub-batch for each destination, its operations in order (10 R229; log 57). -/
def sendBatch (s : State) (i : HartId) (b : Batch) : State :=
  let part := partNum s i.tile
  let c := (getHart s i).ctxid
  let ops := b.ops.map fun o => match o.res with
    | some _ => o
    | none => match sourceFailure s part c o.op.peer with
      | some code => { o with res := some { code := code, val := 0 } }
      | none => o
  let live := (ops.filter fun o => o.res.isNone).map fun o => o.op
  let dest (p : BitVec 16) : Nat := if isSelf s p then 0x10000 else p.toNat
  let s := Machine.modHart s i fun h => setBatch h b.id fun b => { b with ops := ops, sent := true }
  let s := (nubNat (live.map fun o => dest o.peer)).foldl (fun s p =>
    let sb : SubBatch := { src := s.self, ctx := c, hart := i, batch := b.id,
                           ops := live.filter fun o => dest o.peer == p, intact := true }
    if p = 0x10000 then schedule s [.subBatchArrival sb]
    else { s with peerOut := s.peerOut ++ [.subBatch (BitVec.ofNat 16 p) sb] }) s
  if live.isEmpty then schedule s [.batchCompletion i b.id] else s

/-- Whether a batch carries a barrier arrival: it is sent after every earlier batch is complete (10 R241). -/
def Batch.arrives (b : Batch) : Bool := b.ops.any fun o => o.op.kind == .arrive

/-- The batches that wait to be sent, sent in closing order while the next may be: one that carries a barrier arrival only
once nothing before it is outstanding (10 R230, R241). -/
def sendReady : Nat → State → HartId → State
  | 0, s, _ => s
  | fuel + 1, s, i =>
    let l := (getHart s i).outstanding
    match l.findIdx? fun b => !b.sent with
    | none => s
    | some n =>
      match l[n]? with
      | none => s
      | some b => if b.arrives && n != 0 then s else sendReady fuel (sendBatch s i b) i

/-- What may be sent once a batch of a hart is no longer outstanding. -/
def sendWaiting (s : State) (i : HartId) : State := sendReady (getHart s i).outstanding.length s i

/-- A batch closed: it becomes outstanding and is sent; the instruction that closes it waits for none of the batches any more (10
R229, R235). -/
def closeNow (s : State) (i : HartId) (b : Batch) : State :=
  sendWaiting (Machine.modHart s i fun h =>
    { h with openBatch := none, outstanding := h.outstanding ++ [b], batchWait := false }) i

/-- The current hart waits for its batches (log 8). -/
def batchStall (s : State) : Out := .next (s.modHart fun h => { h with batchWait := true })

/-- The open batch closed, under the limit of 32 outstanding batches (10 R229). -/
def closeBatch (s : State) (k : State → Out) : Out :=
  match s.hart.openBatch with
  | none => k s
  | some b => if 32 ≤ s.hart.outstanding.length then batchStall s else k (closeNow s s.cur b)

/-- The wait for at most n outstanding batches (10 R235). -/
def waitBatches (n : Nat) (s : State) (k : State → Out) : Out :=
  if s.hart.outstanding.length ≤ n then k (s.modHart fun h => { h with batchWait := false }) else batchStall s

/-- TVAL of cause 0x0D (10 R231). -/
def remoteTval (o : RemoteOp) (code : BitVec 8) : Word :=
  BitVec.ofNat 64 (o.peer.toNat * 2 ^ 48 + code.toNat * 2 ^ 40 + o.off % 2 ^ 40)

/-- A reporting point: the oldest failed batch not yet reported traps with cause 0x0D (10 R231). -/
def reportFailures (s : State) (k : State → Out) : Out :=
  match s.hart.failures with
  | [] => k s
  | f :: t => takeTrap (s.modHart fun h => { h with failures := t }) (trapOf 0x0D (remoteTval f.2.1 f.2.2))

/-- A batched operation appended to the open batch; the 64th closes it (10 R229). -/
def appendOp (s : State) (op : RemoteOp) (k : State → Out) : Out :=
  let h := s.hart
  let b := h.openBatch.getD { id := h.nextBatch, sync := false, ops := [], sent := false }
  let b := { b with ops := b.ops ++ [{ op := op, res := none }] }
  if b.ops.length < 64 then
    k (s.modHart fun h => { h with openBatch := some b, nextBatch := if h.openBatch.isNone then h.nextBatch + 1 else h.nextBatch })
  else if 32 ≤ h.outstanding.length then batchStall s
  else k (closeNow (s.modHart fun h => { h with nextBatch := if h.openBatch.isNone then h.nextBatch + 1 else h.nextBatch }) s.cur b)

/-- The first failed operation of a batch. -/
def Batch.firstFailure (b : Batch) : Option (RemoteOp × BitVec 8) :=
  b.ops.findSome? fun o => match o.res with
    | some r => if r.code = 0 then none else some (o.op, r.code)
    | none => none

/-- A complete batch leaves the outstanding ones: its failure is kept, in closing order, for the next reporting point, and
ULIPEND.BATCH is set unless an instruction of the hart waits for it (10 R231, R235; 02 R51). A synchronous batch stays for its
instruction. -/
def completeBatch (s : State) (i : HartId) (id : Nat) : State :=
  match (getHart s i).outstanding.find? fun b => b.id == id with
  | none => s
  | some b =>
    if !b.complete || b.sync || !b.sent then s else
    let s := Machine.modHart s i fun h =>
      { h with
        outstanding := h.outstanding.filter fun x => x.id != id
        failures := sortBy (fun f => f.1) (h.failures ++ b.firstFailure.toList.map fun f => (b.id, f))
        ulipend := if h.batchWait then h.ulipend else h.ulipend ||| 2 }
    sendWaiting s i

/-- The answers of one destination to a batch, in the order of its operations; a reply that fails its check gives code 5 to
the operations that return data (10 R233). -/
def fillReplies : List BatchOp → (RemoteOp → Bool) → List RemoteResult → Bool → List BatchOp
  | [], _, _, _ => []
  | o :: t, mine, [], intact => o :: fillReplies t mine [] intact
  | o :: t, mine, r :: rs, intact =>
    if o.res.isNone && mine o.op then
      let data := match o.op.kind with
        | .load _ | .atomic _ _ _ _ => true
        | _ => false
      let r := if intact || !data then r else { code := 5, val := 0 }
      { o with res := some r } :: fillReplies t mine rs intact
    else o :: fillReplies t mine (r :: rs) intact

/-- Results of a destination entered in a batch; the last completes it. -/
def enterReplies (s : State) (i : HartId) (id : Nat) (mine : RemoteOp → Bool) (res : List RemoteResult) (intact : Bool) : State :=
  let s := Machine.modHart s i fun h => setBatch h id fun b => { b with ops := fillReplies b.ops mine res intact }
  match (getHart s i).outstanding.find? fun b => b.id == id with
  | some b => if b.complete then schedule s [.batchCompletion i id] else s
  | none => s

end Sys2Proof.Machine
end

