-- ==== Sys2Proof/Machine/ScalarFp.lean ====
section
/-! DEFINITION. Scalar floating point in g registers (06 R140 to R145). -/

namespace Sys2Proof.Machine

/-- The operand of a format in a g register: its low bits (06 R140). -/
def Hart.fpArg (h : Hart) (f : FForm) (r : GReg) : FVal := f.decode ((h.rg r).toNat % 2 ^ f.width)

/-- The rounding mode of FRM (02 R45). -/
def Hart.mode (h : Hart) : Mode := modeOf h.frm.toNat

/-- A result written to G[d], higher bits zero, with its flags ORed into FFLAGS (06 R140). -/
def fpResult (d : GReg) (g : Hart → FOut) (s : State) : Out :=
  .next (s.modHart fun h => (((h.wg d (BitVec.ofNat 64 (g h).bits)).raise (g h).flags).advance 4))

def execFadd (d a b : GReg) (f : FFmt) (s : State) : Out :=
  fpResult d (fun h => (fFmtForm f).addV h.mode (h.fpArg (fFmtForm f) a) (h.fpArg (fFmtForm f) b)) s
def execFsub (d a b : GReg) (f : FFmt) (s : State) : Out :=
  fpResult d (fun h => (fFmtForm f).addV h.mode (h.fpArg (fFmtForm f) a) (h.fpArg (fFmtForm f) b).neg) s
def execFmul (d a b : GReg) (f : FFmt) (s : State) : Out :=
  fpResult d (fun h => (fFmtForm f).mulV h.mode (h.fpArg (fFmtForm f) a) (h.fpArg (fFmtForm f) b)) s
def execFdiv (d a b : GReg) (f : FFmt) (s : State) : Out :=
  fpResult d (fun h => (fFmtForm f).divV h.mode (h.fpArg (fFmtForm f) a) (h.fpArg (fFmtForm f) b)) s
def execFsqrt (d a : GReg) (f : FFmt) (s : State) : Out :=
  fpResult d (fun h => (fFmtForm f).sqrtV h.mode (h.fpArg (fFmtForm f) a)) s
def execFmin (d a b : GReg) (f : FFmt) (s : State) : Out :=
  fpResult d (fun h => (fFmtForm f).minmax false ((h.rg a).toNat % 2 ^ (fFmtForm f).width)
    ((h.rg b).toNat % 2 ^ (fFmtForm f).width)) s
def execFmax (d a b : GReg) (f : FFmt) (s : State) : Out :=
  fpResult d (fun h => (fFmtForm f).minmax true ((h.rg a).toNat % 2 ^ (fFmtForm f).width)
    ((h.rg b).toNat % 2 ^ (fFmtForm f).width)) s

/-- The relation of an FCMP condition (06 R142). -/
def fcmpRel : FCmpCond → FRel
  | .eq => .eq
  | .lt => .lt
  | .le => .le
  | .uno => .uno

def execFcmp (d a b : GReg) (f : FFmt) (c : FCmpCond) (s : State) : Out :=
  fpResult d (fun h =>
    let r := fRel (fcmpRel c) (h.fpArg (fFmtForm f) a) (h.fpArg (fFmtForm f) b)
    { bits := bit r.1, flags := r.2 }) s

/-- Width and signedness of an integer type of FCVT (05 R111). -/
def intTyWidth : IntTy → Nat
  | .i64 | .n64 => 64
  | .i32 | .n32 => 32
def intTySigned : IntTy → Bool
  | .i64 | .i32 => true
  | .n64 | .n32 => false

/-- The integer that the low bits of a word hold. -/
def intOf (isSigned : Bool) (w x : Nat) : Int := if isSigned then sint w x else ((x % 2 ^ w : Nat) : Int)

def execFcvtToFloat (d a : GReg) (f : FFmt) (src : CvtSrc) (s : State) : Out :=
  fpResult d (fun h =>
    match src with
    | .float g => (fFmtForm f).convert h.mode (h.fpArg (fFmtForm g) a)
    | .int t => (fFmtForm f).ofInt h.mode (intOf (intTySigned t) (intTyWidth t) (h.rg a).toNat)) s

/-- An I32 result is sign-extended, an N32 result zero-extended (06 R143). -/
def execFcvtToInteger (d a : GReg) (f : FFmt) (dst : IntTy) (s : State) : Out :=
  fpResult d (fun h =>
    let r := toIntSat h.mode (intTySigned dst) (intTyWidth dst) (h.fpArg (fFmtForm f) a)
    { r with bits := wrap 64 (intOf (intTySigned dst) (intTyWidth dst) r.bits) }) s

def execFclass (d a : GReg) (f : FFmt) (s : State) : Out :=
  setG 4 d (fun h => BitVec.ofNat 64 ((fFmtForm f).classify ((h.rg a).toNat % 2 ^ (fFmtForm f).width))) s

def execFma (d a b c : GReg) (f : FFmt) (s : State) : Out :=
  fpResult d (fun h => (fFmtForm f).fmaV h.mode (h.fpArg (fFmtForm f) a) (h.fpArg (fFmtForm f) b)
    (h.fpArg (fFmtForm f) c)) s

end Sys2Proof.Machine
end

