-- ==== Sys2Proof/Machine/Operands.lean ====
section
/-! DEFINITION. Operands of vector instructions: elements of register groups, masks, validity, scalar, immediate and queue
operands (02 R36 to R39, 07 R159 to R162, 01 R23, R24). -/

namespace Sys2Proof.Machine

/-- The vector shape of a hart: element type and width, elements per register, VL, grouping factor, SC, VLMAX, rounding mode. -/
structure Shape where
  fmt : ElemTy
  w : Nat
  e : Nat
  vl : Nat
  g : Nat
  sc : Bool
  vlmax : Nat
  mode : Mode
  deriving DecidableEq, Repr

/-- The shape that VL, VTYPE, VLMAX and FRM give (02 R37, R42). -/
def Hart.shape (h : Hart) : Shape :=
  { fmt := vtFmt h.vtype, w := elemWidth (vtFmt h.vtype), e := h.perReg, vl := h.vl.toNat, g := vtG h.vtype,
    sc := vtSc h.vtype, vlmax := h.vlmax.toNat, mode := h.mode }

/-- The register r + j. -/
def regPlus (r : VReg) (j : Nat) : VReg := r + BitVec.ofNat 5 j

/-- Element i of a group of registers of e elements of w bits (02 R37). -/
def Hart.elem (h : Hart) (r : VReg) (w e i : Nat) : Nat := fld (h.rv (regPlus r (i / e))).toNat (i % e * w) w

/-- The validity bit of the block that holds element i of a group (02 R38). -/
def Hart.valid (h : Hart) (r : VReg) (e i : Nat) : Bool :=
  (h.val.get ⟨(regPlus r (i / e)).toNat, (regPlus r (i / e)).isLt⟩).getLsbD (i % e / 32)

/-- Whether element i is active: unmasked, or its mask bit is set (02 R37). -/
def Hart.maskOn (h : Hart) (k : KReg) (i : Nat) : Bool := k == 0 || (h.rk k).getLsbD i

/-- The active elements below VL from a first one, in increasing order. -/
def Hart.active (h : Hart) (k : KReg) (first : Nat) : List Nat :=
  (upTo first (h.vl.toNat - first)).filter (h.maskOn k)

/-- An element to be written: its index, its code, whether its source blocks are valid, its flags. -/
structure VWrite where
  i : Nat
  x : Nat
  ok : Bool
  fl : BitVec 6
  deriving DecidableEq, Repr

/-- One register of a group with its elements written. -/
def writeReg (w e j : Nat) (ws : List VWrite) (old : VWord) : VWord :=
  BitVec.ofNat 16384 (ws.foldl (fun x v => if v.i / e = j then putBits x (v.i % e * w) w v.x else x) old.toNat)

/-- The validity field of one register: each block that holds a written element gets the AND of what its elements bring
(07 R162). -/
def writeVal (e j : Nat) (ws : List VWrite) (old : Validity) : Validity :=
  let mine := ws.filter fun v => v.i / e == j
  let set := mine.foldl (fun x v => x ||| (1#128 <<< (v.i % e / 32))) old
  mine.foldl (fun x v => if v.ok then x else x &&& ~~~(1#128 <<< (v.i % e / 32))) set

/-- VDIRTY bits of vector registers set at U (15 R320). -/
def Hart.dirtyV (h : Hart) (r : VReg) : Hart :=
  match h.level with
  | .u => { h with vdirty := h.vdirty ||| (1#41 <<< r.toNat) }
  | .s => h

/-- VDIRTY bits of mask registers set at U (15 R320). -/
def Hart.dirtyK (h : Hart) (r : KReg) : Hart :=
  match h.level with
  | .u => { h with vdirty := h.vdirty ||| (1#41 <<< (32 + r.toNat)) }
  | .s => h

/-- VDIRTY.ACC set at U (15 R320). -/
def Hart.dirtyAcc (h : Hart) : Hart :=
  match h.level with
  | .u => { h with vdirty := h.vdirty ||| (1#41 <<< 40) }
  | .s => h

/-- One register and its validity field written. -/
def Hart.setReg (h : Hart) (r : VReg) (x : VWord) (v : Validity) : Hart :=
  { h with v := h.v.set r.toNat x r.isLt, val := h.val.set r.toNat v r.isLt }.dirtyV r

/-- The elements of a group written, with validity and dirty bits (07 R161, R162). Flags are not raised here. -/
def Hart.writeElems (h : Hart) (d : VReg) (w e : Nat) (ws : List VWrite) : Hart :=
  (nubNat (ws.map fun v => v.i / e)).foldl (fun h j =>
    let r := regPlus d j
    h.setReg r (writeReg w e j ws (h.rv r)) (writeVal e j ws (h.val.get ⟨r.toNat, r.isLt⟩))) h

/-- The union of the flags of the elements written (03 R57). -/
def flagsOf (ws : List VWrite) : BitVec 6 := ws.foldl (fun f v => f ||| v.fl) 0

/-- A mask register with bits written. -/
def Hart.writeMask (h : Hart) (d : KReg) (bits : List (Nat × Bool)) : Hart :=
  if bits.isEmpty then h else
  let x := bits.foldl (fun x b => putBits x b.1 1 (bit b.2)) (h.rk d).toNat
  { h with k := h.k.set d.toNat (BitVec.ofNat 4096 x) d.isLt }.dirtyK d

/-- The immediate of source kind 11 as an element of a type (07 R159): for floats RoundTo, with no flag. -/
def immElem (fmt : ElemTy) (c : BitVec 5) : Nat :=
  match elemForm fmt with
  | some f => (f.ofInt .rne c.toInt).bits
  | none => wrap (elemWidth fmt) c.toInt

/-- Operand b at element i (07 R159): w and e as the entry reads it, fmt its type. -/
def Hart.srcElem (h : Hart) (b : Src) (qv : List VWord) (fmt : ElemTy) (w e i : Nat) : Nat :=
  match b with
  | .v r => h.elem r w e i
  | .g r => (h.rg r).toNat % 2 ^ w
  | .q _ => fld (qv.getD (i / e) 0).toNat (i % e * w) w
  | .imm c => immElem fmt c

/-- Whether the block that supplies operand b at element i is valid (07 R162). -/
def Hart.srcValid (h : Hart) (b : Src) (e i : Nat) : Bool :=
  match b with
  | .v r => h.valid r e i
  | _ => true

/-- The queue that an operand names. -/
def srcQueue : Src → Option (BitVec 2)
  | .q n => some n
  | _ => none

/-- A load-data queue of a hart. -/
def Hart.queue (h : Hart) (n : BitVec 2) : List VWord := h.q.get ⟨n.toNat, n.isLt⟩

/-- A load-data queue replaced. -/
def Hart.setQueue (h : Hart) (n : BitVec 2) (l : List VWord) : Hart := { h with q := h.q.set n.toNat l n.isLt }

/-- g entries, with their flags, taken by the current hart from an engine bound to a queue; an error: the instruction waits for the
engine, and one that takes more entries than a queue holds keeps those that are there, so that the engine goes on (01 R23, 11 R274; log
63). -/
def takeBound (s : State) (e : Engine) (x : EngineState) (g : Nat) : Except State (List (VWord × BitVec 6) × State) :=
  let all := x.taken ++ x.entries.zip x.entryFlags
  if all.length < g && !x.done then
    .error (if 4 < g then setEngine s s.cur.tile e (some { x with taken := all, entries := [], entryFlags := [] }) else s)
  else
    let n := g - x.taken.length
    .ok (all.take g, setEngine s s.cur.tile e (some
      { x with taken := x.taken.drop g, entries := x.entries.drop n, entryFlags := x.entryFlags.drop n }))

/-- The entries that a queue operand consumes at issue, and the state after it: G entries of the queue, or of the engine bound
to it, whose stream's end gives zero entries (01 R23, R24; 11 R274). An error: the instruction waits for the engine. DESIGN CHOICE:
entries that VLDQ left in the hart's queue before the SBIND stay there unread until the engine is unbound (log 63). -/
def consume (s : State) (b : Option (BitVec 2)) : Except State (List VWord × State) :=
  match b with
  | none => .ok ([], s)
  | some n =>
    let h := s.hart
    let g := vtG h.vtype
    match boundEngine s s.cur n.toNat with
    | none => .ok ((h.queue n).take g, s.setHart (h.setQueue n ((h.queue n).drop g)))
    | some (e, x) =>
      (takeBound s e x g).map fun r =>
        (r.1.map (fun y => y.1) ++ List.replicate (g - r.1.length) 0,
          r.2.modHart fun h => h.raise (r.1.foldl (fun f y => f ||| y.2) 0))

end Sys2Proof.Machine
end

