-- ==== Sys2Proof/Machine/Issue.lean ====
section
/-! DEFINITION. The checks of steps 4 to 7 of 05 R105: vector ownership, vector type, the rules that depend on VTYPE, VMF and the
queue counts, accumulator ownership and shape. -/

namespace Sys2Proof.Machine

/-- The type classes of 07 R158 that an instruction accepts. -/
inductive TypeClass where
  | any | int | floatNarrow | float
  deriving DecidableEq, Repr

/-- Whether a type lies in a class (07 R158). -/
def TypeClass.has (c : TypeClass) (t : ElemTy) : Bool :=
  match c, elemForm t with
  | .any, _ => true
  | .int, f => f.isNone
  | .floatNarrow, f => f.isSome
  | .float, some f => !f.narrow
  | .float, none => false

/-- What an instruction names that the checks look at: its classes, its register groups of G registers, its index groups
(08 R187), its queue operand, whether it checks VTYPE.ILL and the reserved codes of VMF. -/
structure VecForm where
  cls : TypeClass := .any
  groups : List VReg := []
  index : List VReg := []
  queue : Option (BitVec 2) := none
  vtype : Bool := true
  vmf : Bool := false
  deriving DecidableEq, Repr

/-- The register group that operand b names. -/
def srcGroups : Src → List VReg
  | .v r => [r]
  | _ => []

/-- An element-wise instruction with operand b. -/
def opForm (cls : TypeClass) (regs : List VReg) (b : Src) : Option VecForm :=
  some { cls := cls, groups := regs ++ srcGroups b, queue := srcQueue b }

/-- A vector load or store. -/
def memForm (regs index : List VReg) : Option VecForm := some { groups := regs, index := index, vmf := true }

/-- A vector atomic: its operand group and its address. -/
def amoForm (d : VReg) (b : VAddr) : Option VecForm :=
  some { groups := [d], index := match b with | .indexed v => [v] | _ => [] }

/-- The form of an instruction that step 4 of 05 R105 checks (15 R319): every vector, mask, matrix and vector-memory
instruction, SETVL, SETVLI and WDRIVE. -/
def vecForm : Instr → Option VecForm
  | .setvl _ _ _ | .setvli _ _ _ _ _ => some { vtype := false }
  | .vadd d a b _ | .vsub d a b _ | .vmul d a b _ | .vmulh d a b _ | .vmadd d a b _ | .vsll d a b _ | .vsrl d a b _
  | .vsra d a b _ | .vmin d a b _ | .vmax d a b _ | .vminn d a b _ | .vmaxn d a b _ | .vsadd d a b _ | .vssub d a b _ =>
    opForm .int [d, a] b
  | .vand d a b _ | .vor d a b _ | .vxor d a b _ | .vmerge d a b _ | .vslideup d a b _ | .vslidedn d a b _
  | .vperm d a b _ => opForm .any [d, a] b
  | .vcmpEq _ a b _ | .vcmpNe _ a b _ | .vcmpLt _ a b _ | .vcmpGe _ a b _ | .vcmpLtn _ a b _ | .vcmpGen _ a b _ =>
    opForm .int [a] b
  | .vmv d b _ | .vcompress d b _ | .vexpand d b _ | .vbcast d b _ => opForm .any [d] b
  | .vfadd d a b _ | .vfsub d a b _ | .vfmul d a b _ | .vfdiv d a b _ | .vfmin d a b _ | .vfmax d a b _ | .vfma d a b _
  | .vfnma d a b _ => opForm .floatNarrow [d, a] b
  | .vfsqrt d b _ | .vfexp2 d b _ | .vfrcp d b _ | .vfrsq d b _ => opForm .floatNarrow [d] b
  | .vfcmpEq _ a b _ | .vfcmpNe _ a b _ | .vfcmpLt _ a b _ | .vfcmpLe _ a b _ => opForm .floatNarrow [a] b
  | .vfcvt d _ b _ => some { groups := [d], queue := srcQueue b }
  | .kand _ _ _ | .kor _ _ _ | .kxor _ _ _ | .knot _ _ | .kpopc _ _ _ | .kfirst _ _ _ | .kmov _ _ => some {}
  | .vredsum _ _ b _ | .vredmax _ _ b _ | .vredmin _ _ b _ => opForm .int [] b
  | .vfredsum _ _ b _ | .vfredo _ _ b _ => opForm .float [] b
  | .viota d _ _ => some { cls := .int, groups := [d] }
  | .vextr _ a _ => some { groups := [a] }
  | .vins d _ _ _ => some { groups := [d] }
  | .vld d _ _ _ | .vldSc d _ _ _ | .vlds d _ _ _ | .vst d _ _ _ | .vstSc d _ _ _ | .vsts d _ _ _
  | .vldsImmediate d _ _ _ | .vstsImmediate d _ _ _ | .vldz d _ _ _ _ | .vstz d _ _ _ _ => memForm [d] []
  | .vldx d _ b _ | .vstx d _ b _ => memForm [d] [b]
  | .vldq _ _ _ _ | .vldqStrided _ _ _ _ => memForm [] []
  | .vldqIndexed _ _ b _ => memForm [] [b]
  | .vamoadd d _ b _ | .vamoand d _ b _ | .vamoor d _ b _ | .vamoxor d _ b _ | .vamomin d _ b _ | .vamomax d _ b _
  | .vamoswp d _ b _ => amoForm d b
  | .vpostadd _ b _ | .vpostand _ b _ | .vpostor _ b _ | .vpostxor _ b _ | .vpostmin _ b _ | .vpostmax _ b _
  | .vpostswp _ b _ => amoForm 0 b
  | .vcapp _ _ | .vcopy _ _ _ | .vfill _ _ _ => some {}
  | .mcfg _ _ _ _ _ _ | .mzero _ | .mrel _ => some { vtype := false }
  | .mma _ a b => some { groups := [a, b] }
  | .mdrain _ _ _ _ _ _ | .mdrainx _ _ _ _ _ _ => some { vmf := true }
  | .mldacc _ _ _ _ _ => some {}
  | .rldx d a p _ _ | .rstx d a p _ _ => some { groups := [d], index := [a, p] }
  | .rapp d _ p _ _ => some { groups := [d], index := [p] }
  | .wdrive _ _ => some { vmf := true }
  | _ => none

/-- Fields of VMF (02 R47). -/
def vmfEnc (v : BitVec 12) : Nat := fld v.toNat 0 5
def vmfSmode (v : BitVec 12) : Nat := fld v.toNat 5 3
def vmfRnd (v : BitVec 12) : Nat := fld v.toNat 8 3
def vmfSat (v : BitVec 12) : Bool := v.getLsbD 11

/-- Whether VMF holds no reserved code (02 R47). -/
def vmfKnown (v : BitVec 12) : Bool :=
  !(0x14 ≤ vmfEnc v && vmfEnc v ≤ 0x1E) && decide (vmfSmode v ≤ 2) && decide (vmfRnd v ≤ 3)

/-- The addressing of a vector memory instruction (08 R186). -/
inductive Addressing where
  | unit | strided | indexed
  deriving DecidableEq, Repr

/-- The stored type under VMF: none for the packed encodings and EXFP8 (08 R194). -/
def storedType (enc : Nat) (fmt : ElemTy) : Option ElemTy :=
  if enc = 0x1F then some fmt else if enc ≤ 0x0F then some (elemOf enc) else none

/-- The element type and the record length of a packed MX encoding (03 R63, 08 R198). -/
def packedType (enc : Nat) : Option (ElemTy × Nat) :=
  match enc with
  | 0x11 => some (.e4m3, 33)
  | 0x12 => some (.e5m2, 33)
  | 0x13 => some (.e2m1, 17)
  | _ => none

/-- Whether a combination of VMF, VTYPE and addressing is a row of 08 R194 for loads and stores; queue tells VLDQ, scForm VLD.sc
and VST.sc, d the data group. -/
def vmfFits (h : Hart) (ad : Addressing) (scForm queue : Bool) (d : VReg) : Bool :=
  let fmt := vtFmt h.vtype
  let sc := vtSc h.vtype
  let enc := vmfEnc h.vmf
  let sm := vmfSmode h.vmf
  match storedType enc fmt, packedType enc with
  | some t, _ =>
    !(elemWidth t == 4 && ad != .unit) &&
    (if enc = 0x1F then sm == 0 else if sc then sm == 0 && enc == fmt.code else decide (sm ≤ 1))
  | none, some (t, _) =>
    sm == 2 && ad == .unit && !scForm &&
    (if sc then fmt == t && !queue && decide (d.toNat + vtG h.vtype ≤ 31) else TypeClass.float.has fmt)
  | none, none => false

/-- Whether VMF and VTYPE suit VLDZ and VSTZ (08 R194). -/
def exfp8Fits (h : Hart) : Bool :=
  vmfEnc h.vmf == 0x10 && vmfSmode h.vmf == 0 && !vtSc h.vtype && TypeClass.floatNarrow.has (vtFmt h.vtype)

/-- Whether VMF suits MDRAIN and MDRAINX (09 R221). -/
def drainFits (h : Hart) : Bool :=
  let enc := vmfEnc h.vmf
  (enc == 0x1F && vmfSmode h.vmf == 0) || (decide (enc ≤ 0x0D) && decide (vmfSmode h.vmf ≤ 1))

/-- Whether VTYPE suits the vector atomics (08 R206). -/
def amoFits (h : Hart) : Bool :=
  !vtSc h.vtype && (match vtFmt h.vtype with | .i32 | .n32 | .i64 | .n64 => true | _ => false)

/-- Whether the source group of VFCVT is one that the type allows (07 R176; log 50). -/
def cvtFits (h : Hart) (src : ElemTy) (b : Src) : Bool :=
  let ws := elemWidth src
  let wd := elemWidth (vtFmt h.vtype)
  let g := vtG h.vtype
  decide (g * ws ≤ 8 * wd) &&
  (match b with
   | .v r => g * ws ≤ wd || r.toNat % (g * ws / wd) == 0
   | .q _ => ws == wd
   | _ => true)

/-- Whether a VLDQ goes on in the tail entries it appended before a stop: at VES, or at its first element (08 R190, 15 R322;
log 52). -/
def resumesTail (h : Hart) (n : BitVec 2) : Bool :=
  h.vq.isEmpty && (h.ves != 0 || h.openTail == some (n, h.pc, h.ctxid)) && decide (vtG h.vtype ≤ queueCount h n.toNat)

/-- Whether a VLDQ may add its entries to a queue (01 R24, 11 R274). -/
def queueTakes (s : State) (n : BitVec 2) : Bool :=
  let g := vtG s.hart.vtype
  g != 8 && (resumesTail s.hart n || decide (queueCount s.hart n.toNat + g ≤ 4)) && (boundEngine s s.cur n.toNat).isNone

/-- Whether a queue operand finds its entries (01 R24); a bound queue is waited for (11 R274). -/
def queueGives (s : State) (n : BitVec 2) : Bool :=
  let g := vtG s.hart.vtype
  (g != 8 && decide (g ≤ queueCount s.hart n.toNat)) || (boundEngine s s.cur n.toNat).isSome

/-- The rules of step 6 that an instruction's entry adds to those of groups, classes and queue operands. -/
def ownRule (i : Instr) (s : State) : Bool :=
  let h := s.hart
  match i with
  | .vfcvt _ t b _ => cvtFits h t b
  | .vld d _ _ _ | .vst d _ _ _ => vmfFits h .unit false false d
  | .vldSc d _ _ _ | .vstSc d _ _ _ => vmfFits h .unit true false d
  | .vlds d _ _ _ | .vsts d _ _ _ | .vldsImmediate d _ _ _ | .vstsImmediate d _ _ _ => vmfFits h .strided false false d
  | .vldx d _ _ _ | .vstx d _ _ _ => vmfFits h .indexed false false d
  | .vldq n _ _ _ => vmfFits h .unit false true 0 && queueTakes s n
  | .vldqStrided n _ _ _ => vmfFits h .strided false true 0 && queueTakes s n
  | .vldqIndexed n _ _ _ => vmfFits h .indexed false true 0 && queueTakes s n
  | .vldz _ _ _ _ _ | .vstz _ _ _ _ _ => exfp8Fits h
  | .vamoadd _ _ _ _ | .vamoand _ _ _ _ | .vamoor _ _ _ _ | .vamoxor _ _ _ _ | .vamomin _ _ _ _ | .vamomax _ _ _ _
  | .vamoswp _ _ _ _ | .vpostadd _ _ _ | .vpostand _ _ _ | .vpostor _ _ _ | .vpostxor _ _ _ | .vpostmin _ _ _
  | .vpostmax _ _ _ | .vpostswp _ _ _ => amoFits h
  | .mma _ _ _ => !vtSc h.vtype ||
      (fld h.vsreg.toNat 0 5 % vtG h.vtype == 0 && fld h.vsreg.toNat 8 5 % vtG h.vtype == 0)
  | .mdrain _ _ _ _ _ _ | .mdrainx _ _ _ _ _ _ => drainFits h
  | .rldx _ _ _ _ _ | .rstx _ _ _ _ _ | .rapp _ _ _ _ _ => elemWidth (vtFmt h.vtype) != 4
  | .wdrive _ _ => ((upTo 0 4).all fun n => queueCount h n == 0) &&
      (match engineAt s s.cur.tile 0 with | some e => !(e.h1 == s.cur.h1 && e.ctx == h.ctxid) | none => true)
  | _ => true

/-- Step 6 of 05 R105: classes (07 R158), group bases (02 R37, 08 R187), queue operands (01 R24) and the entry's own rules. -/
def step6 (i : Instr) (f : VecForm) (s : State) : Bool :=
  let h := s.hart
  let g := vtG h.vtype
  let gi := g * 32 / elemWidth (vtFmt h.vtype)
  f.cls.has (vtFmt h.vtype) && (f.groups.all fun r => r.toNat % g == 0) &&
  (f.index.all fun r => decide (gi ≤ 1) || r.toNat % gi == 0) &&
  (match f.queue with | some n => queueGives s n | none => true) && ownRule i s

/-- An accumulator tile of a tile. -/
def accAt (s : State) (t : Nat) (c : Acc) : AccTile := (tileAt s t).acc.get ⟨c.toNat, c.isLt⟩

/-- An accumulator tile of a tile replaced. -/
def setAcc (s : State) (t : Nat) (c : Acc) (x : AccTile) : State :=
  Machine.modTile s t fun y => { y with acc := y.acc.set c.toNat x c.isLt }

/-- The operand formats of 09 R215. -/
def mcfgFits (t : ElemTy) (sc int32 : Bool) : Bool :=
  match t with
  | .i8 => !sc && int32
  | .bf16 | .fp16 => !sc && !int32
  | .e4m3 | .e5m2 | .e2m1 => !int32
  | _ => false

/-- The accumulators of a mask. -/
def accMask (m : BitVec 4) : List Acc := [0, 1, 2, 3].filter fun c : Acc => m.getLsbD c.toNat

/-- Whether a hart owns an accumulator tile (09 R212). -/
def ownsAcc (s : State) (c : Acc) : Bool := (accAt s s.cur.tile c).owner == some s.cur.h1

/-- Rows and columns that a drain or a load of an accumulator names (09 R220). -/
def rowsFit (s : State) (c : Acc) (row : BitVec 6) (rows : BitVec 7) : Bool :=
  let a := accAt s s.cur.tile c
  ownsAcc s c && decide (row.toNat + rows.toNat ≤ a.m.toNat) && decide (s.hart.vl.toNat ≤ a.n.toNat)

/-- Step 7 of 05 R105: accumulator ownership and shape (09 R217 to R220). -/
def step7 (i : Instr) (s : State) : Bool :=
  let h := s.hart
  match i with
  | .mcfg ts fmt sc int32 m n =>
    ts != 0 && m != 0 && decide (m.toNat ≤ 64) && n != 0 && decide (n.toNat ≤ 64) && mcfgFits fmt sc int32 &&
    !(h.prot && decide (32 < n.toNat)) &&
    (accMask ts).all fun c => (accAt s s.cur.tile c).owner != some (!s.cur.h1)
  | .mzero c | .mrel c => ownsAcc s c
  | .mma c _ _ =>
    let a := accAt s s.cur.tile c
    ownsAcc s c && a.fmt.toNat == (vtFmt h.vtype).code && a.sc == vtSc h.vtype && decide (h.vl.toNat ≤ 64) &&
    decide (a.m.toNat ≤ h.vlmax.toNat / 64) && decide (a.n.toNat ≤ h.vlmax.toNat / 64)
  | .mldacc c _ _ row rows => rowsFit s c row rows
  | .mdrain c _ _ row rows _ => rowsFit s c row rows
  | .mdrainx c _ _ row rows _ => rowsFit s c row rows
  | _ => true

/-- The trap that an instruction takes at issue, in the order of steps 4 to 7 of 05 R105; TVAL holds the encoding
(15 R311). -/
def vecTrap (i : Instr) (s : State) : Option TrapRec :=
  match vecForm i with
  | none => none
  | some f =>
    let h := s.hart
    if h.level = .u ∧ ¬(h.vownV = true ∧ h.vownId = h.ctxid) then some (trapOf 0x03 i.tval)
    else if (f.vtype && h.ill) || (f.vmf && !vmfKnown h.vmf) then some (trapOf 0x02 i.tval)
    else if f.vtype && !step6 i f s then some (trapOf 0x01 i.tval)
    else if !step7 i s then some (trapOf 0x11 i.tval)
    else none

end Sys2Proof.Machine
end

