-- ==== Sys2Proof/Machine/Names.lean ====
section
/-! DEFINITION. The registers that an instruction reads and writes, in words of 64 bits, as the storage codes of 19 R391 and the
fields of 19 R393 name them. -/

namespace Sys2Proof.Machine

/-- The elements of a group that an instruction touches (19 R392): the active ones below VL, from VES on where the instruction
honours it; those of an operand's rows below VL (09 R216); or those of a list. -/
inductive Reach where
  | active (k : KReg)
  | pending (k : KReg)
  | rows (n : Nat)
  | only (l : List Nat)
  deriving DecidableEq, Repr

/-- Elements of a vector register group that an instruction touches: the group's first register, the width of its elements, and
which of them. -/
structure VSpan where
  base : VReg
  w : Nat
  reach : Reach
  deriving DecidableEq, Repr

/-- Rows of an accumulator tile that an instruction touches, its columns, the mask of those below VL; none where every column
is. first is the first element counted from the first row (09 R220). -/
structure AccSpan where
  acc : Acc
  row : Nat
  rows : Nat
  cols : Nat
  mask : Option KReg
  first : Nat
  deriving DecidableEq, Repr

/-- The registers that an instruction reads, or writes: general registers, vector groups, mask registers with the mask under
which a bit below VL is touched (0: every one), the queue whose entries it consumes with the mask of their elements,
accumulator tiles. -/
structure Names where
  g : List GReg := []
  v : List VSpan := []
  k : List (KReg × KReg) := []
  q : Option (BitVec 2 × Reach) := none
  acc : List AccSpan := []
  deriving DecidableEq, Repr

/-- The mask register of a k field, which is read where the field is not 0 (02 R37). -/
def maskName (k : KReg) : List (KReg × KReg) := if k = 0 then [] else [(k, 0)]

/-- The general register of operand b. -/
def srcG : Src → List GReg
  | .g r => [r]
  | _ => []

/-- The general registers of an address operand b (08 R206). -/
def addrG : VAddr → List GReg
  | .strided r => [r]
  | _ => []

/-- An element-wise instruction's sources: groups of elements of w bits, operand b, the mask. -/
def elemNames (w : Nat) (groups : List VReg) (b : Src) (k : KReg) : Names :=
  { g := srcG b, v := (groups ++ srcGroups b).map fun r => { base := r, w := w, reach := .active k }, k := maskName k,
    q := (srcQueue b).map fun n => (n, .active k) }

/-- Sources of which an instruction reads listed elements: l of the group a, m of operand b (07 R178 to R183; log 69). -/
def listNames (w : Nat) (a : List VReg) (l : List Nat) (b : Src) (m : List Nat) (k : KReg) : Names :=
  { g := srcG b, k := maskName k, q := (srcQueue b).map fun n => (n, .only m),
    v := (a.map fun r => { base := r, w := w, reach := .only l }) ++
      (srcGroups b).map fun r => { base := r, w := w, reach := .only m } }

/-- The elements of operand a that VPERM reads: those that its active index elements name below VLMAX (07 R179; log 69). -/
def permReads (h : Hart) (b : Src) (k : KReg) : List Nat :=
  let w := elemWidth (vtFmt h.vtype)
  let qv := match srcQueue b with | some n => (h.queue n).take (vtG h.vtype) | none => []
  ((h.active k 0).map fun i => h.srcElem b qv (vtFmt h.vtype) w h.perReg i).filter fun i => decide (i < h.vlmax.toNat)

/-- An index or an offset from a g register, or from an immediate (07, Permutes). -/
def offsetOf (h : Hart) : Src → Nat
  | .g r => (h.rg r).toNat
  | .imm c => c.toNat
  | _ => 0

/-- Sources of a vector access to memory: its base and stride registers, its data groups, its index groups, its mask. -/
def memNames (w : Nat) (g : List GReg) (data index : List VReg) (k : KReg) : Names :=
  { g := g, k := maskName k,
    v := (data.map fun r => { base := r, w := w, reach := .pending k }) ++
      index.map fun r => { base := r, w := 32, reach := .pending k } }

/-- The index group of an address operand b. -/
def addrIndex : VAddr → List VReg
  | .indexed v => [v]
  | _ => []

/-- Fields of a block's ROUTE as 12 R285 places them: the group or register, and the accumulator. -/
def routeReg (hdr : BitVec 512) : BitVec 5 := BitVec.ofNat 5 (fld hdr.toNat 196 5)
def routeAcc (hdr : BitVec 512) : Acc := BitVec.ofNat 2 (fld hdr.toNat 196 2)

/-- Whether a block acts on a vector group of its own hart (KIND 2, 12 R285). -/
def onGroup (hdr : BitVec 512) : Bool := fld hdr.toNat 192 4 == 2

/-- The scales of n rows that MMA reads in the register named at a bit of VSREG, for a scaled type (02 R48, 09 R216). -/
def scaleSpan (h : Hart) (b n : Nat) : List VSpan :=
  if vtSc h.vtype then
    [{ base := BitVec.ofNat 5 (fld h.vsreg.toNat b 5), w := 8,
       reach := .only ((upTo 0 n).flatMap fun r => (upTo 0 ((h.vl.toNat + 31) / 32)).map fun b => 2 * r + b) }]
  else []

/-- An accumulator tile as MMA reads it, every row and column of its shape (09 R219). -/
def wholeAcc (acc : Vector AccTile 4) (c : Acc) : AccSpan :=
  let a := acc.get ⟨c.toNat, c.isLt⟩
  { acc := c, row := 0, rows := a.m.toNat, cols := a.n.toNat, mask := none, first := 0 }

/-- The registers whose values an instruction reads, by the type of its hart and the configuration of its accumulators
(log 69). -/
def sources (acc : Vector AccTile 4) (h : Hart) (i : Instr) : Names :=
  let w := elemWidth (vtFmt h.vtype)
  match i with
  | .add _ a b | .sub _ a b | .and _ a b | .or _ a b | .xor _ a b | .sll _ a b | .srl _ a b | .sra _ a b | .slt _ a b
  | .sltn _ a b | .min _ a b | .max _ a b | .minn _ a b | .maxn _ a b | .mul _ a b | .mulh _ a b | .mulhn _ a b
  | .div _ a b | .divn _ a b | .rem _ a b | .remn _ a b | .fadd _ a b _ | .fsub _ a b _ | .fmul _ a b _ | .fdiv _ a b _
  | .fmin _ a b _ | .fmax _ a b _ | .fcmp _ a b _ _ | .beq a b _ | .bne a b _ | .blt a b _ | .bge a b _ | .bltn a b _
  | .bgen a b _ | .fpush a b | .setvl _ a b | .tlbinv a b | .cinv a b => { g := [a, b] }
  | .clz _ a | .ctz _ a | .popc _ a | .brev _ a | .addi _ a _ | .andi _ a _ | .ori _ a _ | .xori _ a _ | .slti _ a _
  | .sltni _ a _ | .slli _ a _ | .srli _ a _ | .srai _ a _ | .ldb _ a _ | .ldh _ a _ | .ldw _ a _ | .ldd _ a _
  | .ldbN _ a _ | .ldhN _ a _ | .ldwN _ a _ | .ldaq _ a _ _ _ | .jalr _ a _ | .fsqrt _ a _ | .fcvtToFloat _ a _ _
  | .fcvtToInteger _ a _ _ | .fclass _ a _ | .crw _ a _ | .crs _ a _ | .crc _ a _ | .setvli _ a _ _ _ | .lpreq _ a
  | .barrive a | .bwait _ a | .launch _ a _ | .crec _ a | .fswap a | .fdrain a | .fpop _ a | .fload a _ | .sopen _ a _ _ _
  | .wdrive a _ => { g := [a] }
  | .limmH d _ => { g := [d] }
  | .stb d a _ | .sth d a _ | .stw d a _ | .std d a _ | .strel d a _ _ => { g := [d, a] }
  | .amoadd d a b _ _ _ | .amoand d a b _ _ _ | .amoor d a b _ _ _ | .amoxor d a b _ _ _ | .amomin d a b _ _ _ _
  | .amomax d a b _ _ _ _ | .amoswp d a b _ _ _ | .amocas d a b _ _ _ => { g := [d, a, b] }
  | .fma _ a b c _ => { g := [a, b, c] }
  | .vadd _ a b k | .vsub _ a b k | .vmul _ a b k | .vmulh _ a b k | .vand _ a b k | .vor _ a b k | .vxor _ a b k
  | .vsll _ a b k | .vsrl _ a b k | .vsra _ a b k | .vmin _ a b k | .vmax _ a b k | .vminn _ a b k | .vmaxn _ a b k
  | .vsadd _ a b k | .vssub _ a b k | .vcmpEq _ a b k | .vcmpNe _ a b k | .vcmpLt _ a b k | .vcmpGe _ a b k
  | .vcmpLtn _ a b k | .vcmpGen _ a b k | .vfadd _ a b k | .vfsub _ a b k | .vfmul _ a b k | .vfdiv _ a b k
  | .vfmin _ a b k | .vfmax _ a b k | .vfcmpEq _ a b k | .vfcmpNe _ a b k | .vfcmpLt _ a b k | .vfcmpLe _ a b k =>
    elemNames w [a] b k
  | .vmadd d a b k | .vfma d a b k | .vfnma d a b k => elemNames w [d, a] b k
  | .vmerge _ a b k => { elemNames w [a] b 0 with k := [(k, 0)] }
  | .vmv _ b k | .vfsqrt _ b k | .vfexp2 _ b k | .vfrcp _ b k | .vfrsq _ b k => elemNames w [] b k
  | .vfcvt _ t b k => elemNames (elemWidth t) [] b k
  | .kand _ a b | .kor _ a b | .kxor _ a b | .kpopc _ a b | .kfirst _ a b => { k := [(a, 0), (b, 0)] }
  | .knot _ b | .kmov _ b => { k := [(b, 0)] }
  | .vredsum _ a b k | .vredmax _ a b k | .vredmin _ a b k | .vfredsum _ a b k | .vfredo _ a b k =>
    { elemNames w [] b k with g := a :: srcG b }
  | .vslideup _ a b k =>
    let o := offsetOf h b
    listNames w [a] (((h.active k 0).filter fun i => decide (o ≤ i)).map fun i => i - o) b [] k
  | .vslidedn _ a b k =>
    let o := offsetOf h b
    listNames w [a] (((h.active k 0).map fun i => i + o).filter fun i => decide (i < h.vlmax.toNat)) b [] k
  | .vperm _ a b k => listNames w [a] (permReads h b k) b (h.active k 0) k
  | .vcompress _ b k => listNames w [] [] b (h.active k 0) k
  | .vexpand _ b k => listNames w [] [] b (upTo 0 (h.active k 0).length) k
  | .vbcast _ b k => listNames w [] [] b (if (h.active k 0).isEmpty then [] else [0]) k
  | .viota _ b k => { k := (b, 0) :: maskName k }
  | .vextr _ a b => listNames w [a] ([offsetOf h b].filter fun i => decide (i < h.vlmax.toNat)) b [] 0
  | .vins _ a b k => { listNames w [] [] b [] k with g := a :: srcG b }
  | .vld _ a _ k | .vldSc _ a _ k | .vldsImmediate _ a k _ | .vldq _ a _ k => memNames w [a] [] [] k
  | .vlds _ a b k | .vldqStrided _ a b k => memNames w [a, b] [] [] k
  | .vldx _ a b k | .vldqIndexed _ a b k => memNames w [a] [] [b] k
  | .vst d a _ k =>
    let n := memNames w [a] [d] [] k
    if vtSc h.vtype && (packedType (vmfEnc h.vmf)).isSome then
      { n with v := n.v ++ [{ base := regPlus d (vtG h.vtype), w := 8,
                              reach := .only ((h.active k h.ves.toNat).map fun i => i / 32) }] }
    else n
  | .vstSc d a _ k | .vstsImmediate d a k _ => memNames w [a] [d] [] k
  | .vsts d a b k => memNames w [a, b] [d] [] k
  | .vstx d a b k => memNames w [a] [d] [b] k
  | .vamoadd d a b k | .vamoand d a b k | .vamoor d a b k | .vamoxor d a b k | .vamomin d a b k | .vamomax d a b k
  | .vamoswp d a b k => memNames w (a :: addrG b) [d] (addrIndex b) k
  | .vpostadd a b k | .vpostand a b k | .vpostor a b k | .vpostxor a b k | .vpostmin a b k | .vpostmax a b k
  | .vpostswp a b k => memNames w (a :: addrG b) [0] (addrIndex b) k
  | .vcapp a k => memNames w [a] [] [] k
  | .vldz _ a p k _ => memNames w [a, p] [] [] k
  | .vstz d a p k _ => memNames w [a, p] [d] [] k
  | .vcopy d a k => memNames w [d, a] [] [] k
  | .vfill d p k => memNames w [d, p] [] [] k
  | .mma c a b =>
    if h.vl = 0 then {} else
    let t := wholeAcc acc c
    { v := [{ base := a, w := w, reach := .rows t.rows }, { base := b, w := w, reach := .rows t.cols }] ++
        scaleSpan h 0 t.rows ++ scaleSpan h 8 t.cols, acc := [t] }
  | .mdrain c a p row rows k =>
    { g := [a, p], k := maskName k, acc := [{ acc := c, row := row.toNat, rows := rows.toNat, cols := 64, mask := some k, first := h.ves.toNat }] }
  | .mdrainx c a p row rows k =>
    { g := [a], k := maskName k,
      v := [{ base := p, w := 32, reach := .only (upTo (h.ves.toNat / 64) (rows.toNat - h.ves.toNat / 64)) }],
      acc := [{ acc := c, row := row.toNat, rows := rows.toNat, cols := 64, mask := some k, first := h.ves.toNat }] }
  | .mldacc _ a p _ _ => { g := [a, p] }
  | .rld _ a p _ _ _ => { g := [a, p] }
  | .rst c a p _ _ _ => { g := [c, a, p] }
  | .ramoadd _ c a p _ _ _ | .ramoand _ c a p _ _ _ | .ramoor _ c a p _ _ _ | .ramoxor _ c a p _ _ _
  | .ramomin _ c a p _ _ _ | .ramomax _ c a p _ _ _ | .ramoswp _ c a p _ _ _ => { g := [c, a, p] }
  | .ramocas d c a p _ _ _ => { g := [d, c, a, p] }
  | .rldx _ a p k _ => memNames w [] [] [a, p] k
  | .rstx d a p k _ => memNames w [] [d] [a, p] k
  | .rapp d a p k _ => memNames w [a] [d] [p] k
  | .wbAdd hdr | .wbScale hdr | .wbAct hdr =>
    if onGroup hdr then { v := [{ base := routeReg hdr, w := w, reach := .active 0 }] } else {}
  | .wbMma hdr =>
    if h.vl = 0 then {} else
    let t := wholeAcc acc (routeAcc hdr)
    { v := [{ base := 0, w := w, reach := .rows t.rows }] ++ scaleSpan h 0 t.rows, acc := [t] }
  | .wbDrain hdr =>
    { acc := [{ wholeAcc acc (routeAcc hdr) with mask := some 0, first := h.wbesIdx.toNat }] }
  | .wbBranch hdr => { g := [routeReg hdr] }
  | _ => {}

/-- The registers that an instruction writes when it completes (log 69). -/
def targets (h : Hart) (i : Instr) : Names :=
  let w := elemWidth (vtFmt h.vtype)
  let group (d : VReg) (k : KReg) : Names := { v := [{ base := d, w := w, reach := .active k }] }
  let tile (c : Acc) : AccSpan := { acc := c, row := 0, rows := 64, cols := 64, mask := none, first := 0 }
  match i with
  | .add d _ _ | .sub d _ _ | .and d _ _ | .or d _ _ | .xor d _ _ | .sll d _ _ | .srl d _ _ | .sra d _ _ | .slt d _ _
  | .sltn d _ _ | .min d _ _ | .max d _ _ | .minn d _ _ | .maxn d _ _ | .mul d _ _ | .mulh d _ _ | .mulhn d _ _
  | .div d _ _ | .divn d _ _ | .rem d _ _ | .remn d _ _ | .fadd d _ _ _ | .fsub d _ _ _ | .fmul d _ _ _ | .fdiv d _ _ _
  | .fmin d _ _ _ | .fmax d _ _ _ | .fcmp d _ _ _ _ | .clz d _ | .ctz d _ | .popc d _ | .brev d _ | .addi d _ _
  | .andi d _ _ | .ori d _ _ | .xori d _ _ | .slti d _ _ | .sltni d _ _ | .slli d _ _ | .srli d _ _ | .srai d _ _
  | .lui d _ | .auipc d _ | .limm d _ | .limmH d _ | .ldb d _ _ | .ldh d _ _ | .ldw d _ _ | .ldd d _ _ | .ldbN d _ _
  | .ldhN d _ _ | .ldwN d _ _ | .ldaq d _ _ _ _ | .jal d _ | .jalr d _ _ | .fsqrt d _ _ | .fcvtToFloat d _ _ _
  | .fcvtToInteger d _ _ _ | .fclass d _ _ | .fma d _ _ _ _ | .crr d _ | .crw d _ _ | .crs d _ _ | .crc d _ _
  | .amoadd d _ _ _ _ _ | .amoand d _ _ _ _ _ | .amoor d _ _ _ _ _ | .amoxor d _ _ _ _ _ | .amomin d _ _ _ _ _ _
  | .amomax d _ _ _ _ _ _ | .amoswp d _ _ _ _ _ | .amocas d _ _ _ _ _ | .setvl d _ _ | .setvli d _ _ _ _ | .lpreq d _
  | .kpopc d _ _ | .kfirst d _ _ | .vredsum d _ _ _ | .vredmax d _ _ _ | .vredmin d _ _ _ | .vfredsum d _ _ _
  | .vfredo d _ _ _ | .vextr d _ _ | .bwait d _ | .launch d _ _ | .crec d _ | .fstat d | .fpop d _ | .sopen d _ _ _ _
  | .sbind d _ _ | .sclose d _ | .sstat d _ => { g := [d] }
  | .rld d _ _ _ s _ | .ramoadd d _ _ _ _ s _ | .ramoand d _ _ _ _ s _ | .ramoor d _ _ _ _ s _ | .ramoxor d _ _ _ _ s _
  | .ramomin d _ _ _ _ s _ | .ramomax d _ _ _ _ s _ | .ramoswp d _ _ _ _ s _ | .ramocas d _ _ _ _ s _ => { g := d :: s.toList }
  | .rst _ _ _ _ s _ => { g := s.toList }
  | .nexts => { g := [1, 2] }
  | .vadd d _ _ k | .vsub d _ _ k | .vmul d _ _ k | .vmulh d _ _ k | .vmadd d _ _ k | .vand d _ _ k | .vor d _ _ k
  | .vxor d _ _ k | .vsll d _ _ k | .vsrl d _ _ k | .vsra d _ _ k | .vmin d _ _ k | .vmax d _ _ k | .vminn d _ _ k
  | .vmaxn d _ _ k | .vsadd d _ _ k | .vssub d _ _ k | .vfadd d _ _ k | .vfsub d _ _ k | .vfmul d _ _ k | .vfdiv d _ _ k
  | .vfmin d _ _ k | .vfmax d _ _ k | .vfma d _ _ k | .vfnma d _ _ k | .vslidedn d _ _ k | .vperm d _ _ k => group d k
  | .vmerge d _ _ _ => group d 0
  | .vmv d _ k | .vfsqrt d _ k | .vfexp2 d _ k | .vfrcp d _ k | .vfrsq d _ k | .viota d _ k | .vbcast d _ k => group d k
  | .vfcvt d _ _ k | .vld d _ _ k | .vldSc d _ _ k | .vlds d _ _ k | .vldx d _ _ k | .vamoadd d _ _ k | .vamoand d _ _ k
  | .vamoor d _ _ k | .vamoxor d _ _ k | .vamomin d _ _ k | .vamomax d _ _ k | .vamoswp d _ _ k => group d k
  | .vldsImmediate d _ k _ => group d k
  | .vldz d _ p k _ => { group d k with g := [p] }
  | .vstz _ _ p _ _ => { g := [p] }
  | .vcmpEq d _ _ k | .vcmpNe d _ _ k | .vcmpLt d _ _ k | .vcmpGe d _ _ k | .vcmpLtn d _ _ k | .vcmpGen d _ _ k
  | .vfcmpEq d _ _ k | .vfcmpNe d _ _ k | .vfcmpLt d _ _ k | .vfcmpLe d _ _ k => { k := [(d, k)] }
  | .kand d _ _ | .kor d _ _ | .kxor d _ _ | .knot d _ | .kmov d _ => { k := [(d, 0)] }
  | .mcfg m _ _ _ _ _ => { acc := (accMask m).map tile }
  | .mzero c | .mrel c => { acc := [tile c] }
  | .mldacc c _ _ row rows => { acc := [{ tile c with row := row.toNat, rows := rows.toNat, mask := some 0 }] }
  | _ => {}

/-- Whether an element is one that an instruction touches. -/
def Hart.inSpan (h : Hart) (r : Reach) (i : Nat) : Bool :=
  match r with
  | .active k => decide (i < h.vl.toNat) && h.maskOn k i
  | .pending k => decide (h.ves.toNat ≤ i) && decide (i < h.vl.toNat) && h.maskOn k i
  | .rows n => decide (i / 64 < n) && decide (i % 64 < h.vl.toNat)
  | .only l => l.contains i

/-- The elements of a vector span that lie in a word of a register; of a word of its validity field, those of its blocks
(02 R36, R38). -/
def Hart.spanElems (h : Hart) (p : VSpan) (x : StoreWord) : List Nat :=
  let per := h.perReg * elemWidth (vtFmt h.vtype) / p.w
  let o := (x.num.toNat + 32 - p.base.toNat) % 32
  let cut (first n : Nat) : List Nat := (upTo (o * per + first) n).filter fun i => decide (i < (o + 1) * per)
  if x.word < 256 then cut (64 * x.word / p.w) (max 1 (64 / p.w)) else cut (2048 * (x.word - 256)) 2048

/-- The elements of an accumulator span that lie in a word: two of 32 bits (09 R212). -/
def Hart.accElems (h : Hart) (p : AccSpan) (x : StoreWord) : List Nat :=
  [2 * x.word, 2 * x.word + 1].filter fun e =>
    decide (p.row ≤ e / 64) && decide (e / 64 < p.row + p.rows) && decide (e % 64 < p.cols) &&
    decide (p.first + 64 * p.row ≤ e) &&
    (match p.mask with | some k => decide (e % 64 < h.vl.toNat) && h.maskOn k (e % 64) | none => true)

/-- The element at which an instruction whose sources are given reads a bad word; none where it does not read it (19 R392):
0 for a general register (log 69). -/
def Hart.consumes (h : Hart) (n : Names) (x : StoreWord) : Option Nat :=
  match x.kind.toNat with
  | 1 => if n.g.any fun r => r != 0 && !h.shadowed r && r.toNat == x.num.toNat then some 0 else none
  | 2 => n.v.findSome? fun p => (h.spanElems p x).find? fun i => h.inSpan p.reach i
  | 3 => n.k.findSome? fun p =>
      if p.1.toNat == x.num.toNat then (upTo (64 * x.word) 64).find? fun i => h.inSpan (.active p.2) i else none
  | 4 => n.q.bind fun p =>
      let w := elemWidth (vtFmt h.vtype)
      let entry := x.word / 256
      if p.1.toNat == x.num.toNat && decide (entry < vtG h.vtype) then
        (upTo (entry * h.perReg + 64 * (x.word % 256) / w) (max 1 (64 / w))).find? fun i => h.inSpan p.2 i
      else none
  | 5 => n.acc.findSome? fun p => if p.acc.toNat == x.num.toNat then (h.accElems p x).head?.map (· - 64 * p.row) else none
  | _ => none

/-- Whether an instruction whose targets are given writes the whole of a word, so that its code is good again (19 R391; log
69). -/
def Hart.rewrites (h : Hart) (n : Names) (x : StoreWord) : Bool :=
  match x.kind.toNat with
  | 1 => n.g.any fun r => !h.shadowed r && r.toNat == x.num.toNat
  | 2 => n.v.any fun p =>
      let l := h.spanElems p x
      !l.isEmpty && l.all fun i => h.inSpan p.reach i
  | 3 => n.k.any fun p => p.1.toNat == x.num.toNat && (upTo (64 * x.word) 64).all fun i => h.inSpan (.active p.2) i
  | 5 => n.acc.any fun p => p.acc.toNat == x.num.toNat && decide ((h.accElems p x).length = 2)
  | _ => false

end Sys2Proof.Machine
end

