-- ==== Sys2Proof/Machine/VecOps.lean ====
section
/-! DEFINITION. The element operations of vector instructions: integer arithmetic (07 R170), conversion (07 R176), the
approximate functions (07 R175), element-wise loops with masks, validity and flags (07 R161, R162). -/

namespace Sys2Proof.Machine

/-- An element read by the signedness of its type (03 R53). -/
def elemInt (t : ElemTy) (x : Nat) : Int := intOf (elemSigned t) (elemWidth t) x

/-- An integer clamped to the range of a type (03 R53). -/
def clampTo (t : ElemTy) (x : Int) : Nat :=
  let w := elemWidth t
  let hi : Int := if elemSigned t then (2 ^ (w - 1) : Nat) - 1 else (2 ^ w : Nat) - 1
  let lo : Int := if elemSigned t then -((2 ^ (w - 1) : Nat) : Int) else 0
  wrap w (if hi < x then hi else if x < lo then lo else x)

/-- The shift amount of an element: its low log2(w) bits (07 R170). -/
def elemShift (t : ElemTy) (y : Nat) : Nat := y % elemWidth t

/-- A conversion of one element between element types (07 R176). -/
def convElem (mode : Mode) (src dst : ElemTy) (x : Nat) : FOut :=
  match elemForm src, elemForm dst with
  | some f, some g =>
    if src = dst then
      match f.decode x with
      | .nan s => f.nanOut (nvIf s)
      | _ => { bits := x, flags := 0 }
    else g.convert mode (f.decode x)
  | none, some g => g.ofInt mode (elemInt src x)
  | some f, none => toIntSat mode (elemSigned dst) (elemWidth dst) (f.decode x)
  | none, none => { bits := wrap (elemWidth dst) (elemInt src x), flags := 0 }

/-- An exact magnitude rounded for an approximate function: to a neighbour for FP32 and FP64, correctly for the other formats;
an overflow gives an infinity (07 R175; log 11). fn names the function, arg the operand's bits. -/
def FForm.approx (f : FForm) (mode : Mode) (fn arg : Nat) (neg : Bool) (m : Nat) (e : Int) (sticky : Bool) : FOut :=
  if f.fbits < 23 then
    let r := f.round mode neg m e sticky
    if r.flags &&& flagOF ≠ 0 then f.infOut neg (flagOF ||| flagNX) else r
  else
    let r := f.round .rtz neg m e sticky
    if r.flags &&& flagOF ≠ 0 then f.infOut neg (flagOF ||| flagNX)
    else if r.flags &&& flagNX = 0 then r
    else
      let x := if Config.farNeighbour (100 * fn + f.width) arg then r.bits + 1 else r.bits
      let ex := fld x f.fbits f.ebits
      { bits := x, flags := flagNX ||| (if ex = 0 then flagUF else 0) ||| (if ex = 2 ^ f.ebits - 1 then flagOF else 0) }

/-- ln 2 in units of 2^−200, rounded down. -/
def ln2 : Nat := 0xb17217f7d1cf79abc9e3b39803f2f6af40f343267298b62d8a

/-- The sum of a Taylor series in units of 2^−200: term number n and those after it. -/
def expSum (x : Nat) : Nat → Nat → Nat → Nat
  | 0, _, _ => 0
  | k + 1, n, term => term + expSum x k (n + 1) (term * x / 2 ^ 200 / (n + 1))

/-- 2^y for y = fr in units of 2^−200 below 1, rounded down to a unit. -/
def exp2Frac (fr : Nat) : Nat := expSum (fr * ln2 / 2 ^ 200) 64 0 (2 ^ 200)

/-- 2^y (07 R175). A result that is not a power of two is irrational (log 11). -/
def FForm.exp2V (f : FForm) (mode : Mode) (x : Nat) : FOut :=
  match f.decode x with
  | .nan s => f.nanOut (nvIf s)
  | .inf neg => if neg then { bits := 0, flags := 0 } else f.infOut false 0
  | .fin neg m e =>
    if m = 0 then f.approx mode 1 x false 1 0 false
    else if 13 ≤ e + Nat.log2 m then
      if neg then f.approx mode 1 x false 0 (-16384) true else f.approx mode 1 x false 1 16384 false
    else
      let y := signed neg m
      if 0 ≤ e then f.approx mode 1 x false 1 (y * 2 ^ e.toNat) false
      else
        let k := (-e).toNat
        let i := y / (2 ^ k : Nat)
        let r := (y % (2 ^ k : Nat)).toNat
        if r = 0 then f.approx mode 1 x false 1 i false
        else
          let fr := if k ≤ 200 then r * 2 ^ (200 - k) else r / 2 ^ (k - 200)
          f.approx mode 1 x false (exp2Frac fr) (i - 200) true

/-- 1 ÷ y (07 R175; log 11). -/
def FForm.rcpV (f : FForm) (mode : Mode) (x : Nat) : FOut :=
  match f.decode x with
  | .nan s => f.nanOut (nvIf s)
  | .inf neg => { bits := f.sign neg, flags := 0 }
  | .fin neg m e =>
    if m = 0 then f.infOut neg flagDZ
    else
      let k := f.fbits + 4 + bitLen m
      f.approx mode 2 x neg (2 ^ k / m) (-e - k) (2 ^ k % m != 0)

/-- 1 ÷ √y (07 R175; log 11). -/
def FForm.rsqV (f : FForm) (mode : Mode) (x : Nat) : FOut :=
  match f.decode x with
  | .nan s => f.nanOut (nvIf s)
  | .inf neg => if neg then f.nanOut flagNV else { bits := 0, flags := 0 }
  | .fin neg m e =>
    if m = 0 then f.infOut neg flagDZ
    else if neg then f.nanOut flagNV
    else
      let (m, e) := if e % 2 = 0 then (m, e) else (2 * m, e - 1)
      let k := f.fbits + 4 + bitLen m
      let r := isqrt (2 ^ (2 * k) / m) (k + 1) 0
      f.approx mode 3 x false r (-(e / 2) - k) (r * r * m != 2 ^ (2 * k))

/-- How an element-wise instruction treats its sources under VTYPE.SC = 1: it computes, or it moves codes (07 R162). -/
inductive EKind where
  | compute | move
  deriving DecidableEq, Repr

/-- Whether a code is a NaN of a type. -/
def nanCode (t : ElemTy) (x : Nat) : Bool := match elemForm t with | some f => (f.decode x).isNan | none => false

/-- One element of an element-wise instruction under 07 R162: the operands with their validity, and which codes are NaNs; an
invalid operand of a computing instruction is consumed as zero with VINV, and no other flag follows from that zero. Beside VINV an
invalid addend leaves the flags of the product, and any other only what a NaN among the other operands raises (03 R64; log 55). -/
def elemResult (sc : Bool) (kind : EKind) (nan : Nat → Bool) (i : Nat) (x y o : Nat × Bool) (op : Nat → Nat → Nat → FOut) : VWrite :=
  let ok := !sc || (x.2 && y.2 && o.2)
  if ok || kind == .move then
    let r := op x.1 y.1 o.1
    { i := i, x := r.bits, ok := ok, fl := r.flags }
  else
    let z (p : Nat × Bool) : Nat := if p.2 then p.1 else 0
    let n (p : Nat × Bool) : Nat := if p.2 && nan p.1 then p.1 else 0
    let r := op (z x) (z y) (z o)
    let fl := if x.2 && y.2 then r.flags
      else if nan (n x) || nan (n y) || nan (n o) then (op (n x) (n y) (n o)).flags else 0
    { i := i, x := r.bits, ok := false, fl := fl ||| flagVINV }

/-- The loop of 07 R161: a names operand a where there is one, old tells that the destination is a source. -/
def elementwise (kind : EKind) (old : Bool) (d : VReg) (a : Option VReg) (b : Src) (k : KReg)
    (op : Shape → Nat → Nat → Nat → FOut) (h : Hart) (qv : List VWord) : Hart :=
  let sh := h.shape
  let ws := (h.active k 0).map fun i =>
    let x := match a with | some r => (h.elem r sh.w sh.e i, h.valid r sh.e i) | none => (0, true)
    let y := (h.srcElem b qv sh.fmt sh.w sh.e i, h.srcValid b sh.e i)
    let o := if old then (h.elem d sh.w sh.e i, h.valid d sh.e i) else (0, true)
    elemResult sh.sc kind (nanCode sh.fmt) i x y o (op sh)
  (h.writeElems d sh.w sh.e ws).raise (flagsOf ws)

/-- An integer instruction (07 R170): it sets no flag. -/
def intOp (d a : VReg) (b : Src) (k : KReg) (op : ElemTy → Nat → Nat → Nat) : Hart → List VWord → Hart :=
  elementwise .compute false d (some a) b k fun sh x y _ => { bits := op sh.fmt x y % 2 ^ sh.w, flags := 0 }

/-- A bitwise instruction (07 R170): codes are combined as bits under every type. -/
def bitOp (d a : VReg) (b : Src) (k : KReg) (op : Nat → Nat → Nat) : Hart → List VWord → Hart :=
  elementwise .move false d (some a) b k fun _ x y _ => { bits := op x y, flags := 0 }

/-- The format of a float or narrow type. -/
def formOf (t : ElemTy) : FForm := (elemForm t).getD fp32Form

/-- A two-operand floating-point instruction (07 R174). -/
def fpOp (d a : VReg) (b : Src) (k : KReg) (op : FForm → Mode → Nat → Nat → FOut) : Hart → List VWord → Hart :=
  elementwise .compute false d (some a) b k fun sh x y _ => op (formOf sh.fmt) sh.mode x y

/-- A one-operand floating-point instruction (07 R174, R175). -/
def fpOne (d : VReg) (b : Src) (k : KReg) (op : FForm → Mode → Nat → FOut) : Hart → List VWord → Hart :=
  elementwise .compute false d none b k fun sh _ y _ => op (formOf sh.fmt) sh.mode y

/-- VFMA and VFNMA (07 R174). -/
def fmaOp (neg : Bool) (d a : VReg) (b : Src) (k : KReg) : Hart → List VWord → Hart :=
  elementwise .compute true d (some a) b k fun sh x y o =>
    let f := formOf sh.fmt
    let p := f.decode x
    f.fmaV sh.mode (if neg then p.neg else p) (f.decode y) (f.decode o)

/-- A compare into a mask register (07 R171). -/
def compareOp (d : KReg) (a : VReg) (b : Src) (k : KReg) (op : ElemTy → Nat → Nat → Bool × BitVec 6) (h : Hart)
    (qv : List VWord) : Hart :=
  let sh := h.shape
  let rs := (h.active k 0).map fun i =>
    elemResult sh.sc .compute (nanCode sh.fmt) i (h.elem a sh.w sh.e i, h.valid a sh.e i)
      (h.srcElem b qv sh.fmt sh.w sh.e i, h.srcValid b sh.e i) (0, true) fun x y _ =>
        let r := op sh.fmt x y
        { bits := bit r.1, flags := r.2 }
  (h.writeMask d (rs.map fun r => (r.i, r.x == 1))).raise (flagsOf rs)

/-- A floating-point compare (07 R171). -/
def fcompareOp (rel : FRel) (d : KReg) (a : VReg) (b : Src) (k : KReg) : Hart → List VWord → Hart :=
  compareOp d a b k fun t x y => fRel rel ((formOf t).decode x) ((formOf t).decode y)

/-- Codes written without computing (07 R162): index, code and validity of the sources. -/
def placeElems (d : VReg) (l : List (Nat × Nat × Bool)) (h : Hart) : Hart :=
  let sh := h.shape
  h.writeElems d sh.w sh.e (l.map fun x => { i := x.1, x := x.2.1, ok := !sh.sc || x.2.2, fl := 0 })

/-- Operand b at an element with the validity of its block. -/
def Hart.srcAt (h : Hart) (b : Src) (qv : List VWord) (i : Nat) : Nat × Bool :=
  (h.srcElem b qv h.shape.fmt h.shape.w h.shape.e i, h.srcValid b h.shape.e i)

/-- An element of a group with the validity of its block. -/
def Hart.elemAt (h : Hart) (r : VReg) (i : Nat) : Nat × Bool := (h.elem r h.shape.w h.shape.e i, h.valid r h.shape.e i)

/-- VFCVT (07 R176): under SC = 1 the validity bits of every source are consulted, also of one that is not narrow (log 50).
Source elements lie in a group of G × ws ÷ wd registers, or in one register. -/
def cvtOp (d : VReg) (src : ElemTy) (b : Src) (k : KReg) (h : Hart) (qv : List VWord) : Hart :=
  let sh := h.shape
  let ws := elemWidth src
  let gs := sh.g * ws / sh.w
  let es := if gs ≤ 1 then sh.vlmax else sh.vlmax / gs
  let l := (h.active k 0).map fun i =>
    elemResult sh.sc .compute (nanCode src) i (0, true) (h.srcElem b qv src ws es i, h.srcValid b es i) (0, true)
      fun _ y _ => convElem sh.mode src sh.fmt y
  (h.writeElems d sh.w sh.e l).raise (flagsOf l)

/-- A mask instruction on bits 0 to VL − 1 (07 R177). -/
def maskOp (d : KReg) (f : KWord → KWord) (h : Hart) : Hart :=
  if h.vl = 0 then h else
  let m : KWord := BitVec.allOnes 4096 >>> (4096 - h.vl.toNat)
  { h with k := h.k.set d.toNat ((f m &&& m) ||| (h.rk d &&& ~~~m)) d.isLt }.dirtyK d

/-- The positions below VL at which two mask registers are both 1 (07 R177). -/
def Hart.both (h : Hart) (a b : KReg) : List Nat :=
  (upTo 0 h.vl.toNat).filter fun j => (h.rk a).getLsbD j && (h.rk b).getLsbD j

/-- An index or offset from a g register, all 64 bits, or from an immediate, unsigned (07, Permutes). -/
def Hart.indexOf (h : Hart) : Src → Nat
  | .g r => (h.rg r).toNat
  | .imm c => c.toNat
  | _ => 0

/-- VSLIDEUP and VSLIDEDN (07 R178). -/
def slideUp (d a : VReg) (b : Src) (k : KReg) (h : Hart) : Hart :=
  let off := h.indexOf b
  placeElems d (((h.active k 0).filter fun i => decide (off ≤ i)).map fun i => (i, h.elemAt a (i - off))) h
def slideDown (d a : VReg) (b : Src) (k : KReg) (h : Hart) : Hart :=
  let off := h.indexOf b
  placeElems d ((h.active k 0).map fun i => (i, if i + off < h.vlmax.toNat then h.elemAt a (i + off) else (0, true))) h

/-- VPERM (07 R179): the block that supplies the code decides validity, not that of the index (log 50). -/
def permOp (d a : VReg) (b : Src) (k : KReg) (h : Hart) (qv : List VWord) : Hart :=
  placeElems d ((h.active k 0).map fun i =>
    let idx := h.srcAt b qv i
    if idx.1 < h.vlmax.toNat then (i, h.elemAt a idx.1) else (i, 0, true)) h

/-- VCOMPRESS and VEXPAND (07 R180). -/
def compressOp (d : VReg) (b : Src) (k : KReg) (h : Hart) (qv : List VWord) : Hart :=
  placeElems d ((h.active k 0).mapIdx fun n i => (n, h.srcAt b qv i)) h
def expandOp (d : VReg) (b : Src) (k : KReg) (h : Hart) (qv : List VWord) : Hart :=
  placeElems d ((h.active k 0).mapIdx fun n i => (i, h.srcAt b qv n)) h

/-- VIOTA (07 R181): counts of mask bits below each element. -/
def iotaFrom (h : Hart) (b : KReg) : List Nat → Nat → List (Nat × Nat)
  | [], _ => []
  | i :: t, n => (i, n) :: iotaFrom h b t (if (h.rk b).getLsbD i then n + 1 else n)

/-- VIOTA (07 R181). -/
def iotaOp (d : VReg) (b k : KReg) (h : Hart) : Hart :=
  let sh := h.shape
  h.writeElems d sh.w sh.e (((iotaFrom h b (upTo 0 sh.vl) 0).filter fun x => h.maskOn k x.1).map fun x =>
    { i := x.1, x := x.2 % 2 ^ sh.w, ok := true, fl := 0 })

/-- An element extended to a g register: sign-extended for I types (07 R183). -/
def extendElem (t : ElemTy) (x : Nat) : Word := BitVec.ofInt 64 (elemInt t x)

/-- The integer reductions (07 R184; log 50). -/
def reduceInt (d a : GReg) (b : Src) (k : KReg) (op : ElemTy → Nat → Nat → Nat) (h : Hart) (qv : List VWord) : Hart :=
  let sh := h.shape
  let x := (h.active k 0).foldl (fun acc i => op sh.fmt acc (h.srcAt b qv i).1) ((h.rg a).toNat % 2 ^ sh.w)
  h.wg d (extendElem sh.fmt x)

/-- The start value of a float reduction: a signalling NaN gives the canonical NaN with NV (07 R184). -/
def floatStart (f : FForm) (x : Nat) : FOut :=
  match f.decode x with
  | .nan true => f.nanOut flagNV
  | _ => { bits := x, flags := 0 }

/-- One addition of a reduction, its flags gathered. -/
def addTo (f : FForm) (mode : Mode) (x y : FOut) : FOut :=
  let r := f.addV mode (f.decode x.bits) (f.decode y.bits)
  { bits := r.bits, flags := x.flags ||| y.flags ||| r.flags }

/-- One level of the tree of 03 R70. -/
def treeLevel (f : FForm) (mode : Mode) : List (Option FOut) → List (Option FOut)
  | some x :: some y :: t => some (addTo f mode x y) :: treeLevel f mode t
  | some x :: none :: t => some x :: treeLevel f mode t
  | none :: y :: t => y :: treeLevel f mode t
  | [x] => [x]
  | [] => []

/-- The root of the tree of 03 R70; fuel counts the levels. -/
def treeRoot (f : FForm) (mode : Mode) : Nat → List (Option FOut) → Option FOut
  | _, [x] => x
  | 0, _ => none
  | _, [] => none
  | n + 1, l => treeRoot f mode n (treeLevel f mode l)

/-- VFREDSUM (07 R184, 03 R70; log 50). -/
def reduceTree (d a : GReg) (b : Src) (k : KReg) (h : Hart) (qv : List VWord) : Hart :=
  let sh := h.shape
  let f := formOf sh.fmt
  let start := floatStart f ((h.rg a).toNat % 2 ^ sh.w)
  let leaves := (upTo 0 sh.vl).map fun i =>
    if h.maskOn k i then some { bits := (h.srcAt b qv i).1, flags := 0 : FOut } else none
  let r := match treeRoot f sh.mode 13 leaves with
    | none => start
    | some x => addTo f sh.mode x start
  (h.wg d (BitVec.ofNat 64 r.bits)).raise r.flags

/-- VFREDO (07 R184, 03 R71; log 50). -/
def reduceChain (d a : GReg) (b : Src) (k : KReg) (h : Hart) (qv : List VWord) : Hart :=
  let sh := h.shape
  let f := formOf sh.fmt
  let r := (h.active k 0).foldl (fun acc i => addTo f sh.mode acc { bits := (h.srcAt b qv i).1, flags := 0 })
    (floatStart f ((h.rg a).toNat % 2 ^ sh.w))
  (h.wg d (BitVec.ofNat 64 r.bits)).raise r.flags

end Sys2Proof.Machine
end

