-- ==== Sys2Proof/Machine/VecArith.lean ====
section
/-! DEFINITION. Vector configuration, arithmetic, compares, masks, permutes and reductions (spec 07), and the retirement of a
queued vector instruction (01 R18). -/

namespace Sys2Proof.Machine

/-- The smaller and the larger of two elements, read signed or unsigned (07 R170, R184). -/
def minElem (isSigned : Bool) (t : ElemTy) (x y : Nat) : Nat :=
  if intOf isSigned (elemWidth t) y < intOf isSigned (elemWidth t) x then y else x
def maxElem (isSigned : Bool) (t : ElemTy) (x y : Nat) : Nat :=
  if intOf isSigned (elemWidth t) x < intOf isSigned (elemWidth t) y then y else x

/-- What a vector instruction on registers does to its hart, given the queue entries it consumed (07 R160 to R184). -/
def vecCore : Instr → Hart → List VWord → Hart
  | .vadd d a b k => intOp d a b k (fun _ x y => x + y)
  | .vsub d a b k => intOp d a b k (fun t x y => x + 2 ^ elemWidth t - y)
  | .vmul d a b k => intOp d a b k (fun _ x y => x * y)
  | .vmulh d a b k => intOp d a b k (fun t x y => wrap (elemWidth t) (elemInt t x * elemInt t y / (2 ^ elemWidth t : Nat)))
  | .vsll d a b k => intOp d a b k (fun t x y => x * 2 ^ elemShift t y)
  | .vsrl d a b k => intOp d a b k (fun t x y => x / 2 ^ elemShift t y)
  | .vsra d a b k => intOp d a b k (fun t x y => wrap (elemWidth t) (sint (elemWidth t) x / (2 ^ elemShift t y : Nat)))
  | .vmin d a b k => intOp d a b k (fun t x y => minElem true t x y)
  | .vmax d a b k => intOp d a b k (fun t x y => maxElem true t x y)
  | .vminn d a b k => intOp d a b k (fun t x y => minElem false t x y)
  | .vmaxn d a b k => intOp d a b k (fun t x y => maxElem false t x y)
  | .vsadd d a b k => intOp d a b k (fun t x y => clampTo t (elemInt t x + elemInt t y))
  | .vssub d a b k => intOp d a b k (fun t x y => clampTo t (elemInt t x - elemInt t y))
  | .vmadd d a b k => elementwise .compute true d (some a) b k fun sh x y o => { bits := (x * y + o) % 2 ^ sh.w, flags := 0 }
  | .vand d a b k => bitOp d a b k (fun x y => x &&& y)
  | .vor d a b k => bitOp d a b k (fun x y => x ||| y)
  | .vxor d a b k => bitOp d a b k (fun x y => x ^^^ y)
  | .vcmpEq d a b k => compareOp d a b k (fun _ x y => (decide (x = y), 0))
  | .vcmpNe d a b k => compareOp d a b k (fun _ x y => (decide (x ≠ y), 0))
  | .vcmpLt d a b k => compareOp d a b k (fun t x y => (decide (sint (elemWidth t) x < sint (elemWidth t) y), 0))
  | .vcmpGe d a b k => compareOp d a b k (fun t x y => (!decide (sint (elemWidth t) x < sint (elemWidth t) y), 0))
  | .vcmpLtn d a b k => compareOp d a b k (fun _ x y => (decide (x < y), 0))
  | .vcmpGen d a b k => compareOp d a b k (fun _ x y => (!decide (x < y), 0))
  | .vmerge d a b k => fun h qv => placeElems d ((upTo 0 h.vl.toNat).map fun i => (i, if (h.rk k).getLsbD i then h.srcAt b qv i else h.elemAt a i)) h
  | .vmv d b k => fun h qv => placeElems d ((h.active k 0).map fun i => (i, h.srcAt b qv i)) h
  | .vfadd d a b k => fpOp d a b k (fun f m x y => f.addV m (f.decode x) (f.decode y))
  | .vfsub d a b k => fpOp d a b k (fun f m x y => f.addV m (f.decode x) (f.decode y).neg)
  | .vfmul d a b k => fpOp d a b k (fun f m x y => f.mulV m (f.decode x) (f.decode y))
  | .vfmin d a b k => fpOp d a b k (fun f _ x y => f.minmax false x y)
  | .vfmax d a b k => fpOp d a b k (fun f _ x y => f.minmax true x y)
  | .vfdiv d a b k => fpOp d a b k (fun f m x y => f.divV m (f.decode x) (f.decode y))
  | .vfsqrt d b k => fpOne d b k (fun f m y => f.sqrtV m (f.decode y))
  | .vfcmpEq d a b k => fcompareOp .eq d a b k
  | .vfcmpNe d a b k => fcompareOp .ne d a b k
  | .vfcmpLt d a b k => fcompareOp .lt d a b k
  | .vfcmpLe d a b k => fcompareOp .le d a b k
  | .vfexp2 d b k => fpOne d b k (fun f m y => f.exp2V m y)
  | .vfrcp d b k => fpOne d b k (fun f m y => f.rcpV m y)
  | .vfrsq d b k => fpOne d b k (fun f m y => f.rsqV m y)
  | .vfma d a b k => fmaOp false d a b k
  | .vfnma d a b k => fmaOp true d a b k
  | .vfcvt d src b k => cvtOp d src b k
  | .kand d a b => fun h _ => maskOp d (fun _ => h.rk a &&& h.rk b) h
  | .kor d a b => fun h _ => maskOp d (fun _ => h.rk a ||| h.rk b) h
  | .kxor d a b => fun h _ => maskOp d (fun _ => h.rk a ^^^ h.rk b) h
  | .knot d b => fun h _ => maskOp d (fun _ => ~~~(h.rk b)) h
  | .kpopc d a b => fun h _ => h.wg d (BitVec.ofNat 64 (h.both a b).length)
  | .kfirst d a b => fun h _ => h.wg d (match h.both a b with | j :: _ => BitVec.ofNat 64 j | [] => BitVec.allOnes 64)
  | .kmov d b => fun h _ => maskOp d (fun _ => h.rk b) h
  | .vredsum d a b k => reduceInt d a b k (fun t x y => (x + y) % 2 ^ elemWidth t)
  | .vredmax d a b k => reduceInt d a b k (fun t x y => maxElem (elemSigned t) t x y)
  | .vredmin d a b k => reduceInt d a b k (fun t x y => minElem (elemSigned t) t x y)
  | .vfredsum d a b k => reduceTree d a b k
  | .vfredo d a b k => reduceChain d a b k
  | .vslideup d a b k => fun h _ => slideUp d a b k h
  | .vslidedn d a b k => fun h _ => slideDown d a b k h
  | .vperm d a b k => permOp d a b k
  | .vcompress d b k => compressOp d b k
  | .vexpand d b k => expandOp d b k
  | .viota d b k => fun h _ => iotaOp d b k h
  | .vbcast d b k => fun h qv => placeElems d ((h.active k 0).map fun i => (i, h.srcAt b qv 0)) h
  | .vextr d a b => fun h _ => h.wg d (if h.indexOf b < h.vlmax.toNat then extendElem h.shape.fmt (h.elemAt a (h.indexOf b)).1 else 0)
  | .vins d a b k => fun h _ =>
    placeElems d (if h.indexOf b < h.vl.toNat ∧ h.maskOn k (h.indexOf b) then
      [(h.indexOf b, (h.rg a).toNat % 2 ^ h.shape.w, true)] else []) h
  | _ => fun h _ => h

/-- Whether the access side waits for the result: the destination is a g register (01 R19). -/
def writesG : Instr → Bool
  | .kpopc _ _ _ | .kfirst _ _ _ | .vredsum _ _ _ _ | .vredmax _ _ _ _ | .vredmin _ _ _ _ | .vfredsum _ _ _ _
  | .vfredo _ _ _ _ | .vextr _ _ _ => true
  | _ => false

/-- The g register that a VLDZ or VSTZ writes as it retires, beside VL (08 R201, R202). -/
def exfp8Reg : Instr → Option GReg
  | .vldz _ _ p _ _ | .vstz _ _ p _ _ => some p
  | _ => none

/-- Owner and configuration of an accumulator tile, without its contents. -/
def AccTile.config (a : AccTile) : AccTile := { a with data := 0 }

/-- An accumulator tile with the owner and configuration of another: its contents stay. -/
def AccTile.under (a c : AccTile) : AccTile := { c with data := a.data }

/-- What a vector instruction of the current hart captures as it is queued (01 R18, 02 R41). -/
def captured (s : State) (i : Instr) : Queued :=
  let h := s.hart
  { instr := i, pc := h.pc, g := Vector.ofFn fun n => h.rg (BitVec.ofFin n), level := h.level, vl := h.vl, ill := h.ill,
    vtype := h.vtype, vlmax := h.vlmax, frm := h.frm, vmf := h.vmf, vmfs := h.vmfs, vsreg := h.vsreg,
    ctxid := h.ctxid, translated := h.translated, root := h.root, asid := h.asid,
    takes := none, bound := none, adds := none, acc := s.tile.acc.map AccTile.config, seq := s.tile.issued }

/-- A captured instruction of n bytes put into the queue (01 R18). -/
def putQueued (x : Queued) (n : Nat) (s : State) : State :=
  (s.modTile fun t => { t with issued := t.issued + 1 }).modHart fun h => { h with vq := h.vq ++ [x] }.advance n

/-- A hart with the captured values of a queued instruction in place. -/
def Hart.install (h : Hart) (x : Queued) : Hart :=
  { h with g := x.g, uliActive := false, level := x.level, vl := x.vl, ill := x.ill, vtype := x.vtype, vlmax := x.vlmax,
           frm := x.frm, vmf := x.vmf, vmfs := x.vmfs, vsreg := x.vsreg,
           ctxid := x.ctxid, translated := x.translated, root := x.root, asid := x.asid, pages := x.pages }

/-- The entries that a queued instruction consumes as it executes, and the hart after it: those it took from an engine, whose
stream's end gives zero entries, or the head of its queue (01 R23, R24; 11 R274). -/
def Queued.inputs (x : Queued) (h : Hart) : List VWord × Hart :=
  let g := vtG x.vtype
  match x.bound, x.takes with
  | some l, _ => ((l.map fun e => e.1) ++ List.replicate (g - l.length) 0, h.raise (l.foldl (fun f e => f ||| e.2) 0))
  | none, some n => ((h.queue n).take g, h.setQueue n ((h.queue n).drop g))
  | none, none => ([], h)

/-- The oldest queued instruction of a hart retired, one on registers: its effect on vector and mask registers, validity, FFLAGS
and VDIRTY, the queue entries it consumes, and VES set to 0 (01 R18, R24; 02 R43). -/
def Hart.retire (h : Hart) : Hart :=
  match h.vq with
  | [] => h
  | x :: t =>
    let (qv, h) := x.inputs h
    let r := vecCore x.instr (h.install x) qv
    { h with vq := t, v := r.v, k := r.k, val := r.val, fflags := r.fflags, vdirty := r.vdirty, ves := 0 }

/-- The queue operand of an instruction as it is queued: its own queue is counted down, a bound engine gives its entries (01
R24, 11 R274). An error: the instruction waits for the engine (log 63). -/
def reserveQueue (s : State) (q : Option (BitVec 2)) (x : Queued) : Except State (Queued × State) :=
  match q with
  | none => .ok (x, s)
  | some n =>
    match boundEngine s s.cur n.toNat with
    | none => .ok ({ x with takes := some n }, s)
    | some (e, y) => (takeBound s e y (vtG x.vtype)).map fun r => ({ x with bound := some r.1 }, r.2)

/-- The oldest queued instruction of the current hart comes first. -/
def awaitRetirement (s : State) : Out := .next (schedule s [.vectorInstructionRetirement s.cur])

/-- A vector instruction on registers: its checks, its queue operand, its effect, VES set to 0 (07 R157). While vector
instructions may lag, one that writes no g register is queued (log 5). -/
def vecRun (i : Instr) (s : State) : Out :=
  match vecTrap i s with
  | some t => takeTrap s t
  | none =>
    let q := (vecForm i).bind fun f => f.queue
    if s.relaxed && writesG i && !s.hart.vq.isEmpty || decide (64 ≤ s.hart.vq.length) then awaitRetirement s
    else if s.relaxed && !writesG i then
      match reserveQueue s q (captured s i) with
      | .error s => .next s
      | .ok (x, s) => .next (putQueued x 4 s)
    else
      match consume s q with
      | .error s => .next s
      | .ok (qv, s) => .next (s.modHart fun h => { vecCore i h qv with ves := 0 }.advance 4)

/-- Whether two groups of vector registers have a register in common. -/
def groupsMeet (a : VReg) (n : Nat) (b : VReg) (m : Nat) : Bool :=
  (upTo 0 n).any fun i => (upTo 0 m).any fun j => regPlus a i == regPlus b j

/-- Whether the queue of a hart still has to produce an index group that an instruction needs for its addresses (01 R19; log 5). -/
def Hart.awaitsAddresses (h : Hart) (i : Instr) : Bool :=
  let gi := max 1 (vtG h.vtype * 32 / elemWidth (vtFmt h.vtype))
  let index := match vecForm i with | some f => f.index | none => []
  let index := match i with | .mdrainx _ _ p _ _ _ => [p] | _ => index
  h.vq.any fun x =>
    let n := targets (h.install x) x.instr
    let wide := match x.instr with | .vld _ _ _ _ => 1 | _ => 0
    (n.v.any fun p => index.any fun r => groupsMeet p.base (vtG x.vtype + wide) r gi)

/-- Whether an instruction uses VL: a vector, mask, matrix or vector-memory one, but SETVL and those on whole mask registers, one of
weight-driven mode, a control-register one that names VL or VTYPE (01 R19). -/
def usesVl (i : Instr) : Bool :=
  match i with
  | .setvl _ _ _ | .setvli _ _ _ _ _ | .kand _ _ _ | .kor _ _ _ | .kxor _ _ _ | .knot _ _ | .kmov _ _ => false
  | .crr _ n | .crw _ _ n | .crs _ _ n | .crc _ _ n => n == 0x100 || n == 0x101 || n == 0x300 || n == 0x301
  | _ => (vecForm i).isSome

/-- Whether an instruction waits for a VLDZ or VSTZ that is queued: it uses VL, which that one still sets, or names the g register that it
still writes; URET is among these for a register that its handler shadows (01 R19, 08 R201; log 5). -/
def Hart.awaitsExfp8 (h : Hart) (acc : Vector AccTile 4) (i : Instr) : Bool :=
  h.vq.any fun x => match exfp8Reg x.instr with
    | some p => (x.setsVl && usesVl i) || (sources acc h i).g.contains p || (targets h i).g.contains p || (i == .uret && decide (24 ≤ p.toNat))
    | none => false

def execVadd (d a : VReg) (b : Src) (k : KReg) (s : State) : Out := vecRun (.vadd d a b k) s
def execVsub (d a : VReg) (b : Src) (k : KReg) (s : State) : Out := vecRun (.vsub d a b k) s
def execVmul (d a : VReg) (b : Src) (k : KReg) (s : State) : Out := vecRun (.vmul d a b k) s
def execVmulh (d a : VReg) (b : Src) (k : KReg) (s : State) : Out := vecRun (.vmulh d a b k) s
def execVsll (d a : VReg) (b : Src) (k : KReg) (s : State) : Out := vecRun (.vsll d a b k) s
def execVsrl (d a : VReg) (b : Src) (k : KReg) (s : State) : Out := vecRun (.vsrl d a b k) s
def execVsra (d a : VReg) (b : Src) (k : KReg) (s : State) : Out := vecRun (.vsra d a b k) s
def execVmin (d a : VReg) (b : Src) (k : KReg) (s : State) : Out := vecRun (.vmin d a b k) s
def execVmax (d a : VReg) (b : Src) (k : KReg) (s : State) : Out := vecRun (.vmax d a b k) s
def execVminn (d a : VReg) (b : Src) (k : KReg) (s : State) : Out := vecRun (.vminn d a b k) s
def execVmaxn (d a : VReg) (b : Src) (k : KReg) (s : State) : Out := vecRun (.vmaxn d a b k) s
def execVsadd (d a : VReg) (b : Src) (k : KReg) (s : State) : Out := vecRun (.vsadd d a b k) s
def execVssub (d a : VReg) (b : Src) (k : KReg) (s : State) : Out := vecRun (.vssub d a b k) s
def execVmadd (d a : VReg) (b : Src) (k : KReg) (s : State) : Out := vecRun (.vmadd d a b k) s
def execVand (d a : VReg) (b : Src) (k : KReg) (s : State) : Out := vecRun (.vand d a b k) s
def execVor (d a : VReg) (b : Src) (k : KReg) (s : State) : Out := vecRun (.vor d a b k) s
def execVxor (d a : VReg) (b : Src) (k : KReg) (s : State) : Out := vecRun (.vxor d a b k) s
def execVcmpEq (d : KReg) (a : VReg) (b : Src) (k : KReg) (s : State) : Out := vecRun (.vcmpEq d a b k) s
def execVcmpNe (d : KReg) (a : VReg) (b : Src) (k : KReg) (s : State) : Out := vecRun (.vcmpNe d a b k) s
def execVcmpLt (d : KReg) (a : VReg) (b : Src) (k : KReg) (s : State) : Out := vecRun (.vcmpLt d a b k) s
def execVcmpGe (d : KReg) (a : VReg) (b : Src) (k : KReg) (s : State) : Out := vecRun (.vcmpGe d a b k) s
def execVcmpLtn (d : KReg) (a : VReg) (b : Src) (k : KReg) (s : State) : Out := vecRun (.vcmpLtn d a b k) s
def execVcmpGen (d : KReg) (a : VReg) (b : Src) (k : KReg) (s : State) : Out := vecRun (.vcmpGen d a b k) s
def execVmerge (d a : VReg) (b : Src) (k : KReg) (s : State) : Out := vecRun (.vmerge d a b k) s
def execVmv (d : VReg) (b : Src) (k : KReg) (s : State) : Out := vecRun (.vmv d b k) s
def execVfadd (d a : VReg) (b : Src) (k : KReg) (s : State) : Out := vecRun (.vfadd d a b k) s
def execVfsub (d a : VReg) (b : Src) (k : KReg) (s : State) : Out := vecRun (.vfsub d a b k) s
def execVfmul (d a : VReg) (b : Src) (k : KReg) (s : State) : Out := vecRun (.vfmul d a b k) s
def execVfmin (d a : VReg) (b : Src) (k : KReg) (s : State) : Out := vecRun (.vfmin d a b k) s
def execVfmax (d a : VReg) (b : Src) (k : KReg) (s : State) : Out := vecRun (.vfmax d a b k) s
def execVfdiv (d a : VReg) (b : Src) (k : KReg) (s : State) : Out := vecRun (.vfdiv d a b k) s
def execVfsqrt (d : VReg) (b : Src) (k : KReg) (s : State) : Out := vecRun (.vfsqrt d b k) s
def execVfcmpEq (d : KReg) (a : VReg) (b : Src) (k : KReg) (s : State) : Out := vecRun (.vfcmpEq d a b k) s
def execVfcmpNe (d : KReg) (a : VReg) (b : Src) (k : KReg) (s : State) : Out := vecRun (.vfcmpNe d a b k) s
def execVfcmpLt (d : KReg) (a : VReg) (b : Src) (k : KReg) (s : State) : Out := vecRun (.vfcmpLt d a b k) s
def execVfcmpLe (d : KReg) (a : VReg) (b : Src) (k : KReg) (s : State) : Out := vecRun (.vfcmpLe d a b k) s
def execVfexp2 (d : VReg) (b : Src) (k : KReg) (s : State) : Out := vecRun (.vfexp2 d b k) s
def execVfrcp (d : VReg) (b : Src) (k : KReg) (s : State) : Out := vecRun (.vfrcp d b k) s
def execVfrsq (d : VReg) (b : Src) (k : KReg) (s : State) : Out := vecRun (.vfrsq d b k) s
def execVfma (d a : VReg) (b : Src) (k : KReg) (s : State) : Out := vecRun (.vfma d a b k) s
def execVfnma (d a : VReg) (b : Src) (k : KReg) (s : State) : Out := vecRun (.vfnma d a b k) s
def execVfcvt (d : VReg) (src : ElemTy) (b : Src) (k : KReg) (s : State) : Out := vecRun (.vfcvt d src b k) s
def execKand (d a b : KReg) (s : State) : Out := vecRun (.kand d a b) s
def execKor (d a b : KReg) (s : State) : Out := vecRun (.kor d a b) s
def execKxor (d a b : KReg) (s : State) : Out := vecRun (.kxor d a b) s
def execKnot (d b : KReg) (s : State) : Out := vecRun (.knot d b) s
def execKpopc (d : GReg) (a b : KReg) (s : State) : Out := vecRun (.kpopc d a b) s
def execKfirst (d : GReg) (a b : KReg) (s : State) : Out := vecRun (.kfirst d a b) s
def execKmov (d b : KReg) (s : State) : Out := vecRun (.kmov d b) s
def execVredsum (d a : GReg) (b : Src) (k : KReg) (s : State) : Out := vecRun (.vredsum d a b k) s
def execVredmax (d a : GReg) (b : Src) (k : KReg) (s : State) : Out := vecRun (.vredmax d a b k) s
def execVredmin (d a : GReg) (b : Src) (k : KReg) (s : State) : Out := vecRun (.vredmin d a b k) s
def execVfredsum (d a : GReg) (b : Src) (k : KReg) (s : State) : Out := vecRun (.vfredsum d a b k) s
def execVfredo (d a : GReg) (b : Src) (k : KReg) (s : State) : Out := vecRun (.vfredo d a b k) s
def execVslideup (d a : VReg) (b : Src) (k : KReg) (s : State) : Out := vecRun (.vslideup d a b k) s
def execVslidedn (d a : VReg) (b : Src) (k : KReg) (s : State) : Out := vecRun (.vslidedn d a b k) s
def execVperm (d a : VReg) (b : Src) (k : KReg) (s : State) : Out := vecRun (.vperm d a b k) s
def execVcompress (d : VReg) (b : Src) (k : KReg) (s : State) : Out := vecRun (.vcompress d b k) s
def execVexpand (d : VReg) (b : Src) (k : KReg) (s : State) : Out := vecRun (.vexpand d b k) s
def execViota (d : VReg) (b k : KReg) (s : State) : Out := vecRun (.viota d b k) s
def execVbcast (d : VReg) (b : Src) (k : KReg) (s : State) : Out := vecRun (.vbcast d b k) s
def execVextr (d : GReg) (a : VReg) (b : Src) (s : State) : Out := vecRun (.vextr d a b) s
def execVins (d : VReg) (a : GReg) (b : Src) (k : KReg) (s : State) : Out := vecRun (.vins d a b k) s

end Sys2Proof.Machine
end

