-- ==== Sys2Proof/Machine/VecConfig.lean ====
section
/-! DEFINITION. SETVL, SETVLI and LPREQ with the lane arbiter (07 R164 to R169). -/

namespace Sys2Proof.Machine

/-- The request with which a hart counts: its own only while it is placed for a farm (07 R168). -/
def Hart.request (h : Hart) : Nat := if h.member.isSome then min h.want.toNat 8 else 0

/-- The target of a hart from the requests of both (07 R168). -/
def laneTarget (own other : Nat) : Nat := if own + other ≤ 8 then own else min own (max 4 (8 - other))

/-- The clusters that VLP gives to a hart (01 R26). -/
def ownedBy (vlp : BitVec 8) (h1 : Bool) : BitVec 8 := if h1 then vlp else ~~~vlp

/-- A number of clusters given up by a hart: the highest-numbered ones it owns (07 R168). -/
def giveUp (h1 : Bool) : Nat → Nat → BitVec 8 → BitVec 8
  | 0, _, vlp => vlp
  | c + 1, n, vlp =>
    if n = 0 then vlp
    else if (ownedBy vlp h1).getLsbD c then giveUp h1 c (n - 1) (vlp ^^^ (1#8 <<< c)) else giveUp h1 c n vlp

/-- Step 1 of ClusterStep: VLP after what the arbiter directs a hart to give up (07 R165, R168). -/
def release (x : Tile) (h1 : Bool) : BitVec 8 :=
  let tMine := laneTarget (x.hart h1).request (x.hart (!h1)).request
  let tOther := laneTarget (x.hart (!h1)).request (x.hart h1).request
  let own := popCount 8 (ownedBy x.vlp h1).toNat
  let other := popCount 8 (ownedBy x.vlp (!h1)).toNat
  giveUp h1 8 (min (own - tMine) (tOther - other)) x.vlp

/-- ClearVector (07 R164): every vector and mask register zero, every validity bit 1. At U all of them become dirty
(15 R320; log 53). -/
def Hart.clearVector (h : Hart) : Hart :=
  { h with
    v := Vector.replicate 32 0, k := Vector.replicate 8 0, val := Vector.replicate 32 (BitVec.allOnes 128)
    vdirty := match h.level with | .u => h.vdirty ||| BitVec.ofNat 41 (2 ^ 40 - 1) | .s => h.vdirty }

/-- A SETVL that changes the clusters of a hart with queued entries drops what lies beyond the new register length
(07 R163, R165). -/
def Hart.cutQueues (h : Hart) (c : Nat) : Hart := { h with q := h.q.map fun l => l.map fun x => x &&& (BitVec.allOnes 16384 >>> (16384 - 2048 * c)) }

/-- SETVL and SETVLI (07 R164, R165): req is the count, t bits 7:0 of the type, ok whether its other bits allow it (log 53). -/
def setVl (d : GReg) (req : Word) (t : BitVec 8) (ok : Bool) (s : State) : Out :=
  let i := s.cur
  let x := s.tile
  let h := s.hart
  let keep := decide (h.level = .s) || !queuesEmpty s i
  let vlp := if keep then x.vlp else release x i.h1
  let eff := if keep then h.eff else ownedBy vlp i.h1 &&& ~~~(x.hart (!i.h1)).eff
  let c := computing eff x.lanemap h.prot
  let changed := c != h.clusters || eff != h.eff
  let good := ok && vtypeOk t
  let fresh := h.level == .u && (h.fresh || h.unset)
  let clear := changed || (good && fresh)
  let go : Out :=
    let s := s.modTile fun x => { x with vlp := vlp }
    .next (s.modHart fun h =>
      let h := if changed then h.cutQueues c else h
      let h := if clear then h.clearVector else h
      let h := { h with eff := eff, clusters := c, ves := 0, vtype := t, ill := !good }
      let m := if good then vlmaxOf c t else 0
      let vl := min req.toNat m
      let h := { h with vlmax := BitVec.ofNat 16 m, vl := BitVec.ofNat 16 vl, fresh := h.fresh && !(good && fresh),
                        unset := h.unset && !(good && fresh), vq := h.vq.map fun (x : Queued) => { x with setsVl := false } }
      (h.wg d (BitVec.ofNat 64 vl)).advance 4)
  if clear then waitVq s go else go

/-- SETVL (07 R164): step 4 of 05 R105 is checked, step 5 is not. -/
def execSetvl (d a b : GReg) (s : State) : Out :=
  match vecTrap (.setvl d a b) s with
  | some t => takeTrap s t
  | none =>
    let t := s.hart.rg b
    setVl d (s.hart.rg a) (BitVec.ofNat 8 t.toNat) (decide (t.toNat < 256)) s

/-- SETVLI (07 R164). -/
def execSetvli (d a : GReg) (fmt : ElemTy) (grp : BitVec 3) (sc : Bool) (s : State) : Out :=
  match vecTrap (.setvli d a fmt grp sc) s with
  | some t => takeTrap s t
  | none => setVl d (s.hart.rg a) (BitVec.ofNat 8 (fmt.code + grp.toNat * 2 ^ 4 + bit sc * 2 ^ 7)) true s

/-- LPREQ (07 R167): the request W is recorded; bits 3:0 of the result hold the size of the effective set, bits 7:4 the
target. -/
def execLpreq (d a : GReg) (s : State) : Out :=
  let w := min ((s.hart.rg a).toNat % 16) 8
  let s := s.modHart fun h => { h with want := BitVec.ofNat 4 w }
  let t := laneTarget s.hart.request (s.tile.hart (!s.cur.h1)).request
  .next (s.modHart fun h => (h.wg d (BitVec.ofNat 64 (popCount 8 h.eff.toNat + 16 * t))).advance 4)

end Sys2Proof.Machine
end

