-- ==== Sys2Proof/Machine/MemFormat.lean ====
section
/-! DEFINITION. The memory-format path: conversions between stored and register elements (08 R193 to R199), and the EXFP8 code
(03 R65 to R68). -/

namespace Sys2Proof.Machine

/-- The exact value of an element as a real operand: an integer is a finite value (08 R195, R196). -/
def elemVal (t : ElemTy) (x : Nat) : FVal :=
  match elemForm t with
  | some f => f.decode x
  | none => .fin (decide (elemInt t x < 0)) (elemInt t x).natAbs 0

/-- An exact product, a NaN case with its flag (08 R195, R197). -/
def prodVal (a b : FVal) : FVal × BitVec 6 :=
  match a, b with
  | .fin na ma ea, .fin nb mb eb => (.fin (na != nb) (ma * mb) (ea + eb), 0)
  | .inf na, .inf nb => (.inf (na != nb), 0)
  | .inf na, .fin nb m _ => if m = 0 then (.nan false, flagNV) else (.inf (na != nb), 0)
  | .fin na m _, .inf nb => if m = 0 then (.nan false, flagNV) else (.inf (na != nb), 0)
  | a, b => (.nan false, nvIf (a.isSig || b.isSig))

/-- A quotient by a scale; a scale of zero makes it an infinity with DZ, whatever number is divided (08 R196). It is exact but
for a last bit that stands for what lies below it: it has more than 200 bits, so that a later rounding sees on which side of
every boundary the exact quotient lies (08 R196). -/
def quotVal (a b : FVal) : FVal × BitVec 6 :=
  match a, b with
  | .fin na ma ea, .fin nb mb eb =>
    if mb = 0 then (.inf (na != nb), flagDZ)
    else
      let k := 200 + bitLen mb
      (.fin (na != nb) (2 * (ma * 2 ^ k / mb) + (if ma * 2 ^ k % mb = 0 then 0 else 1)) (ea - eb - k - 1), 0)
  | .inf _, .inf _ => (.nan false, flagNV)
  | .inf na, .fin nb m _ => (.inf (na != nb), if m = 0 then flagDZ else 0)
  | .fin na _ _, .inf nb => (.fin (na != nb) 0 0, 0)
  | a, b => (.nan false, nvIf (a.isSig || b.isSig))

/-- A real value rounded once to a type (03 R58, R60, R61). -/
def roundTo (mode : Mode) (t : ElemTy) (v : FVal) : FOut :=
  match elemForm t with
  | some f => f.convert mode v
  | none => toIntSat mode (elemSigned t) (elemWidth t) v

/-- VMF.SAT on a conversion to an IEEE format: an overflow gives the largest finite number (08 R196). -/
def saturate (sat : Bool) (t : ElemTy) (r : FOut) : FOut :=
  match elemForm t with
  | some f =>
    if sat && !f.narrow && r.flags &&& flagOF != 0 then
      { r with bits := f.sign (bitAt r.bits (f.ebits + f.fbits)) + f.maxFinite }
    else r
  | none => r

/-- VMFS.SCALE as a value (08 R197). -/
def scaleVal (h : Hart) : FVal := fp32Form.decode h.vmfs.toNat

/-- Decode (08 R194, R195): a stored element as a register element. -/
def decodeElem (h : Hart) (x : Nat) : FOut :=
  let fmt := vtFmt h.vtype
  let enc := vmfEnc h.vmf
  if enc = 0x1F ∨ vtSc h.vtype then { bits := x, flags := 0 }
  else if vmfSmode h.vmf = 0 then convElem h.mode (elemOf enc) fmt x
  else
    let p := prodVal (elemVal (elemOf enc) x) (scaleVal h)
    let r := roundTo h.mode fmt p.1
    { r with flags := r.flags ||| p.2 }

/-- Encode (08 R194, R196): an element of a register type as it is stored (log 50). -/
def encodeElem (h : Hart) (fmt : ElemTy) (x : Nat) : FOut :=
  let enc := vmfEnc h.vmf
  let mode := modeOf (vmfRnd h.vmf)
  let sat := vmfSat h.vmf
  if enc = 0x1F then { bits := x, flags := 0 }
  else
    let t := elemOf enc
    if vmfSmode h.vmf = 0 then
      match elemForm fmt, elemForm t with
      | none, none =>
        { bits := if sat && decide (elemWidth t ≤ elemWidth fmt) then clampTo t (elemInt fmt x)
                  else wrap (elemWidth t) (elemInt fmt x), flags := 0 }
      | _, _ => saturate sat t (convElem mode fmt t x)
    else
      let p := quotVal (elemVal fmt x) (scaleVal h)
      let r := saturate sat t (roundTo mode t p.1)
      { r with flags := r.flags ||| p.2 }

/-- A value with its exponent moved: multiplied by the scale of an E8M0 code, or divided by it (03 R62). -/
def byScale (v : FVal) (code : Nat) (divide : Bool) : FVal :=
  match v with
  | .fin n m e => .fin n m (if divide then e - ((code : Int) - 127) else e + ((code : Int) - 127))
  | v => v

/-- The scale that a quantising store chooses for the active elements of a block (08 R199), 0xFF where one of them is a NaN or
an infinity. -/
def blockScale (t : ElemTy) (vs : List FVal) : Nat :=
  if vs.any fun v => match v with | .fin _ _ _ => false | _ => true then 0xFF
  else
    let logs := vs.filterMap fun v => match v with
      | .fin _ m e => if m = 0 then none else some (e + Nat.log2 m)
      | _ => none
    match logs with
    | [] => 127
    | x :: l =>
      let top := l.foldl max x
      let emax : Int := match t with | .e4m3 => 8 | .e5m2 => 15 | _ => 2
      (max 0 (min 254 (top - emax + 127))).toNat

/-- Code lengths of a code-table register, by symbol (03 R67). -/
def codeLens (ct : Word) : List Nat := (upTo 0 16).map fun s => fld ct.toNat (4 * s) 4

/-- The coded symbols with their lengths, sorted by length and then by symbol (03 R67). -/
def codedSymbols (ct : Word) : List (Nat × Nat) :=
  sortBy (fun x => x.2) (((codeLens ct).mapIdx fun s l => (s, l)).filter fun x => x.2 != 0)

/-- The canonical codes, from a code and its length (03 R67): symbol, length, code. -/
def assignCodes : List (Nat × Nat) → Nat → Nat → List (Nat × Nat × Nat)
  | [], _, _ => []
  | (s, l) :: t, next, len =>
    let c := next * 2 ^ (l - len)
    (s, l, c) :: assignCodes t (c + 1) l

/-- The canonical codes of a table: symbol, length, code (03 R67). -/
def codesOf (ct : Word) : List (Nat × Nat × Nat) :=
  match codedSymbols ct with
  | [] => []
  | (s, l) :: t => (s, l, 0) :: assignCodes t 1 l

/-- Whether a table is valid: lengths up to 8, and their sum within 1 (03 R67). -/
def tableValid (ct : Word) : Bool :=
  let ls := (codeLens ct).filter fun l => l != 0
  (ls.all fun l => decide (l ≤ 8)) && decide (ls.foldl (fun n l => n + 2 ^ (8 - l)) 0 ≤ 2 ^ 8)

/-- What the bytes of a block read so far amount to: more are needed, a decode error, or its 32 E4M3 codes (03 R65 to R68). -/
inductive BlockRead where
  | more
  | error
  | codes (l : List Nat)
  deriving DecidableEq, Repr

/-- One token from a list of stream bits: its symbol and the bits after it; fuel counts the bits it may still take. Bits that begin no code
are read on up to the eighth before the token fails, a choice (log 55). -/
def readToken (codes : List (Nat × Nat × Nat)) : Nat → Nat → Nat → List Bool → Option (Option (Nat × List Bool))
  | 0, _, _, _ => some none
  | _ + 1, _, _, [] => none
  | n + 1, len, acc, b :: t =>
    let acc := 2 * acc + bit b
    match codes.find? fun c => c.2.1 == len + 1 && c.2.2 == acc with
    | some c => some (some (c.1, t))
    | none => readToken codes n (len + 1) acc t

/-- n tokens from a list of stream bits. -/
def readTokens (codes : List (Nat × Nat × Nat)) : Nat → List Bool → List Nat → BlockRead × List Bool
  | 0, bs, acc => (.codes acc.reverse, bs)
  | n + 1, bs, acc =>
    match readToken codes 8 0 0 bs with
    | none => (.more, bs)
    | some none => (.error, bs)
    | some (some (s, t)) => readTokens codes n t (s :: acc)

/-- The bits of a list of bytes in stream order (03 R65). -/
def streamBits (l : List Byte) : List Bool := l.flatMap fun b => (upTo 0 8).map fun i => b.getLsbD i

/-- The bytes of one EXFP8 block read so far (03 R65 to R68). The last byte read is the block's last, as its tokens fix it. -/
def readBlock (ctab : Vector Word 4) (l : List Byte) : BlockRead :=
  match l with
  | [] => .more
  | hd :: rest =>
    let ct := ctab.toList.getD (hd.toNat % 4) 0
    if hd.toNat / 4 ≠ 0 ∨ tableValid ct = false then .error
    else if rest.length < 16 then .more
    else
      match readTokens (codesOf ct) 32 (streamBits (rest.drop 16)) [] with
      | (.codes syms, pad) =>
        if pad.any id then .error
        else
          let nib (i : Nat) : Nat := fld (rest.getD (i / 2) 0).toNat (4 * (i % 2)) 4
          .codes (syms.mapIdx fun i s => nib i / 8 * 2 ^ 7 + s * 2 ^ 3 + nib i % 8)
      | (r, _) => r

/-- The bits of a token, the most significant code bit first. -/
def tokenBits (len code : Nat) : List Bool := (upTo 0 len).map fun i => bitAt code (len - 1 - i)

/-- A list of stream bits packed into bytes, padded with zeros; fuel bounds the number of bytes. -/
def packBits : Nat → List Bool → List Byte
  | 0, _ => []
  | _, [] => []
  | n + 1, bs => BitVec.ofNat 8 (((bs.take 8).mapIdx fun i b => bit b * 2 ^ i).foldl (· + ·) 0) :: packBits n (bs.drop 8)

/-- The tokens of 32 E4M3 codes under a table, where it codes every symbol they use. -/
def encodeTokens (ct : Word) (l : List Nat) : Option (List Bool) :=
  if !tableValid ct then none
  else
    let codes := codesOf ct
    l.foldl (fun o x => match o, codes.find? (fun c => c.1 == fld x 3 4) with
      | some bs, some c => some (bs ++ tokenBits c.2.1 c.2.2)
      | _, _ => none) (some [])

/-- The table of VSTZ: the lowest-numbered with the fewest bits (08 R202). -/
def bestTable (ctab : Vector Word 4) (l : List Nat) : Option (Nat × List Bool) :=
  (upTo 0 4).foldl (fun best n =>
    match encodeTokens (ctab.toList.getD n 0) l with
    | none => best
    | some bs => match best with
      | some (m, b) => if bs.length < b.length then some (n, bs) else some (m, b)
      | none => some (n, bs)) none

/-- The bytes of an EXFP8 block of 32 E4M3 codes, where a table is eligible (03 R65, 08 R202). -/
def writeBlock (ctab : Vector Word 4) (l : List Nat) : Option (List Byte) :=
  (bestTable ctab l).map fun (n, bs) =>
    let nib (i : Nat) : Nat := let x := l.getD i 0; fld x 7 1 * 8 + x % 8
    BitVec.ofNat 8 n :: ((upTo 0 16).map fun j => BitVec.ofNat 8 (nib (2 * j) + 16 * nib (2 * j + 1))) ++ packBits 32 bs

end Sys2Proof.Machine
end

