-- ==== Sys2Proof/Machine/VecMem.lean ====
section
/-! DEFINITION. Vector loads and stores in every addressing form, loads to a queue, compressed streams, copies and fills, vector
atomics and VCAPP (spec 08). Elements are performed in increasing order; a stop leaves VES at the first unfinished one. -/

namespace Sys2Proof.Machine

/-- Why an element loop ended. -/
inductive Stop where
  | done
  | trap (t : TrapRec)
  | stall

/-- An element loop at its end: what its elements brought, the latest first, the element at which it stopped, and why. -/
structure Walked (β : Type) where
  acc : List β
  pos : Nat
  stop : Stop
  st : State

/-- A loop over elements; each sees what those before it brought, the latest first. -/
def walkElems {β : Type} (one : List β → Nat → State → Access β) : List Nat → List β → State → Walked β
  | [], acc, s => { acc := acc, pos := 0, stop := .done, st := s }
  | i :: t, acc, s =>
    match one acc i s with
    | .ok a s => walkElems one t (a :: acc) s
    | .trap tr s => { acc := acc, pos := i, stop := .trap tr, st := s }
    | .stall s => { acc := acc, pos := i, stop := .stall, st := s }

/-- How the execution of a vector memory or matrix instruction of n bytes ends: it is done, it stops at an element or traps as
a whole, or it waits. -/
inductive Ended where
  | done (n : Nat) (s : State)
  | stop (t : TrapRec) (s : State)
  | fail (t : TrapRec) (s : State)
  | wait (s : State)

/-- The end of an instruction of n bytes that honours VES (02 R43, 08 R190): VES is 0, or the first unfinished element. -/
def endElems (stop : Stop) (pos n : Nat) (s : State) : Ended :=
  let at' (e : Nat) : State := s.modHart fun h => { h with ves := BitVec.ofNat 16 e }
  match stop with
  | .done => .done n (at' 0)
  | .trap t => .stop t (at' pos)
  | .stall => .wait (at' pos)

/-- An instruction that runs as it is issued ends: one that waits partway cannot be left until it goes on (15 R307, R314). -/
def Ended.out (i : Instr) : Ended → Out
  | .done n s => .next (s.modHart fun h => h.advance n)
  | .stop t s => takeTrap s t
  | .fail t s => takeTrap s t
  | .wait s => .next (if s.hart.ves = 0 then s else s.modHart fun h => { h with inProgress := some i })

/-- The queue to which an instruction adds entries (01 R24). -/
def addsTo : Instr → Option (BitVec 2)
  | .vldq n _ _ _ | .vldqStrided n _ _ _ | .vldqIndexed n _ _ _ => some n
  | _ => none

/-- The machine in which an instruction is tried at its issue: nothing before it in the queue, nothing that its accesses could wait for
at a home, no bad data, which it meets only as it executes; every element of a mask that the queue has still to produce active; the
tables walked afresh; of the reservations those that refuse the hart (01 R20; log 5). -/
def tried (i : Instr) (s : State) : State :=
  let h := s.hart
  let ks := (sources (Vector.replicate 4 AccTile.free) h i).k
  let pending (n : Nat) : Bool := (ks.any fun y => y.1.toNat == n) &&
    h.vq.any fun x => (targets (h.install x) x.instr).k.any fun k => k.1.toNat == n
  let refuse (r : Resv) : Bool := r.policy == .trap || r.opener (hartWho s s.cur)
  ({ s with resvs := s.resvs.filter refuse, dir := [], bad := [], held := [], refused := [], hostWrites := [], tlb := [] }.modTile
    fun x => { x with issued := 0 }).modHart fun h =>
      { h with vq := [], ves := 0, wcb := [], sentLines := [], heldWrites := 0, answers := [], capp := none,
               k := Vector.ofFn fun n => if pending n.val then BitVec.allOnes 4096 else h.k.get n }

/-- What the issue of a matrix instruction does to the accumulator tiles: owners and configurations change, contents do not
(09 R212, R213). -/
def configure (s t : State) : State :=
  s.modTile fun x => { x with acc := Vector.ofFn fun c => (x.acc.get c).under (t.tile.acc.get c) }

/-- The bytes that the blocks of a VLDZ or VSTZ may occupy, of at most 51 bytes each (03 R65 to R67, 08 R201, R202; log 5). -/
def exfp8Span (i : Instr) (h : Hart) : Option (AccKind × Word × Nat) :=
  match i with
  | .vldz _ a p _ off => some (.load, h.rg a + off.signExtend 64, min (h.rg p).toNat (51 * (h.vl.toNat / 32)))
  | .vstz _ a p _ off => some (.store, h.rg a + off.signExtend 64, min (h.rg p).toNat (51 * ((h.vl.toNat + 31) / 32)))
  | _ => none

/-- The pages of some addresses checked for a load or a store, where it may lie in any byte of them (01 R20). -/
def probeSpan (k : AccKind) : List Nat → State → Access Unit
  | [], s => .ok () s
  | va :: t, s =>
    (match k with
     | .store => (storeProbe (vectorActor s s.cur) 1 (BitVec.ofNat 64 va) s).bind fun _ s => .ok () s
     | .load | .fetch | .weight => (loadAs (vectorActor s s.cur) .load 1 (BitVec.ofNat 64 va) s).bind fun _ s => .ok () s).bind
      fun _ s => probeSpan k t s

/-- What the execution of an instruction would come to at its issue, where it may then be queued: its length and the machine
after it; of a VLDZ or VSTZ, whose blocks are not known yet, the pages that they may touch. None: it traps, or goes on where it has
stopped or waits, and runs as it is issued, once those before it have retired (01 R20; log 5). -/
def trial (core : Instr → State → Ended) (i : Instr) (s : State) : Option (Nat × State) :=
  let h := s.hart
  let goesOn := h.vq.isEmpty && (h.ves != 0 || h.capp.isSome || (match addsTo i with | some n => resumesTail h n | none => false))
  if !s.relaxed || goesOn then none
  else match exfp8Span i h with
    | some (k, va, n) => (match probeSpan k (if n = 0 then [] else probes va.toNat n) (tried i s) with
      | .ok _ t => some (8, t)
      | .trap _ _ | .stall _ => none)
    | none => (match i, core i (tried i s) with
      | _, .done n t => some (n, t)
      | .vcapp _ _, .wait t => some (4, t)
      | _, .stop _ _ | _, .fail _ _ | _, .wait _ => none)

/-- The translations that the trial of an instruction used, as the tables gave them at its issue (01 R20, 08 R209; log 5). -/
def givenPages (s t : State) : List TlbEntry := t.tlb.map fun x => { x with leaf := BitVec.ofNat 64 (physRead s 8 x.ppage) }

/-- A vector memory or matrix instruction: its checks at issue, and its execution. While vector instructions may lag, one whose
accesses translate and are not refused is queued with its translations; any other waits for those before it, and runs as it is issued
(01 R18 to R20; 09 R214; log 5). -/
def vecMemRun (core : Instr → State → Ended) (i : Instr) (s : State) : Out :=
  match vecTrap i s with
  | some t => takeTrap s t
  | none =>
    match trial core i s with
    | none => waitVq s ((core i s).out i)
    | some (n, t) =>
      if decide (64 ≤ s.hart.vq.length) || s.hart.awaitsAddresses i then awaitRetirement s
      else .next (putQueued { captured s i with adds := addsTo i, pages := givenPages s t, setsVl := (exfp8Reg i).isSome } n (configure s t))

/-- The address of an element, and for a 4-bit element which nibble of its byte it is (08 R186, 03 R54). -/
abbrev ElemAddr := Nat → Word × Option Bool

/-- Elements of w bits one after another from an address. -/
def unitAddr (base : Word) (w : Nat) : ElemAddr := fun i =>
  if w = 4 then (base + BitVec.ofNat 64 (i / 2), some (i % 2 == 1)) else (base + BitVec.ofNat 64 (i * w / 8), none)

/-- Elements a signed stride apart. -/
def stridedAddr (base stride : Word) : ElemAddr := fun i => (base + BitVec.ofNat 64 i * stride, none)

/-- Element i of an index vector (08 R187). -/
def Hart.indexElem (h : Hart) (v : VReg) (i : Nat) : Nat :=
  let gi := vtG h.vtype * 32 / elemWidth (vtFmt h.vtype)
  h.elem v 32 (if gi ≤ 1 then h.vlmax.toNat else h.vlmax.toNat / gi) i

/-- Elements at the offsets of an index vector. -/
def indexedAddr (h : Hart) (base : Word) (v : VReg) : ElemAddr := fun i => (base + BitVec.ofNat 64 (h.indexElem v i), none)

/-- The base of unit-stride addressing (08 R186). -/
def Hart.unitBase (h : Hart) (a : GReg) (off : BitVec 5) : Word := h.rg a + off.signExtend 64 * 128

/-- The width of a stored element under VMF (08 R194). -/
def Hart.storedWidth (h : Hart) : Nat := elemWidth ((storedType (vmfEnc h.vmf) (vtFmt h.vtype)).getD .i8)

/-- The bytes that an element of w bits occupies. -/
def elemBytes (w : Nat) : Nat := max 1 (w / 8)

/-- The nibble of a byte that an element is, or the whole value (03 R54). -/
def pickNibble (nib : Option Bool) (x : Nat) : Nat :=
  match nib with
  | none => x
  | some hi => fld x (4 * bit hi) 4

/-- One element read: alignment, then the access (08 R186, R188). -/
def readElem (w : Nat) (ad : ElemAddr) (i : Nat) (s : State) : Access Nat :=
  (aligned (elemBytes w) (ad i).1 s (loadAs (vectorActor s s.cur) .load (elemBytes w) (ad i).1 s)).bind fun x s =>
    .ok (pickNibble (ad i).2 x) s

/-- One element read and decoded; sc tells the .sc form, whose element takes a ticket (08 R191, 04 R88). -/
def loadElem (h : Hart) (sc : Bool) (w : Nat) (ad : ElemAddr) (_acc : List VWrite) (i : Nat) (s : State) : Access VWrite :=
  (readElem w ad i s).bind fun x s =>
    let r := decodeElem h x
    .ok { i := i, x := r.bits, ok := true, fl := r.flags } (if sc then { s with ticket := s.ticket + 1 } else s)

/-- Elements written to a register group, with their flags. -/
def putGroup (d : VReg) (ws : List VWrite) (h : Hart) : Hart :=
  (h.writeElems d (elemWidth (vtFmt h.vtype)) h.perReg ws).raise (flagsOf ws)

/-- Elements delivered to the tail of a queue (01 R23): in new entries, or in those that a stop left there (08 R190, 15 R322).
started tells that the instruction ends, or stops: it has then appended its entries, be it at its first element; one that
waits there has not (log 52). -/
def putQueue (n : BitVec 2) (stop : Stop) (pos : Nat) (ws : List VWrite) (h : Hart) : Hart :=
  let w := elemWidth (vtFmt h.vtype)
  let e := h.perReg
  let g := vtG h.vtype
  let q := h.queue n
  let l :=
    if resumesTail h n then
      q.take (q.length - g) ++ (q.drop (q.length - g)).mapIdx fun j x => writeReg w e j ws x
    else match stop, pos with
      | .stall, 0 => q
      | _, _ => q ++ (upTo 0 g).map fun j => writeReg w e j ws 0
  let tail := match stop, pos with
    | .trap _, 0 => some (n, h.pc, h.ctxid)
    | .stall, 0 => h.openTail
    | _, _ => if h.openTail == some (n, h.pc, h.ctxid) then none else h.openTail
  { h.setQueue n l with openTail := tail }.raise (flagsOf ws)

/-- Where a vector load delivers its elements. -/
inductive LoadDst where
  | reg (d : VReg)
  | queue (n : BitVec 2)

/-- Elements delivered to the destination of a load that stopped at an element, or ended (log 52). -/
def LoadDst.put (d : LoadDst) (stop : Stop) (pos : Nat) (ws : List VWrite) (h : Hart) : Hart :=
  match d with
  | .reg r => putGroup r ws h
  | .queue n => putQueue n stop pos ws h

/-- A load of elements each stored on its own (08 R188, R195). -/
def plainLoad (sc : Bool) (d : LoadDst) (ad : ElemAddr) (k : KReg) (n : Nat) (s : State) : Ended :=
  let h := s.hart
  let r := walkElems (loadElem h sc h.storedWidth ad) (h.active k h.ves.toNat) [] s
  endElems r.stop r.pos n (r.st.modHart (d.put r.stop r.pos r.acc.reverse))

/-- A scale byte read as any byte is; one with an uncorrectable error counts as NaN, and taints the farm (03 R64, 08 R211; log 55). -/
def readScale (va : Word) (s : State) : Access Nat :=
  let a := vectorActor s s.cur
  match loadAs a .load 1 va s, a.trans s .load va with
  | .trap t u, .ok _ _ entry => if t.code = 0x0E then .ok 0xFF (markLeaf u a.sp .load va.toNat entry) else .trap t u
  | r, _ => r

/-- An access of an element that follows another of the same element: where the second faults or waits, the first leaves nothing
behind, since the element is not performed (08 R210). -/
def elemPair {α β : Type} (p : State → Access α) (q : α → State → Access β) (s : State) : Access β :=
  (p s).bind fun x t =>
    match q x t with
    | .ok y u => .ok y u
    | .trap _ _ | .stall _ => q x s

/-- An element of a packed record: the written element, its block and the block's scale code. -/
structure PackedElem where
  w : VWrite
  block : Nat
  scale : Nat
  deriving DecidableEq, Repr

/-- The record of a block and the place of an element in it (08 R198). -/
def recordAt (base : Word) (len i : Nat) : Word := base + BitVec.ofNat 64 (i / 32 * len)
def packedAddr (base : Word) (t : ElemTy) (len : Nat) : ElemAddr := fun i =>
  let x := unitAddr (recordAt base len i + 1) (elemWidth t) (i % 32)
  x

/-- One element of a packed record read: codes under SC = 1 (08 R198), values under SC = 0 (08 R199; log 55). -/
def packedElem (h : Hart) (t : ElemTy) (len : Nat) (base : Word) (acc : List PackedElem) (i : Nat) (s : State) :
    Access PackedElem :=
  let scale (s : State) : Access Nat :=
    match acc with
    | p :: _ => if p.block = i / 32 then .ok p.scale s else readScale (recordAt base len i) s
    | [] => readScale (recordAt base len i) s
  elemPair scale (fun sc s =>
    (readElem (elemWidth t) (packedAddr base t len) i s).bind fun x s =>
      let fmt := vtFmt h.vtype
      let w : VWrite :=
        if vtSc h.vtype then { i := i, x := x, ok := sc != 0xFF, fl := 0 }
        else if sc = 0xFF then { i := i, x := 0, ok := true, fl := flagVINV }
        else
          let r := roundTo h.mode fmt (byScale (elemVal t x) sc false)
          { i := i, x := r.bits, ok := true, fl := r.flags }
      .ok { w := w, block := i / 32, scale := sc } s) s

/-- The scale bytes of loaded blocks written to v(d + G) (08 R198). -/
def putScales (d : VReg) (l : List PackedElem) (h : Hart) : Hart :=
  if l.isEmpty then h else
  let r := regPlus d (vtG h.vtype)
  let x := l.foldl (fun x p => putBits x (8 * p.block) 8 p.scale) (h.rv r).toNat
  h.setReg r (BitVec.ofNat 16384 x) (h.val.get ⟨r.toNat, r.isLt⟩)

/-- A load of packed MX records (08 R198, R199). -/
def packedLoad (t : ElemTy) (len : Nat) (d : LoadDst) (base : Word) (k : KReg) (s : State) : Ended :=
  let h := s.hart
  let r := walkElems (packedElem h t len base) (h.active k h.ves.toNat) [] s
  let l := r.acc.reverse
  endElems r.stop r.pos 4 (r.st.modHart fun x =>
    let x := d.put r.stop r.pos (l.map fun p => p.w) x
    match d with
    | .reg v => if vtSc h.vtype then putScales v l x else x
    | .queue _ => x)

/-- VLD and unit-stride VLDQ: packed records, or elements on their own. -/
def unitLoad (d : LoadDst) (a : GReg) (off : BitVec 5) (k : KReg) (s : State) : Ended :=
  let h := s.hart
  match packedType (vmfEnc h.vmf) with
  | some (t, len) => packedLoad t len d (h.unitBase a off) k s
  | none => plainLoad false d (unitAddr (h.unitBase a off) h.storedWidth) k 4 s

/-- An execution that begins once every write of the hart is performed (04 R88). -/
def onceWritten (s : State) (k : State → Ended) : Ended := if writesDone s then k s else .wait s

/-- What an element of a store writes: bytes, or one nibble of a byte (03 R54). -/
inductive Piece where
  | bytes (cells : List Host.Cell)
  | nibble (pa : Nat) (hi : Bool) (x : Nat)
  deriving DecidableEq, Repr

/-- A checked element of a store: what it writes, with its memory type and the reservation that holds it; its flags. -/
structure StoreElem where
  pieces : List (Piece × Nat × Option (Nat × Engine))
  fl : BitVec 6
  deriving DecidableEq, Repr

/-- Whether a nibble must wait until what its hart has written to the line is at its home, which then merges it, or until the hold
buffer has room for it after the elements before it (04 R79, 18 R369). -/
def nibbleWaits (s : State) (t : Target) (before : Nat) : Bool :=
  let ls := [lineOf t.pa]
  match t.hold with
  | none => (s.relaxed && mustRetry s (some s.cur) ls) || hostPending s (some s.cur) ls || (ownHeldAt s (some s.cur) ls).isSome
  | some _ => ownOnWay s (some s.cur) ls || decide (holdRoom s (lineOf t.pa) ≤ before)

/-- An element checked after some others of the same store, with what it is to write (08 R188, R211). -/
def storeElem (before w : Nat) (va : Word) (nib : Option Bool) (x : Nat) (fl : BitVec 6) (s : State) : Access StoreElem :=
  aligned (elemBytes w) va s <|
    (storeProbe (vectorActor s s.cur) (elemBytes w) va s).bind fun t s =>
      match nib with
      | none => .ok { pieces := [(.bytes (cellsOf (elemBytes w) t.pa x), t.ty, t.hold)], fl := fl } s
      | some hi =>
        if nibbleWaits s t before then .stall s
        else .ok { pieces := [(.nibble t.pa hi x, t.ty, t.hold)], fl := fl } s

/-- Bytes of one request accepted by their memory type. -/
def acceptCells (s : State) (ty : Nat) (cells : List Host.Cell) : State :=
  if cells.isEmpty then s else acceptWrite s (some s.cur) ty none cells

/-- Bytes of one request to each line, put on hold under a reservation, or on their way where the hold buffer is full (18 R369, R380). -/
def holdCells (s : State) (ty : Nat) (r : Nat × Engine) (cells : List Host.Cell) : State :=
  (nubNat (cells.map fun c => lineOf c.1)).foldl (fun s l =>
    acceptWrite s (some s.cur) ty (some r) (cells.filter fun c => lineOf c.1 == l)) s

/-- A nibble merged at its home after the hart's earlier bytes of the line, or put on hold (04 R79, R90). -/
def putNibble (s : State) (pa : Nat) (hi : Bool) (x : Nat) (hold : Option (Nat × Engine)) : State :=
  let act : HomeAction := .nibble pa hi (BitVec.ofNat 4 x)
  match hold with
  | some (tile, e) => holdAction s tile e (some s.cur) act
  | none => performAction (flushLine s s.cur (lineOf pa)) (some s.cur.tile) act

/-- Whether two pieces are the two nibbles of one byte that go to one place. -/
def pairs (p q : Piece × Nat × Option (Nat × Engine)) : Bool :=
  match p.1, q.1 with
  | .nibble a false _, .nibble b true _ => a == b && p.2 == q.2
  | _, _ => false

/-- The pieces of a unit-stride store with both nibbles of a byte joined. -/
def joinNibbles (l : List (Piece × Nat × Option (Nat × Engine))) : List (Piece × Nat × Option (Nat × Engine)) :=
  l.filterMap fun p =>
    match p.1 with
    | .bytes _ => some p
    | .nibble a false x =>
      (match l.find? (pairs p) with
       | some (.nibble _ _ y, _) => some (.bytes [(a, BitVec.ofNat 8 (x + 16 * y))], p.2)
       | _ => some p)
    | .nibble _ true _ => if l.any fun q => pairs q p then none else some p

/-- The bytes of pieces that go to one place. -/
def bytesOf (l : List (Piece × Nat × Option (Nat × Engine))) (goes : Nat × Option (Nat × Engine) → Bool) : List Host.Cell :=
  l.flatMap fun p => match p.1 with
    | .bytes c => if goes p.2 then c else []
    | .nibble _ _ _ => []

/-- The elements of a unit-stride store: each line and codeword that they cover reaches its home in one request, be it held or
not (18 R380, 19 R391), after single nibbles, which are merged one by one (03 R54). -/
def commitUnit (l : List StoreElem) (s : State) : State :=
  let ps := joinNibbles (l.flatMap fun x => x.pieces)
  let s := ps.foldl (fun s p => match p.1 with
    | .nibble a hi x => putNibble s a hi x p.2.2
    | .bytes _ => s) s
  let holds := (ps.filterMap fun p => p.2.2.map fun r => (p.2.1, r)).eraseDups
  let s := holds.foldl (fun s r => holdCells s r.1 r.2 (bytesOf ps fun x => x == (r.1, some r.2))) s
  let s := acceptCells s 1 (bytesOf ps fun x => x.1 == 1 && x.2.isNone)
  acceptCells s 0 (bytesOf ps fun x => x.1 != 1 && x.2.isNone)

/-- The elements of a store in other addressing forms, each a request of its own, in increasing order (08 R189). -/
def commitEach (l : List StoreElem) (s : State) : State := l.foldl (fun s x => commitUnit [x] s) s

/-- The flags of the elements performed (08 R190). -/
def storeFlags (l : List StoreElem) : BitVec 6 := l.foldl (fun f x => f ||| x.fl) 0

/-- The end of a store: its checked elements written, their flags, then the stop. -/
def endStore (unit : Bool) (n : Nat) (r : Walked StoreElem) : Ended :=
  let l := r.acc.reverse
  let s := if unit then commitUnit l r.st else commitEach l r.st
  endElems r.stop r.pos n (s.modHart fun h => h.raise (storeFlags l))

/-- The element of a data group as a store encodes it: code 0 in an invalid block of a scaled type (08 R194). -/
def Hart.stored (h : Hart) (d : VReg) (i : Nat) : FOut :=
  if vtSc h.vtype then { bits := if h.valid d h.perReg i then (h.elemAt d i).1 else 0, flags := 0 }
  else encodeElem h (vtFmt h.vtype) (h.elemAt d i).1

/-- A store of elements each on its own (08 R188, R196). -/
def plainStore (unit : Bool) (d : VReg) (ad : ElemAddr) (k : KReg) (n : Nat) (s : State) : Ended :=
  let h := s.hart
  endStore unit n (walkElems (fun acc i s =>
    let r := h.stored d i
    storeElem acc.length h.storedWidth (ad i).1 (ad i).2 r.bits r.flags s) (h.active k h.ves.toNat) [] s)

/-- An element of VST.sc: performed at once, with a ticket; where a reservation holds it, it waits (04 R88). -/
def storeElemSc (h : Hart) (d : VReg) (ad : ElemAddr) (_acc : List (BitVec 6)) (i : Nat) (s : State) : Access (BitVec 6) :=
  let r := h.stored d i
  aligned (elemBytes h.storedWidth) (ad i).1 s <|
    (storeProbe (vectorActor s s.cur) (elemBytes h.storedWidth) (ad i).1 s).bind fun t s =>
      let act : HomeAction := match (ad i).2 with
        | none => .write (cellsOf (elemBytes h.storedWidth) t.pa r.bits)
        | some hi => .nibble t.pa hi (BitVec.ofNat 4 r.bits)
      if t.hold.isSome || mustRetry s (some s.cur) (nubNat ((actionCells act).map fun c => lineOf c.1)) then .stall s
      else
        let s := performAction s (some s.cur.tile) act
        .ok r.flags { s with ticket := s.ticket + 1 }

/-- The codes and the scale of a block that a packed store writes (08 R198, R199): the scale code, and each element's code
and flags. -/
def packedBlock (h : Hart) (t : ElemTy) (d : VReg) (k : KReg) (b : Nat) : Nat × (Nat → FOut) :=
  if vtSc h.vtype then
    let sc := fld (h.rv (regPlus d (vtG h.vtype))).toNat (8 * b) 8
    let good := h.valid d h.perReg (32 * b) && sc != 0xFF
    (if good then sc else 0xFF, fun i => { bits := if good then (h.elemAt d i).1 else 0, flags := 0 })
  else
    let act := (h.active k 0).filter fun i => i / 32 == b
    let sc := blockScale t (act.map fun i => elemVal (vtFmt h.vtype) (h.elemAt d i).1)
    (sc, fun i =>
      if sc = 0xFF then { bits := 0, flags := flagNV }
      else roundTo (modeOf (vmfRnd h.vmf)) t (byScale (elemVal (vtFmt h.vtype) (h.elemAt d i).1) sc true))

/-- One element of a packed store, with its block's scale at the block's first element. -/
def packedStoreElem (h : Hart) (t : ElemTy) (len : Nat) (d : VReg) (base : Word) (k : KReg) (acc : List (Nat × StoreElem))
    (i : Nat) (s : State) : Access (Nat × StoreElem) :=
  let b := packedBlock h t d k (i / 32)
  let r := b.2 i
  let ad := packedAddr base t len i
  let elem (pre : List (Piece × Nat × Option (Nat × Engine))) (s : State) : Access (Nat × StoreElem) :=
    (storeElem acc.length (elemWidth t) ad.1 ad.2 r.bits r.flags s).bind fun x s => .ok (i / 32, { x with pieces := pre ++ x.pieces }) s
  if (match acc with | p :: _ => p.1 == i / 32 | [] => false) then elem [] s
  else elemPair (storeElem 0 8 (recordAt base len i) none b.1 0) (fun x s => elem x.pieces s) s

/-- A store of packed MX records (08 R198, R199). -/
def packedStore (t : ElemTy) (len : Nat) (d : VReg) (base : Word) (k : KReg) (s : State) : Ended :=
  let h := s.hart
  let r := walkElems (packedStoreElem h t len d base k) (h.active k h.ves.toNat) [] s
  endStore true 4 { acc := r.acc.map fun p => p.2, pos := r.pos, stop := r.stop, st := r.st }

/-- The bytes of one EXFP8 block, read until they decode, fail, or meet the bound (08 R201); fuel bounds their number (log
72). -/
def fetchBlock (ctab : Vector Word 4) (start : Word) : Nat → Nat → List Byte → State → Access (Option (List Nat × Nat))
  | 0, _, _, s => .ok none s
  | fuel + 1, left, got, s =>
    match readBlock ctab got with
    | .codes l => .ok (some (l, got.length)) s
    | .error => .ok none s
    | .more =>
      if left = 0 then .ok none s
      else (loadAs (vectorActor s s.cur) .load 1 (start + BitVec.ofNat 64 got.length) s).bind fun b s =>
        fetchBlock ctab start fuel (left - 1) (got ++ [BitVec.ofNat 8 b]) s

/-- What VLDZ has decoded: the bytes consumed, the blocks, whether it met a decode error. -/
structure Unpacked where
  pos : Nat
  blocks : Nat
  err : Bool
  ws : List VWrite
  deriving DecidableEq, Repr

/-- The loop of VLDZ (08 R201); fuel is the number of whole blocks that VL holds. A fault leaves what was delivered (log 55). -/
def unpackLoop (h : Hart) (ctab : Vector Word 4) (start : Word) (bound : Nat) (k : KReg) :
    Nat → Unpacked → State → Unpacked × Stop × State
  | 0, u, s => (u, .done, s)
  | fuel + 1, u, s =>
    if bound ≤ u.pos then (u, .done, s)
    else
      -- what marks a page is an element that is performed (08 R210)
      let unmarked (t : State) : State := { t with mem := s.mem }
      match fetchBlock ctab (start + BitVec.ofNat 64 u.pos) 51 (bound - u.pos) [] s with
      | .ok none s => ({ u with err := true }, .done, unmarked s)
      | .ok (some (l, n)) s =>
        let ws := ((l.mapIdx fun j c => (32 * u.blocks + j, c)).filter fun x => h.maskOn k x.1).map fun x =>
          let r := convElem h.mode .e4m3 (vtFmt h.vtype) x.2
          { i := x.1, x := r.bits, ok := true, fl := r.flags : VWrite }
        unpackLoop h ctab start bound k fuel { u with pos := u.pos + n, blocks := u.blocks + 1, ws := u.ws ++ ws } s
      | .trap t s => (u, .trap t, unmarked s)
      | .stall s => (u, .stall, s)

/-- The end of VLDZ and VSTZ, which never stop partway (08 R203): a trap leaves VL and G[p], and VES at 0 (log 55). -/
def endStream (stop : Stop) (vl : Nat) (p : GReg) (res : Nat) (s : State) : Ended :=
  match stop with
  | .done => .done 8 (s.modHart fun h => { h with ves := 0, vl := BitVec.ofNat 16 vl }.wg p (BitVec.ofNat 64 res))
  | .trap t => .fail t (s.modHart fun h => { h with ves := 0 })
  | .stall => .wait s

/-- The bytes of one block checked one by one (08 R203); what holds them is told for each. -/
def probeBytes (va : Word) : List Byte → State → Access (List (Target × Host.Cell))
  | [], s => .ok [] s
  | b :: t, s =>
    (storeProbe (vectorActor s s.cur) 1 va s).bind fun x s =>
      (probeBytes (va + 1) t s).bind fun l s => .ok ((x, (x.pa, b)) :: l) s

/-- A checked block written: the bytes that no reservation holds in one request. -/
def writeProbed (l : List (Target × Host.Cell)) (s : State) : State :=
  let s := (l.filterMap fun x => x.1.hold.map fun r => (x.1.ty, r)).eraseDups.foldl (fun s r =>
    holdCells s r.1 r.2 ((l.filter fun x => x.1.ty == r.1 && x.1.hold == some r.2).map fun x => x.2)) s
  let free (host : Bool) := (l.filter fun x => x.1.hold.isNone && (x.1.ty == 1) == host).map fun x => x.2
  acceptCells (acceptCells s 1 (free true)) 0 (free false)

/-- The loop of VSTZ over its blocks (08 R202): bytes written, blocks written, whether it met an error, flags. -/
def packLoop (h : Hart) (ctab : Vector Word 4) (d : VReg) (start : Word) (bound : Nat) (k : KReg) :
    Nat → Nat → Nat → BitVec 6 → State → (Nat × Nat × Bool × BitVec 6) × Stop × State
  | 0, pos, blocks, fl, s => ((pos, blocks, false, fl), .done, s)
  | fuel + 1, pos, blocks, fl, s =>
    let rs := (upTo (32 * blocks) 32).map fun i =>
      if i < h.vl.toNat ∧ h.maskOn k i = true then convElem (modeOf (vmfRnd h.vmf)) (vtFmt h.vtype) .e4m3 (h.elemAt d i).1
      else { bits := 0, flags := 0 }
    match writeBlock ctab (rs.map fun r => r.bits) with
    | none => ((pos, blocks, true, fl), .done, s)
    | some bytes =>
      if bound < pos + bytes.length then ((pos, blocks, true, fl), .done, s)
      else match probeBytes (start + BitVec.ofNat 64 pos) bytes s with
        | .ok l s' =>
          packLoop h ctab d start bound k fuel (pos + bytes.length) (blocks + 1) (rs.foldl (fun f r => f ||| r.flags) fl)
            (writeProbed l s')
        | .trap t _ => ((pos, blocks, false, fl), .trap t, s)
        | .stall s' => ((pos, blocks, false, fl), .stall, s')

/-- The address of an element of a vector atomic (08 R206). -/
def Hart.amoAddr (h : Hart) (a : GReg) (b : VAddr) : ElemAddr :=
  match b with
  | .unit off => unitAddr (h.unitBase a off) (elemWidth (vtFmt h.vtype))
  | .strided r => stridedAddr (h.rg a) (h.rg r)
  | .indexed v => indexedAddr h (h.rg a) v

/-- Whether MIN and MAX of a vector atomic read unsigned (08 R206). -/
def amoUnsigned (t : ElemTy) : Bool := !elemSigned t

/-- A returning vector atomic (08 R206): each element one atomic at its home, in increasing order. -/
def vamo (op : AmoOp) (d : VReg) (a : GReg) (b : VAddr) (k : KReg) (s : State) : Ended :=
    let h := s.hart
    let t := vtFmt h.vtype
    let w := elemWidth t
    let r := walkElems (fun (_ : List VWrite) i s =>
      let va := (h.amoAddr a b i).1
      (aligned (w / 8) va s (atomicAs (vectorActor s s.cur) (w / 8) va
        { op := op, uns := amoUnsigned t, x := BitVec.ofNat 64 (h.elemAt d i).1, expected := 0 } s)).bind fun old s =>
          .ok { i := i, x := old, ok := true, fl := 0 } s) (h.active k h.ves.toNat) [] s
    endElems r.stop r.pos 4 (r.st.modHart (putGroup d r.acc.reverse))

/-- An element of a non-returning vector atomic: performed at once, or held as a write (04 R90; log 56). -/
def postElem (op : AmoOp) (uns : Bool) (n : Nat) (va : Word) (x : Nat) (s : State) : Access Unit :=
  aligned n va s <|
    (storeProbe (vectorActor s s.cur) n va s).bind fun t s' =>
      match t.hold with
      | some (tile, e) =>
        if ownOnWay s' (some s'.cur) [lineOf t.pa] || holdFull s' (lineOf t.pa) then .stall s'
        else .ok () (holdAction s' tile e (some s'.cur) (.atomic op uns n t.pa (BitVec.ofNat 64 x) 0))
      | none => (atomicAs (vectorActor s s.cur) n va { op := op, uns := uns, x := BitVec.ofNat 64 x, expected := 0 } s).bind
          fun _ s => .ok () s

/-- A non-returning vector atomic (08 R206): the operand group is the group at v0. -/
def vpost (op : AmoOp) (a : GReg) (b : VAddr) (k : KReg) (s : State) : Ended :=
    let h := s.hart
    let t := vtFmt h.vtype
    let r := walkElems (fun (_ : List Unit) i s =>
      postElem op (amoUnsigned t) (elemWidth t / 8) (h.amoAddr a b i).1 (h.elemAt 0 i).1 s) (h.active k h.ves.toNat) [] s
    endElems r.stop r.pos 4 r.st

/-- An access to COUNT of a VCAPP that has reserved its slots, as its home meets it: one that a TRAP reservation refuses ends the
instruction, whose slots are lost (04 R90; log 54). -/
def cappMeet (pa : Nat) (write : Bool) (s : State) (k : State → Ended) : Ended :=
  match meetAt s (hartWho s s.cur) [lineOf (pa + 8)] write with
  | (some ident, s) => .fail (trapOf 0x09 ident) (s.modHart fun h => { h with capp := none })
  | (none, s) => k s

/-- The end of VCAPP once COUNT has reached the slots it reserved from and every earlier write of the hart is performed: a
release (08 R208, 04 R84; log 54). -/
def cappPublish (pa old n : Nat) (s : State) : Ended :=
  cappMeet pa true s fun s =>
    .done 4 ((performWrite s (some s.cur.tile) (cellsOf 8 (pa + 8) (old + n))).modHart fun h =>
      let v := h.vlmax.toNat
      let crosses := decide (0 < v) && decide (old / v < (old + n) / v)
      { h with ves := 0, capp := none, ulipend := if crosses then h.ulipend ||| 4 else h.ulipend })

/-- VCAPP that has reserved its slots: it publishes them when it may, and waits until then. -/
def cappWait (pa old n : Nat) (s : State) : Ended :=
  cappMeet pa false s fun s =>
    if physRead s 8 (pa + 8) = old ∧ writesDone s = true then cappPublish pa old n s
    else .wait (s.modHart fun h => { h with capp := some (pa, old) })

/-- Whether a queue object of n bytes at a virtual and a physical address lies in one page; without a translation, in one window
and one range (08 R207; log 54). -/
def onePage (p : Option Partition) (va pa n : Nat) (entry : Option (Nat × Nat × Nat)) : Bool :=
  match entry with
  | some (_, _, bits) => decide (va % 2 ^ bits + n ≤ 2 ^ bits)
  | none => windowOf pa == windowOf (pa + n - 1) && rangeOf p pa == rangeOf p (pa + n - 1)

/-- VCAPP on a queue object in memory (08 R208; log 54): the reservations on every line it writes are met first, then TAIL is
advanced and the slots written. -/
def cappAt (i : Instr) (a : Actor) (els : List Nat) (va : Word) (pa : Nat) (entry : Option (Nat × Nat × Nat)) (s : State) : Ended :=
  let n := els.length
  let cap := readOwn s a.hart 8 (pa + 16)
  let old := readOwn s a.hart 8 pa
  let whole := powerOfTwo cap 28 && onePage a.sp.part va.toNat pa (128 + 4 * cap) entry
  let slots := if whole then (els.mapIdx fun m e => cellsOf 4 (pa + 128 + 4 * ((old + m) % cap)) e).flatten else []
  let ls := nubNat (lineOf pa :: slots.map fun c => lineOf c.1)
  match conflict s a.who ls true with
  | .refuse ident => .fail (trapOf 0x09 ident) s
  | .hold _ _ => .wait (cutResvs s (splitCuts s a.who ls true))
  | .serve cuts =>
    if mustRetry s a.hart ls || hostPending s a.hart ls || (ownHeldAt s a.hart ls).isSome then
      .wait (refuseLines s (askerId a.hart) ls)
    else
    match badIn s pa 24 with
    | some b => .fail (badDataTrap b) (consumeBad s a.hart b)
    | none =>
      if !whole then .fail (illegal i) s else
      let s := markLeaf (completeLines (cutResvs s cuts) (askerId a.hart) ls) a.sp .store va.toNat entry
      let s := ls.foldl (fun s l => flushLine s s.cur l) s
      let s := performWrite s (some s.cur.tile) (cellsOf 8 pa (old + n))
      cappWait pa old n (performWrite s (some s.cur.tile) slots)

/-- The execution of a vector memory instruction (spec 08): what its elements do. -/
def memCore : Instr → State → Ended
  | .vld d a off k => unitLoad (.reg d) a off k
  | .vldSc d a off k => fun s => onceWritten s fun s =>
    plainLoad true (.reg d) (unitAddr (s.hart.unitBase a off) s.hart.storedWidth) k 4 s
  | .vlds d a b k => fun s => plainLoad false (.reg d) (stridedAddr (s.hart.rg a) (s.hart.rg b)) k 4 s
  | .vldx d a b k => fun s => plainLoad false (.reg d) (indexedAddr s.hart (s.hart.rg a) b) k 4 s
  | .vldq q a off k => unitLoad (.queue q) a off k
  | .vldqStrided q a b k => fun s => plainLoad false (.queue q) (stridedAddr (s.hart.rg a) (s.hart.rg b)) k 4 s
  | .vldqIndexed q a b k => fun s => plainLoad false (.queue q) (indexedAddr s.hart (s.hart.rg a) b) k 4 s
  | .vldsImmediate d a k stride => fun s => plainLoad false (.reg d) (stridedAddr (s.hart.rg a) (stride.signExtend 64)) k 8 s
  | .vst d a off k => fun s =>
    match packedType (vmfEnc s.hart.vmf) with
    | some (t, len) => packedStore t len d (s.hart.unitBase a off) k s
    | none => plainStore true d (unitAddr (s.hart.unitBase a off) s.hart.storedWidth) k 4 s
  | .vstSc d a off k => fun s => onceWritten s fun s =>
    let h := s.hart
    let r := walkElems (storeElemSc h d (unitAddr (h.unitBase a off) h.storedWidth)) (h.active k h.ves.toNat) [] s
    endElems r.stop r.pos 4 (r.st.modHart fun h => h.raise (r.acc.foldl (fun f x => f ||| x) 0))
  | .vsts d a b k => fun s => plainStore false d (stridedAddr (s.hart.rg a) (s.hart.rg b)) k 4 s
  | .vstx d a b k => fun s => plainStore false d (indexedAddr s.hart (s.hart.rg a) b) k 4 s
  | .vstsImmediate d a k stride => fun s => plainStore false d (stridedAddr (s.hart.rg a) (stride.signExtend 64)) k 8 s
  | .vldz d a p k off => fun s =>
    let h := s.hart
    let (u, stop, s) := unpackLoop h s.tile.ctab (h.rg a + off.signExtend 64) (h.rg p).toNat k (h.vl.toNat / 32)
      { pos := 0, blocks := 0, err := false, ws := [] } s
    let s := match stop with
      | .stall => s
      | _ => s.modHart (putGroup d u.ws)
    endStream stop (32 * u.blocks) p (u.pos + bit u.err * 2 ^ 63) s
  | .vstz d a p k off => fun s =>
    let h := s.hart
    let n := h.vl.toNat
    let (r, stop, s) := packLoop h s.tile.ctab d (h.rg a + off.signExtend 64) (h.rg p).toNat k ((n + 31) / 32) 0 0 0 s
    let s := s.modHart fun h => h.raise r.2.2.2
    let s := match stop with
      | .stall => if r.2.1 = 0 then s else s.modHart fun h => { h with inProgress := some (.vstz d a p k off) }
      | .done | .trap _ => s
    endStream stop (min n (32 * r.2.1)) p (r.1 + bit r.2.2.1 * 2 ^ 63) s
  | .vcopy d a k => fun s =>
    let h := s.hart
    let w := elemWidth (vtFmt h.vtype)
    endStore true 8 (walkElems (fun acc i s => elemPair (readElem w (unitAddr (h.rg a) w) i) (fun x s =>
      let ad := unitAddr (h.rg d) w i
      storeElem acc.length w ad.1 ad.2 x 0 s) s) (h.active k h.ves.toNat) [] s)
  | .vfill d p k => fun s =>
    let h := s.hart
    let w := elemWidth (vtFmt h.vtype)
    endStore true 8 (walkElems (fun acc i s =>
      let ad := unitAddr (h.rg d) w i
      storeElem acc.length w ad.1 ad.2 ((h.rg p).toNat % 2 ^ w) 0 s) (h.active k h.ves.toNat) [] s)
  | .vcapp a k => fun s =>
    let h := s.hart
    let va := h.rg a
    let act := vectorActor s s.cur
    let act := { act with sp := { act.sp with level := .u } }
    let els := h.active k 0
    match h.capp with
    | some (pa, old) => cappWait pa old els.length s
    | none =>
      if els.isEmpty then .done 4 (s.modHart fun h => { h with ves := 0 })
      else if va.toNat % 128 ≠ 0 then .fail (trapOf 0x04 va) s
      else match act.trans s .store va with
        | .trap t => .fail t (act.faulted .store t va s)
        | .ok pa ty entry =>
          if ty == 3 then .fail (ioReject .store va) s else cappAt (.vcapp a k) act els va pa entry s
  | .vamoadd d a b k => vamo .add d a b k
  | .vamoand d a b k => vamo .and d a b k
  | .vamoor d a b k => vamo .or d a b k
  | .vamoxor d a b k => vamo .xor d a b k
  | .vamomin d a b k => vamo .min d a b k
  | .vamomax d a b k => vamo .max d a b k
  | .vamoswp d a b k => vamo .swp d a b k
  | .vpostadd a b k => vpost .add a b k
  | .vpostand a b k => vpost .and a b k
  | .vpostor a b k => vpost .or a b k
  | .vpostxor a b k => vpost .xor a b k
  | .vpostmin a b k => vpost .min a b k
  | .vpostmax a b k => vpost .max a b k
  | .vpostswp a b k => vpost .swp a b k
  | _ => fun s => .wait s

def execVld (d : VReg) (a : GReg) (off : BitVec 5) (k : KReg) (s : State) : Out := vecMemRun memCore (.vld d a off k) s
/-- VLD.sc: after every earlier access of the hart is performed (04 R88). -/
def execVldSc (d : VReg) (a : GReg) (off : BitVec 5) (k : KReg) (s : State) : Out := vecMemRun memCore (.vldSc d a off k) s
def execVlds (d : VReg) (a b : GReg) (k : KReg) (s : State) : Out := vecMemRun memCore (.vlds d a b k) s
def execVldx (d : VReg) (a : GReg) (b : VReg) (k : KReg) (s : State) : Out := vecMemRun memCore (.vldx d a b k) s
def execVldq (q : BitVec 2) (a : GReg) (off : BitVec 5) (k : KReg) (s : State) : Out := vecMemRun memCore (.vldq q a off k) s
def execVldqStrided (q : BitVec 2) (a b : GReg) (k : KReg) (s : State) : Out := vecMemRun memCore (.vldqStrided q a b k) s
def execVldqIndexed (q : BitVec 2) (a : GReg) (b : VReg) (k : KReg) (s : State) : Out := vecMemRun memCore (.vldqIndexed q a b k) s
def execVldsImmediate (d : VReg) (a : GReg) (k : KReg) (stride : BitVec 32) (s : State) : Out := vecMemRun memCore (.vldsImmediate d a k stride) s
def execVst (d : VReg) (a : GReg) (off : BitVec 5) (k : KReg) (s : State) : Out := vecMemRun memCore (.vst d a off k) s
/-- VST.sc (04 R88). -/
def execVstSc (d : VReg) (a : GReg) (off : BitVec 5) (k : KReg) (s : State) : Out := vecMemRun memCore (.vstSc d a off k) s
def execVsts (d : VReg) (a b : GReg) (k : KReg) (s : State) : Out := vecMemRun memCore (.vsts d a b k) s
def execVstx (d : VReg) (a : GReg) (b : VReg) (k : KReg) (s : State) : Out := vecMemRun memCore (.vstx d a b k) s
def execVstsImmediate (d : VReg) (a : GReg) (k : KReg) (stride : BitVec 32) (s : State) : Out := vecMemRun memCore (.vstsImmediate d a k stride) s
/-- VLDZ (08 R200, R201). -/
def execVldz (d : VReg) (a p : GReg) (k : KReg) (off : BitVec 32) (s : State) : Out := vecMemRun memCore (.vldz d a p k off) s
/-- VSTZ (08 R200, R202). -/
def execVstz (d : VReg) (a p : GReg) (k : KReg) (off : BitVec 32) (s : State) : Out := vecMemRun memCore (.vstz d a p k off) s
/-- VCOPY (08 R205): elements of VTYPE's width, without conversion; every read comes before the first write. -/
def execVcopy (d a : GReg) (k : KReg) (s : State) : Out := vecMemRun memCore (.vcopy d a k) s
/-- VFILL (08 R205). -/
def execVfill (d p : GReg) (k : KReg) (s : State) : Out := vecMemRun memCore (.vfill d p k) s
/-- VCAPP (08 R207, R208): an agent that acts at U for the context that runs it (16 R329, R333); it ignores VES and does not
stop partway. With no active element it makes no access and no check of its object (log 54). -/
def execVcapp (a : GReg) (k : KReg) (s : State) : Out := vecMemRun memCore (.vcapp a k) s
def execVamoadd (d : VReg) (a : GReg) (b : VAddr) (k : KReg) (s : State) : Out := vecMemRun memCore (.vamoadd d a b k) s
def execVamoand (d : VReg) (a : GReg) (b : VAddr) (k : KReg) (s : State) : Out := vecMemRun memCore (.vamoand d a b k) s
def execVamoor (d : VReg) (a : GReg) (b : VAddr) (k : KReg) (s : State) : Out := vecMemRun memCore (.vamoor d a b k) s
def execVamoxor (d : VReg) (a : GReg) (b : VAddr) (k : KReg) (s : State) : Out := vecMemRun memCore (.vamoxor d a b k) s
def execVamomin (d : VReg) (a : GReg) (b : VAddr) (k : KReg) (s : State) : Out := vecMemRun memCore (.vamomin d a b k) s
def execVamomax (d : VReg) (a : GReg) (b : VAddr) (k : KReg) (s : State) : Out := vecMemRun memCore (.vamomax d a b k) s
def execVamoswp (d : VReg) (a : GReg) (b : VAddr) (k : KReg) (s : State) : Out := vecMemRun memCore (.vamoswp d a b k) s
def execVpostadd (a : GReg) (b : VAddr) (k : KReg) (s : State) : Out := vecMemRun memCore (.vpostadd a b k) s
def execVpostand (a : GReg) (b : VAddr) (k : KReg) (s : State) : Out := vecMemRun memCore (.vpostand a b k) s
def execVpostor (a : GReg) (b : VAddr) (k : KReg) (s : State) : Out := vecMemRun memCore (.vpostor a b k) s
def execVpostxor (a : GReg) (b : VAddr) (k : KReg) (s : State) : Out := vecMemRun memCore (.vpostxor a b k) s
def execVpostmin (a : GReg) (b : VAddr) (k : KReg) (s : State) : Out := vecMemRun memCore (.vpostmin a b k) s
def execVpostmax (a : GReg) (b : VAddr) (k : KReg) (s : State) : Out := vecMemRun memCore (.vpostmax a b k) s
def execVpostswp (a : GReg) (b : VAddr) (k : KReg) (s : State) : Out := vecMemRun memCore (.vpostswp a b k) s

end Sys2Proof.Machine
end

