-- ==== Sys2Proof/Machine/Remote.lean ====
section
/-! DEFINITION. Remote operations at their source and at their destination, barriers, and the creation of work (spec 10). -/

namespace Sys2Proof.Machine

/-- A synchronous remote instruction that has its answers leaves its batch. -/
def dropSync (s : State) (id : Nat) : State :=
  sendWaiting (s.modHart fun h =>
    { h with sync := none, batchWait := false, outstanding := h.outstanding.filter fun b => b.id != id }) s.cur

/-- A synchronous remote instruction (10 R229, R231): the open batch closed, a reporting point, its operations as a batch of
their own, and what it does once that batch is complete. -/
def syncRemote (ops : List RemoteOp) (stop : Option (Nat × Word))
    (finish : List BatchOp → Option (Nat × Word) → State → Out) (s : State) : Out :=
  match s.hart.sync with
  | some w =>
    (match s.hart.outstanding.find? fun b => b.id == w.batch with
     | some b => if b.complete then finish b.ops w.stop (dropSync s w.batch) else .next s
     | none => finish [] w.stop (dropSync s w.batch))
  | none =>
    closeBatch s fun s => reportFailures s fun s =>
      let h := s.hart
      if ops.isEmpty then finish [] stop s
      else if 32 ≤ h.outstanding.length then batchStall s
      else
        let b : Batch := { id := h.nextBatch, sync := true, ops := ops.map fun o => { op := o, res := none }, sent := false }
        let s := s.modHart fun h =>
          { h with nextBatch := h.nextBatch + 1, batchWait := false,
                   sync := some { pc := h.pc, batch := b.id, stop := stop } }
        .next (closeNow s s.cur b)

/-- The heap offset and the peer that a scalar form names (10 R226, R233). -/
def Hart.remoteOff (h : Hart) (a : GReg) (off : BitVec 23) : Word := h.rg a + off.signExtend 64
def Hart.peerOf (h : Hart) (p : GReg) : BitVec 16 := BitVec.ofNat 16 (h.rg p).toNat

/-- What a scalar form does with the answer to its operation of n bytes (10 R231, R233). -/
def finishScalar (n : Nat) (d : Option GReg) (st : Status) (ops : List BatchOp) (s : State) : Out :=
  match ops with
  | [] => .next s
  | o :: _ =>
    let r := o.res.getD { code := 0, val := 0 }
    let put (h : Hart) : Hart := match d with
      | some d => if r.code = 0 then h.wg d (extendBytes n false (r.val.toNat % 2 ^ (8 * n))) else h
      | none => h
    match st with
    | some g => .next (s.modHart fun h => ((put h).wg g (r.code.zeroExtend 64)).advance 8)
    | none =>
      if r.code = 0 then .next (s.modHart fun h => (put h).advance 8)
      else takeTrap s (trapOf 0x0D (remoteTval o.op r.code))

/-- A scalar remote instruction of n bytes (10 R233): d is its destination; batched tells the class (10 R229). A misaligned synchronous
form traps before it closes the open batch and reports earlier failures (log 57). -/
def scalarRemote (kind : RemoteKind) (n : Nat) (batched : Bool) (d : Option GReg) (st : Status) (a p : GReg)
    (off : BitVec 23) (s : State) : Out :=
  let h := s.hart
  let o := h.remoteOff a off
  if o.toNat % n ≠ 0 then takeTrap s (trapOf 0x04 o)
  else
    let op : RemoteOp := { kind := kind, peer := h.peerOf p, off := o.toNat, elem := 0 }
    if batched then appendOp s op fun s => .next (s.modHart fun h => h.advance 8)
    else syncRemote [op] none (fun ops _ s => finishScalar n d st ops s) s

def execRld (d a p : GReg) (sz : Size) (st : Status) (off : BitVec 23) (s : State) : Out :=
  scalarRemote (.load (sizeBytes sz)) (sizeBytes sz) false (some d) st a p off s

def execRst (c a p : GReg) (sz : Size) (st : Status) (off : BitVec 23) (s : State) : Out :=
  scalarRemote (.store (sizeBytes sz) (s.hart.rg c)) (sizeBytes sz) st.isNone none st a p off s

/-- RAMO of one operation (10 R233). -/
def ramo (op : AmoOp) (d c a p : GReg) (sz : WSize) (st : Status) (off : BitVec 23) (s : State) : Out :=
  scalarRemote (.atomic op (wsizeBytes sz) (s.hart.rg c) (s.hart.rg d)) (wsizeBytes sz) (st.isNone && d == 0) (some d) st a p
    off s

def execRamoadd (d c a p : GReg) (sz : WSize) (st : Status) (off : BitVec 23) (s : State) : Out := ramo .add d c a p sz st off s
def execRamoand (d c a p : GReg) (sz : WSize) (st : Status) (off : BitVec 23) (s : State) : Out := ramo .and d c a p sz st off s
def execRamoor (d c a p : GReg) (sz : WSize) (st : Status) (off : BitVec 23) (s : State) : Out := ramo .or d c a p sz st off s
def execRamoxor (d c a p : GReg) (sz : WSize) (st : Status) (off : BitVec 23) (s : State) : Out := ramo .xor d c a p sz st off s
def execRamomin (d c a p : GReg) (sz : WSize) (st : Status) (off : BitVec 23) (s : State) : Out := ramo .min d c a p sz st off s
def execRamomax (d c a p : GReg) (sz : WSize) (st : Status) (off : BitVec 23) (s : State) : Out := ramo .max d c a p sz st off s
def execRamoswp (d c a p : GReg) (sz : WSize) (st : Status) (off : BitVec 23) (s : State) : Out := ramo .swp d c a p sz st off s
def execRamocas (d c a p : GReg) (sz : WSize) (st : Status) (off : BitVec 23) (s : State) : Out := ramo .cas d c a p sz st off s

/-- RFENCE (10 R234). -/
def execRfence (s : State) : Out :=
  waitPerformed s fun s => closeBatch s fun s => waitBatches 0 s fun s => reportFailures s fun s =>
    .next (s.modHart fun h => h.advance 8)

/-- RBATCH (10 R235). -/
def execRbatch (s : State) : Out := closeBatch s fun s => .next (s.modHart fun h => { h with batchWait := false }.advance 4)

/-- RWAIT (10 R235). -/
def execRwait (n : BitVec 5) (s : State) : Out :=
  closeBatch s fun s => waitBatches n.toNat s fun s => reportFailures s fun s => .next (s.modHart fun h => h.advance 4)

/-- What a vector form does with the answers (10 R237): elements and status bits, then a stop, a failure, or the end. -/
def finishVector (d : Option VReg) (st : KStatus) (ops : List BatchOp) (stop : Option (Nat × Word)) (s : State) : Out :=
  let good (o : BatchOp) : Bool := match o.res with | some r => r.code == 0 | none => false
  let s := s.modHart fun h =>
    let h := match d with
      | none => h
      | some d =>
        let w := elemWidth (vtFmt h.vtype)
        h.writeElems d w h.perReg ((ops.filter good).map fun o =>
          { i := o.op.elem, x := (o.res.getD { code := 0, val := 0 }).val.toNat % 2 ^ w, ok := true, fl := 0 })
    match st with
    | none => h
    | some k => h.writeMask k (ops.map fun o => (o.op.elem, good o))
  let at' (i : Nat) : State := s.modHart fun h => { h with ves := BitVec.ofNat 16 i }
  match stop with
  | some (i, off) => takeTrap (at' i) (trapOf 0x04 off)
  | none =>
    match st, ({ id := 0, sync := true, ops := ops, sent := true } : Batch).firstFailure with
    | none, some (o, code) => takeTrap (at' o.elem) (trapOf 0x0D (remoteTval o code))
    | _, _ => .next ((at' 0).modHart fun h => h.advance 8)

/-- A vector remote instruction (10 R236, R237): the kind and the offset of each element, and whether offsets are checked. -/
def vectorRemote (i : Instr) (kind : Hart → Nat → RemoteKind) (off : Hart → Nat → Nat) (checked : Bool) (d : Option VReg)
    (p : VReg) (k : KReg) (st : KStatus) (s : State) : Out :=
  match vecTrap i s with
  | some t => takeTrap s t
  | none =>
    waitVq s <|
      let h := s.hart
      let n := elemWidth (vtFmt h.vtype) / 8
      let act := h.active k h.ves.toNat
      let stop := if checked then act.find? fun j => off h j % n != 0 else none
      let go := match stop with
        | some j => act.filter (· < j)
        | none => act
      let ops : List RemoteOp := go.map fun j =>
        { kind := kind h j, peer := BitVec.ofNat 16 (h.indexElem p j), off := off h j, elem := j }
      syncRemote ops (stop.map fun j => (j, BitVec.ofNat 64 (off h j))) (finishVector d st) s

def execRldx (d a p : VReg) (k : KReg) (st : KStatus) (s : State) : Out :=
  vectorRemote (.rldx d a p k st) (fun h _ => .load (elemWidth (vtFmt h.vtype) / 8)) (fun h j => h.indexElem a j) true
    (some d) p k st s
def execRstx (d a p : VReg) (k : KReg) (st : KStatus) (s : State) : Out :=
  vectorRemote (.rstx d a p k st)
    (fun h j => .store (elemWidth (vtFmt h.vtype) / 8) (BitVec.ofNat 64 (h.elemAt d j).1)) (fun h j => h.indexElem a j) true
    none p k st s
def execRapp (d : VReg) (a : GReg) (p : VReg) (k : KReg) (st : KStatus) (s : State) : Out :=
  vectorRemote (.rapp d a p k st) (fun h j => .append (BitVec.ofNat 64 (h.elemAt d j).1)) (fun h _ => (h.rg a).toNat) false
    none p k st s

/-- How one remote operation ends at its destination: with an answer, or it waits at its home, which refuses it for now or holds it: the
reservation, the line, and whether it is a write. -/
inductive OpEnd where
  | done (r : RemoteResult) (s : State)
  | wait (hold : Option (Nat × Engine × Nat × Bool)) (s : State)

/-- An operation that failed with a code. -/
def OpEnd.fail (code : BitVec 8) (s : State) : OpEnd := .done { code := code, val := 0 } s

/-- The context that serves a sub-batch: its partition, its number, its heap (10 R227, 16 R329). -/
structure Served where
  part : Partition
  ctx : BitVec 16
  heap : Nat

/-- The context that serves a sub-batch, by the destination's peer-group tables (16 R329, 18 R381; log 57). -/
def servedBy (s : State) (b : SubBatch) : Option Served :=
  if b.src = s.self then
    match partOf s b.hart.tile with
    | none => none
    | some p => (peerTable s p.num b.ctx).map fun t => { part := p, ctx := b.ctx, heap := t.heap }
  else
    match s.peerTables.find? fun t => t.peers.contains (b.src, b.ctx) with
    | none => none
    | some t => (partByNum s t.part).map fun p => { part := p, ctx := t.ctx, heap := t.heap }

/-- An access of a remote operation to n bytes of the heap: R227's checks, then the reservations (10 R227, R233; 04 R90; log
22). -/
def remoteAccess (s : State) (v : Served) (k : AccKind) (off n : Nat) (reads : Bool) (f : Nat → State → OpEnd) : OpEnd :=
  match heapAddr s .remote v.part v.ctx v.heap k off n with
  | (none, s) => .fail 4 s
  | (some pa, s) =>
    let ls := lineList pa n
    match conflict s .remote ls (k == .store) with
    | .refuse _ => .fail 4 s
    | .hold t e => .wait (some (t, e, lineOf pa, k == .store)) (cutResvs s (splitCuts s .remote ls (k == .store)))
    | .serve cuts =>
      if ls.any fun l => lineDenied s remoteId l then .wait none (refuseLines s remoteId ls) else
      let s := completeLines (cutResvs s cuts) remoteId ls
      if reads && (badIn s pa n).isSome then .fail 4 s else f pa s

/-- One element appended to a receive queue as one step at the queue's home (10 R239). -/
def appendElem (s : State) (v : Served) (src : BitVec 16) (off i : Nat) (x : Word) : OpEnd :=
  if off % 128 ≠ 0 then .fail 4 s else
  remoteAccess s v .store off 32 true fun q s =>
    let tail := physRead s 8 q
    let count := physRead s 8 (q + 8)
    let head := physRead s 8 (q + 16)
    let cap := physRead s 8 (q + 24)
    if !powerOfTwo cap 24 || decide (v.heap < off + 128 + 128 * cap) then .fail 4 s
    else if cap ≤ tail - head then .fail 3 s
    else if count ≠ tail then .wait none s
    else
      remoteAccess s v .store (off + 128 + 128 * (tail % cap)) 16 false fun slot s =>
        let s := performWrite s none (cellsOf 8 q ((tail + 1) % 2 ^ 64))
        let s := performWrite s none (cellsOf 16 slot (x.toNat + src.toNat * 2 ^ 64 + i % 2 ^ 16 * 2 ^ 80))
        .done { code := 0, val := 0 } (performWrite s none (cellsOf 8 (q + 8) ((tail + 1) % 2 ^ 64)))

/-- One remote operation at its destination (10 R233, R237, R239, R241). -/
def performOp (s : State) (v : Served) (src : BitVec 16) (o : RemoteOp) : OpEnd :=
  match o.kind with
  | .load n => remoteAccess s v .load o.off n true fun pa s =>
      .done { code := 0, val := BitVec.ofNat 64 (physRead s n pa) } s
  | .store n x => remoteAccess s v .store o.off n false fun pa s =>
      .done { code := 0, val := 0 } (performWrite s none (cellsOf n pa x.toNat))
  | .atomic op n x ex => remoteAccess s v .store o.off n true fun pa s =>
      let old := physRead s n pa
      .done { code := 0, val := BitVec.ofNat 64 old }
        (match amoNew op false (8 * n) old (x.toNat % 2 ^ (8 * n)) (ex.toNat % 2 ^ (8 * n)) with
         | some y => performWrite s none (cellsOf n pa y)
         | none => s)
  | .append x => appendElem s v src o.off o.elem x
  | .arrive => remoteAccess s v .store o.off 128 false fun pa s =>
      if (badIn s pa 23).isSome then .fail 4 s else .done { code := 0, val := 0 } (barrierArrive s pa true)

/-- n bytes of physical memory left with unpredictable values (10 R232; log 13). -/
def scribble (s : State) : Nat → Nat → State
  | 0, _ => s
  | n + 1, a =>
    let s := performWrite s none [(a, Config.freeByte s.draws)]
    scribble { s with draws := s.draws + 1 } n (a + 1)

/-- What an operation of a sub-batch that failed its check leaves (10 R232): the bytes that it addresses are unpredictable, and
a barrier arrival is a failed one. An append addresses the four fields of its queue and, where it would not fail, the slot that TAIL
names before anything is spoiled (log 13). -/
def spoilOp (old s : State) (v : Served) (before : List RemoteOp) (o : RemoteOp) : OpEnd :=
  let five : RemoteResult := { code := 5, val := 0 }
  let spoil (k : AccKind) (n : Nat) : OpEnd := remoteAccess s v k o.off n false fun pa s => .done five (scribble s n pa)
  match o.kind with
  | .load n => spoil .load n
  | .store n _ => spoil .store n
  | .atomic _ n _ _ => spoil .store n
  | .append _ =>
    let m := (before.filter fun x => x.off == o.off && (match x.kind with | .append _ => true | _ => false)).length
    if o.off % 128 ≠ 0 then .done five s else
    remoteAccess s v .store o.off 32 false fun q s =>
      let t := physRead old 8 q + m
      let cap := physRead old 8 (q + 24)
      let s := scribble s 32 q
      if !powerOfTwo cap 24 || decide (v.heap < o.off + 128 + 128 * cap) || decide (cap ≤ t - physRead old 8 (q + 16)) then .done five s
      else remoteAccess s v .store (o.off + 128 + 128 * (t % cap)) 16 false fun pa s => .done five (scribble s 16 pa)
  | .arrive => remoteAccess s v .store o.off 128 false fun pa s => .done five (barrierArrive s pa false)

/-- The operations of a sub-batch that failed its check, spoiled together: all of them, or none where one of them waits at its home, with
how it waits (10 R232, 04 R90; log 13). -/
def spoilOps (old : State) (v : Served) : List RemoteOp → List RemoteOp → State → OpEnd
  | _, [], s => .done { code := 5, val := 0 } s
  | before, o :: t, s =>
    match spoilOp old s v before o with
    | .wait w s => .wait w s
    | .done _ s => spoilOps old v (before ++ [o]) t s

/-- What operations of a sub-batch come to (10 R230): the answers, the operations left where one waits, how that one waits, the state. -/
structure OpsEnd where
  res : List RemoteResult
  left : List RemoteOp
  hold : Option (Nat × Engine × Nat × Bool)
  st : State

/-- The operations of a sub-batch in order up to one that waits (10 R230). -/
def performOps (v : Served) (src : BitVec 16) : List RemoteOp → State → OpsEnd
  | [], s => { res := [], left := [], hold := none, st := s }
  | o :: t, s =>
    match performOp s v src o with
    | .wait w s => { res := [], left := o :: t, hold := w, st := s }
    | .done r s =>
      let x := performOps v src t s
      { x with res := r :: x.res }

/-- Answers sent back to the source of a sub-batch (10 R233). -/
def replyTo (s : State) (b : SubBatch) (rs : List RemoteResult) : State :=
  if b.src = s.self then schedule s [.remoteReply b.hart b.batch s.self rs true]
  else { s with peerOut := s.peerOut ++ [.reply b.src b.hart b.batch rs] }

/-- The same answer to every operation of a sub-batch. -/
def answerAll (s : State) (b : SubBatch) (code : BitVec 8) : State :=
  replyTo s b (b.ops.map fun _ => { code := code, val := 0 })

/-- Whether a sub-batch of a hart waits at its destination: refused for now, or held (10 R230; log 73). -/
def batchWaits (s : State) (src : BitVec 16) (i : HartId) : Bool :=
  let same (b : SubBatch) : Bool := b.src == src && b.hart == i
  s.heldBatches.any same || s.held.any fun h => match h.event with
    | some (.subBatchArrival b) => same b
    | _ => false

/-- What is left of a sub-batch waits: in the hold buffer of the home that holds its first operation, unless that is full, else to be tried
again (18 R363, R369; log 56). -/
def keepBatch (s : State) (b : SubBatch) (hold : Option (Nat × Engine × Nat × Bool)) : State :=
  match hold with
  | some (t, e, l, write) =>
    if holdFull s l then { s with heldBatches := s.heldBatches ++ [b] }
    else { s with held := s.held ++ [heldEvent t e l write (.subBatchArrival b)] }
  | none => { s with heldBatches := s.heldBatches ++ [b] }

/-- A sub-batch at its destination (10 R229, R232; 18 R382): behind one of the same hart that waits, it waits too. -/
def subBatch (s : State) (b : SubBatch) : State :=
  if s.deadPairs.contains (b.src, b.ctx) then s else
  match servedBy s b with
  | none => answerAll s b 4
  | some v =>
    if s.deadCtxs.contains (v.part.num, v.ctx) then answerAll s b 2
    else if !(s.resvs.any fun r => fromHold s r) && batchWaits s b.src b.hart then { s with heldBatches := s.heldBatches ++ [b] }
    else if !b.intact then
      match spoilOps s v [] b.ops s with
      | .done _ s => answerAll s b 5
      | .wait w t => keepBatch { s with resvs := t.resvs, events := t.events, dir := t.dir, refused := t.refused, await := t.await } b w
    else
      let x := performOps v b.src b.ops s
      let s := if x.res.isEmpty && !b.ops.isEmpty then x.st else replyTo x.st b x.res
      if x.left.isEmpty then s else keepBatch s { b with ops := x.left } x.hold

def execSubBatchArrival (s : State) : Out :=
  match headEvent s with
  | some (.subBatchArrival b, s) => .next (subBatch s b)
  | _ => .next s

/-- Whether an operation went to the peer that an answer comes from. -/
def answers (s : State) (peer : BitVec 16) (o : RemoteOp) : Bool :=
  if isSelf s peer then isSelf s o.peer else o.peer == peer

/-- Whether a hart's BWAIT waits for the answers of a number. -/
def awaitsRead (h : Hart) (id : Nat) : Bool :=
  match h.bwait with
  | some (n, none) => n == id
  | _ => false

/-- The answers to a BWAIT's reads; those that fail their check have code 5 (10 R233; log 58). -/
def answerBwait (s : State) (i : HartId) (id : Nat) (rs : List RemoteResult) (intact : Bool) : State :=
  Machine.modHart s i fun h =>
    { h with bwait := some (id, some (rs.map fun r => if intact then r else { code := 5, val := 0 })) }

/-- A reply at the source (10 R233). -/
def execRemoteReply (s : State) : Out :=
  match headEvent s with
  | some (.remoteReply i id peer rs intact, s) =>
    .next (if awaitsRead (getHart s i) id then answerBwait s i id rs intact else enterReplies s i id (answers s peer) rs intact)
  | _ => .next s

/-- A batch complete (04 R96, 10 R229). -/
def execBatchCompletion (s : State) : Out :=
  match headEvent s with
  | some (.batchCompletion i id, s) => .next (completeBatch s i id)
  | _ => .next s

/-- A peer that does not answer: every operation of the batch to it that has no answer fails with code 1 (10 R228). -/
def execPeerUnreachable (s : State) : Out :=
  match headEvent s with
  | some (.peerUnreachable i id peer, s) =>
    let n := match (getHart s i).outstanding.find? fun b => b.id == id with
      | some b => b.ops.length
      | none => 1
    let rs : List RemoteResult := List.replicate n { code := 1, val := 0 }
    .next (if awaitsRead (getHart s i) id then answerBwait s i id rs true else enterReplies s i id (answers s peer) rs true)
  | _ => .next s

/-- A barrier arrival of a hart at the counting copy (10 R240); none is on its way when a TRAP reservation comes into force there (log
58). -/
def execBarrierArrival (s : State) : Out :=
  match headEvent s with
  | some (.barrierArrival pa good, s) =>
    .next (match meetAt s .agent [lineOf pa] true with
      | (some _, s) => s
      | (none, s) => barrierArrive s pa good)
  | _ => .next s

/-- The farm barrier's farm: the hart's, where it is a gang (10 R243, 01 R30). -/
def gangFarm (s : State) : Option (Membership × Farm) :=
  match s.hart.member with
  | none => none
  | some m =>
    match farmBy s m.farm with
    | none => none
    | some f => if f.packet.gang then some (m, f) else none

/-- An arrival at a remote counting copy placed last in the open batch, which is then closed (10 R241); done tells what
follows. -/
def arriveRemote (peer : BitVec 16) (off : Word) (done : Hart → Hart) (s : State) : Out :=
  let h := s.hart
  if off.toNat % 128 ≠ 0 then takeTrap s (trapOf 0x04 off)
  else if 32 ≤ h.outstanding.length then batchStall s
  else
    let b := h.openBatch.getD { id := h.nextBatch, sync := false, ops := [], sent := false }
    let b := { b with ops := b.ops ++ [{ op := { kind := .arrive, peer := peer, off := off.toNat, elem := 0 }, res := none }] }
    let s := s.modHart fun h =>
      { h with nextBatch := if h.openBatch.isNone then h.nextBatch + 1 else h.nextBatch, batchWait := false }
    .next ((closeNow s s.cur b).modHart done)

/-- The hart as it reads and writes by an instruction that is no scalar load, store or atomic: memory of type 3 rejects it (04 R76, 16
R333; log 58). -/
def wordActor (s : State) : Actor := { scalarActor s s.cur with agent := true }

/-- An arrival at the barrier object at an address (10 R241, steps 2 and 3). An object with HOME = 0xFFFF in memory of type 3
takes cause 0x08 with the store subcode, a choice: the spec names no outcome (log 58). -/
def arriveAt (va : Word) (done : Hart → Hart) (s : State) : Out :=
  let act := scalarActor s s.cur
  match aligned 2 (va + 20) s (loadAs act .load 2 (va + 20) s) with
  | .trap t s => takeTrap s t
  | .stall s => .next s
  | .ok home s =>
    if home ≠ 0xFFFF then arriveRemote (BitVec.ofNat 16 home) (va - s.hart.shbase) done s
    else
      (aligned 128 va s ((storeProbe act 128 va s).bind fun t s =>
        if t.ty == 3 then .trap (ioReject .store va) s
        else match badIn s t.pa 23 with
          | some b => .trap (badDataTrap b) (consumeBad s (some s.cur) b)
          | none => .ok t.pa s)).finish fun pa s => (schedule s [.barrierArrival pa true]).modHart done

/-- BARRIVE (10 R241, R243; log 58). -/
def execBarrive (a : GReg) (s : State) : Out :=
  waitPerformed s fun s =>
    if a = 0 then
      match gangFarm s with
      | none => takeTrap s (illegal (.barrive a))
      | some (m, _) =>
        .next ((modFarmHart s m fun x => { x with arrivals := x.arrivals + 1 }).modHart fun h => h.advance 4)
    else arriveAt (s.hart.rg a) (fun h => h.advance 4) s

/-- What ends a BWAIT on a barrier object whose PHASE, LASTFAIL and STATE are known (10 R242); none: it waits on (log 58). -/
def bwaitEnd (h : Hart) (d : GReg) (phase lastfail state : Nat) : Option Word :=
  if phase ≠ (h.rg d).toNat % 2 ^ 32 then some (BitVec.ofNat 64 lastfail)
  else if bitAt state 0 then some (1#64 <<< 63)
  else if h.sip.getLsbD 0 then some (1#64 <<< 62)
  else none

/-- A BWAIT that ends with a value, or waits. -/
def endBwait (d : GReg) (x : Option Word) (s : State) : Out :=
  match x with
  | some x => .next (s.modHart fun h => ({ h with bwait := none }.wg d x).advance 4)
  | none => .next (s.modHart fun h => { h with bwait := none })

/-- The remote reads of a BWAIT: PHASE, LASTFAIL and STATE of the counting copy (10 R242, R244; log 58). The
offset of a read that is not a multiple of its size traps at the source (R227). -/
def bwaitRemote (d : GReg) (peer : BitVec 16) (off : Nat) (s : State) : Out :=
  let h := s.hart
  match h.bwait with
  | some (_, some rs) =>
    let val (n : Nat) : Nat := (rs.getD n { code := 1, val := 0 }).val.toNat
    if rs.length == 3 && rs.all fun r => r.code == 0 then endBwait d (bwaitEnd h d (val 0) (val 1) (val 2)) s
    else endBwait d (some (1#64 <<< 63)) s
  | some (_, none) =>
    if peerDead s (partNum s s.cur.tile) h.ctxid peer then endBwait d (some (1#64 <<< 63)) s
    else if h.sip.getLsbD 0 then endBwait d (some (1#64 <<< 62)) s else .next s
  | none =>
    if (off + 12) % 4 ≠ 0 then takeTrap s (trapOf 0x04 (BitVec.ofNat 64 (off + 12)))
    else if (sourceFailure s (partNum s s.cur.tile) h.ctxid peer).isSome then endBwait d (some (1#64 <<< 63)) s
    else
      let op (k n : Nat) : RemoteOp := { kind := .load n, peer := peer, off := off + k, elem := 0 }
      let b : SubBatch := { src := s.self, ctx := h.ctxid, hart := s.cur, batch := h.nextBatch,
                            ops := [op 12 4, op 16 4, op 22 1], intact := true }
      let s := s.modHart fun h => { h with bwait := some (h.nextBatch, none), nextBatch := h.nextBatch + 1 }
      .next (if isSelf s peer then schedule s [.subBatchArrival b]
             else { s with peerOut := s.peerOut ++ [.subBatch peer b] })

/-- A field of n bytes of a barrier object at G[a] read by BWAIT (10 R242; log 57, 58). -/
def barrierField (va : Word) (k n : Nat) (s : State) : Access Nat :=
  aligned n (va + BitVec.ofNat 64 k) s (loadAs (wordActor s) .load n (va + BitVec.ofNat 64 k) s)

/-- BWAIT (10 R242, R243). -/
def execBwait (d a : GReg) (s : State) : Out :=
  if a = 0 then
    match gangFarm s with
    | none => takeTrap s (illegal (.bwait d a))
    | some (m, f) =>
      let mine := match f.harts[m.index]? with | some x => x.arrivals | none => 0
      if f.harts.all fun x => decide (mine ≤ x.arrivals) || x.exited then
        endBwait d (some (BitVec.ofNat 64 (f.harts.filter fun x => x.exited && decide (x.arrivals < mine)).length)) s
      else .next s
  else
    let va := s.hart.rg a
    match (barrierField va 20 2 s).bind fun home s =>
        if home ≠ 0xFFFF then .ok (home, none) s
        else (barrierField va 12 4 s).bind fun phase s => (barrierField va 16 4 s).bind fun last s =>
          (barrierField va 22 1 s).bind fun st s => .ok (home, some (phase, last, st)) s with
    | .trap t s => takeTrap s t
    | .stall s => .next s
    | .ok (home, none) s => bwaitRemote d (BitVec.ofNat 16 home) (va - s.hart.shbase).toNat s
    | .ok (_, some (phase, last, st)) s => endBwait d (bwaitEnd s.hart d phase last st) s

/-- TRIGGER (10 R245, 17 R356). -/
def execTrigger (s : State) : Out :=
  waitVq s <| closeBatch s fun s => waitBatches 0 s fun s => reportFailures s fun s => waitPerformed s fun s =>
    let s := match s.hart.member with
      | none => s
      | some m => checkTrigger (modFarmHart s m fun x => { x with triggered := true }) m.farm
    .next (s.modHart fun h => h.advance 4)

/-- n words of 8 bytes from an address, by loads of the hart. -/
def loadWords (a : Actor) : Nat → Word → State → Access (List Nat)
  | 0, _, s => .ok [] s
  | n + 1, va, s => (loadAs a .load 8 va s).bind fun x s => (loadWords a n (va + 8) s).bind fun t s => .ok (x :: t) s

/-- An access of the current hart's that hardware makes for it to some lines, as their homes meet it: cause 0x09 where a TRAP reservation
refuses it (04 R90). -/
def meetOwn (s : State) (lines : List Nat) (write : Bool) : Access Unit :=
  match meetAt s (hartWho s s.cur) lines write with
  | (some ident, s) => .trap (trapOf 0x09 ident) s
  | (none, s) => .ok () s

/-- What LAUNCH does with a packet that it has read (17 R346): the code for G[d], and the state after it. -/
def enqueue (s : State) (q : Nat) (words : List Nat) : Access Nat :=
  match partOf s s.cur.tile, queuePart s q with
  | some p, some o => (meetOwn s [lineOf (queueAddr o q)] false).bind fun _ s =>
    if p.num != o.num || !queueUsable s p q || !bitAt (queueCtl s p q) 5 || queueDevCtx s p q != s.hart.ctxid then .ok 2 s
    else
      let c := queueCounts s p q
      if c.tail.toNat - c.head.toNat = queueSize s p q then .ok 1 s
      else
        let slot := queueRing s p q + 128 * (c.tail.toNat % queueSize s p q)
        (meetOwn s [lineOf (queueAddr o q), lineOf slot] true).bind fun _ s =>
          let s := performWrite s none (cellsOfBytes slot (words.flatMap fun w => natBytes 8 w))
          .ok 0 (setCounts s p q { c with tail := c.tail + 1 })
  | _, _ => .ok 2 s

/-- LAUNCH (10 R246); no packet in memory of type 3 (04 R76). -/
def execLaunch (d a : GReg) (q : BitVec 10) (s : State) : Out :=
  waitPerformed s fun s =>
    let va := s.hart.rg a
    ((aligned 128 va s (loadWords (wordActor s) 16 va s)).bind fun words s => enqueue s q.toNat words).finish fun r s =>
      s.modHart fun h => (h.wg d (BitVec.ofNat 64 r)).advance 8

/-- CREC (10 R246); no record in memory of type 3 (04 R76). -/
def execCrec (d a : GReg) (s : State) : Out :=
  let va := s.hart.rg a
  (aligned 8 va s (loadAs (wordActor s) .load 8 va s)).finish fun x s =>
    s.modHart fun h => (h.wg d (BitVec.ofNat 64 x)).advance 8

end Sys2Proof.Machine
end

