-- ==== Sys2Proof/Machine/Channels.lean ====
section
/-! DEFINITION. The spatial fabric of a tile: regions, channels, ports, triggered PEs and their operations, region faults and
duplex mismatches (11 R247 to R252, R256 to R263, R417). -/

namespace Sys2Proof.Machine

/-- The fabric of a tile. -/
def fabricAt (s : State) (t : Nat) : Fabric := (tileAt s t).fabric

/-- The fabric of a tile replaced. -/
def setFabric (s : State) (t : Nat) (x : Fabric) : State := Machine.modTile s t fun y => { y with fabric := x }

/-- Whether the fabric is free: no region is resident and none is staged (11 R263). -/
def Fabric.free (x : Fabric) : Bool := x.regions.isEmpty && x.staged.isNone && x.swap.isNone

/-- A resident region by index. -/
def Fabric.region (x : Fabric) (r : Nat) : Option Region := x.regions.find? fun y => y.cfg.index == r

/-- The fabric with a resident region changed. -/
def Fabric.modRegion (x : Fabric) (r : Nat) (f : Region → Region) : Fabric :=
  { x with regions := x.regions.map fun y => if y.cfg.index == r then f y else y }

/-- The PEs that a region's record names, rising (11 R254). -/
def RegionCfg.pes (r : RegionCfg) : List Nat := (upTo 0 64).filter fun n => r.pemask.getLsbD n

/-- A PE of a region and, in a duplex region, its mirror (11 R261). -/
def RegionCfg.copies (r : RegionCfg) (n : Nat) : List Nat := if r.duplex then [n, n + 4] else [n]

/-- Every PE that a region occupies. -/
def RegionCfg.occupied (r : RegionCfg) : List Nat := r.pes.flatMap r.copies

/-- The resident region that occupies a PE, as primary or mirror. -/
def Fabric.occupant (x : Fabric) (n : Nat) : Option Region := x.regions.find? fun r => r.cfg.occupied.contains n

/-- The resident region whose record names a PE. -/
def Fabric.home (x : Fabric) (n : Nat) : Option Region := x.regions.find? fun r => r.cfg.pemask.getLsbD n && decide (n < 64)

/-- The copies of a PE of a resident region: none for a PE that no resident record names. -/
def Fabric.copies (x : Fabric) (n : Nat) : List Nat := match x.home n with | some r => r.cfg.copies n | none => []

/-- A PE's entry. -/
def Fabric.pe (x : Fabric) (n : Nat) : Option Pe := alGet x.pes n

/-- A resident PE changed. -/
def Fabric.modPe (x : Fabric) (n : Nat) (f : Pe → Pe) : Fabric :=
  match x.pe n with
  | some p => { x with pes := alSet x.pes n (f p) }
  | none => x

/-- An input and an output channel of a PE, and the PE with one replaced. -/
def Pe.inq (p : Pe) (ch : Nat) : List Token := p.ins.toList.getD ch []
def Pe.outq (p : Pe) (ch : Nat) : List Token := p.outs.toList.getD ch []
def Pe.setIn (p : Pe) (ch : Nat) (q : List Token) : Pe := { p with ins := p.ins.setIfInBounds ch q }
def Pe.setOut (p : Pe) (ch : Nat) (q : List Token) : Pe := { p with outs := p.outs.setIfInBounds ch q }

/-- The kinds of a PE's channels. -/
def PeCfg.inKind (c : PeCfg) (ch : Nat) : ChanKind := c.ins.getD ch .unused
def PeCfg.outKind (c : PeCfg) (ch : Nat) : ChanKind := c.outs.getD ch .unused

/-- Whether a channel end has a free data entry (11 R417). -/
def hasRoom (q : List Token) : Bool := decide (q.length < 4)

/-- A drain token enqueued: it never waits, and merges with one directly ahead of it (11 R417; log 63). -/
def pushDrain (q : List Token) : List Token := if q.getLast? = some .drain then q else q ++ [.drain]

/-- A token enqueued at a channel end; none where a data token finds no free data entry (11 R417). -/
def pushToken (q : List Token) (t : Token) : Option (List Token) :=
  match t with
  | .drain => some (pushDrain q)
  | .data _ _ => if hasRoom q then some (q ++ [t]) else none

/-- A token put into an input channel of every copy of a PE, as one; none where some copy has no room (11 R261). -/
def Fabric.pushIn (x : Fabric) (n ch : Nat) (t : Token) : Option Fabric :=
  let cs := x.copies n
  if cs.isEmpty || !(cs.all fun c => match x.pe c with | some p => (pushToken (p.inq ch) t).isSome | none => false) then none
  else some (cs.foldl (fun x c => x.modPe c fun p => p.setIn ch ((pushToken (p.inq ch) t).getD (p.inq ch))) x)

/-- The token at the head of an output channel as it leaves its region: none where it is empty; the tokens of the copies of a
duplex region, which must agree; a region stopped by a mismatch passes none (11 R261). -/
inductive Leaving where
  | none
  | token (t : Token)
  | mismatch (region : Nat)
  deriving DecidableEq, Repr

/-- What leaves by a channel, from the heads at the copies of a PE of a region (11 R261). -/
def leaves (region : Nat) : List (Option Token) → Leaving
  | [some a] => .token a
  | [some a, some b] => if a = b then .token a else .mismatch region
  | _ => .none

/-- What leaves by an output channel of a PE. The channels of a region stopped by a fault keep their tokens until something
takes them, as the spec does not say that they are closed: a choice (log 60). -/
def Fabric.leaving (x : Fabric) (n ch : Nat) : Leaving :=
  match x.home n with
  | none => .none
  | some r =>
    if r.barred then .none
    else leaves r.cfg.index ((r.cfg.copies n).map fun c => match x.pe c with | some p => (p.outq ch).head? | none => none)

/-- The head of an output channel removed from every copy. -/
def Fabric.dropOut (x : Fabric) (n ch : Nat) : Fabric :=
  (x.copies n).foldl (fun x c => x.modPe c fun p => p.setOut ch (p.outq ch).tail) x

/-- TVAL of a fabric mismatch (15 R311). -/
def mismatchTval (region pe ch : Nat) : Word := BitVec.ofNat 64 (2 ^ 63 + region * 2 ^ 16 + pe * 2 ^ 8 + ch)

/-- An event that the owning hart takes at a boundary (11 R260, R261; log 61). -/
def tellOwner (s : State) (t : Nat) (f : BitVec 16 → FabricEvent) : State :=
  match (fabricAt s t).owner with
  | none => s
  | some (h1, c) => Machine.modHart s ⟨t, h1⟩ fun h => { h with fabricEvents := h.fabricEvents ++ [f c] }

/-- A duplex mismatch told: cause 0x12 for the owning hart, the farm whose configuration it is tainted (11 R261; log 40). -/
def tellMismatch (s : State) (t region pe ch : Nat) : State :=
  let x := fabricAt s t
  let s := tellOwner s t fun c => .mismatch c (mismatchTval region pe ch)
  match x.owner with
  | none => s
  | some (_, c) =>
    let s := addLog s 0x04 2 (partNum s t) c t 0 0x12 0
    match x.farm with
    | some f => chargeFarm s f 0x04
    | none => s

/-- A duplex mismatch: the region stops, no token passes, the owning hart gets cause 0x12, its farm is tainted (11 R261; log
40). -/
def fabricMismatch (s : State) (t region pe ch : Nat) : State :=
  let x := fabricAt s t
  let s := setFabric s t (x.modRegion region fun r => { r with stopped := true, barred := true })
  tellMismatch s t region pe ch

/-- A fault record passed on from a region along fault edges (11 R260); fuel counts the ranks. Where FEDGE names a region that
is not resident, the record goes to the hart as it is: a choice (log 60). -/
def routeFault : Nat → State → Nat → Nat → Nat → State
  | 0, s, _, _, _ => s
  | fuel + 1, s, t, r, rec' =>
    let x := fabricAt s t
    let toHart := tellOwner s t fun c => .fault c (BitVec.ofNat 64 rec')
    match x.region r with
    | none => toHart
    | some reg =>
      match reg.cfg.fedge with
      | none => toHart
      | some f =>
        match x.region f with
        | none => toHart
        | some h =>
          let passOn := routeFault fuel s t f (rec' ||| 2 ^ 19)
          if h.stopped then passOn else
          match h.cfg.pes with
          | [] => passOn
          | n :: _ => match x.pushIn n 3 (.data (BitVec.ofNat 32 rec') 3) with
            | some x => setFabric s t x
            | none => passOn

/-- A region fault raised by a PE with a code: the region stops, its record goes along (11 R260). -/
def regionFault (s : State) (t r pe code : Nat) : State :=
  let s := setFabric s t ((fabricAt s t).modRegion r fun y => { y with stopped := true })
  routeFault 9 s t r (code % 64 + pe * 2 ^ 8 + r * 2 ^ 16)

/-- The data word and the tag at the head of an input. -/
def Pe.headData (p : Pe) (ch : Nat) : Option (BitVec 32 × BitVec 2) :=
  match (p.inq ch).head? with
  | some (.data w t) => some (w, t)
  | _ => none

/-- A source of a slot (11 R248): d registers, heads of inputs, constants. -/
def Pe.src (p : Pe) (c : Nat) : Nat :=
  if c < 8 then (p.d.toList.getD c 0).toNat
  else if c < 12 then (match p.headData (c - 8) with | some (w, _) => w.toNat | none => 0)
  else (p.cfg.consts.getD (c - 12) 0).toNat

/-- Whether a slot's guards hold (11 R249). -/
def Pe.ready (p : Pe) (w : Nat) : Bool :=
  bitAt w 63 && p.p.toNat &&& fld w 55 8 == fld w 47 8 &&
  ((upTo 0 4).all fun n => !bitAt w (43 + n) || (p.headData n).isSome) &&
  (!bitAt w 42 || (match p.headData (fld w 40 2) with | some (_, t) => t.toNat == fld w 38 2 | none => false)) &&
  (upTo 0 4).all fun n => !bitAt w (34 + n) || hasRoom (p.outq n)

/-- What an operation gives: its result, its flag, the floating-point flags it raises. -/
structure PeResult where
  r : Nat
  flag : Bool
  fl : BitVec 6
  deriving DecidableEq, Repr

/-- The operations of a fabric PE (11 R251): imm is imm6, tag that of the head that RTAG names (log 11). -/
def Pe.op (p : Pe) (op a b imm tag : Nat) : PeResult :=
  let f0 := bitAt imm 0
  let int (r : Int) (flag : Bool) : PeResult := { r := wrap 32 r, flag := flag, fl := 0 }
  let fp (o : FOut) (flag : Bool) : PeResult := { r := o.bits, flag := flag, fl := o.flags }
  let cmp (c : Bool) : PeResult := { r := 0, flag := c, fl := 0 }
  let f := fp32Form
  let x := f.decode a
  let y := f.decode b
  match op with
  | 0x00 => int a f0
  | 0x01 => int (a + b) f0
  | 0x02 => int ((a : Int) - b) f0
  | 0x03 => int (a * b) f0
  | 0x04 => int (a &&& b : Nat) f0
  | 0x05 => int (a ||| b : Nat) f0
  | 0x06 => int (a ^^^ b : Nat) f0
  | 0x07 => int (a * 2 ^ (b % 32) : Nat) f0
  | 0x08 => int (a / 2 ^ (b % 32) : Nat) f0
  | 0x09 => int (a + sint 6 imm) true
  | 0x0A => int (a * 2 ^ (imm % 32) : Nat) true
  | 0x0B => int (a / 2 ^ (imm % 32) : Nat) true
  | 0x0C => int (sint 32 a / (2 ^ (imm % 32) : Nat)) true
  | 0x0D => int (if sint 32 b < sint 32 a then b else a : Nat) f0
  | 0x0E => int (if sint 32 a < sint 32 b then b else a : Nat) f0
  | 0x0F => int (if p.p.getLsbD (imm % 8) then a else b : Nat) true
  | 0x10 => int (sint 6 imm) true
  | 0x11 => fp (f.addV .rne x y) f0
  | 0x12 => fp (f.addV .rne x y.neg) f0
  | 0x13 => fp (f.mulV .rne x y) f0
  | 0x14 => fp (f.fmaV .rne x y (f.decode (p.d.toList.getD (imm % 8) 0).toNat)) true
  | 0x15 => fp (f.minmax true a b) f0
  | 0x16 => fp (f.minmax false a b) f0
  | 0x17 => fp (f.exp2V .rne a) f0
  | 0x18 => fp (f.rcpV .rne a) f0
  | 0x19 =>
    let lo := bf16Form.convert .rne x
    let hi := bf16Form.convert .rne y
    { r := lo.bits + hi.bits * 2 ^ 16, flag := f0, fl := lo.flags ||| hi.flags }
  | 0x1A => fp (f.convert .rne (bf16Form.decode (fld a (16 * (imm % 2)) 16))) true
  | 0x1B => cmp (decide (a = b))
  | 0x1C => cmp (decide (sint 32 a < sint 32 b))
  | 0x1D => cmp (decide (a < b))
  | 0x1E => cmp (fRel .lt x y).1
  | 0x1F => cmp (fRel .eq x y).1
  | 0x20 => cmp f0
  | 0x21 => int tag f0
  | _ => { r := 0, flag := false, fl := 0 }

/-- Whether an operation writes DST (11 R251). -/
def opWrites (op : Nat) : Bool := decide (op < 0x1B) || op == 0x21

/-- The lowest ready slot of a PE fired (11 R249): the PE after it, the flags raised, the code of a FAULT. -/
def Pe.fire (p : Pe) : Option (Pe × BitVec 6 × Option Nat) :=
  match p.cfg.slots.find? fun w => p.ready w.toNat with
  | none => none
  | some w =>
    let w := w.toNat
    let op := fld w 28 6
    let sa := fld w 20 4
    let imm := fld w 0 6
    let tag := match p.headData (sa - 8) with | some (_, t) => t.toNat | none => 0
    let res := p.op op (p.src sa) (p.src (fld w 16 4)) imm tag
    let dst := fld w 24 4
    let p := if !opWrites op then p
      else if dst < 8 then { p with d := p.d.setIfInBounds dst (BitVec.ofNat 32 res.r) }
      else p.setOut (dst - 8) (p.outq (dst - 8) ++ [.data (BitVec.ofNat 32 res.r) (BitVec.ofNat 2 (fld w 6 2))])
    let p := (upTo 0 4).foldl (fun p n => if bitAt w (12 + n) then p.setIn n (p.inq n).tail else p) p
    let p := if bitAt w 11 then
        { p with p := BitVec.ofNat 8 (putBits p.p.toNat (fld w 8 3) 1 (bit res.flag)) }
      else p
    some (p, res.fl, if op = 0x22 then some imm else none)

/-- Whether a PE may act: its region is resident and not stopped, and it is not quiescent (11 R260, R266). -/
def Fabric.acts (x : Fabric) (n : Nat) : Bool :=
  match x.home n, x.pe n with
  | some r, some p => !r.stopped && !p.quiescent
  | _, _ => false

/-- Whether PE_FIRE has an occasion. -/
def Fabric.canFire (x : Fabric) (n : Nat) : Bool :=
  x.acts n && (match x.pe n with | some p => p.fire.isSome | none => false)

/-- A PE of a tile fires, with its mirror in step (11 R249, R252, R260, R261; log 60). -/
def peFire (s : State) (t n : Nat) : State :=
  let x := fabricAt s t
  if !x.canFire n then s else
  let (x, code) := (x.copies n).foldl (fun (x, code) c =>
    match (x.pe c).bind Pe.fire with
    | none => (x, code)
    | some (p, fl, fault) =>
      ({ x with pes := alSet x.pes c p, flags := x.flags ||| BitVec.ofNat 5 fl.toNat },
       match code with | some k => some k | none => fault.map fun k => (k, c))) ((x, none) : Fabric × Option (Nat × Nat))
  let s := setFabric s t x
  match code, x.home n with
  | some (k, c), some r => regionFault s t r.cfg.index c k
  | _, _ => s

/-- PE_FIRE (11 R249; log 10). -/
def execPeFire (s : State) : Out :=
  match headEvent s with
  | some (.peFire t n, s) => .next (peFire s t n.toNat)
  | _ => .next s

/-- A stream by its producer, while the producer's region is resident. -/
def Fabric.streamFrom (x : Fabric) (pe ch : Nat) : Option FStream :=
  x.streams.find? fun y => !y.prodGone && y.cfg.prodPe == pe && y.cfg.prodCh == ch

/-- The run of a stream replaced. -/
def Fabric.setRun (x : Fabric) (base : Nat) (q : List Token) : Fabric :=
  { x with streams := x.streams.map fun y => if y.base == base then { y with q := q } else y }

/-- The head of a stream's run moved to the consumer's input (11 R417). Where the consuming region has left, or its PE takes no token any
more as its region was discarded, the token is lost, so that the producer can drain: a choice (11 R265, R267; log 60). -/
def Fabric.fromRun (x : Fabric) (st : FStream) : Option Fabric :=
  match st.q with
  | [] => none
  | tok :: q =>
    if st.consGone || (match x.pe st.cfg.consPe with | some p => p.quiescent | none => true) then some (x.setRun st.base q)
    else (x.pushIn st.cfg.consPe st.cfg.consCh tok).map fun x => x.setRun st.base q

/-- The head of a run whose producer's region has left, moved to its consumer (11 R258, R266). -/
def Fabric.fromLeft (x : Fabric) (pe ch : Nat) : Option Fabric :=
  x.streams.findSome? fun y => if y.prodGone && y.cfg.prodPe == pe && y.cfg.prodCh == ch then x.fromRun y else none

/-- The producers by which the streams of regions that have left are named. -/
def Fabric.leftProducers (x : Fabric) : List (Nat × Nat) :=
  (x.streams.filter fun y => y.prodGone).map fun y => (y.cfg.prodPe, y.cfg.prodCh)

/-- The room of a stream's run (11 R258), with the merge of drain tokens of R417. -/
def runPush (depth : Nat) (q : List Token) (t : Token) : Option (List Token) :=
  if t = .drain ∧ q.getLast? = some .drain then some q else if q.length < depth then some (q ++ [t]) else none

/-- One move on a channel, named by its producer: across a wire, in both copies; or into and out of a stream's run
(11 R258, R261, R417). What a region that has left sent by it moves first. None: no token can move (log 60). -/
def Fabric.moveToken (x : Fabric) (pe ch : Nat) : Option (Fabric × Option Nat) :=
  match x.fromLeft pe ch with
  | some y => some (y, none)
  | none =>
  match x.streamFrom pe ch with
  | some st =>
    let out := x.fromRun st
    let x' := out.getD x
    let st' := (x'.streamFrom pe ch).getD st
    (match x'.leaving pe ch with
     | .mismatch r => some (x', some r)
     | .token tok =>
       (match runPush st.cfg.depth st'.q tok with
        | some q => some ((x'.dropOut pe ch).setRun st.base q, none)
        | none => out.map fun x => (x, none))
     | .none => out.map fun x => (x, none))
  | none =>
    match x.home pe, (x.pe pe).map fun p => p.cfg.outKind ch with
    | some r, some (ChanKind.wire n m) =>
      let moved := (r.cfg.copies pe).foldl (fun (y : Fabric × Bool) c =>
        let d := n + (c - pe)
        match (y.1.pe c).bind fun p => (p.outq ch).head?, y.1.pe d with
        | some tok, some q => match pushToken (q.inq m) tok with
          | some l => ((y.1.modPe c fun p => p.setOut ch (p.outq ch).tail).modPe d fun p => p.setIn m l, true)
          | none => y
        | _, _ => y) (x, false)
      if moved.2 then some (moved.1, none) else none
    | _, _ => none

/-- Whether TOKEN_TRANSFER has an occasion. -/
def Fabric.canMove (x : Fabric) (pe ch : Nat) : Bool := (x.moveToken pe ch).isSome

/-- TOKEN_TRANSFER (11 R417; log 10). -/
def execTokenTransfer (s : State) : Out :=
  match headEvent s with
  | some (.tokenTransfer t pe ch, s) =>
    let x := fabricAt s t
    .next (match x.moveToken pe.toNat ch.toNat with
      | some (x, none) => setFabric s t x
      | some (x, some r) => fabricMismatch (setFabric s t x) t r pe.toNat ch.toNat
      | none => s)
  | _ => .next s

/-- Whether another hart or context owns a tile's fabric (11 R263). -/
def Fabric.foreign (x : Fabric) (h1 : Bool) (c : BitVec 16) : Bool := !x.free && x.owner != some (h1, c)

/-- Whether an engine of a tile is bound to a port of a resident region. -/
def portBound (s : State) (t pe ch : Nat) (out : Bool) : Bool :=
  (upTo 0 4).any fun n => match engineAt s t (BitVec.ofNat 2 n) with
    | some e => e.bind == (if out then .fout pe ch false else .fin pe ch false)
    | none => false

/-- Whether a channel of a PE is a port of a resident region. -/
def Fabric.isPort (x : Fabric) (pe ch : Nat) (out : Bool) : Bool :=
  match x.home pe, x.pe pe with
  | some _, some p => (if out then p.cfg.outKind ch else p.cfg.inKind ch) == .port
  | _, _ => false

end Sys2Proof.Machine
end

