-- ==== Sys2Proof/Machine/Streams.lean ====
section
/-! DEFINITION. Stream engines: SOPEN with its reservation, SBIND, elements delivered and written, the end of a stream, SCLOSE and
SSTAT (11 R272 to R277; 04 R89 to R93; 18 R366, R368). -/

namespace Sys2Proof.Machine

/-- The number of elements of a stream (11 R272). -/
def StreamDesc.total (d : StreamDesc) : Nat := d.icnt * d.ocnt

/-- The address of element n (11 R272). -/
def StreamDesc.addr (d : StreamDesc) (n : Nat) : Word :=
  d.base + BitVec.ofNat 64 (n / d.icnt) * d.ostr + BitVec.ofNat 64 (n % d.icnt) * d.istr

/-- The bytes of an element. -/
def StreamDesc.size (d : StreamDesc) : Nat := 2 ^ d.esize

/-- The tag of element n (11 R272). -/
def StreamDesc.tag (d : StreamDesc) (n : Nat) : BitVec 2 :=
  if d.tagm == 2 && n + 1 == d.total then 2
  else if d.tagm != 0 && n % d.icnt + 1 == d.icnt then 1 else 0

/-- The address space of an engine: that of the context that opened it, at U (16 R329, R333; log 29). -/
def EngineState.space (s : State) (t : Nat) (e : Engine) (x : EngineState) : Space :=
  { level := .u, table := x.root, part := partByNum s x.part, who := .engine t e }

/-- How an access of an engine ends: with a value, with the cause that ends the stream, or it waits. -/
inductive EngineAcc where
  | ok (v : Nat) (s : State)
  | err (cause : BitVec 8) (s : State)
  | wait (s : State)

/-- The physical address of an engine's access: captured at SOPEN, or translated now (16 R341); an error: the cause that ends the stream
(16 R338). -/
def enginePhys (s : State) (t : Nat) (e : Engine) (x : EngineState) (k : AccKind) (va : Word) : Except (BitVec 8 × State) (Nat × State) :=
  match x.pages.find? fun p => p.1 == va.toNat / 2 ^ 16 with
  | some p => .ok (p.2 + va.toNat % 2 ^ 16, s)
  | none =>
    let sp := x.space s t e
    match agentTrans s sp k va with
    | .trap r => .error (r.code, failTrans s sp k va.toNat)
    | .ok pa ty entry =>
      if ty == 3 then .error (0x08, failTrans s sp k va.toNat) else .ok (pa, markLeaf s sp k va.toNat entry)

/-- An engine's access at its homes (04 R90, 16 R335, 18 R363): s' is the state with the marks of its leaf, s the one before them. One
outside the ranges of its partition, as a page captured at SOPEN may come to lie, is logged, and refused: out tells what follows (log 63). -/
def engineHome (s s' : State) (t : Nat) (e : Engine) (x : EngineState) (ls : List Nat) (write : Bool) (out k : State → EngineAcc) :
    EngineAcc :=
  match conflict s (.engine t e) ls write with
  | .refuse _ => .err 0x09 s
  | .hold u f =>
    .wait (ls.foldl (fun s l => awaitOn s { line := l, held := some (u, f, write) }) (cutResvs s (splitCuts s (.engine t e) ls write)))
  | .serve cuts =>
    match ls.find? fun l => (rangeOf (partByNum s x.part) (128 * l)).isNone with
    | some l => out (addLog s 0x0B 0 x.part x.ctx t (128 * l) (tileId t) x.part)
    | none =>
      if ls.any fun l => lineDenied s (tileId t) l then .wait (refuseLines s (tileId t) ls)
      else k (completeLines (cutResvs s' cuts) (tileId t) ls)

/-- n bytes read by an engine (11 R275, R276; 19 R392; log 63). -/
def engineRead (s : State) (t : Nat) (e : Engine) (x : EngineState) (n : Nat) (va : Word) : EngineAcc :=
  if va.toNat % n ≠ 0 then .err 0x04 s else
  match enginePhys s t e x .load va with
  | .error c => .err c.1 c.2
  | .ok (pa, s') =>
    engineHome s s' t e x (lineList pa n) false (fun s => .err 0x0E (taintHart s ⟨t, x.h1⟩ 0x0B)) fun s =>
      if (badIn s pa n).isSome then .err 0x0E s else .ok (physRead s n pa) s

/-- n bytes written by an engine (11 R275, R276; log 63). -/
def engineWrite (s : State) (t : Nat) (e : Engine) (x : EngineState) (n : Nat) (va : Word) (v : Nat) : EngineAcc :=
  if va.toNat % n ≠ 0 then .err 0x04 s else
  match enginePhys s t e x .store va with
  | .error c => .err c.1 c.2
  | .ok (pa, s') =>
    engineHome s s' t e x (lineList pa n) true (fun s => .ok 0 s) fun s => .ok 0 (performWrite s (some t) (cellsOf n pa v))

/-- An engine changed. -/
def modEngine (s : State) (t : Nat) (e : Engine) (f : EngineState → EngineState) : State :=
  match engineAt s t e with
  | some x => setEngine s t e (some (f x))
  | none => s

/-- The queue entry being formed closed, the rest of it zero (11 R274). -/
def EngineState.closeEntry (x : EngineState) : EngineState :=
  if x.partElems = 0 then x
  else { x with entries := x.entries ++ [x.partBits], entryFlags := x.entryFlags ++ [x.partFlags],
                partElems := 0, partBits := 0, partFlags := 0 }

/-- The end of a stream (11 R276): the drain token of a read stream, what a write stream discards, the stage word,
ULIPEND.STREAM (log 61). -/
def endEngine (s : State) (t : Nat) (e : Engine) (err : Bool) (cause : BitVec 8) (byDrain : Bool) : State :=
  match engineAt s t e with
  | none => s
  | some x =>
    let x := { x.closeEntry with done := true, err := err, cause := cause, half := none,
                                 discarding := x.wr && !byDrain, drained := x.drained || byDrain }
    let s := setEngine s t e (some x)
    let s := match x.bind with
      | .fin pe ch coming =>
        let f := fabricAt s t
        if x.wr then s
        else setFabric s t (if coming then { f with swapDrains := f.swapDrains ++ [(pe, ch)] } else (f.pushIn pe ch .drain).getD f)
      | _ => s
    let s := if x.desc.sbar = 0 then s else
      match agentStore s (.engine t e) (x.space s t e) 8 x.desc.sbar (x.count % 2 ^ 63 + bit err * 2 ^ 63) with
      | (true, s) => s
      | (false, s) => modEngine s t e fun x => { x with swf := true }
    Machine.modHart s ⟨t, x.h1⟩ fun h => { h with ulipend := h.ulipend ||| 1 }

/-- One element more; the last ends the stream. -/
def countElem (s : State) (t : Nat) (e : Engine) : State :=
  let s := modEngine s t e fun x => { x with count := x.count + 1, pos := x.pos + 1, half := none }
  match engineAt s t e with
  | some x => if x.count = x.desc.total then endEngine s t e false 0 false else s
  | none => s

/-- The bytes of the next EXFP8 block of a stream, one by one (11 R272, R276); none: a decode error. -/
def engineBlock (s : State) (t : Nat) (e : Engine) (x : EngineState) : Nat → List Byte → EngineAcc × Option (List Nat × Nat)
  | 0, _ => (.ok 0 s, none)
  | fuel + 1, got =>
    match readBlock (tileAt s t).ctab got with
    | .codes l => (.ok 0 s, some (l, got.length))
    | .error => (.ok 0 s, none)
    | .more =>
      if x.desc.bytes ≤ x.bytePos + got.length then (.ok 0 s, none)
      else match engineRead s t e x 1 (x.desc.base + BitVec.ofNat 64 (x.bytePos + got.length)) with
        | .ok b s => engineBlock s t e x fuel (got ++ [BitVec.ofNat 8 b])
        | .err c s => (.err c s, none)
        | .wait s => (.wait s, none)

/-- An element as it reaches its target: its bits and the flags of its conversion, which a fabric port drops, since only writes raise
flags there (11 R272, R274, R275; log 63). -/
def EngineState.convert (x : EngineState) (v : Nat) : FOut :=
  match x.desc.enc with
  | 0 => { bits := v, flags := 0 }
  | 1 => { bits := wrap (match x.bind with | .queue _ => 8 * x.desc.size | _ => 64) (sint (8 * x.desc.size) v), flags := 0 }
  | 2 => fp32Form.convert .rne (bf16Form.decode v)
  | _ =>
    match x.shape with
    | some q => convElem (modeOf q.frm.toNat) .e4m3 q.fmt v
    | none => convElem .rne .e4m3 .fp32 v

/-- A token put into the bound input port. -/
def toPort (s : State) (t pe ch : Nat) (w : Nat) (tag : BitVec 2) : Option State :=
  ((fabricAt s t).pushIn pe ch (.data (BitVec.ofNat 32 w) tag)).map fun x => setFabric s t x

/-- An element delivered (11 R274, R275). -/
def deliver (s : State) (t : Nat) (e : Engine) (x : EngineState) (v : Nat) : State :=
  let r := x.convert v
  match x.bind with
  | .fin pe ch _ =>
    let tag := x.desc.tag x.count
    if x.desc.esize = 3 ∧ x.desc.enc ≠ 3 then
      match toPort s t pe ch r.bits 0 with
      | some s => modEngine s t e fun x => { x with half := some (BitVec.ofNat 32 (r.bits / 2 ^ 32)) }
      | none => s
    else match toPort s t pe ch r.bits tag with
      | some s => countElem s t e
      | none => s
  | .queue _ =>
    let q := x.shape.getD { fmt := .i8, width := 8, perEntry := 1, frm := 0 }
    let s := modEngine s t e fun x =>
      let x := { x with partElems := x.partElems + 1, partFlags := x.partFlags ||| r.flags,
                        partBits := x.partBits ||| BitVec.ofNat 16384 (r.bits % 2 ^ q.width * 2 ^ (x.partElems * q.width)) }
      if q.perEntry ≤ x.partElems then x.closeEntry else x
    countElem s t e
  | _ => s

/-- Whether a read engine may deliver its next element: it is bound, every home has registered, there is room
(11 R273, R275, 01 R23; log 63). -/
def readReady (s : State) (t : Nat) (x : EngineState) : Bool :=
  !x.wr && !x.done && x.phase == .inUse && x.registering.isEmpty &&
  (match x.bind with
   | .fin pe ch false => ((fabricAt s t).pushIn pe ch (.data 0 0)).isSome
   | .queue _ => decide (x.entries.length < 4)
   | _ => false)

/-- The next element of a read engine (11 R275, R276). -/
def readStep (s : State) (t : Nat) (e : Engine) : State :=
  match engineAt s t e with
  | none => s
  | some x =>
    if !readReady s t x then s else
    match x.half, x.bind with
    | some hi, .fin pe ch _ =>
      (match toPort s t pe ch hi.toNat (x.desc.tag x.count) with
       | some s => countElem s t e
       | none => s)
    | _, _ =>
      if x.desc.enc = 3 then
        match x.pending with
        | c :: rest => deliver (modEngine s t e fun x => { x with pending := rest }) t e x c.toNat
        | [] =>
          match engineBlock s t e x 51 [] with
          | (.err c s, _) => endEngine s t e true c false
          | (.wait s, _) => s
          | (.ok _ s, none) => endEngine s t e true 0 false
          | (.ok _ s, some (l, n)) =>
            let s := modEngine s t e fun x =>
              { x with bytePos := x.bytePos + n, pending := (l.drop 1).map fun c => BitVec.ofNat 8 c }
            deliver s t e x (l.headD 0)
      else
        match engineRead s t e x x.desc.size (x.desc.addr x.count) with
        | .err c s => endEngine s t e true c false
        | .wait s => s
        | .ok v s => deliver s t e x v

/-- STREAM_READ_ELEMENT (11 R275). -/
def execStreamReadElement (s : State) : Out :=
  match headEvent s with
  | some (.streamReadElement t e, s) => .next (readStep s t e)
  | _ => .next s

/-- A token that a write engine takes (11 R275, R276). -/
def takeToken (s : State) (t : Nat) (e : Engine) (x : EngineState) (pe ch : Nat) (tok : Token) : State :=
  let drop (s : State) : State := setFabric s t ((fabricAt s t).dropOut pe ch)
  match tok with
  | .drain =>
    if x.discarding then modEngine (drop s) t e fun x => { x with discarding := false, drained := true }
    else if x.done then modEngine (drop s) t e fun x => { x with drained := true }
    else endEngine (drop s) t e false 0 true
  | .data w _ =>
    if x.discarding then drop s
    else if x.done then s
    else if x.desc.esize = 3 ∧ x.half.isNone then modEngine (drop s) t e fun x => { x with half := some w }
    else
      let v : FOut := match x.half with
        | some lo => { bits := lo.toNat + w.toNat * 2 ^ 32, flags := 0 }
        | none => if x.desc.enc = 2 then bf16Form.convert .rne (fp32Form.decode w.toNat) else { bits := w.toNat, flags := 0 }
      match engineWrite s t e x x.desc.size (x.desc.addr x.count) v.bits with
      | .err c s => endEngine s t e true c false
      | .wait s => s
      | .ok _ s =>
        let f := fabricAt (drop s) t
        countElem (setFabric s t { f with flags := f.flags ||| BitVec.ofNat 5 v.flags.toNat }) t e

/-- What leaves by the port of a write engine that is in use. -/
def writeHead (s : State) (t : Nat) (x : EngineState) : Leaving :=
  match x.bind with
  | .fout pe ch false => if x.wr && x.phase == .inUse && x.registering.isEmpty then (fabricAt s t).leaving pe ch else .none
  | _ => .none

/-- The next token of a write engine. -/
def writeStep (s : State) (t : Nat) (e : Engine) : State :=
  match engineAt s t e with
  | none => s
  | some x =>
    match writeHead s t x, x.bind with
    | .token tok, .fout pe ch _ => takeToken s t e x pe ch tok
    | .mismatch r, .fout pe ch _ => fabricMismatch s t r pe ch
    | _, _ => s

/-- STREAM_WRITE_ELEMENT (11 R275). -/
def execStreamWriteElement (s : State) : Out :=
  match headEvent s with
  | some (.streamWriteElement t e, s) => .next (writeStep s t e)
  | _ => .next s

/-- The descriptor that eight words give (11 R272). -/
def descOf (w : List Nat) : StreamDesc :=
  let f (n lo len : Nat) : Nat := fld (w.getD n 0) lo len
  { base := BitVec.ofNat 64 (f 0 0 64), icnt := f 1 0 32, ocnt := f 1 32 32, istr := BitVec.ofNat 64 (f 2 0 64),
    ostr := BitVec.ofNat 64 (f 3 0 64), esize := f 4 0 8, enc := f 4 8 8, tagm := f 4 16 8, rsv := bitAt (f 4 24 8) 0,
    bytes := f 4 32 32, sbar := BitVec.ofNat 64 (f 5 0 64) }

/-- Whether a descriptor keeps the rules of 11 R272 and suits the direction (R273). -/
def descOk (w : List Nat) (wr : Bool) : Bool :=
  let d := descOf w
  d.icnt != 0 && d.ocnt != 0 && (d.enc == 3 || decide (d.esize ≤ 3)) && decide (d.enc ≤ 3) && decide (d.tagm ≤ 2) &&
  fld (w.getD 4 0) 25 7 == 0 && (d.enc == 3 || d.bytes == 0) && d.sbar.toNat % 8 == 0 && w.getD 6 0 == 0 && w.getD 7 0 == 0 &&
  (d.enc != 3 || d.total % 32 == 0) && !(wr && (d.enc == 1 || d.enc == 3)) && !(d.enc == 2 && d.esize != 1)

/-- The ranges of addresses that the elements of a stream occupy (04 R89, 11 R272). -/
def StreamDesc.spans (d : StreamDesc) : List (Nat × Nat) :=
  if d.enc = 3 then (if d.bytes = 0 then [] else [(d.base.toNat, d.bytes)])
  else (upTo 0 d.total).map fun n => ((d.addr n).toNat, d.size)

/-- Every page of a range translated for an intent (16 R341): the captured pages, or the trap of the first that fails. -/
def capture (a : Actor) (k : AccKind) : List Nat → List (Nat × Nat) → State → Access (List (Nat × Nat))
  | [], acc, s => .ok acc s
  | va :: t, acc, s =>
    if acc.any fun p => p.1 == va / 2 ^ 16 then capture a k t acc s else
    match a.trans s k (BitVec.ofNat 64 va) with
    | .trap tr => .trap tr (a.faulted k tr (BitVec.ofNat 64 va) s)
    | .ok pa ty entry =>
      if ty == 3 then .trap { code := 0x08, sub := k.sub, tval := BitVec.ofNat 64 va, unres := false } s
      else capture a k t (acc ++ [(va / 2 ^ 16, pa / 2 ^ 16 * 2 ^ 16)]) (markLeaf s a.sp k va entry)

/-- The lines of a range whose pages are captured (04 R89). -/
def rangeLines (pages : List (Nat × Nat)) (spans : List (Nat × Nat)) : List Nat :=
  nubNat (spans.flatMap fun r => (upTo (r.1 / 128) ((r.1 + r.2 - 1) / 128 + 1 - r.1 / 128)).map fun l =>
    ((pages.find? fun p => p.1 == l / 512).map fun p => p.2 / 128 + l % 512).getD 0)

/-- The reservations with the lines at which they are still to be registered counted as theirs (04 R91). -/
def wholeRanges (s : State) : State :=
  { s with resvs := s.resvs.map fun r => match engineAt s r.tile r.e with
      | some x => { r with lines := r.lines ++ x.registering }
      | none => r }

/-- Whether a line's directory entry is full of reservations (18 R366). -/
def fullOfResvs (s : State) (l : Nat) : Bool :=
  let d := dirAt s l
  d.ptrs.length == 6 && d.ptrs.all fun p => match p with | .resv _ _ => true | .tile _ | .host => false

/-- Whether some home of a range has no free entry (18 R366): an entry counts from the start of its registration on. -/
def noEntry (s : State) (lines : List Nat) : Bool :=
  (lines.any fun l => fullOfResvs s l) ||
  (decide (16 ≤ s.resvs.length) && lines.any fun l =>
    decide (16 ≤ ((wholeRanges s).resvs.filter fun r => r.lines.any fun m => sliceOf s m == sliceOf s l).length))

/-- The harts that have writes to a line on the way to its home. -/
def writersOf (s : State) (l : Nat) : List HartId :=
  (listedHarts s).filter fun i =>
    let h := getHart s i
    h.sentLines.contains l || h.wcb.any fun c => lineOf c.1 == l

/-- Whether a barrier arrival of a hart is on its way to a line (10 R241; log 58). -/
def arrivalTo (s : State) (l : Nat) : Bool :=
  let here (e : Event) : Bool := match e with
    | .barrierArrival pa _ => lineOf pa == l
    | _ => false
  (s.events.any fun m => match m with | .event e => here e | _ => false) || s.waiting.any here ||
    s.held.any fun h => match h.event with | some e => here e | none => false

/-- Whether a vector instruction that is queued was given the page of a line at its issue, and none of its hart's reads is held
(01 R20; log 5, 56). -/
def queuedOn (s : State) (l : Nat) : Bool :=
  (listedHarts s).any fun i =>
    (getHart s i).vq.any (fun x => x.pages.any fun p =>
      let base := leafAddr p.leaf.toNat p.bits 0
      decide (base ≤ 128 * l) && decide (128 * l < base + 2 ^ p.bits)) && !s.held.any fun h => h.returns && h.hart == some i

/-- A home that must let what is on its way to a line arrive before it registers a reservation there: the buffers that hold bytes of it
are flushed, and the move waits; before a TRAP reservation also for vector instructions whose checks are made (04 R89, 01 R20; log 56,
70). -/
def settleLine (s : State) (pol : Policy) (l : Nat) : State :=
  let ws := writersOf s l
  if ws.isEmpty && !(s.hostWrites.any fun w => w.cells.any fun c => lineOf c.1 == l) && !arrivalTo s l &&
      !(pol == .trap && queuedOn s l) then s
  else awaitLine (schedule s (ws.map fun i => .writeCombineFlush i l)) l

/-- A reservation registered at one line (18 R366): a full entry loses its oldest tile or host pointer, which the home must first have
back; under write intent the home treats it as the line's one owner (04 R89). A home that is busy lets the move wait (log 70, 66). -/
def registerLine (s : State) (t : Nat) (e : Engine) (wi : Bool) (pol : Policy) (l : Nat) : State :=
  let s := settleLine (if lineBusy s l then awaitLine s l else s) pol l
  let s := if wi then invalidateOthers s none l else s
  let s := match (dirAt s l).room with
    | .evict p => awaitOn s { line := l, out := [p], evicts := true }
    | .free | .full => s
  let d := dirAt s l
  let s := setDir s l { d with ptrs := d.ptrs ++ [.resv t e] }
  { s with resvs := s.resvs.map fun r => if r.tile == t && r.e == e then { r with lines := r.lines ++ [l] } else r }

/-- RESERVATION_REGISTRATION: a home registers a line of a range; where every pointer of the line names a reservation it cannot,
the range registers nowhere, and SOPEN finds no free entry (04 R89, 18 R366). -/
def execReservationRegistration (s : State) : Out :=
  match headEvent s with
  | some (.reservationRegistration t e l, s) =>
    .next (match engineAt s t e with
      | some x =>
        if !x.registering.contains l then s
        else if fullOfResvs s l then setEngine (freeResv s t e) t e none
        else modEngine (registerLine s t e x.wr x.policy l) t e fun x => { x with registering := x.registering.filter (· ≠ l) }
      | none => s)
  | _ => .next s

/-- CUT_NOTICE: the holding engine frees its reservation at every home, and goes on without it (18 R368; log 10). -/
def execCutNotice (s : State) : Out :=
  match headEvent s with
  | some (.cutNotice t e, s) =>
    .next (if s.resvs.any fun r => r.tile == t && r.e == e && r.cut then
        modEngine (freeResv s t e) t e fun x => { x with registering := [] }
      else s)
  | _ => .next s

/-- RESERVATION_FREE: the homes perform what they hold under the reservation of an engine that SCLOSE closes, or that they have begun to
free, and free it (18 R369). -/
def execReservationFree (s : State) : Out :=
  match headEvent s with
  | some (.reservationFree t e, s) =>
    .next (if freeing s t e || (match engineAt s t e with | some x => x.phase == .closing | none => false) then freeResv s t e else s)
  | _ => .next s

/-- Whether the current hart holds an engine in its context (11 R277, 15 R325). -/
def holds (s : State) (e : Engine) : Option EngineState :=
  match engineAt s s.cur.tile e with
  | some x => if x.h1 == s.cur.h1 && x.ctx == s.hart.ctxid then some x else none
  | none => none

/-- An engine as SOPEN leaves it (11 R273). -/
def freshEngine (s : State) (wr : Bool) (pol : Policy) (d : StreamDesc) (pages : List (Nat × Nat)) : EngineState :=
  let h := s.hart
  { h1 := s.cur.h1, ctx := h.ctxid, phase := .inUse, wr := wr, policy := pol, desc := d,
    root := if h.translated then some (h.root, h.asid) else none, part := partNum s s.cur.tile, bind := .none, shape := none,
    count := 0, pos := 0, bytePos := 0, pending := [], half := none, partElems := 0, partBits := 0, entries := [],
    entryFlags := [], partFlags := 0, done := false, err := false, cause := 0, swf := false, discarding := false,
    drained := false, pages := pages, registering := [] }

/-- A reservation taken by SOPEN (11 R273, 04 R91): registered at every home at once, or, while effects may lag, line by line
(log 5). -/
def reserve (d : GReg) (e : Engine) (wr : Bool) (pol : Policy) (ds : StreamDesc) (s : State) : Out :=
  let k : AccKind := if wr then .store else .load
  let x := freshEngine s wr pol ds []
  let who := hartWho s s.cur
  let act : Actor := { who := who, sp := { x.space s s.cur.tile e with who := who }, hart := some s.cur, agent := true }
  match capture act k (ds.spans.flatMap fun r => probes r.1 r.2) [] s with
  | .trap t s => takeTrap s t
  | .stall s => .next s
  | .ok pages s =>
    let lines := rangeLines pages ds.spans
    match conflict (wholeRanges s) who lines wr with
    | .refuse ident => takeTrap s (trapOf 0x09 ident)
    | .hold _ _ => .next (cutResvs s (splitCuts (wholeRanges s) who lines wr))
    | .serve cuts =>
      if noEntry s lines then .next (s.modHart fun h => (h.wg d 2).advance 8) else
      let s := cutResvs s cuts
      let h := s.hart
      let r : Resv := { tile := s.cur.tile, e := e, h1 := s.cur.h1, part := partNum s s.cur.tile, ctx := h.ctxid,
                        asid := h.asid, wi := wr, policy := pol, lines := [], cut := false }
      let s := { s with resvs := s.resvs ++ [r] }
      if s.relaxed then
        let s := setEngine s s.cur.tile e (some { x with pages := pages, phase := .opening, registering := lines })
        .next (schedule s (lines.map fun l => .reservationRegistration s.cur.tile e l))
      else
        let s := lines.foldl (fun s l => registerLine s s.cur.tile e wr pol l) s
        let s := setEngine s s.cur.tile e (some { x with pages := pages })
        .next (s.modHart fun h => (h.wg d 0).advance 8)

/-- SOPEN (11 R273). -/
def execSopen (d a : GReg) (e : Engine) (wr : Bool) (pol : Policy) (s : State) : Out :=
  waitPerformed s fun s =>
    let done (code : Word) (s : State) : Out := .next (s.modHart fun h => (h.wg d code).advance 8)
    match holds s e with
    | some x =>
      if x.phase == .opening then
        if x.registering.isEmpty then done 0 (modEngine s s.cur.tile e fun x => { x with phase := .inUse }) else .next s
      else sopenRead s done
    | none => sopenRead s done
where
  /-- The descriptor read, which memory of type 3 rejects (04 R76), and what follows from it, once the homes have freed what was reserved
  for the engine. -/
  sopenRead (s : State) (done : Word → State → Out) : Out :=
    let va := s.hart.rg a
    if freeing s s.cur.tile e then .next s else
    match aligned 64 va s (loadWords (wordActor s) 8 va s) with
    | .trap t s => takeTrap s t
    | .stall s => .next s
    | .ok w s =>
      if (engineAt s s.cur.tile e).isSome || (e == 0 && s.tile.seqr.isSome) then done 1 s
      else if !descOk w wr then done 3 s
      else if (descOf w).rsv then reserve d e wr pol (descOf w) s
      else done 0 (setEngine s s.cur.tile e (some (freshEngine s wr pol (descOf w) [])))

/-- Whether a channel is a port of a region that the swap in progress brings in. -/
def comingPort (x : Fabric) (pe ch : Nat) (out : Bool) : Bool :=
  match x.swap with
  | some w => w.1.pes.any fun c => c.pe == pe && (if out then c.outKind ch else c.inKind ch) == .port
  | none => false

/-- Whether a fabric channel may be bound (11 R274): a port of a region of the swap in progress, or of a resident one, that no
engine has; true with whether the region is still to come. -/
def bindable (s : State) (t pe ch : Nat) (out : Bool) : Option Bool :=
  let x := fabricAt s t
  let taken (coming : Bool) : Bool := (upTo 0 4).any fun n => match engineAt s t (BitVec.ofNat 2 n) with
    | some y => y.bind == (if out then .fout pe ch coming else .fin pe ch coming)
    | none => false
  if comingPort x pe ch out then (if taken true then none else some true)
  else if x.isPort pe ch out && !taken false then some false else none

/-- Code 4 of SBIND (11 R274): whether a queue of the current type suits the stream (log 63). -/
def queueSuits (h : Hart) (d : StreamDesc) : Bool :=
  let t := vtFmt h.vtype
  !h.ill && (match d.enc with
    | 2 => elemWidth t == 32
    | 3 => TypeClass.floatNarrow.has t
    | _ => 8 * d.size == elemWidth t)

/-- SBIND (11 R274). -/
def execSbind (d : GReg) (e : Engine) (b : BindTarget) (s : State) : Out :=
  let t := s.cur.tile
  let h := s.hart
  let done (code : Word) (s : State) : Out := .next (s.modHart fun h => (h.wg d code).advance 8)
  let isQueue := match b with | .queue _ => true | _ => false
  if !isQueue && (fabricAt s t).foreign s.cur.h1 h.ctxid then takeTrap s (illegal (.sbind d e b))
  else match holds s e with
    | none => done 1 s
    | some x =>
      if x.bind != .none then done 1 s
      else if x.wr != (match b with | .fout _ _ => true | _ => false) then done 2 s
      else match b with
        | .fin pe ch =>
          (match bindable s t pe.toNat ch.toNat false with
           | some c => done 0 (modEngine s t e fun x => { x with bind := .fin pe.toNat ch.toNat c })
           | none => done 3 s)
        | .fout pe ch =>
          (match bindable s t pe.toNat ch.toNat true with
           | some c => done 0 (modEngine s t e fun x => { x with bind := .fout pe.toNat ch.toNat c })
           | none => done 3 s)
        | .queue n =>
          if (boundEngine s s.cur n.toNat).isSome then done 3 s
          else if !queueSuits h x.desc then done 4 s
          else done 0 (modEngine s t e fun x => { x with
            bind := .queue n,
            shape := some { fmt := vtFmt h.vtype, width := elemWidth (vtFmt h.vtype), perEntry := h.perReg, frm := h.frm } })

/-- What SSTAT reads of a held engine (11 R277). -/
def sstatWord (x : EngineState) : Word :=
  BitVec.ofNat 64 (bit x.err * 2 ^ 63 + bit x.done * 2 ^ 62 + 2 ^ 61 + bit x.swf * 2 ^ 60 + x.cause.toNat * 2 ^ 48 +
    x.count % 2 ^ 40)

/-- What SCLOSE does to an engine that it closes before it waits for the homes: the stream ends, and the homes are asked to free its
reservation, which they do later while effects may lag (11 R277, 04 R93, 18 R369; log 5). -/
def beginClose (s : State) (e : Engine) (x : EngineState) : State :=
  let t := s.cur.tile
  let s := if x.done then s else endEngine s t e false 0 false
  let s := modEngine s t e fun x => { x with phase := .closing }
  if s.relaxed then (if s.resvs.any (fun r => r.tile == t && r.e == e) then schedule s [.reservationFree t e] else s) else freeResv s t e

/-- SCLOSE (11 R277, 04 R93): it retires once every home has performed what it held and freed the reservation (18 R369; log 5). -/
def execSclose (d : GReg) (e : Engine) (s : State) : Out :=
  waitPerformed s fun s =>
    let t := s.cur.tile
    match holds s e with
    | none => .next (s.modHart fun h => (h.wg d 0).advance 8)
    | some x =>
      let s := if x.phase == .closing then s else beginClose s e x
      if s.resvs.any (fun r => r.tile == t && r.e == e) then .next s
      else
        let v := match engineAt s t e with | some x => sstatWord x | none => 0
        .next ((releaseEngine s t e).modHart fun h => (h.wg d v).advance 8)

/-- SSTAT (11 R277). -/
def execSstat (d : GReg) (e : Engine) (s : State) : Out :=
  .next (s.modHart fun h => (h.wg d (match holds s e with | some x => sstatWord x | none => 0)).advance 8)

end Sys2Proof.Machine
end

