-- ==== Sys2Proof/Machine/Coherence.lean ====
section
/-! DEFINITION. The coherence protocol as the homes run it (18 R360 to R369), the host as a sharer (18 R376 to R378), host memory
over CXL.cache (04 R99, 16 R342), the flush of a write-combining buffer (04 R78), the kill across packages (18 R382). -/

namespace Sys2Proof.Machine

/-- A write or an atomic of a tile performed and acknowledged with the old value (18 R362). -/
def performReq (s : State) (q : HomeReq) : State :=
  let old := match q.action with
    | .atomic _ _ n a _ _ => physRead s n a
    | _ => 0
  let s := performAction s (some q.tile) q.action
  let s := modDir s q.line fun d => d.completed (reqId q) q.age
  schedule s [.writeAcknowledgement q (BitVec.ofNat 64 old)]

/-- Who a tile's request acts for, as the reservations see it (04 R90). -/
def reqWho (s : State) (q : HomeReq) : Accessor := hartWho s ⟨q.tile, q.h1⟩

/-- A hart's write that is no longer in flight; bytes that its buffer took in the meantime are sent next (04 R78). -/
def writeLanded (s : State) (q : HomeReq) : State :=
  let i : HartId := ⟨q.tile, q.h1⟩
  let s := Machine.modHart s i fun h => { h with sentLines := h.sentLines.erase q.line }
  if (getHart s i).wcb.any fun c => lineOf c.1 == q.line then schedule s [.writeCombineFlush i q.line] else s

/-- Whether a request lies in a range of its requester's partition (16 R335). -/
def inPartition (s : State) (q : HomeReq) : Bool := (rangeOf (partOf s q.tile) (128 * q.line)).isSome

/-- The record of a hart's request to a line outside the ranges of its partition (16 R335, 19 R406; log 40). -/
def logOutside (s : State) (i : HartId) (l : Nat) : State :=
  addLog s 0x0B 0 (partNum s i.tile) (getHart s i).ctxid i.tile (128 * l) (tileId i.tile) (partNum s i.tile)

/-- A request outside its partition (16 R335): logged; a fill returns poison and taints its reader, a write is dropped (log
40, 66). -/
def outsidePartition (s : State) (q : HomeReq) : State :=
  let i : HartId := ⟨q.tile, q.h1⟩
  let s := logOutside s i q.line
  if isFill q then taintHart s i 0x0B else writeLanded s q

/-- A fill at its home (18 R362, R367 to R369; log 66). -/
def serveFill (s : State) (q : HomeReq) : State :=
  if !inPartition s q then outsidePartition s q else
  let d := dirAt s q.line
  if mustRefuse d q then refuseReq s q true else
  match conflict s (reqWho s q) [q.line] false with
  | .refuse _ => s
  | .hold t e =>
    let s := cutResvs s (splitCuts s (reqWho s q) [q.line] false)
    if holdFull s q.line then refuseReq s q false
    else { s with held := s.held ++ [{ tile := t, e := e, hart := none, action := .fill, returns := false, fill := some q }] }
  | .serve cuts => answerFill (cutResvs s cuts) q

/-- FILL_REQUEST (18 R362). -/
def execFillRequest (s : State) : Out :=
  match headEvent s with
  | some (.fillRequest q, s) => .next (serveFill s q)
  | _ => .next s

/-- A write or an atomic at its home (18 R362, R367 to R369), behind the hart's own writes that are held there (01 R22). One that meets a
TRAP reservation is refused with its identity and not sent again: its hart traps (04 R90; log 56, 66). -/
def serveWrite (s : State) (q : HomeReq) : State :=
  if !inPartition s q then outsidePartition s q else
  let d := dirAt s q.line
  let i : HartId := ⟨q.tile, q.h1⟩
  if mustRefuse d q then refuseReq s q true else
  let go (s : State) : State :=
    let out := (dirAt s q.line).others (some q.tile)
    if out.isEmpty then performReq s q else becomeBusy s q.line out (.req q)
  let hold (s : State) (t : Nat) (e : Engine) : State :=
    if holdFull s q.line then refuseReq s q false
    else schedule (holdAction s t e (some i) q.action) [.holdAcknowledgement q]
  match conflict s (reqWho s q) [q.line] true with
  | .refuse ident =>
    Machine.modHart (writeLanded s q) i fun h => { h with trapWait := some (h.trapWait.getD (trapOf 0x09 ident)) }
  | .hold t e => hold (cutResvs s (splitCuts s (reqWho s q) [q.line] true)) t e
  | .serve cuts =>
    match ownHeldAt s (some i) [q.line] with
    | some (t, e) => hold (cutResvs s cuts) t e
    | none => go (cutResvs s cuts)

/-- WRITE_REQUEST (18 R362). -/
def execWriteRequest (s : State) : Out :=
  match headEvent s with
  | some (.writeRequest q, s) => .next (serveWrite s q)
  | _ => .next s

/-- Whether the host may reach a line: it lies in a range of a partition that the host may use (16 R335, 18 R378). -/
def hostAllowed (s : State) (a : Nat) : Bool :=
  s.parts.any fun p => match rangeOf (some p) a with | some r => r.host | none => false

/-- The line as the host reads it: 64 bytes, or the poison indication (18 R377, R380). -/
def hostData (s : State) (addr : Nat) : HostMsg :=
  let a := addr / 64 * 64
  if (badIn s a 64).isSome then .poison addr else .data addr (memBytes s.mem 64 a)

/-- A host read answered, with the host pointer where the entry has room. -/
def answerHost (s : State) (addr : Nat) (cacheable : Bool) : State :=
  let s := if cacheable then modDir s (lineOf addr) fun d => addPtr d .host else s
  { s with hostOut := s.hostOut ++ [hostData s addr] }

/-- A host write performed at the home: the tiles' copies are gone, the host's pointer stays (18 R377). -/
def performHost (s : State) (addr : Nat) (data : List Byte) : State :=
  let l := lineOf addr
  let ptrs := (dirAt s l).ptrs.filter fun p => match p with | .tile _ => false | _ => true
  let s := modDir s l fun d => { d with ptrs := ptrs.filter fun p => p != .host }
  let s := performWrite s none (cellsOfBytes addr data)
  let s := modDir s l fun d => { d with ptrs := ptrs }
  { s with hostOut := s.hostOut ++ [.done addr] }

/-- A host request served when its line is not busy (18 R362, R377, R378; 04 R90). -/
def serveHost (s : State) (addr : Nat) (data : Option (List Byte)) : State :=
  if !s.ready || !hostAllowed s addr then { s with hostOut := s.hostOut ++ [.poison addr] } else
  let l := lineOf addr
  let s := match conflict s .host [l] data.isSome with
    | .serve cuts => cutResvs s cuts
    | _ => s
  match data with
  | none =>
    match (dirAt s l).room with
    | .free => answerHost s addr true
    | .evict p => becomeBusy s l [p] (.hostRead addr)
    | .full => answerHost s addr false
  | some bytes =>
    let out := (dirAt s l).ptrs.filter fun p => match p with | .tile _ => true | _ => false
    if out.isEmpty then performHost s addr bytes else becomeBusy s l out (.hostWrite bytes addr)

/-- The host requests that the bridge holds, tried in arrival order: each is served once its line is not busy. -/
def serveBridge : List (Nat × Option (List Byte)) → State → State
  | [], s => s
  | (a, d) :: t, s =>
    if lineBusy s (lineOf a) then serveBridge t { s with bridge := s.bridge ++ [(a, d)] }
    else serveBridge t (serveHost s a d)

/-- The bridge after a line may have become free. -/
def drainBridge (s : State) : State := if s.bridge.isEmpty then s else serveBridge s.bridge { s with bridge := [] }

/-- Whether a host address is a register of BAR0, the first 1 MiB of the device register window (18 R376). -/
def inBar0 (a : Nat) : Bool := decide (deviceBase ≤ a) && decide (a < deviceBase + 2 ^ 20)

/-- A read or write of registers through BAR0 (18 R376; 21 R412); a read answers the aligned 8 bytes (log 32, 16). -/
def hostRegister (s : State) (a : Nat) (data : Option (List Byte)) : State :=
  let off := a - deviceBase
  match data with
  | none => { s with hostOut := s.hostOut ++ [.data a (natBytes 8 (devRead s (off / 8 * 8) 8))] }
  | some bytes => { devWrite (afterHostWrites s) none off bytes.length (bytesNat bytes) with hostOut := s.hostOut ++ [.done a] }

/-- HOST_REQUEST: a CXL.mem read or write of bytes within one line, or an access to BAR0, once the link has trained
(18 R362, R376, R377; 21 R412; log 32). -/
def execHostRequest (s : State) : Out :=
  match headEvent s with
  | some (.hostRequest a d, s) =>
    .next (if !s.link then s
      else if inBar0 a then hostRegister s a d
      else drainBridge { s with bridge := s.bridge ++ [(a, d)] })
  | _ => .next s

/-- The transaction that waited at a home completed: the copies that were invalidated are gone (18 R362). -/
def completeWaiting (s : State) (l : Nat) (w : Waiting) (gone : DirPtr) : State :=
  let s := modDir s l fun d => { d with busy := none }
  let drop (s : State) (f : DirPtr → Bool) : State := modDir s l fun d => { d with ptrs := d.ptrs.filter fun p => !f p }
  match w with
  | .req q =>
    match q.action with
    | .fill => sendFill (drop s fun p => p == gone) q true
    | .read _ _ | .write _ | .nibble _ _ _ | .atomic _ _ _ _ _ _ =>
      performReq (drop s fun p => p.isCopy && p != .tile q.tile) q
  | .again writer => drop s fun p => p.isCopy && writer.map DirPtr.tile != some p
  | .evict => drop s fun p => p == gone
  | .hostRead a => answerHost (drop s fun p => p == gone) a true
  | .hostWrite bytes a => performHost s a bytes

/-- An acknowledgement counted at a busy home that waits for it (18 R362, R365). -/
def countAck (s : State) (l : Nat) (gone : DirPtr) : State :=
  match (dirAt s l).busy with
  | none => s
  | some (out, w) =>
    if !out.contains gone then s
    else if out.erase gone = [] then drainBridge (completeWaiting s l w gone)
    else modDir s l fun d => { d with busy := some (out.erase gone, w) }

/-- INVALIDATION_ACKNOWLEDGEMENT (18 R362). -/
def execInvalidationAcknowledgement (s : State) : Out :=
  match headEvent s with
  | some (.invalidationAcknowledgement l t, s) => .next (countAck s l (.tile t))
  | _ => .next s

/-- EVICTION_NOTICE: a tile has dropped a line; its pointer is removed, without a reply (18 R362, R365). -/
def execEvictionNotice (s : State) : Out :=
  match headEvent s with
  | some (.evictionNotice l t, s) =>
    .next (modDir (dropLine s t l) l fun d => { d with ptrs := d.ptrs.filter fun p => p != .tile t })
  | _ => .next s

/-- INVALIDATION: a tile drops a line, marks a fill in flight stale, and acknowledges (18 R362, R365). -/
def execInvalidation (s : State) : Out :=
  match headEvent s with
  | some (.invalidation l t, s) =>
    .next (schedule (dropCopy s t l) [.invalidationAcknowledgement l t])
  | _ => .next s

/-- A line installed in a tile's caches (log 18). -/
def installLine (s : State) (t l : Nat) : State :=
  Machine.modTile s t fun x => { x with lines := if x.lines.contains l then x.lines else x.lines ++ [l] }

/-- FILL_RESPONSE: the line is installed unless it is stale or uncacheable (18 R362, R365; 19 R404). -/
def execFillResponse (s : State) : Out :=
  match headEvent s with
  | some (.fillResponse q c, s) =>
    let s := sampleRefusals s q.tile q.age
    .next (if (tileAt s q.tile).staleFills.contains q.line then
        Machine.modTile s q.tile fun x => { x with staleFills := x.staleFills.erase q.line }
      else if c then installLine s q.tile q.line else s)
  | _ => .next s

/-- WRITE_ACKNOWLEDGEMENT: a requester with a pointer installs the line that comes back (18 R362; 19 R404). -/
def execWriteAcknowledgement (s : State) : Out :=
  match headEvent s with
  | some (.writeAcknowledgement q _, s) =>
    let s := sampleRefusals s q.tile q.age
    .next (writeLanded (if (dirAt s q.line).ptrs.contains (.tile q.tile) then installLine s q.tile q.line else s) q)
  | _ => .next s

/-- HOLD_ACKNOWLEDGEMENT: the write is held under WAIT and counted so (18 R369). -/
def execHoldAcknowledgement (s : State) : Out :=
  match headEvent s with
  | some (.holdAcknowledgement q, s) => .next (writeLanded s q)
  | _ => .next s

/-- REQUEST_REFUSAL: the requester counts it in AGE, up to 255, and backs off (18 R363). -/
def execRequestRefusal (s : State) : Out :=
  match headEvent s with
  | some (.requestRefusal q, s) =>
    let q := { q with age := min 255 (q.age + 1) }
    .next (schedule { s with backoffs := s.backoffs ++ [q] } [.retryBackoffExpiry q])
  | _ => .next s

/-- RETRY_BACKOFF_EXPIRY: the request is sent again (18 R363). -/
def execRetryBackoffExpiry (s : State) : Out :=
  match headEvent s with
  | some (.retryBackoffExpiry q, s) =>
    .next (if s.backoffs.contains q then schedule { s with backoffs := s.backoffs.erase q } [reqEvent q] else s)
  | _ => .next s

/-- BACK_INVALIDATE_RESPONSE: the host has given a line up; its pointer is removed, and a home that waits for the host's copy
counts it. One that finds no pointer is discarded (18 R365, R377). -/
def execBackInvalidateResponse (s : State) : Out :=
  match headEvent s with
  | some (.backInvalidateResponse l, s) =>
    let d := dirAt s l
    .next (if d.ptrs.contains .host then
        countAck (modDir s l fun d => { d with ptrs := d.ptrs.filter fun p => p != .host }) l .host
      else s)
  | _ => .next s

/-- HOST_SNOOP: the device gives up a line of host memory; its data are the bytes that the line begins with once the host has
written it, none where the host leaves it as it is (16 R342; log 15). -/
def execHostSnoop (s : State) : Out :=
  match headEvent s with
  | some (.hostSnoop l data, s) =>
    let s := invalidateOthers s none l
    let s := if windowOf (128 * l) = .host then { s with mem := memPut s.mem (cellsOfBytes (128 * l) (data.take 128)) } else s
    .next { s with hostOut := s.hostOut ++ [.giveUp l] }
  | _ => .next s

/-- A write to host memory that the host's coherence domain accepts, performed at the bridge slice: one outside the ranges of its
partition is logged and dropped; the reservations, and the hart's own writes that are held, are met there (04 R90, R99, 16 R335, 01
R22). -/
def acceptHost (s : State) (w : HostWrite) : State :=
  let ls := nubNat (w.cells.map fun c => lineOf c.1)
  let who := hartWho s w.hart
  let hold (s : State) (t : Nat) (e : Engine) : State :=
    if ls.any fun l => holdFull s l then ls.foldl awaitLine s else holdWrite s t e (some w.hart) w.cells
  match ls.find? fun l => (rangeOf (partOf s w.hart.tile) (128 * l)).isNone with
  | some l => logOutside s w.hart l
  | none =>
    match conflict s who ls true with
    | .refuse ident => Machine.modHart s w.hart fun h => { h with trapWait := some (h.trapWait.getD (trapOf 0x09 ident)) }
    | .hold t e => hold (cutResvs s (splitCuts s who ls true)) t e
    | .serve cuts =>
      match ownHeldAt s (some w.hart) ls with
      | some (t, e) => hold (cutResvs s cuts) t e
      | none => performWrite (cutResvs s cuts) (some w.hart.tile) w.cells

/-- CXL_CACHE_RESPONSE: the host's coherence domain accepts a write to host memory, which is then performed (04 R99). -/
def execCxlCacheResponse (s : State) : Out :=
  match headEvent s with
  | some (.cxlCacheResponse n, s) =>
    .next (match s.hostWrites.find? fun w => w.id == n with
      | some w => acceptHost { s with hostWrites := s.hostWrites.filter fun w => w.id != n } w
      | none => s)
  | _ => .next s

/-- WRITE_COMBINE_FLUSH: the bytes that a hart's buffer holds of a line go to the home as one write; while an earlier write to
the line is in flight they wait (04 R78, R80). -/
def execWriteCombineFlush (s : State) : Out :=
  match headEvent s with
  | some (.writeCombineFlush i l, s) =>
    let h := getHart s i
    let mine := h.wcb.filter fun c => lineOf c.1 == l
    .next (if mine.isEmpty || h.sentLines.contains l then s else
      let s := Machine.putHart s i { h with wcb := h.wcb.filter fun c => lineOf c.1 != l, sentLines := h.sentLines ++ [l] }
      schedule s [.writeRequest { line := l, tile := i.tile, h1 := i.h1, action := .write mine, age := 0 }])
  | _ => .next s

/-- The tables that list a peer's context. -/
def tablesOf (s : State) (peer ctx : BitVec 16) : List PeerTable := s.peerTables.filter fun t => t.peers.contains (peer, ctx)

/-- The operations of a hart to a peer that are not complete failed with code 2 (18 R382). -/
def failBatches (s : State) (i : HartId) (peer : BitVec 16) : State :=
  let h := getHart s i
  let fail (b : Batch) : Batch :=
    { b with ops := b.ops.map fun o => if o.op.peer == peer && o.res.isNone then { o with res := some { code := 2, val := 0 } } else o }
  let s := Machine.modHart s i fun h => { h with outstanding := h.outstanding.map fail, openBatch := h.openBatch.map fail }
  schedule s ((h.outstanding.filter fun b => b.ops.any fun o => o.op.peer == peer && o.res.isNone).map fun b =>
    .batchCompletion i b.id)

/-- KILL_NOTICE: what a peer does that receives it (18 R382; log 21). -/
def execKillNotice (s : State) : Out :=
  match headEvent s with
  | some (.killNotice peer ctx, s) =>
    let theirs (b : SubBatch) : Bool := b.src == peer && b.ctx == ctx
    let s := { s with deadPairs := if s.deadPairs.contains (peer, ctx) then s.deadPairs else s.deadPairs ++ [(peer, ctx)],
                      heldBatches := s.heldBatches.filter fun b => !theirs b,
                      held := s.held.filter fun h => match h.event with
                        | some (.subBatchArrival b) => !theirs b
                        | _ => true }
    let tables := tablesOf s peer ctx
    let s := (listedHarts s).foldl (fun s i =>
      if tables.any fun t => t.part == partNum s i.tile && t.ctx == (getHart s i).ctxid then failBatches s i peer else s) s
    let s := tables.foldl (fun s t => match partByNum s t.part with
      | some p => deadBarriers s p t
      | none => s) s
    .next { s with peerOut := s.peerOut ++ [.killAck peer ctx] }
  | _ => .next s

/-- A peer that has acknowledged a kill or has been logged: the kill completes with the last (18 R382). -/
def killAnswered (s : State) (peer ctx : BitVec 16) : State :=
  let kills := s.kills.map fun k => if k.ctx == ctx then { k with peers := k.peers.filter fun p => p != peer } else k
  { s with kills := kills.filter fun k => !k.peers.isEmpty }

/-- KILL_ACKNOWLEDGEMENT (18 R382). -/
def execKillAcknowledgement (s : State) : Out :=
  match headEvent s with
  | some (.killAcknowledgement peer ctx, s) => .next (killAnswered s peer ctx)
  | _ => .next s

/-- KILL_ACKNOWLEDGEMENT_TIMEOUT: a peer that has not acknowledged is entered in the bittern log (18 R382, 19 R406). -/
def execKillAcknowledgementTimeout (s : State) : Out :=
  match headEvent s with
  | some (.killAcknowledgementTimeout peer ctx, s) =>
    .next (match s.kills.find? fun k => k.ctx == ctx && k.peers.contains peer with
      | some k => killAnswered (addLog s 0x0F 0 k.part ctx 0xFFFF 0 peer.toNat ctx.toNat) peer ctx
      | none => s)
  | _ => .next s

end Sys2Proof.Machine
end

