-- ==== Sys2Proof/Machine/Fabric.lean ====
section
/-! DEFINITION. Configurations of the spatial fabric: loading with every check, staging, swapping, draining, ports
(11 R253 to R271). -/

namespace Sys2Proof.Machine

/-- A rejection of FLOAD (11 R259): reason, index, slot. -/
structure Reject where
  reason : Nat
  index : Nat
  slot : Nat
  deriving DecidableEq, Repr

/-- TVAL of a rejection (11 R262). -/
def Reject.tval (r : Reject) : Word := BitVec.ofNat 64 (2 ^ 63 + r.slot * 2 ^ 16 + r.index * 2 ^ 8 + r.reason)

/-- n bytes at an offset of an object. -/
def objAt (x off n : Nat) : Nat := fld x (8 * off) (8 * n)

/-- Offsets of the records of an object (11 R253). -/
def regionOff (r : Nat) : Nat := 16 + 16 * r
def streamOff (n : Nat) : Nat := 144 + 8 * n
def peOff (n : Nat) : Nat := 512 + 192 * n
def outOff (n m : Nat) : Nat := peOff n + 144 + 4 * m
def inOff (n m : Nat) : Nat := peOff n + 160 + 4 * m

/-- NREG and NSTR. -/
def objRegions (x : Nat) : Nat := objAt x 4 1
def objStreams (x : Nat) : Nat := objAt x 5 1

/-- The region of an object that a PE belongs to. -/
def objRegionOf (x n : Nat) : Option Nat := (upTo 0 (objRegions x)).find? fun r => bitAt (objAt x (regionOff r) 8) n

/-- The first failure in a list of checks, each with its reason, index and slot. -/
def firstFail : List (Bool × Reject) → Option Reject
  | [] => none
  | (ok, r) :: t => if ok then firstFail t else some r

/-- Whether the bytes of a channel record that must be zero are (11 R255). Bytes 1 and 2 of a record of kind 0 are not among
those that the spec says are zero: the model lets any value pass there, a choice (log 62). -/
def recordZero (x off : Nat) : Bool :=
  let k := objAt x off 1
  objAt x (off + 3) 1 == 0 && (k != 2 || objAt x (off + 2) 1 == 0) && (k < 3 || objAt x (off + 1) 2 == 0)

/-- Reason 0x01: MAGIC, NREG, NSTR, VALID and every byte that must be zero (11 R259; log 62). -/
def check1 (x : Nat) : List (Bool × Reject) :=
  [(objAt x 0 4 == 0xFAB1 && decide (1 ≤ objRegions x) && decide (objRegions x ≤ 8) && decide (objStreams x ≤ 32) &&
      objAt x 6 10 == 0 && objAt x 400 112 == 0, ⟨1, 0, 0⟩)] ++
  ((upTo 0 8).map fun r =>
    (if r < objRegions x then fld (objAt x (regionOff r + 8) 1) 3 4 == 0 && objAt x (regionOff r + 10) 6 == 0
     else objAt x (regionOff r) 16 == 0, ⟨1, r, 0⟩)) ++
  ((upTo 0 32).map fun n =>
    (if n < objStreams x then objAt x (streamOff n) 1 == 1 && objAt x (streamOff n + 7) 1 == 0
     else objAt x (streamOff n) 8 == 0, ⟨1, n, 0⟩)) ++
  ((upTo 0 64).map fun n =>
    (objAt x (peOff n + 176) 16 == 0 && (upTo 0 4).all fun m => recordZero x (outOff n m) && recordZero x (inOff n m), ⟨1, n, 0⟩))

/-- Reason 0x02: each used region holds a PE, no PE lies in two, records outside all regions are zero. -/
def check2 (x : Nat) : List (Bool × Reject) :=
  ((upTo 0 (objRegions x)).map fun r => (objAt x (regionOff r) 8 != 0, ⟨2, r, 0⟩)) ++
  ((upTo 0 64).map fun n =>
    (decide (((upTo 0 (objRegions x)).filter fun r => bitAt (objAt x (regionOff r) 8) n).length ≤ 1), ⟨2, n, 0⟩)) ++
  ((upTo 0 64).map fun n => ((objRegionOf x n).isSome || objAt x (peOff n) 192 == 0, ⟨2, n, 0⟩))

/-- The lowest PE of a region of an object. -/
def lowestPe (x r : Nat) : Nat := ((upTo 0 64).find? fun n => bitAt (objAt x (regionOff r) 8) n).getD 0

/-- Reason 0x03: fault edges (11 R256, R259). -/
def check3 (x : Nat) : List (Bool × Reject) :=
  (upTo 0 (objRegions x)).flatMap fun r =>
    let f := objAt x (regionOff r + 9) 1
    let rank (n : Nat) : Nat := fld (objAt x (regionOff n + 8) 1) 0 3
    if f = 0xFF then [] else
    [(decide (f < objRegions x) && decide (rank r < rank f), ⟨3, r, 0⟩),
     (objAt x (inOff (lowestPe x f) 3) 1 == 4, ⟨3, f, 0⟩)]

/-- Whether a wire record is matched at its other end (11 R255). -/
def wireOk (x n m : Nat) (out : Bool) : Bool :=
  let here := if out then outOff n m else inOff n m
  let p := objAt x (here + 1) 1
  let c := objAt x (here + 2) 1
  let there := if out then inOff p c else outOff p c
  decide (p < 64) && decide (c < 4) && objRegionOf x p == objRegionOf x n && objAt x there 1 == 1 && objAt x (there + 1) 1 == n &&
  objAt x (there + 2) 1 == m

/-- Reason 0x04: kinds and wires. -/
def check4 (x : Nat) : List (Bool × Reject) :=
  ((upTo 0 64).filter fun n => (objRegionOf x n).isSome).map fun n =>
    ((upTo 0 4).all fun m =>
      let ko := objAt x (outOff n m) 1
      let ki := objAt x (inOff n m) 1
      decide (ko ≤ 3) && decide (ki ≤ 4) && (ki != 4 || m == 3) && (ko != 1 || wireOk x n m true) && (ki != 1 || wireOk x n m false),
     ⟨4, n, 0⟩)

/-- A stream of an object (11 R257; log 62). -/
def objStream (x n : Nat) : StreamCfg :=
  let o := streamOff n
  { index := n, prodPe := objAt x (o + 1) 1, prodCh := objAt x (o + 2) 1, consPe := objAt x (o + 3) 1,
    consCh := objAt x (o + 4) 1, depth := objAt x (o + 5) 2 }

/-- The lowest run of a depth, aligned to it, that is free of some runs, each a base and a depth (11 R257; log 62). -/
def lowestRun (depth : Nat) (used : List (Nat × Nat)) : Option Nat :=
  ((upTo 0 (16384 / depth)).map fun k => k * depth).find? fun a =>
    used.all fun u => decide (a + depth ≤ u.1) || decide (u.1 + u.2 ≤ a)

/-- The runs of streams placed in index order without regard to others; none where one does not fit (11 R257; log 62). -/
def placeOwn : List StreamCfg → List (Nat × Nat) → Option (List (Nat × Nat))
  | [], acc => some acc
  | c :: t, acc => match lowestRun c.depth acc with
    | some a => placeOwn t (acc ++ [(a, c.depth)])
    | none => none

/-- Reason 0x05: depths, ends, records that name streams, and the fit of the buffer. -/
def check5 (x : Nat) : List (Bool × Reject) :=
  let strs := (upTo 0 (objStreams x)).map (objStream x)
  (strs.map fun c =>
    (powerOfTwo c.depth 10 && decide (16 ≤ c.depth) && decide (c.prodPe < 64) && decide (c.consPe < 64) &&
      decide (c.prodCh < 4) && decide (c.consCh < 4) && (objRegionOf x c.prodPe).isSome && (objRegionOf x c.consPe).isSome &&
      objRegionOf x c.prodPe != objRegionOf x c.consPe && objAt x (outOff c.prodPe c.prodCh) 3 == 2 + c.index * 2 ^ 8 &&
      objAt x (inOff c.consPe c.consCh) 3 == 2 + c.index * 2 ^ 8, ⟨5, c.index, 0⟩)) ++
  ((upTo 0 64).flatMap fun n => (upTo 0 4).flatMap fun m =>
    let o := objAt x (outOff n m + 1) 1
    let i := objAt x (inOff n m + 1) 1
    [(objAt x (outOff n m) 1 != 2 || strs.any fun c => c.index == o && c.prodPe == n && c.prodCh == m, ⟨5, o, 0⟩),
     (objAt x (inOff n m) 1 != 2 || strs.any fun c => c.index == i && c.consPe == n && c.consCh == m, ⟨5, i, 0⟩)]) ++
  (strs.map fun c => (!(strs.all fun c => powerOfTwo c.depth 10 && decide (16 ≤ c.depth)) ||
    (placeOwn (strs.take (c.index + 1)) []).isSome, ⟨5, c.index, 0⟩))

/-- What the row of an operation uses (11 R251): operands a and b, bits of imm6; none for an invalid operation. -/
def opUses (op : Nat) : Option (Bool × Bool × Nat) :=
  match op with
  | 0x00 | 0x17 | 0x18 | 0x1A | 0x21 => some (true, false, 0x01)
  | 0x09 => some (true, false, 0x3F)
  | 0x0A | 0x0B | 0x0C => some (true, false, 0x1F)
  | 0x0F | 0x14 => some (true, true, 0x07)
  | 0x10 | 0x22 => some (false, false, 0x3F)
  | 0x20 => some (false, false, 0x01)
  | 0x1B | 0x1C | 0x1D | 0x1E | 0x1F => some (true, true, 0)
  | n => if n ≤ 0x22 then some (true, true, 0x01) else none

/-- Whether a slot keeps the rules of 11 R248 and R251, given which channels are used. -/
def slotOk (w : Nat) (ins outs : List Bool) : Bool :=
  if !bitAt w 63 then w == 0 else
  let ir (n : Nat) : Bool := bitAt w (43 + n)
  let os (n : Nat) : Bool := bitAt w (34 + n)
  let te := bitAt w 42
  let op := fld w 28 6
  let dst := fld w 24 4
  let srcOk (uses : Bool) (c : Nat) : Bool := if uses then !(8 ≤ c && c < 12) || ir (c - 8) else c == 0
  match opUses op with
  | none => false
  | some (ua, ub, im) =>
    fld w 47 8 &&& fld w 55 8 == fld w 47 8 && fld w 12 4 &&& fld w 43 4 == fld w 12 4 &&
    (if te then ir (fld w 40 2) else fld w 40 2 == 0 && fld w 38 2 == 0) &&
    fld w 0 6 &&& im == fld w 0 6 && srcOk ua (fld w 20 4) && srcOk ub (fld w 16 4) &&
    (if opWrites op then decide (dst < 12) && (dst < 8 || os (dst - 8))
     else dst == 0 && fld w 6 2 == 0 && (if op == 0x22 then fld w 8 4 == 0 else bitAt w 11)) &&
    (op != 0x21 || (8 ≤ fld w 20 4 && fld w 20 4 < 12)) &&
    (upTo 0 4).all fun n => (!ir n || ins.getD n false) && (!os n || outs.getD n false)

/-- Reason 0x06: every slot. -/
def check6 (x : Nat) : List (Bool × Reject) :=
  ((upTo 0 64).filter fun n => (objRegionOf x n).isSome).flatMap fun n =>
    let ins := (upTo 0 4).map fun m => objAt x (inOff n m) 1 != 0
    let outs := (upTo 0 4).map fun m => objAt x (outOff n m) 1 != 0
    (upTo 0 16).map fun k => (slotOk (objAt x (peOff n + 16 + 8 * k) 8) ins outs, ⟨6, n, k⟩)

/-- Reason 0x07: duplex regions (11 R261); in protected mode every region is duplex. -/
def check7 (x : Nat) (prot : Bool) : List (Bool × Reject) :=
  (upTo 0 (objRegions x)).map fun r =>
    let dup := bitAt (objAt x (regionOff r + 8) 1) 7
    ((!prot || dup) && (!dup || (upTo 0 64).all fun n => !bitAt (objAt x (regionOff r) 8) n ||
      (decide (n % 8 < 4) && (objRegionOf x (n + 4)).isNone)), ⟨7, r, 0⟩)

/-- The first check that an object fails: reasons in the order of the table, in each the lowest index; INDEX is 0 for a failure
that belongs to no unit, and the region that FEDGE names where its fault input is missing. The spec orders no failures: a choice
(11 R259; log 62). -/
def checkObject (x : Nat) (prot : Bool) : Option Reject :=
  match firstFail (check1 x) with
  | some r => some r
  | none => firstFail (check2 x ++ check3 x ++ check4 x ++ check5 x ++ check6 x ++ check7 x prot)

/-- The kind of a channel from its record (11 R255). -/
def chanKind (x off : Nat) : ChanKind :=
  match objAt x off 1 with
  | 1 => .wire (objAt x (off + 1) 1) (objAt x (off + 2) 1)
  | 2 => .stream (objAt x (off + 1) 1)
  | 3 => .port
  | 4 => .faultIn
  | _ => .unused

/-- The configuration of an object that passed every check. -/
def parseObject (x : Nat) : FabricCfg :=
  { regions := (upTo 0 (objRegions x)).map fun r =>
      let f := objAt x (regionOff r + 9) 1
      let b := objAt x (regionOff r + 8) 1
      { index := r, pemask := BitVec.ofNat 64 (objAt x (regionOff r) 8), rank := BitVec.ofNat 3 b, duplex := bitAt b 7,
        fedge := if f = 0xFF then none else some f }
    streams := (upTo 0 (objStreams x)).map (objStream x)
    pes := (upTo 0 64).filterMap fun n => (objRegionOf x n).map fun r =>
      { pe := n, region := r, consts := (upTo 0 4).map fun m => BitVec.ofNat 32 (objAt x (peOff n + 4 * m) 4),
        slots := (upTo 0 16).map fun m => BitVec.ofNat 64 (objAt x (peOff n + 16 + 8 * m) 8),
        outs := (upTo 0 4).map fun m => chanKind x (outOff n m), ins := (upTo 0 4).map fun m => chanKind x (inOff n m) } }

/-- FLOAD (11 R259, R263, R264). -/
def execFload (a : GReg) (off : BitVec 32) (s : State) : Out :=
  let me := (s.cur.h1, s.hart.ctxid)
  if (fabricAt s s.cur.tile).foreign me.1 me.2 then takeTrap s (illegal (.fload a off))
  else waitPerformed s fun s =>
    if (fabricAt s s.cur.tile).swap.isSome then .next s else
    let va := s.hart.rg a + off.signExtend 64
    match aligned 128 va s (loadWords (wordActor s) 1600 va s) with
    | .trap t s => takeTrap s t
    | .stall s => .next s
    | .ok words s =>
      let x := bytesNat (words.flatMap fun w => natBytes 8 w)
      match checkObject x s.hart.prot with
      | some r => takeTrap s (trapOf 0x10 r.tval)
      | none =>
        let f := fabricAt s s.cur.tile
        let f := { f with staged := some (parseObject x), staging := true, owner := some me,
                          farm := s.hart.member.map fun m => m.farm,
                          leftover := if f.owner == some me then f.leftover else [] }
        .next ((setFabric s s.cur.tile f).modHart fun h => h.advance 8)

/-- STAGING_COMPLETE (11 R264). -/
def execStagingComplete (s : State) : Out :=
  match headEvent s with
  | some (.stagingComplete t, s) => .next (setFabric s t { fabricAt s t with staging := false })
  | _ => .next s

/-- A set of resident regions closed under the resident streams; fuel counts the regions (11 R265). -/
def closeRegions (x : Fabric) : Nat → List Nat → List Nat
  | 0, d => d
  | n + 1, d =>
    let ends (st : FStream) : List Nat :=
      ((if st.prodGone then [] else (x.home st.cfg.prodPe).toList) ++
       (if st.consGone then [] else (x.home st.cfg.consPe).toList)).map fun r => r.cfg.index
    closeRegions x n (nubNat (d ++ x.streams.flatMap fun st =>
      if (ends st).any fun r => d.contains r then ends st else []))

/-- Bound engines of the ports of a region: each with the PE, the channel, and whether it writes. -/
def regionEngines (s : State) (t : Nat) (r : Region) : List (Engine × Nat × Nat × Bool) :=
  (upTo 0 4).filterMap fun n => match engineAt s t (BitVec.ofNat 2 n) with
    | some e => (match e.bind with
      | .fin pe ch false => if r.cfg.pemask.getLsbD pe then some (BitVec.ofNat 2 n, pe, ch, false) else none
      | .fout pe ch false => if r.cfg.pemask.getLsbD pe then some (BitVec.ofNat 2 n, pe, ch, true) else none
      | _ => none)
    | none => none

/-- Whether a stream has an end in a resident region. -/
def FStream.joins (st : FStream) (r : RegionCfg) : Bool :=
  (!st.prodGone && r.pemask.getLsbD st.cfg.prodPe) || (!st.consGone && r.pemask.getLsbD st.cfg.consPe)

/-- What DISCARD does to a region (11 R267): its bound read engines stop, every channel is emptied, every PE is quiescent, and sends its
drain token on output streams and to write engines behind nothing, in a region stopped by a mismatch too (R265, R266; log 60). -/
def discardRegion (s : State) (t ri : Nat) : State :=
  match (fabricAt s t).region ri with
  | none => s
  | some r =>
    let es := regionEngines s t r
    let s := es.foldl (fun s e =>
      if e.2.2.2 then s else
      match engineAt s t e.1 with
      | some x => if x.done then s else endEngine s t e.1 false 0 false
      | none => s) s
    let x := fabricAt s t
    let x := r.cfg.occupied.foldl (fun x n => x.modPe n fun p =>
      { p with ins := Vector.replicate 4 [], quiescent := true
               outs := Vector.ofFn fun ch => match p.cfg.outKind ch.val with | .stream _ => [.drain] | _ => [] }) x
    let cleared (st : FStream) : FStream := if st.joins r.cfg then { st with q := [] } else st
    let x := { x with streams := x.streams.map cleared }
    let x := es.foldl (fun x e => if e.2.2.2 then
        (x.copies e.2.1).foldl (fun x c => x.modPe c fun p => p.setOut e.2.2.1 (pushDrain (p.outq e.2.2.1))) x else x) x
    setFabric s t (x.modRegion ri fun y => { y with draining := true, barred := false })

/-- A region marked draining, a drain token behind the contents of every port input (11 R267). -/
def drainRegion (s : State) (t ri : Nat) : State :=
  match (fabricAt s t).region ri with
  | none => s
  | some r =>
    let x := fabricAt s t
    let x := r.cfg.pes.foldl (fun x n =>
      (upTo 0 4).foldl (fun x ch => if x.isPort n ch false then (x.pushIn n ch .drain).getD x else x) x) x
    setFabric s t (x.modRegion ri fun y => { y with draining := true })

/-- The drain of a region that a swap starts: a stopped one is discarded (11 R265). -/
def swapDrain (s : State) (t ri : Nat) : State :=
  match (fabricAt s t).region ri with
  | some r => if r.stopped then discardRegion s t ri else drainRegion s t ri
  | none => s

/-- The runs of resident streams. -/
def Fabric.runs (x : Fabric) : List (Nat × Nat) := x.streams.map fun st => (st.base, st.cfg.depth)

/-- Where the streams of a swap lie (11 R257): free of resident streams where they can be, else free of one another; where even
that fails, as FLOAD placed them. -/
def placeStreams (x : Fabric) (l : List StreamCfg) : List (Nat × Nat) :=
  let r := l.foldl (fun (acc : Option (List (Nat × Nat))) c => acc.bind fun acc =>
    match lowestRun c.depth (x.runs ++ acc) with
    | some a => some (acc ++ [(a, c.depth)])
    | none => (lowestRun c.depth acc).map fun a => acc ++ [(a, c.depth)]) (some [])
  match r with
  | some r => r
  | none => (placeOwn l []).getD []

/-- FSWAP (11 R265). -/
def execFswap (a : GReg) (s : State) : Out :=
  let t := s.cur.tile
  if (fabricAt s t).foreign s.cur.h1 s.hart.ctxid then takeTrap s (illegal (.fswap a))
  else waitPerformed s fun s =>
    let x := fabricAt s t
    if x.swap.isSome then .next s else
    let sel (r : Nat) : Bool := a == 0 || (s.hart.rg a).getLsbD r
    let st := x.staged.getD { regions := [], streams := [], pes := [] }
    let inM (n : Nat) : Bool := st.pes.any fun p => p.pe == n && sel p.region
    let m : FabricCfg :=
      { regions := st.regions.filter fun r => sel r.index, streams := st.streams.filter fun c => inM c.prodPe,
        pes := st.pes.filter fun p => sel p.region }
    if m.regions.isEmpty then .next (s.modHart fun h => h.advance 4)
    else if st.streams.any fun c => inM c.prodPe != inM c.consPe then takeTrap s (illegal (.fswap a))
    else
      let rest : FabricCfg :=
        { regions := st.regions.filter fun r => !sel r.index, streams := st.streams.filter fun c => !inM c.prodPe,
          pes := st.pes.filter fun p => !sel p.region }
      let places := placeStreams x m.streams
      let mine := m.regions.flatMap fun r => r.occupied
      let touches (r : Region) : Bool :=
        (r.cfg.occupied.any fun n => mine.contains n) || (m.regions.any fun y => y.index == r.cfg.index) ||
        x.streams.any fun st => st.joins r.cfg &&
          places.any fun p => decide (p.1 < st.base + st.cfg.depth) && decide (st.base < p.1 + p.2)
      let d := closeRegions x 8 ((x.regions.filter touches).map fun r => r.cfg.index)
      let x := { x with staged := if rest.regions.isEmpty then none else some rest, swap := some (m, d),
                        swapBases := places.map fun p => p.1 }
      let s := d.foldl (fun s r => swapDrain s t r) (setFabric s t x)
      .next (s.modHart fun h => h.advance 4)

/-- A PE as a swap leaves it (11 R247). -/
def Pe.fresh (c : PeCfg) : Pe :=
  { cfg := c, d := Vector.replicate 8 0, p := 0, ins := Vector.replicate 4 [], outs := Vector.replicate 4 [], quiescent := false }

/-- The mirror of a PE's record: four columns to the right, its wires shifted (11 R261). -/
def PeCfg.mirror (c : PeCfg) : PeCfg :=
  let shift (k : ChanKind) : ChanKind := match k with | .wire p m => .wire (p + 4) m | k => k
  { c with pe := c.pe + 4, outs := c.outs.map shift, ins := c.ins.map shift }

/-- Whether SWAP_COMPLETE has an occasion: staging has ended and every region of D has drained (11 R265). -/
def Fabric.canSwap (x : Fabric) : Bool :=
  match x.swap with
  | some (_, d) => !x.staging && d.all fun r => (x.region r).isNone
  | none => false

/-- The regions of a swap become resident (11 R265, R274). -/
def swapIn (s : State) (t : Nat) : State :=
  let x := fabricAt s t
  match x.swap with
  | none => s
  | some (m, _) =>
    let dup (r : Nat) : Bool := m.regions.any fun y => y.index == r && y.duplex
    let recs := m.pes.flatMap fun c => if dup c.region then [c, c.mirror] else [c]
    let ended := x.swapDrains
    let x := { x with
      swap := none, swapBases := [], swapDrains := []
      regions := x.regions ++ m.regions.map fun r => { cfg := r, stopped := false, barred := false, draining := false }
      pes := recs.foldl (fun l c => alSet l c.pe (Pe.fresh c)) x.pes
      leftover := recs.foldl (fun l c => alDel l c.pe) x.leftover
      streams := x.streams ++ ((m.streams.zip x.swapBases).map fun y =>
        { cfg := y.1, base := y.2, q := [], prodGone := false, consGone := false }) }
    let s := setFabric s t (ended.foldl (fun x d => (x.pushIn d.1 d.2 .drain).getD x) x)
    let inM (n : Nat) : Bool := m.pes.any fun c => c.pe == n
    (upTo 0 4).foldl (fun s n => modEngine s t (BitVec.ofNat 2 n) fun e =>
      { e with bind := match e.bind with
        | .fin pe ch c => if inM pe then (if c then .fin pe ch false else .gone) else e.bind
        | .fout pe ch c => if inM pe then (if c then .fout pe ch false else .gone) else e.bind
        | b => b }) s

/-- SWAP_COMPLETE (11 R265). -/
def execSwapComplete (s : State) : Out :=
  match headEvent s with
  | some (.swapComplete t, s) => .next (if (fabricAt s t).canSwap then swapIn s t else s)
  | _ => .next s

/-- FDRAIN (11 R267). -/
def execFdrain (a : GReg) (s : State) : Out :=
  let t := s.cur.tile
  let x := fabricAt s t
  if x.foreign s.cur.h1 s.hart.ctxid then takeTrap s (illegal (.fdrain a))
  else
    let g := s.hart.rg a
    let d := closeRegions x 8 ((x.regions.filter fun r => a == 0 || g.getLsbD r.cfg.index).map fun r => r.cfg.index)
    let s := d.foldl (fun s r => if a != 0 && g.getLsbD 8 then discardRegion s t r else drainRegion s t r) s
    .next (s.modHart fun h => h.advance 4)

/-- The channels of a PE that are connected (11 R266): fault inputs do not count. -/
def Pe.connectedIns (p : Pe) : List Nat :=
  (upTo 0 4).filter fun ch => p.cfg.inKind ch != .unused && p.cfg.inKind ch != .faultIn
def Pe.connectedOuts (p : Pe) : List Nat := (upTo 0 4).filter fun ch => p.cfg.outKind ch != .unused

/-- Whether PE_QUIESCENCE has an occasion (11 R266). -/
def Fabric.canRest (x : Fabric) (n : Nat) : Bool :=
  x.acts n && (match x.home n, x.pe n with
    | some r, some p =>
      if p.connectedIns.isEmpty then r.draining else p.connectedIns.all fun ch => (p.inq ch).head? = some .drain
    | _, _ => false)

/-- A PE becomes quiescent: it takes the drain tokens at its inputs and sends one on each connected output (11 R266, R417). -/
def Pe.rest (p : Pe) : Pe :=
  let p := p.connectedIns.foldl (fun p ch => if (p.inq ch).head? = some .drain then p.setIn ch (p.inq ch).tail else p) p
  { p.connectedOuts.foldl (fun p ch => p.setOut ch (pushDrain (p.outq ch))) p with quiescent := true }

/-- PE_QUIESCENCE (11 R266). -/
def execPeQuiescence (s : State) : Out :=
  match headEvent s with
  | some (.peQuiescence t n, s) =>
    let x := fabricAt s t
    .next (if x.canRest n.toNat then setFabric s t ((x.copies n.toNat).foldl (fun x c => x.modPe c Pe.rest) x) else s)
  | _ => .next s

/-- Whether a region has drained (11 R266): every PE is quiescent, and its drain tokens have passed every output stream and
every bound write engine. -/
def regionDone (s : State) (t ri : Nat) : Bool :=
  let x := fabricAt s t
  match x.region ri with
  | none => false
  | some r =>
    (r.cfg.occupied.all fun n => match x.pe n with
      | some p => p.quiescent && (upTo 0 4).all fun ch => match p.cfg.outKind ch with
        | .stream _ => (p.outq ch).isEmpty
        | _ => true
      | none => true) &&
    (regionEngines s t r).all fun e => !e.2.2.2 || (match engineAt s t e.1, x.pe e.2.1 with
      | some y, some p => y.drained && (p.outq e.2.2.1).isEmpty
      | _, _ => true)

/-- A region leaves (11 R252, R266): flags to the owner's FFLAGS, ULIPEND.FDRAIN, its output ports kept; what its streams hold
still goes to their consumers (log 60, 61). -/
def regionLeaves (s : State) (t ri : Nat) : State :=
  let x := fabricAt s t
  match x.region ri with
  | none => s
  | some r =>
    let kept := r.cfg.pes.filterMap fun n => (x.pe n).bind fun p =>
      if (upTo 0 4).any fun ch => p.cfg.outKind ch == .port then
        some (n, { region := r.cfg, pe := p, mirror := if r.cfg.duplex then x.pe (n + 4) else none, barred := r.barred })
      else none
    let s := match x.owner with
      | some (h1, _) => Machine.modHart s ⟨t, h1⟩ fun h =>
          { h.raise (x.flags.zeroExtend 6) with ulipend := h.ulipend ||| 8 }
      | none => s
    let streams := x.streams.map fun st =>
      { st with prodGone := st.prodGone || r.cfg.pemask.getLsbD st.cfg.prodPe,
                consGone := st.consGone || r.cfg.pemask.getLsbD st.cfg.consPe }
    setFabric s t { x with
      regions := x.regions.filter fun y => y.cfg.index != ri
      flags := 0
      pes := r.cfg.occupied.foldl (fun l n => alDel l n) x.pes
      leftover := kept.foldl (fun l p => alSet l p.1 p.2) x.leftover
      streams := streams.filter fun st => !st.prodGone || !st.consGone }

/-- REGION_DRAINED (11 R266; log 60). -/
def execRegionDrained (s : State) : Out :=
  match headEvent s with
  | some (.regionDrained t r, s) => .next (if regionDone s t r then regionLeaves s t r else s)
  | _ => .next s

/-- A byte with the bits of some region indices. -/
def regionBits (l : List Nat) : Nat := (nubNat l).foldl (fun x r => x + 2 ^ r) 0

/-- FSTAT's word (11 R268; log 60). -/
def fstatWord (x : Fabric) : Nat :=
  let idx (l : List RegionCfg) : List Nat := l.map fun r => r.index
  let swp := match x.swap with | some (m, _) => idx m.regions | none => []
  let stg := match x.staged with | some c => idx c.regions | none => []
  let drn := (x.regions.filter fun r => r.draining || r.cfg.pes.any fun n => match x.pe n with
    | some p => p.quiescent
    | none => false).map fun r => r.cfg.index
  x.flags.toNat * 2 ^ 40 + regionBits swp * 2 ^ 32 + regionBits ((x.regions.filter fun r => r.stopped).map fun r => r.cfg.index) * 2 ^ 24 +
  regionBits (stg ++ swp) * 2 ^ 16 + regionBits drn * 2 ^ 8 + regionBits (x.regions.map fun r => r.cfg.index)

/-- FSTAT (11 R268). -/
def execFstat (d : GReg) (s : State) : Out :=
  let x := fabricAt s s.cur.tile
  let v := if x.foreign s.cur.h1 s.hart.ctxid then 2 ^ 63 else fstatWord x
  .next (s.modHart fun h => (h.wg d (BitVec.ofNat 64 v)).advance 4)

/-- FPUSH (11 R269). -/
def execFpush (a b : GReg) (s : State) : Out :=
  let t := s.cur.tile
  let x := fabricAt s t
  let g := (s.hart.rg a).toNat
  let pe := fld g 0 6
  let ch := fld g 6 2
  if x.foreign s.cur.h1 s.hart.ctxid || !x.isPort pe ch false || portBound s t pe ch false then takeTrap s (illegal (.fpush a b))
  else
    let tok : Token := if bitAt g 10 then .drain else .data (BitVec.ofNat 32 (s.hart.rg b).toNat) (BitVec.ofNat 2 (fld g 8 2))
    match x.pushIn pe ch tok with
    | some x => .next ((setFabric s t x).modHart fun h => h.advance 4)
    | none => .next s

/-- What FPOP writes for a token (11 R269). -/
def tokenWord : Token → Word
  | .drain => 1#64 <<< 63
  | .data w tag => BitVec.ofNat 64 (w.toNat + tag.toNat * 2 ^ 32)

/-- The tokens at the head of an output port of a drained region's PE, as they leave it (11 R261). -/
def LeftPe.leaving (l : LeftPe) (ch : Nat) : Leaving :=
  if l.barred then .none
  else leaves l.region.index (((l.pe.outq ch).head?) :: (l.mirror.toList.map fun p => (p.outq ch).head?))

/-- The head of an output port of a drained region's PE removed from both copies. -/
def LeftPe.drop (l : LeftPe) (ch : Nat) : LeftPe :=
  { l with pe := l.pe.setOut ch (l.pe.outq ch).tail, mirror := l.mirror.map fun p => p.setOut ch (p.outq ch).tail }

/-- A duplex mismatch at a port of a drained region: none of its ports passes a token any more (11 R261). -/
def leftMismatch (s : State) (t pe ch : Nat) (r : RegionCfg) : State :=
  let x := fabricAt s t
  let s := setFabric s t { x with leftover := x.leftover.map fun e => if e.2.region == r then (e.1, { e.2 with barred := true }) else e }
  tellMismatch s t r.index pe ch

/-- FPOP (11 R269). -/
def execFpop (d a : GReg) (s : State) : Out :=
  let t := s.cur.tile
  let x := fabricAt s t
  let g := (s.hart.rg a).toNat
  let pe := fld g 0 6
  let ch := fld g 6 2
  let me := (s.cur.h1, s.hart.ctxid)
  let pop (tok : Token) (x : Fabric) : Out := .next ((setFabric s t x).modHart fun h => (h.wg d (tokenWord tok)).advance 4)
  if x.foreign me.1 me.2 then takeTrap s (illegal (.fpop d a))
  else if x.isPort pe ch true && !portBound s t pe ch true then
    match x.leaving pe ch with
    | .token tok => pop tok (x.dropOut pe ch)
    | .mismatch r => .next (fabricMismatch s t r pe ch)
    | .none => .next s
  else match (if x.owner == some me && (x.home pe).isNone then alGet x.leftover pe else none) with
    | some l =>
      if l.pe.cfg.outKind ch != .port || portBound s t pe ch true then takeTrap s (illegal (.fpop d a))
      else match l.leaving ch with
        | .token tok => pop tok { x with leftover := alSet x.leftover pe (l.drop ch) }
        | .mismatch _ => .next (leftMismatch s t pe ch l.region)
        | .none => .next s
    | none => takeTrap s (illegal (.fpop d a))

/-- A fabric event that waits for a hart in its context, and the rest (11 R260, R261; log 61). -/
def takeFabric (h : Hart) : Option (FabricEvent × List FabricEvent) :=
  let ours (e : FabricEvent) : Bool := match e with | .fault c _ => c == h.ctxid | .mismatch c _ => c == h.ctxid
  match h.fabricEvents.find? ours with
  | some e => some (e, h.fabricEvents.erase e)
  | none => none

/-- The trap of a fabric event (11 R262, 15 R311). -/
def FabricEvent.trap : FabricEvent → TrapRec
  | .fault _ v => trapOf 0x10 v
  | .mismatch _ v => { code := 0x12, sub := 0, tval := v, unres := true }

/-- FABRIC_FAULT_DELIVERY: the hart takes an escalated fault or a mismatch at a boundary; TEPC names the next instruction
(11 R260, R261). -/
def execFabricFaultDelivery (s : State) : Out :=
  match headEvent s with
  | some (.fabricFaultDelivery i, s) =>
    .next (match (if (getHart s i).atBoundary then takeFabric (getHart s i) else none) with
      | some (e, rest) => trapAt (Machine.modHart s i fun h => { h with fabricEvents := rest }) i e.trap
      | none => s)
  | _ => .next s

/-- Whether a pre-emption is deferred: staging or a swap of the hart's fabric is in progress (11 R270). -/
def defersPreemption (s : State) (i : HartId) : Bool :=
  let x := fabricAt s i.tile
  x.owner == some (i.h1, (getHart s i).ctxid) && (x.staging || x.swap.isSome)

/-- What HALT does to the fabric and the engines of a hart (11 R271): the stage discarded, every resident region drains, every
stream closed (log 60). -/
def fabricHalt (s : State) (i : HartId) : State :=
  let t := i.tile
  let c := (getHart s i).ctxid
  let s :=
    if (fabricAt s t).owner == some (i.h1, c) then
      let s := setFabric s t { fabricAt s t with staged := none, staging := false, swap := none, swapBases := [],
                                                    swapDrains := [] }
      (fabricAt s t).regions.foldl (fun s r => drainRegion s t r.cfg.index) s
    else s
  (upTo 0 4).foldl (fun s n =>
    let e := BitVec.ofNat 2 n
    match engineAt s t e with
    | some x => if x.h1 == i.h1 && x.ctx == c then
        releaseEngine (if x.done then s else endEngine s t e false 0 false) t e else s
    | none => s) s

end Sys2Proof.Machine
end

