-- ==== Sys2Proof/Machine/Matrix.lean ====
section
/-! DEFINITION. Matrix instructions and the accumulator tiles (spec 09), with the order of sums of 03 R69. -/

namespace Sys2Proof.Machine

/-- An element of an accumulator. -/
def AccTile.elem (a : AccTile) (i j : Nat) : Nat := fld a.data.toNat (32 * (64 * i + j)) 32

/-- An accumulator with elements set: row, column, value. -/
def AccTile.setElems (a : AccTile) (l : List (Nat × Nat × Nat)) : AccTile :=
  { a with data := BitVec.ofNat 131072 (l.foldl (fun x y => putBits x (32 * (64 * y.1 + y.2.1)) 32 y.2.2) a.data.toNat) }

/-- Group size K of a sum (03 R69). -/
def groupSize (t : ElemTy) (sc : Bool) : Nat :=
  match t with
  | .bf16 | .fp16 => 8
  | .e4m3 | .e5m2 => if sc then 32 else 16
  | _ => 32

/-- An exact sum of products being formed: whether a NaN case or an infinity of each sign was met, the finite part, whether
every term so far is a zero of negative sign (03 R58, R69). -/
structure GroupSum where
  nan : Bool
  pos : Bool
  neg : Bool
  m : Int
  e : Int
  negZero : Bool
  deriving DecidableEq, Repr

/-- One product added to a group's sum. -/
def GroupSum.add (g : GroupSum) (a b : FVal) : GroupSum :=
  match (prodVal a b).1 with
  | .nan _ => { g with nan := true }
  | .inf n => if n then { g with neg := true } else { g with pos := true }
  | .fin n m e =>
    let s := exactAdd (decide (g.m < 0)) g.m.natAbs g.e n m e
    { g with m := s.1, e := s.2, negZero := g.negZero && n && m == 0 }

/-- A group's sum as a value and its flag; scales move the exponent (03 R69; log 50). -/
def GroupSum.value (g : GroupSum) (shift : Int) : FVal × BitVec 6 :=
  if g.nan || (g.pos && g.neg) then (.nan false, flagNV)
  else if g.pos then (.inf false, 0)
  else if g.neg then (.inf true, 0)
  else if g.m = 0 then (.fin g.negZero 0 0, 0)
  else (.fin (decide (g.m < 0)) g.m.natAbs (g.e + shift), 0)

/-- The sum of a group of products. -/
def sumGroup (l : List (FVal × FVal)) : GroupSum :=
  l.foldl (fun g p => g.add p.1 p.2) { nan := false, pos := false, neg := false, m := 0, e := 0, negZero := !l.isEmpty }

/-- A row of an operand as MMA reads it: its element values, and for each block of 32 the scale code, 0xFF in an invalid
block as for a NaN (03 R62, 09 R216). -/
structure MmaRow where
  vals : List FVal
  ints : List Int
  scales : List Nat
  deriving DecidableEq, Repr

/-- Row r of the group at a register, with scales in another (09 R216). -/
def mmaRow (h : Hart) (v sreg : VReg) (r : Nat) : MmaRow :=
  let sh := h.shape
  let l := (upTo 0 sh.vl).map fun k => h.elem v sh.w sh.e (64 * r + k)
  { vals := l.map fun x => elemVal sh.fmt x, ints := l.map fun x => elemInt sh.fmt x
    scales := if !sh.sc then [] else (upTo 0 ((sh.vl + 31) / 32)).map fun b =>
      if h.valid v sh.e (64 * r + 32 * b) then fld (h.rv sreg).toNat (8 * ((64 * r + 32 * b) / 32)) 8 else 0xFF }

/-- One accumulator element after the groups of a row of A and a row of Bᵗ (03 R69): fuel counts the groups left. -/
def mmaElem (t : ElemTy) (sc : Bool) (a b : MmaRow) : Nat → Nat → FOut → FOut
  | 0, _, acc => acc
  | fuel + 1, g, acc =>
    let kk := groupSize t sc
    let pa := (a.vals.drop (g * kk)).take kk
    if pa.isEmpty then acc
    else
      let pb := (b.vals.drop (g * kk)).take kk
      let sa := a.scales.getD g 127
      let sb := b.scales.getD g 127
      let bad := sc && (sa == 0xFF || sb == 0xFF)
      let s : FVal × BitVec 6 :=
        if bad then (.fin false 0 0, flagVINV)
        else (sumGroup (pa.zip pb)).value (if sc then (sa : Int) + sb - 254 else 0)
      let r := fp32Form.convert .rne s.1
      let x := fp32Form.addV .rne (fp32Form.decode acc.bits) (fp32Form.decode r.bits)
      mmaElem t sc a b fuel (g + 1) { bits := x.bits, flags := acc.flags ||| s.2 ||| r.flags ||| x.flags }

/-- An I32 accumulator element after the products of two rows, modulo 2^32 (09 R219). -/
def mmaInt (a b : MmaRow) (acc : Nat) : Nat :=
  wrap 32 ((acc : Int) + ((a.ints.zip b.ints).map fun p => p.1 * p.2).foldl (· + ·) 0)

/-- An accumulator after the products of numbered rows of A and of Bᵗ, with the flags raised (09 R219, 03 R69). -/
def mmaRows (t : ElemTy) (x : AccTile) (ra rb : List (Nat × MmaRow)) : AccTile × BitVec 6 :=
  if x.int32 then (x.setElems (ra.flatMap fun p => rb.map fun q => (p.1, q.1, mmaInt p.2 q.2 (x.elem p.1 q.1))), 0)
  else
    let l := ra.flatMap fun p => rb.map fun q =>
      (p.1, q.1, mmaElem t x.sc p.2 q.2 8 0 { bits := x.elem p.1 q.1, flags := 0 })
    (x.setElems (l.map fun y => (y.1, y.2.1, y.2.2.bits)), l.foldl (fun f y => f ||| y.2.2.flags) 0)

/-- The rows of A that MMA reads, with their scale register (09 R216). -/
def mmaOperand (h : Hart) (n : Nat) (v sreg : VReg) : List (Nat × MmaRow) := (upTo 0 n).map fun i => (i, mmaRow h v sreg i)

/-- What MMA does to an accumulator, with the flags it raises (09 R219); asr and bsr name the scale registers. -/
def mmaTile (h : Hart) (x : AccTile) (a b asr bsr : VReg) : AccTile × BitVec 6 :=
  if h.vl = 0 then (x, 0)
  else mmaRows (vtFmt h.vtype) x (mmaOperand h x.m.toNat a asr) (mmaOperand h x.n.toNat b bsr)





/-- The elements that a drain or a load performs, from VES (09 R220): columns below VL that the mask admits. -/
def rowElems (h : Hart) (rows : BitVec 7) (k : KReg) : List Nat :=
  (upTo h.ves.toNat (64 * rows.toNat - h.ves.toNat)).filter fun e => decide (e % 64 < h.vl.toNat) && h.maskOn k (e % 64)

/-- The width in which a drain stores (09 R221). -/
def drainWidth (h : Hart) : Nat := elemWidth ((storedType (vmfEnc h.vmf) .fp32).getD .fp32)

/-- The elements below top of a drain to addresses given by row and column (09 R221). -/
def drain (top : Nat) (c : Acc) (row : BitVec 6) (rows : BitVec 7) (k : KReg) (base : Nat → Word) (s : State) : Ended :=
  let h := s.hart
  let a := accAt s s.cur.tile c
  let w := drainWidth h
  endStore false 8 (walkElems (fun acc e s =>
    let x := a.elem (row.toNat + e / 64) (e % 64)
    let r := encodeElem h (if a.int32 then .i32 else .fp32) x
    storeElem acc.length w (base (e / 64) + BitVec.ofNat 64 (e % 64 * (w / 8))) none r.bits r.flags s) ((rowElems h rows k).filter fun e => decide (e < top)) [] s)

/-- Whether the other hart of the tile has queued, before the instruction that runs, matrix work on an accumulator (09 R213). -/
def accBusy (s : State) (c : Acc) : Bool :=
  (s.tile.hart (!s.cur.h1)).vq.any fun x =>
    decide (x.seq < s.tile.issued) &&
    ((targets Hart.free x.instr).acc ++ (sources x.acc Hart.free x.instr).acc).any fun p => p.acc == c

/-- MDRAIN and MDRAINX up to an element (09 R221). -/
def drainTo (top : Nat) : Instr → State → Ended
  | .mdrain c a p row rows k => fun s =>
    drain top c row rows k (fun q => s.hart.rg a + BitVec.ofNat 64 q * s.hart.rg p) s
  | .mdrainx c a p row rows k => fun s =>
    drain top c row rows k (fun q => s.hart.rg a + BitVec.ofNat 64 (fld (s.hart.rv p).toNat (32 * q) 32)) s
  | _ => fun s => .wait s

/-- The execution of a matrix instruction (spec 09). MCFG takes tiles that are free at its issue once their last owner has done
with them (R213). -/
def matrixCore : Instr → State → Ended
  | .mcfg tiles fmt sc int32 m n => fun s =>
    let new : AccTile :=
      { owner := some s.cur.h1, m := m, n := n, int32 := int32, sc := sc, fmt := BitVec.ofNat 4 fmt.code, data := 0 }
    if (accMask tiles).any fun c => accBusy s c then .wait s else
    let s := (accMask tiles).foldl (fun s c =>
      let old := accAt s s.cur.tile c
      if { old with data := 0 } = new then s else (setAcc s s.cur.tile c new).modHart Hart.dirtyAcc) s
    .done 8 (s.modHart fun h => { h with ves := 0 })
  | .mzero c => fun s =>
    let s := setAcc s s.cur.tile c { accAt s s.cur.tile c with data := 0 }
    .done 4 (s.modHart fun h => { h.dirtyAcc with ves := 0 })
  | .mrel c => fun s =>
    let s := setAcc s s.cur.tile c AccTile.free
    .done 4 (s.modHart fun h => { h.dirtyAcc with ves := 0 })
  | .mma c a b => fun s =>
    let h := s.hart
    let r := mmaTile h (accAt s s.cur.tile c) a b (BitVec.ofNat 5 h.vsreg.toNat) (BitVec.ofNat 5 (fld h.vsreg.toNat 8 5))
    let s := setAcc s s.cur.tile c r.1
    .done 4 (s.modHart fun h => { (if h.vl = 0 then h else h.dirtyAcc).raise r.2 with ves := 0 })
  | .mdrain c a p row rows k => drainTo 8192 (.mdrain c a p row rows k)
  | .mdrainx c a p row rows k => drainTo 8192 (.mdrainx c a p row rows k)
  | .mldacc c a p row rows => fun s =>
    let h := s.hart
    let r := walkElems (fun (_ : List (Nat × Nat × Nat)) e s =>
      let ad : ElemAddr := fun e => (h.rg a + BitVec.ofNat 64 (e / 64) * h.rg p + BitVec.ofNat 64 (4 * (e % 64)), none)
      (readElem 32 ad e s).bind fun x s => .ok (row.toNat + e / 64, e % 64, x) s) (rowElems h rows 0) [] s
    let s := setAcc r.st r.st.cur.tile c ((accAt r.st r.st.cur.tile c).setElems r.acc.reverse)
    endElems r.stop r.pos 8 (if r.acc.isEmpty then s else s.modHart Hart.dirtyAcc)
  | _ => fun s => .wait s

/-- MCFG (09 R217): free tiles are taken; a tile whose configuration changes is zeroed. -/
def execMcfg (tiles : BitVec 4) (fmt : ElemTy) (sc int32 : Bool) (m n : BitVec 7) (s : State) : Out :=
  vecMemRun matrixCore (.mcfg tiles fmt sc int32 m n) s
/-- MZERO (09 R218). -/
def execMzero (c : Acc) (s : State) : Out := vecMemRun matrixCore (.mzero c) s
/-- MREL (09 R213, R218): the tile is free and its contents are lost. -/
def execMrel (c : Acc) (s : State) : Out := vecMemRun matrixCore (.mrel c) s
/-- MMA (09 R219). -/
def execMma (c : Acc) (a b : VReg) (s : State) : Out := vecMemRun matrixCore (.mma c a b) s
/-- MDRAIN: rows a signed stride apart (09 R221). -/
def execMdrain (c : Acc) (a p : GReg) (row : BitVec 6) (rows : BitVec 7) (k : KReg) (s : State) : Out :=
  vecMemRun matrixCore (.mdrain c a p row rows k) s
/-- MDRAINX: rows at the offsets of the index vector, a single register (09 R221). -/
def execMdrainx (c : Acc) (a : GReg) (p : VReg) (row : BitVec 6) (rows : BitVec 7) (k : KReg) (s : State) : Out :=
  vecMemRun matrixCore (.mdrainx c a p row rows k) s
/-- MLDACC (09 R222): words loaded as they are. -/
def execMldacc (c : Acc) (a p : GReg) (row : BitVec 6) (rows : BitVec 7) (s : State) : Out := vecMemRun matrixCore (.mldacc c a p row rows) s

end Sys2Proof.Machine
end

