-- ==== Sys2Proof/Machine/Errors.lean ====
section
/-! DEFINITION. Errors of the hardware: corrected and uncorrectable storage errors, bad values in registers, mismatches of protected
mode, the replay window (19 R391 to R398, 09 R224, 11 R261, 12 R296). -/

namespace Sys2Proof.Machine

/-- The context and the partition that a record about a hart names (19 R405). -/
def hartLog (s : State) (i : HartId) (kind sev : Nat) (addr data0 data1 : Nat) : State :=
  addLog s kind sev (partNum s i.tile) (getHart s i).ctxid i.tile addr data0 data1

/-- The farm of a hart charged with a corrected event, with the latest record (17 R357, R358). -/
def correctHart (s : State) (i : HartId) : State :=
  match (getHart s i).member with
  | none => s
  | some m => modFarm s m.farm fun f =>
      { f with verdict := match f.verdict with | .clean => .corrected | v => v, bittern := s.logSeq }

/-- TVAL of cause 0x0E for a bad word in the storage of a tile (19 R393). -/
def StoreWord.tval (x : StoreWord) : Word := BitVec.ofNat 64 (2 ^ 63 + x.num.toNat * 2 ^ 8 + x.kind.toNat)

/-- The trap of a bad value (15 R311). -/
def badValueTrap (tval : Word) : TrapRec := { code := 0x0E, sub := 0, tval := tval, unres := true }

/-- The trap of a mismatch at an element (15 R311). -/
def mismatchTrap (elem : Nat) : TrapRec := { code := 0x12, sub := 0, tval := BitVec.ofNat 64 elem, unres := true }

/-- The trap that an error of the replay window raises when it is not recovered (19 R398). -/
def Replay.trap (r : Replay) : TrapRec :=
  match r.cause with
  | .badValue v => badValueTrap v
  | .mismatch | .oldValues => mismatchTrap r.elem

/-- Whether a bad value or a mismatch may arise: copies are compared in protected mode only (19 R394 to R396). -/
def Replay.arises (r : Replay) (h : Hart) : Bool :=
  match r.cause with
  | .badValue _ => true
  | .mismatch | .oldValues => h.prot

/-- An instruction that lies in the replay window and has results that are compared or loaded: the vector, mask, matrix and
vector-memory instructions but those that run on the access side and the remote ones (01 R18, 19 R395 to R397), and the blocks
of 12 R296. -/
def inWindow (i : Instr) : Bool :=
  match i with
  | .setvl _ _ _ | .setvli _ _ _ _ _ | .mcfg _ _ _ _ _ _ | .mzero _ | .mrel _ | .wdrive _ _ | .rldx _ _ _ _ _
  | .rstx _ _ _ _ _ | .rapp _ _ _ _ _ => false
  | .wbMma _ | .wbAdd _ | .wbScale _ | .wbAct _ | .wbDrain _ | .wbBranch _ | .wbCall _ | .wbSync _ | .wbNop _ => true
  | _ => (vecForm i).isSome

/-- Whether an instruction of the window meets an error: copies are compared where it has results to write back, those of the
matrix array as they are drained, a block where it has an element left on a group or to drain (09 R224, 12 R296, 19 R395; log 31). -/
def Replay.strikes (r : Replay) (acc : Vector AccTile 4) (h : Hart) (i : Instr) : Bool :=
  match r.cause, i with
  | .badValue _, _ => true
  | _, .mma _ _ _ | _, .mldacc _ _ _ _ _ | _, .wbMma _ | _, .wbBranch _ | _, .wbCall _ | _, .wbSync _ | _, .wbNop _ => false
  | _, .mdrain _ _ _ _ rows k | _, .mdrainx _ _ _ _ rows k => !(rowElems h rows k).isEmpty
  | _, .wbAdd hdr | _, .wbScale hdr | _, .wbAct hdr => onGroup hdr && decide (h.wbesIdx.toNat < h.vl.toNat)
  | _, .wbDrain hdr => h.vl != 0 && decide (h.wbesIdx.toNat + 64 < 64 * (wholeAcc acc (routeAcc hdr)).rows + h.vl.toNat)
  | _, _ => h.vl != 0

/-- A vector atomic that returns old values (08 R206). -/
def returnsOld : Instr → Bool
  | .vamoadd _ _ _ _ | .vamoand _ _ _ _ | .vamoor _ _ _ _ | .vamoxor _ _ _ _ | .vamomin _ _ _ _ | .vamomax _ _ _ _
  | .vamoswp _ _ _ _ => true
  | _ => false

/-- A vector form, whose VES names the element of a trap of cause 0x0E (15 R311). -/
def isVectorForm (i : Instr) : Bool := (vecForm i).isSome

/-- A matrix instruction (spec 09). -/
def isMatrix : Instr → Bool
  | .mcfg _ _ _ _ _ _ | .mzero _ | .mrel _ | .mma _ _ _ | .mdrain _ _ _ _ _ _ | .mdrainx _ _ _ _ _ _ | .mldacc _ _ _ _ _ => true
  | _ => false

/-- A vector memory instruction (spec 08). -/
def isVecMem (i : Instr) : Bool :=
  match i with
  | .vcapp _ _ | .vcopy _ _ _ | .vfill _ _ _ | .vpostadd _ _ _ | .vpostand _ _ _ | .vpostor _ _ _ | .vpostxor _ _ _
  | .vpostmin _ _ _ | .vpostmax _ _ _ | .vpostswp _ _ _ => true
  | .wdrive _ _ => false
  | _ => returnsOld i || (!isMatrix i && (match vecForm i with | some f => f.vmf | none => false))

/-- What executes an instruction on memory or accumulators. -/
def coreOf (i : Instr) : Option (Instr → State → Ended) :=
  if isMatrix i then some matrixCore else if isVecMem i then some memCore else none

/-- Whether an instruction would be queued: its vector and mask sources are then read when it executes (log 5). -/
def queues (s : State) (i : Instr) : Bool :=
  match coreOf i with
  | some core => (vecTrap i s).isNone && (trial core i s).isSome
  | none =>
    s.relaxed && !writesG i && (match i with
      | .rldx _ _ _ _ _ | .rstx _ _ _ _ _ | .rapp _ _ _ _ _ => false
      | _ => match vecForm i with | some f => f.vtype && !f.vmf | none => false)

/-- The machine at the end of an execution changed. -/
def Ended.map (f : State → State) : Ended → Ended
  | .done n s => .done n (f s)
  | .stop t s => .stop t (f s)
  | .fail t s => .fail t (f s)
  | .wait s => .wait (f s)

/-- The elements of an instruction before a bad one: an instruction that can stop partway performs them (01 R20, 02 R43); one
that packs records, those of the blocks before it (08 R198; log 31). -/
def performBelow (i : Instr) (e : Nat) (s : State) : Ended :=
  let h := s.hart
  match i with
  | .mdrain _ _ _ _ _ _ | .mdrainx _ _ _ _ _ _ => drainTo e i s
  | .mldacc _ _ _ _ _ | .vldz _ _ _ _ _ | .vstz _ _ _ _ _ | .vcapp _ _ => .done 0 s
  | _ =>
    if !isVecMem i then .done 0 s else
    let e := if (packedType (vmfEnc h.vmf)).isSome && !vtSc h.vtype then e / 32 * 32 else e
    (memCore i (s.modHart fun h => { h with vl := BitVec.ofNat 16 (min e h.vl.toNat) })).map fun t =>
      t.modHart fun x => { x with vl := h.vl }

/-- The element of an instruction that a bad word stops: the index of MDRAINX serves a row (09 R221). -/
def stopElem (i : Instr) (x : StoreWord) (e : Nat) : Nat :=
  match i with
  | .mdrainx _ _ _ _ _ _ => if x.kind == 2 then 64 * e else e
  | _ => e

/-- The first bad word of a hart that an instruction with given sources reads, and its element (19 R392). -/
def Hart.badSource (h : Hart) (n : Names) : Option (StoreWord × Nat) :=
  h.badStore.findSome? fun x => (h.consumes n x).map fun e => (x, e)

/-- Entries that squashed instructions took from stream engines, back at the head of the engines' buffers (01 R24, 19 R396). -/
def giveBack (s : State) (i : HartId) (l : List Queued) : State :=
  l.reverse.foldl (fun s x =>
    match x.bound, (vecForm x.instr).bind fun f => f.queue with
    | some es, some n =>
      (match boundEngine s i n.toNat with
       | some (e, y) => setEngine s i.tile e (some { y with
           entries := es.map (fun p => p.1) ++ y.entries, entryFlags := es.map (fun p => p.2) ++ y.entryFlags })
       | none => s)
    | _, _ => s) s

/-- Owners and configurations that squashed matrix instructions of a hart gave to accumulator tiles undone (19 R396). -/
def unconfigure (s : State) (i : HartId) (l : List Queued) : State :=
  l.reverse.foldl (fun s x =>
    (targets Hart.free x.instr).acc.foldl (fun s p =>
      let a := accAt s i.tile p.acc
      if a.owner == some (!i.h1) then s
      else setAcc s i.tile p.acc (a.under (x.acc.get ⟨p.acc.toNat, p.acc.isLt⟩))) s) s

/-- A hart with a trap of the execute side: what its queue holds has no effect, the instruction at pc is the oldest that has not
retired (01 R20, 15 R311). -/
def unwind (s : State) (i : HartId) (pc : Word) (ves : BitVec 16) : State :=
  let l := (getHart s i).vq
  Machine.modHart (unconfigure (giveBack s i l) i l) i fun h =>
    { h with vq := [], pc := pc, ves := ves, inProgress := none, sync := none, capp := none, replay := none, replayed := none }

/-- Bad data in the storage of a tile consumed by the instruction at pc: the record, the verdict, cause 0x0E with TVAL by 19
R393 (19 R392; log 31). -/
def consumeStored (s : State) (i : HartId) (pc : Word) (vector : Bool) (x : StoreWord) (e : Nat) : State :=
  let s := taintHart (hartLog s i 0x02 2 x.tval.toNat 0x0E pc.toNat) i 0x02
  trapAt (unwind s i pc (if vector then BitVec.ofNat 16 e else (getHart s i).ves)) i (badValueTrap x.tval)

/-- A block whose header or payload cannot be read: WBES is 0, but for a block whose effect is complete, or a WB.SYNC that has
arrived, which R292 does not let begin anew (12 R286; log 64). -/
def Hart.restartBlock (h : Hart) : Hart := if h.wbesDone || h.wbesArr then h else { h with wbesIdx := 0 }

/-- The tickets of the .sc elements that a squash has squashed: they are used, and order nothing (19 R397; log 31). -/
def squashTickets (s : State) (r : Replay) : State := { s with ticket := s.ticket + BitVec.ofNat 64 r.tickets }

/-- The record of kind 0x04 and the verdict of an error that no replay recovers (19 R398). -/
def logLost (s : State) (i : HartId) (r : Replay) : State :=
  let addr := match r.cause with | .badValue v => v.toNat | _ => 0
  squashTickets (taintHart (hartLog s i 0x04 2 addr r.trap.code.toNat r.elem) i 0x04) r

/-- An error that the replay of the instruction at pc meets again: a record of kind 0x04, the verdict, cause 0x12 or 0x0E (19
R398). In weight-driven mode WBES names the element (12 R296; log 31). -/
def notRecovered (s : State) (i : HartId) (pc : Word) (r : Replay) : State :=
  let s := logLost s i r
  let h := getHart s i
  let s := match h.run, r.cause with
    | .weight, .badValue _ => Machine.modHart (unwind s i pc h.ves) i Hart.restartBlock
    | .weight, _ => Machine.modHart (unwind s i pc h.ves) i fun h => { h with wbesIdx := BitVec.ofNat 32 r.elem }
    | _, .badValue _ => unwind s i pc (BitVec.ofNat 16 r.elem)
    | _, _ => unwind s i pc h.ves
  trapAt s i r.trap

/-- What names the instruction that a hart is about to run: its address, or in weight-driven mode its block's (19 R398, 12 R296). -/
def Hart.place (h : Hart) : Word :=
  match h.run with
  | .weight => BitVec.ofNat 64 (h.wbaAddr.toNat * 64)
  | _ => h.pc

/-- Whether an error is the second that names an instruction: its replay meets it too, or has been begun already (19 R398; log 31). -/
def Hart.second (h : Hart) (place : Word) (r : Replay) : Bool :=
  r.again || (match h.replayed with | some x => x.1 == place | none => false)

/-- The replay of the instruction at a place begins: it is reissued, a block with its payload read again (19 R396 to R398, 12
R296; log 31). -/
def beginReplay (s : State) (i : HartId) (place : Word) (r : Replay) : State :=
  Machine.modHart (squashTickets s r) i fun h => { h with replay := none, replayed := some (place, r.elem), wbBlock := none }

/-- An error that a replay has recovered: the farm charged with a corrected event, a record of kind 0x03 (19 R398; log 31). -/
def recovered (s : State) (i : HartId) (pc : Word) (elem : Nat) : State :=
  Machine.modHart (correctHart (hartLog s i 0x03 1 0 pc.toNat elem) i) i fun h => { h with replayed := none }

/-- The instruction at a place completes: its replay, if one is under way, has recovered (19 R398; log 31). -/
def finishReplay (s : State) (i : HartId) (place pc : Word) : State :=
  match (getHart s i).replayed with
  | some x => if x.1 == place then recovered s i pc x.2 else s
  | none => s

/-- An execution that is done where it may go on: with an error that follows, in a trap before it, or in a wait. -/
def Ended.followed (e : Ended) (i : HartId) (k : State → State) : State :=
  match e with
  | .done _ s => k s
  | .stop t s | .fail t s => trapAt s i t
  | .wait s => s

/-- What an error does to the instruction that the current hart is about to run: none where it runs. One whose sources it meets
at issue waits for the instructions before it (01 R20, R21; 19 R392, R396 to R398; log 31). -/
def meetError (i : Instr) (s : State) : Option State :=
  let h := s.hart
  let n := sources s.tile.acc h i
  let now : Names :=
    if h.vq.isEmpty && !queues s i then { n with q := n.q.filter fun q => (boundEngine s s.cur q.1.toNat).isNone }
    else { g := n.g }
  match h.badSource now with
  | some (x, e) =>
    if !h.vq.isEmpty then some (schedule s [.vectorInstructionRetirement s.cur])
    else
      let e := stopElem i x e
      some ((performBelow i e s).followed s.cur fun s => consumeStored s s.cur h.pc (isVectorForm i) x e)
  | none =>
    match h.replay with
    | none => none
    | some r =>
      if !inWindow i || queues s i || !h.vq.isEmpty then none
      else if !r.arises h || !r.strikes s.tile.acc h i then some (s.modHart fun h => { h with replay := none })
      else match r.cause with
        | .oldValues => if returnsOld i then none else some (s.modHart fun h => { h with replay := none })
        | .badValue _ =>
          some (if h.second h.place r then (performBelow i r.elem s).followed s.cur fun s => notRecovered s s.cur h.pc r
                else beginReplay s s.cur h.place r)
        | .mismatch => some (if h.second h.place r then notRecovered s s.cur h.pc r else beginReplay s s.cur h.place r)

/-- Whether a hart has entered its supervisor between two states of it. -/
def Hart.entered (old new : Hart) : Bool := (old.level == .u && new.level == .s) || (new.tip && !old.tip)

/-- The bad words of a hart that remain when an instruction has completed: those that it wrote whole are good again, entries
of its own queue that it consumed are gone, a SETVL that clears the registers clears them (19 R391, 01 R14; log 69). -/
def Hart.repair (old : Hart) (i : Instr) (own : Bool) (new : Hart) : List StoreWord :=
  let n := targets old i
  let g := vtG old.vtype
  let cleared : Bool := match i with
    | .setvl _ _ _ | .setvli _ _ _ _ _ => new.v == Vector.replicate 32 0
    | _ => false
  let kept := old.badStore.filter fun x => !old.rewrites n x && !(cleared && (x.kind == 2 || x.kind == 3))
  match (vecForm i).bind fun f => f.queue with
  | none => kept
  | some q => kept.filterMap fun x =>
      if own && x.kind == 4 && x.num.toNat == q.toNat then
        (if x.word < 256 * g then none else some { x with word := x.word - 256 * g })
      else some x

/-- Vector registers as they were before a VAMO whose old values do not agree: it writes none, and VES is as it was (19 R397,
15 R311). -/
def Hart.withoutOld (old h : Hart) : Hart := { h with v := old.v, val := old.val, vdirty := old.vdirty, ves := old.ves }

/-- Whether a hart has completed an instruction, or a block of weight-driven mode, between two states of it (12 R286, 19 R396). -/
def Hart.completed (old new : Hart) : Bool :=
  !old.entered new && (match old.run with
    | .weight => !new.wbResume || new.run != .weight
    | _ => new.pc != old.pc && decide (new.vq.length ≤ old.vq.length))

/-- The state after an instruction of the current hart: words that it wrote are good again; its replay has recovered; where the
compare of the old values of a VAMO fails, its writes to memory stay, it writes no register, and cause 0x12 follows at once (19 R391,
R397, R398; log 31). -/
def settle (i : Instr) (s t : State) : State :=
  let old := s.hart
  let done := old.completed t.hart
  let own := match (vecForm i).bind fun f => f.queue with | some q => (boundEngine s s.cur q.toNat).isNone | none => false
  let t := if old.badStore.isEmpty || !done || t.cur != s.cur then t
    else t.modHart fun h => { h with badStore := old.repair i own h }
  let finish (t : State) : State :=
    if old.replayed.isSome && done && t.cur == s.cur then finishReplay t t.cur old.place old.pc else t
  match old.replay with
  | none => finish t
  | some r =>
    if r.cause == .oldValues && r.arises old && returnsOld i && done then
      notRecovered (t.modHart old.withoutOld) t.cur old.pc r
    else finish t

/-- The machine as the oldest queued instruction of a hart executes: that hart's turn, what the instruction captured in place
(01 R18). -/
def staged (s : State) (i : HartId) (x : Queued) : State :=
  let s := { s with cur := i }
  let s := s.modTile fun t => { t with issued := x.seq, acc := Vector.ofFn fun c => (t.acc.get c).under (x.acc.get c) }
  s.modHart fun h => { h.install x with vq := [], pc := x.pc }

/-- What belongs to the access side put back after a queued instruction has executed; l is the queue then (01 R18). -/
def unstaged (old : State) (i : HartId) (l : List Queued) (t : State) : State :=
  let x := tileAt old i.tile
  let o := getHart old i
  let t := Machine.modTile t i.tile fun y =>
    { y with issued := x.issued, acc := Vector.ofFn fun c => (y.acc.get c).under (x.acc.get c) }
  let t := Machine.modHart t i fun h =>
    { h with vq := l, pc := o.pc, g := o.g, uliActive := o.uliActive, level := o.level, vl := o.vl, ill := o.ill, vtype := o.vtype,
             vlmax := o.vlmax, frm := o.frm, vmf := o.vmf, vmfs := o.vmfs, vsreg := o.vsreg, ctxid := o.ctxid,
             translated := o.translated, root := o.root, asid := o.asid, pages := o.pages, inProgress := o.inProgress }
  { t with cur := old.cur }

/-- What a VLDZ or VSTZ gives the access side as it retires: its g register, and VL unless a SETVL has replaced it (01 R19, 08 R201,
R202); done is the hart as it executed (log 5). -/
def Queued.deliver (x : Queued) (done h : Hart) : Hart :=
  match exfp8Reg x.instr with
  | some p => { h.wg p (done.rg p) with vl := if x.setsVl then done.vl else h.vl }
  | none => h

/-- A queued instruction that waits partway: a VLDQ that has appended its entries adds none any more (01 R24; log 52). -/
def Queued.begun (x : Queued) (old new : Hart) : Queued :=
  match x.adds with
  | some n => if (old.queue n).length < (new.queue n).length then { x with adds := none } else x
  | none => x

/-- The oldest queued instruction of a hart executed: on registers it retires; on memory or accumulators it retires, waits
partway, or stops in a trap that names it (01 R18, R20; log 5). -/
def executeOldest (s : State) (i : HartId) (x : Queued) (rest : List Queued) : State :=
  let h := getHart s i
  let in' := h.install x
  let good (h : Hart) : Hart :=
    if h.badStore.isEmpty then h else { h with badStore := in'.repair x.instr x.takes.isSome h }
  match coreOf x.instr with
  | none => finishReplay (Machine.modHart s i fun h => good h.retire) i x.pc x.pc
  | some core =>
    match core x.instr (staged s i x) with
    | .done _ t =>
      let t := Machine.modHart (unstaged s i rest (t.modHart good)) i (x.deliver t.hart)
      (match h.replay with
       | some r =>
         if r.cause == .oldValues && r.arises h && returnsOld x.instr then
           notRecovered (Machine.modHart t i h.withoutOld) i x.pc r
         else finishReplay t i x.pc x.pc
       | none => finishReplay t i x.pc x.pc)
    | .wait t => unstaged s i (x.begun h (getHart t i) :: rest) t
    | .stop c t | .fail c t => trapAt (unwind (unstaged s i rest t) i x.pc (getHart t i).ves) i c

/-- The oldest queued instruction of a hart with an error that follows the elements before it: k acts on the machine after
them. -/
def stopOldest (s : State) (i : HartId) (x : Queued) (rest : List Queued) (e : Nat) (k : State → State) : State :=
  match performBelow x.instr e (staged s i x) with
  | .done _ t => k (unstaged s i rest t)
  | .wait t => unstaged s i (x.begun (getHart s i) (getHart t i) :: rest) t
  | .stop c t | .fail c t => trapAt (unwind (unstaged s i rest t) i x.pc (getHart t i).ves) i c

/-- The execution of the oldest queued vector instruction of a hart, with the errors that it meets (01 R18, 19 R392, R396 to
R398; log 31). -/
def retireOldest (s : State) (i : HartId) : State :=
  let h := getHart s i
  match h.vq with
  | [] => s
  | x :: rest =>
    let in' := h.install x
    let n := sources x.acc in' x.instr
    match in'.badSource { n with g := [], q := if x.takes.isSome then n.q else none } with
    | some (b, e) =>
      let e := stopElem x.instr b e
      stopOldest s i x rest e fun s => consumeStored s i x.pc true b e
    | none =>
      match h.replay with
      | none => executeOldest s i x rest
      | some r =>
        if !inWindow x.instr || (r.cause == .oldValues && returnsOld x.instr) then executeOldest s i x rest
        else if r.arises h && r.strikes x.acc in' x.instr && r.cause != .oldValues then
          (if !h.second x.pc r then executeOldest (beginReplay s i x.pc r) i x rest
           else match r.cause with
             | .badValue _ => stopOldest s i x rest r.elem fun s => notRecovered s i x.pc r
             | _ => notRecovered s i x.pc r)
        else executeOldest (Machine.modHart s i fun h => { h with replay := none }) i x rest

/-- Bits of a pointer of a directory entry (18 R361). -/
def DirPtr.bits : DirPtr → Nat
  | .tile t => 2 ^ 12 + tileX t + 64 * tileY t
  | .host => 2 * 2 ^ 12
  | .resv t e => 3 * 2 ^ 12 + (Config.reservationIndex t e.toNat).toNat

/-- A directory entry as 18 R361 lays it out (log 31). -/
def DirEntry.bits (d : DirEntry) : Nat :=
  let state := if d.busy.isSome then 2 else if d.ptrs.isEmpty then 0 else 1
  state * 2 ^ 126 + bit d.poison * 2 ^ 125 + d.ref % 32 * 2 ^ 120 + bit d.sv * 2 ^ 119 + d.sid % 2 ^ 15 * 2 ^ 104 +
  d.sage % 256 * 2 ^ 96 + (d.ptrs.take 6).foldr (fun p x => p.bits + 2 ^ 14 * x) 0

/-- A corrected error counted for a lane cluster; the management core retires a cluster whose count reaches 16 (19 R399). -/
def countError (s : State) (t : Nat) (c : BitVec 3) : State :=
  let n := (tileAt s t).errCounts.get ⟨c.toNat, c.isLt⟩ + 1
  let s := Machine.modTile s t fun x => { x with errCounts := x.errCounts.set c.toNat n c.isLt }
  if n = 16 then schedule s [.clusterRetirement t c] else s

/-- An error of the hardware happens (19 R391 to R396, R399, R406; 11 R260, R261; log 31). -/
def applyUpset (u : Upset) (s : State) : State :=
  match u with
  | .corrected i storage addr cluster =>
    let s := match cluster with | some c => countError s i.tile c | none => s
    let n := match cluster with | some c => (tileAt s i.tile).errCounts.get ⟨c.toNat, c.isLt⟩ | none => 0
    correctHart (hartLog s i 0x01 1 addr.toNat storage.toNat n) i
  | .codeword w => { s with bad := if s.bad.contains w then s.bad else s.bad ++ [w] }
  | .parity i storage l =>
    correctHart (hartLog (Machine.modTile s i.tile fun x => { x with icache := alDel x.icache l }) i 0x01 1 (128 * l) storage.toNat 0) i
  | .directory l => addLog (setDir s l { dirAt s l with poison := true }) 0x0A 0 0xFF 0 0xFFFF (128 * l) 0 1
  | .reservation l =>
    (match s.resvs.find? fun r => r.lines.contains l with
     | some r => addLog (setDir s l { dirAt s l with poison := true }) 0x0A 0 r.part r.ctx r.tile (128 * l) r.ident.toNat 1
     | none => s)
  | .register i x cluster =>
    let s := Machine.modHart s i fun h => { h with badStore := if h.badStore.contains x then h.badStore else h.badStore ++ [x] }
    match cluster with | some c => schedule s [.clusterRetirement i.tile c] | none => s
  | .fabric t n =>
    match (fabricAt s t).occupant n with
    | some r => if r.stopped then s else regionFault s t r.cfg.index n 0x3F
    | none => s
  | .duplex t n ch =>
    match (fabricAt s t).home n with
    | some r => if r.barred || !r.cfg.duplex then s else fabricMismatch s t r.cfg.index n ch
    | none => s
  | .replay i r cluster =>
    let s := Machine.modHart s i fun h => { h with replay := some r }
    match cluster with | some c => schedule s [.clusterRetirement i.tile c] | none => s
  | .protocol l =>
    let d := (dirAt s l).bits
    addLog s 0x10 0 0xFF 0 0xFFFF (128 * l) (d % 2 ^ 64) (d / 2 ^ 64)

end Sys2Proof.Machine
end

