-- ==== Sys2Proof/Machine/Lifecycle.lean ====
section
/-! DEFINITION. HALT, SAFEPT and NEXTS, the retirement of a queued vector instruction, and what a hart takes at its boundaries:
S-level and user-level interrupts, the countdown, the safe-point distance fault, the end of WFE (01 R16 to R25, 02 R51,
06 R150 to R156, 15 R304 to R317). -/

namespace Sys2Proof.Machine

/-- What a hart leaves behind at HALT: its streams closed, its fabric draining, its accumulators released, its lane clusters
passed (01 R27, 09 R213, 11 R271). -/
def haltLeaves (s : State) : State :=
  let i := s.cur
  let s := fabricHalt s i
  let owned := (accMask 15).filter fun c => (accAt s i.tile c).owner == some i.h1
  let s := owned.foldl (fun s c => setAcc s i.tile c AccTile.free) s
  let s := if owned.isEmpty then s else s.modHart Hart.dirtyAcc
  passClusters s i

/-- HALT at U: the hart leaves its farm and is free; its context has no resident vector state left (01 R17, 17 R351). -/
def haltUser (s : State) : State :=
  let s := leaveFarm (haltLeaves s) s.cur true
  s.modHart fun h => { h with run := .halted, vownV := h.vownV && h.vownId != h.ctxid }

/-- HALT at S: the hart stops and escalates (06 R151, 15 R309; log 39). -/
def haltSupervisor (s : State) : State := (escalateLog (haltLeaves s) s.cur).modHart fun h => { h with run := .stopped }

/-- HALT (06 R151; 10 R245 for its batches). -/
def execHalt (s : State) : Out :=
  waitVq s <| closeBatch s fun s => waitBatches 0 s fun s => reportFailures s fun s => waitPerformed s fun s =>
    .next (match s.hart.level with
      | .u => haltUser s
      | .s => haltSupervisor s)

/-- The values of SPE0 and SPE1 that make every register live (15 R316). -/
def allLive0 : Word := 0xFFFFFFFFFFFFFFFE
def allLive1 : Word := 0x3FFF

/-- The safe-point entry of an id, read at S, not from memory of type 3 (04 R76, 15 R316): none where the read fails. -/
def safePointEntry (s : State) (id : BitVec 16) : Access (Option Nat) :=
  let h := s.hart
  if h.sptb = 0 then .ok none s
  else
    let a := wordActor s
    match loadAs { a with sp := { a.sp with level := .s } } .load 16 (h.sptb + 16 * id.setWidth 64) s with
    | .ok x s => .ok (some x) s
    | .stall s => .stall s
    | .trap _ s => .ok none s

/-- The entry of a pre-emption of the current hart (15 R306, R316, R317): entry is what SPE0 and SPE1 receive. -/
def preempt (s : State) (pc tval : Word) (full : Bool) (spf : Bool) (spe0 spe1 : Word) : State :=
  (leaveWeight s s.cur).modHart fun h =>
    { h.enter (causeWord true 0 0x20) tval pc full spf false with spe0 := spe0, spe1 := spe1, sip := h.sip &&& 6 }

/-- SAFEPT (06 R152, 15 R316; 10 R245 for its batches). -/
def execSafept (id : BitVec 16) (s : State) : Out :=
  waitVq s <| closeBatch s fun s => waitBatches 0 s fun s => reportFailures s fun s =>
    if !queuesEmpty s s.cur then takeTrap s (illegal (.safept id))
    else match s.hart.level with
    | .s => .next (s.modHart fun h => h.advance 4)
    | .u =>
      if s.hart.sip.getLsbD 0 && !defersPreemption s s.cur then
        match safePointEntry s id with
        | .stall s => .next s
        | .trap t s => takeTrap s t
        | .ok e s =>
          let s := s.modHart fun h => { h with spcnt := 0 }
          .next (match e with
            | some e => preempt s (s.hart.pc + 4) (id.setWidth 64) false false (BitVec.ofNat 64 e) (BitVec.ofNat 64 (e / 2 ^ 64))
            | none => preempt s (s.hart.pc + 4) (id.setWidth 64) false true allLive0 allLive1)
      else .next (s.modHart fun h => { h with spcnt := 0 }.advance 4)

/-- NEXTS (01 R16, 06 R153): the rake's next strip in g1 and g2; a hart that is not placed for a farm traps (log 59). -/
def execNexts (s : State) : Out :=
  match (s.hart.member.bind fun m => farmBy s m.farm) with
  | none => takeTrap s (illegal .nexts)
  | some f =>
    let r := f.take
    .next ((modFarm s f.id fun _ => r.2).modHart fun h => ((h.wg 1 r.1.1).wg 2 r.1.2).advance 4)

/-- VECTOR_INSTRUCTION_RETIREMENT: the oldest queued vector instruction of a hart has its effect, or meets an error (01 R18,
19 R396). -/
def execVectorInstructionRetirement (s : State) : Out :=
  match headEvent s with
  | some (.vectorInstructionRetirement i, s) => .next (retireOldest s i)
  | _ => .next s

/-- The S-level interrupt that is due at a boundary (15 R307). -/
def Hart.dueInterrupt (h : Hart) : Option (BitVec 8) :=
  if !h.atBoundary || (h.level == .s && !(h.ie && !h.tip)) then none
  else if h.sip.getLsbD 2 then some 0x22
  else if h.sip.getLsbD 1 then some 0x21
  else none

/-- INTERRUPT_ENTRY: the S-level interrupt that is due is taken (15 R306, R307; log 10). -/
def execInterruptEntry (s : State) : Out :=
  match headEvent s with
  | some (.interruptEntry i, s) =>
    .next (match (getHart s i).dueInterrupt with
      | some c => takeInterrupt s i c
      | none => s)
  | _ => .next s

/-- Whether a user-level interrupt may be taken (02 R51): at U, outside weight-driven mode (12 R294; log 27). -/
def Hart.dueUser (h : Hart) : Bool :=
  h.atBoundary && h.run != .weight && h.level == .u && h.ulivec.getLsbD 0 && !h.uliActive && h.ulipend != 0

/-- The lowest bit of ULIPEND that is set. -/
def lowestPending (p : BitVec 4) : Nat :=
  if p.getLsbD 0 then 0 else if p.getLsbD 1 then 1 else if p.getLsbD 2 then 2 else 3

/-- Entry into the user-level handler (02 R51). -/
def Hart.userEntry (h : Hart) : Hart :=
  let e := lowestPending h.ulipend
  { h with
    ulipend := h.ulipend &&& ~~~(1#4 <<< e), uliEvent := BitVec.ofNat 4 (e + 1), uliActive := true, uliepc := addrField h.pc
    shd := Vector.ofFn fun n => h.g.get ⟨24 + n.val, by omega⟩
    pc := addrField h.ulivec, run := .running, batchWait := false, bwait := none, replayed := none }

/-- USER_LEVEL_INTERRUPT (02 R51; log 27). -/
def execUserLevelInterrupt (s : State) : Out :=
  match headEvent s with
  | some (.userLevelInterrupt i, s) => .next (if (getHart s i).dueUser then Machine.modHart s i Hart.userEntry else s)
  | _ => .next s

/-- SCOUNT_ZERO: SCOUNT falls from 1 to 0 and SIP.CNT is set (15 R304). -/
def execScountZero (s : State) : Out :=
  match headEvent s with
  | some (.scountZero i, s) =>
    .next (Machine.modHart s i fun h => if h.scount = 1 then { h with scount := 0, sip := h.sip ||| 2 } else h)
  | _ => .next s

/-- Whether the safe-point distance fault is due (15 R314). -/
def Hart.dueDistance (h : Hart) : Bool :=
  h.atBoundary && h.level == .u && h.spdist != 0 && decide (h.spdist < h.spcnt)

/-- SAFE_POINT_DISTANCE_FAULT: cause 0x0A at a boundary, with SPCNT in TVAL (15 R311, R314). -/
def execSafePointDistanceFault (s : State) : Out :=
  match headEvent s with
  | some (.safePointDistanceFault i, s) =>
    .next (if (getHart s i).dueDistance then trapAt s i (trapOf 0x0A ((getHart s i).spcnt.setWidth 64)) else s)
  | _ => .next s

/-- WFE_TIME_LIMIT: the wait ends (06 R150; log 9). -/
def execWfeTimeLimit (s : State) : Out :=
  match headEvent s with
  | some (.wfeTimeLimit i, s) => .next (Machine.modHart s i fun h => if h.run = .wfe then { h with run := .running } else h)
  | _ => .next s

end Sys2Proof.Machine
end

