-- ==== Sys2Proof/Machine/Health.lean ====
section
/-! DEFINITION. Lane-cluster retirement, guard bands, tile deconfiguration, the deconfiguration record, health monitors, the thermal
stop (19 R399 to R404, 21 R416). -/

namespace Sys2Proof.Machine

/-- A deconfiguration record that verifies (19 R403). -/
def validRecord (r : Option DeconfRecord) : Option DeconfRecord := r.bind fun x => if x.valid then some x else none

/-- The record that the device applies, with whether it lies in slot 1: the valid one with the higher SEQ (19 R403). -/
def chosenRecord (f : Flash) : Option (DeconfRecord × Bool) :=
  match validRecord f.slot0, validRecord f.slot1 with
  | some a, some b => if a.seq < b.seq then some (b, true) else some (a, false)
  | some a, none => some (a, false)
  | none, some b => some (b, true)
  | none, none => none

/-- The record that the present state of the tiles and guard bands gives. -/
def recordNow (s : State) (seq : Word) : DeconfRecord where
  seq := seq
  serial := s.serial
  tiles := s.tiles.filterMap fun e => if e.2.dead || e.2.lanemap != 0 then some (e.1, e.2.dead, e.2.lanemap) else none
  gb := s.gb
  valid := true

/-- The record written to the slot that does not hold the current one (19 R403). -/
def writeDeconf (s : State) : State :=
  match chosenRecord s.flash with
  | some (r, true) => { s with flash := { s.flash with slot0 := some (recordNow s (r.seq + 1)) } }
  | some (r, false) => { s with flash := { s.flash with slot1 := some (recordNow s (r.seq + 1)) } }
  | none => { s with flash := { s.flash with slot0 := some (recordNow s 1) } }

/-- A lane cluster retired (19 R399): LANEMAP, the configuration registers, the log, the record (log 42). -/
def retireCluster (s : State) (t : Nat) (c : BitVec 3) : State :=
  if (tileAt s t).lanemap.getLsbD c.toNat then s else
  let s := Machine.modTile s t fun x => { x with lanemap := x.lanemap ||| 1#8 <<< c.toNat }
  let s := addLog { s with gen := s.gen + 1 } 0x05 3 (partNum s t) 0 t 0 c.toNat (tileAt s t).lanemap.toNat
  writeDeconf s

/-- CLUSTER_RETIREMENT (19 R399). -/
def execClusterRetirement (s : State) : Out :=
  match headEvent s with
  | some (.clusterRetirement t c, s) => .next (retireCluster s t c)
  | _ => .next s

/-- The voltage domains of the package (19 R400). -/
def domains : Nat := 72

/-- GUARD_BAND_RAISE: GB rises by one step, to 30 at most (19 R400; log 42). -/
def execGuardBandRaise (s : State) : Out :=
  match headEvent s with
  | some (.guardBandRaise d, s) =>
    let g := (alGet s.gb d).getD 0
    .next (if domains ≤ d ∨ 30 ≤ g then s else
      writeDeconf (addLog { s with gb := alSet s.gb d (g + 1), gen := s.gen + 1 } 0x06 0 0xFF 0 0xFFFF 0 d (g + 1)))
  | _ => .next s

/-- The contexts that have a hart, an agent or a fabric on a tile, each once (log 42). -/
def contextsOn (s : State) (t : Nat) : List Nat :=
  let x := tileAt s t
  let harts := [x.h0, x.h1].filterMap fun h =>
    if h.translated && h.run != .halted && h.run != .stopped then some h.ctxid.toNat else none
  let engines := x.engines.toList.filterMap fun e => e.map fun e => e.ctx.toNat
  let owner := match x.fabric.owner with | some o => [o.2.toNat] | none => []
  nubNat (harts ++ engines ++ owner)

/-- A hart stopped for good: nothing that it had under way is left. -/
def Hart.stop (h : Hart) : Hart := { { h with level := .u }.kill with level := h.level, run := .stopped }

/-- A tile deconfigured (19 R401): its engines are lost (18 R380), every context on it is killed, its harts stop, no hart is placed on it
again (log 42). -/
def deconfigure (s : State) (t : Nat) : State :=
  if (tileAt s t).dead then s else
  let ctxs := contextsOn s t
  let s := (upTo 0 4).foldl (fun s n => match engineAt s t (BitVec.ofNat 2 n) with
    | some _ => loseEngine s t (BitVec.ofNat 2 n)
    | none => s) s
  let s := match partOf s t with
    | some p => ctxs.foldl (fun s c => killContext s p (BitVec.ofNat 16 c)) s
    | none => s
  let s := Machine.modTile s t fun x =>
    { x with dead := true, h0 := x.h0.stop, h1 := x.h1.stop, fabric := Fabric.empty, seqr := none, mailbox := none, postReply := none }
  let s := { s with calls := s.calls.filter fun i => i.tile != t }
  let s := addLog { s with gen := s.gen + 1 } 0x07 3 (partNum s t) 0 t 0 8 ctxs.length
  writeDeconf s

/-- TILE_DECONFIGURATION (19 R401). -/
def execTileDeconfiguration (s : State) : Out :=
  match headEvent s with
  | some (.tileDeconfiguration t, s) => .next (deconfigure s t)
  | _ => .next s

/-- Every partition's contexts that have a hart, an agent, a fabric, a farm or a peer-group table. -/
def allContexts (s : State) : List (Partition × Nat) :=
  s.parts.flatMap fun p =>
    let onTiles := (s.tiles.filter fun e => partNum s e.1 == p.num).flatMap fun e => contextsOn s e.1
    let farms := (s.farms.filter fun f => f.part == p.num).map fun f => f.ctx.toNat
    let tables := (s.peerTables.filter fun t => t.part == p.num).map fun t => t.ctx.toNat
    (nubNat (onTiles ++ farms ++ tables)).map fun c => (p, c)

/-- THERMAL_STOP: a temperature above 110 °C, in units of 0.25 °C, kills every context, stops every hart, and ends READY
(21 R416; log 42, 48). -/
def execThermalStop (s : State) : Out :=
  match headEvent s with
  | some (.thermalStop t v, s) =>
    .next (if v.toNat ≤ 440 || !s.ready then s else
      let s := (allContexts s).foldl (fun s c => killContext s c.1 (BitVec.ofNat 16 c.2)) s
      let s := { s with tiles := s.tiles.map fun e => (e.1, { e.2 with h0 := e.2.h0.stop, h1 := e.2.h1.stop }) }
      let s := addLog s 0x11 0 0xFF 0 t 0 t v.toNat
      { s with ready := false, errCode := 6 })
  | _ => .next s

/-- What a monitor samples (19 R404): for signal 3 the entries in the vector instruction queue of hart ARG of its tile; for any other what
the event brings, as for signal 2 of a request that the model makes in one step (log 48). -/
def Monitor.signal (m : Monitor) (x : Tile) (v : BitVec 32) : BitVec 32 :=
  if fld m.ctl.toNat 0 8 = 3 then BitVec.ofNat 32 (x.hart (bitAt m.ctl.toNat 8)).vq.length else v

/-- HEALTH_MONITOR_SAMPLE (19 R404; log 48). -/
def execHealthMonitorSample (s : State) : Out :=
  match headEvent s with
  | some (.healthMonitorSample t m v, s) => .next (modMonitor s t m fun x => x.take (x.signal (tileAt s t) v))
  | _ => .next s

/-- HEALTH_MONITOR_CLEAR: CLR written (19 R404). -/
def execHealthMonitorClear (s : State) : Out :=
  match headEvent s with
  | some (.healthMonitorClear t m, s) => .next (modMonitor s t m Monitor.clear)
  | _ => .next s

end Sys2Proof.Machine
end

