-- ==== Sys2Proof/Machine/Bringup.lean ====
section
/-! DEFINITION. Power, bring-up, the host link (21 R409 to R413, 19 R403), and the management calls but those of the Ethernet ports
(21 R414). -/

namespace Sys2Proof.Machine

/-- The package without power: module flash is all that is left (19 R403). Of the agenda, what follows the next POWER_ON. -/
def offState (s : State) : State :=
  { State.reset with
    power := false, ready := false, stage := 0, errCode := 0, fwver := 0, serial := 0, link := false, flash := s.flash, applied := none
    tiles := [], self := s.self, parts := [], gen := 0, relaxed := s.relaxed, draws := s.draws
    events := s.events.dropWhile fun m => m != .event .powerOn }

/-- POWER_LOSS (19 R403). -/
def execPowerLoss (s : State) : Out :=
  match headEvent s with
  | some (.powerLoss, s) => .next (offState s)
  | _ => .next s

/-- The tiles that a record deconfigures or leaves with retired clusters (21 R409 step 4). -/
def recordTiles (r : DeconfRecord) : List (Nat × Tile) :=
  r.tiles.foldl (fun l e => alSet l e.1 { Tile.reset with dead := e.2.1, lanemap := e.2.2 }) []

/-- The guard bands at power-on (19 R400): the larger of the calibrated need and the record's step. -/
def startBands (f : Flash) (r : DeconfRecord) : List (Nat × Nat) :=
  (upTo 0 domains).filterMap fun d =>
    let g := max ((alGet f.needs d).getD 0) ((alGet r.gb d).getD 0)
    if g = 0 then none else some (d, g)

/-- The boot harts started at S at their entry addresses (21 R413); none on a deconfigured tile (log 42). -/
def startBoots (parts : List Partition) (tiles : List (Nat × Tile)) : List (Nat × Tile) :=
  parts.foldl (fun l p =>
    let x := (alGet l p.boot.tile).getD Tile.reset
    if x.dead then l else alSet l p.boot.tile (x.setHart p.boot.h1 (Hart.boot p.entry))) tiles

/-- Whether the ranges of a partition are such as its range table can hold (16 R335; log 42). -/
def rangesFit (rs : List PRange) : Bool :=
  decide (rs.length ≤ 64) && rs.all fun r => r.base % 2 ^ 25 == 0 && r.len % 2 ^ 25 == 0

/-- Whether a plan has range tables that the package can hold (16 R335; log 42). -/
def planFits (l : List Partition) : Bool := l.all fun p => rangesFit p.ranges

/-- A step of bring-up that has succeeded: the next is in progress (21 R409; log 7). -/
def nextStage (s : State) : State := { s with stage := s.stage + 1, events := s.events ++ [.bringUp] }

/-- The step of bring-up that STAGE names (21 R409, R411, R413); a failure stops it with its ERR (log 42). -/
def bringUpStep (s : State) : State :=
  let fail (err : BitVec 8) : State := { s with errCode := err }
  match s.stage.toNat, chosenRecord s.flash with
  | 1, r =>
    if !s.flash.imageOk then fail 1
    else match r with
      | none => fail 2
      | some (r, _) => nextStage { s with fwver := s.flash.fwver, serial := r.serial }
  | 2, some (r, _) => if s.flash.calibrates then nextStage { s with gb := startBands s.flash r } else fail 3
  | 3, _ =>
    if s.flash.memoryOk then nextStage { s with mem := [], bad := [], dir := [], resvs := [], held := [], tiles := [] } else fail 4
  | 4, some (r, _) => nextStage { s with applied := some r, tiles := recordTiles r, gen := 1 }
  | 5, _ =>
    if s.flash.planOk && planFits s.flash.plan then
      { s with parts := s.flash.plan, tiles := startBoots s.flash.plan s.tiles, ready := true
               cur := match s.flash.plan with | p :: _ => p.boot | [] => s.cur }
    else fail 5
  | _, _ => s

/-- The management core goes on with bring-up, unless it has ended (21 R409; log 7, 42). -/
def bringUp (s : State) : State := if s.ready || s.errCode != 0 then s else bringUpStep s

/-- POWER_ON: the module that has no power starts with step 1 (21 R409). -/
def execPowerOn (s : State) : Out :=
  match headEvent s with
  | some (.powerOn, s) => .next (if s.power then s else { s with power := true, stage := 1, events := s.events ++ [.bringUp] })
  | _ => .next s

/-- HOST_LINK_TRAINING (21 R412). -/
def execHostLinkTraining (s : State) : Out :=
  match headEvent s with
  | some (.hostLinkTraining, s) => .next { s with link := true }
  | _ => .next s

/-- A management call served: only when it is the oldest that waits, else it waits on (21 R414; log 43). -/
def serveCall (e : Event) (i : HartId) (s : State) (k : Partition → State → State) : Out :=
  let calls := s.calls.filter fun j => (getHart s j).run == .mgmt
  if !calls.contains i then .next s
  else if calls.head? != some i then .next (schedule s [e])
  else match partOf s i.tile with
    | none => .next s
    | some p => .next (k p { s with calls := calls.tail })

/-- The answer of a call: G[10] and other registers written, the hart goes on after the ECALL (21 R414). -/
def answerCall (s : State) (i : HartId) (code : Nat) (more : List (GReg × Word)) : State :=
  Machine.modHart s i fun h =>
    { (more.foldl (fun (h : Hart) (x : GReg × Word) => h.wg x.1 x.2) (h.wg 10 (BitVec.ofNat 64 code))).advance 4 with
      run := .running }

/-- Argument registers of a call. -/
def callArg (s : State) (i : HartId) (r : GReg) : Nat := ((getHart s i).rg r).toNat

/-- Whether every byte of a buffer of n bytes lies within the ranges of a partition, in memory (21 R414; log 43). -/
def bufferOk (p : Partition) (a n : Nat) : Bool :=
  (upTo a n).all fun x => (match windowOf x with | .hbm | .host => true | .device | .outside => false) && (rangeOf (some p) x).isSome

/-- The management core's access to some lines for a call: code 4 where a TRAP reservation refuses it (04 R90; log 43). -/
def callMeet (s : State) (i : HartId) (lines : List Nat) (write : Bool) (k : State → State) : State :=
  match meetAt s .agent lines write with
  | (some _, s) => answerCall s i 4 []
  | (none, s) => k s

/-- What PINFO answers for an item (21 R414): G[11], and G[12] for a range (log 43). -/
def pinfoItem (p : Partition) (item : Nat) : Option (List (GReg × Word)) :=
  let one (x : Nat) : Option (List (GReg × Word)) := some [(11, BitVec.ofNat 64 x)]
  match item with
  | 0 => one p.ctxBase
  | 1 => one p.queueBase
  | 2 => one p.firstQueue
  | 3 => one p.queueCount
  | 4 => one p.graphBase
  | 5 => one p.graphLen
  | 6 => one (2 * p.notice.tile + bit p.notice.h1)
  | 7 => one p.num
  | 8 => one p.ranges.length
  | 9 => one p.firstQp
  | 10 => one p.qpCount
  | n =>
    if n < 0x100 then none
    else match p.ranges[n - 0x100]? with
      | none => none
      | some r => some [(11, BitVec.ofNat 64 r.base),
          (12, BitVec.ofNat 64 ((if r.len < 2 ^ 48 then r.len else Config.longRange r.len % 2 ^ 48) + r.policy.toNat * 2 ^ 48 + bit r.host * 2 ^ 50))]

/-- PINFO (21 R414). -/
def execPinfo (s : State) : Out :=
  match headEvent s with
  | some (.pinfo i, s) => serveCall (.pinfo i) i s fun p s =>
      match pinfoItem p (callArg s i 11) with
      | some l => answerCall s i 0 l
      | none => answerCall s i 3 []
  | _ => .next s

/-- LOGREAD (21 R414; log 43). -/
def execLogread (s : State) : Out :=
  match headEvent s with
  | some (.logread i, s) => serveCall (.logread i) i s fun p s =>
      let a := callArg s i 12
      if !bufferOk p a 64 then answerCall s i 4 [] else
      match s.log.find? fun r => r.part.toNat == p.num && decide (callArg s i 11 ≤ r.seq.toNat) with
      | none => answerCall s i 1 []
      | some r => callMeet s i (linesOf a 64) true fun s => answerCall (performWrite s none (cellsOf 64 a r.toNat)) i 0 [(11, r.seq)]
  | _ => .next s

/-- A peer-group table at a physical address (18 R381): none where it is malformed (log 43). -/
def readPeerTable (s : State) (p : Partition) (a : Nat) : Option PeerTable :=
  let x := physRead s 64 a
  let np := fld x 16 16
  let nb := fld x 32 16
  let ctx := BitVec.ofNat 16 x
  let words := (upTo 0 np).map fun m => physRead s 8 (a + 64 + 8 * m)
  if a % 64 = 0 ∧ np ≤ 256 ∧ nb ≤ 256 ∧ fld x 48 16 = 0 ∧ fld x 128 384 = 0 ∧ (words.all fun w => fld w 32 32 == 0) = true ∧
      (ctxEntryFor s .agent p ctx).isSome = true then
    some { part := p.num, ctx := ctx, heap := fld x 64 64,
           peers := words.map fun w => (BitVec.ofNat 16 w, BitVec.ofNat 16 (w / 2 ^ 16)),
           bars := (upTo 0 nb).map fun m => physRead s 8 (a + 64 + 8 * np + 8 * m) }
  else none

/-- PEERREG (18 R381, 21 R414; log 43). -/
def execPeerreg (s : State) : Out :=
  match headEvent s with
  | some (.peerreg i, s) => serveCall (.peerreg i) i s fun p s =>
      let a := callArg s i 11
      if !bufferOk p a 64 then answerCall s i 4 [] else
      callMeet s i (linesOf a 64) false fun s =>
      let x := physRead s 64 a
      let n := 64 + 8 * fld x 16 16 + 8 * fld x 32 16
      let whole := fld x 16 16 ≤ 256 && fld x 32 16 ≤ 256
      if whole && !bufferOk p a n then answerCall s i 4 [] else
      callMeet s i (if whole then linesOf a n else []) false fun s =>
      match readPeerTable s p a with
        | none => answerCall s i 3 []
        | some t =>
          let s := meet s .agent [ctxLineOf p t.ctx] false
          answerCall { s with peerTables := (s.peerTables.filter fun y => !(y.part == t.part && y.ctx == t.ctx)) ++ [t] } i 0 []
  | _ => .next s

/-- FABESC: the fault is logged and the context killed (11 R262, 21 R414; log 40). -/
def execFabesc (s : State) : Out :=
  match headEvent s with
  | some (.fabesc i, s) => serveCall (.fabesc i) i s fun p s =>
      let tval := callArg s i 11
      let c := BitVec.ofNat 16 (callArg s i 12)
      let s := addLog s 0x08 0 p.num c i.tile tval 0x10 (getHart s i).pc.toNat
      answerCall (killContext s p c) i 0 []
  | _ => .next s

/-- Bytes 0 to 4,767 of a deconfiguration record (19 R403). -/
def DeconfRecord.bytes (r : DeconfRecord) : List Byte :=
  natBytes 4 0xDEC0 ++ natBytes 2 1 ++ natBytes 2 0 ++ natBytes 8 r.seq.toNat ++ natBytes 16 r.serial.toNat ++ natBytes 32 0 ++
  ((upTo 0 2304).flatMap fun t => match r.tiles.find? fun e => e.1 == t with
    | some e => [BitVec.ofNat 8 (bit e.2.1), e.2.2]
    | none => [0, 0]) ++
  ((upTo 0 domains).map fun d => BitVec.ofNat 8 ((alGet r.gb d).getD 0)) ++ natBytes 24 0

/-- Bytes 0 to 255 of an attestation report (21 R414). -/
def reportBytes (s : State) (nonce : List Byte) : List Byte :=
  let rec' := match s.applied with
    | some r => r.bytes
    | none => []
  natBytes 4 0xA77E ++ natBytes 4 0 ++ nonce ++ natBytes 48 (Config.imageDigest s.fwver).toNat ++
  natBytes 48 (Config.sha384 rec').toNat ++ natBytes 8 s.gen.toNat ++ natBytes 96 0

/-- ATTEST (21 R410, R414; log 14, 43). -/
def execAttest (s : State) : Out :=
  match headEvent s with
  | some (.attest i, s) => serveCall (.attest i) i s fun p s =>
      let a := callArg s i 11
      let b := callArg s i 12
      if !bufferOk p a 48 || !bufferOk p b 352 then answerCall s i 4 [] else
      callMeet s i (linesOf a 48) false fun s => callMeet s i (linesOf b 352) true fun s =>
      let body := reportBytes s (memBytes s.mem 48 a)
      let sign := natBytes 96 (Config.attestSignature body).toNat
      answerCall (performWrite s none (cellsOfBytes b (body ++ sign))) i 0 []
  | _ => .next s

end Sys2Proof.Machine
end

