-- ==== Sys2Proof/Machine/Ether.lean ====
section
/-! DEFINITION. The scale-out Ethernet ports: queue pairs opened and closed, doorbells, what a port sends and receives, retries and
congestion (18 R383 to R390). -/

namespace Sys2Proof.Machine

/-- A doorbell of the host for one count: the kind in bits 63:62 is the row's (18 R389). -/
def doorbell (s : State) (port qp kind : Nat) (v : Word) : State :=
  ethDoorbell s (qpKey port qp) none (BitVec.ofNat 64 (v.toNat % 2 ^ 62 + kind * 2 ^ 62))

/-- SEND_QUEUE_DOORBELL, RECEIVE_QUEUE_DOORBELL, COMPLETION_QUEUE_DOORBELL (18 R389). -/
def execSendQueueDoorbell (s : State) : Out :=
  match headEvent s with
  | some (.sendQueueDoorbell p q v, s) => .next (doorbell s p q 0 v)
  | _ => .next s

def execReceiveQueueDoorbell (s : State) : Out :=
  match headEvent s with
  | some (.receiveQueueDoorbell p q v, s) => .next (doorbell s p q 1 v)
  | _ => .next s

def execCompletionQueueDoorbell (s : State) : Out :=
  match headEvent s with
  | some (.completionQueueDoorbell p q v, s) => .next (doorbell s p q 2 v)
  | _ => .next s

/-- A send entry (18 R386). -/
structure SendEntry where
  op : Nat
  flags : Nat
  len : Nat
  laddr : Word
  raddr : Word
  rkey : BitVec 32
  imm : BitVec 32
  wrid : Word
  /-- Bytes 2, 3 and 40 to 63, which are zero. -/
  rest : Nat
  deriving DecidableEq, Repr

/-- A send entry from its 64 bytes (18 R386). -/
def sendEntry (x : Nat) : SendEntry where
  op := fld x 0 8
  flags := fld x 8 8
  len := fld x 32 32
  laddr := BitVec.ofNat 64 (fld x 64 64)
  raddr := BitVec.ofNat 64 (fld x 128 64)
  rkey := BitVec.ofNat 32 (fld x 192 32)
  imm := BitVec.ofNat 32 (fld x 224 32)
  wrid := BitVec.ofNat 64 (fld x 256 64)
  rest := fld x 16 16 + fld x 320 192

/-- Whether a send entry is valid (18 R386). -/
def SendEntry.ok (e : SendEntry) : Bool :=
  decide (e.op ≤ 4) && fld e.flags 3 5 == 0 && e.rest == 0 && decide (e.len ≤ 2 ^ 31) &&
  (2 ≤ e.op || (e.raddr == 0 && e.rkey == 0)) && (e.op == 1 || e.op == 3 || e.imm == 0)

/-- The bytes of a packet of a queue pair's path (18 R385). -/
def Qp.packet (q : Qp) : Nat := 1024 * 2 ^ q.mtu

/-- The packets of a message (18 R386). -/
def Qp.packets (q : Qp) (len : Nat) : Nat := max 1 ((len + q.packet - 1) / q.packet)

/-- A failed entry completed with a status (18 R387). -/
def failEntry (s : State) (k : Nat) (wrid : Word) (op status : Nat) : State :=
  completeQp s k { wrid := wrid, bytes := 0, imm := 0, status := status, op := op }

/-- The message of a send entry put on the wire, from the packet after those that are acknowledged on: its data read from LADDR but for
a READ (18 R386, R390; log 45); false where the read faults. -/
def transmit (s : State) (q : Qp) (k : Nat) (e : SendEntry) (psn : BitVec 24) (acked : Nat) : Bool × State :=
  let msg (d : List Byte) : EthMsg :=
    q.message k (.send (psn + BitVec.ofNat 24 acked) (BitVec.ofNat 8 e.op) e.raddr e.rkey e.imm (bitAt e.flags 2) e.len d)
  if e.op = 4 then (true, { s with ethOut := s.ethOut ++ [msg []] })
  else match qpLoadBytes s q (e.len - acked * q.packet) (e.laddr + BitVec.ofNat 64 (acked * q.packet)) with
    | (none, s) => (false, s)
    | (some d, s) => (true, { s with ethOut := s.ethOut ++ [msg d] })

/-- Whether a port may take the next send entry of a queue pair (18 R386, R390): it is Ready, an entry is posted, no RNR wait
runs, the priority of its partition is not paused; a fenced entry waits for READs, and a READ for room under RDMAX (log 46).
-/
def mayTake (s : State) (q : Qp) (k : Nat) : Bool :=
  q.state == .ready && q.sendsLeft != 0 && !q.rnrWait &&
  !(match partByNum s q.part with | some p => s.paused.contains (k / 4096, p.prio) | none => false) &&
  (let e := (qpLoad s q 64 (q.sendAt q.sqTaken)).1.getD 0
   let reads := (q.sent.filter fun x => x.op == 4).length
   !(bitAt e 9 && reads != 0) && !(fld e 0 8 == 4 && decide (q.rdmax ≤ reads)))

/-- The row under which the next send entry of a queue pair is taken: that of its OP; SEND for an entry that names none or
cannot be read. -/
def sendRow (s : State) (q : Qp) : Nat :=
  match (qpLoad s q 64 (q.sendAt q.sqTaken)).1 with
  | some x => if fld x 0 8 ≤ 4 then fld x 0 8 else 0
  | none => 0

/-- A send entry taken and sent (18 R386, R387). -/
def takeSend (s : State) (q : Qp) (k : Nat) : State :=
  let va := q.sendAt q.sqTaken
  let slot := q.sqTaken
  let s := modQp s k fun q => { q with sqTaken := q.sqTaken + 1 }
  match qpLoad s q 64 va with
  | (none, s) =>
    let r := entryOf s q 64 va
    failEntry r.2 k (BitVec.ofNat 64 (fld r.1 256 64)) (fld r.1 0 8) 2
  | (some x, s) =>
    let e := sendEntry x
    if !e.ok then failEntry s k e.wrid e.op 8 else
    match transmit s q k e q.spsn 0 with
    | (false, s) => failEntry s k e.wrid e.op 2
    | (true, s) =>
      let n := q.packets e.len
      let sent : EthSent := { slot := slot, op := BitVec.ofNat 8 e.op, psn := q.spsn, last := q.spsn + BitVec.ofNat 24 (n - 1),
                              len := e.len, laddr := e.laddr, wrid := e.wrid, sig := bitAt e.flags 0 }
      modQp s k fun q => { q with sent := q.sent ++ [sent], spsn := q.spsn + BitVec.ofNat 24 n }

/-- A row of the port's: the next send entry of a queue pair, where it is of the row's OP. -/
def portSends (s : State) (port qp op : Nat) : State :=
  let k := qpKey port qp
  match alGet s.qps k with
  | some q => if mayTake s q k && sendRow s q == op then takeSend s q k else s
  | none => s

/-- SEND, SEND_WITH_IMMEDIATE, RDMA_WRITE, RDMA_WRITE_WITH_IMMEDIATE, RDMA_READ (18 R386). -/
def execSend (s : State) : Out :=
  match headEvent s with
  | some (.send p q, s) => .next (portSends s p q 0)
  | _ => .next s

def execSendWithImmediate (s : State) : Out :=
  match headEvent s with
  | some (.sendWithImmediate p q, s) => .next (portSends s p q 1)
  | _ => .next s

def execRdmaWrite (s : State) : Out :=
  match headEvent s with
  | some (.rdmaWrite p q, s) => .next (portSends s p q 2)
  | _ => .next s

def execRdmaWriteWithImmediate (s : State) : Out :=
  match headEvent s with
  | some (.rdmaWriteWithImmediate p q, s) => .next (portSends s p q 3)
  | _ => .next s

def execRdmaRead (s : State) : Out :=
  match headEvent s with
  | some (.rdmaRead p q, s) => .next (portSends s p q 4)
  | _ => .next s

/-- The event under which a port takes the next send entry of a queue pair. -/
def sendEvent (port qp : Nat) : Nat → Event
  | 0 => .send port qp
  | 1 => .sendWithImmediate port qp
  | 2 => .rdmaWrite port qp
  | 3 => .rdmaWriteWithImmediate port qp
  | _ => .rdmaRead port qp

/-- The moves that the ports can make (18 R386). -/
def portMoves (s : State) : List Event :=
  s.qps.filterMap fun e =>
    if mayTake s e.2 e.1 then some (sendEvent (e.1 / 4096) (e.1 % 4096) (sendRow s e.2)) else none

/-- A queue pair in Ready by port and index (log 47). -/
def readyQp (s : State) (port qp : Nat) : Option Qp :=
  match alGet s.qps (qpKey port qp) with
  | some q => if q.state = .ready then some q else none
  | none => none

/-- The queue pair in Ready that the QPN of a message names, with its index (18 R384; log 47). -/
def wireQp (s : State) (port : Nat) (qpn : BitVec 24) : Option (Nat × Qp) :=
  (qpIndex port qpn).bind fun i => (readyQp s port i).map fun q => (i, q)

/-- A message of a queue pair sent to its far end. -/
def reply (s : State) (port qp : Nat) (b : EthBody) : State :=
  match alGet s.qps (qpKey port qp) with
  | some q => { s with ethOut := s.ethOut ++ [q.message (qpKey port qp) b] }
  | none => s

/-- The acknowledgement of an incoming message of some bytes: the expected PSN moves past it (18 R390). -/
def acknowledge (s : State) (port qp : Nat) (len : Nat) : State :=
  match alGet s.qps (qpKey port qp) with
  | none => s
  | some q =>
    let n := BitVec.ofNat 24 (q.packets len)
    modQp (reply s port qp (.ack (q.rpsn + n - 1))) (qpKey port qp) fun q => { q with rpsn := q.rpsn + n }

/-- The next receive entry taken: its 32 bytes, or none with the WRID that its failure reports (18 R386). -/
def takeRecv (s : State) (q : Qp) (k : Nat) : (Nat × Bool) × State :=
  let va := q.recvAt q.rqTaken
  let s := modQp s k fun q => { q with rqTaken := q.rqTaken + 1 }
  match qpLoad s q 32 va with
  | (some x, s) => ((x, true), s)
  | (none, s) => let r := entryOf s q 32 va; ((r.1, false), r.2)

/-- A receive completed (18 R387). -/
def completeRecv (s : State) (k entry bytes op status : Nat) (imm : Option (BitVec 32)) : State :=
  completeQp s k { wrid := BitVec.ofNat 64 (fld entry 128 64), bytes := bytes, imm := (imm.getD 0).toNat, status := status, op := op }

/-- An incoming SEND (18 R386; log 49). -/
def receiveSend (s : State) (q : Qp) (port qp : Nat) (data : List Byte) (imm : Option (BitVec 32)) : State :=
  let k := qpKey port qp
  let op := if imm.isSome then 0x81 else 0x80
  if q.recvsLeft = 0 then reply s port qp .rnrNak else
  let r := takeRecv s q k
  let (x, ok) := r.1
  if !ok then completeRecv (reply r.2 port qp .operationNak) k x 0 op 2 none
  else if fld x 64 32 < data.length then completeRecv (reply r.2 port qp .operationNak) k x 0 op 1 none
  else match qpStoreBytes r.2 q (BitVec.ofNat 64 x) data with
    | (s, false) => completeRecv (reply s port qp .operationNak) k x 0 op 2 none
    | (s, true) => acknowledge (completeRecv s k x data.length op 0 imm) port qp data.length

/-- INCOMING_SEND (18 R386; log 47). -/
def execIncomingSend (s : State) : Out :=
  match headEvent s with
  | some (.incomingSend p n d imm, s) => .next (match wireQp s p n with
      | some (i, q) => receiveSend s q p i d imm
      | none => s)
  | _ => .next s

/-- Whether a key grants an access of len bytes at an address (18 R388). -/
def Qp.grants (q : Qp) (key : BitVec 32) (addr len : Nat) (write : Bool) : Bool :=
  match q.windows[fld key.toNat 28 4]? with
  | none => false
  | some w =>
    w.tag.toNat == fld key.toNat 0 28 && (if write then w.write else w.read) && decide (w.base ≤ addr) &&
    decide (addr + len ≤ w.base + w.len)

/-- An incoming RDMA WRITE (18 R386, R388): one with an immediate needs a receive entry; what was written before a fault stays
(log 49). -/
def receiveWrite (s : State) (q : Qp) (port qp : Nat) (key : BitVec 32) (addr : Nat) (data : List Byte)
    (imm : Option (BitVec 32)) : State :=
  let k := qpKey port qp
  if imm.isSome && q.recvsLeft == 0 then reply s port qp .rnrNak
  else if !q.grants key addr data.length true then reply s port qp .accessNak
  else match qpStoreBytes s q (BitVec.ofNat 64 addr) data with
    | (s, false) => reply s port qp .accessNak
    | (s, true) =>
      match imm with
      | none => acknowledge s port qp data.length
      | some v =>
        let r := takeRecv s q k
        let (x, ok) := r.1
        if ok then acknowledge (completeRecv r.2 k x data.length 0x82 0 (some v)) port qp data.length
        else completeRecv (reply r.2 port qp .operationNak) k x 0 0x82 2 none

/-- INCOMING_RDMA_WRITE (18 R388; log 47). -/
def execIncomingRdmaWrite (s : State) : Out :=
  match headEvent s with
  | some (.incomingRdmaWrite p n key a d imm, s) => .next (match wireQp s p n with
      | some (i, q) => receiveWrite s q p i key a d imm
      | none => s)
  | _ => .next s

/-- INCOMING_RDMA_READ (18 R388; log 47, 49). -/
def execIncomingRdmaRead (s : State) : Out :=
  match headEvent s with
  | some (.incomingRdmaRead p qpn key a n, s) => .next (match wireQp s p qpn with
      | none => s
      | some (i, q) =>
        if !q.grants key a n false then reply s p i .accessNak
        else match qpLoadBytes s q n (BitVec.ofNat 64 a) with
          | (none, s) => reply s p i .accessNak
          | (some d, s) =>
            modQp (reply s p i (.readResponse d)) (qpKey p i) fun q => { q with rpsn := q.rpsn + BitVec.ofNat 24 (q.packets n) })
  | _ => .next s

/-- Whether a PSN is not behind another (18 R390): PSNs count modulo 2^24. -/
def psnReached (x y : BitVec 24) : Bool := decide ((y - x).toNat < 2 ^ 23)

/-- The sent entries of a queue pair that complete in order, with status 0 where they ask for it (18 R387; log 45). -/
def completeSent (k : Nat) : List EthSent → State → State
  | [], s => s
  | e :: t, s =>
    let s := modQp s k fun q => { q with sent := q.sent.drop 1, retries := 0, rnrRetries := 0 }
    let s := if e.sig then completeQp s k { wrid := e.wrid, bytes := e.len, imm := 0, status := 0, op := e.op.toNat } else s
    completeSent k t s

/-- Every packet up to a PSN acknowledged: the messages whose packets are all acknowledged complete, in order, and the next one keeps how
many of its packets are; a READ completes with its data (18 R390; log 45). -/
def acknowledgeTo (s : State) (q : Qp) (k : Nat) (psn : BitVec 24) : State :=
  let s := completeSent k (q.sent.takeWhile fun e => e.op != 4 && psnReached e.last psn) s
  modQp s k fun q => { q with sent := match q.sent with
    | e :: t => if e.op != 4 && psnReached e.psn psn then { e with acked := max e.acked (psn + 1 - e.psn).toNat } :: t else e :: t
    | [] => [] }

/-- ACK (18 R390; log 45). -/
def execAck (s : State) : Out :=
  match headEvent s with
  | some (.ack p n psn, s) => .next (match wireQp s p n with
      | some (i, q) => acknowledgeTo s q (qpKey p i) psn
      | none => s)
  | _ => .next s

/-- RDMA_READ_RESPONSE: the data of the oldest outstanding READ are written at LADDR, and what was sent before it is
acknowledged with it (18 R386, R387; log 45). -/
def execRdmaReadResponse (s : State) : Out :=
  match headEvent s with
  | some (.rdmaReadResponse p n d, s) => .next (match wireQp s p n with
      | none => s
      | some (i, q) =>
        match q.sent.find? fun e => e.op == 4 with
        | none => s
        | some e =>
          let k := qpKey p i
          let s := completeSent k (q.sent.takeWhile fun e => e.op != 4) s
          match qpStoreBytes s q e.laddr (d.take e.len) with
          | (s, true) => completeSent k [e] s
          | (s, false) => failEntry (modQp s k fun q => { q with sent := q.sent.drop 1 }) k e.wrid 4 2)
  | _ => .next s

/-- The oldest sent entry failed with a status (18 R387). -/
def failOldest (s : State) (q : Qp) (k status : Nat) : State :=
  match q.sent with
  | [] => s
  | e :: _ => failEntry (modQp s k fun q => { q with sent := q.sent.drop 1 }) k e.wrid e.op.toNat status

/-- Every message that is not acknowledged sent again, from the oldest PSN that is not (18 R390); one whose entry or data cannot be read
any more completes with status 2 (log 45). -/
def resend (k : Nat) : List EthSent → State → State
  | [], s => s
  | e :: t, s =>
    match alGet s.qps k with
    | none => s
    | some q =>
      if q.state ≠ .ready then s else
      let lost (s : State) : State := failEntry (modQp s k fun q => { q with sent := q.sent.filter fun x => x != e }) k e.wrid e.op.toNat 2
      match qpLoad s q 64 (q.sendAt e.slot) with
      | (none, s) => lost s
      | (some x, s) =>
        match transmit s q k (sendEntry x) e.psn e.acked with
        | (true, s) => resend k t s
        | (false, s) => lost s

/-- A retry counted against RETRY, or status 5 (18 R390). -/
def retrySend (s : State) (q : Qp) (k : Nat) : State :=
  if q.sent.isEmpty then s
  else if q.retries < q.retry then resend k q.sent (modQp s k fun q => { q with retries := q.retries + 1 })
  else failOldest s q k 5

/-- SEQUENCE_ERROR_NAK: its PSN is the first that the far end has not; those before it are acknowledged (18 R390; log 45). -/
def execSequenceErrorNak (s : State) : Out :=
  match headEvent s with
  | some (.sequenceErrorNak p n psn, s) => .next (match wireQp s p n with
      | some (i, q) =>
        let s := acknowledgeTo s q (qpKey p i) (psn - 1)
        (match readyQp s p i with
         | some q => retrySend s q (qpKey p i)
         | none => s)
      | none => s)
  | _ => .next s

/-- ACK_TIMEOUT (18 R390). -/
def execAckTimeout (s : State) : Out :=
  match headEvent s with
  | some (.ackTimeout p i, s) => .next (match readyQp s p i with
      | some q => retrySend s q (qpKey p i)
      | none => s)
  | _ => .next s

/-- RECEIVER_NOT_READY_NAK: the wait that it names begins (18 R390). -/
def execReceiverNotReadyNak (s : State) : Out :=
  match headEvent s with
  | some (.receiverNotReadyNak p n _, s) => .next (match wireQp s p n with
      | some (i, q) => if q.sent.isEmpty then s else modQp s (qpKey p i) fun q => { q with rnrWait := true }
      | none => s)
  | _ => .next s

/-- RNR_WAIT_EXPIRY: the message is sent again, up to RNR times, else status 6 (18 R390). -/
def execRnrWaitExpiry (s : State) : Out :=
  match headEvent s with
  | some (.rnrWaitExpiry p i, s) => .next (match readyQp s p i with
      | none => s
      | some q =>
        let k := qpKey p i
        if !q.rnrWait then s
        else
          let s := modQp s k fun q => { q with rnrWait := false }
          if q.rnrRetries < q.rnr then resend k q.sent (modQp s k fun q => { q with rnrRetries := q.rnrRetries + 1 })
          else failOldest s q k 6)
  | _ => .next s

/-- The message of a NAK's PSN failed with a status (18 R387, R388; log 45). -/
def nakEntry (s : State) (p : Nat) (qpn psn : BitVec 24) (status : Nat) : State :=
  match wireQp s p qpn with
  | none => s
  | some (i, q) =>
    let k := qpKey p i
    match q.sent.find? fun e => psnReached e.psn psn && psnReached psn e.last with
    | none => s
    | some e => failEntry (modQp s k fun q => { q with sent := q.sent.filter fun x => x != e }) k e.wrid e.op.toNat status

/-- REMOTE_ACCESS_NAK: status 3 (18 R388; log 45). -/
def execRemoteAccessNak (s : State) : Out :=
  match headEvent s with
  | some (.remoteAccessNak p n psn, s) => .next (nakEntry s p n psn 3)
  | _ => .next s

/-- REMOTE_OPERATION_NAK: status 4 (18 R387). -/
def execRemoteOperationNak (s : State) : Out :=
  match headEvent s with
  | some (.remoteOperationNak p n psn, s) => .next (nakEntry s p n psn 4)
  | _ => .next s

/-- CONGESTION_NOTIFICATION_PACKET: the rate is halved, to 1/256 of the line rate at least (18 R390). -/
def execCongestionNotificationPacket (s : State) : Out :=
  match headEvent s with
  | some (.congestionNotificationPacket p n, s) => .next (match qpIndex p n with
      | some i => modQp s (qpKey p i) fun q => { q with rate := Nat.max 1 (q.rate / 2) }
      | none => s)
  | _ => .next s

/-- RATE_RECOVERY: the rate rises by 1/64 of the line rate, up to the line rate (18 R390). -/
def execRateRecovery (s : State) : Out :=
  match headEvent s with
  | some (.rateRecovery p i, s) => .next (modQp s (qpKey p i) fun q => { q with rate := Nat.min 256 (q.rate + 4) })
  | _ => .next s

/-- CE_MARKED_PACKET: a congestion notification packet is sent, at most one in 50 µs (18 R390; log 26). -/
def execCeMarkedPacket (s : State) : Out :=
  match headEvent s with
  | some (.ceMarkedPacket p n, s) => .next (match wireQp s p n with
      | none => s
      | some (i, _) =>
        let t := { s with draws := s.draws + 1 }
        if Config.notificationDue s.draws then reply t p i .congestion else t)
  | _ => .next s

/-- PRIORITY_FLOW_CONTROL: a frame that a port receives pauses a priority or lets it go on; one that a port sends goes out on
the priority of a partition (18 R390; log 46). -/
def execPriorityFlowControl (s : State) : Out :=
  match headEvent s with
  | some (.priorityFlowControl p prio on sent, s) =>
    if sent then .next (if s.parts.any fun x => x.prio == prio then { s with ethOut := s.ethOut ++ [.flowControl p prio on] } else s)
    else
      let rest := s.paused.filter fun x => x != (p, prio)
      .next { s with paused := if on then rest ++ [(p, prio)] else rest }
  | _ => .next s

/-- The entries of the window table of a queue pair, read in its context (18 R385): none where one cannot be read (log 44). -/
def readWindows (s : State) (sp : Space) : Nat → Word → Option (List Nat) × State
  | 0, _ => (some [], s)
  | n + 1, va =>
    match agentLoad s .agent sp 32 va with
    | (none, s) => (none, s)
    | (some x, s) =>
      let r := readWindows s sp n (va + 32)
      (r.1.map fun l => x :: l, r.2)

/-- Whether an entry of a window table has a non-zero bit that must be zero (18 R388; log 44). -/
def windowReserved (x : Nat) : Bool := fld x 156 4 != 0 || fld x 162 94 != 0

/-- A window from its 32 bytes (18 R388). -/
def qpWindow (x : Nat) : QpWindow where
  base := fld x 0 64
  len := fld x 64 64
  tag := BitVec.ofNat 28 (fld x 128 28)
  read := bitAt x 160
  write := bitAt x 161

/-- Whether an address is IPv4 in the IPv4-mapped form; its bytes stand as stored, lowest first (18 R385). -/
def isIpv4 (a : BitVec 128) : Bool := fld a.toNat 0 80 == 0 && fld a.toNat 80 16 == 0xFFFF

/-- A queue pair from its descriptor (18 R385), but for the window table: none where it breaks a rule of the table (log 44). -/
def readQp (p : Partition) (x : Nat) : Option (Nat × Qp) :=
  let f (off n : Nat) : Nat := fld x (8 * off) (8 * n)
  let port := f 0 1
  let idx := f 4 2
  let sip := BitVec.ofNat 128 (f 32 16)
  let dip := BitVec.ofNat 128 (f 48 16)
  let size (n : Nat) : Bool := powerOfTwo n 16
  let base (a : Nat) : Bool := a % 4096 == 0
  let ok := decide (port ≤ 2) && decide (f 1 1 ≤ 2) && decide (f 2 1 ≤ 7) && decide (f 3 1 ≤ 7) &&
    decide (p.firstQp ≤ idx) && decide (idx < p.firstQp + p.qpCount) && f 6 2 != 0 && f 11 1 == 0 && f 15 1 == 0 && f 19 1 == 0 &&
    fld (f 22 1) 0 2 == 0 && f 23 1 != 0 && decide (f 30 1 ≤ 20) && decide (1 ≤ f 31 1) && decide (f 31 1 ≤ 16) &&
    p.ips.contains (port, sip) && isIpv4 sip == isIpv4 dip && base (f 64 8) && base (f 80 8) && base (f 88 8) &&
    size (f 72 4) && size (f 76 4) && size (f 96 4) && decide (f 100 1 ≤ 16) && f 101 3 == 0 && f 104 8 % 32 == 0 &&
    (f 100 1 != 0 || f 104 8 == 0) && f 112 16 == 0
  if !ok then none else
  some (qpKey port idx,
    { state := .ready, part := p.num, ctx := BitVec.ofNat 16 (f 6 2), mtu := f 1 1, retry := f 2 1, rnr := f 3 1,
      dqpn := BitVec.ofNat 24 (f 8 3), spsn := BitVec.ofNat 24 (f 12 3), rpsn := BitVec.ofNat 24 (f 16 3),
      udpSrc := BitVec.ofNat 16 (f 20 2), tclass := BitVec.ofNat 8 (f 22 1), hopLim := BitVec.ofNat 8 (f 23 1),
      dmac := BitVec.ofNat 48 (f 24 6), timeout := f 30 1, rdmax := f 31 1, sip := sip, dip := dip,
      sq := BitVec.ofNat 64 (f 64 8), sqSize := f 72 4, rq := BitVec.ofNat 64 (f 80 8), rqSize := f 76 4,
      cq := BitVec.ofNat 64 (f 88 8), cqSize := f 96 4, windows := [], sqProd := 0, rqProd := 0, cqCons := 0, sqTaken := 0,
      rqTaken := 0, completions := 0, sent := [], retries := 0, rnrRetries := 0, rnrWait := false, rate := 256 })

/-- QPOPEN (18 R385, 21 R414; log 44). -/
def execQpopen (s : State) : Out :=
  match headEvent s with
  | some (.qpopen i, s) => serveCall (.qpopen i) i s fun p s =>
      let a := callArg s i 11
      let x := physRead s 128 a
      if !bufferOk p a 128 || refuses s .agent (linesOf a 128) false then answerCall s i 4 [] else
      let s := meet s .agent (linesOf a 128) false
      if a % 128 ≠ 0 then answerCall s i 3 []
      else match readQp p x with
        | none => answerCall s i 3 []
        | some (k, q) =>
          match ctxSpace s .agent p q.ctx with
          | none => answerCall (meet s .agent [ctxLineOf p q.ctx] false) i 3 []
          | some sp =>
          match readWindows (meet s .agent [ctxLineOf p q.ctx] false) sp (fld x 800 8) (BitVec.ofNat 64 (fld x 832 64)) with
          | (none, t) => answerCall t i 3 []
          | (some w, t) =>
            if w.any windowReserved then answerCall t i 3 []
            else if (alGet t.qps k).isSome then answerCall t i 5 []
            else answerCall { t with qps := alSet t.qps k { q with windows := w.map qpWindow } } i 0 []
  | _ => .next s

/-- QPCLOSE (18 R385, 21 R414): it waits behind accesses of the queue pair that wait at a home (log 70). -/
def execQpclose (s : State) : Out :=
  match headEvent s with
  | some (.qpclose i, s) => serveCall (.qpclose i) i s fun p s =>
      let port := callArg s i 11
      let idx := callArg s i 12
      if 2 < port ∨ idx < p.firstQp ∨ p.firstQp + p.qpCount ≤ idx then answerCall s i 3 []
      else
        let k := qpKey port idx
        let s := flushQp s k
        answerCall { s with qps := alDel s.qps k } i 0 []
  | _ => .next s

end Sys2Proof.Machine
end

