-- ==== Sys2Proof/Machine/Sched.lean ====
section
/-! DEFINITION. The scheduler and the strip-farm controller: doorbells, taking and checking a packet, placing harts, requests for
pre-emption, completion (17 R344 to R358, 01 R13 to R15). -/

namespace Sys2Proof.Machine

/-- WORK_QUEUE_DOORBELL: the host writes a doorbell (17 R346). -/
def execWorkQueueDoorbell (s : State) : Out :=
  match headEvent s with
  | some (.workQueueDoorbell q v, s) => .next (queueDoorbell (afterHostWrites s) q v)
  | _ => .next s

/-- Whether a taken farm still has harts that wait for placement (17 R349, R350). -/
def Farm.waits (f : Farm) : Bool := !f.waitsGraph && f.harts.any fun x => !x.placed && !x.exited

/-- The queues of a partition whose CTL byte is not zero, in order of number: every other queue has EN = 0. -/
def listedQueues (s : State) (p : Partition) : List Nat :=
  s.mem.filterMap fun c =>
    if p.queueBase ≤ c.1 ∧ c.1 < p.queueBase + 64 * p.queueCount ∧ (c.1 - p.queueBase) % 64 = 14 then
      some (p.firstQueue + (c.1 - p.queueBase) / 64)
    else none

/-- Whether the scheduler can read some bytes: no reservation refuses or holds it (04 R90, 18 R367; log 70). -/
def readable (s : State) (pa n : Nat) : Bool :=
  match conflict s .agent (linesOf pa n) false with
  | .serve _ => true
  | .refuse _ | .hold _ _ => false

/-- The slot of the packet that a queue holds next (17 R344). -/
def headSlot (s : State) (p : Partition) (q : Nat) : Nat :=
  queueRing s p q + 128 * ((queueCounts s p q).head.toNat % queueSize s p q)

/-- The queues of a class of a partition that are usable and hold packets, in order of number (17 R349); one whose entry or next packet
the scheduler cannot read is passed over (log 70). -/
def readyQueues (s : State) (p : Partition) (c : BitVec 2) : List Nat :=
  (listedQueues s p).filter fun q =>
    readable s (queueAddr p q) 64 && queueUsable s p q && queueCls s p q == c &&
    decide ((queueCounts s p q).head.toNat < (queueCounts s p q).tail.toNat) && readable s (headSlot s p q) 128

/-- The position of a class in its round: none between two rounds. -/
def roundOf (s : State) (p : Partition) (c : BitVec 2) : Option Round :=
  s.rounds.find? fun r => r.part == p.num && r.cls == c

/-- The queue of a class whose turn it is (17 R349): the one that goes on, else the next in number, else the lowest. -/
def turnOf (s : State) (p : Partition) (c : BitVec 2) (ready : List Nat) : Option Nat :=
  match roundOf s p c with
  | none => ready.head?
  | some r =>
    match ready.find? fun q => (q == r.queue && decide (r.used < queueWeight s p q)) || decide (r.queue < q) with
    | some q => some q
    | none => ready.head?

/-- The queue from which the scheduler takes a partition's next packet (17 R349): the highest class that has one, and none while
a packet of that class or a higher one waits for placement. -/
def chooseQueue (s : State) (p : Partition) : Option Nat :=
  if !s.ready then none else
  match ([3, 2, 1, 0] : List (BitVec 2)).find? fun c => !(readyQueues s p c).isEmpty with
  | none => none
  | some c =>
    if s.farms.any fun f => f.part == p.num && decide (c ≤ f.cls) && f.waits then none
    else turnOf s p c (readyQueues s p c)

/-- The round of a class after a packet of a queue was taken (17 R349): a queue that emptied passes its turn, and the round
ends where no queue after it has packets. -/
def advanceRound (s : State) (p : Partition) (q : Nat) (c : BitVec 2) (w : Nat) : State :=
  let before := match roundOf s p c with
    | some r => if r.queue = q ∧ r.used < w then r.used else 0
    | none => 0
  let ready := readyQueues s p c
  let used := if ready.contains q then before + 1 else w
  let others := s.rounds.filter fun r => !(r.part == p.num && r.cls == c)
  if w ≤ used && !(ready.any fun x => decide (q < x)) then { s with rounds := others }
  else { s with rounds := others ++ [{ part := p.num, cls := c, queue := q, used := used }] }

/-- A launch packet read from its 128 bytes (17 R347); arguments at and above NARG are zero. -/
def Packet.ofNat (x : Nat) : Packet where
  entry := BitVec.ofNat 64 x
  n := BitVec.ofNat 64 (fld x 64 64)
  s := BitVec.ofNat 64 (fld x 128 64)
  crec := BitVec.ofNat 64 (fld x 192 64)
  harts := fld x 256 16
  gang := bitAt x 272
  prot := bitAt x 273
  place := BitVec.ofNat 2 (fld x 274 2)
  tge := BitVec.ofNat 16 (fld x 288 16)
  args := Vector.ofFn fun m => if m.val < fld x 280 8 then BitVec.ofNat 64 (fld x (320 + 64 * m.val) 64) else 0

/-- The configured tiles of a partition. -/
def liveTiles (s : State) (p : Partition) : List Nat := p.tileList.filter fun t => !(tileAt s t).dead

/-- How many harts a partition holds under PLACE (01 R29, 17 R351). -/
def placeRoom (s : State) (p : Partition) (place : BitVec 2) : Nat :=
  (if place = 1 then 1 else 2) * (liveTiles s p).length

/-- STATE of the entry that a packet names, where the entry lies in the table. -/
def Packet.graphEntry (k : Packet) (p : Partition) : Option Nat :=
  if k.tge ≠ 0xFFFF ∧ k.tge.toNat < p.graphLen then some k.tge.toNat else none

/-- The reason for which a packet is refused, 0 for none; checks in the order of the table of 17 R348. An entry that a TRAP reservation
keeps from the scheduler is none that the packet may name (log 70). -/
def refusalReason (s : State) (p : Partition) (x : Nat) (k : Packet) : Nat :=
  if fld x 52 12 ≠ 0 ∨ fld x 0 2 ≠ 0 ∨ fld x 276 4 ≠ 0 ∨ fld x 304 16 ≠ 0 ∨ fld x 960 64 ≠ 0 ∨ k.place = 3 then 1
  else if k.s = 0 then 2
  else if k.harts = 0 ∨ 4608 < k.harts then 3
  else if k.gang ∧ placeRoom s p k.place < k.harts then 4
  else if 10 < fld x 280 8 then 5
  else if k.tge ≠ 0xFFFF then
    match k.graphEntry p with
    | none => 6
    | some e => if !graphRefused s p e false ∧ (graphState s p e = 0 ∨ graphState s p e = 3) then 0 else 6
  else 0

/-- The farm of a packet that was accepted, with the strips that the rake dispenses at its start (01 R15, 17 R353). -/
def Farm.start (id : Nat) (p : Partition) (q : Nat) (cls : BitVec 2) (ctx : BitVec 16) (shb : Word) (k : Packet)
    (waits : Bool) : Farm where
  id := id
  part := p.num
  queue := q
  cls := cls
  ctx := ctx
  shb := shb
  packet := k
  waitsGraph := waits
  nextStrip := BitVec.ofNat 64 (min k.harts k.strips)
  harts := (upTo 0 k.harts).map fun n =>
    { start := (k.strip n).1, cnt := (k.strip n).2, placed := false, place := none, exited := false, triggered := false,
      arrivals := 0 }
  tiles := []
  verdict := .clean
  firstKind := 0
  triggered := false
  killed := false
  bittern := 0
  victim := none
  since := id

/-- A packet that passed its checks or names a held entry: it starts, waits for its predecessors, or completes as held
(17 R356, R357; log 34). -/
def acceptPacket (s : State) (p : Partition) (f : Farm) : State :=
  let add (s : State) (f : Farm) : State := { s with farms := s.farms ++ [f], nextFarm := s.nextFarm + 1 }
  match f.packet.graphEntry p with
  | none => add s f
  | some e =>
    let s := { s with ended := s.ended.filter fun g => !(g.part == p.num && g.packet.entryNo == some e) }
    if graphState s p e = 3 then
      let reason := physRead s 1 (graphAddr p e + 6)
      writeRecord s f 4 (if reason = 0 then 1 else reason) 2 0 0 0 0
    else if physRead s 4 (graphAddr p e) = 0 then add (graphWrite s p e 4 1 2) f
    else add (graphWrite s p e 4 1 1) { f with waitsGraph := true }

/-- A packet of a queue checked after it was taken (17 R348; log 33). -/
def checkPacket (s : State) (p : Partition) (q slot : Nat) (cls : BitVec 2) (ctx : BitVec 16) (shb : Word) (x : Nat) : State :=
  let k := Packet.ofNat x
  let dropped := addLog s 0x0E 0 p.num ctx 0xFFFF 0 q slot
  match recordSpace s p ctx with
  | none => dropped
  | some sp =>
    if k.crec.toNat % 32 ≠ 0 then dropped else
    match translate s sp .store k.crec with
    | .trap _ => failTrans dropped sp .store k.crec.toNat
    | .ok _ _ _ =>
      let f := Farm.start s.nextFarm p q cls ctx shb k false
      let s := match k.graphEntry p with
        | some e => if graphRefused s p e false then s else meetGraph s p e
        | none => s
      match refusalReason s p x k with
      | 0 => acceptPacket s p f
      | r =>
        let s := match k.graphEntry p with
          | some e => if graphState s p e = 0 then graphWrite s p e 4 1 4 else s
          | none => s
        writeRecord s f 2 r 0 0 0 0 0

/-- The next packet of a queue taken: copied, HEAD advanced, checked (17 R345, R349). -/
def takePacket (s : State) (p : Partition) (q : Nat) : State :=
  let s := meet s .agent [lineOf (queueAddr p q)] false
  let c := queueCounts s p q
  let slot := c.head.toNat % queueSize s p q
  let s := meet s .agent [lineOf (headSlot s p q)] false
  let x := physRead s 128 (headSlot s p q)
  let cls := queueCls s p q
  let ctx := queueCtx s p q
  let shb := queueShb s p q
  let w := queueWeight s p q
  let s := advanceRound (setCounts s p q { c with head := c.head + 1 }) p q cls w
  checkPacket s p q slot cls ctx shb x

/-- PACKET_TAKE: the scheduler takes the packet that is its choice (17 R349; log 10). -/
def execPacketTake (s : State) : Out :=
  match headEvent s with
  | some (.packetTake q, s) =>
    .next (match queuePart s q with
      | some p => if chooseQueue s p = some q then takePacket s p q else s
      | none => s)
  | _ => .next s

/-- The free harts of a partition in the order of placement: lowest tile, then hart 0 first (17 R351). -/
def freeHarts (s : State) (p : Partition) : List HartId :=
  (liveTiles s p).flatMap fun t =>
    (if (getHart s ⟨t, false⟩).isFree then [⟨t, false⟩] else []) ++ (if (getHart s ⟨t, true⟩).isFree then [⟨t, true⟩] else [])

/-- Whether a hart of a farm runs on a tile. -/
def Farm.runsOn (f : Farm) (t : Nat) : Bool := f.harts.any fun x => match x.place with | some i => i.tile == t | none => false

/-- The free harts that a farm may take under PLACE, in the order of its indices (17 R351). -/
def farmSlots (s : State) (p : Partition) (f : Farm) : List HartId :=
  let free := freeHarts s p
  match f.packet.place with
  | 1 => free.filter fun i => !f.runsOn i.tile && (!i.h1 || !free.contains ⟨i.tile, false⟩)
  | 2 => free.filter fun i => free.contains ⟨i.tile, !i.h1⟩
  | _ => free

/-- The hart indices of a farm that wait for placement, in increasing order. -/
def Farm.unplaced (f : Farm) : List Nat :=
  (f.harts.mapIdx fun n x => (n, x)).filterMap fun y => if !y.2.placed && !y.2.exited then some y.1 else none

/-- How many indices of a farm are placed together (01 R29, 17 R351): all of a gang, under PLACE 2 a pair 2k and 2k + 1, else
one (log 35). -/
def Farm.together (f : Farm) : Nat :=
  if f.packet.gang then f.unplaced.length
  else match f.packet.place, f.unplaced with
    | 2, n :: m :: _ => if n % 2 = 0 ∧ m = n + 1 then 2 else 1
    | _, _ => 1

/-- Whether the controller can place the next indices of a farm: its context's entry is valid and enough harts are free (log
35). -/
def canPlace (s : State) (p : Partition) (f : Farm) : Bool :=
  (ctxEntryFor s .agent p f.ctx).isSome && decide (f.together ≤ (farmSlots s p f).length)

/-- Whether a farm waits for a gang of its class that came to wait before it, though it was taken later (17 R350). -/
def behindGang (l : List Farm) (f : Farm) : Bool :=
  l.any fun g => g.packet.gang && g.cls == f.cls && decide (f.id < g.id) && decide (g.since < f.since)

/-- Whether a farm keeps placement from another until it is placed (17 R350): a gang from every one of its class or a lower
one; any other, while it cannot be placed, from those taken after it. -/
def Farm.keepsFrom (f g : Farm) : Bool := decide (g.cls ≤ f.cls) && (f.packet.gang || decide (f.id < g.id))

/-- The farms of a partition that wait for placement, in the order in which they are placed (17 R350): by class, then in the
order taken, behind a gang that they must let pass; those from which another keeps placement are left out (log 35). -/
def placementOrder (s : State) (p : Partition) : List Farm :=
  let w := s.farms.filter fun f => f.part == p.num && f.waits
  let rec go : List Farm → List Farm
    | [] => []
    | f :: t => if canPlace s p f && !f.packet.gang then f :: go t else f :: (go t).filter fun g => !f.keepsFrom g
  go (sortBy (fun f => 2 * (3 - f.cls.toNat) + bit (behindGang w f)) w)

/-- General registers at the start of a hart of a farm (01 R13). -/
def startRegs (f : Farm) (n : Nat) (x : FarmHart) : Vector Word 32 :=
  Vector.ofFn fun r =>
    if r.val = 1 then x.start else if r.val = 2 then x.cnt else if r.val = 3 then f.packet.n
    else if r.val = 4 then BitVec.ofNat 64 n else if r.val = 5 then BitVec.ofNat 64 f.packet.harts
    else if 6 ≤ r.val ∧ r.val ≤ 15 then f.packet.args.toList.getD (r.val - 6) 0 else 0

/-- A hart at the start of an index of a farm (01 R13, R14, 02 R52, 17 R351): the control registers of chapter 02 at their
Reset values; VOWN, VDIRTY, the effective set and the supervisor's registers as they were (log 35). Its general registers and
queues are written, so no word of theirs is bad any more (19 R391; log 69, 37). -/
def Hart.placed (h : Hart) (f : Farm) (n : Nat) (x : FarmHart) (root : Word) (asid : BitVec 16) (want : BitVec 4) : Hart :=
  { h with
    pc := addrField f.packet.entry, level := .u, run := .running, g := startRegs f n x, shd := Vector.replicate 8 0
    frm := 0, fflags := 0, vmf := Hart.free.vmf, vmfs := Hart.free.vmfs, vsreg := 0, ves := 0
    ulivec := 0, uliepc := 0, ulipend := 0, uliActive := false, uliEvent := 0
    vl := 0, ill := true, vtype := 0, vlmax := 0, q := Vector.replicate 4 [], openTail := none
    shbase := f.shb &&& 0x000FFFFFFFFF0000, cyc := 0, spcnt := 0, fresh := true, unset := true
    ctxid := f.ctx, translated := true, root := root, asid := asid, want := want, prot := f.packet.prot
    badStore := h.badStore.filter fun x => x.kind != 1 && x.kind != 4, replay := none, replayed := none
    member := some { farm := f.id, index := n } }

/-- One index of a farm placed on a free hart (17 R351): the owner map, the hart's start state, the farm's note of it (log 35,
37). -/
def placeHart (s : State) (f : Farm) (n : Nat) (i : HartId) (root : Word) (asid : BitVec 16) : State :=
  let other : HartId := ⟨i.tile, !i.h1⟩
  let s := if (getHart s other).isFree then
      Machine.modTile s i.tile fun x => { x with vlp := if i.h1 then BitVec.allOnes 8 else 0 }
    else s
  let vlp := (tileAt s i.tile).vlp
  let mine := popCount 8 (if i.h1 then vlp else ~~~vlp).toNat
  let s := Machine.modTile s i.tile fun x => { x with acc := x.acc.map fun a => if a.owner == some i.h1 then AccTile.free else a }
  match f.harts[n]? with
  | none => s
  | some x =>
    let s := Machine.modHart s i fun h => h.placed f n x root asid (BitVec.ofNat 4 mine)
    modFarm s f.id fun f =>
      { f with harts := setNth f.harts n { x with placed := true, place := some i },
               tiles := if f.tiles.contains i.tile then f.tiles else f.tiles ++ [i.tile] }

/-- Indices of a farm placed on harts, pair by pair. -/
def placeAll (f : Farm) (root : Word) (asid : BitVec 16) : List (Nat × HartId) → State → State
  | [], s => s
  | (n, i) :: t, s => placeAll f root asid t (placeHart s f n i root asid)

/-- The resident farm that must give way to a class (17 R350): of the lowest class below it, the one launched last (log 36). -/
def victimOf (s : State) (p : Partition) (c : BitVec 2) : Option Farm :=
  let resident := s.farms.filter fun f => f.part == p.num && decide (f.cls < c) && f.harts.any fun x => x.place.isSome
  match ([0, 1, 2] : List (BitVec 2)).find? fun d => resident.any fun f => f.cls == d with
  | none => none
  | some d => (resident.filter fun f => f.cls == d).getLast?

/-- Whether the farm that a waiting one has asked to give way still has harts that run (log 36). -/
def askedAlready (s : State) (f : Farm) : Bool :=
  match f.victim.bind (farmBy s) with
  | some v => v.harts.any fun x => x.place.isSome
  | none => false

/-- The request for pre-emption of a farm that cannot be placed (17 R350): SIP.PRE on every hart of the farm that must give
way (log 36). -/
def requestPreemption (s : State) (p : Partition) (f : Farm) : State :=
  if askedAlready s f then s else
  match victimOf s p f.cls with
  | none => s
  | some v =>
    let s := modFarm s f.id fun f => { f with victim := some v.id }
    v.harts.foldl (fun s x => match x.place with
      | some i => Machine.modHart s i fun h => { h with sip := h.sip ||| 1 }
      | none => s) s

/-- The farm that the controller serves next: the first that can be placed or that has a request for pre-emption to make (log
35). -/
def placementChoice (s : State) (p : Partition) : Option Farm :=
  if !s.ready then none else
  (placementOrder s p).find? fun f =>
    canPlace s p f || ((ctxEntryFor s .agent p f.ctx).isSome && !askedAlready s f && (victimOf s p f.cls).isSome)

/-- The next indices of a farm placed; while its context's entry is not valid nothing is placed (16 R328; log 35). -/
def placeNext (s : State) (p : Partition) (f : Farm) : State :=
  match ctxEntryFor s .agent p f.ctx with
  | none => s
  | some t =>
    let s := meet s .agent [ctxLineOf p f.ctx] false
    placeAll f t.1 t.2 ((f.unplaced.take f.together).zip (farmSlots s p f)) s

/-- HART_PLACEMENT: the next indices of a farm are placed, or a lower class is asked to give way (17 R350, R351). -/
def execHartPlacement (s : State) : Out :=
  match headEvent s with
  | some (.hartPlacement id, s) =>
    .next (match farmBy s id with
      | none => s
      | some f =>
        match partByNum s f.part with
        | none => s
        | some p =>
          if (placementChoice s p).map (fun g => g.id) ≠ some id then s
          else if canPlace s p f then placeNext s p f
          else requestPreemption s p f)
  | _ => .next s

/-- Whether a drain release of a farm's harts is still to come, on a tile where one of them runs or has run: that of a region which
drains, or which its owner has left there while it is no hart of another farm (04 R95, 11 R271, 14 R299). -/
def drainsLeft (s : State) (f : Farm) : Bool :=
  f.tiles.any fun t =>
    let x := tileAt s t
    match x.fabric.owner with
    | some (h1, c) =>
      let other := match (x.hart h1).member with
        | some m => m.farm != f.id
        | none => false
      c == f.ctx && x.fabric.regions.any fun r => r.draining || !other
    | none => false

/-- Whether a farm may complete (17 R358). -/
def farmDone (s : State) (f : Farm) : Bool := !f.waitsGraph && f.allOut && !drainsLeft s f

/-- FARM_COMPLETION: a farm whose harts have exited and whose drain releases are performed reaches its trigger point if it has
not, and its completion record is written (17 R353, R356, R358; log 30). -/
def execFarmCompletion (s : State) : Out :=
  match headEvent s with
  | some (.farmCompletion id, s) =>
    .next (match farmBy s id with
      | none => s
      | some f =>
        if !farmDone s f then s else
        let s := checkTrigger s id
        match farmBy s id with
        | some f => endFarm s f 1 0
        | none => s)
  | _ => .next s

end Sys2Proof.Machine
end

