-- ==== Sys2Proof/Machine/Weights.lean ====
section
/-! DEFINITION. Weight-driven mode (spec 12): WDRIVE, the checks and effects of a block, safe points in the mode, posting to
another tile. One step performs one block, or the part of it that does not have to wait. -/

namespace Sys2Proof.Machine

/-- A block header read field by field (12 R283). -/
structure Block where
  op : Nat
  sp : Bool
  fmt : Nat
  count : Nat
  next : Nat
  plen : Nat
  crc : Nat
  route : Nat
  /-- The bits of the header that R283 and R285 leave unassigned. -/
  rest : Nat
  deriving DecidableEq, Repr

/-- The fields of a header (12 R283). -/
def blockOf (hdr : BitVec 512) : Block :=
  let x := hdr.toNat
  { op := fld x 0 8, sp := bitAt x 8, fmt := fld x 16 8, count := fld x 32 32, next := fld x 64 64, plen := fld x 128 32,
    crc := fld x 160 32, route := fld x 192 32,
    rest := fld x 9 7 + fld x 24 8 + fld x 224 32 + fld x 256 256 }

/-- Fields of ROUTE (12 R285). -/
def Block.kind (b : Block) : Nat := fld b.route 0 4
def Block.inner (b : Block) : Nat := fld b.route 16 4
def Block.acc (b : Block) : Acc := BitVec.ofNat 2 (fld b.route 4 2)
def Block.reg (b : Block) : BitVec 5 := BitVec.ofNat 5 (fld b.route 4 5)
def Block.pe (b : Block) : Nat := fld b.route 4 6
def Block.ch (b : Block) : Nat := fld b.route 10 2
def Block.target (b : Block) : Nat := fld b.route 20 6 + 36 * fld b.route 26 6

/-- The kind under which a block has its effect: INNER for a posted one (12 R295). -/
def Block.effKind (b : Block) : Nat := if b.kind = 4 then b.inner else b.kind

/-- Cause 0x0F with the opcode and a reason (12 R293). -/
def blockFault (op reason : Nat) : TrapRec := trapOf 0x0F (BitVec.ofNat 64 (op * 2 ^ 8 + reason))

/-- The register width of a raw payload format. -/
def rawWidth (fmt : Nat) : Nat := elemWidth (elemOf fmt)

/-- Whether PLEN agrees with FMT and COUNT, as far as step 2 can tell (12 R284). -/
def Block.lengthFits (b : Block) : Bool :=
  decide (b.plen ≤ 65536) &&
  (if b.fmt ≤ 0x0F then b.plen == (b.count * rawWidth b.fmt + 7) / 8
   else if b.fmt = 0x10 then b.count % 32 == 0 && decide (21 * (b.count / 32) ≤ b.plen) && decide (b.plen ≤ 49 * (b.count / 32))
   else if b.fmt ≤ 0x13 then b.plen == (b.count + 31) / 32 * (if b.fmt = 0x13 then 17 else 33)
   else b.count == 0 && b.plen == 0)

/-- Whether FMT is one that the opcode's row allows (12 R287); WB.MMA is judged with its tile. -/
def Block.fmtFits (b : Block) : Bool :=
  (decide (b.fmt ≤ 0x13) || b.fmt == 0xFF) &&
  (match b.op with
   | 1 | 10 => true
   | 2 | 3 => decide (b.fmt ≤ 0x13)
   | 4 => b.fmt == 5
   | 5 | 6 | 7 | 9 => b.fmt == 7
   | _ => b.fmt == 0xFF)

/-- Whether COUNT is one that the opcode's row allows (12 R287), with VL; WB.MMA is judged with its tile. -/
def Block.countFits (b : Block) (vl : Nat) : Bool :=
  match b.op with
  | 2 => if b.kind = 3 then decide (1 ≤ b.count) else b.count == vl || b.count == 1
  | 3 => b.count == vl || b.count == 1
  | 4 | 6 | 7 | 9 => b.count == 1
  | 5 => b.count == 2
  | 1 | 10 => true
  | _ => b.count == 0

/-- The bits of ROUTE that a kind uses (12 R285). -/
def routeMask : Nat → Nat
  | 0 => 0xF
  | 1 => 0x3F
  | 2 => 0x1FF
  | 3 => 0xFFF
  | 5 => 0x1FF
  | _ => 0

/-- Whether ROUTE is one that the opcode's row allows, with no bit set that its kind does not use, and a group base a
multiple of G (12 R285, R287; log 64). -/
def Block.routeFits (b : Block) (g : Nat) (posted : Bool) : Bool :=
  let k := b.kind
  let allowed := match b.op with
    | 1 => k == 1 || (k == 4 && b.inner == 1)
    | 2 => k == 2 || k == 3 || (k == 4 && b.inner == 2)
    | 3 | 4 => k == 2 || (k == 4 && b.inner == 2)
    | 5 => k == 1
    | 6 => k == 5
    | _ => k == 0
  allowed &&
  (if k = 4 then decide (fld b.route 20 6 ≤ 35) && (b.route % 2 ^ 16 - 4 + b.inner) &&& routeMask b.inner == b.route % 2 ^ 16 - 4 + b.inner
   else b.route &&& routeMask k == b.route) &&
  (if k = 2 || (posted && b.inner == 2) then b.reg.toNat % g == 0 else true)

/-- Whether a payload format delivers the operand type of an accumulator (12 R288). -/
def mmaPayload (a : AccTile) (fmt vl : Nat) : Bool :=
  if a.sc then
    (vl == 32 || vl == 64) && (match packedType fmt with | some (t, _) => t.code == a.fmt.toNat | none => false)
  else fmt == a.fmt.toNat && decide (fmt ≤ 0x0F) || (fmt == 0x10 && a.fmt.toNat == ElemTy.code .e4m3)

/-- What step 2 finds of a WB.MMA whose tile the hart owns (12 R288): a format that does not fit, a count that does not. -/
def Block.mmaFault (b : Block) (s : State) : Option Nat :=
  if b.op ≠ 1 ∨ b.effKind ≠ 1 ∨ ownsAcc s b.acc = false then none
  else
    let a := accAt s s.cur.tile b.acc
    if !mmaPayload a b.fmt s.hart.vl.toNat then some 4
    else if b.count ≠ a.n.toNat * s.hart.vl.toNat then some 3 else none

/-- The reason with which step 2 of R286 rejects a block, in the order of its checks; posted: on the tile it was posted to;
done: on a resumption after the effect, when the link stack has already moved. COUNT of a posted block is judged with VL of the poster, and
with the target's on its tile, a choice (12 R287, R292; log 64). -/
def Block.step2 (b : Block) (posted done : Bool) (s : State) : Option Nat :=
  let h := s.hart
  let here := b.kind ≠ 4 ∨ posted = true
  if b.op = 0 ∨ 0x0B < b.op then some 2
  else if b.rest ≠ 0 then some 3
  else if !b.fmtFits then some 3
  else match (if here then b.mmaFault s else none) with
  | some r => some r
  | none =>
    if !b.countFits h.vl.toNat || !b.lengthFits then some 3
    else if (b.op = 8 ∨ b.op = 11) ∧ b.next ≠ 0 then some 3
    else if b.next % 64 ≠ 0 ∨ 2 ^ 48 ≤ b.next then some 1
    else if !b.routeFits (vtG h.vtype) posted then some 4
    else if !done && ((b.op == 7 && wlsDepth h == 4) || (b.op == 8 && wlsDepth h == 0)) then some 7
    else none

/-- One byte of CRC-32C (12 R283): the Castagnoli polynomial, reflected. -/
def crcBits : Nat → BitVec 32 → BitVec 32
  | 0, c => c
  | n + 1, c => crcBits n (if c.getLsbD 0 then (c >>> 1) ^^^ 0x82F63B78 else c >>> 1)

/-- CRC-32C of a list of bytes (12 R283). -/
def crc32c (l : List Byte) : BitVec 32 := ~~~(l.foldl (fun c b => crcBits 8 (c ^^^ b.setWidth 32)) (BitVec.allOnes 32))

/-- A decoded payload (12 R284): its element type, whether scales apply, and each element's code with its block's scale. -/
structure Payload where
  t : ElemTy
  mx : Bool
  elems : List (Nat × Nat)
  deriving DecidableEq, Repr

/-- One EXFP8 block at the front of a list of bytes, tried at growing lengths: its codes and the bytes after it. -/
def takeBlock (ctab : Vector Word 4) (l : List Byte) : Nat → Nat → Option (List Nat × List Byte)
  | 0, _ => none
  | fuel + 1, n =>
    if l.length < n then none
    else match readBlock ctab (l.take n) with
      | .codes c => some (c, l.drop n)
      | .error => none
      | .more => takeBlock ctab l fuel (n + 1)

/-- n EXFP8 blocks one after another, and the bytes after them. -/
def takeBlocks (ctab : Vector Word 4) : Nat → List Byte → Option (List Nat × List Byte)
  | 0, l => some ([], l)
  | n + 1, l =>
    match takeBlock ctab l 34 17 with
    | none => none
    | some (c, r) => (takeBlocks ctab n r).map fun x => (c ++ x.1, x.2)

/-- The decoding of a payload through the crystalliser (12 R286 step 4), or the reason with which it fails (log 55). -/
def Block.decode (b : Block) (ctab : Vector Word 4) (l : List Byte) : Except Nat Payload :=
  let x := bytesNat l
  if b.fmt ≤ 0x0F then
    .ok { t := elemOf b.fmt, mx := false, elems := (upTo 0 b.count).map fun i => (fld x (i * rawWidth b.fmt) (rawWidth b.fmt), 127) }
  else if b.fmt = 0x10 then
    match takeBlocks ctab (b.count / 32) l with
    | none => .error 6
    | some (c, rest) => if rest.isEmpty then .ok { t := .e4m3, mx := false, elems := c.map fun y => (y, 127) } else .error 3
  else match packedType b.fmt with
    | none => .ok { t := .n64, mx := false, elems := [] }
    | some (t, len) =>
      .ok { t := t, mx := true, elems := (upTo 0 b.count).map fun i =>
        (fld x (8 * (i / 32 * len + 1) + i % 32 * elemWidth t) (elemWidth t), fld x (8 * (i / 32 * len)) 8) }

/-- A 64-bit word of a payload. -/
def Payload.word (p : Payload) (n : Nat) : Nat := (p.elems.getD n (0, 127)).1

/-- The payload-held operands that step 4 checks (12 R286, R289 to R291): the reason with which they fail. -/
def Block.operandFault (b : Block) (p : Payload) : Option Nat :=
  if (b.op = 6 ∨ b.op = 7) ∧ (p.word 0 % 64 ≠ 0 ∨ 2 ^ 48 ≤ p.word 0) then some 1
  else if b.op = 4 ∧ 3 < p.word 0 then some 8
  else if b.op = 9 ∧ p.word 0 = 0 then some 4
  else none

/-- Reads by stream engine 0 from pages with WX, as an agent of the context, which acts at U (12 R280, R281; 16 R329, R333). -/
def weightActor (s : State) : Actor :=
  let a := vectorActor s s.cur
  { a with who := .engine s.cur.tile 0, sp := { a.sp with level := .u } }

/-- n bytes of a block, in pieces that lie within one line (12 R281, R282). -/
def blockBytes : Nat → Nat → Word → State → Access (List Byte)
  | 0, _, _, s => .ok [] s
  | fuel + 1, n, va, s =>
    if n = 0 then .ok [] s
    else
      let k := min n 64
      (loadAs (weightActor s) .weight k va s).bind fun x s =>
        (blockBytes fuel (n - 64) (va + 64) s).bind fun l s => .ok (natBytes k x ++ l) s

/-- Step 1 of R286: the header of the block at WBA. -/
def readHeader (va : Word) (s : State) : Access (BitVec 512) :=
  (blockBytes 1 64 va s).bind fun l s => .ok (BitVec.ofNat 512 (bytesNat l)) s

/-- The code lengths under which the block of the current hart is decoded: those that stood as its header was read (15 R326). -/
def blockCtab (s : State) : Vector Word 4 := s.hart.wbCtab.getD s.tile.ctab

/-- Step 4 of R286: the payload read, its CRC checked, decoded, its operands checked; with its bytes. -/
def readPayload (b : Block) (ctab : Vector Word 4) (va : Word) (s : State) : Access (Payload × List Byte) :=
  (blockBytes 1024 b.plen (va + 64) s).bind fun l s =>
    if (crc32c l).toNat ≠ b.crc then .trap (blockFault b.op 5) s
    else match b.decode ctab l with
      | .error r => .trap (blockFault b.op r) s
      | .ok p => match b.operandFault p with
        | some r => .trap (blockFault b.op r) s
        | none => .ok (p, l) s

/-- The payload of the block of the current hart, where its effect is under way: what the checks found then is not read or checked
anew (12 R286; log 64). -/
def Block.begun (b : Block) (hdr : BitVec 512) (s : State) : Option Payload :=
  match s.hart.wbBlock with
  | some (x, l) => if x == hdr then (match b.decode (blockCtab s) l with | .ok p => some p | .error _ => none) else none
  | none => none

/-- Step 5 of R286: the hart state that the opcode uses (12 R288, R290, R291; log 64). -/
def Block.step5 (b : Block) (s : State) : Option TrapRec :=
  let h := s.hart
  let fault (r : Nat) : Option TrapRec := some (blockFault b.op r)
  match b.effKind with
  | 1 =>
    let a := accAt s s.cur.tile b.acc
    if b.op = 1 then
      if vtSc h.vtype && (fld h.vsreg.toNat 0 5 % vtG h.vtype != 0 || fld h.vsreg.toNat 8 5 % vtG h.vtype != 0) then fault 4
      else if !ownsAcc s b.acc || a.fmt.toNat != (vtFmt h.vtype).code || a.sc != vtSc h.vtype || decide (64 < h.vl.toNat) ||
          decide (h.vlmax.toNat / 64 < a.m.toNat) then some (trapOf 0x11 h.wdriveEnc)
      else none
    else if !drainFits h then fault 4
    else if !ownsAcc s b.acc || decide (a.n.toNat < h.vl.toNat) then some (trapOf 0x11 h.wdriveEnc)
    else none
  | 2 =>
    if vtSc h.vtype || (b.op == 4 && !TypeClass.floatNarrow.has (vtFmt h.vtype)) then fault 4 else none
  | 3 =>
    let x := fabricAt s s.cur.tile
    if vtSc h.vtype || x.foreign s.cur.h1 h.ctxid || !x.isPort b.pe b.ch false || portBound s s.cur.tile b.pe b.ch false then fault 4 else none
  | _ => none

/-- A payload element converted to a type (12 R290): as VFCVT converts, or dequantised and rounded once; an element under a NaN
scale contributes zero with VINV. -/
def payElem (p : Payload) (mode : Mode) (t : ElemTy) (e : Nat × Nat) : FOut :=
  if !p.mx then convElem mode p.t t e.1
  else if e.2 = 0xFF then { bits := 0, flags := flagVINV }
  else roundTo mode t (byScale (elemVal p.t e.1) e.2 false)

/-- The value that a payload brings to element i of a group: its only value, or element i. -/
def Payload.at (p : Payload) (i : Nat) : Nat × Nat := if p.elems.length = 1 then p.elems.getD 0 (0, 127) else p.elems.getD i (0, 127)

/-- WB.ADD, WB.SCALE and WB.ACT on a group of the hart, from an element on (12 R286 step 6, R290). From the zero of a payload element
under a NaN scale no flag but VINV follows (03 R64; log 55). -/
def groupEffect (b : Block) (p : Payload) (first : Nat) (h : Hart) : Hart :=
  let sh := h.shape
  let ws := (upTo first (sh.vl - first)).map fun i =>
    let x := h.elem b.reg sh.w sh.e i
    let r : FOut :=
      if b.op = 4 then
        let f := formOf sh.fmt
        match p.word 0 with
        | 0 => f.minmax true x 0
        | 1 => f.exp2V sh.mode x
        | 2 => f.rcpV sh.mode x
        | _ => f.rsqV sh.mode x
      else
        let y := payElem p sh.mode sh.fmt (p.at i)
        let r : FOut := match elemForm sh.fmt with
          | none => { bits := (if b.op = 2 then x + y.bits else x * y.bits) % 2 ^ sh.w, flags := 0 }
          | some f =>
            if b.op = 2 then f.addV sh.mode (f.decode x) (f.decode y.bits) else f.mulV sh.mode (f.decode x) (f.decode y.bits)
        { r with flags := if p.mx && (p.at i).2 == 0xFF && !nanCode sh.fmt x then y.flags else r.flags ||| y.flags }
    ({ i := i, x := r.bits, ok := true, fl := r.flags } : VWrite)
  (h.writeElems b.reg sh.w sh.e ws).raise (flagsOf ws)

/-- The rows of Bᵗ that a payload holds (12 R288). -/
def payRows (h : Hart) (n : Nat) (p : Payload) : List (Nat × MmaRow) :=
  let vl := h.vl.toNat
  (upTo 0 n).map fun j =>
    let l := (p.elems.drop (j * vl)).take vl
    (j, { vals := l.map fun e => elemVal p.t e.1, ints := l.map fun e => elemInt p.t e.1,
          scales := if !p.mx then [] else (upTo 0 ((vl + 31) / 32)).map fun k => (l.getD (32 * k) (0, 127)).2 })

/-- WB.MMA on a tile of the hart (12 R288). -/
def mmaEffect (b : Block) (p : Payload) (s : State) : State :=
  let h := s.hart
  if h.vl = 0 then s else
  let a := accAt s s.cur.tile b.acc
  let r := mmaRows (vtFmt h.vtype) a (mmaOperand h a.m.toNat 0 (BitVec.ofNat 5 h.vsreg.toNat)) (payRows h a.n.toNat p)
  (setAcc s s.cur.tile b.acc r.1).modHart fun h => h.dirtyAcc.raise r.2

/-- How the effect of a block ends: with its successor; in a wait for a port, a barrier or a post, in which interrupts are
taken; in a wait for memory; in a trap (12 R294). -/
inductive BlockEnd where
  | done (next : Nat) (s : State)
  | wait (s : State)
  | stall (s : State)
  | trap (t : TrapRec) (s : State)

/-- The block that a header gives (12 R283): none where OP names no opcode. -/
def blockInstr (hdr : BitVec 512) : Option Instr :=
  match (blockOf hdr).op with
  | 1 => some (.wbMma hdr)
  | 2 => some (.wbAdd hdr)
  | 3 => some (.wbScale hdr)
  | 4 => some (.wbAct hdr)
  | 5 => some (.wbDrain hdr)
  | 6 => some (.wbBranch hdr)
  | 7 => some (.wbCall hdr)
  | 8 => some (.wbRet hdr)
  | 9 => some (.wbSync hdr)
  | 10 => some (.wbNop hdr)
  | 11 => some (.wbExit hdr)
  | _ => none

/-- The hart leaves the mode at the end of the chain (12 R278; log 64). -/
def leaveChain (s : State) : State :=
  (leaveWeight s s.cur).modHart fun h =>
    { h with wbaRes := false, wbaAddr := 0, wbesDone := false, wbesArr := false, wbesTkn := false, wbesIdx := 0,
             wbResume := false, wbCtab := none, wbBlock := none, run := .running }.advance 8

/-- The walk goes on at a successor, or the chain ends (12 R286, R289). -/
def toSuccessor (next : Nat) (s : State) : State :=
  if next = 0 then leaveChain s
  else s.modHart fun h =>
    { h with wbaAddr := BitVec.ofNat 42 (next / 64), wbesDone := false, wbesArr := false, wbesTkn := false, wbesIdx := 0,
             wbResume := false, wbCtab := none, wbBlock := none, bwait := none }

/-- A block that waits: SP has been passed (12 R286, R292). -/
def blockWaits (s : State) : State :=
  let ctab := s.tile.ctab
  s.modHart fun h => { h with wbResume := true, wbCtab := some (h.wbCtab.getD ctab) }

/-- A block that waits for memory: nothing is taken before it goes on (12 R294). -/
def blockStalls (hdr : BitVec 512) (s : State) : State := (blockWaits s).modHart fun h => { h with inProgress := blockInstr hdr }

/-- A block whose checks hold begins its effect, with the payload that step 4 read (12 R286; log 64). -/
def beginBlock (hdr : BitVec 512) (l : List Byte) (s : State) : State :=
  (blockWaits s).modHart fun h => { h with wbBlock := some (hdr, l) }

/-- WBES as 0 (12 R286 step 3). -/
def Hart.freshBlock (h : Hart) : Bool := !h.wbesDone && !h.wbesArr && !h.wbesTkn && h.wbesIdx == 0

/-- Whether a pre-emption may be taken in the mode (12 R294; 11 R270). -/
def preemptsHere (s : State) : Bool :=
  (match s.hart.level with | .u => true | .s => false) && s.hart.sip.getLsbD 0 && !defersPreemption s s.cur

/-- The pre-emption of weight-driven mode (12 R294, 15 R317). -/
def weightPreempt (s : State) : State :=
  preempt s s.hart.pc (BitVec.ofNat 64 (crValue s s.cur 0x240)) true false allLive0 allLive1

/-- The address of the block that WBA names. -/
def blockAddr (s : State) : Word := BitVec.ofNat 64 (s.hart.wbaAddr.toNat * 64)

/-- The successor after a completed effect (12 R292; log 64). -/
def Block.afterDone (b : Block) (p : Payload) (h : Hart) : Nat :=
  match b.op with
  | 6 => if h.wbesTkn then p.word 0 else b.next
  | 7 => p.word 0
  | 8 => (h.wle.toList.getD (wlsDepth h) 0).toNat
  | _ => b.next

/-- A block of KIND 4 (12 R295): posted to the mailbox of the target's sequencer, or waiting for it; refused where the target's
hart is not in the mode in the same context (log 64). -/
def postBlock (b : Block) (s : State) : BlockEnd :=
  let me := s.cur.tile
  match (tileAt s me).postReply with
  | some ok =>
    let s := Machine.modTile s me fun x => { x with postReply := none }
    if ok then .done b.next s else .trap (blockFault b.op 9) s
  | none =>
    let t := tileAt s b.target
    let same := match t.seqr with
      | some h1 => (t.hart h1).ctxid == s.hart.ctxid && partNum s b.target == partNum s me
      | none => false
    if !same then .trap (blockFault b.op 9) s
    else match t.mailbox with
      | some _ => .wait s
      | none =>
        let addr := s.hart.wbaAddr.setWidth 48 <<< 6
        .wait ((Machine.modTile s b.target fun x => { x with mailbox := some (me, addr) }).modHart fun h => { h with wbesIdx := 0 })

/-- What follows the effect of a block, or the part of it that was performed. -/
def BlockEnd.out (x : BlockEnd) (hdr : BitVec 512) : Out :=
  match x with
  | .done n s => .next (toSuccessor n s)
  | .wait s => .next (blockWaits s)
  | .stall s => .next (blockStalls hdr s)
  | .trap t s => takeTrap s t

/-- Steps 2 to 6 of R286 for the block at WBA (12 R286, R292): eff is the effect of its opcode. A block whose effect is under way goes
on with it: no check is made anew (log 64). -/
def runBlock (hdr : BitVec 512) (eff : Block → Payload → State → Out) (s : State) : Out :=
  let b := blockOf hdr
  let va := blockAddr s
  let perform (p : Payload) (s : State) : Out := if b.kind = 4 then (postBlock b s).out hdr else eff b p s
  match b.begun hdr s with
  | some p => perform p s
  | none =>
  match b.step2 false s.hart.wbesDone s with
  | some r => takeTrap s (blockFault b.op r)
  | none =>
    if s.hart.wbesDone then
      match (if b.op = 6 ∨ b.op = 7 then readPayload b (blockCtab s) va s else .ok ({ t := .n64, mx := false, elems := [] }, []) s) with
      | .ok p s => .next (toSuccessor (b.afterDone p.1 s.hart) s)
      | .trap t s => takeTrap s t
      | .stall s => .next (blockStalls hdr s)
    else
      let point := b.sp && s.hart.freshBlock && !s.hart.wbResume
      let s := if point then s.modHart fun h => { h with spcnt := 0 } else s
      if point && preemptsHere s then .next (weightPreempt s)
      else match readPayload b (blockCtab s) va s with
      | .trap t s => takeTrap (s.modHart Hart.restartBlock) t
      | .stall s => .next (blockStalls hdr s)
      | .ok (p, l) s =>
        match (if b.kind = 4 then none else b.step5 s) with
        | some t => takeTrap s t
        | none => perform p (beginBlock hdr l s)

/-- WB.MMA (12 R288). -/
def execWbMma (hdr : BitVec 512) (s : State) : Out := runBlock hdr (fun b p s => .next (toSuccessor b.next (mmaEffect b p s))) s

/-- The data of a payload element as a token (12 R290). -/
def tokenOf (p : Payload) (mode : Mode) (e : Nat × Nat) : FOut :=
  match elemForm p.t with
  | some _ => payElem p mode .fp32 e
  | none => { bits := wrap 32 (elemInt p.t e.1), flags := 0 }

/-- Tokens delivered to a fabric port from WBES.IDX on, while it has room (12 R290). -/
def portEffect (b : Block) (p : Payload) : Nat → State → BlockEnd
  | 0, s => .wait s
  | fuel + 1, s =>
    let t := s.cur.tile
    let i := s.hart.wbesIdx.toNat
    if p.elems.length ≤ i then .done b.next s
    else
      let r := tokenOf p s.hart.mode (p.elems.getD i (0, 127))
      match (fabricAt s t).pushIn b.pe b.ch (.data (BitVec.ofNat 32 r.bits) (if i + 1 = p.elems.length then 1 else 0)) with
      | none => .wait s
      | some x =>
        portEffect b p fuel ((setFabric s t x).modHart fun h => { h.raise r.flags with wbesIdx := h.wbesIdx + 1 })

/-- The effect of a block on a group of its own hart, from WBES on (12 R286 step 6). -/
def ownGroup (b : Block) (p : Payload) (s : State) : Out :=
  .next (toSuccessor b.next (s.modHart fun h => groupEffect b p h.wbesIdx.toNat h))

/-- WB.ADD: on a group, or to a fabric port (12 R290). -/
def execWbAdd (hdr : BitVec 512) (s : State) : Out :=
  runBlock hdr (fun b p s =>
    if b.kind = 3 then (portEffect b p (p.elems.length + 1) s).out hdr else ownGroup b p s) s

/-- WB.SCALE (12 R290). -/
def execWbScale (hdr : BitVec 512) (s : State) : Out := runBlock hdr ownGroup s

/-- WB.ACT (12 R290). -/
def execWbAct (hdr : BitVec 512) (s : State) : Out := runBlock hdr ownGroup s

/-- The elements below top of WB.DRAIN: MDRAIN of the whole tile from WBES.IDX on (12 R291); where it stops, WBES.IDX names the
element. -/
def drainBlock (top : Nat) (b : Block) (p : Payload) (s : State) : Ended :=
  let h := s.hart
  let a := accAt s s.cur.tile b.acc
  let w := drainWidth h
  let els := (upTo h.wbesIdx.toNat (64 * a.m.toNat - h.wbesIdx.toNat)).filter fun e => decide (e % 64 < h.vl.toNat) && decide (e < top)
  let r := walkElems (fun acc e s =>
    let y := encodeElem h (if a.int32 then .i32 else .fp32) (a.elem (e / 64) (e % 64))
    storeElem acc.length w (BitVec.ofNat 64 (p.word 0 + e / 64 * p.word 1 + e % 64 * (w / 8))) none y.bits y.flags s) els [] s
  let l := r.acc.reverse
  let s := (commitEach l r.st).modHart fun h => h.raise (storeFlags l)
  let at' (s : State) : State := s.modHart fun h => { h with wbesIdx := BitVec.ofNat 32 r.pos }
  match r.stop with
  | .done => .done 0 s
  | .trap t => .fail t (at' s)
  | .stall => .wait (at' s)

/-- WB.DRAIN (12 R291). -/
def execWbDrain (hdr : BitVec 512) (s : State) : Out :=
  runBlock hdr (fun b p s =>
    match drainBlock 8192 b p s with
    | .done _ s => .next (toSuccessor b.next s)
    | .stop t s | .fail t s => takeTrap s t
    | .wait s => .next (blockStalls hdr s)) s

/-- WB.BRANCH (12 R289). -/
def execWbBranch (hdr : BitVec 512) (s : State) : Out :=
  runBlock hdr (fun b p s => .next (toSuccessor (if s.hart.rg b.reg = 0 then b.next else p.word 0) s)) s

/-- WB.CALL (12 R289). -/
def execWbCall (hdr : BitVec 512) (s : State) : Out :=
  runBlock hdr (fun b p s =>
    let d := wlsDepth s.hart
    .next (toSuccessor (p.word 0) (s.modHart fun h =>
      { h with wle := h.wle.setIfInBounds d (BitVec.ofNat 48 b.next), wls := BitVec.ofNat 3 (d + 1) }))) s

/-- WB.RET (12 R289). -/
def execWbRet (hdr : BitVec 512) (s : State) : Out :=
  runBlock hdr (fun _ _ s =>
    let d := wlsDepth s.hart - 1
    .next (toSuccessor (s.hart.wle.toList.getD d 0).toNat (s.modHart fun h => { h with wls := BitVec.ofNat 3 d }))) s

/-- PHASE, LASTFAIL and STATE of a barrier's counting copy (12 R291, 10 R242): none while the remote reads are outstanding,
and the state (log 64). -/
def syncRead (va : Word) (s : State) : Access (Option (Option (Nat × Nat × Nat))) :=
  (barrierField va 20 2 s).bind fun home s =>
    if home = 0xFFFF then
      (barrierField va 12 4 s).bind fun ph s => (barrierField va 16 4 s).bind fun lf s =>
        (barrierField va 22 1 s).bind fun st s => .ok (some (some (ph, lf, st))) s
    else
      let h := s.hart
      let peer := BitVec.ofNat 16 home
      match h.bwait with
      | some (_, some rs) =>
        let s := s.modHart fun h => { h with bwait := none }
        let val (n : Nat) : Nat := (rs.getD n { code := 1, val := 0 }).val.toNat
        .ok (some (if rs.length == 3 && rs.all fun r => r.code == 0 then some (val 0, val 1, val 2) else none)) s
      | some (_, none) =>
        if peerDead s (partNum s s.cur.tile) h.ctxid peer then .ok (some none) (s.modHart fun h => { h with bwait := none })
        else .ok none s
      | none =>
        if ((va - h.shbase).toNat + 12) % 4 ≠ 0 then .trap (trapOf 0x04 (va - h.shbase + 12)) s
        else if (sourceFailure s (partNum s s.cur.tile) h.ctxid peer).isSome then .ok (some none) s
        else
          let off := (va - h.shbase).toNat
          let op (k n : Nat) : RemoteOp := { kind := .load n, peer := peer, off := off + k, elem := 0 }
          let b : SubBatch := { src := s.self, ctx := h.ctxid, hart := s.cur, batch := h.nextBatch,
                                ops := [op 12 4, op 16 4, op 22 1], intact := true }
          let s := s.modHart fun h => { h with bwait := some (h.nextBatch, none), nextBatch := h.nextBatch + 1 }
          .ok none (if isSelf s peer then schedule s [.subBatchArrival b]
                    else { s with peerOut := s.peerOut ++ [.subBatch peer b] })

/-- The wait of WB.SYNC once it has arrived (12 R291): a new phase without failures completes the block. -/
def syncWait (b : Block) (va : Word) (s : State) : BlockEnd :=
  let fail (s : State) : BlockEnd := .trap (blockFault b.op 0x0A) (s.modHart fun h => { h with wbesDone := true })
  if b.sp && preemptsHere s then .wait (weightPreempt s)
  else match syncRead va s with
    | .trap t s => .trap t s
    | .stall s | .ok none s => .wait s
    | .ok (some none) s => fail s
    | .ok (some (some (ph, lf, st))) s =>
      if ph ≠ s.hart.wbesIdx.toNat then (if lf = 0 then .done b.next s else fail s)
      else if bitAt st 0 then fail s
      else .wait s

/-- The arrival of WB.SYNC (12 R291): the phase is read into WBES.IDX, then the hart arrives as BARRIVE does; nothing is taken while it
waits for its earlier writes. A read of the phase that fails ends the block as a failed read of its wait does (log 64). -/
def syncArrive (hdr : BitVec 512) (va : Word) (s : State) : Out :=
  waitPerformed (blockStalls hdr s) fun s =>
    match syncRead va s with
    | .trap t s => takeTrap s t
    | .stall s => .next s
    | .ok none s => .next (s.modHart fun h => { h with inProgress := none })
    | .ok (some none) s => takeTrap (s.modHart fun h => { h with wbesDone := true }) (blockFault (blockOf hdr).op 0x0A)
    | .ok (some (some (ph, _, _))) s =>
      arriveAt va (fun h => { h with wbesArr := true, wbesIdx := BitVec.ofNat 32 ph }) (s.modHart fun h => { h with inProgress := none })

/-- WB.SYNC (12 R291). -/
def execWbSync (hdr : BitVec 512) (s : State) : Out :=
  runBlock hdr (fun b p s =>
    let va := BitVec.ofNat 64 (p.word 0)
    if s.hart.wbesArr then (syncWait b va s).out hdr else syncArrive hdr va s) s

/-- WB.NOP (12 R287). -/
def execWbNop (hdr : BitVec 512) (s : State) : Out := runBlock hdr (fun b _ s => .next (toSuccessor b.next s)) s

/-- WB.EXIT (12 R287). -/
def execWbExit (hdr : BitVec 512) (s : State) : Out := runBlock hdr (fun _ _ s => .next (toSuccessor 0 s)) s

/-- WDRIVE (12 R278): the hart enters weight-driven mode at a block, or resumes at WBA. -/
def execWdrive (a : GReg) (off : BitVec 32) (s : State) : Out :=
  match vecTrap (.wdrive a off) s with
  | some t => takeTrap s t
  | none => waitPerformed s fun s =>
    if s.tile.seqr.isSome || (engineAt s s.cur.tile 0).isSome then .next s
    else
      let enter (s : State) : State :=
        (s.modTile fun x => { x with seqr := some s.cur.h1, postReply := none }).modHart fun h =>
          { h with run := .weight, wbCtab := none, wbBlock := none, wdriveEnc := (Instr.wdrive a off).tval }
      if s.hart.wbaRes then .next ((enter s).modHart fun h => { h with wbResume := true })
      else
        let b := s.hart.rg a + off.signExtend 64
        if b.toNat % 64 ≠ 0 ∨ 2 ^ 48 ≤ b.toNat then takeTrap s (trapOf 0x04 b)
        else .next ((enter s).modHart fun h =>
          { h with wls := 0, wbesDone := false, wbesArr := false, wbesTkn := false, wbesIdx := 0, wbaRes := true,
                   wbaAddr := BitVec.ofNat 42 (b.toNat / 64), wbResume := false })

/-- A posted block's header with INNER in place of KIND (12 R295). -/
def innerHeader (hdr : BitVec 512) : BitVec 512 := BitVec.ofNat 512 (putBits hdr.toNat 192 4 (fld hdr.toNat 208 4))

/-- The effect of a posted block whose checks hold on the hart that runs, and whether it was performed: its elements are compared there
as those of a block of that hart are; an error that is not recovered is that hart's trap, and leaves its WBES (12 R295, R296; log 64). -/
def postedEffect (hdr : BitVec 512) (p : Payload) (s : State) : Bool × State :=
  let b := blockOf hdr
  let i := (blockInstr (innerHeader hdr)).getD (.wbNop hdr)
  let h := { s.hart with wbesIdx := 0 }
  let perform (s : State) : State := if b.op = 1 then mmaEffect b p s else s.modHart (groupEffect b p 0)
  let below (n : Nat) (s : State) : State :=
    if b.op = 1 then s else s.modHart fun h => { groupEffect b p 0 { h with vl := BitVec.ofNat 16 (min n h.vl.toNat) } with vl := h.vl }
  match h.badSource (sources s.tile.acc h i) with
  | some (x, e) => (false, consumeStored (below e s) s.cur h.pc false x e)
  | none =>
    match h.replay with
    | none => (true, perform s)
    | some r =>
      let s := s.modHart fun h => { h with replay := none }
      if r.cause == .oldValues || !r.arises h || !r.strikes s.tile.acc h i then (true, perform s)
      else if r.again then (false, trapAt (unwind (logLost (below r.elem s) s.cur r) s.cur h.pc h.ves) s.cur r.trap)
      else (true, recovered (perform (squashTickets s r)) s.cur h.pc r.elem)

/-- A posted block on the hart that runs (12 R295): none while a read has to wait; otherwise whether it was performed (log
64). -/
def runPosted (va : Word) (s : State) : Option (Bool × State) :=
  let go : Access Bool :=
    (readHeader va s).bind fun hdr s =>
      let b := blockOf hdr
      if !(b.kind == 4 && decide (b.op ≤ 4)) || (b.step2 true false s).isSome then .ok false s
      else match readPayload b s.tile.ctab va s with
        | .ok (p, _) s => if (b.step5 s).isSome then .ok false s
            else let x := postedEffect hdr p s
              .ok x.1 x.2
        | .trap _ s => .ok false s
        | .stall s => .stall s
  match go with
  | .ok ok s => some (ok, s)
  | .trap _ s => some (false, s)
  | .stall _ => none

/-- WEIGHT_BLOCK_POST: the block in a tile's mailbox runs on the hart that holds its sequencer, and the poster is told; where no
hart of the same context is in the mode any more, the post is refused (12 R295). -/
def execWeightBlockPost (s : State) : Out :=
  match headEvent s with
  | some (.weightBlockPost t, s') =>
    match (tileAt s' t).mailbox with
    | none => .next s'
    | some (from', addr) =>
      let reply (ok : Bool) (s : State) : State :=
        let s := Machine.modTile s t fun x => { x with mailbox := none }
        Machine.modTile s from' fun x => { x with postReply := some ok }
      let poster := tileAt s' from'
      match (tileAt s' t).seqr, poster.seqr with
      | some h1, some p1 =>
        if ((tileAt s' t).hart h1).ctxid != (poster.hart p1).ctxid then .next (reply false s')
        else match runPosted (addr.setWidth 64) { s' with cur := ⟨t, h1⟩ } with
          | some (ok, x) => .next (reply ok { x with cur := s'.cur })
          | none => .next s'
      | _, _ => .next (reply false s')
  | _ => .next s

end Sys2Proof.Machine
end

