-- ==== Sys2Proof/Machine/System.lean ====
section
/-! DEFINITION. Control-register instructions, calls, traps and returns, waits, fences and invalidations (06 R146 to R155,
04 R87, 15 R308 to R310, 16 R340). -/

namespace Sys2Proof.Machine

/-- A control-register instruction: the old value to G[d], the new one by the operation; src is none for CRR. A set or clear
with source g0 is a read (02 R40, 06 R146). -/
def crInstr (i : Instr) (o : CrOp) (d : GReg) (n : BitVec 12) (src : Option GReg) (s : State) : Out :=
  let writes := match src, o with
    | none, _ => false
    | some _, .w => true
    | some r, _ => r != 0
  if !crAllowed s.hart.level n.toNat writes then takeTrap s (illegal i)
  else
    let go : Out :=
      let old := BitVec.ofNat 64 (crValue s s.cur n.toNat)
      if !writes then .next (s.modHart fun h => (h.wg d old).advance 4)
      else match crPut s o n.toNat (s.hart.rg (src.getD 0)) with
        | none => takeTrap s (illegal i)
        | some s' => .next (s'.modHart fun h => (h.wg d old).advance 4)
    if crWaits n.toNat then waitVq s go else go

def execCrr (d : GReg) (n : BitVec 12) (s : State) : Out := crInstr (.crr d n) .s d n none s
def execCrw (d a : GReg) (n : BitVec 12) (s : State) : Out := crInstr (.crw d a n) .w d n (some a) s
def execCrs (d a : GReg) (n : BitVec 12) (s : State) : Out := crInstr (.crs d a n) .s d n (some a) s
def execCrc (d a : GReg) (n : BitVec 12) (s : State) : Out := crInstr (.crc d a n) .c d n (some a) s

/-- The row that serves a management call of a known function (21 R414). -/
def callEvent (i : HartId) (fn : Word) : Option Event :=
  match fn.toNat with
  | 0 => some (.pinfo i)
  | 1 => some (.logread i)
  | 2 => some (.peerreg i)
  | 3 => some (.fabesc i)
  | 4 => some (.attest i)
  | 5 => some (.qpopen i)
  | 6 => some (.qpclose i)
  | _ => none

/-- ECALL: at U cause 0x0C; at S a management call, answered by the management core; an unknown function returns all ones in
g10 (06 R148, 15 R310). -/
def execEcall (s : State) : Out :=
  waitVq s <|
    match s.hart.level with
    | .u => takeTrap s (trapOf 0x0C 0)
    | .s =>
      match callEvent s.cur (s.hart.g.get 10) with
      | none => .next (s.modHart fun h => { h with g := h.g.set 10 (BitVec.allOnes 64) }.advance 4)
      | some e =>
        let s := s.modHart fun h => { h with run := .mgmt }
        .next (schedule { s with calls := s.calls ++ [s.cur] } [e])

/-- EBRK: at U cause 0x0B; at S it escalates (06 R148, 15 R309). -/
def execEbrk (s : State) : Out :=
  waitVq s <|
    match s.hart.level with
    | .u => takeTrap s (trapOf 0x0B 0)
    | .s => .next (escalateKill s s.cur)

/-- TRAPRET (15 R308; log 38). -/
def execTrapret (s : State) : Out :=
  if s.hart.level = .u ∨ (s.hart.pp = .u ∧ s.hart.unres = true) then takeTrap s (illegal .trapret)
  else waitPerformed s fun s => .next (s.modHart Hart.trapReturn)

/-- URET (02 R51): at S, or with no handler running, it traps with cause 0x01. SHD0 to SHD7 then read at S as the handler left them (log
38). -/
def execUret (s : State) : Out :=
  if s.hart.level = .s ∨ s.hart.uliActive = false then takeTrap s (illegal .uret)
  else .next (s.modHart fun h => { h with uliActive := false, pc := h.uliepc })

/-- Whether WFE ends at once: a pending user-level event, S-level interrupt or pre-emption request (06 R150; log 9). -/
def Hart.wakes (h : Hart) : Bool := h.ulipend != 0 || h.sip != 0

/-- WFE: the hart waits at the next instruction, unless what it waits for is there (06 R150; log 9). -/
def execWfe (s : State) : Out :=
  .next (s.modHart fun h => if h.wakes then h.advance 4 else { h.advance 4 with run := .wfe })

/-- Whether TLBINV drops an entry (06 R154, 16 R340). -/
def tlbMatch (page : Option Word) (asid : Option (BitVec 16)) (t : TlbEntry) : Bool :=
  (match page with | none => true | some va => va.toNat / 2 ^ t.bits == t.vpage) &&
  (match asid with | none => true | some x => !t.glob && t.asid == x)

/-- Whether an entry maps a physical address. -/
def TlbEntry.maps (t : TlbEntry) (pa : Nat) : Bool := pa / 2 ^ t.bits == fld t.leaf.toNat 12 40 * 4096 / 2 ^ t.bits

/-- Whether a write on its way to its home lies at an address of a kind: in a write-combining buffer, sent, or on its way to the
host's domain (16 R340). -/
def writeUnderway (s : State) (p : Nat → Bool) : Bool :=
  ((listedHarts s).any fun i =>
    let h := getHart s i
    (h.wcb.any fun c => p c.1) || h.sentLines.any fun l => p (128 * l)) ||
  s.hostWrites.any fun w => w.cells.any fun c => p c.1

/-- Whether a home holds a read or a returning atomic of a hart. -/
def readHeld (s : State) (i : HartId) : Bool := s.held.any fun h => h.returns && h.hart == some i

/-- The harts with queued vector instructions whose accesses were given a translation of a kind at issue, and whose next access has not
reached its home (16 R340, 01 R20; log 5). -/
def givenUnder (s : State) (p : TlbEntry → Bool) : List HartId :=
  (listedHarts s).filter fun i => !readHeld s i && (getHart s i).vq.any fun x => x.pages.any p

/-- A hart whose queued vector instructions translate afresh what they were given under some entries (16 R341; log 5). -/
def Hart.ungiven (h : Hart) (p : TlbEntry → Bool) : Hart :=
  { h with vq := h.vq.map fun x => { x with pages := x.pages.filter fun t => !p t } }

/-- TLBINV (16 R340): it retires once every access through an entry that it drops has reached its home; what a vector instruction with
an access held there translates later, it translates afresh (16 R341; log 5). -/
def execTlbinv (d a : GReg) (s : State) : Out :=
  if s.hart.level = .u then takeTrap s (illegal (.tlbinv d a))
  else waitPerformed s fun s =>
    let page := if a = 0 then none else some (s.hart.rg a)
    let asid := if d = 0 then none else some (BitVec.ofNat 16 (s.hart.rg d).toNat)
    let out := s.tlb.filter fun t => tlbMatch page asid t
    let given := givenUnder s (tlbMatch page asid)
    if !out.isEmpty && writeUnderway s fun pa => out.any fun t => t.maps pa then .next s
    else if !given.isEmpty then .next (schedule s (given.map fun i => .vectorInstructionRetirement i))
    else
      let s := (listedHarts s).foldl (fun s i =>
        if (getHart s i).vq.isEmpty then s else Machine.modHart s i fun h => h.ungiven (tlbMatch page asid)) s
      .next ({ s with tlb := s.tlb.filter fun t => !tlbMatch page asid t }.modHart fun h => h.advance 4)

/-- The physical addresses to which a virtual address translates, whatever the permissions: for a fetch, by a cached translation, and by
the tables; none where it does not (06 R155). -/
def physOf (s : State) (sp : Space) (va : Nat) : List Nat :=
  if 2 ^ 52 ≤ va then [] else
  match sp.table with
  | none => [va]
  | some (root, asid) =>
    (match translate s sp .fetch (BitVec.ofNat 64 va) with | .ok pa _ _ => [pa] | .trap _ => []) ++
    ((tlbFind s asid va).toList.map fun t => leafAddr t.leaf.toNat t.bits va) ++
    match walk s sp.part root va with
    | .leaf _ e bits => if goodLeaf sp.part e bits then [leafAddr e bits va] else []
    | .fault | .unreadable _ => []

/-- The physical lines that a range of virtual addresses touches: those of each line-sized piece that translates (log 67). -/
def fetchLines (s : State) (sp : Space) (va : Word) (n : Nat) : List Nat :=
  (upTo (va.toNat / 128) ((va.toNat % 128 + n + 127) / 128)).flatMap fun l =>
    (physOf s sp (128 * l % 2 ^ 64)).map lineOf

/-- CINV: lines of the tile's instruction cache dropped; no fault is raised (06 R155). A range of 64 KiB or more drops the
whole cache, as a cache may at any time (log 67). -/
def execCinv (d a : GReg) (s : State) : Out :=
  let n := (s.hart.rg d).toNat
  .next ((s.modTile fun x =>
    if d = 0 ∨ 65536 ≤ n then { x with icache := [] }
    else if n = 0 ∨ x.icache.isEmpty then x
    else
      let sp := hartSpace s s.cur
      let va := s.hart.rg a
      { x with icache := x.icache.filter fun e =>
          !(fetchLines s sp va n).contains e.1 }).modHart fun h => h.advance 4)

/-- FENCE: the wait of 01 R21, the flush of the write-combining buffer, and the wait for the covered accesses (04 R87). -/
def execFence (_o : MemOrd) (_sc : Scope) (s : State) : Out :=
  waitPerformed s fun s => .next (s.modHart fun h => h.advance 4)

end Sys2Proof.Machine
end

