-- ==== Sys2Proof/Machine/Writes.lean ====
section
/-! DEFINITION. Writes of control registers that have a row of their own, and of registers that have none: the write of a CRW or
of a device register, by the hart whose turn it is (06 R146, 16 R327). -/

namespace Sys2Proof.Machine

/-- A write of a control register by the current hart, as CRW makes it (06 R146): the check of the number, the wait for the
execute side where there is one (01 R19, 02 R41, 20 R408), the write; a write of CTXID that fails traps (16 R328). TVAL names
the CRW with register fields 0 (log 17). -/
def writeCr (e : Event) (n : BitVec 12) (v : Word) (s : State) : Out :=
  let bad := trapOf 0x01 (Instr.crw 0 0 n).tval
  if !crAllowed s.hart.level n.toNat true then takeTrap s bad
  else if (crWaits n.toNat && !s.hart.vq.isEmpty) || s.hart.awaitsExfp8 s.tile.acc (.crw 0 0 n) then
    .next { s with events := .event (.vectorInstructionRetirement s.cur) :: .event e :: s.events }
  else match crPut s .w n.toNat v with
    | none => takeTrap s bad
    | some s => .next s

/-- CTXID_WRITE (16 R328). -/
def execCtxidWrite (s : State) : Out :=
  match headEvent s with
  | some (.ctxidWrite v, s) => writeCr (.ctxidWrite v) 0x208 v s
  | _ => .next s

/-- VL_WRITE (15 R305). -/
def execVlWrite (s : State) : Out :=
  match headEvent s with
  | some (.vlWrite v, s) => writeCr (.vlWrite v) 0x300 v s
  | _ => .next s

/-- VTYPE_WRITE (15 R305). -/
def execVtypeWrite (s : State) : Out :=
  match headEvent s with
  | some (.vtypeWrite v, s) => writeCr (.vtypeWrite v) 0x301 v s
  | _ => .next s

/-- VLP_WRITE (17 R352). -/
def execVlpWrite (s : State) : Out :=
  match headEvent s with
  | some (.vlpWrite v, s) => writeCr (.vlpWrite v) 0x303 v s
  | _ => .next s

/-- FFLAGS_WRITE (02 R41). -/
def execFflagsWrite (s : State) : Out :=
  match headEvent s with
  | some (.fflagsWrite v, s) => writeCr (.fflagsWrite v) 0x001 v s
  | _ => .next s

/-- VES_WRITE (02 R41). -/
def execVesWrite (s : State) : Out :=
  match headEvent s with
  | some (.vesWrite v, s) => writeCr (.vesWrite v) 0x005 v s
  | _ => .next s

/-- VALIDITY_FIELD_WRITE: VVSEL, VVLO or VVHI (20 R408). -/
def execValidityFieldWrite (s : State) : Out :=
  match headEvent s with
  | some (.validityFieldWrite n v, s) => writeCr (.validityFieldWrite n v) n v s
  | _ => .next s

/-- REGISTER_WRITE: a control register of the current hart, or a device register that it writes, as through a TYPE 3 mapping
(06 R146, 16 R327, 19 R404; log 32). -/
def execRegisterWrite (s : State) : Out :=
  match headEvent s with
  | some (.registerWrite r v, s) =>
    match r with
    | .cr n => writeCr (.registerWrite (.cr n) v) n v s
    | .device a n => .next (if a < deviceBase then s else devWrite s (some (partNum s s.cur.tile, s.hart.ctxid)) (a - deviceBase) n v.toNat)
  | _ => .next s

end Sys2Proof.Machine
end

