-- ==== Sys2Proof/Machine/Fetch.lean ====
section
/-! DEFINITION. Instruction fetch (04 R100, 05 R101 to R104, 16 R330 to R333), and the checks of an instruction at issue
(05 R105, 06 R156). -/

namespace Sys2Proof.Machine

/-- The 128 bytes of a line from memory. -/
def lineBytes (s : State) (l : Nat) : List Byte := memBytes s.mem 128 (128 * l)

/-- The word at a physical address as the instruction cache of a tile gives it: a line that the cache holds keeps its bytes
until it is dropped, any other is filled from its home (04 R100, 06 R155), where a line with a bad codeword is not kept (19 R392).
While no agent lags (log 5) nothing is cached (log 18). -/
def cachedWord (s : State) (t pa : Nat) : Access Nat :=
  let l := lineOf pa
  match alGet (tileAt s t).icache l with
  | some bytes => .ok (bytesNat ((bytes.drop (pa % 128)).take 4)) s
  | none =>
    let s := if s.relaxed && (badIn s (128 * l) 128).isNone then Machine.modTile s t fun x => { x with icache := alSet x.icache l (lineBytes s l) } else s
    .ok (physRead s 4 pa) s

/-- The instruction word at a virtual address: from the instruction cache, or from its home, which meets the reservations of the
line as for a load (04 R89, 16 R330 to R333, 19 R392). -/
def fetchWord (s : State) (va : Word) : Access Nat :=
  let sp := hartSpace s s.cur
  match translate s sp .fetch va with
  | .trap t => .trap t ((scalarActor s s.cur).faulted .fetch t va s)
  | .ok pa _ entry =>
    let go (s : State) : Access Nat := cachedWord (markLeaf s sp .fetch va.toNat entry) s.cur.tile pa
    if (alGet s.tile.icache (lineOf pa)).isSome then go s else
    let ls := [lineOf pa]
    let who := hartWho s s.cur
    match conflict s who ls false with
    | .refuse ident => .trap (trapOf 0x09 ident) s
    | .hold _ _ => .stall (cutResvs s (splitCuts s who ls false))
    | .serve cuts =>
      if lineDenied s (tileId s.cur.tile) (lineOf pa) then .stall (refuseLines s (tileId s.cur.tile) ls) else
      let s := completeLines (cutResvs s cuts) (tileId s.cur.tile) ls
      match badIn s pa 4 with
      | some b => .trap (badDataTrap b) (consumeBad s (some s.cur) b)
      | none => go s

/-- Cause 0x01 for a reserved encoding: TVAL holds the word, or both words of a long form (05 R102, R104; log 68). -/
def reservedTrap (w0 w1 : Nat) : TrapRec := trapOf 0x01 (BitVec.ofNat 64 (w0 + w1 * 2 ^ 32))

/-- The instruction at the program counter (05 R101, R104, R105 steps 1 and 2). -/
def fetchInstr (s : State) : Access Instr :=
  (fetchWord s s.hart.pc).bind fun w0 s =>
    (if isLong w0 then fetchWord s (s.hart.pc + 4) else .ok 0 s).bind fun w1 s =>
      match decode w0 w1 with
      | .instr i => .ok i s
      | .reserved _ => .trap (reservedTrap w0 w1) s

/-- Step 3 of 05 R105: an instruction that the level does not allow. -/
def privilegeTrap (i : Instr) (s : State) : Bool :=
  match i, s.hart.level with
  | .trapret, .u => true
  | .tlbinv _ _, .u => true
  | .uret, .s => true
  | .crr _ n, l => !crAllowed l n.toNat false
  | .crw _ _ n, l => !crAllowed l n.toNat true
  | .crs _ a n, l => !crAllowed l n.toNat (a != 0)
  | .crc _ a n, l => !crAllowed l n.toNat (a != 0)
  | _, _ => false

/-- Whether an instruction traps at issue, at one of steps 3 to 7 of 05 R105 (log 38). -/
def issueTraps (i : Instr) (s : State) : Bool := privilegeTrap i s || (vecTrap i s).isSome

/-- The block at WBA (12 R286 steps 1 and 2; log 28); the one whose effect is under way as it was read. -/
def nextBlock (s : State) : Access Instr :=
  let header : Access (BitVec 512) := match s.hart.wbBlock with
    | some (hdr, _) => .ok hdr s
    | none => readHeader (blockAddr s) s
  header.bind fun hdr s =>
    match blockInstr hdr with
    | some i => .ok i s
    | none => .trap (blockFault (blockOf hdr).op 2) s

end Sys2Proof.Machine
end

