-- ==== Sys2Proof/Machine/Agenda.lean ====
section
/-! DEFINITION. What the machine does next: the moves that its agents can make, the turn of a hart and what is due at its boundary
(06 R156), the clocks that a turn takes (log 6, 7). -/

namespace Sys2Proof.Machine

/-- The moves that the fabric of a tile can make (11 R249, R264 to R266, R417). -/
def fabricMoves (s : State) (t : Nat) : List Event :=
  let x := fabricAt s t
  (if x.staging then [.stagingComplete t] else []) ++ (if x.canSwap then [.swapComplete t] else []) ++
  (x.pes.flatMap fun p =>
    let n := BitVec.ofNat 6 p.1
    (if x.canFire p.1 then [Event.peFire t n] else []) ++ (if x.canRest p.1 then [.peQuiescence t n] else []) ++
    ((upTo 0 4).filter fun ch => x.canMove p.1 ch).map fun ch => .tokenTransfer t n (BitVec.ofNat 2 ch)) ++
  ((x.leftProducers.filter fun p => (x.pe p.1).isNone && (x.fromLeft p.1 p.2).isSome).map fun p =>
    Event.tokenTransfer t (BitVec.ofNat 6 p.1) (BitVec.ofNat 2 p.2)) ++
  (x.regions.filter fun r => regionDone s t r.cfg.index).map fun r => .regionDrained t r.cfg.index

/-- The moves that the stream engines of a tile can make (11 R275). -/
def engineMoves (s : State) (t : Nat) : List Event :=
  (upTo 0 4).flatMap fun n =>
    let e := BitVec.ofNat 2 n
    match engineAt s t e with
    | none => []
    | some x =>
      (if readReady s t x then [.streamReadElement t e] else []) ++
      (match writeHead s t x with | .none => [] | _ => [.streamWriteElement t e])

/-- The moves that the rest of a tile can make: queued vector work, a post in the mailbox (01 R18, 12 R295). -/
def tileMoves (s : State) (t : Nat) : List Event :=
  let x := tileAt s t
  (if x.h0.vq.isEmpty then [] else [.vectorInstructionRetirement ⟨t, false⟩]) ++
  (if x.h1.vq.isEmpty then [] else [.vectorInstructionRetirement ⟨t, true⟩]) ++
  (if x.mailbox.isSome then [.weightBlockPost t] else [])

/-- The moves that the scheduler can make (17 R349 to R358). -/
def schedulerMoves (s : State) : List Event :=
  (s.parts.flatMap fun p =>
    (match chooseQueue s p with | some q => [.packetTake q] | none => []) ++
    (match placementChoice s p with | some f => [.hartPlacement f.id] | none => [])) ++
  (s.farms.filter fun f => farmDone s f).map fun f => .farmCompletion f.id

/-- Every move that an agent other than a hart can make now (log 7). -/
def agentMoves (s : State) : List Event :=
  (s.tiles.flatMap fun e => fabricMoves s e.1 ++ engineMoves s e.1 ++ tileMoves s e.1) ++ schedulerMoves s ++ portMoves s

/-- Whether a hart takes turns: one that bring-up left free waits until it is placed (21 R413; log 65). -/
def Hart.takesTurns (h : Hart) : Bool :=
  match h.run with
  | .running | .weight => true
  | .wfe => h.translated || h.pc != 0
  | .halted | .stopped | .mgmt => h.inProgress.isSome || h.trapWait.isSome

/-- The next hart in the rotation that takes turns (01 R31); the current one where there is no other (log 7, 65). -/
def nextTurn (s : State) : HartId :=
  let l := (listedHarts s).filter fun i => (getHart s i).takesTurns
  match l.find? fun i => decide (s.cur.tile < i.tile) || (i.tile == s.cur.tile && i.h1 && !s.cur.h1) with
  | some i => i
  | none => l.headD s.cur

/-- The clocks of a turn counted by a hart (02 R50, 15 R304, R314; log 6). -/
def Hart.tick (h : Hart) (n : Nat) : Hart :=
  let atU := match h.level with | .u => (match h.run with | .running | .wfe | .weight => true | _ => false) | .s => false
  { h with
    cyc := if h.member.isSome then h.cyc + BitVec.ofNat 64 n else h.cyc
    spcnt := if atU && h.run != .wfe then h.spcnt + BitVec.ofNat 32 n else h.spcnt
    scount := if atU && h.scount != 0 then (if n < h.scount.toNat then h.scount - BitVec.ofNat 64 n else 1) else h.scount }

/-- A turn of the current hart counted; SCOUNT reaches zero in a step of its own (log 6). -/
def tick (s : State) : State :=
  let n := Config.clocks s.draws
  let h := s.hart
  let t := h.tick n
  let s := { s.setHart t with draws := s.draws + 1 }
  if h.scount != 0 && h.level == .u && decide (h.scount.toNat ≤ n) then schedule s [.scountZero s.cur] else s

/-- What waits at a home tried again before anything that came later: parked events, and sub-batches held there (04 R90, 10
R230; log 70). -/
def retryParked (s : State) : State :=
  { s with waiting := [], heldBatches := [],
           events := s.waiting.map Move.event ++ s.heldBatches.map (fun b => .event (.subBatchArrival b)) ++ s.events }

/-- Whether an event comes after a parked or held one of the same order: sub-batches of one hart, messages of one queue pair, the
close of a queue pair that accesses memory, management calls, writes of one hart to host memory (10 R230, 18 R385, R389, 21
R414, 01 R22; log 70, 73). -/
def followsIn (s : State) (e w : Event) : Bool :=
  match e, w with
  | .subBatchArrival a, .subBatchArrival b => a.src == b.src && a.hart == b.hart
  | .cxlCacheResponse a, .cxlCacheResponse b =>
    let owner (n : Nat) : Option HartId := (s.hostWrites.find? fun x => x.id == n).map fun x => x.hart
    decide (b < a) && owner a == owner b
  | .qpclose i, w => (Event.caller w).isSome || Event.pair w == some (callArg s i 11, callArg s i 12)
  | _, _ => ((Event.pair e).isSome && Event.pair e == Event.pair w) || ((Event.caller e).isSome && (Event.caller w).isSome)

/-- The homes that a move which waits has met: they invalidate the copies that must be gone before it, and count the refusals (18 R362 to
R364, R366, R377; log 70). -/
def askHomes (s : State) (l : List Await) : State :=
  l.foldl (fun s a =>
    let s := if a.out.isEmpty || (dirAt s a.line).busy.isSome then s
      else becomeBusy s a.line a.out (if a.evicts then .evict else .again a.writer)
    match a.refused with
    | some id => refuseLines s id [a.line]
    | none => s) s

/-- The counts that the scheduler holds after a move: those of a queue whose EN was cleared given up, those of a queue whose EN
was set taken from its entry (17 R345). -/
def noteCounts (s : State) : State :=
  let kept := s.queues.filter fun e => match queuePart s e.1 with
    | some p => bitAt (queueCtl s p e.1) 7
    | none => false
  { s with queues := s.parts.foldl (fun l p => (listedQueues s p).foldl (fun l q =>
      if bitAt (queueCtl s p q) 7 && (alGet l q).isNone then alSet l q (queueCounts s p q) else l) l) kept }

/-- What follows a turn of the current hart: the instruction with which it goes on at its next turn, if it has begun one, is
noted, the clocks are counted, the agents' moves are put on the agenda once, and the turn passes (log 7, 8). -/
def endTurn (goesOn : Option Instr) (s : State) : State :=
  let s := tick (s.modHart fun h => { h with inProgress := goesOn })
  let parked := s.waiting
  let s := noteCounts (retryParked s)
  let s := schedule s ((agentMoves s).filter fun e => !parked.contains e && !s.held.any fun h => h.event == some e)
  { s with cur := nextTurn s }

/-- Requests of a hart that homes hold and that return a value (04 R90). -/
def heldReads (s : State) (i : HartId) : Nat := (s.held.filter fun x => x.returns && x.hart == some i).length

/-- Whether a hart is in an SOPEN or an SCLOSE that waits for the homes (04 R89, R93). -/
def inStream (s : State) (i : HartId) : Bool :=
  (upTo 0 4).any fun n => match engineAt s i.tile (BitVec.ofNat 2 n) with
    | some x => x.h1 == i.h1 && x.ctx == (getHart s i).ctxid && x.phase != .inUse
    | none => false

/-- The instruction with which the current hart goes on after a turn from s to u in which it ran one, if it did: a remote one
without its answers, a VCAPP that waits, an SOPEN or SCLOSE that waits for the homes, one whose read or atomic a home holds, one that has
said so itself (log 8). -/
def goesOn (s : State) (ran : Option Instr) (u : State) : Option Instr :=
  let h := u.hart
  let held := decide (heldReads s s.cur < heldReads u s.cur) ||
    (s.hart.inProgress.isSome && decide (0 < heldReads u s.cur) && h.pc == s.hart.pc)
  if h.sync.isSome || (h.capp.isSome && h.vq.isEmpty) || inStream u s.cur || held then ran else h.inProgress

/-- A hart between two instructions: what it asked homes to hold, and their answers, belong to no instruction any more (log
56). -/
def forgetReads (s : State) : State :=
  if !s.hart.vq.isEmpty || (s.hart.answers.isEmpty && heldReads s s.cur == 0) then s else
  { s with held := s.held.filter fun x => !(x.returns && x.hart == some s.cur) }.modHart fun h => { h with answers := [] }

/-- The end of a turn that took the machine from s to u and ran an instruction or not. A turn that met a home where it must wait
is undone, and is made again later (log 70). -/
def closeTurn (s : State) (ran : Option Instr) (u : State) : State :=
  if !u.await.isEmpty then endTurn s.hart.inProgress (askHomes s u.await)
  else match goesOn s ran u with
    | some i => endTurn (some i) u
    | none => endTurn none (forgetReads u)

/-- What a turn does: nothing but time passes, an instruction or an event runs, or it has no meaning. -/
inductive Choice where
  | stay (s : State)
  | run (i : Instr) (s : State)

/-- A row's event at the head of the agenda, to be run at once. -/
def runEvent (s : State) (e : Event) : Choice := .run e.row { s with events := .event e :: s.events }

/-- The hart as its boundary would find it with the execute side at rest. -/
def Hart.rested (h : Hart) : Hart := { h with vq := [] }

/-- Whether an instruction is a SAFEPT at which a pre-emption is taken (15 R316). -/
def preemptsAt (i : Instr) (s : State) : Bool :=
  match i, s.hart.level with
  | .safept _, .u => s.hart.sip.getLsbD 0 && !defersPreemption s s.cur
  | _, _ => false

/-- What is due at the boundary of the current hart before its next instruction or block, in the order of 06 R156; next is that
instruction, where it is known. DESIGN CHOICE: 06 R156 does not list the fabric events of 11 R260 and R261; the model takes them
after traps of fetch and issue and before the rest. A SAFEPT with a pre-emption pending comes before a user-level interrupt, though it
should then trap; no pre-emption is taken before a WDRIVE that waits, as 15 R307 takes one only at a safe point (log 28). -/
def dueEvent (next : Option Instr) (s : State) : Option Event :=
  let i := s.cur
  let h := s.hart.rested
  if h.atBoundary && (takeFabric h).isSome then some (.fabricFaultDelivery i)
  else if h.dueInterrupt.isSome then some (.interruptEntry i)
  else if h.dueDistance then some (.safePointDistanceFault i)
  else if (match next with | some n => preemptsAt n s | none => false) then none
  else if h.dueUser then some (.userLevelInterrupt i)
  else none

/-- An event that is due is taken once the execute side has retired what is queued (01 R21; log 28). -/
def takeDue (s : State) (e : Event) : Choice :=
  if s.hart.vq.isEmpty then runEvent s e else .stay (schedule s [.vectorInstructionRetirement s.cur])

/-- The instruction of the current hart, unless it meets an error (19 R392, R396; log 31). -/
def unlessError (i : Instr) (s : State) : Choice :=
  match meetError i s with
  | some s => .stay s
  | none => .run i s

/-- The header of a block that reads a payload, which may have to be read again, as its effect may be replayed (12 R296,
19 R392). -/
def replayedBlock : Instr → Option (BitVec 512)
  | .wbMma hdr | .wbAdd hdr | .wbScale hdr | .wbAct hdr | .wbDrain hdr | .wbBranch hdr | .wbCall hdr | .wbSync hdr
  | .wbNop hdr => some hdr
  | _ => none

/-- What a block whose checks hold comes to with its payload (12 R286 steps 2 to 5): none where one fails, or the block is
posted, or reads no payload. -/
def blockPayload (hdr : BitVec 512) (s : State) : Option (Payload × List Byte) :=
  let b := blockOf hdr
  if b.kind == 4 || (s.hart.wbesDone && b.op != 6 && b.op != 7) then none
  else match b.begun hdr s, s.hart.wbBlock with
    | some p, some (_, l) => some (p, l)
    | _, _ =>
      if (b.step2 false s.hart.wbesDone s).isSome then none
      else match readPayload b (blockCtab s) (blockAddr s) s with
        | .ok p s => if !s.hart.wbesDone && (b.step5 s).isSome then none else some p
        | _ => none

/-- The elements that a block has committed when it meets a mismatch that its replay meets again: those before it; a store among
them may trap first, or wait (12 R296; log 31). -/
def commitBefore (i : Instr) (b : Block) (p : Payload) (s : State) : Ended :=
  match s.hart.replay with
  | some r =>
    if s.hart.badStore.isEmpty && s.hart.second s.hart.place r && r.arises s.hart && r.strikes s.tile.acc s.hart i && r.cause == .mismatch then
      (match i with
       | .wbAdd _ | .wbScale _ | .wbAct _ =>
         if b.kind == 2 then
           .done 0 (s.modHart fun h => { groupEffect b p h.wbesIdx.toNat { h with vl := BitVec.ofNat 16 (min r.elem h.vl.toNat) } with vl := h.vl })
         else .done 0 s
       | .wbDrain _ => drainBlock r.elem b p s
       | _ => .done 0 s)
    else .done 0 s
  | none => .done 0 s

/-- The block of the current hart, unless it meets an error once its checks hold (12 R286, R296; log 31). -/
def blockOrError (i : Instr) (s : State) : Choice :=
  match replayedBlock i with
  | none => unlessError i s
  | some hdr =>
    match blockPayload hdr s with
    | none => .run i s
    | some (p, l) =>
      if (meetError i s).isNone then .run i s
      else match commitBefore i (blockOf hdr) p s with
        | .done _ s => unlessError i s
        | .stop t s | .fail t s => .stay (trapNow s t)
        | .wait s => .stay (blockStalls hdr (beginBlock hdr l s))

/-- Whether an instruction accesses memory on the access side while an earlier VLD.sc or VST.sc is still queued: it waits for that (04
R88; log 5). -/
def behindSc (i : Instr) (s : State) : Bool :=
  (s.hart.vq.any fun x => match x.instr with
    | .vldSc _ _ _ _ | .vstSc _ _ _ _ => true
    | _ => false) &&
  (match i with
   | .ldb _ _ _ | .ldh _ _ _ | .ldw _ _ _ | .ldd _ _ _ | .ldbN _ _ _ | .ldhN _ _ _ | .ldwN _ _ _ | .ldaq _ _ _ _ _
   | .stb _ _ _ | .sth _ _ _ | .stw _ _ _ | .std _ _ _ | .amoadd _ _ _ _ _ _ | .amoand _ _ _ _ _ _ | .amoor _ _ _ _ _ _
   | .amoxor _ _ _ _ _ _ | .amomin _ _ _ _ _ _ _ | .amomax _ _ _ _ _ _ _ | .amoswp _ _ _ _ _ _ | .amocas _ _ _ _ _ _
   | .bwait _ _ | .crec _ _ => true
   | _ => false)

/-- Whether an instruction waits for a vector instruction that is queued, whose result or order it needs (01 R19, 04 R88; log 5). -/
def awaitsQueued (i : Instr) (s : State) : Bool := behindSc i s || s.hart.awaitsExfp8 s.tile.acc i

/-- The turn of a hart that runs instructions: a trap at fetch or issue first, then what is due, then the instruction
(05 R105, 06 R156; log 8). While the fetch waits at its home what is due is taken, whatever the instruction turns out to be (log 28). -/
def runningTurn (s : State) : Choice :=
  match fetchInstr s with
  | .trap t s => .stay (trapNow s t)
  | .stall s' =>
    (match dueEvent none s with
     | some e => takeDue s e
     | none => .stay s')
  | .ok i s' =>
    if issueTraps i s' then .run i s'
    else match dueEvent (some i) s with
      | some e => takeDue s e
      | none => if awaitsQueued i s then .stay (schedule s [.vectorInstructionRetirement s.cur]) else unlessError i s'

/-- The turn of a hart in weight-driven mode: between the acceptance of a post and its answer nothing else happens (12 R286,
R294, R295; log 28). -/
def weightTurn (s : State) : Choice :=
  match (if s.tile.postReply.isSome then none else dueEvent none s) with
  | some e => takeDue s e
  | none =>
    match nextBlock s with
    | .trap t s => .stay (trapNow s t)
    | .stall s => .stay s
    | .ok i s => blockOrError i s

/-- The turn of a hart in WFE: the end of the wait, where something wakes it or is due at its boundary, or the time limit that
runs; what is due is taken at its next turn, in the order of 06 R156 (06 R150; log 9). -/
def wfeTurn (s : State) : Choice :=
  if (dueEvent none s).isSome || s.hart.wakes then .stay (s.modHart fun h => { h with run := .running })
  else .stay (schedule s [.wfeTimeLimit s.cur])

/-- The turn of the current hart (log 7). -/
def turn (s : State) : Choice :=
  let h := s.hart
  if !h.takesTurns then .stay s
  else match h.inProgress, h.trapWait with
  | some i, _ =>
    let s' := s.modHart fun h => { h with inProgress := none }
    if h.sync.isSome || h.capp.isSome then .run i s' else if h.run == .weight then blockOrError i s' else unlessError i s'
  | none, some t =>
    if h.vq.isEmpty then .stay (trapAt (s.modHart fun h => { h with trapWait := none }) s.cur t)
    else .stay (schedule s [.vectorInstructionRetirement s.cur])
  | none, none =>
    match h.run with
    | .running => runningTurn s
    | .weight => weightTurn s
    | .wfe => wfeTurn s
    | .halted | .stopped | .mgmt => .stay s

end Sys2Proof.Machine
end

