-- ==== Sys2Proof/Machine/Dispatch.lean ====
section
/-! DEFINITION. The one match from an instruction to its meaning. -/

namespace Sys2Proof.Machine

def exec (i : Instr) (s : State) : Host.Outcome State Fault Refusal :=
  match i with
  | .add d a b => Sys2Proof.Machine.execAdd d a b s
  | .sub d a b => Sys2Proof.Machine.execSub d a b s
  | .and d a b => Sys2Proof.Machine.execAnd d a b s
  | .or d a b => Sys2Proof.Machine.execOr d a b s
  | .xor d a b => Sys2Proof.Machine.execXor d a b s
  | .sll d a b => Sys2Proof.Machine.execSll d a b s
  | .srl d a b => Sys2Proof.Machine.execSrl d a b s
  | .sra d a b => Sys2Proof.Machine.execSra d a b s
  | .slt d a b => Sys2Proof.Machine.execSlt d a b s
  | .sltn d a b => Sys2Proof.Machine.execSltn d a b s
  | .min d a b => Sys2Proof.Machine.execMin d a b s
  | .max d a b => Sys2Proof.Machine.execMax d a b s
  | .minn d a b => Sys2Proof.Machine.execMinn d a b s
  | .maxn d a b => Sys2Proof.Machine.execMaxn d a b s
  | .mul d a b => Sys2Proof.Machine.execMul d a b s
  | .mulh d a b => Sys2Proof.Machine.execMulh d a b s
  | .mulhn d a b => Sys2Proof.Machine.execMulhn d a b s
  | .div d a b => Sys2Proof.Machine.execDiv d a b s
  | .divn d a b => Sys2Proof.Machine.execDivn d a b s
  | .rem d a b => Sys2Proof.Machine.execRem d a b s
  | .remn d a b => Sys2Proof.Machine.execRemn d a b s
  | .clz d a => Sys2Proof.Machine.execClz d a s
  | .ctz d a => Sys2Proof.Machine.execCtz d a s
  | .popc d a => Sys2Proof.Machine.execPopc d a s
  | .brev d a => Sys2Proof.Machine.execBrev d a s
  | .addi d a imm => Sys2Proof.Machine.execAddi d a imm s
  | .andi d a imm => Sys2Proof.Machine.execAndi d a imm s
  | .ori d a imm => Sys2Proof.Machine.execOri d a imm s
  | .xori d a imm => Sys2Proof.Machine.execXori d a imm s
  | .slti d a imm => Sys2Proof.Machine.execSlti d a imm s
  | .sltni d a imm => Sys2Proof.Machine.execSltni d a imm s
  | .slli d a sh => Sys2Proof.Machine.execSlli d a sh s
  | .srli d a sh => Sys2Proof.Machine.execSrli d a sh s
  | .srai d a sh => Sys2Proof.Machine.execSrai d a sh s
  | .lui d imm => Sys2Proof.Machine.execLui d imm s
  | .auipc d imm => Sys2Proof.Machine.execAuipc d imm s
  | .limm d imm => Sys2Proof.Machine.execLimm d imm s
  | .limmH d imm => Sys2Proof.Machine.execLimmH d imm s
  | .ldb d a off => Sys2Proof.Machine.execLdb d a off s
  | .ldh d a off => Sys2Proof.Machine.execLdh d a off s
  | .ldw d a off => Sys2Proof.Machine.execLdw d a off s
  | .ldd d a off => Sys2Proof.Machine.execLdd d a off s
  | .ldbN d a off => Sys2Proof.Machine.execLdbN d a off s
  | .ldhN d a off => Sys2Proof.Machine.execLdhN d a off s
  | .ldwN d a off => Sys2Proof.Machine.execLdwN d a off s
  | .ldaq d a n sz sc => Sys2Proof.Machine.execLdaq d a n sz sc s
  | .stb d a off => Sys2Proof.Machine.execStb d a off s
  | .sth d a off => Sys2Proof.Machine.execSth d a off s
  | .stw d a off => Sys2Proof.Machine.execStw d a off s
  | .std d a off => Sys2Proof.Machine.execStd d a off s
  | .strel d a sz sc => Sys2Proof.Machine.execStrel d a sz sc s
  | .amoadd d a b o sc sz => Sys2Proof.Machine.execAmoadd d a b o sc sz s
  | .amoand d a b o sc sz => Sys2Proof.Machine.execAmoand d a b o sc sz s
  | .amoor d a b o sc sz => Sys2Proof.Machine.execAmoor d a b o sc sz s
  | .amoxor d a b o sc sz => Sys2Proof.Machine.execAmoxor d a b o sc sz s
  | .amomin d a b o sc sz n => Sys2Proof.Machine.execAmomin d a b o sc sz n s
  | .amomax d a b o sc sz n => Sys2Proof.Machine.execAmomax d a b o sc sz n s
  | .amoswp d a b o sc sz => Sys2Proof.Machine.execAmoswp d a b o sc sz s
  | .amocas d a b o sc sz => Sys2Proof.Machine.execAmocas d a b o sc sz s
  | .beq a b off => Sys2Proof.Machine.execBeq a b off s
  | .bne a b off => Sys2Proof.Machine.execBne a b off s
  | .blt a b off => Sys2Proof.Machine.execBlt a b off s
  | .bge a b off => Sys2Proof.Machine.execBge a b off s
  | .bltn a b off => Sys2Proof.Machine.execBltn a b off s
  | .bgen a b off => Sys2Proof.Machine.execBgen a b off s
  | .jal d imm => Sys2Proof.Machine.execJal d imm s
  | .jalr d a imm => Sys2Proof.Machine.execJalr d a imm s
  | .fadd d a b f => Sys2Proof.Machine.execFadd d a b f s
  | .fsub d a b f => Sys2Proof.Machine.execFsub d a b f s
  | .fmul d a b f => Sys2Proof.Machine.execFmul d a b f s
  | .fdiv d a b f => Sys2Proof.Machine.execFdiv d a b f s
  | .fsqrt d a f => Sys2Proof.Machine.execFsqrt d a f s
  | .fmin d a b f => Sys2Proof.Machine.execFmin d a b f s
  | .fmax d a b f => Sys2Proof.Machine.execFmax d a b f s
  | .fcmp d a b f c => Sys2Proof.Machine.execFcmp d a b f c s
  | .fcvtToFloat d a f src => Sys2Proof.Machine.execFcvtToFloat d a f src s
  | .fcvtToInteger d a f dst => Sys2Proof.Machine.execFcvtToInteger d a f dst s
  | .fclass d a f => Sys2Proof.Machine.execFclass d a f s
  | .fma d a b c f => Sys2Proof.Machine.execFma d a b c f s
  | .crr d n => Sys2Proof.Machine.execCrr d n s
  | .crw d a n => Sys2Proof.Machine.execCrw d a n s
  | .crs d a n => Sys2Proof.Machine.execCrs d a n s
  | .crc d a n => Sys2Proof.Machine.execCrc d a n s
  | .ecall => Sys2Proof.Machine.execEcall s
  | .ebrk => Sys2Proof.Machine.execEbrk s
  | .trapret => Sys2Proof.Machine.execTrapret s
  | .uret => Sys2Proof.Machine.execUret s
  | .wfe => Sys2Proof.Machine.execWfe s
  | .halt => Sys2Proof.Machine.execHalt s
  | .tlbinv d a => Sys2Proof.Machine.execTlbinv d a s
  | .cinv d a => Sys2Proof.Machine.execCinv d a s
  | .fence o sc => Sys2Proof.Machine.execFence o sc s
  | .safept id => Sys2Proof.Machine.execSafept id s
  | .setvl d a b => Sys2Proof.Machine.execSetvl d a b s
  | .setvli d a fmt grp sc => Sys2Proof.Machine.execSetvli d a fmt grp sc s
  | .lpreq d a => Sys2Proof.Machine.execLpreq d a s
  | .vadd d a b k => Sys2Proof.Machine.execVadd d a b k s
  | .vsub d a b k => Sys2Proof.Machine.execVsub d a b k s
  | .vmul d a b k => Sys2Proof.Machine.execVmul d a b k s
  | .vmulh d a b k => Sys2Proof.Machine.execVmulh d a b k s
  | .vmadd d a b k => Sys2Proof.Machine.execVmadd d a b k s
  | .vand d a b k => Sys2Proof.Machine.execVand d a b k s
  | .vor d a b k => Sys2Proof.Machine.execVor d a b k s
  | .vxor d a b k => Sys2Proof.Machine.execVxor d a b k s
  | .vsll d a b k => Sys2Proof.Machine.execVsll d a b k s
  | .vsrl d a b k => Sys2Proof.Machine.execVsrl d a b k s
  | .vsra d a b k => Sys2Proof.Machine.execVsra d a b k s
  | .vmin d a b k => Sys2Proof.Machine.execVmin d a b k s
  | .vmax d a b k => Sys2Proof.Machine.execVmax d a b k s
  | .vminn d a b k => Sys2Proof.Machine.execVminn d a b k s
  | .vmaxn d a b k => Sys2Proof.Machine.execVmaxn d a b k s
  | .vsadd d a b k => Sys2Proof.Machine.execVsadd d a b k s
  | .vssub d a b k => Sys2Proof.Machine.execVssub d a b k s
  | .vcmpEq d a b k => Sys2Proof.Machine.execVcmpEq d a b k s
  | .vcmpNe d a b k => Sys2Proof.Machine.execVcmpNe d a b k s
  | .vcmpLt d a b k => Sys2Proof.Machine.execVcmpLt d a b k s
  | .vcmpGe d a b k => Sys2Proof.Machine.execVcmpGe d a b k s
  | .vcmpLtn d a b k => Sys2Proof.Machine.execVcmpLtn d a b k s
  | .vcmpGen d a b k => Sys2Proof.Machine.execVcmpGen d a b k s
  | .vmerge d a b k => Sys2Proof.Machine.execVmerge d a b k s
  | .vmv d b k => Sys2Proof.Machine.execVmv d b k s
  | .vfadd d a b k => Sys2Proof.Machine.execVfadd d a b k s
  | .vfsub d a b k => Sys2Proof.Machine.execVfsub d a b k s
  | .vfmul d a b k => Sys2Proof.Machine.execVfmul d a b k s
  | .vfdiv d a b k => Sys2Proof.Machine.execVfdiv d a b k s
  | .vfsqrt d b k => Sys2Proof.Machine.execVfsqrt d b k s
  | .vfmin d a b k => Sys2Proof.Machine.execVfmin d a b k s
  | .vfmax d a b k => Sys2Proof.Machine.execVfmax d a b k s
  | .vfcmpEq d a b k => Sys2Proof.Machine.execVfcmpEq d a b k s
  | .vfcmpNe d a b k => Sys2Proof.Machine.execVfcmpNe d a b k s
  | .vfcmpLt d a b k => Sys2Proof.Machine.execVfcmpLt d a b k s
  | .vfcmpLe d a b k => Sys2Proof.Machine.execVfcmpLe d a b k s
  | .vfexp2 d b k => Sys2Proof.Machine.execVfexp2 d b k s
  | .vfrcp d b k => Sys2Proof.Machine.execVfrcp d b k s
  | .vfrsq d b k => Sys2Proof.Machine.execVfrsq d b k s
  | .vfma d a b k => Sys2Proof.Machine.execVfma d a b k s
  | .vfnma d a b k => Sys2Proof.Machine.execVfnma d a b k s
  | .vfcvt d src b k => Sys2Proof.Machine.execVfcvt d src b k s
  | .kand d a b => Sys2Proof.Machine.execKand d a b s
  | .kor d a b => Sys2Proof.Machine.execKor d a b s
  | .kxor d a b => Sys2Proof.Machine.execKxor d a b s
  | .knot d b => Sys2Proof.Machine.execKnot d b s
  | .kpopc d a b => Sys2Proof.Machine.execKpopc d a b s
  | .kfirst d a b => Sys2Proof.Machine.execKfirst d a b s
  | .kmov d b => Sys2Proof.Machine.execKmov d b s
  | .vredsum d a b k => Sys2Proof.Machine.execVredsum d a b k s
  | .vredmax d a b k => Sys2Proof.Machine.execVredmax d a b k s
  | .vredmin d a b k => Sys2Proof.Machine.execVredmin d a b k s
  | .vfredsum d a b k => Sys2Proof.Machine.execVfredsum d a b k s
  | .vfredo d a b k => Sys2Proof.Machine.execVfredo d a b k s
  | .vslideup d a b k => Sys2Proof.Machine.execVslideup d a b k s
  | .vslidedn d a b k => Sys2Proof.Machine.execVslidedn d a b k s
  | .vperm d a b k => Sys2Proof.Machine.execVperm d a b k s
  | .vcompress d b k => Sys2Proof.Machine.execVcompress d b k s
  | .vexpand d b k => Sys2Proof.Machine.execVexpand d b k s
  | .viota d b k => Sys2Proof.Machine.execViota d b k s
  | .vbcast d b k => Sys2Proof.Machine.execVbcast d b k s
  | .vextr d a b => Sys2Proof.Machine.execVextr d a b s
  | .vins d a b k => Sys2Proof.Machine.execVins d a b k s
  | .vld d a off k => Sys2Proof.Machine.execVld d a off k s
  | .vldSc d a off k => Sys2Proof.Machine.execVldSc d a off k s
  | .vlds d a b k => Sys2Proof.Machine.execVlds d a b k s
  | .vldx d a b k => Sys2Proof.Machine.execVldx d a b k s
  | .vst d a off k => Sys2Proof.Machine.execVst d a off k s
  | .vstSc d a off k => Sys2Proof.Machine.execVstSc d a off k s
  | .vsts d a b k => Sys2Proof.Machine.execVsts d a b k s
  | .vstx d a b k => Sys2Proof.Machine.execVstx d a b k s
  | .vldq q a off k => Sys2Proof.Machine.execVldq q a off k s
  | .vldqStrided q a b k => Sys2Proof.Machine.execVldqStrided q a b k s
  | .vldqIndexed q a b k => Sys2Proof.Machine.execVldqIndexed q a b k s
  | .vamoadd d a b k => Sys2Proof.Machine.execVamoadd d a b k s
  | .vamoand d a b k => Sys2Proof.Machine.execVamoand d a b k s
  | .vamoor d a b k => Sys2Proof.Machine.execVamoor d a b k s
  | .vamoxor d a b k => Sys2Proof.Machine.execVamoxor d a b k s
  | .vamomin d a b k => Sys2Proof.Machine.execVamomin d a b k s
  | .vamomax d a b k => Sys2Proof.Machine.execVamomax d a b k s
  | .vamoswp d a b k => Sys2Proof.Machine.execVamoswp d a b k s
  | .vpostadd a b k => Sys2Proof.Machine.execVpostadd a b k s
  | .vpostand a b k => Sys2Proof.Machine.execVpostand a b k s
  | .vpostor a b k => Sys2Proof.Machine.execVpostor a b k s
  | .vpostxor a b k => Sys2Proof.Machine.execVpostxor a b k s
  | .vpostmin a b k => Sys2Proof.Machine.execVpostmin a b k s
  | .vpostmax a b k => Sys2Proof.Machine.execVpostmax a b k s
  | .vpostswp a b k => Sys2Proof.Machine.execVpostswp a b k s
  | .vcapp a k => Sys2Proof.Machine.execVcapp a k s
  | .vldz d a p k off => Sys2Proof.Machine.execVldz d a p k off s
  | .vstz d a p k off => Sys2Proof.Machine.execVstz d a p k off s
  | .vcopy d a k => Sys2Proof.Machine.execVcopy d a k s
  | .vfill d p k => Sys2Proof.Machine.execVfill d p k s
  | .vldsImmediate d a k stride => Sys2Proof.Machine.execVldsImmediate d a k stride s
  | .vstsImmediate d a k stride => Sys2Proof.Machine.execVstsImmediate d a k stride s
  | .mcfg tiles fmt sc int32 m n => Sys2Proof.Machine.execMcfg tiles fmt sc int32 m n s
  | .mma c a b => Sys2Proof.Machine.execMma c a b s
  | .mzero c => Sys2Proof.Machine.execMzero c s
  | .mrel c => Sys2Proof.Machine.execMrel c s
  | .mdrain c a p row rows k => Sys2Proof.Machine.execMdrain c a p row rows k s
  | .mdrainx c a p row rows k => Sys2Proof.Machine.execMdrainx c a p row rows k s
  | .mldacc c a p row rows => Sys2Proof.Machine.execMldacc c a p row rows s
  | .rld d a p sz st off => Sys2Proof.Machine.execRld d a p sz st off s
  | .rst c a p sz st off => Sys2Proof.Machine.execRst c a p sz st off s
  | .ramoadd d c a p sz st off => Sys2Proof.Machine.execRamoadd d c a p sz st off s
  | .ramoand d c a p sz st off => Sys2Proof.Machine.execRamoand d c a p sz st off s
  | .ramoor d c a p sz st off => Sys2Proof.Machine.execRamoor d c a p sz st off s
  | .ramoxor d c a p sz st off => Sys2Proof.Machine.execRamoxor d c a p sz st off s
  | .ramomin d c a p sz st off => Sys2Proof.Machine.execRamomin d c a p sz st off s
  | .ramomax d c a p sz st off => Sys2Proof.Machine.execRamomax d c a p sz st off s
  | .ramoswp d c a p sz st off => Sys2Proof.Machine.execRamoswp d c a p sz st off s
  | .ramocas d c a p sz st off => Sys2Proof.Machine.execRamocas d c a p sz st off s
  | .rfence => Sys2Proof.Machine.execRfence s
  | .rldx d a p k st => Sys2Proof.Machine.execRldx d a p k st s
  | .rstx d a p k st => Sys2Proof.Machine.execRstx d a p k st s
  | .rapp d a p k st => Sys2Proof.Machine.execRapp d a p k st s
  | .rbatch => Sys2Proof.Machine.execRbatch s
  | .rwait n => Sys2Proof.Machine.execRwait n s
  | .barrive a => Sys2Proof.Machine.execBarrive a s
  | .bwait d a => Sys2Proof.Machine.execBwait d a s
  | .trigger => Sys2Proof.Machine.execTrigger s
  | .nexts => Sys2Proof.Machine.execNexts s
  | .launch d a q => Sys2Proof.Machine.execLaunch d a q s
  | .crec d a => Sys2Proof.Machine.execCrec d a s
  | .fswap a => Sys2Proof.Machine.execFswap a s
  | .fdrain a => Sys2Proof.Machine.execFdrain a s
  | .fstat d => Sys2Proof.Machine.execFstat d s
  | .fpush a b => Sys2Proof.Machine.execFpush a b s
  | .fpop d a => Sys2Proof.Machine.execFpop d a s
  | .fload a off => Sys2Proof.Machine.execFload a off s
  | .sopen d a e wr pol => Sys2Proof.Machine.execSopen d a e wr pol s
  | .sbind d e t => Sys2Proof.Machine.execSbind d e t s
  | .sclose d e => Sys2Proof.Machine.execSclose d e s
  | .sstat d e => Sys2Proof.Machine.execSstat d e s
  | .wdrive a off => Sys2Proof.Machine.execWdrive a off s
  | .wbMma hdr => Sys2Proof.Machine.execWbMma hdr s
  | .wbAdd hdr => Sys2Proof.Machine.execWbAdd hdr s
  | .wbScale hdr => Sys2Proof.Machine.execWbScale hdr s
  | .wbAct hdr => Sys2Proof.Machine.execWbAct hdr s
  | .wbDrain hdr => Sys2Proof.Machine.execWbDrain hdr s
  | .wbBranch hdr => Sys2Proof.Machine.execWbBranch hdr s
  | .wbCall hdr => Sys2Proof.Machine.execWbCall hdr s
  | .wbRet hdr => Sys2Proof.Machine.execWbRet hdr s
  | .wbSync hdr => Sys2Proof.Machine.execWbSync hdr s
  | .wbNop hdr => Sys2Proof.Machine.execWbNop hdr s
  | .wbExit hdr => Sys2Proof.Machine.execWbExit hdr s
  | .weightBlockPost => Sys2Proof.Machine.execWeightBlockPost s
  | .interruptEntry => Sys2Proof.Machine.execInterruptEntry s
  | .userLevelInterrupt => Sys2Proof.Machine.execUserLevelInterrupt s
  | .scountZero => Sys2Proof.Machine.execScountZero s
  | .safePointDistanceFault => Sys2Proof.Machine.execSafePointDistanceFault s
  | .wfeTimeLimit => Sys2Proof.Machine.execWfeTimeLimit s
  | .ctxidWrite => Sys2Proof.Machine.execCtxidWrite s
  | .vlWrite => Sys2Proof.Machine.execVlWrite s
  | .vtypeWrite => Sys2Proof.Machine.execVtypeWrite s
  | .vlpWrite => Sys2Proof.Machine.execVlpWrite s
  | .fflagsWrite => Sys2Proof.Machine.execFflagsWrite s
  | .vesWrite => Sys2Proof.Machine.execVesWrite s
  | .validityFieldWrite => Sys2Proof.Machine.execValidityFieldWrite s
  | .registerWrite => Sys2Proof.Machine.execRegisterWrite s
  | .pinfo => Sys2Proof.Machine.execPinfo s
  | .logread => Sys2Proof.Machine.execLogread s
  | .peerreg => Sys2Proof.Machine.execPeerreg s
  | .fabesc => Sys2Proof.Machine.execFabesc s
  | .attest => Sys2Proof.Machine.execAttest s
  | .qpopen => Sys2Proof.Machine.execQpopen s
  | .qpclose => Sys2Proof.Machine.execQpclose s
  | .workQueueDoorbell => Sys2Proof.Machine.execWorkQueueDoorbell s
  | .packetTake => Sys2Proof.Machine.execPacketTake s
  | .hartPlacement => Sys2Proof.Machine.execHartPlacement s
  | .farmCompletion => Sys2Proof.Machine.execFarmCompletion s
  | .killNotice => Sys2Proof.Machine.execKillNotice s
  | .killAcknowledgement => Sys2Proof.Machine.execKillAcknowledgement s
  | .killAcknowledgementTimeout => Sys2Proof.Machine.execKillAcknowledgementTimeout s
  | .fillRequest => Sys2Proof.Machine.execFillRequest s
  | .writeRequest => Sys2Proof.Machine.execWriteRequest s
  | .evictionNotice => Sys2Proof.Machine.execEvictionNotice s
  | .invalidation => Sys2Proof.Machine.execInvalidation s
  | .invalidationAcknowledgement => Sys2Proof.Machine.execInvalidationAcknowledgement s
  | .fillResponse => Sys2Proof.Machine.execFillResponse s
  | .writeAcknowledgement => Sys2Proof.Machine.execWriteAcknowledgement s
  | .holdAcknowledgement => Sys2Proof.Machine.execHoldAcknowledgement s
  | .requestRefusal => Sys2Proof.Machine.execRequestRefusal s
  | .retryBackoffExpiry => Sys2Proof.Machine.execRetryBackoffExpiry s
  | .hostRequest => Sys2Proof.Machine.execHostRequest s
  | .backInvalidateResponse => Sys2Proof.Machine.execBackInvalidateResponse s
  | .hostSnoop => Sys2Proof.Machine.execHostSnoop s
  | .writeCombineFlush => Sys2Proof.Machine.execWriteCombineFlush s
  | .reservationRegistration => Sys2Proof.Machine.execReservationRegistration s
  | .cutNotice => Sys2Proof.Machine.execCutNotice s
  | .reservationFree => Sys2Proof.Machine.execReservationFree s
  | .subBatchArrival => Sys2Proof.Machine.execSubBatchArrival s
  | .remoteReply => Sys2Proof.Machine.execRemoteReply s
  | .batchCompletion => Sys2Proof.Machine.execBatchCompletion s
  | .barrierArrival => Sys2Proof.Machine.execBarrierArrival s
  | .streamReadElement => Sys2Proof.Machine.execStreamReadElement s
  | .streamWriteElement => Sys2Proof.Machine.execStreamWriteElement s
  | .peFire => Sys2Proof.Machine.execPeFire s
  | .tokenTransfer => Sys2Proof.Machine.execTokenTransfer s
  | .fabricFaultDelivery => Sys2Proof.Machine.execFabricFaultDelivery s
  | .peQuiescence => Sys2Proof.Machine.execPeQuiescence s
  | .regionDrained => Sys2Proof.Machine.execRegionDrained s
  | .stagingComplete => Sys2Proof.Machine.execStagingComplete s
  | .swapComplete => Sys2Proof.Machine.execSwapComplete s
  | .clusterRetirement => Sys2Proof.Machine.execClusterRetirement s
  | .guardBandRaise => Sys2Proof.Machine.execGuardBandRaise s
  | .tileDeconfiguration => Sys2Proof.Machine.execTileDeconfiguration s
  | .thermalStop => Sys2Proof.Machine.execThermalStop s
  | .healthMonitorSample => Sys2Proof.Machine.execHealthMonitorSample s
  | .healthMonitorClear => Sys2Proof.Machine.execHealthMonitorClear s
  | .powerOn => Sys2Proof.Machine.execPowerOn s
  | .sendQueueDoorbell => Sys2Proof.Machine.execSendQueueDoorbell s
  | .receiveQueueDoorbell => Sys2Proof.Machine.execReceiveQueueDoorbell s
  | .completionQueueDoorbell => Sys2Proof.Machine.execCompletionQueueDoorbell s
  | .send => Sys2Proof.Machine.execSend s
  | .sendWithImmediate => Sys2Proof.Machine.execSendWithImmediate s
  | .rdmaWrite => Sys2Proof.Machine.execRdmaWrite s
  | .rdmaWriteWithImmediate => Sys2Proof.Machine.execRdmaWriteWithImmediate s
  | .rdmaRead => Sys2Proof.Machine.execRdmaRead s
  | .incomingSend => Sys2Proof.Machine.execIncomingSend s
  | .incomingRdmaWrite => Sys2Proof.Machine.execIncomingRdmaWrite s
  | .incomingRdmaRead => Sys2Proof.Machine.execIncomingRdmaRead s
  | .ack => Sys2Proof.Machine.execAck s
  | .sequenceErrorNak => Sys2Proof.Machine.execSequenceErrorNak s
  | .receiverNotReadyNak => Sys2Proof.Machine.execReceiverNotReadyNak s
  | .remoteAccessNak => Sys2Proof.Machine.execRemoteAccessNak s
  | .ackTimeout => Sys2Proof.Machine.execAckTimeout s
  | .rnrWaitExpiry => Sys2Proof.Machine.execRnrWaitExpiry s
  | .congestionNotificationPacket => Sys2Proof.Machine.execCongestionNotificationPacket s
  | .ceMarkedPacket => Sys2Proof.Machine.execCeMarkedPacket s
  | .rateRecovery => Sys2Proof.Machine.execRateRecovery s
  | .priorityFlowControl => Sys2Proof.Machine.execPriorityFlowControl s
  | .vectorInstructionRetirement => Sys2Proof.Machine.execVectorInstructionRetirement s
  | .peerUnreachable => Sys2Proof.Machine.execPeerUnreachable s
  | .powerLoss => Sys2Proof.Machine.execPowerLoss s
  | .rdmaReadResponse => Sys2Proof.Machine.execRdmaReadResponse s
  | .remoteOperationNak => Sys2Proof.Machine.execRemoteOperationNak s
  | .hostLinkTraining => Sys2Proof.Machine.execHostLinkTraining s
  | .cxlCacheResponse => Sys2Proof.Machine.execCxlCacheResponse s

end Sys2Proof.Machine
end

