-- ==== Sys2Proof/Machine/Step.lean ====
section
/-! DEFINITION. One step of the machine: the move at the head of the agenda, or the turn of the current hart (log 7). -/

namespace Sys2Proof.Machine

/-- The turn of the current hart, and what follows it (log 7). -/
def runTurn (s : State) : Out :=
  match turn s with
  | .stay t => .next (closeTurn s none t)
  | .run i t =>
    match exec i t with
    | .next u => .next (closeTurn s (some i) (settle i t u))
    | .fault f => .fault f
    | .refused r => .refused r

/-- The reservation under which the event at the head of the agenda was held, where its homes free that one now (18 R369; log 56). -/
def heldUnder (s : State) : Option Resv := s.resvs.find? fun r => fromHold { s with events := s.events.drop 1 } r

/-- An event that waits at a home (log 70): one that a home holds is put into the hold buffer, unless that is full; one that was held, and
waits at its home for a copy or another request, stays the first held under its reservation, which is freed later; any other is
parked (log 56). -/
def parkAt (s : State) (e : Event) (l : List Await) : State :=
  let rest := { s with events := s.events.drop 1 }
  match l.find? fun a => a.held.isSome, heldUnder s with
  | some a, _ =>
    (match a.held with
     | some (t, f, write) =>
       if s.held.any fun h => h.event == some e then rest
       else if holdFull s a.line then { rest with waiting := s.waiting ++ [e] }
       else { rest with held := s.held ++ [heldEvent t f a.line write e] }
     | none => rest)
  | none, some r =>
    { rest with events := rest.events.drop 1, waiting := .reservationFree r.tile r.e :: s.waiting
                held := heldEvent r.tile r.e ((l.head?.map fun a => a.line).getD 0) (l.any fun a => !a.out.isEmpty) e :: s.held }
  | none, none => { rest with waiting := s.waiting ++ [e] }

/-- An event that waits at a home is kept for later, and the homes that it met go on (log 70). -/
def park (s : State) (e : Event) (l : List Await) : State := askHomes (parkAt s e l) l

/-- Whether an event comes behind one that is parked, or held at a home, unless it is the first of those held (10 R230, 18 R369; log 70). -/
def comesBehind (s : State) (e : Event) : Bool :=
  (heldUnder s).isNone &&
  ((s.waiting.any fun w => followsIn s e w) || s.held.any fun h => match h.event with
    | some w => w != e && followsIn s e w
    | none => false)

/-- The event at the head of the agenda: it happens, or waits at a home, or waits behind one that does (log 7, 70). -/
def runMove (e : Event) (s : State) : Out :=
  if comesBehind s e then .next (park s e [])
  else match exec e.row s with
    | .next u => .next (if u.await.isEmpty then noteCounts u else park s e u.await)
    | o => o

/-- An error of the hardware at the head of the agenda; one that meets a home where it must wait comes later (log 31, 70). -/
def runUpset (u : Upset) (s : State) : State :=
  let rest := { s with events := s.events.drop 1 }
  let t := applyUpset u rest
  if t.await.isEmpty then t else askHomes { rest with events := rest.events ++ [.upset u] } t.await

/-- The management core changes the ranges of a partition, to at most 64 that are aligned to 32 MiB: it invalidates the translations
first, and waits for the vector instructions whose accesses were given theirs (16 R335; log 42). -/
def changeRanges (part : Nat) (rs : List PRange) (s : State) : State :=
  let s := { s with events := s.events.drop 1, tlb := [] }
  if !rangesFit rs then s
  else if (listedHarts s).any fun i => partNum s i.tile == part && !((getHart s i).vq.all fun x => x.pages.isEmpty) then
    schedule { s with events := s.events ++ [.ranges part rs] }
      (((listedHarts s).filter fun i => partNum s i.tile == part && !(getHart s i).vq.isEmpty).map fun i => .vectorInstructionRetirement i)
  else { s with parts := s.parts.map fun p => if p.num == part then { p with ranges := rs } else p }

/-- One step. Without power only POWER_ON can happen (21 R409; log 2, 7). -/
def step (s : State) : Host.Outcome State Fault Refusal :=
  match s.events with
  | .event e :: _ => if s.power || e == .powerOn then runMove e s else .fault .noPower
  | .upset u :: _ => if s.power then .next (runUpset u s) else .fault .noPower
  | .bringUp :: rest => if s.power then .next (bringUp { s with events := rest }) else .fault .noPower
  | .ranges p rs :: _ => if s.power then .next (changeRanges p rs s) else .fault .noPower
  | .turn h :: rest => if s.power then runTurn { s with events := rest, cur := h } else .fault .noPower
  | [] => if s.power then runTurn s else .fault .noPower

/-- The state with an instruction of nbits bits stored at the program counter of the current hart, and zeros after it up to two
words; nothing waits on the agenda (log 2). -/
def State.withFetchWord (s : State) (nbits w : Nat) : State :=
  match translate s (hartSpace s s.cur) .fetch s.hart.pc with
  | .ok pa _ _ => { s with events := [], mem := memPut s.mem (cellsOf 8 pa (w % 2 ^ nbits)) }
  | .trap _ => s

end Sys2Proof.Machine
end

