-- ==== Sys2Proof/Laws/PerInstr.lean ====
section
/-! SUPPORT. The family RoundTrip of statements made per instruction: the decoder reads the words of the encoder back (05 R103
to R116). One lemma per constructor; blocks and events have no words. -/

namespace Sys2Proof.Laws

/-- The words of a well-formed instruction decode to it, with every operand (05 R103 to R116). Word 0 is no instruction: blocks
and events, which have no words, encode as it. -/
def RoundTrip.Statement (i : Instr) : Prop :=
  (encode i).1 ≠ 0 → i.wellFormed = true → decode (encode i).1 (encode i).2 = .instr i

theorem ofNat_eq {n : Nat} (x : Nat) (d : BitVec n) (h : x % 2 ^ n = d.toNat) : BitVec.ofNat n x = d := BitVec.eq_of_toNat_eq (by simpa using h)

theorem ofNat_zero {n : Nat} (x : Nat) (h : x % 2 ^ n = 0) : BitVec.ofNat n x = 0 := BitVec.eq_of_toNat_eq (by simpa using h)

theorem decode_short (w : Nat) (h : w % 2 = 0) : decode w 0 = decodeShort w := by simp [decode, isLong, h]

theorem decode_long (w0 w1 : Nat) (h : w0 % 2 = 1) : decode w0 w1 = decodeLong w0 w1 := by simp [decode, isLong, h]

theorem bit_lt (b : Bool) : bit b < 2 := by cases b <;> decide

theorem bit_one (b : Bool) : (bit b = 1) = (b = true) := by cases b <;> simp [bit]

theorem Size.code_lt (x : Size) : x.code < 4 := by cases x <;> decide

theorem Size.of_code (x : Size) : sizeOf x.code = some x := by cases x <;> rfl

theorem Scope.code_lt (x : Scope) : x.code < 5 := by cases x <;> decide

theorem Scope.of_code (x : Scope) : scopeOf x.code = some x := by cases x <;> rfl

theorem MemOrd.code_lt (x : MemOrd) : x.code < 4 := by cases x <;> decide

theorem MemOrd.of_code (x : MemOrd) : memOrdOf x.code = some x := by cases x <;> rfl

theorem WSize.code_lt (x : WSize) : x.code < 2 := by cases x <;> decide

theorem WSize.of_code (x : WSize) : wSizeOf x.code = some x := by cases x <;> rfl

theorem FFmt.code_lt (x : FFmt) : x.code < 4 := by cases x <;> decide

theorem FFmt.of_code (x : FFmt) : fFmtOf x.code = some x := by cases x <;> rfl

theorem FCmpCond.code_lt (x : FCmpCond) : x.code < 4 := by cases x <;> decide

theorem FCmpCond.of_code (x : FCmpCond) : fCmpCondOf x.code = some x := by cases x <;> rfl

theorem CvtSrc.code_lt (x : CvtSrc) : x.code < 8 := by rcases x with x | x <;> cases x <;> decide

theorem CvtSrc.of_code (x : CvtSrc) : cvtSrcOf x.code = some x := by rcases x with x | x <;> cases x <;> rfl

theorem IntTy.code_lt (x : IntTy) : x.code < 4 := by cases x <;> decide

theorem IntTy.of_code (x : IntTy) : intTyOf x.code = some x := by cases x <;> rfl

theorem ElemTy.code_lt (x : ElemTy) : x.code < 16 := by cases x <;> decide

theorem ElemTy.of_code (x : ElemTy) : elemTyOf x.code = some x := by cases x <;> rfl

theorem Policy.code_lt (x : Policy) : x.code < 3 := by cases x <;> decide

theorem Policy.of_code (x : Policy) : policyOf x.code = some x := by cases x <;> rfl

theorem withVal_some {α : Type} (a : α) (k : α → Decoded) : withVal (some a) k = k a := by
  have h : ∀ o, o = some a → withVal o k = k a := by intro o h; subst h; rfl
  exact h _ rfl

theorem need_true (r : Reject) (k : Decoded) : need true r k = k := by
  have h : ∀ b, b = true → need b r k = k := by intro b h; subst h; rfl
  exact h _ rfl

theorem need_false (r : Reject) (k : Decoded) : need false r k = .reserved r := by
  have h : ∀ b, b = false → need b r k = .reserved r := by intro b h; subst h; rfl
  exact h _ rfl

theorem Src.code_eq (b : Src) : ∃ s r, b.code = s * 2 ^ 25 + r * 2 ^ 17 ∧ s < 4 ∧ r < 32 ∧
    ∀ w, fld w 25 2 = s → w / 2 ^ 17 % 32 = r → srcOf w = some b := by
  rcases b with b | b | b | b
  · exact ⟨0, b.toNat, by simp [Src.code], by decide, b.isLt, fun w h1 h2 => by
      simp [srcOf, h1, show fldB w = b from ofNat_eq _ _ h2]⟩
  · exact ⟨1, b.toNat, by simp [Src.code], by decide, b.isLt, fun w h1 h2 => by
      simp [srcOf, h1, show fldB w = b from ofNat_eq _ _ h2]⟩
  · have hb := b.isLt
    exact ⟨2, b.toNat, by simp [Src.code], by decide, by omega, fun w h1 h2 => by
      have h3 : fld w 19 3 = 0 := by unfold fld; omega
      simp [srcOf, h1, h3, show BitVec.ofNat 2 (w / 131072) = b from ofNat_eq _ _ (by omega)]⟩
  · exact ⟨3, b.toNat, by simp [Src.code], by decide, b.isLt, fun w h1 h2 => by
      simp [srcOf, h1, show fldB w = b from ofNat_eq _ _ h2]⟩

theorem Src.isVec_code (b : Src) (h : b.isVec = true) : b.code / 2 ^ 25 % 2 = 0 := by
  rcases b with b | b | b | b
  · have := b.isLt; simp only [Src.code]; omega
  · exact absurd h Bool.false_ne_true
  · have := b.isLt; simp only [Src.code]; omega
  · exact absurd h Bool.false_ne_true

theorem Src.isIndex_code (b : Src) (h : b.isIndex = true) :
    b.code / 2 ^ 25 % 2 = 1 ∧ (b.code / 2 ^ 26 % 2 = 0 ∨ b.code / 2 ^ 21 % 2 = 0) := by
  rcases b with b | b | b | b
  · exact absurd h Bool.false_ne_true
  · have := b.isLt; simp only [Src.code]; omega
  · exact absurd h Bool.false_ne_true
  · have h2 : b.msb = false := by simpa [Src.isIndex] using h
    have := b.isLt
    have h3 : b.toNat < 16 := by simpa [BitVec.msb_eq_false_iff_two_mul_lt] using (by have := BitVec.msb_eq_false_iff_two_mul_lt.mp h2; omega : b.toNat < 16)
    simp only [Src.code]; omega

theorem VAddr.code_eq (b : VAddr) : ∃ s r, b.code = s * 2 ^ 25 + r * 2 ^ 17 ∧ s < 4 ∧ r < 32 ∧
    ∀ w, fld w 25 2 = s → w / 2 ^ 17 % 32 = r → vAddrOf w = some b := by
  rcases b with b | b | b
  · exact ⟨3, b.toNat, by simp [VAddr.code], by decide, b.isLt, fun w h1 h2 => by
      simp [vAddrOf, h1, show fldB w = b from ofNat_eq _ _ h2]⟩
  · exact ⟨1, b.toNat, by simp [VAddr.code], by decide, b.isLt, fun w h1 h2 => by
      simp [vAddrOf, h1, show fldB w = b from ofNat_eq _ _ h2]⟩
  · exact ⟨0, b.toNat, by simp [VAddr.code], by decide, b.isLt, fun w h1 h2 => by
      simp [vAddrOf, h1, show fldB w = b from ofNat_eq _ _ h2]⟩

theorem encStatus_eq (s : Status) : ∃ t r, encStatus s = t * 2 ^ 31 + r * 2 ^ 23 ∧ t < 2 ∧ r < 32 ∧ statusOf t r = some s := by
  rcases s with _ | r
  · exact ⟨0, 0, by simp [encStatus], by decide, by decide, by simp [statusOf]⟩
  · exact ⟨1, r.toNat, by simp [encStatus], by decide, r.isLt, by simp [statusOf]⟩

theorem encKStatus_eq (s : KStatus) : ∃ t r, encKStatus s = t * 2 ^ 31 + r * 2 ^ 22 ∧ t < 2 ∧ r < 8 ∧ kStatusOf t r = some s := by
  rcases s with _ | r
  · exact ⟨0, 0, by simp [encKStatus], by decide, by decide, by simp [kStatusOf]⟩
  · exact ⟨1, r.toNat, by simp [encKStatus], by decide, r.isLt, by simp [kStatusOf]⟩

theorem Src.notImm_code (b : Src) (h : (match b with | .imm _ => false | _ => true) = true) : ¬ b.code / 2 ^ 25 = 3 := by
  rcases b with b | b | b | b
  · have := b.isLt; simp only [Src.code]; omega
  · have := b.isLt; simp only [Src.code]; omega
  · have := b.isLt; simp only [Src.code]; omega
  · exact absurd h Bool.false_ne_true

theorem Src.notQueue_code (b : Src) (h : (match b with | .q _ => false | _ => true) = true) : ¬ b.code / 2 ^ 25 = 2 := by
  rcases b with b | b | b | b
  · have := b.isLt; simp only [Src.code]; omega
  · have := b.isLt; simp only [Src.code]; omega
  · exact absurd h Bool.false_ne_true
  · have := b.isLt; simp only [Src.code]; omega

theorem ofNat_self {n : Nat} (x : BitVec n) : BitVec.ofNat n x.toNat = x := by simp

theorem fld_sub {w lo n x : Nat} (h : fld w lo n = x) (i k : Nat) (hk : i + k ≤ n) : fld w (lo + i) k = fld x i k := by
  subst h
  unfold fld
  have h1 : 2 ^ n = 2 ^ i * 2 ^ (n - i) := by rw [← Nat.pow_add]; congr 1; omega
  rw [Nat.pow_add, ← Nat.div_div_eq_div_mul, h1, Nat.mod_mul_right_div_self, Nat.mod_mod_of_dvd]
  exact Nat.pow_dvd_pow 2 (by omega)

theorem ofNat_fld {w lo n x : Nat} (h : fld w lo n = x) : BitVec.ofNat n (w / 2 ^ lo) = BitVec.ofNat n x := by
  apply BitVec.eq_of_toNat_eq
  have h2 : w / 2 ^ lo % 2 ^ n = x := h
  have h3 : x % 2 ^ n = x := by rw [← h2, Nat.mod_mod]
  simp [h2, h3]

theorem fields_F3 {fn b a d m w : Nat} (hw : encF3 fn b a d m = w) (h1 : fn < 2 ^ 10) (h2 : b < 2 ^ 5) (h3 : a < 2 ^ 5)
    (h4 : d < 2 ^ 5) (h5 : m < 2 ^ 6) :
    w % 2 = 0 ∧ fld w 1 6 = m ∧ fld w 7 5 = d ∧ fld w 12 5 = a ∧ fld w 17 5 = b ∧ fld w 22 10 = fn := by
  subst hw
  unfold fld encF3
  omega

theorem fields_FI {imm a d m w : Nat} (hw : encFI imm a d m = w) (h2 : imm < 2 ^ 15) (h3 : a < 2 ^ 5)
    (h4 : d < 2 ^ 5) (h5 : m < 2 ^ 6) :
    w % 2 = 0 ∧ fld w 1 6 = m ∧ fld w 7 5 = d ∧ fld w 12 5 = a ∧ fld w 17 15 = imm := by
  subst hw
  unfold fld encFI
  omega

theorem fields_FU {imm d m w : Nat} (hw : encFU imm d m = w) (h2 : imm < 2 ^ 20) (h4 : d < 2 ^ 5) (h5 : m < 2 ^ 6) :
    w % 2 = 0 ∧ fld w 1 6 = m ∧ fld w 7 5 = d ∧ fld w 12 20 = imm := by
  subst hw
  unfold fld encFU
  omega

theorem fields_FM {wf imm a d m w : Nat} (hw : encFM wf imm a d m = w) (h1 : wf < 2 ^ 5) (h2 : imm < 2 ^ 10) (h3 : a < 2 ^ 5)
    (h4 : d < 2 ^ 5) (h5 : m < 2 ^ 6) :
    w % 2 = 0 ∧ fld w 1 6 = m ∧ fld w 7 5 = d ∧ fld w 12 5 = a ∧ fld w 17 10 = imm ∧ fld w 27 5 = wf := by
  subst hw
  unfold fld encFM
  omega

theorem fields_FV {fn src k a d m s r w : Nat} (hw : encFV fn src k a d m = w) (hs : src = s * 2 ^ 25 + r * 2 ^ 17)
    (h0 : s < 2 ^ 2) (h1 : fn < 2 ^ 5) (h2 : k < 2 ^ 3) (h3 : a < 2 ^ 5) (h4 : d < 2 ^ 5) (h5 : m < 2 ^ 6) (h6 : r < 2 ^ 5) :
    w % 2 = 0 ∧ fld w 1 6 = m ∧ fld w 7 5 = d ∧ fld w 12 5 = a ∧ fld w 17 5 = r ∧ fld w 22 3 = k ∧ fld w 25 2 = s ∧
      fld w 27 5 = fn := by
  subst hs
  subst hw
  unfold fld encFV
  omega

theorem fields_L {fn b a d m w : Nat} (hw : encL fn b a d m = w) (h1 : fn < 2 ^ 10) (h2 : b < 2 ^ 5) (h3 : a < 2 ^ 5)
    (h4 : d < 2 ^ 5) (h5 : m < 2 ^ 6) :
    w % 2 = 1 ∧ fld w 1 6 = m ∧ fld w 7 5 = d ∧ fld w 12 5 = a ∧ fld w 17 5 = b ∧ fld w 22 10 = fn := by
  subst hw
  unfold fld encL
  omega

theorem RoundTrip.add (d : GReg) (a : GReg) (b : GReg) : RoundTrip.Statement (.add d a b) := by
  intro _ hwf
  have h_d := d.isLt
  have h_a := a.isLt
  have h_b := b.isLt
  rw [show encode (.add d a b) = (encF3 0x000 b.toNat a.toNat d.toNat 0x01, 0) from rfl]
  dsimp only
  generalize hw0 : encF3 0x000 b.toNat a.toNat d.toNat 0x01 = w
  obtain ⟨l, f1, f7, f12, f17, f22⟩ := fields_F3 hw0 (by decide) (by omega) (by omega) (by omega) (by decide)
  rw [decode_short w l]
  have e1 : fld w 1 6 = 1 := f1
  have e2 : fld w 22 10 = 0 := f22
  have e3 : fldA w = a := (ofNat_fld f12).trans (ofNat_self _)
  have e4 : fldB w = b := (ofNat_fld f17).trans (ofNat_self _)
  have e5 : fldD w = d := (ofNat_fld f7).trans (ofNat_self _)
  simp [decodeShort, decodeIntReg, e1, e2, e3, e4, e5]

theorem RoundTrip.sub (d : GReg) (a : GReg) (b : GReg) : RoundTrip.Statement (.sub d a b) := by
  intro _ hwf
  have h_d := d.isLt
  have h_a := a.isLt
  have h_b := b.isLt
  rw [show encode (.sub d a b) = (encF3 0x001 b.toNat a.toNat d.toNat 0x01, 0) from rfl]
  dsimp only
  generalize hw0 : encF3 0x001 b.toNat a.toNat d.toNat 0x01 = w
  obtain ⟨l, f1, f7, f12, f17, f22⟩ := fields_F3 hw0 (by decide) (by omega) (by omega) (by omega) (by decide)
  rw [decode_short w l]
  have e1 : fld w 1 6 = 1 := f1
  have e2 : fld w 22 10 = 1 := f22
  have e3 : fldA w = a := (ofNat_fld f12).trans (ofNat_self _)
  have e4 : fldB w = b := (ofNat_fld f17).trans (ofNat_self _)
  have e5 : fldD w = d := (ofNat_fld f7).trans (ofNat_self _)
  simp [decodeShort, decodeIntReg, e1, e2, e3, e4, e5]

theorem RoundTrip.and (d : GReg) (a : GReg) (b : GReg) : RoundTrip.Statement (.and d a b) := by
  intro _ hwf
  have h_d := d.isLt
  have h_a := a.isLt
  have h_b := b.isLt
  rw [show encode (.and d a b) = (encF3 0x002 b.toNat a.toNat d.toNat 0x01, 0) from rfl]
  dsimp only
  generalize hw0 : encF3 0x002 b.toNat a.toNat d.toNat 0x01 = w
  obtain ⟨l, f1, f7, f12, f17, f22⟩ := fields_F3 hw0 (by decide) (by omega) (by omega) (by omega) (by decide)
  rw [decode_short w l]
  have e1 : fld w 1 6 = 1 := f1
  have e2 : fld w 22 10 = 2 := f22
  have e3 : fldA w = a := (ofNat_fld f12).trans (ofNat_self _)
  have e4 : fldB w = b := (ofNat_fld f17).trans (ofNat_self _)
  have e5 : fldD w = d := (ofNat_fld f7).trans (ofNat_self _)
  simp [decodeShort, decodeIntReg, e1, e2, e3, e4, e5]

theorem RoundTrip.or (d : GReg) (a : GReg) (b : GReg) : RoundTrip.Statement (.or d a b) := by
  intro _ hwf
  have h_d := d.isLt
  have h_a := a.isLt
  have h_b := b.isLt
  rw [show encode (.or d a b) = (encF3 0x003 b.toNat a.toNat d.toNat 0x01, 0) from rfl]
  dsimp only
  generalize hw0 : encF3 0x003 b.toNat a.toNat d.toNat 0x01 = w
  obtain ⟨l, f1, f7, f12, f17, f22⟩ := fields_F3 hw0 (by decide) (by omega) (by omega) (by omega) (by decide)
  rw [decode_short w l]
  have e1 : fld w 1 6 = 1 := f1
  have e2 : fld w 22 10 = 3 := f22
  have e3 : fldA w = a := (ofNat_fld f12).trans (ofNat_self _)
  have e4 : fldB w = b := (ofNat_fld f17).trans (ofNat_self _)
  have e5 : fldD w = d := (ofNat_fld f7).trans (ofNat_self _)
  simp [decodeShort, decodeIntReg, e1, e2, e3, e4, e5]

theorem RoundTrip.xor (d : GReg) (a : GReg) (b : GReg) : RoundTrip.Statement (.xor d a b) := by
  intro _ hwf
  have h_d := d.isLt
  have h_a := a.isLt
  have h_b := b.isLt
  rw [show encode (.xor d a b) = (encF3 0x004 b.toNat a.toNat d.toNat 0x01, 0) from rfl]
  dsimp only
  generalize hw0 : encF3 0x004 b.toNat a.toNat d.toNat 0x01 = w
  obtain ⟨l, f1, f7, f12, f17, f22⟩ := fields_F3 hw0 (by decide) (by omega) (by omega) (by omega) (by decide)
  rw [decode_short w l]
  have e1 : fld w 1 6 = 1 := f1
  have e2 : fld w 22 10 = 4 := f22
  have e3 : fldA w = a := (ofNat_fld f12).trans (ofNat_self _)
  have e4 : fldB w = b := (ofNat_fld f17).trans (ofNat_self _)
  have e5 : fldD w = d := (ofNat_fld f7).trans (ofNat_self _)
  simp [decodeShort, decodeIntReg, e1, e2, e3, e4, e5]

theorem RoundTrip.sll (d : GReg) (a : GReg) (b : GReg) : RoundTrip.Statement (.sll d a b) := by
  intro _ hwf
  have h_d := d.isLt
  have h_a := a.isLt
  have h_b := b.isLt
  rw [show encode (.sll d a b) = (encF3 0x005 b.toNat a.toNat d.toNat 0x01, 0) from rfl]
  dsimp only
  generalize hw0 : encF3 0x005 b.toNat a.toNat d.toNat 0x01 = w
  obtain ⟨l, f1, f7, f12, f17, f22⟩ := fields_F3 hw0 (by decide) (by omega) (by omega) (by omega) (by decide)
  rw [decode_short w l]
  have e1 : fld w 1 6 = 1 := f1
  have e2 : fld w 22 10 = 5 := f22
  have e3 : fldA w = a := (ofNat_fld f12).trans (ofNat_self _)
  have e4 : fldB w = b := (ofNat_fld f17).trans (ofNat_self _)
  have e5 : fldD w = d := (ofNat_fld f7).trans (ofNat_self _)
  simp [decodeShort, decodeIntReg, e1, e2, e3, e4, e5]

theorem RoundTrip.srl (d : GReg) (a : GReg) (b : GReg) : RoundTrip.Statement (.srl d a b) := by
  intro _ hwf
  have h_d := d.isLt
  have h_a := a.isLt
  have h_b := b.isLt
  rw [show encode (.srl d a b) = (encF3 0x006 b.toNat a.toNat d.toNat 0x01, 0) from rfl]
  dsimp only
  generalize hw0 : encF3 0x006 b.toNat a.toNat d.toNat 0x01 = w
  obtain ⟨l, f1, f7, f12, f17, f22⟩ := fields_F3 hw0 (by decide) (by omega) (by omega) (by omega) (by decide)
  rw [decode_short w l]
  have e1 : fld w 1 6 = 1 := f1
  have e2 : fld w 22 10 = 6 := f22
  have e3 : fldA w = a := (ofNat_fld f12).trans (ofNat_self _)
  have e4 : fldB w = b := (ofNat_fld f17).trans (ofNat_self _)
  have e5 : fldD w = d := (ofNat_fld f7).trans (ofNat_self _)
  simp [decodeShort, decodeIntReg, e1, e2, e3, e4, e5]

theorem RoundTrip.sra (d : GReg) (a : GReg) (b : GReg) : RoundTrip.Statement (.sra d a b) := by
  intro _ hwf
  have h_d := d.isLt
  have h_a := a.isLt
  have h_b := b.isLt
  rw [show encode (.sra d a b) = (encF3 0x007 b.toNat a.toNat d.toNat 0x01, 0) from rfl]
  dsimp only
  generalize hw0 : encF3 0x007 b.toNat a.toNat d.toNat 0x01 = w
  obtain ⟨l, f1, f7, f12, f17, f22⟩ := fields_F3 hw0 (by decide) (by omega) (by omega) (by omega) (by decide)
  rw [decode_short w l]
  have e1 : fld w 1 6 = 1 := f1
  have e2 : fld w 22 10 = 7 := f22
  have e3 : fldA w = a := (ofNat_fld f12).trans (ofNat_self _)
  have e4 : fldB w = b := (ofNat_fld f17).trans (ofNat_self _)
  have e5 : fldD w = d := (ofNat_fld f7).trans (ofNat_self _)
  simp [decodeShort, decodeIntReg, e1, e2, e3, e4, e5]

theorem RoundTrip.slt (d : GReg) (a : GReg) (b : GReg) : RoundTrip.Statement (.slt d a b) := by
  intro _ hwf
  have h_d := d.isLt
  have h_a := a.isLt
  have h_b := b.isLt
  rw [show encode (.slt d a b) = (encF3 0x008 b.toNat a.toNat d.toNat 0x01, 0) from rfl]
  dsimp only
  generalize hw0 : encF3 0x008 b.toNat a.toNat d.toNat 0x01 = w
  obtain ⟨l, f1, f7, f12, f17, f22⟩ := fields_F3 hw0 (by decide) (by omega) (by omega) (by omega) (by decide)
  rw [decode_short w l]
  have e1 : fld w 1 6 = 1 := f1
  have e2 : fld w 22 10 = 8 := f22
  have e3 : fldA w = a := (ofNat_fld f12).trans (ofNat_self _)
  have e4 : fldB w = b := (ofNat_fld f17).trans (ofNat_self _)
  have e5 : fldD w = d := (ofNat_fld f7).trans (ofNat_self _)
  simp [decodeShort, decodeIntReg, e1, e2, e3, e4, e5]

theorem RoundTrip.sltn (d : GReg) (a : GReg) (b : GReg) : RoundTrip.Statement (.sltn d a b) := by
  intro _ hwf
  have h_d := d.isLt
  have h_a := a.isLt
  have h_b := b.isLt
  rw [show encode (.sltn d a b) = (encF3 0x009 b.toNat a.toNat d.toNat 0x01, 0) from rfl]
  dsimp only
  generalize hw0 : encF3 0x009 b.toNat a.toNat d.toNat 0x01 = w
  obtain ⟨l, f1, f7, f12, f17, f22⟩ := fields_F3 hw0 (by decide) (by omega) (by omega) (by omega) (by decide)
  rw [decode_short w l]
  have e1 : fld w 1 6 = 1 := f1
  have e2 : fld w 22 10 = 9 := f22
  have e3 : fldA w = a := (ofNat_fld f12).trans (ofNat_self _)
  have e4 : fldB w = b := (ofNat_fld f17).trans (ofNat_self _)
  have e5 : fldD w = d := (ofNat_fld f7).trans (ofNat_self _)
  simp [decodeShort, decodeIntReg, e1, e2, e3, e4, e5]

theorem RoundTrip.min (d : GReg) (a : GReg) (b : GReg) : RoundTrip.Statement (.min d a b) := by
  intro _ hwf
  have h_d := d.isLt
  have h_a := a.isLt
  have h_b := b.isLt
  rw [show encode (.min d a b) = (encF3 0x00A b.toNat a.toNat d.toNat 0x01, 0) from rfl]
  dsimp only
  generalize hw0 : encF3 0x00A b.toNat a.toNat d.toNat 0x01 = w
  obtain ⟨l, f1, f7, f12, f17, f22⟩ := fields_F3 hw0 (by decide) (by omega) (by omega) (by omega) (by decide)
  rw [decode_short w l]
  have e1 : fld w 1 6 = 1 := f1
  have e2 : fld w 22 10 = 10 := f22
  have e3 : fldA w = a := (ofNat_fld f12).trans (ofNat_self _)
  have e4 : fldB w = b := (ofNat_fld f17).trans (ofNat_self _)
  have e5 : fldD w = d := (ofNat_fld f7).trans (ofNat_self _)
  simp [decodeShort, decodeIntReg, e1, e2, e3, e4, e5]

theorem RoundTrip.max (d : GReg) (a : GReg) (b : GReg) : RoundTrip.Statement (.max d a b) := by
  intro _ hwf
  have h_d := d.isLt
  have h_a := a.isLt
  have h_b := b.isLt
  rw [show encode (.max d a b) = (encF3 0x00B b.toNat a.toNat d.toNat 0x01, 0) from rfl]
  dsimp only
  generalize hw0 : encF3 0x00B b.toNat a.toNat d.toNat 0x01 = w
  obtain ⟨l, f1, f7, f12, f17, f22⟩ := fields_F3 hw0 (by decide) (by omega) (by omega) (by omega) (by decide)
  rw [decode_short w l]
  have e1 : fld w 1 6 = 1 := f1
  have e2 : fld w 22 10 = 11 := f22
  have e3 : fldA w = a := (ofNat_fld f12).trans (ofNat_self _)
  have e4 : fldB w = b := (ofNat_fld f17).trans (ofNat_self _)
  have e5 : fldD w = d := (ofNat_fld f7).trans (ofNat_self _)
  simp [decodeShort, decodeIntReg, e1, e2, e3, e4, e5]

theorem RoundTrip.minn (d : GReg) (a : GReg) (b : GReg) : RoundTrip.Statement (.minn d a b) := by
  intro _ hwf
  have h_d := d.isLt
  have h_a := a.isLt
  have h_b := b.isLt
  rw [show encode (.minn d a b) = (encF3 0x00C b.toNat a.toNat d.toNat 0x01, 0) from rfl]
  dsimp only
  generalize hw0 : encF3 0x00C b.toNat a.toNat d.toNat 0x01 = w
  obtain ⟨l, f1, f7, f12, f17, f22⟩ := fields_F3 hw0 (by decide) (by omega) (by omega) (by omega) (by decide)
  rw [decode_short w l]
  have e1 : fld w 1 6 = 1 := f1
  have e2 : fld w 22 10 = 12 := f22
  have e3 : fldA w = a := (ofNat_fld f12).trans (ofNat_self _)
  have e4 : fldB w = b := (ofNat_fld f17).trans (ofNat_self _)
  have e5 : fldD w = d := (ofNat_fld f7).trans (ofNat_self _)
  simp [decodeShort, decodeIntReg, e1, e2, e3, e4, e5]

theorem RoundTrip.maxn (d : GReg) (a : GReg) (b : GReg) : RoundTrip.Statement (.maxn d a b) := by
  intro _ hwf
  have h_d := d.isLt
  have h_a := a.isLt
  have h_b := b.isLt
  rw [show encode (.maxn d a b) = (encF3 0x00D b.toNat a.toNat d.toNat 0x01, 0) from rfl]
  dsimp only
  generalize hw0 : encF3 0x00D b.toNat a.toNat d.toNat 0x01 = w
  obtain ⟨l, f1, f7, f12, f17, f22⟩ := fields_F3 hw0 (by decide) (by omega) (by omega) (by omega) (by decide)
  rw [decode_short w l]
  have e1 : fld w 1 6 = 1 := f1
  have e2 : fld w 22 10 = 13 := f22
  have e3 : fldA w = a := (ofNat_fld f12).trans (ofNat_self _)
  have e4 : fldB w = b := (ofNat_fld f17).trans (ofNat_self _)
  have e5 : fldD w = d := (ofNat_fld f7).trans (ofNat_self _)
  simp [decodeShort, decodeIntReg, e1, e2, e3, e4, e5]

theorem RoundTrip.mul (d : GReg) (a : GReg) (b : GReg) : RoundTrip.Statement (.mul d a b) := by
  intro _ hwf
  have h_d := d.isLt
  have h_a := a.isLt
  have h_b := b.isLt
  rw [show encode (.mul d a b) = (encF3 0x010 b.toNat a.toNat d.toNat 0x01, 0) from rfl]
  dsimp only
  generalize hw0 : encF3 0x010 b.toNat a.toNat d.toNat 0x01 = w
  obtain ⟨l, f1, f7, f12, f17, f22⟩ := fields_F3 hw0 (by decide) (by omega) (by omega) (by omega) (by decide)
  rw [decode_short w l]
  have e1 : fld w 1 6 = 1 := f1
  have e2 : fld w 22 10 = 16 := f22
  have e3 : fldA w = a := (ofNat_fld f12).trans (ofNat_self _)
  have e4 : fldB w = b := (ofNat_fld f17).trans (ofNat_self _)
  have e5 : fldD w = d := (ofNat_fld f7).trans (ofNat_self _)
  simp [decodeShort, decodeIntReg, e1, e2, e3, e4, e5]

theorem RoundTrip.mulh (d : GReg) (a : GReg) (b : GReg) : RoundTrip.Statement (.mulh d a b) := by
  intro _ hwf
  have h_d := d.isLt
  have h_a := a.isLt
  have h_b := b.isLt
  rw [show encode (.mulh d a b) = (encF3 0x011 b.toNat a.toNat d.toNat 0x01, 0) from rfl]
  dsimp only
  generalize hw0 : encF3 0x011 b.toNat a.toNat d.toNat 0x01 = w
  obtain ⟨l, f1, f7, f12, f17, f22⟩ := fields_F3 hw0 (by decide) (by omega) (by omega) (by omega) (by decide)
  rw [decode_short w l]
  have e1 : fld w 1 6 = 1 := f1
  have e2 : fld w 22 10 = 17 := f22
  have e3 : fldA w = a := (ofNat_fld f12).trans (ofNat_self _)
  have e4 : fldB w = b := (ofNat_fld f17).trans (ofNat_self _)
  have e5 : fldD w = d := (ofNat_fld f7).trans (ofNat_self _)
  simp [decodeShort, decodeIntReg, e1, e2, e3, e4, e5]

theorem RoundTrip.mulhn (d : GReg) (a : GReg) (b : GReg) : RoundTrip.Statement (.mulhn d a b) := by
  intro _ hwf
  have h_d := d.isLt
  have h_a := a.isLt
  have h_b := b.isLt
  rw [show encode (.mulhn d a b) = (encF3 0x012 b.toNat a.toNat d.toNat 0x01, 0) from rfl]
  dsimp only
  generalize hw0 : encF3 0x012 b.toNat a.toNat d.toNat 0x01 = w
  obtain ⟨l, f1, f7, f12, f17, f22⟩ := fields_F3 hw0 (by decide) (by omega) (by omega) (by omega) (by decide)
  rw [decode_short w l]
  have e1 : fld w 1 6 = 1 := f1
  have e2 : fld w 22 10 = 18 := f22
  have e3 : fldA w = a := (ofNat_fld f12).trans (ofNat_self _)
  have e4 : fldB w = b := (ofNat_fld f17).trans (ofNat_self _)
  have e5 : fldD w = d := (ofNat_fld f7).trans (ofNat_self _)
  simp [decodeShort, decodeIntReg, e1, e2, e3, e4, e5]

theorem RoundTrip.div (d : GReg) (a : GReg) (b : GReg) : RoundTrip.Statement (.div d a b) := by
  intro _ hwf
  have h_d := d.isLt
  have h_a := a.isLt
  have h_b := b.isLt
  rw [show encode (.div d a b) = (encF3 0x013 b.toNat a.toNat d.toNat 0x01, 0) from rfl]
  dsimp only
  generalize hw0 : encF3 0x013 b.toNat a.toNat d.toNat 0x01 = w
  obtain ⟨l, f1, f7, f12, f17, f22⟩ := fields_F3 hw0 (by decide) (by omega) (by omega) (by omega) (by decide)
  rw [decode_short w l]
  have e1 : fld w 1 6 = 1 := f1
  have e2 : fld w 22 10 = 19 := f22
  have e3 : fldA w = a := (ofNat_fld f12).trans (ofNat_self _)
  have e4 : fldB w = b := (ofNat_fld f17).trans (ofNat_self _)
  have e5 : fldD w = d := (ofNat_fld f7).trans (ofNat_self _)
  simp [decodeShort, decodeIntReg, e1, e2, e3, e4, e5]

theorem RoundTrip.divn (d : GReg) (a : GReg) (b : GReg) : RoundTrip.Statement (.divn d a b) := by
  intro _ hwf
  have h_d := d.isLt
  have h_a := a.isLt
  have h_b := b.isLt
  rw [show encode (.divn d a b) = (encF3 0x014 b.toNat a.toNat d.toNat 0x01, 0) from rfl]
  dsimp only
  generalize hw0 : encF3 0x014 b.toNat a.toNat d.toNat 0x01 = w
  obtain ⟨l, f1, f7, f12, f17, f22⟩ := fields_F3 hw0 (by decide) (by omega) (by omega) (by omega) (by decide)
  rw [decode_short w l]
  have e1 : fld w 1 6 = 1 := f1
  have e2 : fld w 22 10 = 20 := f22
  have e3 : fldA w = a := (ofNat_fld f12).trans (ofNat_self _)
  have e4 : fldB w = b := (ofNat_fld f17).trans (ofNat_self _)
  have e5 : fldD w = d := (ofNat_fld f7).trans (ofNat_self _)
  simp [decodeShort, decodeIntReg, e1, e2, e3, e4, e5]

theorem RoundTrip.rem (d : GReg) (a : GReg) (b : GReg) : RoundTrip.Statement (.rem d a b) := by
  intro _ hwf
  have h_d := d.isLt
  have h_a := a.isLt
  have h_b := b.isLt
  rw [show encode (.rem d a b) = (encF3 0x015 b.toNat a.toNat d.toNat 0x01, 0) from rfl]
  dsimp only
  generalize hw0 : encF3 0x015 b.toNat a.toNat d.toNat 0x01 = w
  obtain ⟨l, f1, f7, f12, f17, f22⟩ := fields_F3 hw0 (by decide) (by omega) (by omega) (by omega) (by decide)
  rw [decode_short w l]
  have e1 : fld w 1 6 = 1 := f1
  have e2 : fld w 22 10 = 21 := f22
  have e3 : fldA w = a := (ofNat_fld f12).trans (ofNat_self _)
  have e4 : fldB w = b := (ofNat_fld f17).trans (ofNat_self _)
  have e5 : fldD w = d := (ofNat_fld f7).trans (ofNat_self _)
  simp [decodeShort, decodeIntReg, e1, e2, e3, e4, e5]

theorem RoundTrip.remn (d : GReg) (a : GReg) (b : GReg) : RoundTrip.Statement (.remn d a b) := by
  intro _ hwf
  have h_d := d.isLt
  have h_a := a.isLt
  have h_b := b.isLt
  rw [show encode (.remn d a b) = (encF3 0x016 b.toNat a.toNat d.toNat 0x01, 0) from rfl]
  dsimp only
  generalize hw0 : encF3 0x016 b.toNat a.toNat d.toNat 0x01 = w
  obtain ⟨l, f1, f7, f12, f17, f22⟩ := fields_F3 hw0 (by decide) (by omega) (by omega) (by omega) (by decide)
  rw [decode_short w l]
  have e1 : fld w 1 6 = 1 := f1
  have e2 : fld w 22 10 = 22 := f22
  have e3 : fldA w = a := (ofNat_fld f12).trans (ofNat_self _)
  have e4 : fldB w = b := (ofNat_fld f17).trans (ofNat_self _)
  have e5 : fldD w = d := (ofNat_fld f7).trans (ofNat_self _)
  simp [decodeShort, decodeIntReg, e1, e2, e3, e4, e5]

theorem RoundTrip.clz (d : GReg) (a : GReg) : RoundTrip.Statement (.clz d a) := by
  intro _ hwf
  have h_d := d.isLt
  have h_a := a.isLt
  rw [show encode (.clz d a) = (encF3 0x020 0 a.toNat d.toNat 0x01, 0) from rfl]
  dsimp only
  generalize hw0 : encF3 0x020 0 a.toNat d.toNat 0x01 = w
  obtain ⟨l, f1, f7, f12, f17, f22⟩ := fields_F3 hw0 (by decide) (by decide) (by omega) (by omega) (by decide)
  rw [decode_short w l]
  have e1 : fld w 1 6 = 1 := f1
  have e2 : fld w 22 10 = 32 := f22
  have e3 : fldA w = a := (ofNat_fld f12).trans (ofNat_self _)
  have e4 : fldB w = 0 := ofNat_fld f17
  have e5 : fldD w = d := (ofNat_fld f7).trans (ofNat_self _)
  simp [decodeShort, decodeIntReg, e1, e2, e3, e4, e5, need_true]

theorem RoundTrip.ctz (d : GReg) (a : GReg) : RoundTrip.Statement (.ctz d a) := by
  intro _ hwf
  have h_d := d.isLt
  have h_a := a.isLt
  rw [show encode (.ctz d a) = (encF3 0x021 0 a.toNat d.toNat 0x01, 0) from rfl]
  dsimp only
  generalize hw0 : encF3 0x021 0 a.toNat d.toNat 0x01 = w
  obtain ⟨l, f1, f7, f12, f17, f22⟩ := fields_F3 hw0 (by decide) (by decide) (by omega) (by omega) (by decide)
  rw [decode_short w l]
  have e1 : fld w 1 6 = 1 := f1
  have e2 : fld w 22 10 = 33 := f22
  have e3 : fldA w = a := (ofNat_fld f12).trans (ofNat_self _)
  have e4 : fldB w = 0 := ofNat_fld f17
  have e5 : fldD w = d := (ofNat_fld f7).trans (ofNat_self _)
  simp [decodeShort, decodeIntReg, e1, e2, e3, e4, e5, need_true]

theorem RoundTrip.popc (d : GReg) (a : GReg) : RoundTrip.Statement (.popc d a) := by
  intro _ hwf
  have h_d := d.isLt
  have h_a := a.isLt
  rw [show encode (.popc d a) = (encF3 0x022 0 a.toNat d.toNat 0x01, 0) from rfl]
  dsimp only
  generalize hw0 : encF3 0x022 0 a.toNat d.toNat 0x01 = w
  obtain ⟨l, f1, f7, f12, f17, f22⟩ := fields_F3 hw0 (by decide) (by decide) (by omega) (by omega) (by decide)
  rw [decode_short w l]
  have e1 : fld w 1 6 = 1 := f1
  have e2 : fld w 22 10 = 34 := f22
  have e3 : fldA w = a := (ofNat_fld f12).trans (ofNat_self _)
  have e4 : fldB w = 0 := ofNat_fld f17
  have e5 : fldD w = d := (ofNat_fld f7).trans (ofNat_self _)
  simp [decodeShort, decodeIntReg, e1, e2, e3, e4, e5, need_true]

theorem RoundTrip.brev (d : GReg) (a : GReg) : RoundTrip.Statement (.brev d a) := by
  intro _ hwf
  have h_d := d.isLt
  have h_a := a.isLt
  rw [show encode (.brev d a) = (encF3 0x023 0 a.toNat d.toNat 0x01, 0) from rfl]
  dsimp only
  generalize hw0 : encF3 0x023 0 a.toNat d.toNat 0x01 = w
  obtain ⟨l, f1, f7, f12, f17, f22⟩ := fields_F3 hw0 (by decide) (by decide) (by omega) (by omega) (by decide)
  rw [decode_short w l]
  have e1 : fld w 1 6 = 1 := f1
  have e2 : fld w 22 10 = 35 := f22
  have e3 : fldA w = a := (ofNat_fld f12).trans (ofNat_self _)
  have e4 : fldB w = 0 := ofNat_fld f17
  have e5 : fldD w = d := (ofNat_fld f7).trans (ofNat_self _)
  simp [decodeShort, decodeIntReg, e1, e2, e3, e4, e5, need_true]

theorem RoundTrip.addi (d : GReg) (a : GReg) (imm : BitVec 15) : RoundTrip.Statement (.addi d a imm) := by
  intro _ hwf
  have h_d := d.isLt
  have h_a := a.isLt
  have h_imm := imm.isLt
  rw [show encode (.addi d a imm) = (encFI imm.toNat a.toNat d.toNat 0x02, 0) from rfl]
  dsimp only
  generalize hw0 : encFI imm.toNat a.toNat d.toNat 0x02 = w
  obtain ⟨l, f1, f7, f12, f17⟩ := fields_FI hw0 (by omega) (by omega) (by omega) (by decide)
  rw [decode_short w l]
  have e1 : BitVec.ofNat 15 (w / 131072) = imm := (ofNat_fld f17).trans (ofNat_self _)
  have e2 : fld w 1 6 = 2 := f1
  have e3 : fldA w = a := (ofNat_fld f12).trans (ofNat_self _)
  have e4 : fldD w = d := (ofNat_fld f7).trans (ofNat_self _)
  simp [decodeShort, e1, e2, e3, e4]

theorem RoundTrip.andi (d : GReg) (a : GReg) (imm : BitVec 15) : RoundTrip.Statement (.andi d a imm) := by
  intro _ hwf
  have h_d := d.isLt
  have h_a := a.isLt
  have h_imm := imm.isLt
  rw [show encode (.andi d a imm) = (encFI imm.toNat a.toNat d.toNat 0x03, 0) from rfl]
  dsimp only
  generalize hw0 : encFI imm.toNat a.toNat d.toNat 0x03 = w
  obtain ⟨l, f1, f7, f12, f17⟩ := fields_FI hw0 (by omega) (by omega) (by omega) (by decide)
  rw [decode_short w l]
  have e1 : BitVec.ofNat 15 (w / 131072) = imm := (ofNat_fld f17).trans (ofNat_self _)
  have e2 : fld w 1 6 = 3 := f1
  have e3 : fldA w = a := (ofNat_fld f12).trans (ofNat_self _)
  have e4 : fldD w = d := (ofNat_fld f7).trans (ofNat_self _)
  simp [decodeShort, e1, e2, e3, e4]

theorem RoundTrip.ori (d : GReg) (a : GReg) (imm : BitVec 15) : RoundTrip.Statement (.ori d a imm) := by
  intro _ hwf
  have h_d := d.isLt
  have h_a := a.isLt
  have h_imm := imm.isLt
  rw [show encode (.ori d a imm) = (encFI imm.toNat a.toNat d.toNat 0x04, 0) from rfl]
  dsimp only
  generalize hw0 : encFI imm.toNat a.toNat d.toNat 0x04 = w
  obtain ⟨l, f1, f7, f12, f17⟩ := fields_FI hw0 (by omega) (by omega) (by omega) (by decide)
  rw [decode_short w l]
  have e1 : BitVec.ofNat 15 (w / 131072) = imm := (ofNat_fld f17).trans (ofNat_self _)
  have e2 : fld w 1 6 = 4 := f1
  have e3 : fldA w = a := (ofNat_fld f12).trans (ofNat_self _)
  have e4 : fldD w = d := (ofNat_fld f7).trans (ofNat_self _)
  simp [decodeShort, e1, e2, e3, e4]

theorem RoundTrip.xori (d : GReg) (a : GReg) (imm : BitVec 15) : RoundTrip.Statement (.xori d a imm) := by
  intro _ hwf
  have h_d := d.isLt
  have h_a := a.isLt
  have h_imm := imm.isLt
  rw [show encode (.xori d a imm) = (encFI imm.toNat a.toNat d.toNat 0x05, 0) from rfl]
  dsimp only
  generalize hw0 : encFI imm.toNat a.toNat d.toNat 0x05 = w
  obtain ⟨l, f1, f7, f12, f17⟩ := fields_FI hw0 (by omega) (by omega) (by omega) (by decide)
  rw [decode_short w l]
  have e1 : BitVec.ofNat 15 (w / 131072) = imm := (ofNat_fld f17).trans (ofNat_self _)
  have e2 : fld w 1 6 = 5 := f1
  have e3 : fldA w = a := (ofNat_fld f12).trans (ofNat_self _)
  have e4 : fldD w = d := (ofNat_fld f7).trans (ofNat_self _)
  simp [decodeShort, e1, e2, e3, e4]

theorem RoundTrip.slti (d : GReg) (a : GReg) (imm : BitVec 15) : RoundTrip.Statement (.slti d a imm) := by
  intro _ hwf
  have h_d := d.isLt
  have h_a := a.isLt
  have h_imm := imm.isLt
  rw [show encode (.slti d a imm) = (encFI imm.toNat a.toNat d.toNat 0x06, 0) from rfl]
  dsimp only
  generalize hw0 : encFI imm.toNat a.toNat d.toNat 0x06 = w
  obtain ⟨l, f1, f7, f12, f17⟩ := fields_FI hw0 (by omega) (by omega) (by omega) (by decide)
  rw [decode_short w l]
  have e1 : BitVec.ofNat 15 (w / 131072) = imm := (ofNat_fld f17).trans (ofNat_self _)
  have e2 : fld w 1 6 = 6 := f1
  have e3 : fldA w = a := (ofNat_fld f12).trans (ofNat_self _)
  have e4 : fldD w = d := (ofNat_fld f7).trans (ofNat_self _)
  simp [decodeShort, e1, e2, e3, e4]

theorem RoundTrip.sltni (d : GReg) (a : GReg) (imm : BitVec 15) : RoundTrip.Statement (.sltni d a imm) := by
  intro _ hwf
  have h_d := d.isLt
  have h_a := a.isLt
  have h_imm := imm.isLt
  rw [show encode (.sltni d a imm) = (encFI imm.toNat a.toNat d.toNat 0x07, 0) from rfl]
  dsimp only
  generalize hw0 : encFI imm.toNat a.toNat d.toNat 0x07 = w
  obtain ⟨l, f1, f7, f12, f17⟩ := fields_FI hw0 (by omega) (by omega) (by omega) (by decide)
  rw [decode_short w l]
  have e1 : BitVec.ofNat 15 (w / 131072) = imm := (ofNat_fld f17).trans (ofNat_self _)
  have e2 : fld w 1 6 = 7 := f1
  have e3 : fldA w = a := (ofNat_fld f12).trans (ofNat_self _)
  have e4 : fldD w = d := (ofNat_fld f7).trans (ofNat_self _)
  simp [decodeShort, e1, e2, e3, e4]

theorem RoundTrip.slli (d : GReg) (a : GReg) (sh : BitVec 6) : RoundTrip.Statement (.slli d a sh) := by
  intro _ hwf
  have h_d := d.isLt
  have h_a := a.isLt
  have h_sh := sh.isLt
  rw [show encode (.slli d a sh) = (encFI (0 * 2 ^ 6 + sh.toNat) a.toNat d.toNat 0x08, 0) from rfl]
  dsimp only
  generalize hw0 : encFI (0 * 2 ^ 6 + sh.toNat) a.toNat d.toNat 0x08 = w
  obtain ⟨l, f1, f7, f12, f17⟩ := fields_FI hw0 (by omega) (by omega) (by omega) (by decide)
  rw [decode_short w l]
  have e1 : BitVec.ofNat 6 (w / 131072) = sh := (ofNat_fld ((fld_sub f17 0 6 (by decide)).trans (by unfold fld; omega : _ = sh.toNat))).trans (ofNat_self _)
  have e2 : fld w 1 6 = 8 := f1
  have e3 : fld w 23 2 = 0 := (fld_sub f17 6 2 (by decide)).trans (by unfold fld; omega)
  have e4 : fld w 25 7 = 0 := (fld_sub f17 8 7 (by decide)).trans (by unfold fld; omega)
  have e5 : fldA w = a := (ofNat_fld f12).trans (ofNat_self _)
  have e6 : fldD w = d := (ofNat_fld f7).trans (ofNat_self _)
  simp [decodeShort, decodeShiftImm, e1, e2, e3, e4, e5, e6, need_true]

theorem RoundTrip.srli (d : GReg) (a : GReg) (sh : BitVec 6) : RoundTrip.Statement (.srli d a sh) := by
  intro _ hwf
  have h_d := d.isLt
  have h_a := a.isLt
  have h_sh := sh.isLt
  rw [show encode (.srli d a sh) = (encFI (1 * 2 ^ 6 + sh.toNat) a.toNat d.toNat 0x08, 0) from rfl]
  dsimp only
  generalize hw0 : encFI (1 * 2 ^ 6 + sh.toNat) a.toNat d.toNat 0x08 = w
  obtain ⟨l, f1, f7, f12, f17⟩ := fields_FI hw0 (by omega) (by omega) (by omega) (by decide)
  rw [decode_short w l]
  have e1 : BitVec.ofNat 6 (w / 131072) = sh := (ofNat_fld ((fld_sub f17 0 6 (by decide)).trans (by unfold fld; omega : _ = sh.toNat))).trans (ofNat_self _)
  have e2 : fld w 1 6 = 8 := f1
  have e3 : fld w 23 2 = 1 := (fld_sub f17 6 2 (by decide)).trans (by unfold fld; omega)
  have e4 : fld w 25 7 = 0 := (fld_sub f17 8 7 (by decide)).trans (by unfold fld; omega)
  have e5 : fldA w = a := (ofNat_fld f12).trans (ofNat_self _)
  have e6 : fldD w = d := (ofNat_fld f7).trans (ofNat_self _)
  simp [decodeShort, decodeShiftImm, e1, e2, e3, e4, e5, e6, need_true]

theorem RoundTrip.srai (d : GReg) (a : GReg) (sh : BitVec 6) : RoundTrip.Statement (.srai d a sh) := by
  intro _ hwf
  have h_d := d.isLt
  have h_a := a.isLt
  have h_sh := sh.isLt
  rw [show encode (.srai d a sh) = (encFI (2 * 2 ^ 6 + sh.toNat) a.toNat d.toNat 0x08, 0) from rfl]
  dsimp only
  generalize hw0 : encFI (2 * 2 ^ 6 + sh.toNat) a.toNat d.toNat 0x08 = w
  obtain ⟨l, f1, f7, f12, f17⟩ := fields_FI hw0 (by omega) (by omega) (by omega) (by decide)
  rw [decode_short w l]
  have e1 : BitVec.ofNat 6 (w / 131072) = sh := (ofNat_fld ((fld_sub f17 0 6 (by decide)).trans (by unfold fld; omega : _ = sh.toNat))).trans (ofNat_self _)
  have e2 : fld w 1 6 = 8 := f1
  have e3 : fld w 23 2 = 2 := (fld_sub f17 6 2 (by decide)).trans (by unfold fld; omega)
  have e4 : fld w 25 7 = 0 := (fld_sub f17 8 7 (by decide)).trans (by unfold fld; omega)
  have e5 : fldA w = a := (ofNat_fld f12).trans (ofNat_self _)
  have e6 : fldD w = d := (ofNat_fld f7).trans (ofNat_self _)
  simp [decodeShort, decodeShiftImm, e1, e2, e3, e4, e5, e6, need_true]

theorem RoundTrip.lui (d : GReg) (imm : BitVec 20) : RoundTrip.Statement (.lui d imm) := by
  intro _ hwf
  have h_d := d.isLt
  have h_imm := imm.isLt
  rw [show encode (.lui d imm) = (encFU imm.toNat d.toNat 0x09, 0) from rfl]
  dsimp only
  generalize hw0 : encFU imm.toNat d.toNat 0x09 = w
  obtain ⟨l, f1, f7, f12⟩ := fields_FU hw0 (by omega) (by omega) (by decide)
  rw [decode_short w l]
  have e1 : BitVec.ofNat 20 (w / 4096) = imm := (ofNat_fld f12).trans (ofNat_self _)
  have e2 : fld w 1 6 = 9 := f1
  have e3 : fldD w = d := (ofNat_fld f7).trans (ofNat_self _)
  simp [decodeShort, e1, e2, e3]

theorem RoundTrip.auipc (d : GReg) (imm : BitVec 20) : RoundTrip.Statement (.auipc d imm) := by
  intro _ hwf
  have h_d := d.isLt
  have h_imm := imm.isLt
  rw [show encode (.auipc d imm) = (encFU imm.toNat d.toNat 0x0A, 0) from rfl]
  dsimp only
  generalize hw0 : encFU imm.toNat d.toNat 0x0A = w
  obtain ⟨l, f1, f7, f12⟩ := fields_FU hw0 (by omega) (by omega) (by decide)
  rw [decode_short w l]
  have e1 : BitVec.ofNat 20 (w / 4096) = imm := (ofNat_fld f12).trans (ofNat_self _)
  have e2 : fld w 1 6 = 10 := f1
  have e3 : fldD w = d := (ofNat_fld f7).trans (ofNat_self _)
  simp [decodeShort, e1, e2, e3]

theorem RoundTrip.limm (d : GReg) (imm : BitVec 32) : RoundTrip.Statement (.limm d imm) := by
  intro _ hwf
  have h_d := d.isLt
  have h_imm := imm.isLt
  rw [show encode (.limm d imm) = (encL 0 0 0 d.toNat 0x01, imm.toNat) from rfl]
  dsimp only
  generalize hw0 : encL 0 0 0 d.toNat 0x01 = w0
  obtain ⟨l, f1, f7, f12, f17, f22⟩ := fields_L hw0 (by decide) (by decide) (by decide) (by omega) (by decide)
  generalize hw1 : imm.toNat = w1
  rw [decode_long w0 w1 l]
  have e1 : BitVec.ofNat 32 w1 = imm := ofNat_eq _ _ (by omega)
  have e2 : fld w0 1 6 = 1 := f1
  have e3 : fld w0 22 1 = 0 := (fld_sub f22 0 1 (by decide))
  have e4 : fld w0 23 9 = 0 := (fld_sub f22 1 9 (by decide))
  have e5 : fldA w0 = 0 := ofNat_fld f12
  have e6 : fldB w0 = 0 := ofNat_fld f17
  have e7 : fldD w0 = d := (ofNat_fld f7).trans (ofNat_self _)
  simp [decodeLong, decodeLimm, e1, e2, e3, e4, e5, e6, e7, need_true]

theorem RoundTrip.limmH (d : GReg) (imm : BitVec 32) : RoundTrip.Statement (.limmH d imm) := by
  intro _ hwf
  have h_d := d.isLt
  have h_imm := imm.isLt
  rw [show encode (.limmH d imm) = (encL 1 0 0 d.toNat 0x01, imm.toNat) from rfl]
  dsimp only
  generalize hw0 : encL 1 0 0 d.toNat 0x01 = w0
  obtain ⟨l, f1, f7, f12, f17, f22⟩ := fields_L hw0 (by decide) (by decide) (by decide) (by omega) (by decide)
  generalize hw1 : imm.toNat = w1
  rw [decode_long w0 w1 l]
  have e1 : BitVec.ofNat 32 w1 = imm := ofNat_eq _ _ (by omega)
  have e2 : fld w0 1 6 = 1 := f1
  have e3 : fld w0 22 1 = 1 := (fld_sub f22 0 1 (by decide))
  have e4 : fld w0 23 9 = 0 := (fld_sub f22 1 9 (by decide))
  have e5 : fldA w0 = 0 := ofNat_fld f12
  have e6 : fldB w0 = 0 := ofNat_fld f17
  have e7 : fldD w0 = d := (ofNat_fld f7).trans (ofNat_self _)
  simp [decodeLong, decodeLimm, e1, e2, e3, e4, e5, e6, e7, need_true]

theorem RoundTrip.ldb (d : GReg) (a : GReg) (off : BitVec 10) : RoundTrip.Statement (.ldb d a off) := by
  intro _ hwf
  have h_d := d.isLt
  have h_a := a.isLt
  have h_off := off.isLt
  rw [show encode (.ldb d a off) = (encFM 0 off.toNat a.toNat d.toNat 0x0B, 0) from rfl]
  dsimp only
  generalize hw0 : encFM 0 off.toNat a.toNat d.toNat 0x0B = w
  obtain ⟨l, f1, f7, f12, f17, f27⟩ := fields_FM hw0 (by decide) (by omega) (by omega) (by omega) (by decide)
  rw [decode_short w l]
  have e1 : BitVec.ofNat 10 (w / 131072) = off := (ofNat_fld f17).trans (ofNat_self _)
  have e2 : fld w 1 6 = 11 := f1
  have e4 : fld w 27 3 = 0 := (fld_sub f27 0 3 (by decide))
  have e6 : fld w 30 1 = 0 := (fld_sub f27 3 1 (by decide))
  have e7 : fld w 31 1 = 0 := (fld_sub f27 4 1 (by decide))
  have e8 : fldA w = a := (ofNat_fld f12).trans (ofNat_self _)
  have e9 : fldD w = d := (ofNat_fld f7).trans (ofNat_self _)
  simp [decodeShort, decodeLoad, e1, e2, e4, e6, e7, e8, e9, need_true]

theorem RoundTrip.ldh (d : GReg) (a : GReg) (off : BitVec 10) : RoundTrip.Statement (.ldh d a off) := by
  intro _ hwf
  have h_d := d.isLt
  have h_a := a.isLt
  have h_off := off.isLt
  rw [show encode (.ldh d a off) = (encFM 1 off.toNat a.toNat d.toNat 0x0B, 0) from rfl]
  dsimp only
  generalize hw0 : encFM 1 off.toNat a.toNat d.toNat 0x0B = w
  obtain ⟨l, f1, f7, f12, f17, f27⟩ := fields_FM hw0 (by decide) (by omega) (by omega) (by omega) (by decide)
  rw [decode_short w l]
  have e1 : BitVec.ofNat 10 (w / 131072) = off := (ofNat_fld f17).trans (ofNat_self _)
  have e2 : fld w 1 6 = 11 := f1
  have e4 : fld w 27 3 = 1 := (fld_sub f27 0 3 (by decide))
  have e6 : fld w 30 1 = 0 := (fld_sub f27 3 1 (by decide))
  have e7 : fld w 31 1 = 0 := (fld_sub f27 4 1 (by decide))
  have e8 : fldA w = a := (ofNat_fld f12).trans (ofNat_self _)
  have e9 : fldD w = d := (ofNat_fld f7).trans (ofNat_self _)
  simp [decodeShort, decodeLoad, e1, e2, e4, e6, e7, e8, e9, need_true]

theorem RoundTrip.ldw (d : GReg) (a : GReg) (off : BitVec 10) : RoundTrip.Statement (.ldw d a off) := by
  intro _ hwf
  have h_d := d.isLt
  have h_a := a.isLt
  have h_off := off.isLt
  rw [show encode (.ldw d a off) = (encFM 2 off.toNat a.toNat d.toNat 0x0B, 0) from rfl]
  dsimp only
  generalize hw0 : encFM 2 off.toNat a.toNat d.toNat 0x0B = w
  obtain ⟨l, f1, f7, f12, f17, f27⟩ := fields_FM hw0 (by decide) (by omega) (by omega) (by omega) (by decide)
  rw [decode_short w l]
  have e1 : BitVec.ofNat 10 (w / 131072) = off := (ofNat_fld f17).trans (ofNat_self _)
  have e2 : fld w 1 6 = 11 := f1
  have e4 : fld w 27 3 = 2 := (fld_sub f27 0 3 (by decide))
  have e6 : fld w 30 1 = 0 := (fld_sub f27 3 1 (by decide))
  have e7 : fld w 31 1 = 0 := (fld_sub f27 4 1 (by decide))
  have e8 : fldA w = a := (ofNat_fld f12).trans (ofNat_self _)
  have e9 : fldD w = d := (ofNat_fld f7).trans (ofNat_self _)
  simp [decodeShort, decodeLoad, e1, e2, e4, e6, e7, e8, e9, need_true]

theorem RoundTrip.ldd (d : GReg) (a : GReg) (off : BitVec 10) : RoundTrip.Statement (.ldd d a off) := by
  intro _ hwf
  have h_d := d.isLt
  have h_a := a.isLt
  have h_off := off.isLt
  rw [show encode (.ldd d a off) = (encFM 3 off.toNat a.toNat d.toNat 0x0B, 0) from rfl]
  dsimp only
  generalize hw0 : encFM 3 off.toNat a.toNat d.toNat 0x0B = w
  obtain ⟨l, f1, f7, f12, f17, f27⟩ := fields_FM hw0 (by decide) (by omega) (by omega) (by omega) (by decide)
  rw [decode_short w l]
  have e1 : BitVec.ofNat 10 (w / 131072) = off := (ofNat_fld f17).trans (ofNat_self _)
  have e2 : fld w 1 6 = 11 := f1
  have e4 : fld w 27 3 = 3 := (fld_sub f27 0 3 (by decide))
  have e6 : fld w 30 1 = 0 := (fld_sub f27 3 1 (by decide))
  have e7 : fld w 31 1 = 0 := (fld_sub f27 4 1 (by decide))
  have e8 : fldA w = a := (ofNat_fld f12).trans (ofNat_self _)
  have e9 : fldD w = d := (ofNat_fld f7).trans (ofNat_self _)
  simp [decodeShort, decodeLoad, e1, e2, e4, e6, e7, e8, e9, need_true]

theorem RoundTrip.ldbN (d : GReg) (a : GReg) (off : BitVec 10) : RoundTrip.Statement (.ldbN d a off) := by
  intro _ hwf
  have h_d := d.isLt
  have h_a := a.isLt
  have h_off := off.isLt
  rw [show encode (.ldbN d a off) = (encFM 4 off.toNat a.toNat d.toNat 0x0B, 0) from rfl]
  dsimp only
  generalize hw0 : encFM 4 off.toNat a.toNat d.toNat 0x0B = w
  obtain ⟨l, f1, f7, f12, f17, f27⟩ := fields_FM hw0 (by decide) (by omega) (by omega) (by omega) (by decide)
  rw [decode_short w l]
  have e1 : BitVec.ofNat 10 (w / 131072) = off := (ofNat_fld f17).trans (ofNat_self _)
  have e2 : fld w 1 6 = 11 := f1
  have e4 : fld w 27 3 = 4 := (fld_sub f27 0 3 (by decide))
  have e6 : fld w 30 1 = 0 := (fld_sub f27 3 1 (by decide))
  have e7 : fld w 31 1 = 0 := (fld_sub f27 4 1 (by decide))
  have e8 : fldA w = a := (ofNat_fld f12).trans (ofNat_self _)
  have e9 : fldD w = d := (ofNat_fld f7).trans (ofNat_self _)
  simp [decodeShort, decodeLoad, e1, e2, e4, e6, e7, e8, e9, need_true]

theorem RoundTrip.ldhN (d : GReg) (a : GReg) (off : BitVec 10) : RoundTrip.Statement (.ldhN d a off) := by
  intro _ hwf
  have h_d := d.isLt
  have h_a := a.isLt
  have h_off := off.isLt
  rw [show encode (.ldhN d a off) = (encFM 5 off.toNat a.toNat d.toNat 0x0B, 0) from rfl]
  dsimp only
  generalize hw0 : encFM 5 off.toNat a.toNat d.toNat 0x0B = w
  obtain ⟨l, f1, f7, f12, f17, f27⟩ := fields_FM hw0 (by decide) (by omega) (by omega) (by omega) (by decide)
  rw [decode_short w l]
  have e1 : BitVec.ofNat 10 (w / 131072) = off := (ofNat_fld f17).trans (ofNat_self _)
  have e2 : fld w 1 6 = 11 := f1
  have e4 : fld w 27 3 = 5 := (fld_sub f27 0 3 (by decide))
  have e6 : fld w 30 1 = 0 := (fld_sub f27 3 1 (by decide))
  have e7 : fld w 31 1 = 0 := (fld_sub f27 4 1 (by decide))
  have e8 : fldA w = a := (ofNat_fld f12).trans (ofNat_self _)
  have e9 : fldD w = d := (ofNat_fld f7).trans (ofNat_self _)
  simp [decodeShort, decodeLoad, e1, e2, e4, e6, e7, e8, e9, need_true]

theorem RoundTrip.ldwN (d : GReg) (a : GReg) (off : BitVec 10) : RoundTrip.Statement (.ldwN d a off) := by
  intro _ hwf
  have h_d := d.isLt
  have h_a := a.isLt
  have h_off := off.isLt
  rw [show encode (.ldwN d a off) = (encFM 6 off.toNat a.toNat d.toNat 0x0B, 0) from rfl]
  dsimp only
  generalize hw0 : encFM 6 off.toNat a.toNat d.toNat 0x0B = w
  obtain ⟨l, f1, f7, f12, f17, f27⟩ := fields_FM hw0 (by decide) (by omega) (by omega) (by omega) (by decide)
  rw [decode_short w l]
  have e1 : BitVec.ofNat 10 (w / 131072) = off := (ofNat_fld f17).trans (ofNat_self _)
  have e2 : fld w 1 6 = 11 := f1
  have e4 : fld w 27 3 = 6 := (fld_sub f27 0 3 (by decide))
  have e6 : fld w 30 1 = 0 := (fld_sub f27 3 1 (by decide))
  have e7 : fld w 31 1 = 0 := (fld_sub f27 4 1 (by decide))
  have e8 : fldA w = a := (ofNat_fld f12).trans (ofNat_self _)
  have e9 : fldD w = d := (ofNat_fld f7).trans (ofNat_self _)
  simp [decodeShort, decodeLoad, e1, e2, e4, e6, e7, e8, e9, need_true]

theorem RoundTrip.ldaq (d : GReg) (a : GReg) (n : Bool) (sz : Size) (sc : Scope) : RoundTrip.Statement (.ldaq d a n sz sc) := by
  intro _ hwf
  have h_d := d.isLt
  have h_a := a.isLt
  have h_n := bit_lt n
  have h_sz := Size.code_lt sz
  have h_sc := Scope.code_lt sc
  rw [show encode (.ldaq d a n sz sc) = (encFM (8 + bit n * 4 + sz.code) sc.code a.toNat d.toNat 0x0B, 0) from rfl]
  dsimp only
  generalize hw0 : encFM (8 + bit n * 4 + sz.code) sc.code a.toNat d.toNat 0x0B = w
  obtain ⟨l, f1, f7, f12, f17, f27⟩ := fields_FM hw0 (by omega) (by omega) (by omega) (by omega) (by decide)
  rw [decode_short w l]
  have e2 : fld w 1 6 = 11 := f1
  have e3 : fld w 17 3 = sc.code := (fld_sub f17 0 3 (by decide)).trans (by unfold fld; omega)
  have e4 : fld w 20 7 = 0 := (fld_sub f17 3 7 (by decide)).trans (by unfold fld; omega)
  have e5 : fld w 27 2 = sz.code := (fld_sub f27 0 2 (by decide)).trans (by unfold fld; omega)
  have e6 : fld w 27 3 = sz.code + bit n * 2 ^ 2 := (fld_sub f27 0 3 (by decide)).trans (by unfold fld; omega)
  have e7 : fld w 29 1 = bit n := (fld_sub f27 2 1 (by decide)).trans (by unfold fld; omega)
  have e8 : fld w 30 1 = 1 := (fld_sub f27 3 1 (by decide)).trans (by unfold fld; omega)
  have e9 : fld w 31 1 = 0 := (fld_sub f27 4 1 (by decide)).trans (by unfold fld; omega)
  have e10 : fldA w = a := (ofNat_fld f12).trans (ofNat_self _)
  have e11 : fldD w = d := (ofNat_fld f7).trans (ofNat_self _)
  simp [decodeShort, decodeLoad, e2, e3, e4, e5, e6, e7, e8, e9, e10, e11, withVal_some, need_true, Scope.of_code, Size.of_code, bit_one]
  cases sz <;> cases n <;> first | rfl | exact absurd hwf Bool.false_ne_true

theorem RoundTrip.stb (d : GReg) (a : GReg) (off : BitVec 10) : RoundTrip.Statement (.stb d a off) := by
  intro _ hwf
  have h_d := d.isLt
  have h_a := a.isLt
  have h_off := off.isLt
  rw [show encode (.stb d a off) = (encFM 0 off.toNat a.toNat d.toNat 0x0C, 0) from rfl]
  dsimp only
  generalize hw0 : encFM 0 off.toNat a.toNat d.toNat 0x0C = w
  obtain ⟨l, f1, f7, f12, f17, f27⟩ := fields_FM hw0 (by decide) (by omega) (by omega) (by omega) (by decide)
  rw [decode_short w l]
  have e1 : BitVec.ofNat 10 (w / 131072) = off := (ofNat_fld f17).trans (ofNat_self _)
  have e2 : fld w 1 6 = 12 := f1
  have e3 : fld w 27 2 = 0 := (fld_sub f27 0 2 (by decide))
  have e4 : fld w 29 1 = 0 := (fld_sub f27 2 1 (by decide))
  have e5 : fld w 30 1 = 0 := (fld_sub f27 3 1 (by decide))
  have e6 : fld w 31 1 = 0 := (fld_sub f27 4 1 (by decide))
  have e7 : fldA w = a := (ofNat_fld f12).trans (ofNat_self _)
  have e8 : fldD w = d := (ofNat_fld f7).trans (ofNat_self _)
  simp [decodeShort, decodeStore, e1, e2, e3, e4, e5, e6, e7, e8, need_true]

theorem RoundTrip.sth (d : GReg) (a : GReg) (off : BitVec 10) : RoundTrip.Statement (.sth d a off) := by
  intro _ hwf
  have h_d := d.isLt
  have h_a := a.isLt
  have h_off := off.isLt
  rw [show encode (.sth d a off) = (encFM 1 off.toNat a.toNat d.toNat 0x0C, 0) from rfl]
  dsimp only
  generalize hw0 : encFM 1 off.toNat a.toNat d.toNat 0x0C = w
  obtain ⟨l, f1, f7, f12, f17, f27⟩ := fields_FM hw0 (by decide) (by omega) (by omega) (by omega) (by decide)
  rw [decode_short w l]
  have e1 : BitVec.ofNat 10 (w / 131072) = off := (ofNat_fld f17).trans (ofNat_self _)
  have e2 : fld w 1 6 = 12 := f1
  have e3 : fld w 27 2 = 1 := (fld_sub f27 0 2 (by decide))
  have e4 : fld w 29 1 = 0 := (fld_sub f27 2 1 (by decide))
  have e5 : fld w 30 1 = 0 := (fld_sub f27 3 1 (by decide))
  have e6 : fld w 31 1 = 0 := (fld_sub f27 4 1 (by decide))
  have e7 : fldA w = a := (ofNat_fld f12).trans (ofNat_self _)
  have e8 : fldD w = d := (ofNat_fld f7).trans (ofNat_self _)
  simp [decodeShort, decodeStore, e1, e2, e3, e4, e5, e6, e7, e8, need_true]

theorem RoundTrip.stw (d : GReg) (a : GReg) (off : BitVec 10) : RoundTrip.Statement (.stw d a off) := by
  intro _ hwf
  have h_d := d.isLt
  have h_a := a.isLt
  have h_off := off.isLt
  rw [show encode (.stw d a off) = (encFM 2 off.toNat a.toNat d.toNat 0x0C, 0) from rfl]
  dsimp only
  generalize hw0 : encFM 2 off.toNat a.toNat d.toNat 0x0C = w
  obtain ⟨l, f1, f7, f12, f17, f27⟩ := fields_FM hw0 (by decide) (by omega) (by omega) (by omega) (by decide)
  rw [decode_short w l]
  have e1 : BitVec.ofNat 10 (w / 131072) = off := (ofNat_fld f17).trans (ofNat_self _)
  have e2 : fld w 1 6 = 12 := f1
  have e3 : fld w 27 2 = 2 := (fld_sub f27 0 2 (by decide))
  have e4 : fld w 29 1 = 0 := (fld_sub f27 2 1 (by decide))
  have e5 : fld w 30 1 = 0 := (fld_sub f27 3 1 (by decide))
  have e6 : fld w 31 1 = 0 := (fld_sub f27 4 1 (by decide))
  have e7 : fldA w = a := (ofNat_fld f12).trans (ofNat_self _)
  have e8 : fldD w = d := (ofNat_fld f7).trans (ofNat_self _)
  simp [decodeShort, decodeStore, e1, e2, e3, e4, e5, e6, e7, e8, need_true]

theorem RoundTrip.std (d : GReg) (a : GReg) (off : BitVec 10) : RoundTrip.Statement (.std d a off) := by
  intro _ hwf
  have h_d := d.isLt
  have h_a := a.isLt
  have h_off := off.isLt
  rw [show encode (.std d a off) = (encFM 3 off.toNat a.toNat d.toNat 0x0C, 0) from rfl]
  dsimp only
  generalize hw0 : encFM 3 off.toNat a.toNat d.toNat 0x0C = w
  obtain ⟨l, f1, f7, f12, f17, f27⟩ := fields_FM hw0 (by decide) (by omega) (by omega) (by omega) (by decide)
  rw [decode_short w l]
  have e1 : BitVec.ofNat 10 (w / 131072) = off := (ofNat_fld f17).trans (ofNat_self _)
  have e2 : fld w 1 6 = 12 := f1
  have e3 : fld w 27 2 = 3 := (fld_sub f27 0 2 (by decide))
  have e4 : fld w 29 1 = 0 := (fld_sub f27 2 1 (by decide))
  have e5 : fld w 30 1 = 0 := (fld_sub f27 3 1 (by decide))
  have e6 : fld w 31 1 = 0 := (fld_sub f27 4 1 (by decide))
  have e7 : fldA w = a := (ofNat_fld f12).trans (ofNat_self _)
  have e8 : fldD w = d := (ofNat_fld f7).trans (ofNat_self _)
  simp [decodeShort, decodeStore, e1, e2, e3, e4, e5, e6, e7, e8, need_true]

theorem RoundTrip.strel (d : GReg) (a : GReg) (sz : Size) (sc : Scope) : RoundTrip.Statement (.strel d a sz sc) := by
  intro _ hwf
  have h_d := d.isLt
  have h_a := a.isLt
  have h_sz := Size.code_lt sz
  have h_sc := Scope.code_lt sc
  rw [show encode (.strel d a sz sc) = (encFM (8 + sz.code) sc.code a.toNat d.toNat 0x0C, 0) from rfl]
  dsimp only
  generalize hw0 : encFM (8 + sz.code) sc.code a.toNat d.toNat 0x0C = w
  obtain ⟨l, f1, f7, f12, f17, f27⟩ := fields_FM hw0 (by omega) (by omega) (by omega) (by omega) (by decide)
  rw [decode_short w l]
  have e2 : fld w 1 6 = 12 := f1
  have e3 : fld w 17 3 = sc.code := (fld_sub f17 0 3 (by decide)).trans (by unfold fld; omega)
  have e4 : fld w 20 7 = 0 := (fld_sub f17 3 7 (by decide)).trans (by unfold fld; omega)
  have e5 : fld w 27 2 = sz.code := (fld_sub f27 0 2 (by decide)).trans (by unfold fld; omega)
  have e6 : fld w 29 1 = 0 := (fld_sub f27 2 1 (by decide)).trans (by unfold fld; omega)
  have e7 : fld w 30 1 = 1 := (fld_sub f27 3 1 (by decide)).trans (by unfold fld; omega)
  have e8 : fld w 31 1 = 0 := (fld_sub f27 4 1 (by decide)).trans (by unfold fld; omega)
  have e9 : fldA w = a := (ofNat_fld f12).trans (ofNat_self _)
  have e10 : fldD w = d := (ofNat_fld f7).trans (ofNat_self _)
  simp [decodeShort, decodeStore, e2, e3, e4, e5, e6, e7, e8, e9, e10, withVal_some, need_true, Scope.of_code, Size.of_code]

theorem RoundTrip.amoadd (d : GReg) (a : GReg) (b : GReg) (o : MemOrd) (sc : Scope) (sz : WSize) : RoundTrip.Statement (.amoadd d a b o sc sz) := by
  intro _ hwf
  have h_d := d.isLt
  have h_a := a.isLt
  have h_b := b.isLt
  have h_o := MemOrd.code_lt o
  have h_sc := Scope.code_lt sc
  have h_sz := WSize.code_lt sz
  rw [show encode (.amoadd d a b o sc sz) = (encF3 (0 * 2 ^ 7 + o.code * 2 ^ 5 + sc.code * 2 ^ 2 + sz.code * 2) b.toNat a.toNat d.toNat 0x0D, 0) from rfl]
  dsimp only
  generalize hw0 : encF3 (0 * 2 ^ 7 + o.code * 2 ^ 5 + sc.code * 2 ^ 2 + sz.code * 2) b.toNat a.toNat d.toNat 0x0D = w
  obtain ⟨l, f1, f7, f12, f17, f22⟩ := fields_F3 hw0 (by omega) (by omega) (by omega) (by omega) (by decide)
  rw [decode_short w l]
  have e1 : fld w 1 6 = 13 := f1
  have e2 : fld w 22 1 = 0 := (fld_sub f22 0 1 (by decide)).trans (by unfold fld; omega)
  have e3 : fld w 23 1 = sz.code := (fld_sub f22 1 1 (by decide)).trans (by unfold fld; omega)
  have e4 : fld w 24 3 = sc.code := (fld_sub f22 2 3 (by decide)).trans (by unfold fld; omega)
  have e5 : fld w 27 2 = o.code := (fld_sub f22 5 2 (by decide)).trans (by unfold fld; omega)
  have e6 : fld w 29 3 = 0 := (fld_sub f22 7 3 (by decide)).trans (by unfold fld; omega)
  have e7 : fldA w = a := (ofNat_fld f12).trans (ofNat_self _)
  have e8 : fldB w = b := (ofNat_fld f17).trans (ofNat_self _)
  have e9 : fldD w = d := (ofNat_fld f7).trans (ofNat_self _)
  simp [decodeShort, decodeAmo, e1, e2, e3, e4, e5, e6, e7, e8, e9, withVal_some, need_true, MemOrd.of_code, Scope.of_code, WSize.of_code]

theorem RoundTrip.amoand (d : GReg) (a : GReg) (b : GReg) (o : MemOrd) (sc : Scope) (sz : WSize) : RoundTrip.Statement (.amoand d a b o sc sz) := by
  intro _ hwf
  have h_d := d.isLt
  have h_a := a.isLt
  have h_b := b.isLt
  have h_o := MemOrd.code_lt o
  have h_sc := Scope.code_lt sc
  have h_sz := WSize.code_lt sz
  rw [show encode (.amoand d a b o sc sz) = (encF3 (1 * 2 ^ 7 + o.code * 2 ^ 5 + sc.code * 2 ^ 2 + sz.code * 2) b.toNat a.toNat d.toNat 0x0D, 0) from rfl]
  dsimp only
  generalize hw0 : encF3 (1 * 2 ^ 7 + o.code * 2 ^ 5 + sc.code * 2 ^ 2 + sz.code * 2) b.toNat a.toNat d.toNat 0x0D = w
  obtain ⟨l, f1, f7, f12, f17, f22⟩ := fields_F3 hw0 (by omega) (by omega) (by omega) (by omega) (by decide)
  rw [decode_short w l]
  have e1 : fld w 1 6 = 13 := f1
  have e2 : fld w 22 1 = 0 := (fld_sub f22 0 1 (by decide)).trans (by unfold fld; omega)
  have e3 : fld w 23 1 = sz.code := (fld_sub f22 1 1 (by decide)).trans (by unfold fld; omega)
  have e4 : fld w 24 3 = sc.code := (fld_sub f22 2 3 (by decide)).trans (by unfold fld; omega)
  have e5 : fld w 27 2 = o.code := (fld_sub f22 5 2 (by decide)).trans (by unfold fld; omega)
  have e6 : fld w 29 3 = 1 := (fld_sub f22 7 3 (by decide)).trans (by unfold fld; omega)
  have e7 : fldA w = a := (ofNat_fld f12).trans (ofNat_self _)
  have e8 : fldB w = b := (ofNat_fld f17).trans (ofNat_self _)
  have e9 : fldD w = d := (ofNat_fld f7).trans (ofNat_self _)
  simp [decodeShort, decodeAmo, e1, e2, e3, e4, e5, e6, e7, e8, e9, withVal_some, need_true, MemOrd.of_code, Scope.of_code, WSize.of_code]

theorem RoundTrip.amoor (d : GReg) (a : GReg) (b : GReg) (o : MemOrd) (sc : Scope) (sz : WSize) : RoundTrip.Statement (.amoor d a b o sc sz) := by
  intro _ hwf
  have h_d := d.isLt
  have h_a := a.isLt
  have h_b := b.isLt
  have h_o := MemOrd.code_lt o
  have h_sc := Scope.code_lt sc
  have h_sz := WSize.code_lt sz
  rw [show encode (.amoor d a b o sc sz) = (encF3 (2 * 2 ^ 7 + o.code * 2 ^ 5 + sc.code * 2 ^ 2 + sz.code * 2) b.toNat a.toNat d.toNat 0x0D, 0) from rfl]
  dsimp only
  generalize hw0 : encF3 (2 * 2 ^ 7 + o.code * 2 ^ 5 + sc.code * 2 ^ 2 + sz.code * 2) b.toNat a.toNat d.toNat 0x0D = w
  obtain ⟨l, f1, f7, f12, f17, f22⟩ := fields_F3 hw0 (by omega) (by omega) (by omega) (by omega) (by decide)
  rw [decode_short w l]
  have e1 : fld w 1 6 = 13 := f1
  have e2 : fld w 22 1 = 0 := (fld_sub f22 0 1 (by decide)).trans (by unfold fld; omega)
  have e3 : fld w 23 1 = sz.code := (fld_sub f22 1 1 (by decide)).trans (by unfold fld; omega)
  have e4 : fld w 24 3 = sc.code := (fld_sub f22 2 3 (by decide)).trans (by unfold fld; omega)
  have e5 : fld w 27 2 = o.code := (fld_sub f22 5 2 (by decide)).trans (by unfold fld; omega)
  have e6 : fld w 29 3 = 2 := (fld_sub f22 7 3 (by decide)).trans (by unfold fld; omega)
  have e7 : fldA w = a := (ofNat_fld f12).trans (ofNat_self _)
  have e8 : fldB w = b := (ofNat_fld f17).trans (ofNat_self _)
  have e9 : fldD w = d := (ofNat_fld f7).trans (ofNat_self _)
  simp [decodeShort, decodeAmo, e1, e2, e3, e4, e5, e6, e7, e8, e9, withVal_some, need_true, MemOrd.of_code, Scope.of_code, WSize.of_code]

theorem RoundTrip.amoxor (d : GReg) (a : GReg) (b : GReg) (o : MemOrd) (sc : Scope) (sz : WSize) : RoundTrip.Statement (.amoxor d a b o sc sz) := by
  intro _ hwf
  have h_d := d.isLt
  have h_a := a.isLt
  have h_b := b.isLt
  have h_o := MemOrd.code_lt o
  have h_sc := Scope.code_lt sc
  have h_sz := WSize.code_lt sz
  rw [show encode (.amoxor d a b o sc sz) = (encF3 (3 * 2 ^ 7 + o.code * 2 ^ 5 + sc.code * 2 ^ 2 + sz.code * 2) b.toNat a.toNat d.toNat 0x0D, 0) from rfl]
  dsimp only
  generalize hw0 : encF3 (3 * 2 ^ 7 + o.code * 2 ^ 5 + sc.code * 2 ^ 2 + sz.code * 2) b.toNat a.toNat d.toNat 0x0D = w
  obtain ⟨l, f1, f7, f12, f17, f22⟩ := fields_F3 hw0 (by omega) (by omega) (by omega) (by omega) (by decide)
  rw [decode_short w l]
  have e1 : fld w 1 6 = 13 := f1
  have e2 : fld w 22 1 = 0 := (fld_sub f22 0 1 (by decide)).trans (by unfold fld; omega)
  have e3 : fld w 23 1 = sz.code := (fld_sub f22 1 1 (by decide)).trans (by unfold fld; omega)
  have e4 : fld w 24 3 = sc.code := (fld_sub f22 2 3 (by decide)).trans (by unfold fld; omega)
  have e5 : fld w 27 2 = o.code := (fld_sub f22 5 2 (by decide)).trans (by unfold fld; omega)
  have e6 : fld w 29 3 = 3 := (fld_sub f22 7 3 (by decide)).trans (by unfold fld; omega)
  have e7 : fldA w = a := (ofNat_fld f12).trans (ofNat_self _)
  have e8 : fldB w = b := (ofNat_fld f17).trans (ofNat_self _)
  have e9 : fldD w = d := (ofNat_fld f7).trans (ofNat_self _)
  simp [decodeShort, decodeAmo, e1, e2, e3, e4, e5, e6, e7, e8, e9, withVal_some, need_true, MemOrd.of_code, Scope.of_code, WSize.of_code]

theorem RoundTrip.amomin (d : GReg) (a : GReg) (b : GReg) (o : MemOrd) (sc : Scope) (sz : WSize) (n : Bool) : RoundTrip.Statement (.amomin d a b o sc sz n) := by
  intro _ hwf
  have h_d := d.isLt
  have h_a := a.isLt
  have h_b := b.isLt
  have h_o := MemOrd.code_lt o
  have h_sc := Scope.code_lt sc
  have h_sz := WSize.code_lt sz
  have h_n := bit_lt n
  rw [show encode (.amomin d a b o sc sz n) = (encF3 (4 * 2 ^ 7 + o.code * 2 ^ 5 + sc.code * 2 ^ 2 + sz.code * 2 + bit n) b.toNat a.toNat d.toNat 0x0D, 0) from rfl]
  dsimp only
  generalize hw0 : encF3 (4 * 2 ^ 7 + o.code * 2 ^ 5 + sc.code * 2 ^ 2 + sz.code * 2 + bit n) b.toNat a.toNat d.toNat 0x0D = w
  obtain ⟨l, f1, f7, f12, f17, f22⟩ := fields_F3 hw0 (by omega) (by omega) (by omega) (by omega) (by decide)
  rw [decode_short w l]
  have e1 : fld w 1 6 = 13 := f1
  have e2 : fld w 22 1 = bit n := (fld_sub f22 0 1 (by decide)).trans (by unfold fld; omega)
  have e3 : fld w 23 1 = sz.code := (fld_sub f22 1 1 (by decide)).trans (by unfold fld; omega)
  have e4 : fld w 24 3 = sc.code := (fld_sub f22 2 3 (by decide)).trans (by unfold fld; omega)
  have e5 : fld w 27 2 = o.code := (fld_sub f22 5 2 (by decide)).trans (by unfold fld; omega)
  have e6 : fld w 29 3 = 4 := (fld_sub f22 7 3 (by decide)).trans (by unfold fld; omega)
  have e7 : fldA w = a := (ofNat_fld f12).trans (ofNat_self _)
  have e8 : fldB w = b := (ofNat_fld f17).trans (ofNat_self _)
  have e9 : fldD w = d := (ofNat_fld f7).trans (ofNat_self _)
  simp [decodeShort, decodeAmo, e1, e2, e3, e4, e5, e6, e7, e8, e9, withVal_some, MemOrd.of_code, Scope.of_code, WSize.of_code, bit_one]

theorem RoundTrip.amomax (d : GReg) (a : GReg) (b : GReg) (o : MemOrd) (sc : Scope) (sz : WSize) (n : Bool) : RoundTrip.Statement (.amomax d a b o sc sz n) := by
  intro _ hwf
  have h_d := d.isLt
  have h_a := a.isLt
  have h_b := b.isLt
  have h_o := MemOrd.code_lt o
  have h_sc := Scope.code_lt sc
  have h_sz := WSize.code_lt sz
  have h_n := bit_lt n
  rw [show encode (.amomax d a b o sc sz n) = (encF3 (5 * 2 ^ 7 + o.code * 2 ^ 5 + sc.code * 2 ^ 2 + sz.code * 2 + bit n) b.toNat a.toNat d.toNat 0x0D, 0) from rfl]
  dsimp only
  generalize hw0 : encF3 (5 * 2 ^ 7 + o.code * 2 ^ 5 + sc.code * 2 ^ 2 + sz.code * 2 + bit n) b.toNat a.toNat d.toNat 0x0D = w
  obtain ⟨l, f1, f7, f12, f17, f22⟩ := fields_F3 hw0 (by omega) (by omega) (by omega) (by omega) (by decide)
  rw [decode_short w l]
  have e1 : fld w 1 6 = 13 := f1
  have e2 : fld w 22 1 = bit n := (fld_sub f22 0 1 (by decide)).trans (by unfold fld; omega)
  have e3 : fld w 23 1 = sz.code := (fld_sub f22 1 1 (by decide)).trans (by unfold fld; omega)
  have e4 : fld w 24 3 = sc.code := (fld_sub f22 2 3 (by decide)).trans (by unfold fld; omega)
  have e5 : fld w 27 2 = o.code := (fld_sub f22 5 2 (by decide)).trans (by unfold fld; omega)
  have e6 : fld w 29 3 = 5 := (fld_sub f22 7 3 (by decide)).trans (by unfold fld; omega)
  have e7 : fldA w = a := (ofNat_fld f12).trans (ofNat_self _)
  have e8 : fldB w = b := (ofNat_fld f17).trans (ofNat_self _)
  have e9 : fldD w = d := (ofNat_fld f7).trans (ofNat_self _)
  simp [decodeShort, decodeAmo, e1, e2, e3, e4, e5, e6, e7, e8, e9, withVal_some, MemOrd.of_code, Scope.of_code, WSize.of_code, bit_one]

theorem RoundTrip.amoswp (d : GReg) (a : GReg) (b : GReg) (o : MemOrd) (sc : Scope) (sz : WSize) : RoundTrip.Statement (.amoswp d a b o sc sz) := by
  intro _ hwf
  have h_d := d.isLt
  have h_a := a.isLt
  have h_b := b.isLt
  have h_o := MemOrd.code_lt o
  have h_sc := Scope.code_lt sc
  have h_sz := WSize.code_lt sz
  rw [show encode (.amoswp d a b o sc sz) = (encF3 (6 * 2 ^ 7 + o.code * 2 ^ 5 + sc.code * 2 ^ 2 + sz.code * 2) b.toNat a.toNat d.toNat 0x0D, 0) from rfl]
  dsimp only
  generalize hw0 : encF3 (6 * 2 ^ 7 + o.code * 2 ^ 5 + sc.code * 2 ^ 2 + sz.code * 2) b.toNat a.toNat d.toNat 0x0D = w
  obtain ⟨l, f1, f7, f12, f17, f22⟩ := fields_F3 hw0 (by omega) (by omega) (by omega) (by omega) (by decide)
  rw [decode_short w l]
  have e1 : fld w 1 6 = 13 := f1
  have e2 : fld w 22 1 = 0 := (fld_sub f22 0 1 (by decide)).trans (by unfold fld; omega)
  have e3 : fld w 23 1 = sz.code := (fld_sub f22 1 1 (by decide)).trans (by unfold fld; omega)
  have e4 : fld w 24 3 = sc.code := (fld_sub f22 2 3 (by decide)).trans (by unfold fld; omega)
  have e5 : fld w 27 2 = o.code := (fld_sub f22 5 2 (by decide)).trans (by unfold fld; omega)
  have e6 : fld w 29 3 = 6 := (fld_sub f22 7 3 (by decide)).trans (by unfold fld; omega)
  have e7 : fldA w = a := (ofNat_fld f12).trans (ofNat_self _)
  have e8 : fldB w = b := (ofNat_fld f17).trans (ofNat_self _)
  have e9 : fldD w = d := (ofNat_fld f7).trans (ofNat_self _)
  simp [decodeShort, decodeAmo, e1, e2, e3, e4, e5, e6, e7, e8, e9, withVal_some, need_true, MemOrd.of_code, Scope.of_code, WSize.of_code]

theorem RoundTrip.amocas (d : GReg) (a : GReg) (b : GReg) (o : MemOrd) (sc : Scope) (sz : WSize) : RoundTrip.Statement (.amocas d a b o sc sz) := by
  intro _ hwf
  have h_d := d.isLt
  have h_a := a.isLt
  have h_b := b.isLt
  have h_o := MemOrd.code_lt o
  have h_sc := Scope.code_lt sc
  have h_sz := WSize.code_lt sz
  rw [show encode (.amocas d a b o sc sz) = (encF3 (7 * 2 ^ 7 + o.code * 2 ^ 5 + sc.code * 2 ^ 2 + sz.code * 2) b.toNat a.toNat d.toNat 0x0D, 0) from rfl]
  dsimp only
  generalize hw0 : encF3 (7 * 2 ^ 7 + o.code * 2 ^ 5 + sc.code * 2 ^ 2 + sz.code * 2) b.toNat a.toNat d.toNat 0x0D = w
  obtain ⟨l, f1, f7, f12, f17, f22⟩ := fields_F3 hw0 (by omega) (by omega) (by omega) (by omega) (by decide)
  rw [decode_short w l]
  have e1 : fld w 1 6 = 13 := f1
  have e2 : fld w 22 1 = 0 := (fld_sub f22 0 1 (by decide)).trans (by unfold fld; omega)
  have e3 : fld w 23 1 = sz.code := (fld_sub f22 1 1 (by decide)).trans (by unfold fld; omega)
  have e4 : fld w 24 3 = sc.code := (fld_sub f22 2 3 (by decide)).trans (by unfold fld; omega)
  have e5 : fld w 27 2 = o.code := (fld_sub f22 5 2 (by decide)).trans (by unfold fld; omega)
  have e6 : fld w 29 3 = 7 := (fld_sub f22 7 3 (by decide)).trans (by unfold fld; omega)
  have e7 : fldA w = a := (ofNat_fld f12).trans (ofNat_self _)
  have e8 : fldB w = b := (ofNat_fld f17).trans (ofNat_self _)
  have e9 : fldD w = d := (ofNat_fld f7).trans (ofNat_self _)
  simp [decodeShort, decodeAmo, e1, e2, e3, e4, e5, e6, e7, e8, e9, withVal_some, need_true, MemOrd.of_code, Scope.of_code, WSize.of_code]

theorem RoundTrip.beq (a : GReg) (b : GReg) (off : BitVec 10) : RoundTrip.Statement (.beq a b off) := by
  intro _ hwf
  have h_a := a.isLt
  have h_b := b.isLt
  have h_off := off.isLt
  rw [show encode (.beq a b off) = (encF3 off.toNat b.toNat a.toNat 0 0x0E, 0) from rfl]
  dsimp only
  generalize hw0 : encF3 off.toNat b.toNat a.toNat 0 0x0E = w
  obtain ⟨l, f1, f7, f12, f17, f22⟩ := fields_F3 hw0 (by omega) (by omega) (by omega) (by decide) (by decide)
  rw [decode_short w l]
  have e1 : BitVec.ofNat 10 (w / 4194304) = off := (ofNat_fld f22).trans (ofNat_self _)
  have e2 : fld w 1 6 = 14 := f1
  have e3 : fld w 7 5 = 0 := f7
  have e4 : fldA w = a := (ofNat_fld f12).trans (ofNat_self _)
  have e5 : fldB w = b := (ofNat_fld f17).trans (ofNat_self _)
  simp [decodeShort, decodeBranch, e1, e2, e3, e4, e5]

theorem RoundTrip.bne (a : GReg) (b : GReg) (off : BitVec 10) : RoundTrip.Statement (.bne a b off) := by
  intro _ hwf
  have h_a := a.isLt
  have h_b := b.isLt
  have h_off := off.isLt
  rw [show encode (.bne a b off) = (encF3 off.toNat b.toNat a.toNat 1 0x0E, 0) from rfl]
  dsimp only
  generalize hw0 : encF3 off.toNat b.toNat a.toNat 1 0x0E = w
  obtain ⟨l, f1, f7, f12, f17, f22⟩ := fields_F3 hw0 (by omega) (by omega) (by omega) (by decide) (by decide)
  rw [decode_short w l]
  have e1 : BitVec.ofNat 10 (w / 4194304) = off := (ofNat_fld f22).trans (ofNat_self _)
  have e2 : fld w 1 6 = 14 := f1
  have e3 : fld w 7 5 = 1 := f7
  have e4 : fldA w = a := (ofNat_fld f12).trans (ofNat_self _)
  have e5 : fldB w = b := (ofNat_fld f17).trans (ofNat_self _)
  simp [decodeShort, decodeBranch, e1, e2, e3, e4, e5]

theorem RoundTrip.blt (a : GReg) (b : GReg) (off : BitVec 10) : RoundTrip.Statement (.blt a b off) := by
  intro _ hwf
  have h_a := a.isLt
  have h_b := b.isLt
  have h_off := off.isLt
  rw [show encode (.blt a b off) = (encF3 off.toNat b.toNat a.toNat 2 0x0E, 0) from rfl]
  dsimp only
  generalize hw0 : encF3 off.toNat b.toNat a.toNat 2 0x0E = w
  obtain ⟨l, f1, f7, f12, f17, f22⟩ := fields_F3 hw0 (by omega) (by omega) (by omega) (by decide) (by decide)
  rw [decode_short w l]
  have e1 : BitVec.ofNat 10 (w / 4194304) = off := (ofNat_fld f22).trans (ofNat_self _)
  have e2 : fld w 1 6 = 14 := f1
  have e3 : fld w 7 5 = 2 := f7
  have e4 : fldA w = a := (ofNat_fld f12).trans (ofNat_self _)
  have e5 : fldB w = b := (ofNat_fld f17).trans (ofNat_self _)
  simp [decodeShort, decodeBranch, e1, e2, e3, e4, e5]

theorem RoundTrip.bge (a : GReg) (b : GReg) (off : BitVec 10) : RoundTrip.Statement (.bge a b off) := by
  intro _ hwf
  have h_a := a.isLt
  have h_b := b.isLt
  have h_off := off.isLt
  rw [show encode (.bge a b off) = (encF3 off.toNat b.toNat a.toNat 3 0x0E, 0) from rfl]
  dsimp only
  generalize hw0 : encF3 off.toNat b.toNat a.toNat 3 0x0E = w
  obtain ⟨l, f1, f7, f12, f17, f22⟩ := fields_F3 hw0 (by omega) (by omega) (by omega) (by decide) (by decide)
  rw [decode_short w l]
  have e1 : BitVec.ofNat 10 (w / 4194304) = off := (ofNat_fld f22).trans (ofNat_self _)
  have e2 : fld w 1 6 = 14 := f1
  have e3 : fld w 7 5 = 3 := f7
  have e4 : fldA w = a := (ofNat_fld f12).trans (ofNat_self _)
  have e5 : fldB w = b := (ofNat_fld f17).trans (ofNat_self _)
  simp [decodeShort, decodeBranch, e1, e2, e3, e4, e5]

theorem RoundTrip.bltn (a : GReg) (b : GReg) (off : BitVec 10) : RoundTrip.Statement (.bltn a b off) := by
  intro _ hwf
  have h_a := a.isLt
  have h_b := b.isLt
  have h_off := off.isLt
  rw [show encode (.bltn a b off) = (encF3 off.toNat b.toNat a.toNat 4 0x0E, 0) from rfl]
  dsimp only
  generalize hw0 : encF3 off.toNat b.toNat a.toNat 4 0x0E = w
  obtain ⟨l, f1, f7, f12, f17, f22⟩ := fields_F3 hw0 (by omega) (by omega) (by omega) (by decide) (by decide)
  rw [decode_short w l]
  have e1 : BitVec.ofNat 10 (w / 4194304) = off := (ofNat_fld f22).trans (ofNat_self _)
  have e2 : fld w 1 6 = 14 := f1
  have e3 : fld w 7 5 = 4 := f7
  have e4 : fldA w = a := (ofNat_fld f12).trans (ofNat_self _)
  have e5 : fldB w = b := (ofNat_fld f17).trans (ofNat_self _)
  simp [decodeShort, decodeBranch, e1, e2, e3, e4, e5]

theorem RoundTrip.bgen (a : GReg) (b : GReg) (off : BitVec 10) : RoundTrip.Statement (.bgen a b off) := by
  intro _ hwf
  have h_a := a.isLt
  have h_b := b.isLt
  have h_off := off.isLt
  rw [show encode (.bgen a b off) = (encF3 off.toNat b.toNat a.toNat 5 0x0E, 0) from rfl]
  dsimp only
  generalize hw0 : encF3 off.toNat b.toNat a.toNat 5 0x0E = w
  obtain ⟨l, f1, f7, f12, f17, f22⟩ := fields_F3 hw0 (by omega) (by omega) (by omega) (by decide) (by decide)
  rw [decode_short w l]
  have e1 : BitVec.ofNat 10 (w / 4194304) = off := (ofNat_fld f22).trans (ofNat_self _)
  have e2 : fld w 1 6 = 14 := f1
  have e3 : fld w 7 5 = 5 := f7
  have e4 : fldA w = a := (ofNat_fld f12).trans (ofNat_self _)
  have e5 : fldB w = b := (ofNat_fld f17).trans (ofNat_self _)
  simp [decodeShort, decodeBranch, e1, e2, e3, e4, e5]

theorem RoundTrip.jal (d : GReg) (imm : BitVec 20) : RoundTrip.Statement (.jal d imm) := by
  intro _ hwf
  have h_d := d.isLt
  have h_imm := imm.isLt
  rw [show encode (.jal d imm) = (encFU imm.toNat d.toNat 0x0F, 0) from rfl]
  dsimp only
  generalize hw0 : encFU imm.toNat d.toNat 0x0F = w
  obtain ⟨l, f1, f7, f12⟩ := fields_FU hw0 (by omega) (by omega) (by decide)
  rw [decode_short w l]
  have e1 : BitVec.ofNat 20 (w / 4096) = imm := (ofNat_fld f12).trans (ofNat_self _)
  have e2 : fld w 1 6 = 15 := f1
  have e3 : fldD w = d := (ofNat_fld f7).trans (ofNat_self _)
  simp [decodeShort, e1, e2, e3]

theorem RoundTrip.jalr (d : GReg) (a : GReg) (imm : BitVec 15) : RoundTrip.Statement (.jalr d a imm) := by
  intro _ hwf
  have h_d := d.isLt
  have h_a := a.isLt
  have h_imm := imm.isLt
  rw [show encode (.jalr d a imm) = (encFI imm.toNat a.toNat d.toNat 0x10, 0) from rfl]
  dsimp only
  generalize hw0 : encFI imm.toNat a.toNat d.toNat 0x10 = w
  obtain ⟨l, f1, f7, f12, f17⟩ := fields_FI hw0 (by omega) (by omega) (by omega) (by decide)
  rw [decode_short w l]
  have e1 : BitVec.ofNat 15 (w / 131072) = imm := (ofNat_fld f17).trans (ofNat_self _)
  have e2 : fld w 1 6 = 16 := f1
  have e3 : fldA w = a := (ofNat_fld f12).trans (ofNat_self _)
  have e4 : fldD w = d := (ofNat_fld f7).trans (ofNat_self _)
  simp [decodeShort, e1, e2, e3, e4]

theorem RoundTrip.fadd (d : GReg) (a : GReg) (b : GReg) (f : FFmt) : RoundTrip.Statement (.fadd d a b f) := by
  intro _ hwf
  have h_d := d.isLt
  have h_a := a.isLt
  have h_b := b.isLt
  have h_f := FFmt.code_lt f
  rw [show encode (.fadd d a b f) = (encFP 0 f.code 0 b.toNat a.toNat d.toNat, 0) from rfl]
  dsimp only
  generalize hw0 : encFP 0 f.code 0 b.toNat a.toNat d.toNat = w
  replace hw0 : encF3 (0 * 2 ^ 5 + f.code * 2 ^ 3 + 0) b.toNat a.toNat d.toNat 0x11 = w := hw0
  obtain ⟨l, f1, f7, f12, f17, f22⟩ := fields_F3 hw0 (by omega) (by omega) (by omega) (by omega) (by decide)
  rw [decode_short w l]
  have e1 : fld w 1 6 = 17 := f1
  have e3 : fld w 22 3 = 0 := (fld_sub f22 0 3 (by decide)).trans (by unfold fld; omega)
  have e5 : fld w 25 2 = f.code := (fld_sub f22 3 2 (by decide)).trans (by unfold fld; omega)
  have e6 : fld w 27 5 = 0 := (fld_sub f22 5 5 (by decide)).trans (by unfold fld; omega)
  have e7 : fldA w = a := (ofNat_fld f12).trans (ofNat_self _)
  have e8 : fldB w = b := (ofNat_fld f17).trans (ofNat_self _)
  have e9 : fldD w = d := (ofNat_fld f7).trans (ofNat_self _)
  simp [decodeShort, decodeFp, e1, e3, e5, e6, e7, e8, e9, withVal_some, need_true, FFmt.of_code]

theorem RoundTrip.fsub (d : GReg) (a : GReg) (b : GReg) (f : FFmt) : RoundTrip.Statement (.fsub d a b f) := by
  intro _ hwf
  have h_d := d.isLt
  have h_a := a.isLt
  have h_b := b.isLt
  have h_f := FFmt.code_lt f
  rw [show encode (.fsub d a b f) = (encFP 1 f.code 0 b.toNat a.toNat d.toNat, 0) from rfl]
  dsimp only
  generalize hw0 : encFP 1 f.code 0 b.toNat a.toNat d.toNat = w
  replace hw0 : encF3 (1 * 2 ^ 5 + f.code * 2 ^ 3 + 0) b.toNat a.toNat d.toNat 0x11 = w := hw0
  obtain ⟨l, f1, f7, f12, f17, f22⟩ := fields_F3 hw0 (by omega) (by omega) (by omega) (by omega) (by decide)
  rw [decode_short w l]
  have e1 : fld w 1 6 = 17 := f1
  have e3 : fld w 22 3 = 0 := (fld_sub f22 0 3 (by decide)).trans (by unfold fld; omega)
  have e5 : fld w 25 2 = f.code := (fld_sub f22 3 2 (by decide)).trans (by unfold fld; omega)
  have e6 : fld w 27 5 = 1 := (fld_sub f22 5 5 (by decide)).trans (by unfold fld; omega)
  have e7 : fldA w = a := (ofNat_fld f12).trans (ofNat_self _)
  have e8 : fldB w = b := (ofNat_fld f17).trans (ofNat_self _)
  have e9 : fldD w = d := (ofNat_fld f7).trans (ofNat_self _)
  simp [decodeShort, decodeFp, e1, e3, e5, e6, e7, e8, e9, withVal_some, need_true, FFmt.of_code]

theorem RoundTrip.fmul (d : GReg) (a : GReg) (b : GReg) (f : FFmt) : RoundTrip.Statement (.fmul d a b f) := by
  intro _ hwf
  have h_d := d.isLt
  have h_a := a.isLt
  have h_b := b.isLt
  have h_f := FFmt.code_lt f
  rw [show encode (.fmul d a b f) = (encFP 2 f.code 0 b.toNat a.toNat d.toNat, 0) from rfl]
  dsimp only
  generalize hw0 : encFP 2 f.code 0 b.toNat a.toNat d.toNat = w
  replace hw0 : encF3 (2 * 2 ^ 5 + f.code * 2 ^ 3 + 0) b.toNat a.toNat d.toNat 0x11 = w := hw0
  obtain ⟨l, f1, f7, f12, f17, f22⟩ := fields_F3 hw0 (by omega) (by omega) (by omega) (by omega) (by decide)
  rw [decode_short w l]
  have e1 : fld w 1 6 = 17 := f1
  have e3 : fld w 22 3 = 0 := (fld_sub f22 0 3 (by decide)).trans (by unfold fld; omega)
  have e5 : fld w 25 2 = f.code := (fld_sub f22 3 2 (by decide)).trans (by unfold fld; omega)
  have e6 : fld w 27 5 = 2 := (fld_sub f22 5 5 (by decide)).trans (by unfold fld; omega)
  have e7 : fldA w = a := (ofNat_fld f12).trans (ofNat_self _)
  have e8 : fldB w = b := (ofNat_fld f17).trans (ofNat_self _)
  have e9 : fldD w = d := (ofNat_fld f7).trans (ofNat_self _)
  simp [decodeShort, decodeFp, e1, e3, e5, e6, e7, e8, e9, withVal_some, need_true, FFmt.of_code]

theorem RoundTrip.fdiv (d : GReg) (a : GReg) (b : GReg) (f : FFmt) : RoundTrip.Statement (.fdiv d a b f) := by
  intro _ hwf
  have h_d := d.isLt
  have h_a := a.isLt
  have h_b := b.isLt
  have h_f := FFmt.code_lt f
  rw [show encode (.fdiv d a b f) = (encFP 3 f.code 0 b.toNat a.toNat d.toNat, 0) from rfl]
  dsimp only
  generalize hw0 : encFP 3 f.code 0 b.toNat a.toNat d.toNat = w
  replace hw0 : encF3 (3 * 2 ^ 5 + f.code * 2 ^ 3 + 0) b.toNat a.toNat d.toNat 0x11 = w := hw0
  obtain ⟨l, f1, f7, f12, f17, f22⟩ := fields_F3 hw0 (by omega) (by omega) (by omega) (by omega) (by decide)
  rw [decode_short w l]
  have e1 : fld w 1 6 = 17 := f1
  have e3 : fld w 22 3 = 0 := (fld_sub f22 0 3 (by decide)).trans (by unfold fld; omega)
  have e5 : fld w 25 2 = f.code := (fld_sub f22 3 2 (by decide)).trans (by unfold fld; omega)
  have e6 : fld w 27 5 = 3 := (fld_sub f22 5 5 (by decide)).trans (by unfold fld; omega)
  have e7 : fldA w = a := (ofNat_fld f12).trans (ofNat_self _)
  have e8 : fldB w = b := (ofNat_fld f17).trans (ofNat_self _)
  have e9 : fldD w = d := (ofNat_fld f7).trans (ofNat_self _)
  simp [decodeShort, decodeFp, e1, e3, e5, e6, e7, e8, e9, withVal_some, need_true, FFmt.of_code]

theorem RoundTrip.fsqrt (d : GReg) (a : GReg) (f : FFmt) : RoundTrip.Statement (.fsqrt d a f) := by
  intro _ hwf
  have h_d := d.isLt
  have h_a := a.isLt
  have h_f := FFmt.code_lt f
  rw [show encode (.fsqrt d a f) = (encFP 4 f.code 0 0 a.toNat d.toNat, 0) from rfl]
  dsimp only
  generalize hw0 : encFP 4 f.code 0 0 a.toNat d.toNat = w
  replace hw0 : encF3 (4 * 2 ^ 5 + f.code * 2 ^ 3 + 0) 0 a.toNat d.toNat 0x11 = w := hw0
  obtain ⟨l, f1, f7, f12, f17, f22⟩ := fields_F3 hw0 (by omega) (by decide) (by omega) (by omega) (by decide)
  rw [decode_short w l]
  have e1 : fld w 1 6 = 17 := f1
  have e3 : fld w 22 3 = 0 := (fld_sub f22 0 3 (by decide)).trans (by unfold fld; omega)
  have e5 : fld w 25 2 = f.code := (fld_sub f22 3 2 (by decide)).trans (by unfold fld; omega)
  have e6 : fld w 27 5 = 4 := (fld_sub f22 5 5 (by decide)).trans (by unfold fld; omega)
  have e7 : fldA w = a := (ofNat_fld f12).trans (ofNat_self _)
  have e8 : fldB w = 0 := ofNat_fld f17
  have e9 : fldD w = d := (ofNat_fld f7).trans (ofNat_self _)
  simp [decodeShort, decodeFp, e1, e3, e5, e6, e7, e8, e9, withVal_some, need_true, FFmt.of_code]

theorem RoundTrip.fmin (d : GReg) (a : GReg) (b : GReg) (f : FFmt) : RoundTrip.Statement (.fmin d a b f) := by
  intro _ hwf
  have h_d := d.isLt
  have h_a := a.isLt
  have h_b := b.isLt
  have h_f := FFmt.code_lt f
  rw [show encode (.fmin d a b f) = (encFP 5 f.code 0 b.toNat a.toNat d.toNat, 0) from rfl]
  dsimp only
  generalize hw0 : encFP 5 f.code 0 b.toNat a.toNat d.toNat = w
  replace hw0 : encF3 (5 * 2 ^ 5 + f.code * 2 ^ 3 + 0) b.toNat a.toNat d.toNat 0x11 = w := hw0
  obtain ⟨l, f1, f7, f12, f17, f22⟩ := fields_F3 hw0 (by omega) (by omega) (by omega) (by omega) (by decide)
  rw [decode_short w l]
  have e1 : fld w 1 6 = 17 := f1
  have e3 : fld w 22 3 = 0 := (fld_sub f22 0 3 (by decide)).trans (by unfold fld; omega)
  have e5 : fld w 25 2 = f.code := (fld_sub f22 3 2 (by decide)).trans (by unfold fld; omega)
  have e6 : fld w 27 5 = 5 := (fld_sub f22 5 5 (by decide)).trans (by unfold fld; omega)
  have e7 : fldA w = a := (ofNat_fld f12).trans (ofNat_self _)
  have e8 : fldB w = b := (ofNat_fld f17).trans (ofNat_self _)
  have e9 : fldD w = d := (ofNat_fld f7).trans (ofNat_self _)
  simp [decodeShort, decodeFp, e1, e3, e5, e6, e7, e8, e9, withVal_some, need_true, FFmt.of_code]

theorem RoundTrip.fmax (d : GReg) (a : GReg) (b : GReg) (f : FFmt) : RoundTrip.Statement (.fmax d a b f) := by
  intro _ hwf
  have h_d := d.isLt
  have h_a := a.isLt
  have h_b := b.isLt
  have h_f := FFmt.code_lt f
  rw [show encode (.fmax d a b f) = (encFP 6 f.code 0 b.toNat a.toNat d.toNat, 0) from rfl]
  dsimp only
  generalize hw0 : encFP 6 f.code 0 b.toNat a.toNat d.toNat = w
  replace hw0 : encF3 (6 * 2 ^ 5 + f.code * 2 ^ 3 + 0) b.toNat a.toNat d.toNat 0x11 = w := hw0
  obtain ⟨l, f1, f7, f12, f17, f22⟩ := fields_F3 hw0 (by omega) (by omega) (by omega) (by omega) (by decide)
  rw [decode_short w l]
  have e1 : fld w 1 6 = 17 := f1
  have e3 : fld w 22 3 = 0 := (fld_sub f22 0 3 (by decide)).trans (by unfold fld; omega)
  have e5 : fld w 25 2 = f.code := (fld_sub f22 3 2 (by decide)).trans (by unfold fld; omega)
  have e6 : fld w 27 5 = 6 := (fld_sub f22 5 5 (by decide)).trans (by unfold fld; omega)
  have e7 : fldA w = a := (ofNat_fld f12).trans (ofNat_self _)
  have e8 : fldB w = b := (ofNat_fld f17).trans (ofNat_self _)
  have e9 : fldD w = d := (ofNat_fld f7).trans (ofNat_self _)
  simp [decodeShort, decodeFp, e1, e3, e5, e6, e7, e8, e9, withVal_some, need_true, FFmt.of_code]

theorem RoundTrip.fcmp (d : GReg) (a : GReg) (b : GReg) (f : FFmt) (c : FCmpCond) : RoundTrip.Statement (.fcmp d a b f c) := by
  intro _ hwf
  have h_d := d.isLt
  have h_a := a.isLt
  have h_b := b.isLt
  have h_f := FFmt.code_lt f
  have h_c := FCmpCond.code_lt c
  rw [show encode (.fcmp d a b f c) = (encFP 7 f.code c.code b.toNat a.toNat d.toNat, 0) from rfl]
  dsimp only
  generalize hw0 : encFP 7 f.code c.code b.toNat a.toNat d.toNat = w
  replace hw0 : encF3 (7 * 2 ^ 5 + f.code * 2 ^ 3 + c.code) b.toNat a.toNat d.toNat 0x11 = w := hw0
  obtain ⟨l, f1, f7, f12, f17, f22⟩ := fields_F3 hw0 (by omega) (by omega) (by omega) (by omega) (by decide)
  rw [decode_short w l]
  have e1 : fld w 1 6 = 17 := f1
  have e3 : fld w 22 3 = c.code := (fld_sub f22 0 3 (by decide)).trans (by unfold fld; omega)
  have e5 : fld w 25 2 = f.code := (fld_sub f22 3 2 (by decide)).trans (by unfold fld; omega)
  have e6 : fld w 27 5 = 7 := (fld_sub f22 5 5 (by decide)).trans (by unfold fld; omega)
  have e7 : fldA w = a := (ofNat_fld f12).trans (ofNat_self _)
  have e8 : fldB w = b := (ofNat_fld f17).trans (ofNat_self _)
  have e9 : fldD w = d := (ofNat_fld f7).trans (ofNat_self _)
  simp [decodeShort, decodeFp, e1, e3, e5, e6, e7, e8, e9, withVal_some, FCmpCond.of_code, FFmt.of_code]

theorem RoundTrip.fcvtToFloat (d : GReg) (a : GReg) (f : FFmt) (src : CvtSrc) : RoundTrip.Statement (.fcvtToFloat d a f src) := by
  intro _ hwf
  have h_d := d.isLt
  have h_a := a.isLt
  have h_f := FFmt.code_lt f
  have h_src := CvtSrc.code_lt src
  rw [show encode (.fcvtToFloat d a f src) = (encFP 8 f.code src.code 0 a.toNat d.toNat, 0) from rfl]
  dsimp only
  generalize hw0 : encFP 8 f.code src.code 0 a.toNat d.toNat = w
  replace hw0 : encF3 (8 * 2 ^ 5 + f.code * 2 ^ 3 + src.code) 0 a.toNat d.toNat 0x11 = w := hw0
  obtain ⟨l, f1, f7, f12, f17, f22⟩ := fields_F3 hw0 (by omega) (by decide) (by omega) (by omega) (by decide)
  rw [decode_short w l]
  have e1 : fld w 1 6 = 17 := f1
  have e2 : fld w 22 3 = src.code := (fld_sub f22 0 3 (by decide)).trans (by unfold fld; omega)
  have e3 : fld w 25 2 = f.code := (fld_sub f22 3 2 (by decide)).trans (by unfold fld; omega)
  have e4 : fld w 27 5 = 8 := (fld_sub f22 5 5 (by decide)).trans (by unfold fld; omega)
  have e5 : fldA w = a := (ofNat_fld f12).trans (ofNat_self _)
  have e6 : fldB w = 0 := ofNat_fld f17
  have e7 : fldD w = d := (ofNat_fld f7).trans (ofNat_self _)
  simp [decodeShort, decodeFp, e1, e2, e3, e4, e5, e6, e7, withVal_some, need_true, CvtSrc.of_code, FFmt.of_code]
  have h2 : (src != CvtSrc.float f) = true := hwf
  simp at h2
  simp [h2, need_true]

theorem RoundTrip.fcvtToInteger (d : GReg) (a : GReg) (f : FFmt) (dst : IntTy) : RoundTrip.Statement (.fcvtToInteger d a f dst) := by
  intro _ hwf
  have h_d := d.isLt
  have h_a := a.isLt
  have h_f := FFmt.code_lt f
  have h_dst := IntTy.code_lt dst
  rw [show encode (.fcvtToInteger d a f dst) = (encFP 9 f.code (dst.code + 4) 0 a.toNat d.toNat, 0) from rfl]
  dsimp only
  generalize hw0 : encFP 9 f.code (dst.code + 4) 0 a.toNat d.toNat = w
  replace hw0 : encF3 (9 * 2 ^ 5 + f.code * 2 ^ 3 + (dst.code + 4)) 0 a.toNat d.toNat 0x11 = w := hw0
  obtain ⟨l, f1, f7, f12, f17, f22⟩ := fields_F3 hw0 (by omega) (by decide) (by omega) (by omega) (by decide)
  rw [decode_short w l]
  have e1 : fld w 1 6 = 17 := f1
  have e2 : fld w 22 2 = dst.code := (fld_sub f22 0 2 (by decide)).trans (by unfold fld; omega)
  have e4 : fld w 24 1 = 1 := (fld_sub f22 2 1 (by decide)).trans (by unfold fld; omega)
  have e5 : fld w 25 2 = f.code := (fld_sub f22 3 2 (by decide)).trans (by unfold fld; omega)
  have e6 : fld w 27 5 = 9 := (fld_sub f22 5 5 (by decide)).trans (by unfold fld; omega)
  have e7 : fldA w = a := (ofNat_fld f12).trans (ofNat_self _)
  have e8 : fldB w = 0 := ofNat_fld f17
  have e9 : fldD w = d := (ofNat_fld f7).trans (ofNat_self _)
  simp [decodeShort, decodeFp, e1, e2, e4, e5, e6, e7, e8, e9, withVal_some, need_true, FFmt.of_code, IntTy.of_code]

theorem RoundTrip.fclass (d : GReg) (a : GReg) (f : FFmt) : RoundTrip.Statement (.fclass d a f) := by
  intro _ hwf
  have h_d := d.isLt
  have h_a := a.isLt
  have h_f := FFmt.code_lt f
  rw [show encode (.fclass d a f) = (encFP 10 f.code 0 0 a.toNat d.toNat, 0) from rfl]
  dsimp only
  generalize hw0 : encFP 10 f.code 0 0 a.toNat d.toNat = w
  replace hw0 : encF3 (10 * 2 ^ 5 + f.code * 2 ^ 3 + 0) 0 a.toNat d.toNat 0x11 = w := hw0
  obtain ⟨l, f1, f7, f12, f17, f22⟩ := fields_F3 hw0 (by omega) (by decide) (by omega) (by omega) (by decide)
  rw [decode_short w l]
  have e1 : fld w 1 6 = 17 := f1
  have e3 : fld w 22 3 = 0 := (fld_sub f22 0 3 (by decide)).trans (by unfold fld; omega)
  have e5 : fld w 25 2 = f.code := (fld_sub f22 3 2 (by decide)).trans (by unfold fld; omega)
  have e6 : fld w 27 5 = 10 := (fld_sub f22 5 5 (by decide)).trans (by unfold fld; omega)
  have e7 : fldA w = a := (ofNat_fld f12).trans (ofNat_self _)
  have e8 : fldB w = 0 := ofNat_fld f17
  have e9 : fldD w = d := (ofNat_fld f7).trans (ofNat_self _)
  simp [decodeShort, decodeFp, e1, e3, e5, e6, e7, e8, e9, withVal_some, need_true, FFmt.of_code]

theorem RoundTrip.fma (d : GReg) (a : GReg) (b : GReg) (c : GReg) (f : FFmt) : RoundTrip.Statement (.fma d a b c f) := by
  intro _ hwf
  have h_d := d.isLt
  have h_a := a.isLt
  have h_b := b.isLt
  have h_c := c.isLt
  have h_f := FFmt.code_lt f
  rw [show encode (.fma d a b c f) = (encF4 f.code c.toNat b.toNat a.toNat d.toNat, 0) from rfl]
  dsimp only
  generalize hw0 : encF4 f.code c.toNat b.toNat a.toNat d.toNat = w
  replace hw0 : encF3 (f.code * 2 ^ 5 + c.toNat) b.toNat a.toNat d.toNat 0x12 = w := hw0
  obtain ⟨l, f1, f7, f12, f17, f22⟩ := fields_F3 hw0 (by omega) (by omega) (by omega) (by omega) (by decide)
  rw [decode_short w l]
  have e1 : fld w 1 6 = 18 := f1
  have e2 : fld w 27 2 = f.code := (fld_sub f22 5 2 (by decide)).trans (by unfold fld; omega)
  have e3 : fld w 29 3 = 0 := (fld_sub f22 7 3 (by decide)).trans (by unfold fld; omega)
  have e4 : fldA w = a := (ofNat_fld f12).trans (ofNat_self _)
  have e5 : fldB w = b := (ofNat_fld f17).trans (ofNat_self _)
  have e6 : fldC w = c := (ofNat_fld ((fld_sub f22 0 5 (by decide)).trans (by unfold fld; omega : _ = c.toNat))).trans (ofNat_self _)
  have e7 : fldD w = d := (ofNat_fld f7).trans (ofNat_self _)
  simp [decodeShort, decodeFma, e1, e2, e3, e4, e5, e6, e7, withVal_some, need_true, FFmt.of_code]

theorem RoundTrip.crr (d : GReg) (n : BitVec 12) : RoundTrip.Statement (.crr d n) := by
  intro _ hwf
  have h_d := d.isLt
  have h_n := n.isLt
  rw [show encode (.crr d n) = (encFI n.toNat 0 d.toNat 0x13, 0) from rfl]
  dsimp only
  generalize hw0 : encFI n.toNat 0 d.toNat 0x13 = w
  obtain ⟨l, f1, f7, f12, f17⟩ := fields_FI hw0 (by omega) (by decide) (by omega) (by decide)
  rw [decode_short w l]
  have e1 : BitVec.ofNat 12 (w / 131072) = n := (ofNat_fld ((fld_sub f17 0 12 (by decide)).trans (by unfold fld; omega : _ = n.toNat))).trans (ofNat_self _)
  have e2 : fld w 1 6 = 19 := f1
  have e3 : fld w 29 3 = 0 := (fld_sub f17 12 3 (by decide)).trans (by unfold fld; omega)
  have e4 : fldA w = 0 := ofNat_fld f12
  have e5 : fldD w = d := (ofNat_fld f7).trans (ofNat_self _)
  simp [decodeShort, decodeSystem, e1, e2, e3, e4, e5, need_true]

theorem RoundTrip.crw (d : GReg) (a : GReg) (n : BitVec 12) : RoundTrip.Statement (.crw d a n) := by
  intro _ hwf
  have h_d := d.isLt
  have h_a := a.isLt
  have h_n := n.isLt
  rw [show encode (.crw d a n) = (encFI (1 * 2 ^ 12 + n.toNat) a.toNat d.toNat 0x13, 0) from rfl]
  dsimp only
  generalize hw0 : encFI (1 * 2 ^ 12 + n.toNat) a.toNat d.toNat 0x13 = w
  obtain ⟨l, f1, f7, f12, f17⟩ := fields_FI hw0 (by omega) (by omega) (by omega) (by decide)
  rw [decode_short w l]
  have e1 : BitVec.ofNat 12 (w / 131072) = n := (ofNat_fld ((fld_sub f17 0 12 (by decide)).trans (by unfold fld; omega : _ = n.toNat))).trans (ofNat_self _)
  have e2 : fld w 1 6 = 19 := f1
  have e3 : fld w 29 3 = 1 := (fld_sub f17 12 3 (by decide)).trans (by unfold fld; omega)
  have e4 : fldA w = a := (ofNat_fld f12).trans (ofNat_self _)
  have e5 : fldD w = d := (ofNat_fld f7).trans (ofNat_self _)
  simp [decodeShort, decodeSystem, e1, e2, e3, e4, e5]

theorem RoundTrip.crs (d : GReg) (a : GReg) (n : BitVec 12) : RoundTrip.Statement (.crs d a n) := by
  intro _ hwf
  have h_d := d.isLt
  have h_a := a.isLt
  have h_n := n.isLt
  rw [show encode (.crs d a n) = (encFI (2 * 2 ^ 12 + n.toNat) a.toNat d.toNat 0x13, 0) from rfl]
  dsimp only
  generalize hw0 : encFI (2 * 2 ^ 12 + n.toNat) a.toNat d.toNat 0x13 = w
  obtain ⟨l, f1, f7, f12, f17⟩ := fields_FI hw0 (by omega) (by omega) (by omega) (by decide)
  rw [decode_short w l]
  have e1 : BitVec.ofNat 12 (w / 131072) = n := (ofNat_fld ((fld_sub f17 0 12 (by decide)).trans (by unfold fld; omega : _ = n.toNat))).trans (ofNat_self _)
  have e2 : fld w 1 6 = 19 := f1
  have e3 : fld w 29 3 = 2 := (fld_sub f17 12 3 (by decide)).trans (by unfold fld; omega)
  have e4 : fldA w = a := (ofNat_fld f12).trans (ofNat_self _)
  have e5 : fldD w = d := (ofNat_fld f7).trans (ofNat_self _)
  simp [decodeShort, decodeSystem, e1, e2, e3, e4, e5]

theorem RoundTrip.crc (d : GReg) (a : GReg) (n : BitVec 12) : RoundTrip.Statement (.crc d a n) := by
  intro _ hwf
  have h_d := d.isLt
  have h_a := a.isLt
  have h_n := n.isLt
  rw [show encode (.crc d a n) = (encFI (3 * 2 ^ 12 + n.toNat) a.toNat d.toNat 0x13, 0) from rfl]
  dsimp only
  generalize hw0 : encFI (3 * 2 ^ 12 + n.toNat) a.toNat d.toNat 0x13 = w
  obtain ⟨l, f1, f7, f12, f17⟩ := fields_FI hw0 (by omega) (by omega) (by omega) (by decide)
  rw [decode_short w l]
  have e1 : BitVec.ofNat 12 (w / 131072) = n := (ofNat_fld ((fld_sub f17 0 12 (by decide)).trans (by unfold fld; omega : _ = n.toNat))).trans (ofNat_self _)
  have e2 : fld w 1 6 = 19 := f1
  have e3 : fld w 29 3 = 3 := (fld_sub f17 12 3 (by decide)).trans (by unfold fld; omega)
  have e4 : fldA w = a := (ofNat_fld f12).trans (ofNat_self _)
  have e5 : fldD w = d := (ofNat_fld f7).trans (ofNat_self _)
  simp [decodeShort, decodeSystem, e1, e2, e3, e4, e5]

theorem RoundTrip.ecall : RoundTrip.Statement (.ecall) := by
  intro _ hwf
  rw [show encode (.ecall) = (encFI (4 * 2 ^ 12 + 0) 0 0 0x13, 0) from rfl]
  dsimp only
  generalize hw0 : encFI (4 * 2 ^ 12 + 0) 0 0 0x13 = w
  obtain ⟨l, f1, f7, f12, f17⟩ := fields_FI hw0 (by decide) (by decide) (by decide) (by decide)
  rw [decode_short w l]
  have e2 : fld w 1 6 = 19 := f1
  have e3 : fld w 17 12 = 0 := (fld_sub f17 0 12 (by decide))
  have e4 : fld w 29 3 = 4 := (fld_sub f17 12 3 (by decide))
  have e5 : fldA w = 0 := ofNat_fld f12
  have e6 : fldD w = 0 := ofNat_fld f7
  simp [decodeShort, decodeSystem, decodeSystemN, e2, e3, e4, e5, e6, need_true]

theorem RoundTrip.ebrk : RoundTrip.Statement (.ebrk) := by
  intro _ hwf
  rw [show encode (.ebrk) = (encFI (4 * 2 ^ 12 + 1) 0 0 0x13, 0) from rfl]
  dsimp only
  generalize hw0 : encFI (4 * 2 ^ 12 + 1) 0 0 0x13 = w
  obtain ⟨l, f1, f7, f12, f17⟩ := fields_FI hw0 (by decide) (by decide) (by decide) (by decide)
  rw [decode_short w l]
  have e2 : fld w 1 6 = 19 := f1
  have e3 : fld w 17 12 = 1 := (fld_sub f17 0 12 (by decide))
  have e4 : fld w 29 3 = 4 := (fld_sub f17 12 3 (by decide))
  have e5 : fldA w = 0 := ofNat_fld f12
  have e6 : fldD w = 0 := ofNat_fld f7
  simp [decodeShort, decodeSystem, decodeSystemN, e2, e3, e4, e5, e6, need_true]

theorem RoundTrip.trapret : RoundTrip.Statement (.trapret) := by
  intro _ hwf
  rw [show encode (.trapret) = (encFI (4 * 2 ^ 12 + 2) 0 0 0x13, 0) from rfl]
  dsimp only
  generalize hw0 : encFI (4 * 2 ^ 12 + 2) 0 0 0x13 = w
  obtain ⟨l, f1, f7, f12, f17⟩ := fields_FI hw0 (by decide) (by decide) (by decide) (by decide)
  rw [decode_short w l]
  have e2 : fld w 1 6 = 19 := f1
  have e3 : fld w 17 12 = 2 := (fld_sub f17 0 12 (by decide))
  have e4 : fld w 29 3 = 4 := (fld_sub f17 12 3 (by decide))
  have e5 : fldA w = 0 := ofNat_fld f12
  have e6 : fldD w = 0 := ofNat_fld f7
  simp [decodeShort, decodeSystem, decodeSystemN, e2, e3, e4, e5, e6, need_true]

theorem RoundTrip.uret : RoundTrip.Statement (.uret) := by
  intro _ hwf
  rw [show encode (.uret) = (encFI (4 * 2 ^ 12 + 3) 0 0 0x13, 0) from rfl]
  dsimp only
  generalize hw0 : encFI (4 * 2 ^ 12 + 3) 0 0 0x13 = w
  obtain ⟨l, f1, f7, f12, f17⟩ := fields_FI hw0 (by decide) (by decide) (by decide) (by decide)
  rw [decode_short w l]
  have e2 : fld w 1 6 = 19 := f1
  have e3 : fld w 17 12 = 3 := (fld_sub f17 0 12 (by decide))
  have e4 : fld w 29 3 = 4 := (fld_sub f17 12 3 (by decide))
  have e5 : fldA w = 0 := ofNat_fld f12
  have e6 : fldD w = 0 := ofNat_fld f7
  simp [decodeShort, decodeSystem, decodeSystemN, e2, e3, e4, e5, e6, need_true]

theorem RoundTrip.wfe : RoundTrip.Statement (.wfe) := by
  intro _ hwf
  rw [show encode (.wfe) = (encFI (4 * 2 ^ 12 + 4) 0 0 0x13, 0) from rfl]
  dsimp only
  generalize hw0 : encFI (4 * 2 ^ 12 + 4) 0 0 0x13 = w
  obtain ⟨l, f1, f7, f12, f17⟩ := fields_FI hw0 (by decide) (by decide) (by decide) (by decide)
  rw [decode_short w l]
  have e2 : fld w 1 6 = 19 := f1
  have e3 : fld w 17 12 = 4 := (fld_sub f17 0 12 (by decide))
  have e4 : fld w 29 3 = 4 := (fld_sub f17 12 3 (by decide))
  have e5 : fldA w = 0 := ofNat_fld f12
  have e6 : fldD w = 0 := ofNat_fld f7
  simp [decodeShort, decodeSystem, decodeSystemN, e2, e3, e4, e5, e6, need_true]

theorem RoundTrip.halt : RoundTrip.Statement (.halt) := by
  intro _ hwf
  rw [show encode (.halt) = (encFI (4 * 2 ^ 12 + 5) 0 0 0x13, 0) from rfl]
  dsimp only
  generalize hw0 : encFI (4 * 2 ^ 12 + 5) 0 0 0x13 = w
  obtain ⟨l, f1, f7, f12, f17⟩ := fields_FI hw0 (by decide) (by decide) (by decide) (by decide)
  rw [decode_short w l]
  have e2 : fld w 1 6 = 19 := f1
  have e3 : fld w 17 12 = 5 := (fld_sub f17 0 12 (by decide))
  have e4 : fld w 29 3 = 4 := (fld_sub f17 12 3 (by decide))
  have e5 : fldA w = 0 := ofNat_fld f12
  have e6 : fldD w = 0 := ofNat_fld f7
  simp [decodeShort, decodeSystem, decodeSystemN, e2, e3, e4, e5, e6, need_true]

theorem RoundTrip.tlbinv (d : GReg) (a : GReg) : RoundTrip.Statement (.tlbinv d a) := by
  intro _ hwf
  have h_d := d.isLt
  have h_a := a.isLt
  rw [show encode (.tlbinv d a) = (encFI (4 * 2 ^ 12 + 6) a.toNat d.toNat 0x13, 0) from rfl]
  dsimp only
  generalize hw0 : encFI (4 * 2 ^ 12 + 6) a.toNat d.toNat 0x13 = w
  obtain ⟨l, f1, f7, f12, f17⟩ := fields_FI hw0 (by decide) (by omega) (by omega) (by decide)
  rw [decode_short w l]
  have e2 : fld w 1 6 = 19 := f1
  have e3 : fld w 17 12 = 6 := (fld_sub f17 0 12 (by decide))
  have e4 : fld w 29 3 = 4 := (fld_sub f17 12 3 (by decide))
  have e5 : fldA w = a := (ofNat_fld f12).trans (ofNat_self _)
  have e6 : fldD w = d := (ofNat_fld f7).trans (ofNat_self _)
  simp [decodeShort, decodeSystem, decodeSystemN, e2, e3, e4, e5, e6]

theorem RoundTrip.cinv (d : GReg) (a : GReg) : RoundTrip.Statement (.cinv d a) := by
  intro _ hwf
  have h_d := d.isLt
  have h_a := a.isLt
  rw [show encode (.cinv d a) = (encFI (4 * 2 ^ 12 + 7) a.toNat d.toNat 0x13, 0) from rfl]
  dsimp only
  generalize hw0 : encFI (4 * 2 ^ 12 + 7) a.toNat d.toNat 0x13 = w
  obtain ⟨l, f1, f7, f12, f17⟩ := fields_FI hw0 (by decide) (by omega) (by omega) (by decide)
  rw [decode_short w l]
  have e2 : fld w 1 6 = 19 := f1
  have e3 : fld w 17 12 = 7 := (fld_sub f17 0 12 (by decide))
  have e4 : fld w 29 3 = 4 := (fld_sub f17 12 3 (by decide))
  have e5 : fldA w = a := (ofNat_fld f12).trans (ofNat_self _)
  have e6 : fldD w = d := (ofNat_fld f7).trans (ofNat_self _)
  simp [decodeShort, decodeSystem, decodeSystemN, e2, e3, e4, e5, e6]

theorem RoundTrip.fence (o : MemOrd) (sc : Scope) : RoundTrip.Statement (.fence o sc) := by
  intro _ hwf
  have h_o := MemOrd.code_lt o
  have h_sc := Scope.code_lt sc
  rw [show encode (.fence o sc) = (encF3 (sc.code * 2 ^ 2 + o.code) 0 0 0 0x14, 0) from rfl]
  dsimp only
  generalize hw0 : encF3 (sc.code * 2 ^ 2 + o.code) 0 0 0 0x14 = w
  obtain ⟨l, f1, f7, f12, f17, f22⟩ := fields_F3 hw0 (by omega) (by decide) (by decide) (by decide) (by decide)
  rw [decode_short w l]
  have e1 : fld w 1 6 = 20 := f1
  have e2 : fld w 22 2 = o.code := (fld_sub f22 0 2 (by decide)).trans (by unfold fld; omega)
  have e3 : fld w 24 3 = sc.code := (fld_sub f22 2 3 (by decide)).trans (by unfold fld; omega)
  have e4 : fld w 27 5 = 0 := (fld_sub f22 5 5 (by decide)).trans (by unfold fld; omega)
  have e5 : fld w 7 15 = 0 := by rw [← hw0]; unfold fld encF3; omega
  simp [decodeShort, decodeFence, e1, e2, e3, e4, e5, withVal_some, need_true, MemOrd.of_code, Scope.of_code]
  cases o <;> first | exact absurd hwf Bool.false_ne_true | exact need_true _ _

theorem RoundTrip.safept (id : BitVec 16) : RoundTrip.Statement (.safept id) := by
  intro _ hwf
  have h_id := id.isLt
  rw [show encode (.safept id) = (encFU id.toNat 0 0x15, 0) from rfl]
  dsimp only
  generalize hw0 : encFU id.toNat 0 0x15 = w
  obtain ⟨l, f1, f7, f12⟩ := fields_FU hw0 (by omega) (by decide) (by decide)
  rw [decode_short w l]
  have e1 : BitVec.ofNat 16 (w / 4096) = id := (ofNat_fld ((fld_sub f12 0 16 (by decide)).trans (by unfold fld; omega : _ = id.toNat))).trans (ofNat_self _)
  have e2 : fld w 1 6 = 21 := f1
  have e3 : fld w 28 4 = 0 := (fld_sub f12 16 4 (by decide)).trans (by unfold fld; omega)
  have e4 : fldD w = 0 := ofNat_fld f7
  simp [decodeShort, decodeSafept, e1, e2, e3, e4, need_true]

theorem RoundTrip.setvl (d : GReg) (a : GReg) (b : GReg) : RoundTrip.Statement (.setvl d a b) := by
  intro _ hwf
  have h_d := d.isLt
  have h_a := a.isLt
  have h_b := b.isLt
  rw [show encode (.setvl d a b) = (encF3 0 b.toNat a.toNat d.toNat 0x18, 0) from rfl]
  dsimp only
  generalize hw0 : encF3 0 b.toNat a.toNat d.toNat 0x18 = w
  obtain ⟨l, f1, f7, f12, f17, f22⟩ := fields_F3 hw0 (by decide) (by omega) (by omega) (by omega) (by decide)
  rw [decode_short w l]
  have e1 : fld w 1 6 = 24 := f1
  have e3 : fld w 22 7 = 0 := (fld_sub f22 0 7 (by decide))
  have e6 : fld w 29 3 = 0 := (fld_sub f22 7 3 (by decide))
  have e7 : fldA w = a := (ofNat_fld f12).trans (ofNat_self _)
  have e8 : fldB w = b := (ofNat_fld f17).trans (ofNat_self _)
  have e9 : fldD w = d := (ofNat_fld f7).trans (ofNat_self _)
  simp [decodeShort, decodeConfig, e1, e3, e6, e7, e8, e9, need_true]

theorem RoundTrip.setvli (d : GReg) (a : GReg) (fmt : ElemTy) (grp : BitVec 3) (sc : Bool) : RoundTrip.Statement (.setvli d a fmt grp sc) := by
  intro _ hwf
  have h_d := d.isLt
  have h_a := a.isLt
  have h_fmt := ElemTy.code_lt fmt
  have h_grp := grp.isLt
  have h_sc := bit_lt sc
  rw [show encode (.setvli d a fmt grp sc) = (encF3 (2 ^ 7 + bit sc * 2 ^ 2) 0 a.toNat d.toNat 0x18 + grp.toNat * 2 ^ 21 + fmt.code * 2 ^ 17, 0) from rfl]
  dsimp only
  generalize hw0 : encF3 (2 ^ 7 + bit sc * 2 ^ 2) 0 a.toNat d.toNat 0x18 + grp.toNat * 2 ^ 21 + fmt.code * 2 ^ 17 = w
  replace hw0 : encF3 (2 ^ 7 + bit sc * 2 ^ 2) 0 a.toNat d.toNat 0x18 + grp.toNat * 2 ^ 21 + fmt.code * 2 ^ 17 = w := hw0
  have l : w % 2 = 0 := by rw [← hw0]; unfold encF3; omega
  rw [decode_short w l]
  have e1 : BitVec.ofNat 3 (w / 2097152) = grp := ofNat_eq _ _ (by rw [← hw0]; unfold encF3; omega)
  have e2 : fld w 1 6 = 24 := by rw [← hw0]; unfold fld encF3; omega
  have e4 : fld w 17 4 = fmt.code := by rw [← hw0]; unfold fld encF3; omega
  have e5 : fld w 24 1 = bit sc := by rw [← hw0]; unfold fld encF3; omega
  have e6 : fld w 25 4 = 0 := by rw [← hw0]; unfold fld encF3; omega
  have e7 : fld w 29 3 = 1 := by rw [← hw0]; unfold fld encF3; omega
  have e8 : fldA w = a := ofNat_eq _ _ (by rw [← hw0]; unfold encF3; omega)
  have e9 : fldD w = d := ofNat_eq _ _ (by rw [← hw0]; unfold encF3; omega)
  simp [decodeShort, decodeConfig, e1, e2, e4, e5, e6, e7, e8, e9, withVal_some, need_true, ElemTy.of_code, bit_one]

theorem RoundTrip.lpreq (d : GReg) (a : GReg) : RoundTrip.Statement (.lpreq d a) := by
  intro _ hwf
  have h_d := d.isLt
  have h_a := a.isLt
  rw [show encode (.lpreq d a) = (encF3 (2 * 2 ^ 7) 0 a.toNat d.toNat 0x18, 0) from rfl]
  dsimp only
  generalize hw0 : encF3 (2 * 2 ^ 7) 0 a.toNat d.toNat 0x18 = w
  obtain ⟨l, f1, f7, f12, f17, f22⟩ := fields_F3 hw0 (by decide) (by decide) (by omega) (by omega) (by decide)
  rw [decode_short w l]
  have e2 : fld w 1 6 = 24 := f1
  have e3 : fld w 17 12 = 0 := by rw [← hw0]; unfold fld encF3; omega
  have e8 : fld w 29 3 = 2 := (fld_sub f22 7 3 (by decide))
  have e9 : fldA w = a := (ofNat_fld f12).trans (ofNat_self _)
  have e11 : fldD w = d := (ofNat_fld f7).trans (ofNat_self _)
  simp [decodeShort, decodeConfig, e2, e3, e8, e9, e11, need_true]

theorem RoundTrip.vadd (d : VReg) (a : VReg) (b : Src) (k : KReg) : RoundTrip.Statement (.vadd d a b k) := by
  intro _ hwf
  obtain ⟨bs, br, h_b, h_bs, h_br, h_bc⟩ := Src.code_eq b
  have h_d := d.isLt
  have h_a := a.isLt
  have h_k := k.isLt
  rw [show encode (.vadd d a b k) = (encFV 0 b.code k.toNat a.toNat d.toNat 0x19, 0) from rfl]
  dsimp only
  generalize hw0 : encFV 0 b.code k.toNat a.toNat d.toNat 0x19 = w
  obtain ⟨l, f1, f7, f12, f17, f22, f25, f27⟩ := fields_FV hw0 h_b h_bs (by decide) (by omega) (by omega) (by omega) (by decide) h_br
  rw [decode_short w l]
  have e1 : fld w 1 6 = 25 := f1
  have e2 : fld w 27 5 = 0 := f27
  have e3 : fldA w = a := (ofNat_fld f12).trans (ofNat_self _)
  have e4 : fldD w = d := (ofNat_fld f7).trans (ofNat_self _)
  have e5 : fldK w = k := (ofNat_fld f22).trans (ofNat_self _)
  have eb : srcOf w = some b := h_bc w f25 f17
  simp [decodeShort, decodeVecIntA, e1, e2, e3, e4, e5, eb, withVal_some]

theorem RoundTrip.vsub (d : VReg) (a : VReg) (b : Src) (k : KReg) : RoundTrip.Statement (.vsub d a b k) := by
  intro _ hwf
  obtain ⟨bs, br, h_b, h_bs, h_br, h_bc⟩ := Src.code_eq b
  have h_d := d.isLt
  have h_a := a.isLt
  have h_k := k.isLt
  rw [show encode (.vsub d a b k) = (encFV 1 b.code k.toNat a.toNat d.toNat 0x19, 0) from rfl]
  dsimp only
  generalize hw0 : encFV 1 b.code k.toNat a.toNat d.toNat 0x19 = w
  obtain ⟨l, f1, f7, f12, f17, f22, f25, f27⟩ := fields_FV hw0 h_b h_bs (by decide) (by omega) (by omega) (by omega) (by decide) h_br
  rw [decode_short w l]
  have e1 : fld w 1 6 = 25 := f1
  have e2 : fld w 27 5 = 1 := f27
  have e3 : fldA w = a := (ofNat_fld f12).trans (ofNat_self _)
  have e4 : fldD w = d := (ofNat_fld f7).trans (ofNat_self _)
  have e5 : fldK w = k := (ofNat_fld f22).trans (ofNat_self _)
  have eb : srcOf w = some b := h_bc w f25 f17
  simp [decodeShort, decodeVecIntA, e1, e2, e3, e4, e5, eb, withVal_some]

theorem RoundTrip.vmul (d : VReg) (a : VReg) (b : Src) (k : KReg) : RoundTrip.Statement (.vmul d a b k) := by
  intro _ hwf
  obtain ⟨bs, br, h_b, h_bs, h_br, h_bc⟩ := Src.code_eq b
  have h_d := d.isLt
  have h_a := a.isLt
  have h_k := k.isLt
  rw [show encode (.vmul d a b k) = (encFV 2 b.code k.toNat a.toNat d.toNat 0x19, 0) from rfl]
  dsimp only
  generalize hw0 : encFV 2 b.code k.toNat a.toNat d.toNat 0x19 = w
  obtain ⟨l, f1, f7, f12, f17, f22, f25, f27⟩ := fields_FV hw0 h_b h_bs (by decide) (by omega) (by omega) (by omega) (by decide) h_br
  rw [decode_short w l]
  have e1 : fld w 1 6 = 25 := f1
  have e2 : fld w 27 5 = 2 := f27
  have e3 : fldA w = a := (ofNat_fld f12).trans (ofNat_self _)
  have e4 : fldD w = d := (ofNat_fld f7).trans (ofNat_self _)
  have e5 : fldK w = k := (ofNat_fld f22).trans (ofNat_self _)
  have eb : srcOf w = some b := h_bc w f25 f17
  simp [decodeShort, decodeVecIntA, e1, e2, e3, e4, e5, eb, withVal_some]

theorem RoundTrip.vmulh (d : VReg) (a : VReg) (b : Src) (k : KReg) : RoundTrip.Statement (.vmulh d a b k) := by
  intro _ hwf
  obtain ⟨bs, br, h_b, h_bs, h_br, h_bc⟩ := Src.code_eq b
  have h_d := d.isLt
  have h_a := a.isLt
  have h_k := k.isLt
  rw [show encode (.vmulh d a b k) = (encFV 3 b.code k.toNat a.toNat d.toNat 0x19, 0) from rfl]
  dsimp only
  generalize hw0 : encFV 3 b.code k.toNat a.toNat d.toNat 0x19 = w
  obtain ⟨l, f1, f7, f12, f17, f22, f25, f27⟩ := fields_FV hw0 h_b h_bs (by decide) (by omega) (by omega) (by omega) (by decide) h_br
  rw [decode_short w l]
  have e1 : fld w 1 6 = 25 := f1
  have e2 : fld w 27 5 = 3 := f27
  have e3 : fldA w = a := (ofNat_fld f12).trans (ofNat_self _)
  have e4 : fldD w = d := (ofNat_fld f7).trans (ofNat_self _)
  have e5 : fldK w = k := (ofNat_fld f22).trans (ofNat_self _)
  have eb : srcOf w = some b := h_bc w f25 f17
  simp [decodeShort, decodeVecIntA, e1, e2, e3, e4, e5, eb, withVal_some]

theorem RoundTrip.vmadd (d : VReg) (a : VReg) (b : Src) (k : KReg) : RoundTrip.Statement (.vmadd d a b k) := by
  intro _ hwf
  obtain ⟨bs, br, h_b, h_bs, h_br, h_bc⟩ := Src.code_eq b
  have h_d := d.isLt
  have h_a := a.isLt
  have h_k := k.isLt
  rw [show encode (.vmadd d a b k) = (encFV 4 b.code k.toNat a.toNat d.toNat 0x19, 0) from rfl]
  dsimp only
  generalize hw0 : encFV 4 b.code k.toNat a.toNat d.toNat 0x19 = w
  obtain ⟨l, f1, f7, f12, f17, f22, f25, f27⟩ := fields_FV hw0 h_b h_bs (by decide) (by omega) (by omega) (by omega) (by decide) h_br
  rw [decode_short w l]
  have e1 : fld w 1 6 = 25 := f1
  have e2 : fld w 27 5 = 4 := f27
  have e3 : fldA w = a := (ofNat_fld f12).trans (ofNat_self _)
  have e4 : fldD w = d := (ofNat_fld f7).trans (ofNat_self _)
  have e5 : fldK w = k := (ofNat_fld f22).trans (ofNat_self _)
  have eb : srcOf w = some b := h_bc w f25 f17
  simp [decodeShort, decodeVecIntA, e1, e2, e3, e4, e5, eb, withVal_some]

theorem RoundTrip.vand (d : VReg) (a : VReg) (b : Src) (k : KReg) : RoundTrip.Statement (.vand d a b k) := by
  intro _ hwf
  obtain ⟨bs, br, h_b, h_bs, h_br, h_bc⟩ := Src.code_eq b
  have h_d := d.isLt
  have h_a := a.isLt
  have h_k := k.isLt
  rw [show encode (.vand d a b k) = (encFV 5 b.code k.toNat a.toNat d.toNat 0x19, 0) from rfl]
  dsimp only
  generalize hw0 : encFV 5 b.code k.toNat a.toNat d.toNat 0x19 = w
  obtain ⟨l, f1, f7, f12, f17, f22, f25, f27⟩ := fields_FV hw0 h_b h_bs (by decide) (by omega) (by omega) (by omega) (by decide) h_br
  rw [decode_short w l]
  have e1 : fld w 1 6 = 25 := f1
  have e2 : fld w 27 5 = 5 := f27
  have e3 : fldA w = a := (ofNat_fld f12).trans (ofNat_self _)
  have e4 : fldD w = d := (ofNat_fld f7).trans (ofNat_self _)
  have e5 : fldK w = k := (ofNat_fld f22).trans (ofNat_self _)
  have eb : srcOf w = some b := h_bc w f25 f17
  simp [decodeShort, decodeVecIntA, e1, e2, e3, e4, e5, eb, withVal_some]

theorem RoundTrip.vor (d : VReg) (a : VReg) (b : Src) (k : KReg) : RoundTrip.Statement (.vor d a b k) := by
  intro _ hwf
  obtain ⟨bs, br, h_b, h_bs, h_br, h_bc⟩ := Src.code_eq b
  have h_d := d.isLt
  have h_a := a.isLt
  have h_k := k.isLt
  rw [show encode (.vor d a b k) = (encFV 6 b.code k.toNat a.toNat d.toNat 0x19, 0) from rfl]
  dsimp only
  generalize hw0 : encFV 6 b.code k.toNat a.toNat d.toNat 0x19 = w
  obtain ⟨l, f1, f7, f12, f17, f22, f25, f27⟩ := fields_FV hw0 h_b h_bs (by decide) (by omega) (by omega) (by omega) (by decide) h_br
  rw [decode_short w l]
  have e1 : fld w 1 6 = 25 := f1
  have e2 : fld w 27 5 = 6 := f27
  have e3 : fldA w = a := (ofNat_fld f12).trans (ofNat_self _)
  have e4 : fldD w = d := (ofNat_fld f7).trans (ofNat_self _)
  have e5 : fldK w = k := (ofNat_fld f22).trans (ofNat_self _)
  have eb : srcOf w = some b := h_bc w f25 f17
  simp [decodeShort, decodeVecIntA, e1, e2, e3, e4, e5, eb, withVal_some]

theorem RoundTrip.vxor (d : VReg) (a : VReg) (b : Src) (k : KReg) : RoundTrip.Statement (.vxor d a b k) := by
  intro _ hwf
  obtain ⟨bs, br, h_b, h_bs, h_br, h_bc⟩ := Src.code_eq b
  have h_d := d.isLt
  have h_a := a.isLt
  have h_k := k.isLt
  rw [show encode (.vxor d a b k) = (encFV 7 b.code k.toNat a.toNat d.toNat 0x19, 0) from rfl]
  dsimp only
  generalize hw0 : encFV 7 b.code k.toNat a.toNat d.toNat 0x19 = w
  obtain ⟨l, f1, f7, f12, f17, f22, f25, f27⟩ := fields_FV hw0 h_b h_bs (by decide) (by omega) (by omega) (by omega) (by decide) h_br
  rw [decode_short w l]
  have e1 : fld w 1 6 = 25 := f1
  have e2 : fld w 27 5 = 7 := f27
  have e3 : fldA w = a := (ofNat_fld f12).trans (ofNat_self _)
  have e4 : fldD w = d := (ofNat_fld f7).trans (ofNat_self _)
  have e5 : fldK w = k := (ofNat_fld f22).trans (ofNat_self _)
  have eb : srcOf w = some b := h_bc w f25 f17
  simp [decodeShort, decodeVecIntA, e1, e2, e3, e4, e5, eb, withVal_some]

theorem RoundTrip.vsll (d : VReg) (a : VReg) (b : Src) (k : KReg) : RoundTrip.Statement (.vsll d a b k) := by
  intro _ hwf
  obtain ⟨bs, br, h_b, h_bs, h_br, h_bc⟩ := Src.code_eq b
  have h_d := d.isLt
  have h_a := a.isLt
  have h_k := k.isLt
  rw [show encode (.vsll d a b k) = (encFV 8 b.code k.toNat a.toNat d.toNat 0x19, 0) from rfl]
  dsimp only
  generalize hw0 : encFV 8 b.code k.toNat a.toNat d.toNat 0x19 = w
  obtain ⟨l, f1, f7, f12, f17, f22, f25, f27⟩ := fields_FV hw0 h_b h_bs (by decide) (by omega) (by omega) (by omega) (by decide) h_br
  rw [decode_short w l]
  have e1 : fld w 1 6 = 25 := f1
  have e2 : fld w 27 5 = 8 := f27
  have e3 : fldA w = a := (ofNat_fld f12).trans (ofNat_self _)
  have e4 : fldD w = d := (ofNat_fld f7).trans (ofNat_self _)
  have e5 : fldK w = k := (ofNat_fld f22).trans (ofNat_self _)
  have eb : srcOf w = some b := h_bc w f25 f17
  simp [decodeShort, decodeVecIntA, e1, e2, e3, e4, e5, eb, withVal_some]

theorem RoundTrip.vsrl (d : VReg) (a : VReg) (b : Src) (k : KReg) : RoundTrip.Statement (.vsrl d a b k) := by
  intro _ hwf
  obtain ⟨bs, br, h_b, h_bs, h_br, h_bc⟩ := Src.code_eq b
  have h_d := d.isLt
  have h_a := a.isLt
  have h_k := k.isLt
  rw [show encode (.vsrl d a b k) = (encFV 9 b.code k.toNat a.toNat d.toNat 0x19, 0) from rfl]
  dsimp only
  generalize hw0 : encFV 9 b.code k.toNat a.toNat d.toNat 0x19 = w
  obtain ⟨l, f1, f7, f12, f17, f22, f25, f27⟩ := fields_FV hw0 h_b h_bs (by decide) (by omega) (by omega) (by omega) (by decide) h_br
  rw [decode_short w l]
  have e1 : fld w 1 6 = 25 := f1
  have e2 : fld w 27 5 = 9 := f27
  have e3 : fldA w = a := (ofNat_fld f12).trans (ofNat_self _)
  have e4 : fldD w = d := (ofNat_fld f7).trans (ofNat_self _)
  have e5 : fldK w = k := (ofNat_fld f22).trans (ofNat_self _)
  have eb : srcOf w = some b := h_bc w f25 f17
  simp [decodeShort, decodeVecIntA, e1, e2, e3, e4, e5, eb, withVal_some]

theorem RoundTrip.vsra (d : VReg) (a : VReg) (b : Src) (k : KReg) : RoundTrip.Statement (.vsra d a b k) := by
  intro _ hwf
  obtain ⟨bs, br, h_b, h_bs, h_br, h_bc⟩ := Src.code_eq b
  have h_d := d.isLt
  have h_a := a.isLt
  have h_k := k.isLt
  rw [show encode (.vsra d a b k) = (encFV 10 b.code k.toNat a.toNat d.toNat 0x19, 0) from rfl]
  dsimp only
  generalize hw0 : encFV 10 b.code k.toNat a.toNat d.toNat 0x19 = w
  obtain ⟨l, f1, f7, f12, f17, f22, f25, f27⟩ := fields_FV hw0 h_b h_bs (by decide) (by omega) (by omega) (by omega) (by decide) h_br
  rw [decode_short w l]
  have e1 : fld w 1 6 = 25 := f1
  have e2 : fld w 27 5 = 10 := f27
  have e3 : fldA w = a := (ofNat_fld f12).trans (ofNat_self _)
  have e4 : fldD w = d := (ofNat_fld f7).trans (ofNat_self _)
  have e5 : fldK w = k := (ofNat_fld f22).trans (ofNat_self _)
  have eb : srcOf w = some b := h_bc w f25 f17
  simp [decodeShort, decodeVecIntA, e1, e2, e3, e4, e5, eb, withVal_some]

theorem RoundTrip.vmin (d : VReg) (a : VReg) (b : Src) (k : KReg) : RoundTrip.Statement (.vmin d a b k) := by
  intro _ hwf
  obtain ⟨bs, br, h_b, h_bs, h_br, h_bc⟩ := Src.code_eq b
  have h_d := d.isLt
  have h_a := a.isLt
  have h_k := k.isLt
  rw [show encode (.vmin d a b k) = (encFV 11 b.code k.toNat a.toNat d.toNat 0x19, 0) from rfl]
  dsimp only
  generalize hw0 : encFV 11 b.code k.toNat a.toNat d.toNat 0x19 = w
  obtain ⟨l, f1, f7, f12, f17, f22, f25, f27⟩ := fields_FV hw0 h_b h_bs (by decide) (by omega) (by omega) (by omega) (by decide) h_br
  rw [decode_short w l]
  have e1 : fld w 1 6 = 25 := f1
  have e2 : fld w 27 5 = 11 := f27
  have e3 : fldA w = a := (ofNat_fld f12).trans (ofNat_self _)
  have e4 : fldD w = d := (ofNat_fld f7).trans (ofNat_self _)
  have e5 : fldK w = k := (ofNat_fld f22).trans (ofNat_self _)
  have eb : srcOf w = some b := h_bc w f25 f17
  simp [decodeShort, decodeVecIntA, e1, e2, e3, e4, e5, eb, withVal_some]

theorem RoundTrip.vmax (d : VReg) (a : VReg) (b : Src) (k : KReg) : RoundTrip.Statement (.vmax d a b k) := by
  intro _ hwf
  obtain ⟨bs, br, h_b, h_bs, h_br, h_bc⟩ := Src.code_eq b
  have h_d := d.isLt
  have h_a := a.isLt
  have h_k := k.isLt
  rw [show encode (.vmax d a b k) = (encFV 12 b.code k.toNat a.toNat d.toNat 0x19, 0) from rfl]
  dsimp only
  generalize hw0 : encFV 12 b.code k.toNat a.toNat d.toNat 0x19 = w
  obtain ⟨l, f1, f7, f12, f17, f22, f25, f27⟩ := fields_FV hw0 h_b h_bs (by decide) (by omega) (by omega) (by omega) (by decide) h_br
  rw [decode_short w l]
  have e1 : fld w 1 6 = 25 := f1
  have e2 : fld w 27 5 = 12 := f27
  have e3 : fldA w = a := (ofNat_fld f12).trans (ofNat_self _)
  have e4 : fldD w = d := (ofNat_fld f7).trans (ofNat_self _)
  have e5 : fldK w = k := (ofNat_fld f22).trans (ofNat_self _)
  have eb : srcOf w = some b := h_bc w f25 f17
  simp [decodeShort, decodeVecIntA, e1, e2, e3, e4, e5, eb, withVal_some]

theorem RoundTrip.vminn (d : VReg) (a : VReg) (b : Src) (k : KReg) : RoundTrip.Statement (.vminn d a b k) := by
  intro _ hwf
  obtain ⟨bs, br, h_b, h_bs, h_br, h_bc⟩ := Src.code_eq b
  have h_d := d.isLt
  have h_a := a.isLt
  have h_k := k.isLt
  rw [show encode (.vminn d a b k) = (encFV 13 b.code k.toNat a.toNat d.toNat 0x19, 0) from rfl]
  dsimp only
  generalize hw0 : encFV 13 b.code k.toNat a.toNat d.toNat 0x19 = w
  obtain ⟨l, f1, f7, f12, f17, f22, f25, f27⟩ := fields_FV hw0 h_b h_bs (by decide) (by omega) (by omega) (by omega) (by decide) h_br
  rw [decode_short w l]
  have e1 : fld w 1 6 = 25 := f1
  have e2 : fld w 27 5 = 13 := f27
  have e3 : fldA w = a := (ofNat_fld f12).trans (ofNat_self _)
  have e4 : fldD w = d := (ofNat_fld f7).trans (ofNat_self _)
  have e5 : fldK w = k := (ofNat_fld f22).trans (ofNat_self _)
  have eb : srcOf w = some b := h_bc w f25 f17
  simp [decodeShort, decodeVecIntA, e1, e2, e3, e4, e5, eb, withVal_some]

theorem RoundTrip.vmaxn (d : VReg) (a : VReg) (b : Src) (k : KReg) : RoundTrip.Statement (.vmaxn d a b k) := by
  intro _ hwf
  obtain ⟨bs, br, h_b, h_bs, h_br, h_bc⟩ := Src.code_eq b
  have h_d := d.isLt
  have h_a := a.isLt
  have h_k := k.isLt
  rw [show encode (.vmaxn d a b k) = (encFV 14 b.code k.toNat a.toNat d.toNat 0x19, 0) from rfl]
  dsimp only
  generalize hw0 : encFV 14 b.code k.toNat a.toNat d.toNat 0x19 = w
  obtain ⟨l, f1, f7, f12, f17, f22, f25, f27⟩ := fields_FV hw0 h_b h_bs (by decide) (by omega) (by omega) (by omega) (by decide) h_br
  rw [decode_short w l]
  have e1 : fld w 1 6 = 25 := f1
  have e2 : fld w 27 5 = 14 := f27
  have e3 : fldA w = a := (ofNat_fld f12).trans (ofNat_self _)
  have e4 : fldD w = d := (ofNat_fld f7).trans (ofNat_self _)
  have e5 : fldK w = k := (ofNat_fld f22).trans (ofNat_self _)
  have eb : srcOf w = some b := h_bc w f25 f17
  simp [decodeShort, decodeVecIntA, e1, e2, e3, e4, e5, eb, withVal_some]

theorem RoundTrip.vsadd (d : VReg) (a : VReg) (b : Src) (k : KReg) : RoundTrip.Statement (.vsadd d a b k) := by
  intro _ hwf
  obtain ⟨bs, br, h_b, h_bs, h_br, h_bc⟩ := Src.code_eq b
  have h_d := d.isLt
  have h_a := a.isLt
  have h_k := k.isLt
  rw [show encode (.vsadd d a b k) = (encFV 15 b.code k.toNat a.toNat d.toNat 0x19, 0) from rfl]
  dsimp only
  generalize hw0 : encFV 15 b.code k.toNat a.toNat d.toNat 0x19 = w
  obtain ⟨l, f1, f7, f12, f17, f22, f25, f27⟩ := fields_FV hw0 h_b h_bs (by decide) (by omega) (by omega) (by omega) (by decide) h_br
  rw [decode_short w l]
  have e1 : fld w 1 6 = 25 := f1
  have e2 : fld w 27 5 = 15 := f27
  have e3 : fldA w = a := (ofNat_fld f12).trans (ofNat_self _)
  have e4 : fldD w = d := (ofNat_fld f7).trans (ofNat_self _)
  have e5 : fldK w = k := (ofNat_fld f22).trans (ofNat_self _)
  have eb : srcOf w = some b := h_bc w f25 f17
  simp [decodeShort, decodeVecIntA, e1, e2, e3, e4, e5, eb, withVal_some]

theorem RoundTrip.vssub (d : VReg) (a : VReg) (b : Src) (k : KReg) : RoundTrip.Statement (.vssub d a b k) := by
  intro _ hwf
  obtain ⟨bs, br, h_b, h_bs, h_br, h_bc⟩ := Src.code_eq b
  have h_d := d.isLt
  have h_a := a.isLt
  have h_k := k.isLt
  rw [show encode (.vssub d a b k) = (encFV 16 b.code k.toNat a.toNat d.toNat 0x19, 0) from rfl]
  dsimp only
  generalize hw0 : encFV 16 b.code k.toNat a.toNat d.toNat 0x19 = w
  obtain ⟨l, f1, f7, f12, f17, f22, f25, f27⟩ := fields_FV hw0 h_b h_bs (by decide) (by omega) (by omega) (by omega) (by decide) h_br
  rw [decode_short w l]
  have e1 : fld w 1 6 = 25 := f1
  have e2 : fld w 27 5 = 16 := f27
  have e3 : fldA w = a := (ofNat_fld f12).trans (ofNat_self _)
  have e4 : fldD w = d := (ofNat_fld f7).trans (ofNat_self _)
  have e5 : fldK w = k := (ofNat_fld f22).trans (ofNat_self _)
  have eb : srcOf w = some b := h_bc w f25 f17
  simp [decodeShort, decodeVecIntA, e1, e2, e3, e4, e5, eb, withVal_some]

theorem RoundTrip.vcmpEq (d : KReg) (a : VReg) (b : Src) (k : KReg) : RoundTrip.Statement (.vcmpEq d a b k) := by
  intro _ hwf
  obtain ⟨bs, br, h_b, h_bs, h_br, h_bc⟩ := Src.code_eq b
  have h_d := d.isLt
  have h_a := a.isLt
  have h_k := k.isLt
  rw [show encode (.vcmpEq d a b k) = (encFV 0 b.code k.toNat a.toNat d.toNat 0x1A, 0) from rfl]
  dsimp only
  generalize hw0 : encFV 0 b.code k.toNat a.toNat d.toNat 0x1A = w
  obtain ⟨l, f1, f7, f12, f17, f22, f25, f27⟩ := fields_FV hw0 h_b h_bs (by decide) (by omega) (by omega) (by omega) (by decide) h_br
  rw [decode_short w l]
  have e1 : BitVec.ofNat 3 (w / 128) = d := (ofNat_fld ((fld_sub f7 0 3 (by decide)).trans (by unfold fld; omega : _ = d.toNat))).trans (ofNat_self _)
  have e2 : fld w 1 6 = 26 := f1
  have e3 : fld w 10 2 = 0 := (fld_sub f7 3 2 (by decide)).trans (by unfold fld; omega)
  have e4 : fld w 27 5 = 0 := f27
  have e5 : fldA w = a := (ofNat_fld f12).trans (ofNat_self _)
  have e7 : fldK w = k := (ofNat_fld f22).trans (ofNat_self _)
  have eb : srcOf w = some b := h_bc w f25 f17
  simp [decodeShort, decodeVecIntB, e1, e2, e3, e4, e5, e7, eb, withVal_some, need_true]

theorem RoundTrip.vcmpNe (d : KReg) (a : VReg) (b : Src) (k : KReg) : RoundTrip.Statement (.vcmpNe d a b k) := by
  intro _ hwf
  obtain ⟨bs, br, h_b, h_bs, h_br, h_bc⟩ := Src.code_eq b
  have h_d := d.isLt
  have h_a := a.isLt
  have h_k := k.isLt
  rw [show encode (.vcmpNe d a b k) = (encFV 1 b.code k.toNat a.toNat d.toNat 0x1A, 0) from rfl]
  dsimp only
  generalize hw0 : encFV 1 b.code k.toNat a.toNat d.toNat 0x1A = w
  obtain ⟨l, f1, f7, f12, f17, f22, f25, f27⟩ := fields_FV hw0 h_b h_bs (by decide) (by omega) (by omega) (by omega) (by decide) h_br
  rw [decode_short w l]
  have e1 : BitVec.ofNat 3 (w / 128) = d := (ofNat_fld ((fld_sub f7 0 3 (by decide)).trans (by unfold fld; omega : _ = d.toNat))).trans (ofNat_self _)
  have e2 : fld w 1 6 = 26 := f1
  have e3 : fld w 10 2 = 0 := (fld_sub f7 3 2 (by decide)).trans (by unfold fld; omega)
  have e4 : fld w 27 5 = 1 := f27
  have e5 : fldA w = a := (ofNat_fld f12).trans (ofNat_self _)
  have e7 : fldK w = k := (ofNat_fld f22).trans (ofNat_self _)
  have eb : srcOf w = some b := h_bc w f25 f17
  simp [decodeShort, decodeVecIntB, e1, e2, e3, e4, e5, e7, eb, withVal_some, need_true]

theorem RoundTrip.vcmpLt (d : KReg) (a : VReg) (b : Src) (k : KReg) : RoundTrip.Statement (.vcmpLt d a b k) := by
  intro _ hwf
  obtain ⟨bs, br, h_b, h_bs, h_br, h_bc⟩ := Src.code_eq b
  have h_d := d.isLt
  have h_a := a.isLt
  have h_k := k.isLt
  rw [show encode (.vcmpLt d a b k) = (encFV 2 b.code k.toNat a.toNat d.toNat 0x1A, 0) from rfl]
  dsimp only
  generalize hw0 : encFV 2 b.code k.toNat a.toNat d.toNat 0x1A = w
  obtain ⟨l, f1, f7, f12, f17, f22, f25, f27⟩ := fields_FV hw0 h_b h_bs (by decide) (by omega) (by omega) (by omega) (by decide) h_br
  rw [decode_short w l]
  have e1 : BitVec.ofNat 3 (w / 128) = d := (ofNat_fld ((fld_sub f7 0 3 (by decide)).trans (by unfold fld; omega : _ = d.toNat))).trans (ofNat_self _)
  have e2 : fld w 1 6 = 26 := f1
  have e3 : fld w 10 2 = 0 := (fld_sub f7 3 2 (by decide)).trans (by unfold fld; omega)
  have e4 : fld w 27 5 = 2 := f27
  have e5 : fldA w = a := (ofNat_fld f12).trans (ofNat_self _)
  have e7 : fldK w = k := (ofNat_fld f22).trans (ofNat_self _)
  have eb : srcOf w = some b := h_bc w f25 f17
  simp [decodeShort, decodeVecIntB, e1, e2, e3, e4, e5, e7, eb, withVal_some, need_true]

theorem RoundTrip.vcmpGe (d : KReg) (a : VReg) (b : Src) (k : KReg) : RoundTrip.Statement (.vcmpGe d a b k) := by
  intro _ hwf
  obtain ⟨bs, br, h_b, h_bs, h_br, h_bc⟩ := Src.code_eq b
  have h_d := d.isLt
  have h_a := a.isLt
  have h_k := k.isLt
  rw [show encode (.vcmpGe d a b k) = (encFV 3 b.code k.toNat a.toNat d.toNat 0x1A, 0) from rfl]
  dsimp only
  generalize hw0 : encFV 3 b.code k.toNat a.toNat d.toNat 0x1A = w
  obtain ⟨l, f1, f7, f12, f17, f22, f25, f27⟩ := fields_FV hw0 h_b h_bs (by decide) (by omega) (by omega) (by omega) (by decide) h_br
  rw [decode_short w l]
  have e1 : BitVec.ofNat 3 (w / 128) = d := (ofNat_fld ((fld_sub f7 0 3 (by decide)).trans (by unfold fld; omega : _ = d.toNat))).trans (ofNat_self _)
  have e2 : fld w 1 6 = 26 := f1
  have e3 : fld w 10 2 = 0 := (fld_sub f7 3 2 (by decide)).trans (by unfold fld; omega)
  have e4 : fld w 27 5 = 3 := f27
  have e5 : fldA w = a := (ofNat_fld f12).trans (ofNat_self _)
  have e7 : fldK w = k := (ofNat_fld f22).trans (ofNat_self _)
  have eb : srcOf w = some b := h_bc w f25 f17
  simp [decodeShort, decodeVecIntB, e1, e2, e3, e4, e5, e7, eb, withVal_some, need_true]

theorem RoundTrip.vcmpLtn (d : KReg) (a : VReg) (b : Src) (k : KReg) : RoundTrip.Statement (.vcmpLtn d a b k) := by
  intro _ hwf
  obtain ⟨bs, br, h_b, h_bs, h_br, h_bc⟩ := Src.code_eq b
  have h_d := d.isLt
  have h_a := a.isLt
  have h_k := k.isLt
  rw [show encode (.vcmpLtn d a b k) = (encFV 4 b.code k.toNat a.toNat d.toNat 0x1A, 0) from rfl]
  dsimp only
  generalize hw0 : encFV 4 b.code k.toNat a.toNat d.toNat 0x1A = w
  obtain ⟨l, f1, f7, f12, f17, f22, f25, f27⟩ := fields_FV hw0 h_b h_bs (by decide) (by omega) (by omega) (by omega) (by decide) h_br
  rw [decode_short w l]
  have e1 : BitVec.ofNat 3 (w / 128) = d := (ofNat_fld ((fld_sub f7 0 3 (by decide)).trans (by unfold fld; omega : _ = d.toNat))).trans (ofNat_self _)
  have e2 : fld w 1 6 = 26 := f1
  have e3 : fld w 10 2 = 0 := (fld_sub f7 3 2 (by decide)).trans (by unfold fld; omega)
  have e4 : fld w 27 5 = 4 := f27
  have e5 : fldA w = a := (ofNat_fld f12).trans (ofNat_self _)
  have e7 : fldK w = k := (ofNat_fld f22).trans (ofNat_self _)
  have eb : srcOf w = some b := h_bc w f25 f17
  simp [decodeShort, decodeVecIntB, e1, e2, e3, e4, e5, e7, eb, withVal_some, need_true]

theorem RoundTrip.vcmpGen (d : KReg) (a : VReg) (b : Src) (k : KReg) : RoundTrip.Statement (.vcmpGen d a b k) := by
  intro _ hwf
  obtain ⟨bs, br, h_b, h_bs, h_br, h_bc⟩ := Src.code_eq b
  have h_d := d.isLt
  have h_a := a.isLt
  have h_k := k.isLt
  rw [show encode (.vcmpGen d a b k) = (encFV 5 b.code k.toNat a.toNat d.toNat 0x1A, 0) from rfl]
  dsimp only
  generalize hw0 : encFV 5 b.code k.toNat a.toNat d.toNat 0x1A = w
  obtain ⟨l, f1, f7, f12, f17, f22, f25, f27⟩ := fields_FV hw0 h_b h_bs (by decide) (by omega) (by omega) (by omega) (by decide) h_br
  rw [decode_short w l]
  have e1 : BitVec.ofNat 3 (w / 128) = d := (ofNat_fld ((fld_sub f7 0 3 (by decide)).trans (by unfold fld; omega : _ = d.toNat))).trans (ofNat_self _)
  have e2 : fld w 1 6 = 26 := f1
  have e3 : fld w 10 2 = 0 := (fld_sub f7 3 2 (by decide)).trans (by unfold fld; omega)
  have e4 : fld w 27 5 = 5 := f27
  have e5 : fldA w = a := (ofNat_fld f12).trans (ofNat_self _)
  have e7 : fldK w = k := (ofNat_fld f22).trans (ofNat_self _)
  have eb : srcOf w = some b := h_bc w f25 f17
  simp [decodeShort, decodeVecIntB, e1, e2, e3, e4, e5, e7, eb, withVal_some, need_true]

theorem RoundTrip.vmerge (d : VReg) (a : VReg) (b : Src) (k : KReg) : RoundTrip.Statement (.vmerge d a b k) := by
  intro _ hwf
  obtain ⟨bs, br, h_b, h_bs, h_br, h_bc⟩ := Src.code_eq b
  have h_d := d.isLt
  have h_a := a.isLt
  have h_k := k.isLt
  rw [show encode (.vmerge d a b k) = (encFV 8 b.code k.toNat a.toNat d.toNat 0x1A, 0) from rfl]
  dsimp only
  generalize hw0 : encFV 8 b.code k.toNat a.toNat d.toNat 0x1A = w
  obtain ⟨l, f1, f7, f12, f17, f22, f25, f27⟩ := fields_FV hw0 h_b h_bs (by decide) (by omega) (by omega) (by omega) (by decide) h_br
  rw [decode_short w l]
  have e1 : fld w 1 6 = 26 := f1
  have e2 : fld w 27 5 = 8 := f27
  have e3 : fldA w = a := (ofNat_fld f12).trans (ofNat_self _)
  have e4 : fldD w = d := (ofNat_fld f7).trans (ofNat_self _)
  have e5 : fldK w = k := (ofNat_fld f22).trans (ofNat_self _)
  have eb : srcOf w = some b := h_bc w f25 f17
  simp [decodeShort, decodeVecIntB, e1, e2, e3, e4, e5, eb, withVal_some]
  have h2 : (k != 0) = true := hwf
  simp at h2
  simp [h2, need_true]

theorem RoundTrip.vmv (d : VReg) (b : Src) (k : KReg) : RoundTrip.Statement (.vmv d b k) := by
  intro _ hwf
  obtain ⟨bs, br, h_b, h_bs, h_br, h_bc⟩ := Src.code_eq b
  have h_d := d.isLt
  have h_k := k.isLt
  rw [show encode (.vmv d b k) = (encFV 9 b.code k.toNat 0 d.toNat 0x1A, 0) from rfl]
  dsimp only
  generalize hw0 : encFV 9 b.code k.toNat 0 d.toNat 0x1A = w
  obtain ⟨l, f1, f7, f12, f17, f22, f25, f27⟩ := fields_FV hw0 h_b h_bs (by decide) (by omega) (by decide) (by omega) (by decide) h_br
  rw [decode_short w l]
  have e1 : fld w 1 6 = 26 := f1
  have e2 : fld w 27 5 = 9 := f27
  have e3 : fldA w = 0 := ofNat_fld f12
  have e4 : fldD w = d := (ofNat_fld f7).trans (ofNat_self _)
  have e5 : fldK w = k := (ofNat_fld f22).trans (ofNat_self _)
  have eb : srcOf w = some b := h_bc w f25 f17
  simp [decodeShort, decodeVecIntB, e1, e2, e3, e4, e5, eb, withVal_some, need_true]

theorem RoundTrip.vfadd (d : VReg) (a : VReg) (b : Src) (k : KReg) : RoundTrip.Statement (.vfadd d a b k) := by
  intro _ hwf
  obtain ⟨bs, br, h_b, h_bs, h_br, h_bc⟩ := Src.code_eq b
  have h_d := d.isLt
  have h_a := a.isLt
  have h_k := k.isLt
  rw [show encode (.vfadd d a b k) = (encFV 0 b.code k.toNat a.toNat d.toNat 0x1B, 0) from rfl]
  dsimp only
  generalize hw0 : encFV 0 b.code k.toNat a.toNat d.toNat 0x1B = w
  obtain ⟨l, f1, f7, f12, f17, f22, f25, f27⟩ := fields_FV hw0 h_b h_bs (by decide) (by omega) (by omega) (by omega) (by decide) h_br
  rw [decode_short w l]
  have e1 : fld w 1 6 = 27 := f1
  have e2 : fld w 27 5 = 0 := f27
  have e3 : fldA w = a := (ofNat_fld f12).trans (ofNat_self _)
  have e4 : fldD w = d := (ofNat_fld f7).trans (ofNat_self _)
  have e5 : fldK w = k := (ofNat_fld f22).trans (ofNat_self _)
  have eb : srcOf w = some b := h_bc w f25 f17
  simp [decodeShort, decodeVecFp, e1, e2, e3, e4, e5, eb, withVal_some]

theorem RoundTrip.vfsub (d : VReg) (a : VReg) (b : Src) (k : KReg) : RoundTrip.Statement (.vfsub d a b k) := by
  intro _ hwf
  obtain ⟨bs, br, h_b, h_bs, h_br, h_bc⟩ := Src.code_eq b
  have h_d := d.isLt
  have h_a := a.isLt
  have h_k := k.isLt
  rw [show encode (.vfsub d a b k) = (encFV 1 b.code k.toNat a.toNat d.toNat 0x1B, 0) from rfl]
  dsimp only
  generalize hw0 : encFV 1 b.code k.toNat a.toNat d.toNat 0x1B = w
  obtain ⟨l, f1, f7, f12, f17, f22, f25, f27⟩ := fields_FV hw0 h_b h_bs (by decide) (by omega) (by omega) (by omega) (by decide) h_br
  rw [decode_short w l]
  have e1 : fld w 1 6 = 27 := f1
  have e2 : fld w 27 5 = 1 := f27
  have e3 : fldA w = a := (ofNat_fld f12).trans (ofNat_self _)
  have e4 : fldD w = d := (ofNat_fld f7).trans (ofNat_self _)
  have e5 : fldK w = k := (ofNat_fld f22).trans (ofNat_self _)
  have eb : srcOf w = some b := h_bc w f25 f17
  simp [decodeShort, decodeVecFp, e1, e2, e3, e4, e5, eb, withVal_some]

theorem RoundTrip.vfmul (d : VReg) (a : VReg) (b : Src) (k : KReg) : RoundTrip.Statement (.vfmul d a b k) := by
  intro _ hwf
  obtain ⟨bs, br, h_b, h_bs, h_br, h_bc⟩ := Src.code_eq b
  have h_d := d.isLt
  have h_a := a.isLt
  have h_k := k.isLt
  rw [show encode (.vfmul d a b k) = (encFV 2 b.code k.toNat a.toNat d.toNat 0x1B, 0) from rfl]
  dsimp only
  generalize hw0 : encFV 2 b.code k.toNat a.toNat d.toNat 0x1B = w
  obtain ⟨l, f1, f7, f12, f17, f22, f25, f27⟩ := fields_FV hw0 h_b h_bs (by decide) (by omega) (by omega) (by omega) (by decide) h_br
  rw [decode_short w l]
  have e1 : fld w 1 6 = 27 := f1
  have e2 : fld w 27 5 = 2 := f27
  have e3 : fldA w = a := (ofNat_fld f12).trans (ofNat_self _)
  have e4 : fldD w = d := (ofNat_fld f7).trans (ofNat_self _)
  have e5 : fldK w = k := (ofNat_fld f22).trans (ofNat_self _)
  have eb : srcOf w = some b := h_bc w f25 f17
  simp [decodeShort, decodeVecFp, e1, e2, e3, e4, e5, eb, withVal_some]

theorem RoundTrip.vfdiv (d : VReg) (a : VReg) (b : Src) (k : KReg) : RoundTrip.Statement (.vfdiv d a b k) := by
  intro _ hwf
  obtain ⟨bs, br, h_b, h_bs, h_br, h_bc⟩ := Src.code_eq b
  have h_d := d.isLt
  have h_a := a.isLt
  have h_k := k.isLt
  rw [show encode (.vfdiv d a b k) = (encFV 3 b.code k.toNat a.toNat d.toNat 0x1B, 0) from rfl]
  dsimp only
  generalize hw0 : encFV 3 b.code k.toNat a.toNat d.toNat 0x1B = w
  obtain ⟨l, f1, f7, f12, f17, f22, f25, f27⟩ := fields_FV hw0 h_b h_bs (by decide) (by omega) (by omega) (by omega) (by decide) h_br
  rw [decode_short w l]
  have e1 : fld w 1 6 = 27 := f1
  have e2 : fld w 27 5 = 3 := f27
  have e3 : fldA w = a := (ofNat_fld f12).trans (ofNat_self _)
  have e4 : fldD w = d := (ofNat_fld f7).trans (ofNat_self _)
  have e5 : fldK w = k := (ofNat_fld f22).trans (ofNat_self _)
  have eb : srcOf w = some b := h_bc w f25 f17
  simp [decodeShort, decodeVecFp, e1, e2, e3, e4, e5, eb, withVal_some]

theorem RoundTrip.vfsqrt (d : VReg) (b : Src) (k : KReg) : RoundTrip.Statement (.vfsqrt d b k) := by
  intro _ hwf
  obtain ⟨bs, br, h_b, h_bs, h_br, h_bc⟩ := Src.code_eq b
  have h_d := d.isLt
  have h_k := k.isLt
  rw [show encode (.vfsqrt d b k) = (encFV 4 b.code k.toNat 0 d.toNat 0x1B, 0) from rfl]
  dsimp only
  generalize hw0 : encFV 4 b.code k.toNat 0 d.toNat 0x1B = w
  obtain ⟨l, f1, f7, f12, f17, f22, f25, f27⟩ := fields_FV hw0 h_b h_bs (by decide) (by omega) (by decide) (by omega) (by decide) h_br
  rw [decode_short w l]
  have e1 : fld w 1 6 = 27 := f1
  have e2 : fld w 27 5 = 4 := f27
  have e3 : fldA w = 0 := ofNat_fld f12
  have e4 : fldD w = d := (ofNat_fld f7).trans (ofNat_self _)
  have e5 : fldK w = k := (ofNat_fld f22).trans (ofNat_self _)
  have eb : srcOf w = some b := h_bc w f25 f17
  simp [decodeShort, decodeVecFp, e1, e2, e3, e4, e5, eb, withVal_some, need_true]

theorem RoundTrip.vfmin (d : VReg) (a : VReg) (b : Src) (k : KReg) : RoundTrip.Statement (.vfmin d a b k) := by
  intro _ hwf
  obtain ⟨bs, br, h_b, h_bs, h_br, h_bc⟩ := Src.code_eq b
  have h_d := d.isLt
  have h_a := a.isLt
  have h_k := k.isLt
  rw [show encode (.vfmin d a b k) = (encFV 5 b.code k.toNat a.toNat d.toNat 0x1B, 0) from rfl]
  dsimp only
  generalize hw0 : encFV 5 b.code k.toNat a.toNat d.toNat 0x1B = w
  obtain ⟨l, f1, f7, f12, f17, f22, f25, f27⟩ := fields_FV hw0 h_b h_bs (by decide) (by omega) (by omega) (by omega) (by decide) h_br
  rw [decode_short w l]
  have e1 : fld w 1 6 = 27 := f1
  have e2 : fld w 27 5 = 5 := f27
  have e3 : fldA w = a := (ofNat_fld f12).trans (ofNat_self _)
  have e4 : fldD w = d := (ofNat_fld f7).trans (ofNat_self _)
  have e5 : fldK w = k := (ofNat_fld f22).trans (ofNat_self _)
  have eb : srcOf w = some b := h_bc w f25 f17
  simp [decodeShort, decodeVecFp, e1, e2, e3, e4, e5, eb, withVal_some]

theorem RoundTrip.vfmax (d : VReg) (a : VReg) (b : Src) (k : KReg) : RoundTrip.Statement (.vfmax d a b k) := by
  intro _ hwf
  obtain ⟨bs, br, h_b, h_bs, h_br, h_bc⟩ := Src.code_eq b
  have h_d := d.isLt
  have h_a := a.isLt
  have h_k := k.isLt
  rw [show encode (.vfmax d a b k) = (encFV 6 b.code k.toNat a.toNat d.toNat 0x1B, 0) from rfl]
  dsimp only
  generalize hw0 : encFV 6 b.code k.toNat a.toNat d.toNat 0x1B = w
  obtain ⟨l, f1, f7, f12, f17, f22, f25, f27⟩ := fields_FV hw0 h_b h_bs (by decide) (by omega) (by omega) (by omega) (by decide) h_br
  rw [decode_short w l]
  have e1 : fld w 1 6 = 27 := f1
  have e2 : fld w 27 5 = 6 := f27
  have e3 : fldA w = a := (ofNat_fld f12).trans (ofNat_self _)
  have e4 : fldD w = d := (ofNat_fld f7).trans (ofNat_self _)
  have e5 : fldK w = k := (ofNat_fld f22).trans (ofNat_self _)
  have eb : srcOf w = some b := h_bc w f25 f17
  simp [decodeShort, decodeVecFp, e1, e2, e3, e4, e5, eb, withVal_some]

theorem RoundTrip.vfcmpEq (d : KReg) (a : VReg) (b : Src) (k : KReg) : RoundTrip.Statement (.vfcmpEq d a b k) := by
  intro _ hwf
  obtain ⟨bs, br, h_b, h_bs, h_br, h_bc⟩ := Src.code_eq b
  have h_d := d.isLt
  have h_a := a.isLt
  have h_k := k.isLt
  rw [show encode (.vfcmpEq d a b k) = (encFV 8 b.code k.toNat a.toNat d.toNat 0x1B, 0) from rfl]
  dsimp only
  generalize hw0 : encFV 8 b.code k.toNat a.toNat d.toNat 0x1B = w
  obtain ⟨l, f1, f7, f12, f17, f22, f25, f27⟩ := fields_FV hw0 h_b h_bs (by decide) (by omega) (by omega) (by omega) (by decide) h_br
  rw [decode_short w l]
  have e1 : BitVec.ofNat 3 (w / 128) = d := (ofNat_fld ((fld_sub f7 0 3 (by decide)).trans (by unfold fld; omega : _ = d.toNat))).trans (ofNat_self _)
  have e2 : fld w 1 6 = 27 := f1
  have e3 : fld w 10 2 = 0 := (fld_sub f7 3 2 (by decide)).trans (by unfold fld; omega)
  have e4 : fld w 27 5 = 8 := f27
  have e5 : fldA w = a := (ofNat_fld f12).trans (ofNat_self _)
  have e7 : fldK w = k := (ofNat_fld f22).trans (ofNat_self _)
  have eb : srcOf w = some b := h_bc w f25 f17
  simp [decodeShort, decodeVecFp, e1, e2, e3, e4, e5, e7, eb, withVal_some, need_true]

theorem RoundTrip.vfcmpNe (d : KReg) (a : VReg) (b : Src) (k : KReg) : RoundTrip.Statement (.vfcmpNe d a b k) := by
  intro _ hwf
  obtain ⟨bs, br, h_b, h_bs, h_br, h_bc⟩ := Src.code_eq b
  have h_d := d.isLt
  have h_a := a.isLt
  have h_k := k.isLt
  rw [show encode (.vfcmpNe d a b k) = (encFV 9 b.code k.toNat a.toNat d.toNat 0x1B, 0) from rfl]
  dsimp only
  generalize hw0 : encFV 9 b.code k.toNat a.toNat d.toNat 0x1B = w
  obtain ⟨l, f1, f7, f12, f17, f22, f25, f27⟩ := fields_FV hw0 h_b h_bs (by decide) (by omega) (by omega) (by omega) (by decide) h_br
  rw [decode_short w l]
  have e1 : BitVec.ofNat 3 (w / 128) = d := (ofNat_fld ((fld_sub f7 0 3 (by decide)).trans (by unfold fld; omega : _ = d.toNat))).trans (ofNat_self _)
  have e2 : fld w 1 6 = 27 := f1
  have e3 : fld w 10 2 = 0 := (fld_sub f7 3 2 (by decide)).trans (by unfold fld; omega)
  have e4 : fld w 27 5 = 9 := f27
  have e5 : fldA w = a := (ofNat_fld f12).trans (ofNat_self _)
  have e7 : fldK w = k := (ofNat_fld f22).trans (ofNat_self _)
  have eb : srcOf w = some b := h_bc w f25 f17
  simp [decodeShort, decodeVecFp, e1, e2, e3, e4, e5, e7, eb, withVal_some, need_true]

theorem RoundTrip.vfcmpLt (d : KReg) (a : VReg) (b : Src) (k : KReg) : RoundTrip.Statement (.vfcmpLt d a b k) := by
  intro _ hwf
  obtain ⟨bs, br, h_b, h_bs, h_br, h_bc⟩ := Src.code_eq b
  have h_d := d.isLt
  have h_a := a.isLt
  have h_k := k.isLt
  rw [show encode (.vfcmpLt d a b k) = (encFV 10 b.code k.toNat a.toNat d.toNat 0x1B, 0) from rfl]
  dsimp only
  generalize hw0 : encFV 10 b.code k.toNat a.toNat d.toNat 0x1B = w
  obtain ⟨l, f1, f7, f12, f17, f22, f25, f27⟩ := fields_FV hw0 h_b h_bs (by decide) (by omega) (by omega) (by omega) (by decide) h_br
  rw [decode_short w l]
  have e1 : BitVec.ofNat 3 (w / 128) = d := (ofNat_fld ((fld_sub f7 0 3 (by decide)).trans (by unfold fld; omega : _ = d.toNat))).trans (ofNat_self _)
  have e2 : fld w 1 6 = 27 := f1
  have e3 : fld w 10 2 = 0 := (fld_sub f7 3 2 (by decide)).trans (by unfold fld; omega)
  have e4 : fld w 27 5 = 10 := f27
  have e5 : fldA w = a := (ofNat_fld f12).trans (ofNat_self _)
  have e7 : fldK w = k := (ofNat_fld f22).trans (ofNat_self _)
  have eb : srcOf w = some b := h_bc w f25 f17
  simp [decodeShort, decodeVecFp, e1, e2, e3, e4, e5, e7, eb, withVal_some, need_true]

theorem RoundTrip.vfcmpLe (d : KReg) (a : VReg) (b : Src) (k : KReg) : RoundTrip.Statement (.vfcmpLe d a b k) := by
  intro _ hwf
  obtain ⟨bs, br, h_b, h_bs, h_br, h_bc⟩ := Src.code_eq b
  have h_d := d.isLt
  have h_a := a.isLt
  have h_k := k.isLt
  rw [show encode (.vfcmpLe d a b k) = (encFV 11 b.code k.toNat a.toNat d.toNat 0x1B, 0) from rfl]
  dsimp only
  generalize hw0 : encFV 11 b.code k.toNat a.toNat d.toNat 0x1B = w
  obtain ⟨l, f1, f7, f12, f17, f22, f25, f27⟩ := fields_FV hw0 h_b h_bs (by decide) (by omega) (by omega) (by omega) (by decide) h_br
  rw [decode_short w l]
  have e1 : BitVec.ofNat 3 (w / 128) = d := (ofNat_fld ((fld_sub f7 0 3 (by decide)).trans (by unfold fld; omega : _ = d.toNat))).trans (ofNat_self _)
  have e2 : fld w 1 6 = 27 := f1
  have e3 : fld w 10 2 = 0 := (fld_sub f7 3 2 (by decide)).trans (by unfold fld; omega)
  have e4 : fld w 27 5 = 11 := f27
  have e5 : fldA w = a := (ofNat_fld f12).trans (ofNat_self _)
  have e7 : fldK w = k := (ofNat_fld f22).trans (ofNat_self _)
  have eb : srcOf w = some b := h_bc w f25 f17
  simp [decodeShort, decodeVecFp, e1, e2, e3, e4, e5, e7, eb, withVal_some, need_true]

theorem RoundTrip.vfexp2 (d : VReg) (b : Src) (k : KReg) : RoundTrip.Statement (.vfexp2 d b k) := by
  intro _ hwf
  obtain ⟨bs, br, h_b, h_bs, h_br, h_bc⟩ := Src.code_eq b
  have h_d := d.isLt
  have h_k := k.isLt
  rw [show encode (.vfexp2 d b k) = (encFV 12 b.code k.toNat 0 d.toNat 0x1B, 0) from rfl]
  dsimp only
  generalize hw0 : encFV 12 b.code k.toNat 0 d.toNat 0x1B = w
  obtain ⟨l, f1, f7, f12, f17, f22, f25, f27⟩ := fields_FV hw0 h_b h_bs (by decide) (by omega) (by decide) (by omega) (by decide) h_br
  rw [decode_short w l]
  have e1 : fld w 1 6 = 27 := f1
  have e2 : fld w 27 5 = 12 := f27
  have e3 : fldA w = 0 := ofNat_fld f12
  have e4 : fldD w = d := (ofNat_fld f7).trans (ofNat_self _)
  have e5 : fldK w = k := (ofNat_fld f22).trans (ofNat_self _)
  have eb : srcOf w = some b := h_bc w f25 f17
  simp [decodeShort, decodeVecFp, e1, e2, e3, e4, e5, eb, withVal_some, need_true]

theorem RoundTrip.vfrcp (d : VReg) (b : Src) (k : KReg) : RoundTrip.Statement (.vfrcp d b k) := by
  intro _ hwf
  obtain ⟨bs, br, h_b, h_bs, h_br, h_bc⟩ := Src.code_eq b
  have h_d := d.isLt
  have h_k := k.isLt
  rw [show encode (.vfrcp d b k) = (encFV 13 b.code k.toNat 0 d.toNat 0x1B, 0) from rfl]
  dsimp only
  generalize hw0 : encFV 13 b.code k.toNat 0 d.toNat 0x1B = w
  obtain ⟨l, f1, f7, f12, f17, f22, f25, f27⟩ := fields_FV hw0 h_b h_bs (by decide) (by omega) (by decide) (by omega) (by decide) h_br
  rw [decode_short w l]
  have e1 : fld w 1 6 = 27 := f1
  have e2 : fld w 27 5 = 13 := f27
  have e3 : fldA w = 0 := ofNat_fld f12
  have e4 : fldD w = d := (ofNat_fld f7).trans (ofNat_self _)
  have e5 : fldK w = k := (ofNat_fld f22).trans (ofNat_self _)
  have eb : srcOf w = some b := h_bc w f25 f17
  simp [decodeShort, decodeVecFp, e1, e2, e3, e4, e5, eb, withVal_some, need_true]

theorem RoundTrip.vfrsq (d : VReg) (b : Src) (k : KReg) : RoundTrip.Statement (.vfrsq d b k) := by
  intro _ hwf
  obtain ⟨bs, br, h_b, h_bs, h_br, h_bc⟩ := Src.code_eq b
  have h_d := d.isLt
  have h_k := k.isLt
  rw [show encode (.vfrsq d b k) = (encFV 14 b.code k.toNat 0 d.toNat 0x1B, 0) from rfl]
  dsimp only
  generalize hw0 : encFV 14 b.code k.toNat 0 d.toNat 0x1B = w
  obtain ⟨l, f1, f7, f12, f17, f22, f25, f27⟩ := fields_FV hw0 h_b h_bs (by decide) (by omega) (by decide) (by omega) (by decide) h_br
  rw [decode_short w l]
  have e1 : fld w 1 6 = 27 := f1
  have e2 : fld w 27 5 = 14 := f27
  have e3 : fldA w = 0 := ofNat_fld f12
  have e4 : fldD w = d := (ofNat_fld f7).trans (ofNat_self _)
  have e5 : fldK w = k := (ofNat_fld f22).trans (ofNat_self _)
  have eb : srcOf w = some b := h_bc w f25 f17
  simp [decodeShort, decodeVecFp, e1, e2, e3, e4, e5, eb, withVal_some, need_true]

theorem RoundTrip.vfma (d : VReg) (a : VReg) (b : Src) (k : KReg) : RoundTrip.Statement (.vfma d a b k) := by
  intro _ hwf
  obtain ⟨bs, br, h_b, h_bs, h_br, h_bc⟩ := Src.code_eq b
  have h_d := d.isLt
  have h_a := a.isLt
  have h_k := k.isLt
  rw [show encode (.vfma d a b k) = (encFV 0 b.code k.toNat a.toNat d.toNat 0x1C, 0) from rfl]
  dsimp only
  generalize hw0 : encFV 0 b.code k.toNat a.toNat d.toNat 0x1C = w
  obtain ⟨l, f1, f7, f12, f17, f22, f25, f27⟩ := fields_FV hw0 h_b h_bs (by decide) (by omega) (by omega) (by omega) (by decide) h_br
  rw [decode_short w l]
  have e1 : fld w 1 6 = 28 := f1
  have e2 : fld w 27 5 = 0 := f27
  have e3 : fldA w = a := (ofNat_fld f12).trans (ofNat_self _)
  have e4 : fldD w = d := (ofNat_fld f7).trans (ofNat_self _)
  have e5 : fldK w = k := (ofNat_fld f22).trans (ofNat_self _)
  have eb : srcOf w = some b := h_bc w f25 f17
  simp [decodeShort, decodeVecFma, e1, e2, e3, e4, e5, eb, withVal_some]

theorem RoundTrip.vfnma (d : VReg) (a : VReg) (b : Src) (k : KReg) : RoundTrip.Statement (.vfnma d a b k) := by
  intro _ hwf
  obtain ⟨bs, br, h_b, h_bs, h_br, h_bc⟩ := Src.code_eq b
  have h_d := d.isLt
  have h_a := a.isLt
  have h_k := k.isLt
  rw [show encode (.vfnma d a b k) = (encFV 1 b.code k.toNat a.toNat d.toNat 0x1C, 0) from rfl]
  dsimp only
  generalize hw0 : encFV 1 b.code k.toNat a.toNat d.toNat 0x1C = w
  obtain ⟨l, f1, f7, f12, f17, f22, f25, f27⟩ := fields_FV hw0 h_b h_bs (by decide) (by omega) (by omega) (by omega) (by decide) h_br
  rw [decode_short w l]
  have e1 : fld w 1 6 = 28 := f1
  have e2 : fld w 27 5 = 1 := f27
  have e3 : fldA w = a := (ofNat_fld f12).trans (ofNat_self _)
  have e4 : fldD w = d := (ofNat_fld f7).trans (ofNat_self _)
  have e5 : fldK w = k := (ofNat_fld f22).trans (ofNat_self _)
  have eb : srcOf w = some b := h_bc w f25 f17
  simp [decodeShort, decodeVecFma, e1, e2, e3, e4, e5, eb, withVal_some]

theorem RoundTrip.vfcvt (d : VReg) (src : ElemTy) (b : Src) (k : KReg) : RoundTrip.Statement (.vfcvt d src b k) := by
  intro _ hwf
  obtain ⟨bs, br, h_b, h_bs, h_br, h_bc⟩ := Src.code_eq b
  have h_d := d.isLt
  have h_src := ElemTy.code_lt src
  have h_k := k.isLt
  rw [show encode (.vfcvt d src b k) = (encFV src.code b.code k.toNat 0 d.toNat 0x1D, 0) from rfl]
  dsimp only
  generalize hw0 : encFV src.code b.code k.toNat 0 d.toNat 0x1D = w
  obtain ⟨l, f1, f7, f12, f17, f22, f25, f27⟩ := fields_FV hw0 h_b h_bs (by omega) (by omega) (by decide) (by omega) (by decide) h_br
  rw [decode_short w l]
  have e1 : fld w 1 6 = 29 := f1
  have e2 : fld w 25 2 = bs := f25
  have e3 : fld w 27 4 = src.code := (fld_sub f27 0 4 (by decide)).trans (by unfold fld; omega)
  have e4 : fld w 31 1 = 0 := (fld_sub f27 4 1 (by decide)).trans (by unfold fld; omega)
  have e5 : fldA w = 0 := ofNat_fld f12
  have e6 : fldD w = d := (ofNat_fld f7).trans (ofNat_self _)
  have e7 : fldK w = k := (ofNat_fld f22).trans (ofNat_self _)
  have eb : srcOf w = some b := h_bc w f25 f17
  simp [decodeShort, decodeVecCvt, e1, e2, e3, e4, e5, e6, e7, eb, withVal_some, need_true, ElemTy.of_code]
  have h2 := Src.notImm_code b hwf
  have h3 : ¬ bs = 3 := by omega
  simp [h3, need_true]

theorem RoundTrip.kand (d : KReg) (a : KReg) (b : KReg) : RoundTrip.Statement (.kand d a b) := by
  intro _ hwf
  have h_d := d.isLt
  have h_a := a.isLt
  have h_b := b.isLt
  rw [show encode (.kand d a b) = (encFV 0 (b.toNat * 2 ^ 17) 0 a.toNat d.toNat 0x1E, 0) from rfl]
  dsimp only
  generalize hw0 : encFV 0 (b.toNat * 2 ^ 17) 0 a.toNat d.toNat 0x1E = w
  obtain ⟨l, f1, f7, f12, f17, f22, f25, f27⟩ := fields_FV hw0 (show _ = 0 * 2 ^ 25 + b.toNat * 2 ^ 17 by omega) (by decide) (by decide) (by decide) (by omega) (by omega) (by decide) (by omega)
  rw [decode_short w l]
  have e1 : BitVec.ofNat 3 (w / 4096) = a := (ofNat_fld ((fld_sub f12 0 3 (by decide)).trans (by unfold fld; omega : _ = a.toNat))).trans (ofNat_self _)
  have e2 : BitVec.ofNat 3 (w / 131072) = b := (ofNat_fld ((fld_sub f17 0 3 (by decide)).trans (by unfold fld; omega : _ = b.toNat))).trans (ofNat_self _)
  have e3 : BitVec.ofNat 3 (w / 128) = d := (ofNat_fld ((fld_sub f7 0 3 (by decide)).trans (by unfold fld; omega : _ = d.toNat))).trans (ofNat_self _)
  have e4 : fld w 1 6 = 30 := f1
  have e5 : fld w 10 2 = 0 := (fld_sub f7 3 2 (by decide)).trans (by unfold fld; omega)
  have e6 : fld w 15 2 = 0 := (fld_sub f12 3 2 (by decide)).trans (by unfold fld; omega)
  have e7 : fld w 20 2 = 0 := (fld_sub f17 3 2 (by decide)).trans (by unfold fld; omega)
  have e8 : fld w 22 5 = 0 := by rw [← hw0]; unfold fld encFV; omega
  have e9 : fld w 27 5 = 0 := f27
  simp [decodeShort, decodeMask, e1, e2, e3, e4, e5, e6, e7, e8, e9, need_true]

theorem RoundTrip.kor (d : KReg) (a : KReg) (b : KReg) : RoundTrip.Statement (.kor d a b) := by
  intro _ hwf
  have h_d := d.isLt
  have h_a := a.isLt
  have h_b := b.isLt
  rw [show encode (.kor d a b) = (encFV 1 (b.toNat * 2 ^ 17) 0 a.toNat d.toNat 0x1E, 0) from rfl]
  dsimp only
  generalize hw0 : encFV 1 (b.toNat * 2 ^ 17) 0 a.toNat d.toNat 0x1E = w
  obtain ⟨l, f1, f7, f12, f17, f22, f25, f27⟩ := fields_FV hw0 (show _ = 0 * 2 ^ 25 + b.toNat * 2 ^ 17 by omega) (by decide) (by decide) (by decide) (by omega) (by omega) (by decide) (by omega)
  rw [decode_short w l]
  have e1 : BitVec.ofNat 3 (w / 4096) = a := (ofNat_fld ((fld_sub f12 0 3 (by decide)).trans (by unfold fld; omega : _ = a.toNat))).trans (ofNat_self _)
  have e2 : BitVec.ofNat 3 (w / 131072) = b := (ofNat_fld ((fld_sub f17 0 3 (by decide)).trans (by unfold fld; omega : _ = b.toNat))).trans (ofNat_self _)
  have e3 : BitVec.ofNat 3 (w / 128) = d := (ofNat_fld ((fld_sub f7 0 3 (by decide)).trans (by unfold fld; omega : _ = d.toNat))).trans (ofNat_self _)
  have e4 : fld w 1 6 = 30 := f1
  have e5 : fld w 10 2 = 0 := (fld_sub f7 3 2 (by decide)).trans (by unfold fld; omega)
  have e6 : fld w 15 2 = 0 := (fld_sub f12 3 2 (by decide)).trans (by unfold fld; omega)
  have e7 : fld w 20 2 = 0 := (fld_sub f17 3 2 (by decide)).trans (by unfold fld; omega)
  have e8 : fld w 22 5 = 0 := by rw [← hw0]; unfold fld encFV; omega
  have e9 : fld w 27 5 = 1 := f27
  simp [decodeShort, decodeMask, e1, e2, e3, e4, e5, e6, e7, e8, e9, need_true]

theorem RoundTrip.kxor (d : KReg) (a : KReg) (b : KReg) : RoundTrip.Statement (.kxor d a b) := by
  intro _ hwf
  have h_d := d.isLt
  have h_a := a.isLt
  have h_b := b.isLt
  rw [show encode (.kxor d a b) = (encFV 2 (b.toNat * 2 ^ 17) 0 a.toNat d.toNat 0x1E, 0) from rfl]
  dsimp only
  generalize hw0 : encFV 2 (b.toNat * 2 ^ 17) 0 a.toNat d.toNat 0x1E = w
  obtain ⟨l, f1, f7, f12, f17, f22, f25, f27⟩ := fields_FV hw0 (show _ = 0 * 2 ^ 25 + b.toNat * 2 ^ 17 by omega) (by decide) (by decide) (by decide) (by omega) (by omega) (by decide) (by omega)
  rw [decode_short w l]
  have e1 : BitVec.ofNat 3 (w / 4096) = a := (ofNat_fld ((fld_sub f12 0 3 (by decide)).trans (by unfold fld; omega : _ = a.toNat))).trans (ofNat_self _)
  have e2 : BitVec.ofNat 3 (w / 131072) = b := (ofNat_fld ((fld_sub f17 0 3 (by decide)).trans (by unfold fld; omega : _ = b.toNat))).trans (ofNat_self _)
  have e3 : BitVec.ofNat 3 (w / 128) = d := (ofNat_fld ((fld_sub f7 0 3 (by decide)).trans (by unfold fld; omega : _ = d.toNat))).trans (ofNat_self _)
  have e4 : fld w 1 6 = 30 := f1
  have e5 : fld w 10 2 = 0 := (fld_sub f7 3 2 (by decide)).trans (by unfold fld; omega)
  have e6 : fld w 15 2 = 0 := (fld_sub f12 3 2 (by decide)).trans (by unfold fld; omega)
  have e7 : fld w 20 2 = 0 := (fld_sub f17 3 2 (by decide)).trans (by unfold fld; omega)
  have e8 : fld w 22 5 = 0 := by rw [← hw0]; unfold fld encFV; omega
  have e9 : fld w 27 5 = 2 := f27
  simp [decodeShort, decodeMask, e1, e2, e3, e4, e5, e6, e7, e8, e9, need_true]

theorem RoundTrip.knot (d : KReg) (b : KReg) : RoundTrip.Statement (.knot d b) := by
  intro _ hwf
  have h_d := d.isLt
  have h_b := b.isLt
  rw [show encode (.knot d b) = (encFV 3 (b.toNat * 2 ^ 17) 0 0 d.toNat 0x1E, 0) from rfl]
  dsimp only
  generalize hw0 : encFV 3 (b.toNat * 2 ^ 17) 0 0 d.toNat 0x1E = w
  obtain ⟨l, f1, f7, f12, f17, f22, f25, f27⟩ := fields_FV hw0 (show _ = 0 * 2 ^ 25 + b.toNat * 2 ^ 17 by omega) (by decide) (by decide) (by decide) (by decide) (by omega) (by decide) (by omega)
  rw [decode_short w l]
  have e2 : BitVec.ofNat 3 (w / 131072) = b := (ofNat_fld ((fld_sub f17 0 3 (by decide)).trans (by unfold fld; omega : _ = b.toNat))).trans (ofNat_self _)
  have e3 : BitVec.ofNat 3 (w / 128) = d := (ofNat_fld ((fld_sub f7 0 3 (by decide)).trans (by unfold fld; omega : _ = d.toNat))).trans (ofNat_self _)
  have e4 : fld w 1 6 = 30 := f1
  have e5 : fld w 10 2 = 0 := (fld_sub f7 3 2 (by decide)).trans (by unfold fld; omega)
  have e7 : fld w 20 2 = 0 := (fld_sub f17 3 2 (by decide)).trans (by unfold fld; omega)
  have e8 : fld w 22 5 = 0 := by rw [← hw0]; unfold fld encFV; omega
  have e9 : fld w 27 5 = 3 := f27
  have e10 : fldA w = 0 := ofNat_fld f12
  simp [decodeShort, decodeMask, e2, e3, e4, e5, e7, e8, e9, e10, need_true]

theorem RoundTrip.kpopc (d : GReg) (a : KReg) (b : KReg) : RoundTrip.Statement (.kpopc d a b) := by
  intro _ hwf
  have h_d := d.isLt
  have h_a := a.isLt
  have h_b := b.isLt
  rw [show encode (.kpopc d a b) = (encFV 4 (b.toNat * 2 ^ 17) 0 a.toNat d.toNat 0x1E, 0) from rfl]
  dsimp only
  generalize hw0 : encFV 4 (b.toNat * 2 ^ 17) 0 a.toNat d.toNat 0x1E = w
  obtain ⟨l, f1, f7, f12, f17, f22, f25, f27⟩ := fields_FV hw0 (show _ = 0 * 2 ^ 25 + b.toNat * 2 ^ 17 by omega) (by decide) (by decide) (by decide) (by omega) (by omega) (by decide) (by omega)
  rw [decode_short w l]
  have e1 : BitVec.ofNat 3 (w / 4096) = a := (ofNat_fld ((fld_sub f12 0 3 (by decide)).trans (by unfold fld; omega : _ = a.toNat))).trans (ofNat_self _)
  have e2 : BitVec.ofNat 3 (w / 131072) = b := (ofNat_fld ((fld_sub f17 0 3 (by decide)).trans (by unfold fld; omega : _ = b.toNat))).trans (ofNat_self _)
  have e3 : fld w 1 6 = 30 := f1
  have e4 : fld w 15 2 = 0 := (fld_sub f12 3 2 (by decide)).trans (by unfold fld; omega)
  have e5 : fld w 20 2 = 0 := (fld_sub f17 3 2 (by decide)).trans (by unfold fld; omega)
  have e6 : fld w 22 5 = 0 := by rw [← hw0]; unfold fld encFV; omega
  have e7 : fld w 27 5 = 4 := f27
  have e9 : fldD w = d := (ofNat_fld f7).trans (ofNat_self _)
  simp [decodeShort, decodeMask, e1, e2, e3, e4, e5, e6, e7, e9, need_true]

theorem RoundTrip.kfirst (d : GReg) (a : KReg) (b : KReg) : RoundTrip.Statement (.kfirst d a b) := by
  intro _ hwf
  have h_d := d.isLt
  have h_a := a.isLt
  have h_b := b.isLt
  rw [show encode (.kfirst d a b) = (encFV 5 (b.toNat * 2 ^ 17) 0 a.toNat d.toNat 0x1E, 0) from rfl]
  dsimp only
  generalize hw0 : encFV 5 (b.toNat * 2 ^ 17) 0 a.toNat d.toNat 0x1E = w
  obtain ⟨l, f1, f7, f12, f17, f22, f25, f27⟩ := fields_FV hw0 (show _ = 0 * 2 ^ 25 + b.toNat * 2 ^ 17 by omega) (by decide) (by decide) (by decide) (by omega) (by omega) (by decide) (by omega)
  rw [decode_short w l]
  have e1 : BitVec.ofNat 3 (w / 4096) = a := (ofNat_fld ((fld_sub f12 0 3 (by decide)).trans (by unfold fld; omega : _ = a.toNat))).trans (ofNat_self _)
  have e2 : BitVec.ofNat 3 (w / 131072) = b := (ofNat_fld ((fld_sub f17 0 3 (by decide)).trans (by unfold fld; omega : _ = b.toNat))).trans (ofNat_self _)
  have e3 : fld w 1 6 = 30 := f1
  have e4 : fld w 15 2 = 0 := (fld_sub f12 3 2 (by decide)).trans (by unfold fld; omega)
  have e5 : fld w 20 2 = 0 := (fld_sub f17 3 2 (by decide)).trans (by unfold fld; omega)
  have e6 : fld w 22 5 = 0 := by rw [← hw0]; unfold fld encFV; omega
  have e7 : fld w 27 5 = 5 := f27
  have e9 : fldD w = d := (ofNat_fld f7).trans (ofNat_self _)
  simp [decodeShort, decodeMask, e1, e2, e3, e4, e5, e6, e7, e9, need_true]

theorem RoundTrip.kmov (d : KReg) (b : KReg) : RoundTrip.Statement (.kmov d b) := by
  intro _ hwf
  have h_d := d.isLt
  have h_b := b.isLt
  rw [show encode (.kmov d b) = (encFV 6 (b.toNat * 2 ^ 17) 0 0 d.toNat 0x1E, 0) from rfl]
  dsimp only
  generalize hw0 : encFV 6 (b.toNat * 2 ^ 17) 0 0 d.toNat 0x1E = w
  obtain ⟨l, f1, f7, f12, f17, f22, f25, f27⟩ := fields_FV hw0 (show _ = 0 * 2 ^ 25 + b.toNat * 2 ^ 17 by omega) (by decide) (by decide) (by decide) (by decide) (by omega) (by decide) (by omega)
  rw [decode_short w l]
  have e2 : BitVec.ofNat 3 (w / 131072) = b := (ofNat_fld ((fld_sub f17 0 3 (by decide)).trans (by unfold fld; omega : _ = b.toNat))).trans (ofNat_self _)
  have e3 : BitVec.ofNat 3 (w / 128) = d := (ofNat_fld ((fld_sub f7 0 3 (by decide)).trans (by unfold fld; omega : _ = d.toNat))).trans (ofNat_self _)
  have e4 : fld w 1 6 = 30 := f1
  have e5 : fld w 10 2 = 0 := (fld_sub f7 3 2 (by decide)).trans (by unfold fld; omega)
  have e7 : fld w 20 2 = 0 := (fld_sub f17 3 2 (by decide)).trans (by unfold fld; omega)
  have e8 : fld w 22 5 = 0 := by rw [← hw0]; unfold fld encFV; omega
  have e9 : fld w 27 5 = 6 := f27
  have e10 : fldA w = 0 := ofNat_fld f12
  simp [decodeShort, decodeMask, e2, e3, e4, e5, e7, e8, e9, e10, need_true]

theorem RoundTrip.vredsum (d : GReg) (a : GReg) (b : Src) (k : KReg) : RoundTrip.Statement (.vredsum d a b k) := by
  intro _ hwf
  obtain ⟨bs, br, h_b, h_bs, h_br, h_bc⟩ := Src.code_eq b
  have h_d := d.isLt
  have h_a := a.isLt
  have h_k := k.isLt
  rw [show encode (.vredsum d a b k) = (encFV 0 b.code k.toNat a.toNat d.toNat 0x1F, 0) from rfl]
  dsimp only
  generalize hw0 : encFV 0 b.code k.toNat a.toNat d.toNat 0x1F = w
  obtain ⟨l, f1, f7, f12, f17, f22, f25, f27⟩ := fields_FV hw0 h_b h_bs (by decide) (by omega) (by omega) (by omega) (by decide) h_br
  rw [decode_short w l]
  have ex : fld w 25 1 = 0 := (fld_sub f25 0 1 (by decide)).trans (by have := Src.isVec_code b hwf; unfold fld; omega)
  have e1 : fld w 1 6 = 31 := f1
  have e3 : fld w 27 5 = 0 := f27
  have e4 : fldA w = a := (ofNat_fld f12).trans (ofNat_self _)
  have e5 : fldD w = d := (ofNat_fld f7).trans (ofNat_self _)
  have e6 : fldK w = k := (ofNat_fld f22).trans (ofNat_self _)
  have eb : srcOf w = some b := h_bc w f25 f17
  simp [decodeShort, decodePermute, ex, e1, e3, e4, e5, e6, eb, withVal_some, need_true]

theorem RoundTrip.vredmax (d : GReg) (a : GReg) (b : Src) (k : KReg) : RoundTrip.Statement (.vredmax d a b k) := by
  intro _ hwf
  obtain ⟨bs, br, h_b, h_bs, h_br, h_bc⟩ := Src.code_eq b
  have h_d := d.isLt
  have h_a := a.isLt
  have h_k := k.isLt
  rw [show encode (.vredmax d a b k) = (encFV 1 b.code k.toNat a.toNat d.toNat 0x1F, 0) from rfl]
  dsimp only
  generalize hw0 : encFV 1 b.code k.toNat a.toNat d.toNat 0x1F = w
  obtain ⟨l, f1, f7, f12, f17, f22, f25, f27⟩ := fields_FV hw0 h_b h_bs (by decide) (by omega) (by omega) (by omega) (by decide) h_br
  rw [decode_short w l]
  have ex : fld w 25 1 = 0 := (fld_sub f25 0 1 (by decide)).trans (by have := Src.isVec_code b hwf; unfold fld; omega)
  have e1 : fld w 1 6 = 31 := f1
  have e3 : fld w 27 5 = 1 := f27
  have e4 : fldA w = a := (ofNat_fld f12).trans (ofNat_self _)
  have e5 : fldD w = d := (ofNat_fld f7).trans (ofNat_self _)
  have e6 : fldK w = k := (ofNat_fld f22).trans (ofNat_self _)
  have eb : srcOf w = some b := h_bc w f25 f17
  simp [decodeShort, decodePermute, ex, e1, e3, e4, e5, e6, eb, withVal_some, need_true]

theorem RoundTrip.vredmin (d : GReg) (a : GReg) (b : Src) (k : KReg) : RoundTrip.Statement (.vredmin d a b k) := by
  intro _ hwf
  obtain ⟨bs, br, h_b, h_bs, h_br, h_bc⟩ := Src.code_eq b
  have h_d := d.isLt
  have h_a := a.isLt
  have h_k := k.isLt
  rw [show encode (.vredmin d a b k) = (encFV 2 b.code k.toNat a.toNat d.toNat 0x1F, 0) from rfl]
  dsimp only
  generalize hw0 : encFV 2 b.code k.toNat a.toNat d.toNat 0x1F = w
  obtain ⟨l, f1, f7, f12, f17, f22, f25, f27⟩ := fields_FV hw0 h_b h_bs (by decide) (by omega) (by omega) (by omega) (by decide) h_br
  rw [decode_short w l]
  have ex : fld w 25 1 = 0 := (fld_sub f25 0 1 (by decide)).trans (by have := Src.isVec_code b hwf; unfold fld; omega)
  have e1 : fld w 1 6 = 31 := f1
  have e3 : fld w 27 5 = 2 := f27
  have e4 : fldA w = a := (ofNat_fld f12).trans (ofNat_self _)
  have e5 : fldD w = d := (ofNat_fld f7).trans (ofNat_self _)
  have e6 : fldK w = k := (ofNat_fld f22).trans (ofNat_self _)
  have eb : srcOf w = some b := h_bc w f25 f17
  simp [decodeShort, decodePermute, ex, e1, e3, e4, e5, e6, eb, withVal_some, need_true]

theorem RoundTrip.vfredsum (d : GReg) (a : GReg) (b : Src) (k : KReg) : RoundTrip.Statement (.vfredsum d a b k) := by
  intro _ hwf
  obtain ⟨bs, br, h_b, h_bs, h_br, h_bc⟩ := Src.code_eq b
  have h_d := d.isLt
  have h_a := a.isLt
  have h_k := k.isLt
  rw [show encode (.vfredsum d a b k) = (encFV 3 b.code k.toNat a.toNat d.toNat 0x1F, 0) from rfl]
  dsimp only
  generalize hw0 : encFV 3 b.code k.toNat a.toNat d.toNat 0x1F = w
  obtain ⟨l, f1, f7, f12, f17, f22, f25, f27⟩ := fields_FV hw0 h_b h_bs (by decide) (by omega) (by omega) (by omega) (by decide) h_br
  rw [decode_short w l]
  have ex : fld w 25 1 = 0 := (fld_sub f25 0 1 (by decide)).trans (by have := Src.isVec_code b hwf; unfold fld; omega)
  have e1 : fld w 1 6 = 31 := f1
  have e3 : fld w 27 5 = 3 := f27
  have e4 : fldA w = a := (ofNat_fld f12).trans (ofNat_self _)
  have e5 : fldD w = d := (ofNat_fld f7).trans (ofNat_self _)
  have e6 : fldK w = k := (ofNat_fld f22).trans (ofNat_self _)
  have eb : srcOf w = some b := h_bc w f25 f17
  simp [decodeShort, decodePermute, ex, e1, e3, e4, e5, e6, eb, withVal_some, need_true]

theorem RoundTrip.vfredo (d : GReg) (a : GReg) (b : Src) (k : KReg) : RoundTrip.Statement (.vfredo d a b k) := by
  intro _ hwf
  obtain ⟨bs, br, h_b, h_bs, h_br, h_bc⟩ := Src.code_eq b
  have h_d := d.isLt
  have h_a := a.isLt
  have h_k := k.isLt
  rw [show encode (.vfredo d a b k) = (encFV 4 b.code k.toNat a.toNat d.toNat 0x1F, 0) from rfl]
  dsimp only
  generalize hw0 : encFV 4 b.code k.toNat a.toNat d.toNat 0x1F = w
  obtain ⟨l, f1, f7, f12, f17, f22, f25, f27⟩ := fields_FV hw0 h_b h_bs (by decide) (by omega) (by omega) (by omega) (by decide) h_br
  rw [decode_short w l]
  have ex : fld w 25 1 = 0 := (fld_sub f25 0 1 (by decide)).trans (by have := Src.isVec_code b hwf; unfold fld; omega)
  have e1 : fld w 1 6 = 31 := f1
  have e3 : fld w 27 5 = 4 := f27
  have e4 : fldA w = a := (ofNat_fld f12).trans (ofNat_self _)
  have e5 : fldD w = d := (ofNat_fld f7).trans (ofNat_self _)
  have e6 : fldK w = k := (ofNat_fld f22).trans (ofNat_self _)
  have eb : srcOf w = some b := h_bc w f25 f17
  simp [decodeShort, decodePermute, ex, e1, e3, e4, e5, e6, eb, withVal_some, need_true]

theorem RoundTrip.vslideup (d : VReg) (a : VReg) (b : Src) (k : KReg) : RoundTrip.Statement (.vslideup d a b k) := by
  intro _ hwf
  obtain ⟨bs, br, h_b, h_bs, h_br, h_bc⟩ := Src.code_eq b
  have h_d := d.isLt
  have h_a := a.isLt
  have h_k := k.isLt
  rw [show encode (.vslideup d a b k) = (encFV 5 b.code k.toNat a.toNat d.toNat 0x1F, 0) from rfl]
  dsimp only
  generalize hw0 : encFV 5 b.code k.toNat a.toNat d.toNat 0x1F = w
  obtain ⟨l, f1, f7, f12, f17, f22, f25, f27⟩ := fields_FV hw0 h_b h_bs (by decide) (by omega) (by omega) (by omega) (by decide) h_br
  rw [decode_short w l]
  have ex : fld w 25 1 = 1 := (fld_sub f25 0 1 (by decide)).trans (by have := Src.isIndex_code b hwf; unfold fld; omega)
  have ey : fld w 26 1 * fld w 21 1 = 0 := by
    have h1 : fld w 26 1 = fld bs 1 1 := fld_sub f25 1 1 (by decide)
    have h2 : fld w 21 1 = fld br 4 1 := fld_sub f17 4 1 (by decide)
    have h3 := (Src.isIndex_code b hwf).2
    rw [h1, h2]
    unfold fld
    rcases h3 with h3 | h3
    · exact Nat.mul_eq_zero.mpr (.inl (by omega))
    · exact Nat.mul_eq_zero.mpr (.inr (by omega))
  have e1 : fld w 1 6 = 31 := f1
  have e3 : fld w 27 5 = 5 := f27
  have e4 : fldA w = a := (ofNat_fld f12).trans (ofNat_self _)
  have e5 : fldD w = d := (ofNat_fld f7).trans (ofNat_self _)
  have e6 : fldK w = k := (ofNat_fld f22).trans (ofNat_self _)
  have eb : srcOf w = some b := h_bc w f25 f17
  simp [decodeShort, decodePermute, ex, ey, e1, e3, e4, e5, e6, eb, withVal_some, need_true]

theorem RoundTrip.vslidedn (d : VReg) (a : VReg) (b : Src) (k : KReg) : RoundTrip.Statement (.vslidedn d a b k) := by
  intro _ hwf
  obtain ⟨bs, br, h_b, h_bs, h_br, h_bc⟩ := Src.code_eq b
  have h_d := d.isLt
  have h_a := a.isLt
  have h_k := k.isLt
  rw [show encode (.vslidedn d a b k) = (encFV 6 b.code k.toNat a.toNat d.toNat 0x1F, 0) from rfl]
  dsimp only
  generalize hw0 : encFV 6 b.code k.toNat a.toNat d.toNat 0x1F = w
  obtain ⟨l, f1, f7, f12, f17, f22, f25, f27⟩ := fields_FV hw0 h_b h_bs (by decide) (by omega) (by omega) (by omega) (by decide) h_br
  rw [decode_short w l]
  have ex : fld w 25 1 = 1 := (fld_sub f25 0 1 (by decide)).trans (by have := Src.isIndex_code b hwf; unfold fld; omega)
  have ey : fld w 26 1 * fld w 21 1 = 0 := by
    have h1 : fld w 26 1 = fld bs 1 1 := fld_sub f25 1 1 (by decide)
    have h2 : fld w 21 1 = fld br 4 1 := fld_sub f17 4 1 (by decide)
    have h3 := (Src.isIndex_code b hwf).2
    rw [h1, h2]
    unfold fld
    rcases h3 with h3 | h3
    · exact Nat.mul_eq_zero.mpr (.inl (by omega))
    · exact Nat.mul_eq_zero.mpr (.inr (by omega))
  have e1 : fld w 1 6 = 31 := f1
  have e3 : fld w 27 5 = 6 := f27
  have e4 : fldA w = a := (ofNat_fld f12).trans (ofNat_self _)
  have e5 : fldD w = d := (ofNat_fld f7).trans (ofNat_self _)
  have e6 : fldK w = k := (ofNat_fld f22).trans (ofNat_self _)
  have eb : srcOf w = some b := h_bc w f25 f17
  simp [decodeShort, decodePermute, ex, ey, e1, e3, e4, e5, e6, eb, withVal_some, need_true]

theorem RoundTrip.vperm (d : VReg) (a : VReg) (b : Src) (k : KReg) : RoundTrip.Statement (.vperm d a b k) := by
  intro _ hwf
  obtain ⟨bs, br, h_b, h_bs, h_br, h_bc⟩ := Src.code_eq b
  have h_d := d.isLt
  have h_a := a.isLt
  have h_k := k.isLt
  rw [show encode (.vperm d a b k) = (encFV 7 b.code k.toNat a.toNat d.toNat 0x1F, 0) from rfl]
  dsimp only
  generalize hw0 : encFV 7 b.code k.toNat a.toNat d.toNat 0x1F = w
  obtain ⟨l, f1, f7, f12, f17, f22, f25, f27⟩ := fields_FV hw0 h_b h_bs (by decide) (by omega) (by omega) (by omega) (by decide) h_br
  rw [decode_short w l]
  have ex : fld w 25 1 = 0 := (fld_sub f25 0 1 (by decide)).trans (by have := Src.isVec_code b hwf; unfold fld; omega)
  have e1 : fld w 1 6 = 31 := f1
  have e3 : fld w 27 5 = 7 := f27
  have e4 : fldA w = a := (ofNat_fld f12).trans (ofNat_self _)
  have e5 : fldD w = d := (ofNat_fld f7).trans (ofNat_self _)
  have e6 : fldK w = k := (ofNat_fld f22).trans (ofNat_self _)
  have eb : srcOf w = some b := h_bc w f25 f17
  simp [decodeShort, decodePermute, ex, e1, e3, e4, e5, e6, eb, withVal_some, need_true]

theorem RoundTrip.vcompress (d : VReg) (b : Src) (k : KReg) : RoundTrip.Statement (.vcompress d b k) := by
  intro _ hwf
  obtain ⟨bs, br, h_b, h_bs, h_br, h_bc⟩ := Src.code_eq b
  have h_d := d.isLt
  have h_k := k.isLt
  rw [show encode (.vcompress d b k) = (encFV 8 b.code k.toNat 0 d.toNat 0x1F, 0) from rfl]
  dsimp only
  generalize hw0 : encFV 8 b.code k.toNat 0 d.toNat 0x1F = w
  obtain ⟨l, f1, f7, f12, f17, f22, f25, f27⟩ := fields_FV hw0 h_b h_bs (by decide) (by omega) (by decide) (by omega) (by decide) h_br
  rw [decode_short w l]
  have ex : fld w 25 1 = 0 := (fld_sub f25 0 1 (by decide)).trans (by have := Src.isVec_code b hwf; unfold fld; omega)
  have e1 : fld w 1 6 = 31 := f1
  have e3 : fld w 27 5 = 8 := f27
  have e4 : fldA w = 0 := ofNat_fld f12
  have e5 : fldD w = d := (ofNat_fld f7).trans (ofNat_self _)
  have e6 : fldK w = k := (ofNat_fld f22).trans (ofNat_self _)
  have eb : srcOf w = some b := h_bc w f25 f17
  simp [decodeShort, decodePermute, ex, e1, e3, e4, e5, e6, eb, withVal_some, need_true]

theorem RoundTrip.vexpand (d : VReg) (b : Src) (k : KReg) : RoundTrip.Statement (.vexpand d b k) := by
  intro _ hwf
  obtain ⟨bs, br, h_b, h_bs, h_br, h_bc⟩ := Src.code_eq b
  have h_d := d.isLt
  have h_k := k.isLt
  rw [show encode (.vexpand d b k) = (encFV 9 b.code k.toNat 0 d.toNat 0x1F, 0) from rfl]
  dsimp only
  generalize hw0 : encFV 9 b.code k.toNat 0 d.toNat 0x1F = w
  obtain ⟨l, f1, f7, f12, f17, f22, f25, f27⟩ := fields_FV hw0 h_b h_bs (by decide) (by omega) (by decide) (by omega) (by decide) h_br
  rw [decode_short w l]
  have ex : fld w 25 1 = 0 := (fld_sub f25 0 1 (by decide)).trans (by have := Src.isVec_code b hwf; unfold fld; omega)
  have e1 : fld w 1 6 = 31 := f1
  have e3 : fld w 27 5 = 9 := f27
  have e4 : fldA w = 0 := ofNat_fld f12
  have e5 : fldD w = d := (ofNat_fld f7).trans (ofNat_self _)
  have e6 : fldK w = k := (ofNat_fld f22).trans (ofNat_self _)
  have eb : srcOf w = some b := h_bc w f25 f17
  simp [decodeShort, decodePermute, ex, e1, e3, e4, e5, e6, eb, withVal_some, need_true]

theorem RoundTrip.viota (d : VReg) (b : KReg) (k : KReg) : RoundTrip.Statement (.viota d b k) := by
  intro _ hwf
  have h_d := d.isLt
  have h_b := b.isLt
  have h_k := k.isLt
  rw [show encode (.viota d b k) = (encFV 10 (b.toNat * 2 ^ 17) k.toNat 0 d.toNat 0x1F, 0) from rfl]
  dsimp only
  generalize hw0 : encFV 10 (b.toNat * 2 ^ 17) k.toNat 0 d.toNat 0x1F = w
  obtain ⟨l, f1, f7, f12, f17, f22, f25, f27⟩ := fields_FV hw0 (show _ = 0 * 2 ^ 25 + b.toNat * 2 ^ 17 by omega) (by decide) (by decide) (by omega) (by decide) (by omega) (by decide) (by omega)
  rw [decode_short w l]
  have ex : srcOf w = some (.v (fldB w)) := by simp [srcOf, f25]
  have e1 : BitVec.ofNat 3 (w / 131072) = b := (ofNat_fld ((fld_sub f17 0 3 (by decide)).trans (by unfold fld; omega : _ = b.toNat))).trans (ofNat_self _)
  have e2 : fld w 1 6 = 31 := f1
  have e3 : fld w 20 2 = 0 := (fld_sub f17 3 2 (by decide)).trans (by unfold fld; omega)
  have e6 : fld w 25 2 = 0 := f25
  have e8 : fld w 27 5 = 10 := f27
  have e9 : fldA w = 0 := ofNat_fld f12
  have e10 : fldD w = d := (ofNat_fld f7).trans (ofNat_self _)
  have e11 : fldK w = k := (ofNat_fld f22).trans (ofNat_self _)
  simp [decodeShort, decodePermute, ex, e1, e2, e3, e6, e8, e9, e10, e11, withVal_some, need_true]

theorem RoundTrip.vbcast (d : VReg) (b : Src) (k : KReg) : RoundTrip.Statement (.vbcast d b k) := by
  intro _ hwf
  obtain ⟨bs, br, h_b, h_bs, h_br, h_bc⟩ := Src.code_eq b
  have h_d := d.isLt
  have h_k := k.isLt
  rw [show encode (.vbcast d b k) = (encFV 11 b.code k.toNat 0 d.toNat 0x1F, 0) from rfl]
  dsimp only
  generalize hw0 : encFV 11 b.code k.toNat 0 d.toNat 0x1F = w
  obtain ⟨l, f1, f7, f12, f17, f22, f25, f27⟩ := fields_FV hw0 h_b h_bs (by decide) (by omega) (by decide) (by omega) (by decide) h_br
  rw [decode_short w l]
  have e1 : fld w 1 6 = 31 := f1
  have e2 : fld w 25 2 = bs := f25
  have e3 : fld w 27 5 = 11 := f27
  have e4 : fldA w = 0 := ofNat_fld f12
  have e5 : fldD w = d := (ofNat_fld f7).trans (ofNat_self _)
  have e6 : fldK w = k := (ofNat_fld f22).trans (ofNat_self _)
  have eb : srcOf w = some b := h_bc w f25 f17
  simp [decodeShort, decodePermute, e1, e2, e3, e4, e5, e6, eb, withVal_some, need_true]
  have h2 := Src.notQueue_code b hwf
  have h3 : ¬ bs = 2 := by omega
  simp [h3, need_true]

theorem RoundTrip.vextr (d : GReg) (a : VReg) (b : Src) : RoundTrip.Statement (.vextr d a b) := by
  intro _ hwf
  obtain ⟨bs, br, h_b, h_bs, h_br, h_bc⟩ := Src.code_eq b
  have h_d := d.isLt
  have h_a := a.isLt
  rw [show encode (.vextr d a b) = (encFV 12 b.code 0 a.toNat d.toNat 0x1F, 0) from rfl]
  dsimp only
  generalize hw0 : encFV 12 b.code 0 a.toNat d.toNat 0x1F = w
  obtain ⟨l, f1, f7, f12, f17, f22, f25, f27⟩ := fields_FV hw0 h_b h_bs (by decide) (by decide) (by omega) (by omega) (by decide) h_br
  rw [decode_short w l]
  have ex : fld w 25 1 = 1 := (fld_sub f25 0 1 (by decide)).trans (by have := Src.isIndex_code b hwf; unfold fld; omega)
  have ey : fld w 26 1 * fld w 21 1 = 0 := by
    have h1 : fld w 26 1 = fld bs 1 1 := fld_sub f25 1 1 (by decide)
    have h2 : fld w 21 1 = fld br 4 1 := fld_sub f17 4 1 (by decide)
    have h3 := (Src.isIndex_code b hwf).2
    rw [h1, h2]
    unfold fld
    rcases h3 with h3 | h3
    · exact Nat.mul_eq_zero.mpr (.inl (by omega))
    · exact Nat.mul_eq_zero.mpr (.inr (by omega))
  have e1 : fld w 1 6 = 31 := f1
  have e3 : fld w 27 5 = 12 := f27
  have e4 : fldA w = a := (ofNat_fld f12).trans (ofNat_self _)
  have e5 : fldD w = d := (ofNat_fld f7).trans (ofNat_self _)
  have e6 : fldK w = 0 := ofNat_fld f22
  have eb : srcOf w = some b := h_bc w f25 f17
  simp [decodeShort, decodePermute, ex, ey, e1, e3, e4, e5, e6, eb, withVal_some, need_true]

theorem RoundTrip.vins (d : VReg) (a : GReg) (b : Src) (k : KReg) : RoundTrip.Statement (.vins d a b k) := by
  intro _ hwf
  obtain ⟨bs, br, h_b, h_bs, h_br, h_bc⟩ := Src.code_eq b
  have h_d := d.isLt
  have h_a := a.isLt
  have h_k := k.isLt
  rw [show encode (.vins d a b k) = (encFV 13 b.code k.toNat a.toNat d.toNat 0x1F, 0) from rfl]
  dsimp only
  generalize hw0 : encFV 13 b.code k.toNat a.toNat d.toNat 0x1F = w
  obtain ⟨l, f1, f7, f12, f17, f22, f25, f27⟩ := fields_FV hw0 h_b h_bs (by decide) (by omega) (by omega) (by omega) (by decide) h_br
  rw [decode_short w l]
  have ex : fld w 25 1 = 1 := (fld_sub f25 0 1 (by decide)).trans (by have := Src.isIndex_code b hwf; unfold fld; omega)
  have ey : fld w 26 1 * fld w 21 1 = 0 := by
    have h1 : fld w 26 1 = fld bs 1 1 := fld_sub f25 1 1 (by decide)
    have h2 : fld w 21 1 = fld br 4 1 := fld_sub f17 4 1 (by decide)
    have h3 := (Src.isIndex_code b hwf).2
    rw [h1, h2]
    unfold fld
    rcases h3 with h3 | h3
    · exact Nat.mul_eq_zero.mpr (.inl (by omega))
    · exact Nat.mul_eq_zero.mpr (.inr (by omega))
  have e1 : fld w 1 6 = 31 := f1
  have e3 : fld w 27 5 = 13 := f27
  have e4 : fldA w = a := (ofNat_fld f12).trans (ofNat_self _)
  have e5 : fldD w = d := (ofNat_fld f7).trans (ofNat_self _)
  have e6 : fldK w = k := (ofNat_fld f22).trans (ofNat_self _)
  have eb : srcOf w = some b := h_bc w f25 f17
  simp [decodeShort, decodePermute, ex, ey, e1, e3, e4, e5, e6, eb, withVal_some, need_true]

theorem RoundTrip.vld (d : VReg) (a : GReg) (off : BitVec 5) (k : KReg) : RoundTrip.Statement (.vld d a off k) := by
  intro _ hwf
  have h_d := d.isLt
  have h_a := a.isLt
  have h_off := off.isLt
  have h_k := k.isLt
  rw [show encode (.vld d a off k) = (encFV 0 (3 * 2 ^ 25 + off.toNat * 2 ^ 17) k.toNat a.toNat d.toNat 0x20, 0) from rfl]
  dsimp only
  generalize hw0 : encFV 0 (3 * 2 ^ 25 + off.toNat * 2 ^ 17) k.toNat a.toNat d.toNat 0x20 = w
  obtain ⟨l, f1, f7, f12, f17, f22, f25, f27⟩ := fields_FV hw0 (show _ = 3 * 2 ^ 25 + off.toNat * 2 ^ 17 by omega) (by decide) (by decide) (by omega) (by omega) (by omega) (by decide) (by omega)
  rw [decode_short w l]
  have e1 : fld w 1 6 = 32 := f1
  have e2 : fld w 25 2 = 3 := f25
  have e3 : fld w 27 1 = 0 := (fld_sub f27 0 1 (by decide))
  have e4 : fld w 28 4 = 0 := (fld_sub f27 1 4 (by decide))
  have e5 : fldA w = a := (ofNat_fld f12).trans (ofNat_self _)
  have e6 : fldB w = off := (ofNat_fld f17).trans (ofNat_self _)
  have e7 : fldD w = d := (ofNat_fld f7).trans (ofNat_self _)
  have e8 : fldK w = k := (ofNat_fld f22).trans (ofNat_self _)
  simp [decodeShort, decodeVecLoad, e1, e2, e3, e4, e5, e6, e7, e8, need_true]

theorem RoundTrip.vldSc (d : VReg) (a : GReg) (off : BitVec 5) (k : KReg) : RoundTrip.Statement (.vldSc d a off k) := by
  intro _ hwf
  have h_d := d.isLt
  have h_a := a.isLt
  have h_off := off.isLt
  have h_k := k.isLt
  rw [show encode (.vldSc d a off k) = (encFV 1 (3 * 2 ^ 25 + off.toNat * 2 ^ 17) k.toNat a.toNat d.toNat 0x20, 0) from rfl]
  dsimp only
  generalize hw0 : encFV 1 (3 * 2 ^ 25 + off.toNat * 2 ^ 17) k.toNat a.toNat d.toNat 0x20 = w
  obtain ⟨l, f1, f7, f12, f17, f22, f25, f27⟩ := fields_FV hw0 (show _ = 3 * 2 ^ 25 + off.toNat * 2 ^ 17 by omega) (by decide) (by decide) (by omega) (by omega) (by omega) (by decide) (by omega)
  rw [decode_short w l]
  have e1 : fld w 1 6 = 32 := f1
  have e2 : fld w 25 2 = 3 := f25
  have e3 : fld w 27 1 = 1 := (fld_sub f27 0 1 (by decide))
  have e4 : fld w 28 4 = 0 := (fld_sub f27 1 4 (by decide))
  have e5 : fldA w = a := (ofNat_fld f12).trans (ofNat_self _)
  have e6 : fldB w = off := (ofNat_fld f17).trans (ofNat_self _)
  have e7 : fldD w = d := (ofNat_fld f7).trans (ofNat_self _)
  have e8 : fldK w = k := (ofNat_fld f22).trans (ofNat_self _)
  simp [decodeShort, decodeVecLoad, e1, e2, e3, e4, e5, e6, e7, e8, need_true]

theorem RoundTrip.vlds (d : VReg) (a : GReg) (b : GReg) (k : KReg) : RoundTrip.Statement (.vlds d a b k) := by
  intro _ hwf
  have h_d := d.isLt
  have h_a := a.isLt
  have h_b := b.isLt
  have h_k := k.isLt
  rw [show encode (.vlds d a b k) = (encFV 0 (2 ^ 25 + b.toNat * 2 ^ 17) k.toNat a.toNat d.toNat 0x20, 0) from rfl]
  dsimp only
  generalize hw0 : encFV 0 (2 ^ 25 + b.toNat * 2 ^ 17) k.toNat a.toNat d.toNat 0x20 = w
  obtain ⟨l, f1, f7, f12, f17, f22, f25, f27⟩ := fields_FV hw0 (show _ = 1 * 2 ^ 25 + b.toNat * 2 ^ 17 by omega) (by decide) (by decide) (by omega) (by omega) (by omega) (by decide) (by omega)
  rw [decode_short w l]
  have e1 : fld w 1 6 = 32 := f1
  have e2 : fld w 25 2 = 1 := f25
  have e3 : fld w 27 1 = 0 := (fld_sub f27 0 1 (by decide))
  have e4 : fld w 28 4 = 0 := (fld_sub f27 1 4 (by decide))
  have e5 : fldA w = a := (ofNat_fld f12).trans (ofNat_self _)
  have e6 : fldB w = b := (ofNat_fld f17).trans (ofNat_self _)
  have e7 : fldD w = d := (ofNat_fld f7).trans (ofNat_self _)
  have e8 : fldK w = k := (ofNat_fld f22).trans (ofNat_self _)
  simp [decodeShort, decodeVecLoad, e1, e2, e3, e4, e5, e6, e7, e8, need_true]

theorem RoundTrip.vldx (d : VReg) (a : GReg) (b : VReg) (k : KReg) : RoundTrip.Statement (.vldx d a b k) := by
  intro _ hwf
  have h_d := d.isLt
  have h_a := a.isLt
  have h_b := b.isLt
  have h_k := k.isLt
  rw [show encode (.vldx d a b k) = (encFV 0 (b.toNat * 2 ^ 17) k.toNat a.toNat d.toNat 0x20, 0) from rfl]
  dsimp only
  generalize hw0 : encFV 0 (b.toNat * 2 ^ 17) k.toNat a.toNat d.toNat 0x20 = w
  obtain ⟨l, f1, f7, f12, f17, f22, f25, f27⟩ := fields_FV hw0 (show _ = 0 * 2 ^ 25 + b.toNat * 2 ^ 17 by omega) (by decide) (by decide) (by omega) (by omega) (by omega) (by decide) (by omega)
  rw [decode_short w l]
  have e1 : fld w 1 6 = 32 := f1
  have e2 : fld w 25 2 = 0 := f25
  have e3 : fld w 27 1 = 0 := (fld_sub f27 0 1 (by decide))
  have e4 : fld w 28 4 = 0 := (fld_sub f27 1 4 (by decide))
  have e5 : fldA w = a := (ofNat_fld f12).trans (ofNat_self _)
  have e6 : fldB w = b := (ofNat_fld f17).trans (ofNat_self _)
  have e7 : fldD w = d := (ofNat_fld f7).trans (ofNat_self _)
  have e8 : fldK w = k := (ofNat_fld f22).trans (ofNat_self _)
  simp [decodeShort, decodeVecLoad, e1, e2, e3, e4, e5, e6, e7, e8, need_true]

theorem RoundTrip.vst (d : VReg) (a : GReg) (off : BitVec 5) (k : KReg) : RoundTrip.Statement (.vst d a off k) := by
  intro _ hwf
  have h_d := d.isLt
  have h_a := a.isLt
  have h_off := off.isLt
  have h_k := k.isLt
  rw [show encode (.vst d a off k) = (encFV 0 (3 * 2 ^ 25 + off.toNat * 2 ^ 17) k.toNat a.toNat d.toNat 0x21, 0) from rfl]
  dsimp only
  generalize hw0 : encFV 0 (3 * 2 ^ 25 + off.toNat * 2 ^ 17) k.toNat a.toNat d.toNat 0x21 = w
  obtain ⟨l, f1, f7, f12, f17, f22, f25, f27⟩ := fields_FV hw0 (show _ = 3 * 2 ^ 25 + off.toNat * 2 ^ 17 by omega) (by decide) (by decide) (by omega) (by omega) (by omega) (by decide) (by omega)
  rw [decode_short w l]
  have e1 : fld w 1 6 = 33 := f1
  have e2 : fld w 25 2 = 3 := f25
  have e3 : fld w 27 1 = 0 := (fld_sub f27 0 1 (by decide))
  have e4 : fld w 28 4 = 0 := (fld_sub f27 1 4 (by decide))
  have e5 : fldA w = a := (ofNat_fld f12).trans (ofNat_self _)
  have e6 : fldB w = off := (ofNat_fld f17).trans (ofNat_self _)
  have e7 : fldD w = d := (ofNat_fld f7).trans (ofNat_self _)
  have e8 : fldK w = k := (ofNat_fld f22).trans (ofNat_self _)
  simp [decodeShort, decodeVecStore, e1, e2, e3, e4, e5, e6, e7, e8, need_true]

theorem RoundTrip.vstSc (d : VReg) (a : GReg) (off : BitVec 5) (k : KReg) : RoundTrip.Statement (.vstSc d a off k) := by
  intro _ hwf
  have h_d := d.isLt
  have h_a := a.isLt
  have h_off := off.isLt
  have h_k := k.isLt
  rw [show encode (.vstSc d a off k) = (encFV 1 (3 * 2 ^ 25 + off.toNat * 2 ^ 17) k.toNat a.toNat d.toNat 0x21, 0) from rfl]
  dsimp only
  generalize hw0 : encFV 1 (3 * 2 ^ 25 + off.toNat * 2 ^ 17) k.toNat a.toNat d.toNat 0x21 = w
  obtain ⟨l, f1, f7, f12, f17, f22, f25, f27⟩ := fields_FV hw0 (show _ = 3 * 2 ^ 25 + off.toNat * 2 ^ 17 by omega) (by decide) (by decide) (by omega) (by omega) (by omega) (by decide) (by omega)
  rw [decode_short w l]
  have e1 : fld w 1 6 = 33 := f1
  have e2 : fld w 25 2 = 3 := f25
  have e3 : fld w 27 1 = 1 := (fld_sub f27 0 1 (by decide))
  have e4 : fld w 28 4 = 0 := (fld_sub f27 1 4 (by decide))
  have e5 : fldA w = a := (ofNat_fld f12).trans (ofNat_self _)
  have e6 : fldB w = off := (ofNat_fld f17).trans (ofNat_self _)
  have e7 : fldD w = d := (ofNat_fld f7).trans (ofNat_self _)
  have e8 : fldK w = k := (ofNat_fld f22).trans (ofNat_self _)
  simp [decodeShort, decodeVecStore, e1, e2, e3, e4, e5, e6, e7, e8, need_true]

theorem RoundTrip.vsts (d : VReg) (a : GReg) (b : GReg) (k : KReg) : RoundTrip.Statement (.vsts d a b k) := by
  intro _ hwf
  have h_d := d.isLt
  have h_a := a.isLt
  have h_b := b.isLt
  have h_k := k.isLt
  rw [show encode (.vsts d a b k) = (encFV 0 (2 ^ 25 + b.toNat * 2 ^ 17) k.toNat a.toNat d.toNat 0x21, 0) from rfl]
  dsimp only
  generalize hw0 : encFV 0 (2 ^ 25 + b.toNat * 2 ^ 17) k.toNat a.toNat d.toNat 0x21 = w
  obtain ⟨l, f1, f7, f12, f17, f22, f25, f27⟩ := fields_FV hw0 (show _ = 1 * 2 ^ 25 + b.toNat * 2 ^ 17 by omega) (by decide) (by decide) (by omega) (by omega) (by omega) (by decide) (by omega)
  rw [decode_short w l]
  have e1 : fld w 1 6 = 33 := f1
  have e2 : fld w 25 2 = 1 := f25
  have e3 : fld w 27 1 = 0 := (fld_sub f27 0 1 (by decide))
  have e4 : fld w 28 4 = 0 := (fld_sub f27 1 4 (by decide))
  have e5 : fldA w = a := (ofNat_fld f12).trans (ofNat_self _)
  have e6 : fldB w = b := (ofNat_fld f17).trans (ofNat_self _)
  have e7 : fldD w = d := (ofNat_fld f7).trans (ofNat_self _)
  have e8 : fldK w = k := (ofNat_fld f22).trans (ofNat_self _)
  simp [decodeShort, decodeVecStore, e1, e2, e3, e4, e5, e6, e7, e8, need_true]

theorem RoundTrip.vstx (d : VReg) (a : GReg) (b : VReg) (k : KReg) : RoundTrip.Statement (.vstx d a b k) := by
  intro _ hwf
  have h_d := d.isLt
  have h_a := a.isLt
  have h_b := b.isLt
  have h_k := k.isLt
  rw [show encode (.vstx d a b k) = (encFV 0 (b.toNat * 2 ^ 17) k.toNat a.toNat d.toNat 0x21, 0) from rfl]
  dsimp only
  generalize hw0 : encFV 0 (b.toNat * 2 ^ 17) k.toNat a.toNat d.toNat 0x21 = w
  obtain ⟨l, f1, f7, f12, f17, f22, f25, f27⟩ := fields_FV hw0 (show _ = 0 * 2 ^ 25 + b.toNat * 2 ^ 17 by omega) (by decide) (by decide) (by omega) (by omega) (by omega) (by decide) (by omega)
  rw [decode_short w l]
  have e1 : fld w 1 6 = 33 := f1
  have e2 : fld w 25 2 = 0 := f25
  have e3 : fld w 27 1 = 0 := (fld_sub f27 0 1 (by decide))
  have e4 : fld w 28 4 = 0 := (fld_sub f27 1 4 (by decide))
  have e5 : fldA w = a := (ofNat_fld f12).trans (ofNat_self _)
  have e6 : fldB w = b := (ofNat_fld f17).trans (ofNat_self _)
  have e7 : fldD w = d := (ofNat_fld f7).trans (ofNat_self _)
  have e8 : fldK w = k := (ofNat_fld f22).trans (ofNat_self _)
  simp [decodeShort, decodeVecStore, e1, e2, e3, e4, e5, e6, e7, e8, need_true]

theorem RoundTrip.vldq (q : BitVec 2) (a : GReg) (off : BitVec 5) (k : KReg) : RoundTrip.Statement (.vldq q a off k) := by
  intro _ hwf
  have h_q := q.isLt
  have h_a := a.isLt
  have h_off := off.isLt
  have h_k := k.isLt
  rw [show encode (.vldq q a off k) = (encFV 0 (3 * 2 ^ 25 + off.toNat * 2 ^ 17) k.toNat a.toNat q.toNat 0x22, 0) from rfl]
  dsimp only
  generalize hw0 : encFV 0 (3 * 2 ^ 25 + off.toNat * 2 ^ 17) k.toNat a.toNat q.toNat 0x22 = w
  obtain ⟨l, f1, f7, f12, f17, f22, f25, f27⟩ := fields_FV hw0 (show _ = 3 * 2 ^ 25 + off.toNat * 2 ^ 17 by omega) (by decide) (by decide) (by omega) (by omega) (by omega) (by decide) (by omega)
  rw [decode_short w l]
  have e1 : BitVec.ofNat 2 (w / 128) = q := (ofNat_fld ((fld_sub f7 0 2 (by decide)).trans (by unfold fld; omega : _ = q.toNat))).trans (ofNat_self _)
  have e2 : fld w 1 6 = 34 := f1
  have e3 : fld w 25 2 = 3 := f25
  have e4 : fld w 27 1 = 0 := (fld_sub f27 0 1 (by decide))
  have e5 : fld w 28 4 = 0 := (fld_sub f27 1 4 (by decide))
  have e6 : fld w 9 3 = 0 := (fld_sub f7 2 3 (by decide)).trans (by unfold fld; omega)
  have e7 : fldA w = a := (ofNat_fld f12).trans (ofNat_self _)
  have e8 : fldB w = off := (ofNat_fld f17).trans (ofNat_self _)
  have e9 : fldK w = k := (ofNat_fld f22).trans (ofNat_self _)
  simp [decodeShort, decodeVecLoadQ, e1, e2, e3, e4, e5, e6, e7, e8, e9, need_true]

theorem RoundTrip.vldqStrided (q : BitVec 2) (a : GReg) (b : GReg) (k : KReg) : RoundTrip.Statement (.vldqStrided q a b k) := by
  intro _ hwf
  have h_q := q.isLt
  have h_a := a.isLt
  have h_b := b.isLt
  have h_k := k.isLt
  rw [show encode (.vldqStrided q a b k) = (encFV 0 (2 ^ 25 + b.toNat * 2 ^ 17) k.toNat a.toNat q.toNat 0x22, 0) from rfl]
  dsimp only
  generalize hw0 : encFV 0 (2 ^ 25 + b.toNat * 2 ^ 17) k.toNat a.toNat q.toNat 0x22 = w
  obtain ⟨l, f1, f7, f12, f17, f22, f25, f27⟩ := fields_FV hw0 (show _ = 1 * 2 ^ 25 + b.toNat * 2 ^ 17 by omega) (by decide) (by decide) (by omega) (by omega) (by omega) (by decide) (by omega)
  rw [decode_short w l]
  have e1 : BitVec.ofNat 2 (w / 128) = q := (ofNat_fld ((fld_sub f7 0 2 (by decide)).trans (by unfold fld; omega : _ = q.toNat))).trans (ofNat_self _)
  have e2 : fld w 1 6 = 34 := f1
  have e3 : fld w 25 2 = 1 := f25
  have e4 : fld w 27 1 = 0 := (fld_sub f27 0 1 (by decide))
  have e5 : fld w 28 4 = 0 := (fld_sub f27 1 4 (by decide))
  have e6 : fld w 9 3 = 0 := (fld_sub f7 2 3 (by decide)).trans (by unfold fld; omega)
  have e7 : fldA w = a := (ofNat_fld f12).trans (ofNat_self _)
  have e8 : fldB w = b := (ofNat_fld f17).trans (ofNat_self _)
  have e9 : fldK w = k := (ofNat_fld f22).trans (ofNat_self _)
  simp [decodeShort, decodeVecLoadQ, e1, e2, e3, e4, e5, e6, e7, e8, e9, need_true]

theorem RoundTrip.vldqIndexed (q : BitVec 2) (a : GReg) (b : VReg) (k : KReg) : RoundTrip.Statement (.vldqIndexed q a b k) := by
  intro _ hwf
  have h_q := q.isLt
  have h_a := a.isLt
  have h_b := b.isLt
  have h_k := k.isLt
  rw [show encode (.vldqIndexed q a b k) = (encFV 0 (b.toNat * 2 ^ 17) k.toNat a.toNat q.toNat 0x22, 0) from rfl]
  dsimp only
  generalize hw0 : encFV 0 (b.toNat * 2 ^ 17) k.toNat a.toNat q.toNat 0x22 = w
  obtain ⟨l, f1, f7, f12, f17, f22, f25, f27⟩ := fields_FV hw0 (show _ = 0 * 2 ^ 25 + b.toNat * 2 ^ 17 by omega) (by decide) (by decide) (by omega) (by omega) (by omega) (by decide) (by omega)
  rw [decode_short w l]
  have e1 : BitVec.ofNat 2 (w / 128) = q := (ofNat_fld ((fld_sub f7 0 2 (by decide)).trans (by unfold fld; omega : _ = q.toNat))).trans (ofNat_self _)
  have e2 : fld w 1 6 = 34 := f1
  have e3 : fld w 25 2 = 0 := f25
  have e4 : fld w 27 1 = 0 := (fld_sub f27 0 1 (by decide))
  have e5 : fld w 28 4 = 0 := (fld_sub f27 1 4 (by decide))
  have e6 : fld w 9 3 = 0 := (fld_sub f7 2 3 (by decide)).trans (by unfold fld; omega)
  have e7 : fldA w = a := (ofNat_fld f12).trans (ofNat_self _)
  have e8 : fldB w = b := (ofNat_fld f17).trans (ofNat_self _)
  have e9 : fldK w = k := (ofNat_fld f22).trans (ofNat_self _)
  simp [decodeShort, decodeVecLoadQ, e1, e2, e3, e4, e5, e6, e7, e8, e9, need_true]

theorem RoundTrip.vamoadd (d : VReg) (a : GReg) (b : VAddr) (k : KReg) : RoundTrip.Statement (.vamoadd d a b k) := by
  intro _ hwf
  obtain ⟨bs, br, h_b, h_bs, h_br, h_bc⟩ := VAddr.code_eq b
  have h_d := d.isLt
  have h_a := a.isLt
  have h_k := k.isLt
  rw [show encode (.vamoadd d a b k) = (encFV 0 b.code k.toNat a.toNat d.toNat 0x23, 0) from rfl]
  dsimp only
  generalize hw0 : encFV 0 b.code k.toNat a.toNat d.toNat 0x23 = w
  obtain ⟨l, f1, f7, f12, f17, f22, f25, f27⟩ := fields_FV hw0 h_b h_bs (by decide) (by omega) (by omega) (by omega) (by decide) h_br
  rw [decode_short w l]
  have e1 : fld w 1 6 = 35 := f1
  have e3 : fld w 27 5 = 0 := f27
  have e4 : fldA w = a := (ofNat_fld f12).trans (ofNat_self _)
  have e6 : fldD w = d := (ofNat_fld f7).trans (ofNat_self _)
  have e7 : fldK w = k := (ofNat_fld f22).trans (ofNat_self _)
  have eb : vAddrOf w = some b := h_bc w f25 f17
  simp [decodeShort, decodeVecAmo, e1, e3, e4, e6, e7, eb, withVal_some]

theorem RoundTrip.vamoand (d : VReg) (a : GReg) (b : VAddr) (k : KReg) : RoundTrip.Statement (.vamoand d a b k) := by
  intro _ hwf
  obtain ⟨bs, br, h_b, h_bs, h_br, h_bc⟩ := VAddr.code_eq b
  have h_d := d.isLt
  have h_a := a.isLt
  have h_k := k.isLt
  rw [show encode (.vamoand d a b k) = (encFV 1 b.code k.toNat a.toNat d.toNat 0x23, 0) from rfl]
  dsimp only
  generalize hw0 : encFV 1 b.code k.toNat a.toNat d.toNat 0x23 = w
  obtain ⟨l, f1, f7, f12, f17, f22, f25, f27⟩ := fields_FV hw0 h_b h_bs (by decide) (by omega) (by omega) (by omega) (by decide) h_br
  rw [decode_short w l]
  have e1 : fld w 1 6 = 35 := f1
  have e3 : fld w 27 5 = 1 := f27
  have e4 : fldA w = a := (ofNat_fld f12).trans (ofNat_self _)
  have e6 : fldD w = d := (ofNat_fld f7).trans (ofNat_self _)
  have e7 : fldK w = k := (ofNat_fld f22).trans (ofNat_self _)
  have eb : vAddrOf w = some b := h_bc w f25 f17
  simp [decodeShort, decodeVecAmo, e1, e3, e4, e6, e7, eb, withVal_some]

theorem RoundTrip.vamoor (d : VReg) (a : GReg) (b : VAddr) (k : KReg) : RoundTrip.Statement (.vamoor d a b k) := by
  intro _ hwf
  obtain ⟨bs, br, h_b, h_bs, h_br, h_bc⟩ := VAddr.code_eq b
  have h_d := d.isLt
  have h_a := a.isLt
  have h_k := k.isLt
  rw [show encode (.vamoor d a b k) = (encFV 2 b.code k.toNat a.toNat d.toNat 0x23, 0) from rfl]
  dsimp only
  generalize hw0 : encFV 2 b.code k.toNat a.toNat d.toNat 0x23 = w
  obtain ⟨l, f1, f7, f12, f17, f22, f25, f27⟩ := fields_FV hw0 h_b h_bs (by decide) (by omega) (by omega) (by omega) (by decide) h_br
  rw [decode_short w l]
  have e1 : fld w 1 6 = 35 := f1
  have e3 : fld w 27 5 = 2 := f27
  have e4 : fldA w = a := (ofNat_fld f12).trans (ofNat_self _)
  have e6 : fldD w = d := (ofNat_fld f7).trans (ofNat_self _)
  have e7 : fldK w = k := (ofNat_fld f22).trans (ofNat_self _)
  have eb : vAddrOf w = some b := h_bc w f25 f17
  simp [decodeShort, decodeVecAmo, e1, e3, e4, e6, e7, eb, withVal_some]

theorem RoundTrip.vamoxor (d : VReg) (a : GReg) (b : VAddr) (k : KReg) : RoundTrip.Statement (.vamoxor d a b k) := by
  intro _ hwf
  obtain ⟨bs, br, h_b, h_bs, h_br, h_bc⟩ := VAddr.code_eq b
  have h_d := d.isLt
  have h_a := a.isLt
  have h_k := k.isLt
  rw [show encode (.vamoxor d a b k) = (encFV 3 b.code k.toNat a.toNat d.toNat 0x23, 0) from rfl]
  dsimp only
  generalize hw0 : encFV 3 b.code k.toNat a.toNat d.toNat 0x23 = w
  obtain ⟨l, f1, f7, f12, f17, f22, f25, f27⟩ := fields_FV hw0 h_b h_bs (by decide) (by omega) (by omega) (by omega) (by decide) h_br
  rw [decode_short w l]
  have e1 : fld w 1 6 = 35 := f1
  have e3 : fld w 27 5 = 3 := f27
  have e4 : fldA w = a := (ofNat_fld f12).trans (ofNat_self _)
  have e6 : fldD w = d := (ofNat_fld f7).trans (ofNat_self _)
  have e7 : fldK w = k := (ofNat_fld f22).trans (ofNat_self _)
  have eb : vAddrOf w = some b := h_bc w f25 f17
  simp [decodeShort, decodeVecAmo, e1, e3, e4, e6, e7, eb, withVal_some]

theorem RoundTrip.vamomin (d : VReg) (a : GReg) (b : VAddr) (k : KReg) : RoundTrip.Statement (.vamomin d a b k) := by
  intro _ hwf
  obtain ⟨bs, br, h_b, h_bs, h_br, h_bc⟩ := VAddr.code_eq b
  have h_d := d.isLt
  have h_a := a.isLt
  have h_k := k.isLt
  rw [show encode (.vamomin d a b k) = (encFV 4 b.code k.toNat a.toNat d.toNat 0x23, 0) from rfl]
  dsimp only
  generalize hw0 : encFV 4 b.code k.toNat a.toNat d.toNat 0x23 = w
  obtain ⟨l, f1, f7, f12, f17, f22, f25, f27⟩ := fields_FV hw0 h_b h_bs (by decide) (by omega) (by omega) (by omega) (by decide) h_br
  rw [decode_short w l]
  have e1 : fld w 1 6 = 35 := f1
  have e3 : fld w 27 5 = 4 := f27
  have e4 : fldA w = a := (ofNat_fld f12).trans (ofNat_self _)
  have e6 : fldD w = d := (ofNat_fld f7).trans (ofNat_self _)
  have e7 : fldK w = k := (ofNat_fld f22).trans (ofNat_self _)
  have eb : vAddrOf w = some b := h_bc w f25 f17
  simp [decodeShort, decodeVecAmo, e1, e3, e4, e6, e7, eb, withVal_some]

theorem RoundTrip.vamomax (d : VReg) (a : GReg) (b : VAddr) (k : KReg) : RoundTrip.Statement (.vamomax d a b k) := by
  intro _ hwf
  obtain ⟨bs, br, h_b, h_bs, h_br, h_bc⟩ := VAddr.code_eq b
  have h_d := d.isLt
  have h_a := a.isLt
  have h_k := k.isLt
  rw [show encode (.vamomax d a b k) = (encFV 5 b.code k.toNat a.toNat d.toNat 0x23, 0) from rfl]
  dsimp only
  generalize hw0 : encFV 5 b.code k.toNat a.toNat d.toNat 0x23 = w
  obtain ⟨l, f1, f7, f12, f17, f22, f25, f27⟩ := fields_FV hw0 h_b h_bs (by decide) (by omega) (by omega) (by omega) (by decide) h_br
  rw [decode_short w l]
  have e1 : fld w 1 6 = 35 := f1
  have e3 : fld w 27 5 = 5 := f27
  have e4 : fldA w = a := (ofNat_fld f12).trans (ofNat_self _)
  have e6 : fldD w = d := (ofNat_fld f7).trans (ofNat_self _)
  have e7 : fldK w = k := (ofNat_fld f22).trans (ofNat_self _)
  have eb : vAddrOf w = some b := h_bc w f25 f17
  simp [decodeShort, decodeVecAmo, e1, e3, e4, e6, e7, eb, withVal_some]

theorem RoundTrip.vamoswp (d : VReg) (a : GReg) (b : VAddr) (k : KReg) : RoundTrip.Statement (.vamoswp d a b k) := by
  intro _ hwf
  obtain ⟨bs, br, h_b, h_bs, h_br, h_bc⟩ := VAddr.code_eq b
  have h_d := d.isLt
  have h_a := a.isLt
  have h_k := k.isLt
  rw [show encode (.vamoswp d a b k) = (encFV 6 b.code k.toNat a.toNat d.toNat 0x23, 0) from rfl]
  dsimp only
  generalize hw0 : encFV 6 b.code k.toNat a.toNat d.toNat 0x23 = w
  obtain ⟨l, f1, f7, f12, f17, f22, f25, f27⟩ := fields_FV hw0 h_b h_bs (by decide) (by omega) (by omega) (by omega) (by decide) h_br
  rw [decode_short w l]
  have e1 : fld w 1 6 = 35 := f1
  have e3 : fld w 27 5 = 6 := f27
  have e4 : fldA w = a := (ofNat_fld f12).trans (ofNat_self _)
  have e6 : fldD w = d := (ofNat_fld f7).trans (ofNat_self _)
  have e7 : fldK w = k := (ofNat_fld f22).trans (ofNat_self _)
  have eb : vAddrOf w = some b := h_bc w f25 f17
  simp [decodeShort, decodeVecAmo, e1, e3, e4, e6, e7, eb, withVal_some]

theorem RoundTrip.vpostadd (a : GReg) (b : VAddr) (k : KReg) : RoundTrip.Statement (.vpostadd a b k) := by
  intro _ hwf
  obtain ⟨bs, br, h_b, h_bs, h_br, h_bc⟩ := VAddr.code_eq b
  have h_a := a.isLt
  have h_k := k.isLt
  rw [show encode (.vpostadd a b k) = (encFV 8 b.code k.toNat a.toNat 0 0x23, 0) from rfl]
  dsimp only
  generalize hw0 : encFV 8 b.code k.toNat a.toNat 0 0x23 = w
  obtain ⟨l, f1, f7, f12, f17, f22, f25, f27⟩ := fields_FV hw0 h_b h_bs (by decide) (by omega) (by omega) (by decide) (by decide) h_br
  rw [decode_short w l]
  have e1 : fld w 1 6 = 35 := f1
  have e3 : fld w 27 5 = 8 := f27
  have e4 : fldA w = a := (ofNat_fld f12).trans (ofNat_self _)
  have e6 : fldD w = 0 := ofNat_fld f7
  have e7 : fldK w = k := (ofNat_fld f22).trans (ofNat_self _)
  have eb : vAddrOf w = some b := h_bc w f25 f17
  simp [decodeShort, decodeVecAmo, e1, e3, e4, e6, e7, eb, withVal_some, need_true]

theorem RoundTrip.vpostand (a : GReg) (b : VAddr) (k : KReg) : RoundTrip.Statement (.vpostand a b k) := by
  intro _ hwf
  obtain ⟨bs, br, h_b, h_bs, h_br, h_bc⟩ := VAddr.code_eq b
  have h_a := a.isLt
  have h_k := k.isLt
  rw [show encode (.vpostand a b k) = (encFV 9 b.code k.toNat a.toNat 0 0x23, 0) from rfl]
  dsimp only
  generalize hw0 : encFV 9 b.code k.toNat a.toNat 0 0x23 = w
  obtain ⟨l, f1, f7, f12, f17, f22, f25, f27⟩ := fields_FV hw0 h_b h_bs (by decide) (by omega) (by omega) (by decide) (by decide) h_br
  rw [decode_short w l]
  have e1 : fld w 1 6 = 35 := f1
  have e3 : fld w 27 5 = 9 := f27
  have e4 : fldA w = a := (ofNat_fld f12).trans (ofNat_self _)
  have e6 : fldD w = 0 := ofNat_fld f7
  have e7 : fldK w = k := (ofNat_fld f22).trans (ofNat_self _)
  have eb : vAddrOf w = some b := h_bc w f25 f17
  simp [decodeShort, decodeVecAmo, e1, e3, e4, e6, e7, eb, withVal_some, need_true]

theorem RoundTrip.vpostor (a : GReg) (b : VAddr) (k : KReg) : RoundTrip.Statement (.vpostor a b k) := by
  intro _ hwf
  obtain ⟨bs, br, h_b, h_bs, h_br, h_bc⟩ := VAddr.code_eq b
  have h_a := a.isLt
  have h_k := k.isLt
  rw [show encode (.vpostor a b k) = (encFV 10 b.code k.toNat a.toNat 0 0x23, 0) from rfl]
  dsimp only
  generalize hw0 : encFV 10 b.code k.toNat a.toNat 0 0x23 = w
  obtain ⟨l, f1, f7, f12, f17, f22, f25, f27⟩ := fields_FV hw0 h_b h_bs (by decide) (by omega) (by omega) (by decide) (by decide) h_br
  rw [decode_short w l]
  have e1 : fld w 1 6 = 35 := f1
  have e3 : fld w 27 5 = 10 := f27
  have e4 : fldA w = a := (ofNat_fld f12).trans (ofNat_self _)
  have e6 : fldD w = 0 := ofNat_fld f7
  have e7 : fldK w = k := (ofNat_fld f22).trans (ofNat_self _)
  have eb : vAddrOf w = some b := h_bc w f25 f17
  simp [decodeShort, decodeVecAmo, e1, e3, e4, e6, e7, eb, withVal_some, need_true]

theorem RoundTrip.vpostxor (a : GReg) (b : VAddr) (k : KReg) : RoundTrip.Statement (.vpostxor a b k) := by
  intro _ hwf
  obtain ⟨bs, br, h_b, h_bs, h_br, h_bc⟩ := VAddr.code_eq b
  have h_a := a.isLt
  have h_k := k.isLt
  rw [show encode (.vpostxor a b k) = (encFV 11 b.code k.toNat a.toNat 0 0x23, 0) from rfl]
  dsimp only
  generalize hw0 : encFV 11 b.code k.toNat a.toNat 0 0x23 = w
  obtain ⟨l, f1, f7, f12, f17, f22, f25, f27⟩ := fields_FV hw0 h_b h_bs (by decide) (by omega) (by omega) (by decide) (by decide) h_br
  rw [decode_short w l]
  have e1 : fld w 1 6 = 35 := f1
  have e3 : fld w 27 5 = 11 := f27
  have e4 : fldA w = a := (ofNat_fld f12).trans (ofNat_self _)
  have e6 : fldD w = 0 := ofNat_fld f7
  have e7 : fldK w = k := (ofNat_fld f22).trans (ofNat_self _)
  have eb : vAddrOf w = some b := h_bc w f25 f17
  simp [decodeShort, decodeVecAmo, e1, e3, e4, e6, e7, eb, withVal_some, need_true]

theorem RoundTrip.vpostmin (a : GReg) (b : VAddr) (k : KReg) : RoundTrip.Statement (.vpostmin a b k) := by
  intro _ hwf
  obtain ⟨bs, br, h_b, h_bs, h_br, h_bc⟩ := VAddr.code_eq b
  have h_a := a.isLt
  have h_k := k.isLt
  rw [show encode (.vpostmin a b k) = (encFV 12 b.code k.toNat a.toNat 0 0x23, 0) from rfl]
  dsimp only
  generalize hw0 : encFV 12 b.code k.toNat a.toNat 0 0x23 = w
  obtain ⟨l, f1, f7, f12, f17, f22, f25, f27⟩ := fields_FV hw0 h_b h_bs (by decide) (by omega) (by omega) (by decide) (by decide) h_br
  rw [decode_short w l]
  have e1 : fld w 1 6 = 35 := f1
  have e3 : fld w 27 5 = 12 := f27
  have e4 : fldA w = a := (ofNat_fld f12).trans (ofNat_self _)
  have e6 : fldD w = 0 := ofNat_fld f7
  have e7 : fldK w = k := (ofNat_fld f22).trans (ofNat_self _)
  have eb : vAddrOf w = some b := h_bc w f25 f17
  simp [decodeShort, decodeVecAmo, e1, e3, e4, e6, e7, eb, withVal_some, need_true]

theorem RoundTrip.vpostmax (a : GReg) (b : VAddr) (k : KReg) : RoundTrip.Statement (.vpostmax a b k) := by
  intro _ hwf
  obtain ⟨bs, br, h_b, h_bs, h_br, h_bc⟩ := VAddr.code_eq b
  have h_a := a.isLt
  have h_k := k.isLt
  rw [show encode (.vpostmax a b k) = (encFV 13 b.code k.toNat a.toNat 0 0x23, 0) from rfl]
  dsimp only
  generalize hw0 : encFV 13 b.code k.toNat a.toNat 0 0x23 = w
  obtain ⟨l, f1, f7, f12, f17, f22, f25, f27⟩ := fields_FV hw0 h_b h_bs (by decide) (by omega) (by omega) (by decide) (by decide) h_br
  rw [decode_short w l]
  have e1 : fld w 1 6 = 35 := f1
  have e3 : fld w 27 5 = 13 := f27
  have e4 : fldA w = a := (ofNat_fld f12).trans (ofNat_self _)
  have e6 : fldD w = 0 := ofNat_fld f7
  have e7 : fldK w = k := (ofNat_fld f22).trans (ofNat_self _)
  have eb : vAddrOf w = some b := h_bc w f25 f17
  simp [decodeShort, decodeVecAmo, e1, e3, e4, e6, e7, eb, withVal_some, need_true]

theorem RoundTrip.vpostswp (a : GReg) (b : VAddr) (k : KReg) : RoundTrip.Statement (.vpostswp a b k) := by
  intro _ hwf
  obtain ⟨bs, br, h_b, h_bs, h_br, h_bc⟩ := VAddr.code_eq b
  have h_a := a.isLt
  have h_k := k.isLt
  rw [show encode (.vpostswp a b k) = (encFV 14 b.code k.toNat a.toNat 0 0x23, 0) from rfl]
  dsimp only
  generalize hw0 : encFV 14 b.code k.toNat a.toNat 0 0x23 = w
  obtain ⟨l, f1, f7, f12, f17, f22, f25, f27⟩ := fields_FV hw0 h_b h_bs (by decide) (by omega) (by omega) (by decide) (by decide) h_br
  rw [decode_short w l]
  have e1 : fld w 1 6 = 35 := f1
  have e3 : fld w 27 5 = 14 := f27
  have e4 : fldA w = a := (ofNat_fld f12).trans (ofNat_self _)
  have e6 : fldD w = 0 := ofNat_fld f7
  have e7 : fldK w = k := (ofNat_fld f22).trans (ofNat_self _)
  have eb : vAddrOf w = some b := h_bc w f25 f17
  simp [decodeShort, decodeVecAmo, e1, e3, e4, e6, e7, eb, withVal_some, need_true]

theorem RoundTrip.vcapp (a : GReg) (k : KReg) : RoundTrip.Statement (.vcapp a k) := by
  intro _ hwf
  have h_a := a.isLt
  have h_k := k.isLt
  rw [show encode (.vcapp a k) = (encFV 16 0 k.toNat a.toNat 0 0x23, 0) from rfl]
  dsimp only
  generalize hw0 : encFV 16 0 k.toNat a.toNat 0 0x23 = w
  obtain ⟨l, f1, f7, f12, f17, f22, f25, f27⟩ := fields_FV hw0 (show 0 = 0 * 2 ^ 25 + 0 * 2 ^ 17 from rfl) (by decide) (by decide) (by omega) (by omega) (by decide) (by decide) (by decide)
  rw [decode_short w l]
  have e1 : fld w 1 6 = 35 := f1
  have e2 : fld w 25 2 = 0 := f25
  have e3 : fld w 27 5 = 16 := f27
  have e4 : fldA w = a := (ofNat_fld f12).trans (ofNat_self _)
  have e5 : fldB w = 0 := ofNat_fld f17
  have e6 : fldD w = 0 := ofNat_fld f7
  have e7 : fldK w = k := (ofNat_fld f22).trans (ofNat_self _)
  simp [decodeShort, decodeVecAmo, e1, e2, e3, e4, e5, e6, e7, need_true]

theorem RoundTrip.vldz (d : VReg) (a : GReg) (p : GReg) (k : KReg) (off : BitVec 32) : RoundTrip.Statement (.vldz d a p k off) := by
  intro _ hwf
  have h_d := d.isLt
  have h_a := a.isLt
  have h_p := p.isLt
  have h_k := k.isLt
  have h_off := off.isLt
  rw [show encode (.vldz d a p k off) = (encL k.toNat p.toNat a.toNat d.toNat 0x05, off.toNat) from rfl]
  dsimp only
  generalize hw0 : encL k.toNat p.toNat a.toNat d.toNat 0x05 = w0
  obtain ⟨l, f1, f7, f12, f17, f22⟩ := fields_L hw0 (by omega) (by omega) (by omega) (by omega) (by decide)
  generalize hw1 : off.toNat = w1
  rw [decode_long w0 w1 l]
  have e1 : BitVec.ofNat 32 w1 = off := ofNat_eq _ _ (by omega)
  have e2 : fld w0 1 6 = 5 := f1
  have e3 : fld w0 25 7 = 0 := (fld_sub f22 3 7 (by decide)).trans (by unfold fld; omega)
  have e4 : fldA w0 = a := (ofNat_fld f12).trans (ofNat_self _)
  have e5 : fldB w0 = p := (ofNat_fld f17).trans (ofNat_self _)
  have e6 : fldD w0 = d := (ofNat_fld f7).trans (ofNat_self _)
  have e7 : fldK w0 = k := (ofNat_fld ((fld_sub f22 0 3 (by decide)).trans (by unfold fld; omega : _ = k.toNat))).trans (ofNat_self _)
  simp [decodeLong, decodeVecExt, e1, e2, e3, e4, e5, e6, e7]

theorem RoundTrip.vstz (d : VReg) (a : GReg) (p : GReg) (k : KReg) (off : BitVec 32) : RoundTrip.Statement (.vstz d a p k off) := by
  intro _ hwf
  have h_d := d.isLt
  have h_a := a.isLt
  have h_p := p.isLt
  have h_k := k.isLt
  have h_off := off.isLt
  rw [show encode (.vstz d a p k off) = (encL (2 ^ 3 + k.toNat) p.toNat a.toNat d.toNat 0x05, off.toNat) from rfl]
  dsimp only
  generalize hw0 : encL (2 ^ 3 + k.toNat) p.toNat a.toNat d.toNat 0x05 = w0
  obtain ⟨l, f1, f7, f12, f17, f22⟩ := fields_L hw0 (by omega) (by omega) (by omega) (by omega) (by decide)
  generalize hw1 : off.toNat = w1
  rw [decode_long w0 w1 l]
  have e1 : BitVec.ofNat 32 w1 = off := ofNat_eq _ _ (by omega)
  have e2 : fld w0 1 6 = 5 := f1
  have e3 : fld w0 25 7 = 1 := (fld_sub f22 3 7 (by decide)).trans (by unfold fld; omega)
  have e4 : fldA w0 = a := (ofNat_fld f12).trans (ofNat_self _)
  have e5 : fldB w0 = p := (ofNat_fld f17).trans (ofNat_self _)
  have e6 : fldD w0 = d := (ofNat_fld f7).trans (ofNat_self _)
  have e7 : fldK w0 = k := (ofNat_fld ((fld_sub f22 0 3 (by decide)).trans (by unfold fld; omega : _ = k.toNat))).trans (ofNat_self _)
  simp [decodeLong, decodeVecExt, e1, e2, e3, e4, e5, e6, e7]

theorem RoundTrip.vcopy (d : GReg) (a : GReg) (k : KReg) : RoundTrip.Statement (.vcopy d a k) := by
  intro _ hwf
  have h_d := d.isLt
  have h_a := a.isLt
  have h_k := k.isLt
  rw [show encode (.vcopy d a k) = (encL (2 * 2 ^ 3 + k.toNat) 0 a.toNat d.toNat 0x05, 0) from rfl]
  dsimp only
  generalize hw0 : encL (2 * 2 ^ 3 + k.toNat) 0 a.toNat d.toNat 0x05 = w0
  obtain ⟨l, f1, f7, f12, f17, f22⟩ := fields_L hw0 (by omega) (by decide) (by omega) (by omega) (by decide)
  generalize hw1 : 0 = w1
  rw [decode_long w0 w1 l]
  have e2 : fld w0 1 6 = 5 := f1
  have e3 : fld w0 25 7 = 2 := (fld_sub f22 3 7 (by decide)).trans (by unfold fld; omega)
  have e4 : fldA w0 = a := (ofNat_fld f12).trans (ofNat_self _)
  have e5 : fldB w0 = 0 := ofNat_fld f17
  have e6 : fldD w0 = d := (ofNat_fld f7).trans (ofNat_self _)
  have e7 : fldK w0 = k := (ofNat_fld ((fld_sub f22 0 3 (by decide)).trans (by unfold fld; omega : _ = k.toNat))).trans (ofNat_self _)
  have ez : w1 = 0 := by omega
  simp [decodeLong, decodeVecExt, e2, e3, e4, e5, e6, e7, ez, need_true]

theorem RoundTrip.vfill (d : GReg) (p : GReg) (k : KReg) : RoundTrip.Statement (.vfill d p k) := by
  intro _ hwf
  have h_d := d.isLt
  have h_p := p.isLt
  have h_k := k.isLt
  rw [show encode (.vfill d p k) = (encL (3 * 2 ^ 3 + k.toNat) p.toNat 0 d.toNat 0x05, 0) from rfl]
  dsimp only
  generalize hw0 : encL (3 * 2 ^ 3 + k.toNat) p.toNat 0 d.toNat 0x05 = w0
  obtain ⟨l, f1, f7, f12, f17, f22⟩ := fields_L hw0 (by omega) (by omega) (by decide) (by omega) (by decide)
  generalize hw1 : 0 = w1
  rw [decode_long w0 w1 l]
  have e2 : fld w0 1 6 = 5 := f1
  have e3 : fld w0 25 7 = 3 := (fld_sub f22 3 7 (by decide)).trans (by unfold fld; omega)
  have e4 : fldA w0 = 0 := ofNat_fld f12
  have e5 : fldB w0 = p := (ofNat_fld f17).trans (ofNat_self _)
  have e6 : fldD w0 = d := (ofNat_fld f7).trans (ofNat_self _)
  have e7 : fldK w0 = k := (ofNat_fld ((fld_sub f22 0 3 (by decide)).trans (by unfold fld; omega : _ = k.toNat))).trans (ofNat_self _)
  have ez : w1 = 0 := by omega
  simp [decodeLong, decodeVecExt, e2, e3, e4, e5, e6, e7, ez, need_true]

theorem RoundTrip.vldsImmediate (d : VReg) (a : GReg) (k : KReg) (stride : BitVec 32) : RoundTrip.Statement (.vldsImmediate d a k stride) := by
  intro _ hwf
  have h_d := d.isLt
  have h_a := a.isLt
  have h_k := k.isLt
  have h_stride := stride.isLt
  rw [show encode (.vldsImmediate d a k stride) = (encL (4 * 2 ^ 3 + k.toNat) 0 a.toNat d.toNat 0x05, stride.toNat) from rfl]
  dsimp only
  generalize hw0 : encL (4 * 2 ^ 3 + k.toNat) 0 a.toNat d.toNat 0x05 = w0
  obtain ⟨l, f1, f7, f12, f17, f22⟩ := fields_L hw0 (by omega) (by decide) (by omega) (by omega) (by decide)
  generalize hw1 : stride.toNat = w1
  rw [decode_long w0 w1 l]
  have e1 : BitVec.ofNat 32 w1 = stride := ofNat_eq _ _ (by omega)
  have e2 : fld w0 1 6 = 5 := f1
  have e3 : fld w0 25 7 = 4 := (fld_sub f22 3 7 (by decide)).trans (by unfold fld; omega)
  have e4 : fldA w0 = a := (ofNat_fld f12).trans (ofNat_self _)
  have e5 : fldB w0 = 0 := ofNat_fld f17
  have e6 : fldD w0 = d := (ofNat_fld f7).trans (ofNat_self _)
  have e7 : fldK w0 = k := (ofNat_fld ((fld_sub f22 0 3 (by decide)).trans (by unfold fld; omega : _ = k.toNat))).trans (ofNat_self _)
  simp [decodeLong, decodeVecExt, e1, e2, e3, e4, e5, e6, e7, need_true]

theorem RoundTrip.vstsImmediate (d : VReg) (a : GReg) (k : KReg) (stride : BitVec 32) : RoundTrip.Statement (.vstsImmediate d a k stride) := by
  intro _ hwf
  have h_d := d.isLt
  have h_a := a.isLt
  have h_k := k.isLt
  have h_stride := stride.isLt
  rw [show encode (.vstsImmediate d a k stride) = (encL (5 * 2 ^ 3 + k.toNat) 0 a.toNat d.toNat 0x05, stride.toNat) from rfl]
  dsimp only
  generalize hw0 : encL (5 * 2 ^ 3 + k.toNat) 0 a.toNat d.toNat 0x05 = w0
  obtain ⟨l, f1, f7, f12, f17, f22⟩ := fields_L hw0 (by omega) (by decide) (by omega) (by omega) (by decide)
  generalize hw1 : stride.toNat = w1
  rw [decode_long w0 w1 l]
  have e1 : BitVec.ofNat 32 w1 = stride := ofNat_eq _ _ (by omega)
  have e2 : fld w0 1 6 = 5 := f1
  have e3 : fld w0 25 7 = 5 := (fld_sub f22 3 7 (by decide)).trans (by unfold fld; omega)
  have e4 : fldA w0 = a := (ofNat_fld f12).trans (ofNat_self _)
  have e5 : fldB w0 = 0 := ofNat_fld f17
  have e6 : fldD w0 = d := (ofNat_fld f7).trans (ofNat_self _)
  have e7 : fldK w0 = k := (ofNat_fld ((fld_sub f22 0 3 (by decide)).trans (by unfold fld; omega : _ = k.toNat))).trans (ofNat_self _)
  simp [decodeLong, decodeVecExt, e1, e2, e3, e4, e5, e6, e7, need_true]

theorem RoundTrip.mcfg (tiles : BitVec 4) (fmt : ElemTy) (sc : Bool) (int32 : Bool) (m : BitVec 7) (n : BitVec 7) : RoundTrip.Statement (.mcfg tiles fmt sc int32 m n) := by
  intro _ hwf
  have h_tiles := tiles.isLt
  have h_fmt := ElemTy.code_lt fmt
  have h_sc := bit_lt sc
  have h_int32 := bit_lt int32
  have h_m := m.isLt
  have h_n := n.isLt
  rw [show encode (.mcfg tiles fmt sc int32 m n) = (encL 0 0 0 0 0x06, tiles.toNat + fmt.code * 2 ^ 4 + bit sc * 2 ^ 8 + bit int32 * 2 ^ 9 + m.toNat * 2 ^ 11 + n.toNat * 2 ^ 18) from rfl]
  dsimp only
  generalize hw0 : encL 0 0 0 0 0x06 = w0
  obtain ⟨l, f1, f7, f12, f17, f22⟩ := fields_L hw0 (by decide) (by decide) (by decide) (by decide) (by decide)
  generalize hw1 : tiles.toNat + fmt.code * 2 ^ 4 + bit sc * 2 ^ 8 + bit int32 * 2 ^ 9 + m.toNat * 2 ^ 11 + n.toNat * 2 ^ 18 = w1
  rw [decode_long w0 w1 l]
  have e2 : BitVec.ofNat 4 w1 = tiles := ofNat_eq _ _ (by omega)
  have e3 : BitVec.ofNat 7 (w1 / 2048) = m := ofNat_eq _ _ (by omega)
  have e4 : BitVec.ofNat 7 (w1 / 262144) = n := ofNat_eq _ _ (by omega)
  have e5 : fld w0 1 6 = 6 := f1
  have e6 : fld w0 22 10 = 0 := f22
  have e7 : fld w0 9 3 = 0 := (fld_sub f7 2 3 (by decide))
  have e8 : fld w1 10 1 = 0 := by unfold fld; omega
  have e9 : fld w1 25 7 = 0 := by unfold fld; omega
  have e10 : fld w1 4 4 = fmt.code := by unfold fld; omega
  have e11 : fld w1 8 1 = bit sc := by unfold fld; omega
  have e12 : fld w1 9 1 = bit int32 := by unfold fld; omega
  have e13 : fldA w0 = 0 := ofNat_fld f12
  have e14 : fldB w0 = 0 := ofNat_fld f17
  have e15 : fldD w0 = 0 := ofNat_fld f7
  simp [decodeLong, decodeMatrixLong, e2, e3, e4, e5, e6, e7, e8, e9, e10, e11, e12, e13, e14, e15, withVal_some, need_true, ElemTy.of_code, bit_one]

theorem RoundTrip.mma (c : Acc) (a : VReg) (b : VReg) : RoundTrip.Statement (.mma c a b) := by
  intro _ hwf
  have h_c := c.isLt
  have h_a := a.isLt
  have h_b := b.isLt
  rw [show encode (.mma c a b) = (encF3 0 b.toNat a.toNat c.toNat 0x26, 0) from rfl]
  dsimp only
  generalize hw0 : encF3 0 b.toNat a.toNat c.toNat 0x26 = w
  obtain ⟨l, f1, f7, f12, f17, f22⟩ := fields_F3 hw0 (by decide) (by omega) (by omega) (by omega) (by decide)
  rw [decode_short w l]
  have e1 : BitVec.ofNat 2 (w / 128) = c := (ofNat_fld ((fld_sub f7 0 2 (by decide)).trans (by unfold fld; omega : _ = c.toNat))).trans (ofNat_self _)
  have e2 : fld w 1 6 = 38 := f1
  have e3 : fld w 22 10 = 0 := f22
  have e4 : fld w 9 3 = 0 := (fld_sub f7 2 3 (by decide)).trans (by unfold fld; omega)
  have e5 : fldA w = a := (ofNat_fld f12).trans (ofNat_self _)
  have e6 : fldB w = b := (ofNat_fld f17).trans (ofNat_self _)
  simp [decodeShort, decodeMatrix, e1, e2, e3, e4, e5, e6, need_true]

theorem RoundTrip.mzero (c : Acc) : RoundTrip.Statement (.mzero c) := by
  intro _ hwf
  have h_c := c.isLt
  rw [show encode (.mzero c) = (encF3 1 0 0 c.toNat 0x26, 0) from rfl]
  dsimp only
  generalize hw0 : encF3 1 0 0 c.toNat 0x26 = w
  obtain ⟨l, f1, f7, f12, f17, f22⟩ := fields_F3 hw0 (by decide) (by decide) (by decide) (by omega) (by decide)
  rw [decode_short w l]
  have e1 : BitVec.ofNat 2 (w / 128) = c := (ofNat_fld ((fld_sub f7 0 2 (by decide)).trans (by unfold fld; omega : _ = c.toNat))).trans (ofNat_self _)
  have e2 : fld w 1 6 = 38 := f1
  have e3 : fld w 22 10 = 1 := f22
  have e4 : fld w 9 3 = 0 := (fld_sub f7 2 3 (by decide)).trans (by unfold fld; omega)
  have e5 : fldA w = 0 := ofNat_fld f12
  have e6 : fldB w = 0 := ofNat_fld f17
  simp [decodeShort, decodeMatrix, e1, e2, e3, e4, e5, e6, need_true]

theorem RoundTrip.mrel (c : Acc) : RoundTrip.Statement (.mrel c) := by
  intro _ hwf
  have h_c := c.isLt
  rw [show encode (.mrel c) = (encF3 2 0 0 c.toNat 0x26, 0) from rfl]
  dsimp only
  generalize hw0 : encF3 2 0 0 c.toNat 0x26 = w
  obtain ⟨l, f1, f7, f12, f17, f22⟩ := fields_F3 hw0 (by decide) (by decide) (by decide) (by omega) (by decide)
  rw [decode_short w l]
  have e1 : BitVec.ofNat 2 (w / 128) = c := (ofNat_fld ((fld_sub f7 0 2 (by decide)).trans (by unfold fld; omega : _ = c.toNat))).trans (ofNat_self _)
  have e2 : fld w 1 6 = 38 := f1
  have e3 : fld w 22 10 = 2 := f22
  have e4 : fld w 9 3 = 0 := (fld_sub f7 2 3 (by decide)).trans (by unfold fld; omega)
  have e5 : fldA w = 0 := ofNat_fld f12
  have e6 : fldB w = 0 := ofNat_fld f17
  simp [decodeShort, decodeMatrix, e1, e2, e3, e4, e5, e6, need_true]

theorem RoundTrip.mdrain (c : Acc) (a : GReg) (p : GReg) (row : BitVec 6) (rows : BitVec 7) (k : KReg) : RoundTrip.Statement (.mdrain c a p row rows k) := by
  intro _ hwf
  have h_c := c.isLt
  have h_a := a.isLt
  have h_p := p.isLt
  have h_row := row.isLt
  have h_rows := rows.isLt
  have h_k := k.isLt
  rw [show encode (.mdrain c a p row rows k) = (encL 1 p.toNat a.toNat c.toNat 0x06, row.toNat + rows.toNat * 2 ^ 6 + k.toNat * 2 ^ 13) from rfl]
  dsimp only
  generalize hw0 : encL 1 p.toNat a.toNat c.toNat 0x06 = w0
  obtain ⟨l, f1, f7, f12, f17, f22⟩ := fields_L hw0 (by decide) (by omega) (by omega) (by omega) (by decide)
  generalize hw1 : row.toNat + rows.toNat * 2 ^ 6 + k.toNat * 2 ^ 13 = w1
  rw [decode_long w0 w1 l]
  have e1 : BitVec.ofNat 2 (w0 / 128) = c := (ofNat_fld ((fld_sub f7 0 2 (by decide)).trans (by unfold fld; omega : _ = c.toNat))).trans (ofNat_self _)
  have e2 : BitVec.ofNat 3 (w1 / 8192) = k := ofNat_eq _ _ (by omega)
  have e3 : BitVec.ofNat 6 w1 = row := ofNat_eq _ _ (by omega)
  have e5 : BitVec.ofNat 7 (w1 / 64) = rows := ofNat_eq _ _ (by omega)
  have e6 : fld w0 1 6 = 6 := f1
  have e7 : fld w0 22 10 = 1 := f22
  have e8 : fld w0 9 3 = 0 := (fld_sub f7 2 3 (by decide)).trans (by unfold fld; omega)
  have e10 : fld w1 16 16 = 0 := by unfold fld; omega
  have e12 : fldA w0 = a := (ofNat_fld f12).trans (ofNat_self _)
  have e13 : fldB w0 = p := (ofNat_fld f17).trans (ofNat_self _)
  simp [decodeLong, decodeMatrixLong, e1, e2, e3, e5, e6, e7, e8, e10, e12, e13, need_true]

theorem RoundTrip.mdrainx (c : Acc) (a : GReg) (p : VReg) (row : BitVec 6) (rows : BitVec 7) (k : KReg) : RoundTrip.Statement (.mdrainx c a p row rows k) := by
  intro _ hwf
  have h_c := c.isLt
  have h_a := a.isLt
  have h_p := p.isLt
  have h_row := row.isLt
  have h_rows := rows.isLt
  have h_k := k.isLt
  rw [show encode (.mdrainx c a p row rows k) = (encL 2 p.toNat a.toNat c.toNat 0x06, row.toNat + rows.toNat * 2 ^ 6 + k.toNat * 2 ^ 13) from rfl]
  dsimp only
  generalize hw0 : encL 2 p.toNat a.toNat c.toNat 0x06 = w0
  obtain ⟨l, f1, f7, f12, f17, f22⟩ := fields_L hw0 (by decide) (by omega) (by omega) (by omega) (by decide)
  generalize hw1 : row.toNat + rows.toNat * 2 ^ 6 + k.toNat * 2 ^ 13 = w1
  rw [decode_long w0 w1 l]
  have e1 : BitVec.ofNat 2 (w0 / 128) = c := (ofNat_fld ((fld_sub f7 0 2 (by decide)).trans (by unfold fld; omega : _ = c.toNat))).trans (ofNat_self _)
  have e2 : BitVec.ofNat 3 (w1 / 8192) = k := ofNat_eq _ _ (by omega)
  have e3 : BitVec.ofNat 6 w1 = row := ofNat_eq _ _ (by omega)
  have e5 : BitVec.ofNat 7 (w1 / 64) = rows := ofNat_eq _ _ (by omega)
  have e6 : fld w0 1 6 = 6 := f1
  have e7 : fld w0 22 10 = 2 := f22
  have e8 : fld w0 9 3 = 0 := (fld_sub f7 2 3 (by decide)).trans (by unfold fld; omega)
  have e10 : fld w1 16 16 = 0 := by unfold fld; omega
  have e12 : fldA w0 = a := (ofNat_fld f12).trans (ofNat_self _)
  have e13 : fldB w0 = p := (ofNat_fld f17).trans (ofNat_self _)
  simp [decodeLong, decodeMatrixLong, e1, e2, e3, e5, e6, e7, e8, e10, e12, e13, need_true]

theorem RoundTrip.mldacc (c : Acc) (a : GReg) (p : GReg) (row : BitVec 6) (rows : BitVec 7) : RoundTrip.Statement (.mldacc c a p row rows) := by
  intro _ hwf
  have h_c := c.isLt
  have h_a := a.isLt
  have h_p := p.isLt
  have h_row := row.isLt
  have h_rows := rows.isLt
  rw [show encode (.mldacc c a p row rows) = (encL 3 p.toNat a.toNat c.toNat 0x06, row.toNat + rows.toNat * 2 ^ 6) from rfl]
  dsimp only
  generalize hw0 : encL 3 p.toNat a.toNat c.toNat 0x06 = w0
  obtain ⟨l, f1, f7, f12, f17, f22⟩ := fields_L hw0 (by decide) (by omega) (by omega) (by omega) (by decide)
  generalize hw1 : row.toNat + rows.toNat * 2 ^ 6 = w1
  rw [decode_long w0 w1 l]
  have e1 : BitVec.ofNat 2 (w0 / 128) = c := (ofNat_fld ((fld_sub f7 0 2 (by decide)).trans (by unfold fld; omega : _ = c.toNat))).trans (ofNat_self _)
  have e3 : BitVec.ofNat 6 w1 = row := ofNat_eq _ _ (by omega)
  have e5 : BitVec.ofNat 7 (w1 / 64) = rows := ofNat_eq _ _ (by omega)
  have e6 : fld w0 1 6 = 6 := f1
  have e7 : fld w0 22 10 = 3 := f22
  have e8 : fld w0 9 3 = 0 := (fld_sub f7 2 3 (by decide)).trans (by unfold fld; omega)
  have e9 : fld w1 13 19 = 0 := by unfold fld; omega
  have e12 : fldA w0 = a := (ofNat_fld f12).trans (ofNat_self _)
  have e13 : fldB w0 = p := (ofNat_fld f17).trans (ofNat_self _)
  simp [decodeLong, decodeMatrixLong, e1, e3, e5, e6, e7, e8, e9, e12, e13, need_true]

theorem RoundTrip.rld (d : GReg) (a : GReg) (p : GReg) (sz : Size) (s : Status) (off : BitVec 23) : RoundTrip.Statement (.rld d a p sz s off) := by
  intro _ hwf
  obtain ⟨st, sr, h_s, h_st, h_sr, h_sc⟩ := encStatus_eq s
  have h_d := d.isLt
  have h_a := a.isLt
  have h_p := p.isLt
  have h_sz := Size.code_lt sz
  have h_off := off.isLt
  rw [show encode (.rld d a p sz s off) = (encL (sz.code * 2 ^ 5) p.toNat a.toNat d.toNat 0x02, encStatus s + off.toNat) from rfl]
  dsimp only
  generalize hw0 : encL (sz.code * 2 ^ 5) p.toNat a.toNat d.toNat 0x02 = w0
  obtain ⟨l, f1, f7, f12, f17, f22⟩ := fields_L hw0 (by omega) (by omega) (by omega) (by omega) (by decide)
  generalize hw1 : encStatus s + off.toNat = w1
  rw [decode_long w0 w1 l]
  have e1 : BitVec.ofNat 23 w1 = off := ofNat_eq _ _ (by omega)
  have e2 : fld w0 1 6 = 2 := f1
  have e3 : fld w0 27 2 = sz.code := (fld_sub f22 5 2 (by decide)).trans (by unfold fld; omega)
  have e4 : fld w0 29 3 = 0 := (fld_sub f22 7 3 (by decide)).trans (by unfold fld; omega)
  have e6 : fld w1 23 5 = sr := by unfold fld; omega
  have e7 : fld w1 28 3 = 0 := by unfold fld; omega
  have e8 : fld w1 31 1 = st := by unfold fld; omega
  have e9 : fldA w0 = a := (ofNat_fld f12).trans (ofNat_self _)
  have e10 : fldB w0 = p := (ofNat_fld f17).trans (ofNat_self _)
  have e11 : fldC w0 = 0 := ofNat_fld ((fld_sub f22 0 5 (by decide)).trans (by unfold fld; omega : _ = 0))
  have e12 : fldD w0 = d := (ofNat_fld f7).trans (ofNat_self _)
  simp [decodeLong, decodeRemote, e1, e2, e3, e4, e6, e7, e8, e9, e10, e11, e12, withVal_some, need_true, Size.of_code, h_sc]

theorem RoundTrip.rst (c : GReg) (a : GReg) (p : GReg) (sz : Size) (s : Status) (off : BitVec 23) : RoundTrip.Statement (.rst c a p sz s off) := by
  intro _ hwf
  obtain ⟨st, sr, h_s, h_st, h_sr, h_sc⟩ := encStatus_eq s
  have h_c := c.isLt
  have h_a := a.isLt
  have h_p := p.isLt
  have h_sz := Size.code_lt sz
  have h_off := off.isLt
  rw [show encode (.rst c a p sz s off) = (encL (2 ^ 7 + sz.code * 2 ^ 5 + c.toNat) p.toNat a.toNat 0 0x02, encStatus s + off.toNat) from rfl]
  dsimp only
  generalize hw0 : encL (2 ^ 7 + sz.code * 2 ^ 5 + c.toNat) p.toNat a.toNat 0 0x02 = w0
  obtain ⟨l, f1, f7, f12, f17, f22⟩ := fields_L hw0 (by omega) (by omega) (by omega) (by decide) (by decide)
  generalize hw1 : encStatus s + off.toNat = w1
  rw [decode_long w0 w1 l]
  have e1 : BitVec.ofNat 23 w1 = off := ofNat_eq _ _ (by omega)
  have e2 : fld w0 1 6 = 2 := f1
  have e3 : fld w0 27 2 = sz.code := (fld_sub f22 5 2 (by decide)).trans (by unfold fld; omega)
  have e4 : fld w0 29 3 = 1 := (fld_sub f22 7 3 (by decide)).trans (by unfold fld; omega)
  have e6 : fld w1 23 5 = sr := by unfold fld; omega
  have e7 : fld w1 28 3 = 0 := by unfold fld; omega
  have e8 : fld w1 31 1 = st := by unfold fld; omega
  have e9 : fldA w0 = a := (ofNat_fld f12).trans (ofNat_self _)
  have e10 : fldB w0 = p := (ofNat_fld f17).trans (ofNat_self _)
  have e11 : fldC w0 = c := (ofNat_fld ((fld_sub f22 0 5 (by decide)).trans (by unfold fld; omega : _ = c.toNat))).trans (ofNat_self _)
  have e12 : fldD w0 = 0 := ofNat_fld f7
  simp [decodeLong, decodeRemote, e1, e2, e3, e4, e6, e7, e8, e9, e10, e11, e12, withVal_some, need_true, Size.of_code, h_sc]

theorem RoundTrip.ramoadd (d : GReg) (c : GReg) (a : GReg) (p : GReg) (sz : WSize) (s : Status) (off : BitVec 23) : RoundTrip.Statement (.ramoadd d c a p sz s off) := by
  intro _ hwf
  obtain ⟨st, sr, h_s, h_st, h_sr, h_sc⟩ := encStatus_eq s
  have h_d := d.isLt
  have h_c := c.isLt
  have h_a := a.isLt
  have h_p := p.isLt
  have h_sz := WSize.code_lt sz
  have h_off := off.isLt
  rw [show encode (.ramoadd d c a p sz s off) = (encL (2 * 2 ^ 7 + (sz.code + 2) * 2 ^ 5 + c.toNat) p.toNat a.toNat d.toNat 0x02, encStatus s + 0 * 2 ^ 28 + off.toNat) from rfl]
  dsimp only
  generalize hw0 : encL (2 * 2 ^ 7 + (sz.code + 2) * 2 ^ 5 + c.toNat) p.toNat a.toNat d.toNat 0x02 = w0
  obtain ⟨l, f1, f7, f12, f17, f22⟩ := fields_L hw0 (by omega) (by omega) (by omega) (by omega) (by decide)
  generalize hw1 : encStatus s + 0 * 2 ^ 28 + off.toNat = w1
  rw [decode_long w0 w1 l]
  have e1 : BitVec.ofNat 23 w1 = off := ofNat_eq _ _ (by omega)
  have e2 : fld w0 1 6 = 2 := f1
  have e3 : fld w0 27 1 = sz.code := (fld_sub f22 5 1 (by decide)).trans (by unfold fld; omega)
  have e5 : fld w0 28 1 = 1 := (fld_sub f22 6 1 (by decide)).trans (by unfold fld; omega)
  have e6 : fld w0 29 3 = 2 := (fld_sub f22 7 3 (by decide)).trans (by unfold fld; omega)
  have e8 : fld w1 23 5 = sr := by unfold fld; omega
  have e9 : fld w1 28 3 = 0 := by unfold fld; omega
  have e10 : fld w1 31 1 = st := by unfold fld; omega
  have e11 : fldA w0 = a := (ofNat_fld f12).trans (ofNat_self _)
  have e12 : fldB w0 = p := (ofNat_fld f17).trans (ofNat_self _)
  have e13 : fldC w0 = c := (ofNat_fld ((fld_sub f22 0 5 (by decide)).trans (by unfold fld; omega : _ = c.toNat))).trans (ofNat_self _)
  have e14 : fldD w0 = d := (ofNat_fld f7).trans (ofNat_self _)
  simp [decodeLong, decodeRemote, decodeRamo, e1, e2, e3, e5, e6, e8, e9, e10, e11, e12, e13, e14, withVal_some, need_true, WSize.of_code, h_sc]

theorem RoundTrip.ramoand (d : GReg) (c : GReg) (a : GReg) (p : GReg) (sz : WSize) (s : Status) (off : BitVec 23) : RoundTrip.Statement (.ramoand d c a p sz s off) := by
  intro _ hwf
  obtain ⟨st, sr, h_s, h_st, h_sr, h_sc⟩ := encStatus_eq s
  have h_d := d.isLt
  have h_c := c.isLt
  have h_a := a.isLt
  have h_p := p.isLt
  have h_sz := WSize.code_lt sz
  have h_off := off.isLt
  rw [show encode (.ramoand d c a p sz s off) = (encL (2 * 2 ^ 7 + (sz.code + 2) * 2 ^ 5 + c.toNat) p.toNat a.toNat d.toNat 0x02, encStatus s + 1 * 2 ^ 28 + off.toNat) from rfl]
  dsimp only
  generalize hw0 : encL (2 * 2 ^ 7 + (sz.code + 2) * 2 ^ 5 + c.toNat) p.toNat a.toNat d.toNat 0x02 = w0
  obtain ⟨l, f1, f7, f12, f17, f22⟩ := fields_L hw0 (by omega) (by omega) (by omega) (by omega) (by decide)
  generalize hw1 : encStatus s + 1 * 2 ^ 28 + off.toNat = w1
  rw [decode_long w0 w1 l]
  have e1 : BitVec.ofNat 23 w1 = off := ofNat_eq _ _ (by omega)
  have e2 : fld w0 1 6 = 2 := f1
  have e3 : fld w0 27 1 = sz.code := (fld_sub f22 5 1 (by decide)).trans (by unfold fld; omega)
  have e5 : fld w0 28 1 = 1 := (fld_sub f22 6 1 (by decide)).trans (by unfold fld; omega)
  have e6 : fld w0 29 3 = 2 := (fld_sub f22 7 3 (by decide)).trans (by unfold fld; omega)
  have e8 : fld w1 23 5 = sr := by unfold fld; omega
  have e9 : fld w1 28 3 = 1 := by unfold fld; omega
  have e10 : fld w1 31 1 = st := by unfold fld; omega
  have e11 : fldA w0 = a := (ofNat_fld f12).trans (ofNat_self _)
  have e12 : fldB w0 = p := (ofNat_fld f17).trans (ofNat_self _)
  have e13 : fldC w0 = c := (ofNat_fld ((fld_sub f22 0 5 (by decide)).trans (by unfold fld; omega : _ = c.toNat))).trans (ofNat_self _)
  have e14 : fldD w0 = d := (ofNat_fld f7).trans (ofNat_self _)
  simp [decodeLong, decodeRemote, decodeRamo, e1, e2, e3, e5, e6, e8, e9, e10, e11, e12, e13, e14, withVal_some, need_true, WSize.of_code, h_sc]

theorem RoundTrip.ramoor (d : GReg) (c : GReg) (a : GReg) (p : GReg) (sz : WSize) (s : Status) (off : BitVec 23) : RoundTrip.Statement (.ramoor d c a p sz s off) := by
  intro _ hwf
  obtain ⟨st, sr, h_s, h_st, h_sr, h_sc⟩ := encStatus_eq s
  have h_d := d.isLt
  have h_c := c.isLt
  have h_a := a.isLt
  have h_p := p.isLt
  have h_sz := WSize.code_lt sz
  have h_off := off.isLt
  rw [show encode (.ramoor d c a p sz s off) = (encL (2 * 2 ^ 7 + (sz.code + 2) * 2 ^ 5 + c.toNat) p.toNat a.toNat d.toNat 0x02, encStatus s + 2 * 2 ^ 28 + off.toNat) from rfl]
  dsimp only
  generalize hw0 : encL (2 * 2 ^ 7 + (sz.code + 2) * 2 ^ 5 + c.toNat) p.toNat a.toNat d.toNat 0x02 = w0
  obtain ⟨l, f1, f7, f12, f17, f22⟩ := fields_L hw0 (by omega) (by omega) (by omega) (by omega) (by decide)
  generalize hw1 : encStatus s + 2 * 2 ^ 28 + off.toNat = w1
  rw [decode_long w0 w1 l]
  have e1 : BitVec.ofNat 23 w1 = off := ofNat_eq _ _ (by omega)
  have e2 : fld w0 1 6 = 2 := f1
  have e3 : fld w0 27 1 = sz.code := (fld_sub f22 5 1 (by decide)).trans (by unfold fld; omega)
  have e5 : fld w0 28 1 = 1 := (fld_sub f22 6 1 (by decide)).trans (by unfold fld; omega)
  have e6 : fld w0 29 3 = 2 := (fld_sub f22 7 3 (by decide)).trans (by unfold fld; omega)
  have e8 : fld w1 23 5 = sr := by unfold fld; omega
  have e9 : fld w1 28 3 = 2 := by unfold fld; omega
  have e10 : fld w1 31 1 = st := by unfold fld; omega
  have e11 : fldA w0 = a := (ofNat_fld f12).trans (ofNat_self _)
  have e12 : fldB w0 = p := (ofNat_fld f17).trans (ofNat_self _)
  have e13 : fldC w0 = c := (ofNat_fld ((fld_sub f22 0 5 (by decide)).trans (by unfold fld; omega : _ = c.toNat))).trans (ofNat_self _)
  have e14 : fldD w0 = d := (ofNat_fld f7).trans (ofNat_self _)
  simp [decodeLong, decodeRemote, decodeRamo, e1, e2, e3, e5, e6, e8, e9, e10, e11, e12, e13, e14, withVal_some, need_true, WSize.of_code, h_sc]

theorem RoundTrip.ramoxor (d : GReg) (c : GReg) (a : GReg) (p : GReg) (sz : WSize) (s : Status) (off : BitVec 23) : RoundTrip.Statement (.ramoxor d c a p sz s off) := by
  intro _ hwf
  obtain ⟨st, sr, h_s, h_st, h_sr, h_sc⟩ := encStatus_eq s
  have h_d := d.isLt
  have h_c := c.isLt
  have h_a := a.isLt
  have h_p := p.isLt
  have h_sz := WSize.code_lt sz
  have h_off := off.isLt
  rw [show encode (.ramoxor d c a p sz s off) = (encL (2 * 2 ^ 7 + (sz.code + 2) * 2 ^ 5 + c.toNat) p.toNat a.toNat d.toNat 0x02, encStatus s + 3 * 2 ^ 28 + off.toNat) from rfl]
  dsimp only
  generalize hw0 : encL (2 * 2 ^ 7 + (sz.code + 2) * 2 ^ 5 + c.toNat) p.toNat a.toNat d.toNat 0x02 = w0
  obtain ⟨l, f1, f7, f12, f17, f22⟩ := fields_L hw0 (by omega) (by omega) (by omega) (by omega) (by decide)
  generalize hw1 : encStatus s + 3 * 2 ^ 28 + off.toNat = w1
  rw [decode_long w0 w1 l]
  have e1 : BitVec.ofNat 23 w1 = off := ofNat_eq _ _ (by omega)
  have e2 : fld w0 1 6 = 2 := f1
  have e3 : fld w0 27 1 = sz.code := (fld_sub f22 5 1 (by decide)).trans (by unfold fld; omega)
  have e5 : fld w0 28 1 = 1 := (fld_sub f22 6 1 (by decide)).trans (by unfold fld; omega)
  have e6 : fld w0 29 3 = 2 := (fld_sub f22 7 3 (by decide)).trans (by unfold fld; omega)
  have e8 : fld w1 23 5 = sr := by unfold fld; omega
  have e9 : fld w1 28 3 = 3 := by unfold fld; omega
  have e10 : fld w1 31 1 = st := by unfold fld; omega
  have e11 : fldA w0 = a := (ofNat_fld f12).trans (ofNat_self _)
  have e12 : fldB w0 = p := (ofNat_fld f17).trans (ofNat_self _)
  have e13 : fldC w0 = c := (ofNat_fld ((fld_sub f22 0 5 (by decide)).trans (by unfold fld; omega : _ = c.toNat))).trans (ofNat_self _)
  have e14 : fldD w0 = d := (ofNat_fld f7).trans (ofNat_self _)
  simp [decodeLong, decodeRemote, decodeRamo, e1, e2, e3, e5, e6, e8, e9, e10, e11, e12, e13, e14, withVal_some, need_true, WSize.of_code, h_sc]

theorem RoundTrip.ramomin (d : GReg) (c : GReg) (a : GReg) (p : GReg) (sz : WSize) (s : Status) (off : BitVec 23) : RoundTrip.Statement (.ramomin d c a p sz s off) := by
  intro _ hwf
  obtain ⟨st, sr, h_s, h_st, h_sr, h_sc⟩ := encStatus_eq s
  have h_d := d.isLt
  have h_c := c.isLt
  have h_a := a.isLt
  have h_p := p.isLt
  have h_sz := WSize.code_lt sz
  have h_off := off.isLt
  rw [show encode (.ramomin d c a p sz s off) = (encL (2 * 2 ^ 7 + (sz.code + 2) * 2 ^ 5 + c.toNat) p.toNat a.toNat d.toNat 0x02, encStatus s + 4 * 2 ^ 28 + off.toNat) from rfl]
  dsimp only
  generalize hw0 : encL (2 * 2 ^ 7 + (sz.code + 2) * 2 ^ 5 + c.toNat) p.toNat a.toNat d.toNat 0x02 = w0
  obtain ⟨l, f1, f7, f12, f17, f22⟩ := fields_L hw0 (by omega) (by omega) (by omega) (by omega) (by decide)
  generalize hw1 : encStatus s + 4 * 2 ^ 28 + off.toNat = w1
  rw [decode_long w0 w1 l]
  have e1 : BitVec.ofNat 23 w1 = off := ofNat_eq _ _ (by omega)
  have e2 : fld w0 1 6 = 2 := f1
  have e3 : fld w0 27 1 = sz.code := (fld_sub f22 5 1 (by decide)).trans (by unfold fld; omega)
  have e5 : fld w0 28 1 = 1 := (fld_sub f22 6 1 (by decide)).trans (by unfold fld; omega)
  have e6 : fld w0 29 3 = 2 := (fld_sub f22 7 3 (by decide)).trans (by unfold fld; omega)
  have e8 : fld w1 23 5 = sr := by unfold fld; omega
  have e9 : fld w1 28 3 = 4 := by unfold fld; omega
  have e10 : fld w1 31 1 = st := by unfold fld; omega
  have e11 : fldA w0 = a := (ofNat_fld f12).trans (ofNat_self _)
  have e12 : fldB w0 = p := (ofNat_fld f17).trans (ofNat_self _)
  have e13 : fldC w0 = c := (ofNat_fld ((fld_sub f22 0 5 (by decide)).trans (by unfold fld; omega : _ = c.toNat))).trans (ofNat_self _)
  have e14 : fldD w0 = d := (ofNat_fld f7).trans (ofNat_self _)
  simp [decodeLong, decodeRemote, decodeRamo, e1, e2, e3, e5, e6, e8, e9, e10, e11, e12, e13, e14, withVal_some, need_true, WSize.of_code, h_sc]

theorem RoundTrip.ramomax (d : GReg) (c : GReg) (a : GReg) (p : GReg) (sz : WSize) (s : Status) (off : BitVec 23) : RoundTrip.Statement (.ramomax d c a p sz s off) := by
  intro _ hwf
  obtain ⟨st, sr, h_s, h_st, h_sr, h_sc⟩ := encStatus_eq s
  have h_d := d.isLt
  have h_c := c.isLt
  have h_a := a.isLt
  have h_p := p.isLt
  have h_sz := WSize.code_lt sz
  have h_off := off.isLt
  rw [show encode (.ramomax d c a p sz s off) = (encL (2 * 2 ^ 7 + (sz.code + 2) * 2 ^ 5 + c.toNat) p.toNat a.toNat d.toNat 0x02, encStatus s + 5 * 2 ^ 28 + off.toNat) from rfl]
  dsimp only
  generalize hw0 : encL (2 * 2 ^ 7 + (sz.code + 2) * 2 ^ 5 + c.toNat) p.toNat a.toNat d.toNat 0x02 = w0
  obtain ⟨l, f1, f7, f12, f17, f22⟩ := fields_L hw0 (by omega) (by omega) (by omega) (by omega) (by decide)
  generalize hw1 : encStatus s + 5 * 2 ^ 28 + off.toNat = w1
  rw [decode_long w0 w1 l]
  have e1 : BitVec.ofNat 23 w1 = off := ofNat_eq _ _ (by omega)
  have e2 : fld w0 1 6 = 2 := f1
  have e3 : fld w0 27 1 = sz.code := (fld_sub f22 5 1 (by decide)).trans (by unfold fld; omega)
  have e5 : fld w0 28 1 = 1 := (fld_sub f22 6 1 (by decide)).trans (by unfold fld; omega)
  have e6 : fld w0 29 3 = 2 := (fld_sub f22 7 3 (by decide)).trans (by unfold fld; omega)
  have e8 : fld w1 23 5 = sr := by unfold fld; omega
  have e9 : fld w1 28 3 = 5 := by unfold fld; omega
  have e10 : fld w1 31 1 = st := by unfold fld; omega
  have e11 : fldA w0 = a := (ofNat_fld f12).trans (ofNat_self _)
  have e12 : fldB w0 = p := (ofNat_fld f17).trans (ofNat_self _)
  have e13 : fldC w0 = c := (ofNat_fld ((fld_sub f22 0 5 (by decide)).trans (by unfold fld; omega : _ = c.toNat))).trans (ofNat_self _)
  have e14 : fldD w0 = d := (ofNat_fld f7).trans (ofNat_self _)
  simp [decodeLong, decodeRemote, decodeRamo, e1, e2, e3, e5, e6, e8, e9, e10, e11, e12, e13, e14, withVal_some, need_true, WSize.of_code, h_sc]

theorem RoundTrip.ramoswp (d : GReg) (c : GReg) (a : GReg) (p : GReg) (sz : WSize) (s : Status) (off : BitVec 23) : RoundTrip.Statement (.ramoswp d c a p sz s off) := by
  intro _ hwf
  obtain ⟨st, sr, h_s, h_st, h_sr, h_sc⟩ := encStatus_eq s
  have h_d := d.isLt
  have h_c := c.isLt
  have h_a := a.isLt
  have h_p := p.isLt
  have h_sz := WSize.code_lt sz
  have h_off := off.isLt
  rw [show encode (.ramoswp d c a p sz s off) = (encL (2 * 2 ^ 7 + (sz.code + 2) * 2 ^ 5 + c.toNat) p.toNat a.toNat d.toNat 0x02, encStatus s + 6 * 2 ^ 28 + off.toNat) from rfl]
  dsimp only
  generalize hw0 : encL (2 * 2 ^ 7 + (sz.code + 2) * 2 ^ 5 + c.toNat) p.toNat a.toNat d.toNat 0x02 = w0
  obtain ⟨l, f1, f7, f12, f17, f22⟩ := fields_L hw0 (by omega) (by omega) (by omega) (by omega) (by decide)
  generalize hw1 : encStatus s + 6 * 2 ^ 28 + off.toNat = w1
  rw [decode_long w0 w1 l]
  have e1 : BitVec.ofNat 23 w1 = off := ofNat_eq _ _ (by omega)
  have e2 : fld w0 1 6 = 2 := f1
  have e3 : fld w0 27 1 = sz.code := (fld_sub f22 5 1 (by decide)).trans (by unfold fld; omega)
  have e5 : fld w0 28 1 = 1 := (fld_sub f22 6 1 (by decide)).trans (by unfold fld; omega)
  have e6 : fld w0 29 3 = 2 := (fld_sub f22 7 3 (by decide)).trans (by unfold fld; omega)
  have e8 : fld w1 23 5 = sr := by unfold fld; omega
  have e9 : fld w1 28 3 = 6 := by unfold fld; omega
  have e10 : fld w1 31 1 = st := by unfold fld; omega
  have e11 : fldA w0 = a := (ofNat_fld f12).trans (ofNat_self _)
  have e12 : fldB w0 = p := (ofNat_fld f17).trans (ofNat_self _)
  have e13 : fldC w0 = c := (ofNat_fld ((fld_sub f22 0 5 (by decide)).trans (by unfold fld; omega : _ = c.toNat))).trans (ofNat_self _)
  have e14 : fldD w0 = d := (ofNat_fld f7).trans (ofNat_self _)
  simp [decodeLong, decodeRemote, decodeRamo, e1, e2, e3, e5, e6, e8, e9, e10, e11, e12, e13, e14, withVal_some, need_true, WSize.of_code, h_sc]

theorem RoundTrip.ramocas (d : GReg) (c : GReg) (a : GReg) (p : GReg) (sz : WSize) (s : Status) (off : BitVec 23) : RoundTrip.Statement (.ramocas d c a p sz s off) := by
  intro _ hwf
  obtain ⟨st, sr, h_s, h_st, h_sr, h_sc⟩ := encStatus_eq s
  have h_d := d.isLt
  have h_c := c.isLt
  have h_a := a.isLt
  have h_p := p.isLt
  have h_sz := WSize.code_lt sz
  have h_off := off.isLt
  rw [show encode (.ramocas d c a p sz s off) = (encL (2 * 2 ^ 7 + (sz.code + 2) * 2 ^ 5 + c.toNat) p.toNat a.toNat d.toNat 0x02, encStatus s + 7 * 2 ^ 28 + off.toNat) from rfl]
  dsimp only
  generalize hw0 : encL (2 * 2 ^ 7 + (sz.code + 2) * 2 ^ 5 + c.toNat) p.toNat a.toNat d.toNat 0x02 = w0
  obtain ⟨l, f1, f7, f12, f17, f22⟩ := fields_L hw0 (by omega) (by omega) (by omega) (by omega) (by decide)
  generalize hw1 : encStatus s + 7 * 2 ^ 28 + off.toNat = w1
  rw [decode_long w0 w1 l]
  have e1 : BitVec.ofNat 23 w1 = off := ofNat_eq _ _ (by omega)
  have e2 : fld w0 1 6 = 2 := f1
  have e3 : fld w0 27 1 = sz.code := (fld_sub f22 5 1 (by decide)).trans (by unfold fld; omega)
  have e5 : fld w0 28 1 = 1 := (fld_sub f22 6 1 (by decide)).trans (by unfold fld; omega)
  have e6 : fld w0 29 3 = 2 := (fld_sub f22 7 3 (by decide)).trans (by unfold fld; omega)
  have e8 : fld w1 23 5 = sr := by unfold fld; omega
  have e9 : fld w1 28 3 = 7 := by unfold fld; omega
  have e10 : fld w1 31 1 = st := by unfold fld; omega
  have e11 : fldA w0 = a := (ofNat_fld f12).trans (ofNat_self _)
  have e12 : fldB w0 = p := (ofNat_fld f17).trans (ofNat_self _)
  have e13 : fldC w0 = c := (ofNat_fld ((fld_sub f22 0 5 (by decide)).trans (by unfold fld; omega : _ = c.toNat))).trans (ofNat_self _)
  have e14 : fldD w0 = d := (ofNat_fld f7).trans (ofNat_self _)
  simp [decodeLong, decodeRemote, decodeRamo, e1, e2, e3, e5, e6, e8, e9, e10, e11, e12, e13, e14, withVal_some, need_true, WSize.of_code, h_sc]

theorem RoundTrip.rfence : RoundTrip.Statement (.rfence) := by
  intro _ hwf
  rw [show encode (.rfence) = (encL (3 * 2 ^ 7) 0 0 0 0x02, 0) from rfl]
  dsimp only
  generalize hw0 : encL (3 * 2 ^ 7) 0 0 0 0x02 = w0
  obtain ⟨l, f1, f7, f12, f17, f22⟩ := fields_L hw0 (by decide) (by decide) (by decide) (by decide) (by decide)
  generalize hw1 : 0 = w1
  rw [decode_long w0 w1 l]
  have e2 : fld w0 1 6 = 2 := f1
  have e4 : fld w0 29 3 = 3 := (fld_sub f22 7 3 (by decide))
  have e5 : fld w0 7 22 = 0 := by rw [← hw0]; unfold fld encL; omega
  have ez : w1 = 0 := by omega
  simp [decodeLong, decodeRemote, e2, e4, e5, ez, need_true]

theorem RoundTrip.rldx (d : VReg) (a : VReg) (p : VReg) (k : KReg) (s : KStatus) : RoundTrip.Statement (.rldx d a p k s) := by
  intro _ hwf
  obtain ⟨st, sr, h_s, h_st, h_sr, h_sc⟩ := encKStatus_eq s
  have h_d := d.isLt
  have h_a := a.isLt
  have h_p := p.isLt
  have h_k := k.isLt
  rw [show encode (.rldx d a p k s) = (encL 0 p.toNat a.toNat d.toNat 0x03, encKStatus s + 0 * 2 ^ 28 + k.toNat * 2 ^ 25) from rfl]
  dsimp only
  generalize hw0 : encL 0 p.toNat a.toNat d.toNat 0x03 = w0
  obtain ⟨l, f1, f7, f12, f17, f22⟩ := fields_L hw0 (by decide) (by omega) (by omega) (by omega) (by decide)
  generalize hw1 : encKStatus s + 0 * 2 ^ 28 + k.toNat * 2 ^ 25 = w1
  rw [decode_long w0 w1 l]
  have e1 : BitVec.ofNat 3 (w1 / 33554432) = k := ofNat_eq _ _ (by omega)
  have e2 : fld w0 1 6 = 3 := f1
  have e3 : fld w0 22 10 = 0 := f22
  have e4 : fld w1 0 22 = 0 := by unfold fld; omega
  have e5 : fld w1 22 3 = sr := by unfold fld; omega
  have e6 : fld w1 28 3 = 0 := by unfold fld; omega
  have e7 : fld w1 31 1 = st := by unfold fld; omega
  have e8 : fldA w0 = a := (ofNat_fld f12).trans (ofNat_self _)
  have e9 : fldB w0 = p := (ofNat_fld f17).trans (ofNat_self _)
  have e10 : fldD w0 = d := (ofNat_fld f7).trans (ofNat_self _)
  simp [decodeLong, decodeVecRemote, e1, e2, e3, e4, e5, e6, e7, e8, e9, e10, withVal_some, need_true, h_sc]

theorem RoundTrip.rstx (d : VReg) (a : VReg) (p : VReg) (k : KReg) (s : KStatus) : RoundTrip.Statement (.rstx d a p k s) := by
  intro _ hwf
  obtain ⟨st, sr, h_s, h_st, h_sr, h_sc⟩ := encKStatus_eq s
  have h_d := d.isLt
  have h_a := a.isLt
  have h_p := p.isLt
  have h_k := k.isLt
  rw [show encode (.rstx d a p k s) = (encL 0 p.toNat a.toNat d.toNat 0x03, encKStatus s + 1 * 2 ^ 28 + k.toNat * 2 ^ 25) from rfl]
  dsimp only
  generalize hw0 : encL 0 p.toNat a.toNat d.toNat 0x03 = w0
  obtain ⟨l, f1, f7, f12, f17, f22⟩ := fields_L hw0 (by decide) (by omega) (by omega) (by omega) (by decide)
  generalize hw1 : encKStatus s + 1 * 2 ^ 28 + k.toNat * 2 ^ 25 = w1
  rw [decode_long w0 w1 l]
  have e1 : BitVec.ofNat 3 (w1 / 33554432) = k := ofNat_eq _ _ (by omega)
  have e2 : fld w0 1 6 = 3 := f1
  have e3 : fld w0 22 10 = 0 := f22
  have e4 : fld w1 0 22 = 0 := by unfold fld; omega
  have e5 : fld w1 22 3 = sr := by unfold fld; omega
  have e6 : fld w1 28 3 = 1 := by unfold fld; omega
  have e7 : fld w1 31 1 = st := by unfold fld; omega
  have e8 : fldA w0 = a := (ofNat_fld f12).trans (ofNat_self _)
  have e9 : fldB w0 = p := (ofNat_fld f17).trans (ofNat_self _)
  have e10 : fldD w0 = d := (ofNat_fld f7).trans (ofNat_self _)
  simp [decodeLong, decodeVecRemote, e1, e2, e3, e4, e5, e6, e7, e8, e9, e10, withVal_some, need_true, h_sc]

theorem RoundTrip.rapp (d : VReg) (a : GReg) (p : VReg) (k : KReg) (s : KStatus) : RoundTrip.Statement (.rapp d a p k s) := by
  intro _ hwf
  obtain ⟨st, sr, h_s, h_st, h_sr, h_sc⟩ := encKStatus_eq s
  have h_d := d.isLt
  have h_a := a.isLt
  have h_p := p.isLt
  have h_k := k.isLt
  rw [show encode (.rapp d a p k s) = (encL 0 p.toNat a.toNat d.toNat 0x03, encKStatus s + 2 * 2 ^ 28 + k.toNat * 2 ^ 25) from rfl]
  dsimp only
  generalize hw0 : encL 0 p.toNat a.toNat d.toNat 0x03 = w0
  obtain ⟨l, f1, f7, f12, f17, f22⟩ := fields_L hw0 (by decide) (by omega) (by omega) (by omega) (by decide)
  generalize hw1 : encKStatus s + 2 * 2 ^ 28 + k.toNat * 2 ^ 25 = w1
  rw [decode_long w0 w1 l]
  have e1 : BitVec.ofNat 3 (w1 / 33554432) = k := ofNat_eq _ _ (by omega)
  have e2 : fld w0 1 6 = 3 := f1
  have e3 : fld w0 22 10 = 0 := f22
  have e4 : fld w1 0 22 = 0 := by unfold fld; omega
  have e5 : fld w1 22 3 = sr := by unfold fld; omega
  have e6 : fld w1 28 3 = 2 := by unfold fld; omega
  have e7 : fld w1 31 1 = st := by unfold fld; omega
  have e8 : fldA w0 = a := (ofNat_fld f12).trans (ofNat_self _)
  have e9 : fldB w0 = p := (ofNat_fld f17).trans (ofNat_self _)
  have e10 : fldD w0 = d := (ofNat_fld f7).trans (ofNat_self _)
  simp [decodeLong, decodeVecRemote, e1, e2, e3, e4, e5, e6, e7, e8, e9, e10, withVal_some, need_true, h_sc]

theorem RoundTrip.rbatch : RoundTrip.Statement (.rbatch) := by
  intro _ hwf
  rw [show encode (.rbatch) = (encF3 2 0 0 0 0x27, 0) from rfl]
  dsimp only
  generalize hw0 : encF3 2 0 0 0 0x27 = w
  obtain ⟨l, f1, f7, f12, f17, f22⟩ := fields_F3 hw0 (by decide) (by decide) (by decide) (by decide) (by decide)
  rw [decode_short w l]
  have e1 : fld w 1 6 = 39 := f1
  have e2 : fld w 22 10 = 2 := f22
  have e4 : fld w 7 15 = 0 := by rw [← hw0]; unfold fld encF3; omega
  simp [decodeShort, decodeSync, e1, e2, e4, need_true]

theorem RoundTrip.rwait (n : BitVec 5) : RoundTrip.Statement (.rwait n) := by
  intro _ hwf
  have h_n := n.isLt
  rw [show encode (.rwait n) = (encF3 3 n.toNat 0 0 0x27, 0) from rfl]
  dsimp only
  generalize hw0 : encF3 3 n.toNat 0 0 0x27 = w
  obtain ⟨l, f1, f7, f12, f17, f22⟩ := fields_F3 hw0 (by decide) (by omega) (by decide) (by decide) (by decide)
  rw [decode_short w l]
  have e1 : fld w 1 6 = 39 := f1
  have e2 : fld w 22 10 = 3 := f22
  have e3 : fld w 7 10 = 0 := by rw [← hw0]; unfold fld encF3; omega
  have e6 : fldB w = n := (ofNat_fld f17).trans (ofNat_self _)
  simp [decodeShort, decodeSync, e1, e2, e3, e6, need_true]

theorem RoundTrip.barrive (a : GReg) : RoundTrip.Statement (.barrive a) := by
  intro _ hwf
  have h_a := a.isLt
  rw [show encode (.barrive a) = (encF3 0 0 a.toNat 0 0x27, 0) from rfl]
  dsimp only
  generalize hw0 : encF3 0 0 a.toNat 0 0x27 = w
  obtain ⟨l, f1, f7, f12, f17, f22⟩ := fields_F3 hw0 (by decide) (by decide) (by omega) (by decide) (by decide)
  rw [decode_short w l]
  have e1 : fld w 1 6 = 39 := f1
  have e2 : fld w 22 10 = 0 := f22
  have e5 : fldA w = a := (ofNat_fld f12).trans (ofNat_self _)
  have e6 : fldB w = 0 := ofNat_fld f17
  have e7 : fldD w = 0 := ofNat_fld f7
  simp [decodeShort, decodeSync, e1, e2, e5, e6, e7, need_true]

theorem RoundTrip.bwait (d : GReg) (a : GReg) : RoundTrip.Statement (.bwait d a) := by
  intro _ hwf
  have h_d := d.isLt
  have h_a := a.isLt
  rw [show encode (.bwait d a) = (encF3 1 0 a.toNat d.toNat 0x27, 0) from rfl]
  dsimp only
  generalize hw0 : encF3 1 0 a.toNat d.toNat 0x27 = w
  obtain ⟨l, f1, f7, f12, f17, f22⟩ := fields_F3 hw0 (by decide) (by decide) (by omega) (by omega) (by decide)
  rw [decode_short w l]
  have e1 : fld w 1 6 = 39 := f1
  have e2 : fld w 22 10 = 1 := f22
  have e5 : fldA w = a := (ofNat_fld f12).trans (ofNat_self _)
  have e6 : fldB w = 0 := ofNat_fld f17
  have e7 : fldD w = d := (ofNat_fld f7).trans (ofNat_self _)
  simp [decodeShort, decodeSync, e1, e2, e5, e6, e7, need_true]

theorem RoundTrip.trigger : RoundTrip.Statement (.trigger) := by
  intro _ hwf
  rw [show encode (.trigger) = (encF3 4 0 0 0 0x27, 0) from rfl]
  dsimp only
  generalize hw0 : encF3 4 0 0 0 0x27 = w
  obtain ⟨l, f1, f7, f12, f17, f22⟩ := fields_F3 hw0 (by decide) (by decide) (by decide) (by decide) (by decide)
  rw [decode_short w l]
  have e1 : fld w 1 6 = 39 := f1
  have e2 : fld w 22 10 = 4 := f22
  have e4 : fld w 7 15 = 0 := by rw [← hw0]; unfold fld encF3; omega
  simp [decodeShort, decodeSync, e1, e2, e4, need_true]

theorem RoundTrip.nexts : RoundTrip.Statement (.nexts) := by
  intro _ hwf
  rw [show encode (.nexts) = (encF3 5 0 0 0 0x27, 0) from rfl]
  dsimp only
  generalize hw0 : encF3 5 0 0 0 0x27 = w
  obtain ⟨l, f1, f7, f12, f17, f22⟩ := fields_F3 hw0 (by decide) (by decide) (by decide) (by decide) (by decide)
  rw [decode_short w l]
  have e1 : fld w 1 6 = 39 := f1
  have e2 : fld w 22 10 = 5 := f22
  have e4 : fld w 7 15 = 0 := by rw [← hw0]; unfold fld encF3; omega
  simp [decodeShort, decodeSync, e1, e2, e4, need_true]

theorem RoundTrip.launch (d : GReg) (a : GReg) (q : BitVec 10) : RoundTrip.Statement (.launch d a q) := by
  intro _ hwf
  have h_d := d.isLt
  have h_a := a.isLt
  have h_q := q.isLt
  rw [show encode (.launch d a q) = (encL 0 0 a.toNat d.toNat 0x08, q.toNat) from rfl]
  dsimp only
  generalize hw0 : encL 0 0 a.toNat d.toNat 0x08 = w0
  obtain ⟨l, f1, f7, f12, f17, f22⟩ := fields_L hw0 (by decide) (by decide) (by omega) (by omega) (by decide)
  generalize hw1 : q.toNat = w1
  rw [decode_long w0 w1 l]
  have e1 : BitVec.ofNat 10 w1 = q := ofNat_eq _ _ (by omega)
  have e2 : fld w0 1 6 = 8 := f1
  have e3 : fld w0 22 10 = 0 := f22
  have e4 : fld w1 10 22 = 0 := by unfold fld; omega
  have e5 : fldA w0 = a := (ofNat_fld f12).trans (ofNat_self _)
  have e6 : fldB w0 = 0 := ofNat_fld f17
  have e7 : fldD w0 = d := (ofNat_fld f7).trans (ofNat_self _)
  simp [decodeLong, decodeLaunch, e1, e2, e3, e4, e5, e6, e7, need_true]

theorem RoundTrip.crec (d : GReg) (a : GReg) : RoundTrip.Statement (.crec d a) := by
  intro _ hwf
  have h_d := d.isLt
  have h_a := a.isLt
  rw [show encode (.crec d a) = (encL 1 0 a.toNat d.toNat 0x08, 0) from rfl]
  dsimp only
  generalize hw0 : encL 1 0 a.toNat d.toNat 0x08 = w0
  obtain ⟨l, f1, f7, f12, f17, f22⟩ := fields_L hw0 (by decide) (by decide) (by omega) (by omega) (by decide)
  generalize hw1 : 0 = w1
  rw [decode_long w0 w1 l]
  have e2 : fld w0 1 6 = 8 := f1
  have e3 : fld w0 22 10 = 1 := f22
  have e5 : fldA w0 = a := (ofNat_fld f12).trans (ofNat_self _)
  have e6 : fldB w0 = 0 := ofNat_fld f17
  have e7 : fldD w0 = d := (ofNat_fld f7).trans (ofNat_self _)
  have ez : w1 = 0 := by omega
  simp [decodeLong, decodeLaunch, e2, e3, e5, e6, e7, ez, need_true]

theorem RoundTrip.fswap (a : GReg) : RoundTrip.Statement (.fswap a) := by
  intro _ hwf
  have h_a := a.isLt
  rw [show encode (.fswap a) = (encF3 0 0 a.toNat 0 0x25, 0) from rfl]
  dsimp only
  generalize hw0 : encF3 0 0 a.toNat 0 0x25 = w
  obtain ⟨l, f1, f7, f12, f17, f22⟩ := fields_F3 hw0 (by decide) (by decide) (by omega) (by decide) (by decide)
  rw [decode_short w l]
  have e1 : fld w 1 6 = 37 := f1
  have e2 : fld w 22 10 = 0 := f22
  have e3 : fldA w = a := (ofNat_fld f12).trans (ofNat_self _)
  have e4 : fldB w = 0 := ofNat_fld f17
  have e5 : fldD w = 0 := ofNat_fld f7
  simp [decodeShort, decodeFabric, e1, e2, e3, e4, e5, need_true]

theorem RoundTrip.fdrain (a : GReg) : RoundTrip.Statement (.fdrain a) := by
  intro _ hwf
  have h_a := a.isLt
  rw [show encode (.fdrain a) = (encF3 1 0 a.toNat 0 0x25, 0) from rfl]
  dsimp only
  generalize hw0 : encF3 1 0 a.toNat 0 0x25 = w
  obtain ⟨l, f1, f7, f12, f17, f22⟩ := fields_F3 hw0 (by decide) (by decide) (by omega) (by decide) (by decide)
  rw [decode_short w l]
  have e1 : fld w 1 6 = 37 := f1
  have e2 : fld w 22 10 = 1 := f22
  have e3 : fldA w = a := (ofNat_fld f12).trans (ofNat_self _)
  have e4 : fldB w = 0 := ofNat_fld f17
  have e5 : fldD w = 0 := ofNat_fld f7
  simp [decodeShort, decodeFabric, e1, e2, e3, e4, e5, need_true]

theorem RoundTrip.fstat (d : GReg) : RoundTrip.Statement (.fstat d) := by
  intro _ hwf
  have h_d := d.isLt
  rw [show encode (.fstat d) = (encF3 2 0 0 d.toNat 0x25, 0) from rfl]
  dsimp only
  generalize hw0 : encF3 2 0 0 d.toNat 0x25 = w
  obtain ⟨l, f1, f7, f12, f17, f22⟩ := fields_F3 hw0 (by decide) (by decide) (by decide) (by omega) (by decide)
  rw [decode_short w l]
  have e1 : fld w 1 6 = 37 := f1
  have e2 : fld w 22 10 = 2 := f22
  have e3 : fldA w = 0 := ofNat_fld f12
  have e4 : fldB w = 0 := ofNat_fld f17
  have e5 : fldD w = d := (ofNat_fld f7).trans (ofNat_self _)
  simp [decodeShort, decodeFabric, e1, e2, e3, e4, e5, need_true]

theorem RoundTrip.fpush (a : GReg) (b : GReg) : RoundTrip.Statement (.fpush a b) := by
  intro _ hwf
  have h_a := a.isLt
  have h_b := b.isLt
  rw [show encode (.fpush a b) = (encF3 3 b.toNat a.toNat 0 0x25, 0) from rfl]
  dsimp only
  generalize hw0 : encF3 3 b.toNat a.toNat 0 0x25 = w
  obtain ⟨l, f1, f7, f12, f17, f22⟩ := fields_F3 hw0 (by decide) (by omega) (by omega) (by decide) (by decide)
  rw [decode_short w l]
  have e1 : fld w 1 6 = 37 := f1
  have e2 : fld w 22 10 = 3 := f22
  have e3 : fldA w = a := (ofNat_fld f12).trans (ofNat_self _)
  have e4 : fldB w = b := (ofNat_fld f17).trans (ofNat_self _)
  have e5 : fldD w = 0 := ofNat_fld f7
  simp [decodeShort, decodeFabric, e1, e2, e3, e4, e5, need_true]

theorem RoundTrip.fpop (d : GReg) (a : GReg) : RoundTrip.Statement (.fpop d a) := by
  intro _ hwf
  have h_d := d.isLt
  have h_a := a.isLt
  rw [show encode (.fpop d a) = (encF3 4 0 a.toNat d.toNat 0x25, 0) from rfl]
  dsimp only
  generalize hw0 : encF3 4 0 a.toNat d.toNat 0x25 = w
  obtain ⟨l, f1, f7, f12, f17, f22⟩ := fields_F3 hw0 (by decide) (by decide) (by omega) (by omega) (by decide)
  rw [decode_short w l]
  have e1 : fld w 1 6 = 37 := f1
  have e2 : fld w 22 10 = 4 := f22
  have e3 : fldA w = a := (ofNat_fld f12).trans (ofNat_self _)
  have e4 : fldB w = 0 := ofNat_fld f17
  have e5 : fldD w = d := (ofNat_fld f7).trans (ofNat_self _)
  simp [decodeShort, decodeFabric, e1, e2, e3, e4, e5, need_true]

theorem RoundTrip.fload (a : GReg) (off : BitVec 32) : RoundTrip.Statement (.fload a off) := by
  intro _ hwf
  have h_a := a.isLt
  have h_off := off.isLt
  rw [show encode (.fload a off) = (encL 0 0 a.toNat 0 0x07, off.toNat) from rfl]
  dsimp only
  generalize hw0 : encL 0 0 a.toNat 0 0x07 = w0
  obtain ⟨l, f1, f7, f12, f17, f22⟩ := fields_L hw0 (by decide) (by decide) (by omega) (by decide) (by decide)
  generalize hw1 : off.toNat = w1
  rw [decode_long w0 w1 l]
  have e1 : BitVec.ofNat 32 w1 = off := ofNat_eq _ _ (by omega)
  have e2 : fld w0 1 6 = 7 := f1
  have e3 : fld w0 22 10 = 0 := f22
  have e4 : fldA w0 = a := (ofNat_fld f12).trans (ofNat_self _)
  have e5 : fldB w0 = 0 := ofNat_fld f17
  have e6 : fldD w0 = 0 := ofNat_fld f7
  simp [decodeLong, decodeFload, e1, e2, e3, e4, e5, e6, need_true]

theorem RoundTrip.sopen (d : GReg) (a : GReg) (e : Engine) (wr : Bool) (pol : Policy) : RoundTrip.Statement (.sopen d a e wr pol) := by
  intro _ hwf
  have h_d := d.isLt
  have h_a := a.isLt
  have h_e := e.isLt
  have h_wr := bit_lt wr
  have h_pol := Policy.code_lt pol
  rw [show encode (.sopen d a e wr pol) = (encL 0 0 a.toNat d.toNat 0x04, e.toNat + bit wr * 2 ^ 2 + pol.code * 2 ^ 3) from rfl]
  dsimp only
  generalize hw0 : encL 0 0 a.toNat d.toNat 0x04 = w0
  obtain ⟨l, f1, f7, f12, f17, f22⟩ := fields_L hw0 (by decide) (by decide) (by omega) (by omega) (by decide)
  generalize hw1 : e.toNat + bit wr * 2 ^ 2 + pol.code * 2 ^ 3 = w1
  rw [decode_long w0 w1 l]
  have e1 : BitVec.ofNat 2 w1 = e := ofNat_eq _ _ (by omega)
  have e2 : fld w0 1 6 = 4 := f1
  have e3 : fld w0 22 10 = 0 := f22
  have e5 : fld w1 2 1 = bit wr := by unfold fld; omega
  have e7 : fld w1 3 2 = pol.code := by unfold fld; omega
  have e8 : fld w1 5 27 = 0 := by unfold fld; omega
  have e9 : fldA w0 = a := (ofNat_fld f12).trans (ofNat_self _)
  have e10 : fldB w0 = 0 := ofNat_fld f17
  have e11 : fldD w0 = d := (ofNat_fld f7).trans (ofNat_self _)
  simp [decodeLong, decodeStream, e1, e2, e3, e5, e7, e8, e9, e10, e11, withVal_some, need_true, Policy.of_code, bit_one]

theorem RoundTrip.sbind (d : GReg) (e : Engine) (t : BindTarget) : RoundTrip.Statement (.sbind d e t) := by
  intro _ hwf
  have h_d := d.isLt
  have h_e := e.isLt
  rcases t with ⟨tr, trc⟩ | ⟨tr, trc⟩ | tr
  · have h_trc := trc.isLt
    have h_tr := tr.isLt
    rw [show encode (.sbind d e (.fin tr trc)) = (encL 1 0 0 d.toNat 0x04, e.toNat + (BindTarget.fin tr trc).code) from rfl]
    dsimp only
    generalize hw0 : encL 1 0 0 d.toNat 0x04 = w0
    obtain ⟨l, f1, f7, f12, f17, f22⟩ := fields_L hw0 (by decide) (by decide) (by decide) (by omega) (by decide)
    generalize hw1 : e.toNat + (BindTarget.fin tr trc).code = w1
    simp only [BindTarget.code] at hw1
    rw [decode_long w0 w1 l]
    have e1 : BitVec.ofNat 2 (w1 / 2048) = trc := ofNat_eq _ _ (by omega)
    have e2 : BitVec.ofNat 2 w1 = e := ofNat_eq _ _ (by omega)
    have e3 : BitVec.ofNat 6 (w1 / 32) = tr := ofNat_eq _ _ (by omega)
    have e4 : fld w0 1 6 = 4 := f1
    have e5 : fld w0 22 10 = 1 := f22
    have e6 : fld w1 13 19 = 0 := by unfold fld; omega
    have e8 : fld w1 2 3 = 0 := by unfold fld; omega
    have e13 : fldA w0 = 0 := ofNat_fld f12
    have e14 : fldB w0 = 0 := ofNat_fld f17
    have e15 : fldD w0 = d := (ofNat_fld f7).trans (ofNat_self _)
    simp [decodeLong, decodeStream, e1, e2, e3, e4, e5, e6, e8, e13, e14, e15, withVal_some, need_true, bindTargetOf]
  · have h_trc := trc.isLt
    have h_tr := tr.isLt
    rw [show encode (.sbind d e (.fout tr trc)) = (encL 1 0 0 d.toNat 0x04, e.toNat + (BindTarget.fout tr trc).code) from rfl]
    dsimp only
    generalize hw0 : encL 1 0 0 d.toNat 0x04 = w0
    obtain ⟨l, f1, f7, f12, f17, f22⟩ := fields_L hw0 (by decide) (by decide) (by decide) (by omega) (by decide)
    generalize hw1 : e.toNat + (BindTarget.fout tr trc).code = w1
    simp only [BindTarget.code] at hw1
    rw [decode_long w0 w1 l]
    have e1 : BitVec.ofNat 2 (w1 / 2048) = trc := ofNat_eq _ _ (by omega)
    have e2 : BitVec.ofNat 2 w1 = e := ofNat_eq _ _ (by omega)
    have e3 : BitVec.ofNat 6 (w1 / 32) = tr := ofNat_eq _ _ (by omega)
    have e4 : fld w0 1 6 = 4 := f1
    have e5 : fld w0 22 10 = 1 := f22
    have e6 : fld w1 13 19 = 0 := by unfold fld; omega
    have e8 : fld w1 2 3 = 1 := by unfold fld; omega
    have e13 : fldA w0 = 0 := ofNat_fld f12
    have e14 : fldB w0 = 0 := ofNat_fld f17
    have e15 : fldD w0 = d := (ofNat_fld f7).trans (ofNat_self _)
    simp [decodeLong, decodeStream, e1, e2, e3, e4, e5, e6, e8, e13, e14, e15, withVal_some, need_true, bindTargetOf]
  · have h_tr := tr.isLt
    rw [show encode (.sbind d e (.queue tr)) = (encL 1 0 0 d.toNat 0x04, e.toNat + (BindTarget.queue tr).code) from rfl]
    dsimp only
    generalize hw0 : encL 1 0 0 d.toNat 0x04 = w0
    obtain ⟨l, f1, f7, f12, f17, f22⟩ := fields_L hw0 (by decide) (by decide) (by decide) (by omega) (by decide)
    generalize hw1 : e.toNat + (BindTarget.queue tr).code = w1
    simp only [BindTarget.code] at hw1
    rw [decode_long w0 w1 l]
    have e1 : BitVec.ofNat 2 (w1 / 2048) = tr := ofNat_eq _ _ (by omega)
    have e2 : BitVec.ofNat 2 w1 = e := ofNat_eq _ _ (by omega)
    have e4 : fld w0 1 6 = 4 := f1
    have e5 : fld w0 22 10 = 1 := f22
    have e6 : fld w1 13 19 = 0 := by unfold fld; omega
    have e8 : fld w1 2 3 = 2 := by unfold fld; omega
    have e12 : fld w1 5 6 = 0 := by unfold fld; omega
    have e13 : fldA w0 = 0 := ofNat_fld f12
    have e14 : fldB w0 = 0 := ofNat_fld f17
    have e15 : fldD w0 = d := (ofNat_fld f7).trans (ofNat_self _)
    simp [decodeLong, decodeStream, e1, e2, e4, e5, e6, e8, e12, e13, e14, e15, withVal_some, need_true, bindTargetOf]

theorem RoundTrip.sclose (d : GReg) (e : Engine) : RoundTrip.Statement (.sclose d e) := by
  intro _ hwf
  have h_d := d.isLt
  have h_e := e.isLt
  rw [show encode (.sclose d e) = (encL 2 0 0 d.toNat 0x04, e.toNat) from rfl]
  dsimp only
  generalize hw0 : encL 2 0 0 d.toNat 0x04 = w0
  obtain ⟨l, f1, f7, f12, f17, f22⟩ := fields_L hw0 (by decide) (by decide) (by decide) (by omega) (by decide)
  generalize hw1 : e.toNat = w1
  rw [decode_long w0 w1 l]
  have e1 : BitVec.ofNat 2 w1 = e := ofNat_eq _ _ (by omega)
  have e2 : fld w0 1 6 = 4 := f1
  have e3 : fld w0 22 10 = 2 := f22
  have e6 : fld w1 2 30 = 0 := by unfold fld; omega
  have e9 : fldA w0 = 0 := ofNat_fld f12
  have e10 : fldB w0 = 0 := ofNat_fld f17
  have e11 : fldD w0 = d := (ofNat_fld f7).trans (ofNat_self _)
  simp [decodeLong, decodeStream, e1, e2, e3, e6, e9, e10, e11, need_true]

theorem RoundTrip.sstat (d : GReg) (e : Engine) : RoundTrip.Statement (.sstat d e) := by
  intro _ hwf
  have h_d := d.isLt
  have h_e := e.isLt
  rw [show encode (.sstat d e) = (encL 3 0 0 d.toNat 0x04, e.toNat) from rfl]
  dsimp only
  generalize hw0 : encL 3 0 0 d.toNat 0x04 = w0
  obtain ⟨l, f1, f7, f12, f17, f22⟩ := fields_L hw0 (by decide) (by decide) (by decide) (by omega) (by decide)
  generalize hw1 : e.toNat = w1
  rw [decode_long w0 w1 l]
  have e1 : BitVec.ofNat 2 w1 = e := ofNat_eq _ _ (by omega)
  have e2 : fld w0 1 6 = 4 := f1
  have e3 : fld w0 22 10 = 3 := f22
  have e6 : fld w1 2 30 = 0 := by unfold fld; omega
  have e9 : fldA w0 = 0 := ofNat_fld f12
  have e10 : fldB w0 = 0 := ofNat_fld f17
  have e11 : fldD w0 = d := (ofNat_fld f7).trans (ofNat_self _)
  simp [decodeLong, decodeStream, e1, e2, e3, e6, e9, e10, e11, need_true]

theorem RoundTrip.wdrive (a : GReg) (off : BitVec 32) : RoundTrip.Statement (.wdrive a off) := by
  intro _ hwf
  have h_a := a.isLt
  have h_off := off.isLt
  rw [show encode (.wdrive a off) = (encL 0 0 a.toNat 0 0x09, off.toNat) from rfl]
  dsimp only
  generalize hw0 : encL 0 0 a.toNat 0 0x09 = w0
  obtain ⟨l, f1, f7, f12, f17, f22⟩ := fields_L hw0 (by decide) (by decide) (by omega) (by decide) (by decide)
  generalize hw1 : off.toNat = w1
  rw [decode_long w0 w1 l]
  have e1 : BitVec.ofNat 32 w1 = off := ofNat_eq _ _ (by omega)
  have e2 : fld w0 1 6 = 9 := f1
  have e3 : fld w0 22 10 = 0 := f22
  have e4 : fldA w0 = a := (ofNat_fld f12).trans (ofNat_self _)
  have e5 : fldB w0 = 0 := ofNat_fld f17
  have e6 : fldD w0 = 0 := ofNat_fld f7
  simp [decodeLong, decodeWdrive, e1, e2, e3, e4, e5, e6, need_true]

theorem RoundTrip.wbMma (hdr : BitVec 512) : RoundTrip.Statement (.wbMma hdr) := fun h => absurd rfl h

theorem RoundTrip.wbAdd (hdr : BitVec 512) : RoundTrip.Statement (.wbAdd hdr) := fun h => absurd rfl h

theorem RoundTrip.wbScale (hdr : BitVec 512) : RoundTrip.Statement (.wbScale hdr) := fun h => absurd rfl h

theorem RoundTrip.wbAct (hdr : BitVec 512) : RoundTrip.Statement (.wbAct hdr) := fun h => absurd rfl h

theorem RoundTrip.wbDrain (hdr : BitVec 512) : RoundTrip.Statement (.wbDrain hdr) := fun h => absurd rfl h

theorem RoundTrip.wbBranch (hdr : BitVec 512) : RoundTrip.Statement (.wbBranch hdr) := fun h => absurd rfl h

theorem RoundTrip.wbCall (hdr : BitVec 512) : RoundTrip.Statement (.wbCall hdr) := fun h => absurd rfl h

theorem RoundTrip.wbRet (hdr : BitVec 512) : RoundTrip.Statement (.wbRet hdr) := fun h => absurd rfl h

theorem RoundTrip.wbSync (hdr : BitVec 512) : RoundTrip.Statement (.wbSync hdr) := fun h => absurd rfl h

theorem RoundTrip.wbNop (hdr : BitVec 512) : RoundTrip.Statement (.wbNop hdr) := fun h => absurd rfl h

theorem RoundTrip.wbExit (hdr : BitVec 512) : RoundTrip.Statement (.wbExit hdr) := fun h => absurd rfl h

theorem RoundTrip.weightBlockPost  : RoundTrip.Statement (.weightBlockPost) := fun h => absurd rfl h

theorem RoundTrip.interruptEntry  : RoundTrip.Statement (.interruptEntry) := fun h => absurd rfl h

theorem RoundTrip.userLevelInterrupt  : RoundTrip.Statement (.userLevelInterrupt) := fun h => absurd rfl h

theorem RoundTrip.scountZero  : RoundTrip.Statement (.scountZero) := fun h => absurd rfl h

theorem RoundTrip.safePointDistanceFault  : RoundTrip.Statement (.safePointDistanceFault) := fun h => absurd rfl h

theorem RoundTrip.wfeTimeLimit  : RoundTrip.Statement (.wfeTimeLimit) := fun h => absurd rfl h

theorem RoundTrip.ctxidWrite  : RoundTrip.Statement (.ctxidWrite) := fun h => absurd rfl h

theorem RoundTrip.vlWrite  : RoundTrip.Statement (.vlWrite) := fun h => absurd rfl h

theorem RoundTrip.vtypeWrite  : RoundTrip.Statement (.vtypeWrite) := fun h => absurd rfl h

theorem RoundTrip.vlpWrite  : RoundTrip.Statement (.vlpWrite) := fun h => absurd rfl h

theorem RoundTrip.fflagsWrite  : RoundTrip.Statement (.fflagsWrite) := fun h => absurd rfl h

theorem RoundTrip.vesWrite  : RoundTrip.Statement (.vesWrite) := fun h => absurd rfl h

theorem RoundTrip.validityFieldWrite  : RoundTrip.Statement (.validityFieldWrite) := fun h => absurd rfl h

theorem RoundTrip.registerWrite  : RoundTrip.Statement (.registerWrite) := fun h => absurd rfl h

theorem RoundTrip.pinfo  : RoundTrip.Statement (.pinfo) := fun h => absurd rfl h

theorem RoundTrip.logread  : RoundTrip.Statement (.logread) := fun h => absurd rfl h

theorem RoundTrip.peerreg  : RoundTrip.Statement (.peerreg) := fun h => absurd rfl h

theorem RoundTrip.fabesc  : RoundTrip.Statement (.fabesc) := fun h => absurd rfl h

theorem RoundTrip.attest  : RoundTrip.Statement (.attest) := fun h => absurd rfl h

theorem RoundTrip.qpopen  : RoundTrip.Statement (.qpopen) := fun h => absurd rfl h

theorem RoundTrip.qpclose  : RoundTrip.Statement (.qpclose) := fun h => absurd rfl h

theorem RoundTrip.workQueueDoorbell  : RoundTrip.Statement (.workQueueDoorbell) := fun h => absurd rfl h

theorem RoundTrip.packetTake  : RoundTrip.Statement (.packetTake) := fun h => absurd rfl h

theorem RoundTrip.hartPlacement  : RoundTrip.Statement (.hartPlacement) := fun h => absurd rfl h

theorem RoundTrip.farmCompletion  : RoundTrip.Statement (.farmCompletion) := fun h => absurd rfl h

theorem RoundTrip.killNotice  : RoundTrip.Statement (.killNotice) := fun h => absurd rfl h

theorem RoundTrip.killAcknowledgement  : RoundTrip.Statement (.killAcknowledgement) := fun h => absurd rfl h

theorem RoundTrip.killAcknowledgementTimeout  : RoundTrip.Statement (.killAcknowledgementTimeout) := fun h => absurd rfl h

theorem RoundTrip.fillRequest  : RoundTrip.Statement (.fillRequest) := fun h => absurd rfl h

theorem RoundTrip.writeRequest  : RoundTrip.Statement (.writeRequest) := fun h => absurd rfl h

theorem RoundTrip.evictionNotice  : RoundTrip.Statement (.evictionNotice) := fun h => absurd rfl h

theorem RoundTrip.invalidation  : RoundTrip.Statement (.invalidation) := fun h => absurd rfl h

theorem RoundTrip.invalidationAcknowledgement  : RoundTrip.Statement (.invalidationAcknowledgement) := fun h => absurd rfl h

theorem RoundTrip.fillResponse  : RoundTrip.Statement (.fillResponse) := fun h => absurd rfl h

theorem RoundTrip.writeAcknowledgement  : RoundTrip.Statement (.writeAcknowledgement) := fun h => absurd rfl h

theorem RoundTrip.holdAcknowledgement  : RoundTrip.Statement (.holdAcknowledgement) := fun h => absurd rfl h

theorem RoundTrip.requestRefusal  : RoundTrip.Statement (.requestRefusal) := fun h => absurd rfl h

theorem RoundTrip.retryBackoffExpiry  : RoundTrip.Statement (.retryBackoffExpiry) := fun h => absurd rfl h

theorem RoundTrip.hostRequest  : RoundTrip.Statement (.hostRequest) := fun h => absurd rfl h

theorem RoundTrip.backInvalidateResponse  : RoundTrip.Statement (.backInvalidateResponse) := fun h => absurd rfl h

theorem RoundTrip.hostSnoop  : RoundTrip.Statement (.hostSnoop) := fun h => absurd rfl h

theorem RoundTrip.writeCombineFlush  : RoundTrip.Statement (.writeCombineFlush) := fun h => absurd rfl h

theorem RoundTrip.reservationRegistration  : RoundTrip.Statement (.reservationRegistration) := fun h => absurd rfl h

theorem RoundTrip.cutNotice  : RoundTrip.Statement (.cutNotice) := fun h => absurd rfl h

theorem RoundTrip.reservationFree  : RoundTrip.Statement (.reservationFree) := fun h => absurd rfl h

theorem RoundTrip.subBatchArrival  : RoundTrip.Statement (.subBatchArrival) := fun h => absurd rfl h

theorem RoundTrip.remoteReply  : RoundTrip.Statement (.remoteReply) := fun h => absurd rfl h

theorem RoundTrip.batchCompletion  : RoundTrip.Statement (.batchCompletion) := fun h => absurd rfl h

theorem RoundTrip.barrierArrival  : RoundTrip.Statement (.barrierArrival) := fun h => absurd rfl h

theorem RoundTrip.streamReadElement  : RoundTrip.Statement (.streamReadElement) := fun h => absurd rfl h

theorem RoundTrip.streamWriteElement  : RoundTrip.Statement (.streamWriteElement) := fun h => absurd rfl h

theorem RoundTrip.peFire  : RoundTrip.Statement (.peFire) := fun h => absurd rfl h

theorem RoundTrip.tokenTransfer  : RoundTrip.Statement (.tokenTransfer) := fun h => absurd rfl h

theorem RoundTrip.fabricFaultDelivery  : RoundTrip.Statement (.fabricFaultDelivery) := fun h => absurd rfl h

theorem RoundTrip.peQuiescence  : RoundTrip.Statement (.peQuiescence) := fun h => absurd rfl h

theorem RoundTrip.regionDrained  : RoundTrip.Statement (.regionDrained) := fun h => absurd rfl h

theorem RoundTrip.stagingComplete  : RoundTrip.Statement (.stagingComplete) := fun h => absurd rfl h

theorem RoundTrip.swapComplete  : RoundTrip.Statement (.swapComplete) := fun h => absurd rfl h

theorem RoundTrip.clusterRetirement  : RoundTrip.Statement (.clusterRetirement) := fun h => absurd rfl h

theorem RoundTrip.guardBandRaise  : RoundTrip.Statement (.guardBandRaise) := fun h => absurd rfl h

theorem RoundTrip.tileDeconfiguration  : RoundTrip.Statement (.tileDeconfiguration) := fun h => absurd rfl h

theorem RoundTrip.thermalStop  : RoundTrip.Statement (.thermalStop) := fun h => absurd rfl h

theorem RoundTrip.healthMonitorSample  : RoundTrip.Statement (.healthMonitorSample) := fun h => absurd rfl h

theorem RoundTrip.healthMonitorClear  : RoundTrip.Statement (.healthMonitorClear) := fun h => absurd rfl h

theorem RoundTrip.powerOn  : RoundTrip.Statement (.powerOn) := fun h => absurd rfl h

theorem RoundTrip.sendQueueDoorbell  : RoundTrip.Statement (.sendQueueDoorbell) := fun h => absurd rfl h

theorem RoundTrip.receiveQueueDoorbell  : RoundTrip.Statement (.receiveQueueDoorbell) := fun h => absurd rfl h

theorem RoundTrip.completionQueueDoorbell  : RoundTrip.Statement (.completionQueueDoorbell) := fun h => absurd rfl h

theorem RoundTrip.send  : RoundTrip.Statement (.send) := fun h => absurd rfl h

theorem RoundTrip.sendWithImmediate  : RoundTrip.Statement (.sendWithImmediate) := fun h => absurd rfl h

theorem RoundTrip.rdmaWrite  : RoundTrip.Statement (.rdmaWrite) := fun h => absurd rfl h

theorem RoundTrip.rdmaWriteWithImmediate  : RoundTrip.Statement (.rdmaWriteWithImmediate) := fun h => absurd rfl h

theorem RoundTrip.rdmaRead  : RoundTrip.Statement (.rdmaRead) := fun h => absurd rfl h

theorem RoundTrip.incomingSend  : RoundTrip.Statement (.incomingSend) := fun h => absurd rfl h

theorem RoundTrip.incomingRdmaWrite  : RoundTrip.Statement (.incomingRdmaWrite) := fun h => absurd rfl h

theorem RoundTrip.incomingRdmaRead  : RoundTrip.Statement (.incomingRdmaRead) := fun h => absurd rfl h

theorem RoundTrip.ack  : RoundTrip.Statement (.ack) := fun h => absurd rfl h

theorem RoundTrip.sequenceErrorNak  : RoundTrip.Statement (.sequenceErrorNak) := fun h => absurd rfl h

theorem RoundTrip.receiverNotReadyNak  : RoundTrip.Statement (.receiverNotReadyNak) := fun h => absurd rfl h

theorem RoundTrip.remoteAccessNak  : RoundTrip.Statement (.remoteAccessNak) := fun h => absurd rfl h

theorem RoundTrip.ackTimeout  : RoundTrip.Statement (.ackTimeout) := fun h => absurd rfl h

theorem RoundTrip.rnrWaitExpiry  : RoundTrip.Statement (.rnrWaitExpiry) := fun h => absurd rfl h

theorem RoundTrip.congestionNotificationPacket  : RoundTrip.Statement (.congestionNotificationPacket) := fun h => absurd rfl h

theorem RoundTrip.ceMarkedPacket  : RoundTrip.Statement (.ceMarkedPacket) := fun h => absurd rfl h

theorem RoundTrip.rateRecovery  : RoundTrip.Statement (.rateRecovery) := fun h => absurd rfl h

theorem RoundTrip.priorityFlowControl  : RoundTrip.Statement (.priorityFlowControl) := fun h => absurd rfl h

theorem RoundTrip.vectorInstructionRetirement  : RoundTrip.Statement (.vectorInstructionRetirement) := fun h => absurd rfl h

theorem RoundTrip.peerUnreachable  : RoundTrip.Statement (.peerUnreachable) := fun h => absurd rfl h

theorem RoundTrip.powerLoss  : RoundTrip.Statement (.powerLoss) := fun h => absurd rfl h

theorem RoundTrip.rdmaReadResponse  : RoundTrip.Statement (.rdmaReadResponse) := fun h => absurd rfl h

theorem RoundTrip.remoteOperationNak  : RoundTrip.Statement (.remoteOperationNak) := fun h => absurd rfl h

theorem RoundTrip.hostLinkTraining  : RoundTrip.Statement (.hostLinkTraining) := fun h => absurd rfl h

theorem RoundTrip.cxlCacheResponse  : RoundTrip.Statement (.cxlCacheResponse) := fun h => absurd rfl h

end Sys2Proof.Laws
end

