-- ==== Sys2Proof/Safety.lean ====
section
/-! DEFINITION. What a safe run is, and the predicates in which statements say what a step changes and where an access reaches
memory. -/

namespace Sys2Proof.Machine

/-- A property that every step keeps: a run stays safe for it. -/
def Kept (P : State → Prop) : Prop := ∀ s t, P s → step s = .next t → P t

/-- Memory is in its canonical form (log 4): addresses rise and no listed byte is zero. -/
def State.memoryForm (s : State) : Prop := Memory.wf s.mem = true

/-- The current hart differs in its general registers and its pc at most: G[d] holds x, g0 reads as
zero, a write to g0 is discarded, the hidden copies of g24 to g31 are untouched (02 R35, R51), and the pc. -/
structure WroteG (s t : State) (pc : Word) (d : GReg) (x : Word) : Prop where
  pc : t.hart.pc = pc
  regs : ∀ r, t.hart.rg r = if r = 0 then 0 else if r = d then x else s.hart.rg r
  hiddenG : s.hart.shadowed d = true → t.hart.g = s.hart.g
  hiddenS : s.hart.shadowed d = false → t.hart.shd = s.hart.shd
  rest : t.hart = { s.hart with pc := t.hart.pc, g := t.hart.g, shd := t.hart.shd }

/-- Nothing but the current hart differs: every other hart, the rest of the tiles, memory and the agenda are as before. -/
def OnlyHart (s t : State) : Prop := t = s.setHart t.hart

/-- Nothing but the current hart and memory differs. -/
def OnlyHartAndMemory (s t : State) : Prop := t = { s.setHart t.hart with mem := t.mem }

/-- Every byte outside n bytes from an address reads as before. -/
def BytesKept (s t : State) (a n : Nat) : Prop := ∀ c, c < a ∨ a + n ≤ c → memGet t.mem c = memGet s.mem c

/-- The 8 bytes of the leaf entry whose A and D bits an access may set (16 R337): none for an untranslated access. -/
def entryBytes (e : Option (Nat × Nat × Nat)) (c : Nat) : Prop :=
  match e with
  | none => False
  | some x => x.1 ≤ c ∧ c < x.1 + 8

/-- An access of n bytes reaches memory at pa: it is aligned, it translates to cacheable or uncached memory, no reservation stands
in its way, no home asks for a retry or has asked for one, none holds it or has answered it before, a write has no earlier write of
its hart to those lines before it, and no byte is bad (06 R133, 01 R22). -/
structure Reaches (s : State) (a : Actor) (k : AccKind) (n : Nat) (va : Word) (pa ty : Nat) (e : Option (Nat × Nat × Nat)) :
    Prop where
  aligned : va.toNat % n = 0
  trans : translate s a.sp k va = .ok pa ty e
  plain : ty ≠ 3
  served : conflict s a.who (lineList pa n) (k == .store) = .serve []
  free : mustRetry s a.hart (lineList pa n) = false
  unrefused : ∀ l ∈ lineList pa n, ageOf s (askerId a.hart) l = 0
  unanswered : answerOf s a.hart va n = none
  notHeld : heldAt s a.hart va n = false
  first : k = .store → ownOnWay s a.hart (lineList pa n) = false ∧ ownHeldAt s a.hart (lineList pa n) = none
  good : badIn s pa n = none

/-- Nothing but what the homes and caches keep of lines, memory, and the reservations that an access meets, differs. -/
def SameButLines (s t : State) : Prop :=
  t = { s with tiles := t.tiles, mem := t.mem, dir := t.dir, bad := t.bad, tlb := t.tlb, events := t.events, resvs := t.resvs,
               refused := t.refused, await := t.await } ∧
  ∀ n, tileAt t n = { tileAt s n with lines := (tileAt t n).lines, staleFills := (tileAt t n).staleFills }

/-- No home keeps anything of a line that an access could meet, and effects do not lag (log 5). -/
structure Alone (s : State) : Prop where
  dir : s.dir = []
  bad : s.bad = []
  resvs : s.resvs = []
  refused : s.refused = []
  prompt : s.relaxed = false

/-- What a load leaves: the current hart, the A bit of the leaf entry, and what the homes and caches keep of lines (16 R337, 18 R362). -/
structure ReadFrame (s t : State) (e : Option (Nat × Nat × Nat)) : Prop where
  rest : ∃ u, SameButLines s u ∧ t = u.setHart t.hart
  bytes : s.memoryForm → ∀ c, ¬entryBytes e c → memGet t.mem c = memGet s.mem c
  alone : Alone s → t = { s.setHart t.hart with mem := t.mem }

/-- What a store of n bytes x to pa leaves when it is performed at once: the stored bytes, the A and D bits of the leaf entry, the other
copies of the line invalidated at their homes, and the current hart. -/
structure WriteFrame (s t : State) (pa n x : Nat) (e : Option (Nat × Nat × Nat)) : Prop where
  stored : s.memoryForm → ∀ j, j < n → memGet t.mem (pa + j) = BitVec.ofNat 8 (x / 2 ^ (8 * j))
  bytes : s.memoryForm → ∀ c, ¬entryBytes e c → c < pa ∨ pa + n ≤ c → memGet t.mem c = memGet s.mem c
  rest : ∃ u, SameButLines s u ∧ t = u.setHart t.hart
  alone : Alone s → t = { s.setHart t.hart with mem := t.mem }

/-- Every write of the current hart is performed and its vector queue is empty: a release need not wait (04 R84). -/
def Settled (s : State) : Prop := s.hart.vq = [] ∧ writesDone s = true

/-- The current hart differs from another hart's fields in its general registers and its pc at most: what WroteG says, from a hart that has
already changed otherwise. -/
def WroteFrom (s : State) (h : Hart) (t : State) (pc : Word) (d : GReg) (x : Word) : Prop := WroteG (s.setHart h) t pc d x

/-- A control register of plain RW fields (02 R43 to R51, 15 R303, R304): its number, its value, and what a write leaves. -/
structure PlainRegister where
  num : BitVec 12
  get : Hart → Word
  put : Hart → Word → Hart

/-- The plain registers that user code may write (02 R40). -/
def userRegisters : List PlainRegister :=
  [⟨0x000, fun h => h.frm.setWidth 64, fun h x => { h with frm := x.setWidth 2 }⟩,
   ⟨0x001, fun h => h.fflags.setWidth 64, fun h x => { h with fflags := x.setWidth 6 }⟩,
   ⟨0x002, fun h => h.vmf.setWidth 64, fun h x => { h with vmf := x.setWidth 12 }⟩,
   ⟨0x003, fun h => h.vmfs.setWidth 64, fun h x => { h with vmfs := x.setWidth 32 }⟩,
   ⟨0x004, fun h => h.vsreg.setWidth 64, fun h x => { h with vsreg := x.setWidth 13 &&& 0x1F1F }⟩,
   ⟨0x005, fun h => h.ves.setWidth 64, fun h x => { h with ves := x.setWidth 16 }⟩,
   ⟨0x006, fun h => h.ulivec, fun h x => { h with ulivec := x &&& 0x000FFFFFFFFFFFFD }⟩,
   ⟨0x007, fun h => h.uliepc, fun h x => { h with uliepc := x &&& 0x000FFFFFFFFFFFFC }⟩]

/-- The plain registers of the supervisor (15 R303, R304, R305). -/
def supervisorRegisters : List PlainRegister :=
  [⟨0x200, fun h => h.tvec, fun h x => { h with tvec := x &&& 0x000FFFFFFFFFFFFC }⟩,
   ⟨0x201, fun h => h.tcause, fun h x => { h with tcause := x &&& 0x8000000000000FFF }⟩,
   ⟨0x202, fun h => h.tval, fun h x => { h with tval := x }⟩,
   ⟨0x203, fun h => h.tepc, fun h x => { h with tepc := x &&& 0x000FFFFFFFFFFFFC }⟩,
   ⟨0x205, fun h => h.tscratch, fun h x => { h with tscratch := x }⟩,
   ⟨0x207, fun h => h.scount, fun h x => { h with scount := x }⟩,
   ⟨0x20A, fun h => h.vdirty.setWidth 64, fun h x => { h with vdirty := x.setWidth 41 }⟩,
   ⟨0x20B, fun h => h.sptb, fun h x => { h with sptb := x &&& 0x000FFFFFFFFFFFF0 }⟩,
   ⟨0x20C, fun h => h.spdist.setWidth 64, fun h x => { h with spdist := x.setWidth 32 }⟩,
   ⟨0x20D, fun h => h.spcnt.setWidth 64, fun h x => { h with spcnt := x.setWidth 32 }⟩,
   ⟨0x211, fun h => h.vvsel.setWidth 64, fun h x => { h with vvsel := x.setWidth 5 }⟩,
   ⟨0x304, fun h => h.shbase, fun h x => { h with shbase := x &&& 0x000FFFFFFFFF0000 }⟩,
   ⟨0x305, fun h => h.cyc, fun h x => { h with cyc := x }⟩]

/-- The execute side, the batches and the writes of the current hart are at rest: HALT, SAFEPT and their like need not wait
(01 R21, 10 R245). -/
structure Quiet (s : State) : Prop where
  settled : Settled s
  noOpen : s.hart.openBatch = none
  noOut : s.hart.outstanding = []
  noFailure : s.hart.failures = []

/-- VL, VTYPE and VLMAX hang together (01 R28, 02 R39, R42): an ill type has VL and VLMAX 0; a well-formed one has the VLMAX of at most
eight clusters, and VL within it. -/
def Hart.shaped (h : Hart) : Prop :=
  (h.ill = true → h.vl = 0 ∧ h.vlmax = 0) ∧
  (h.ill = false → vtypeOk h.vtype = true ∧ h.vl.toNat ≤ h.vlmax.toNat ∧
    ∃ c, c ≤ 8 ∧ h.vlmax.toNat = c * 2048 / elemWidth (vtFmt h.vtype) * vtG h.vtype)

/-- Every hart's vector shape hangs together. -/
def State.shaped (s : State) : Prop := ∀ i, (getHart s i).shaped

/-- A vector instruction runs at once (log 5): it passes the checks of 05 R105, nothing is queued, and its queue operand, where it has one,
gives the entries qv and leaves u (01 R24). -/
structure VecReady (i : Instr) (s : State) (qv : List VWord) (u : State) : Prop where
  checks : vecTrap i s = none
  prompt : s.relaxed = false
  idle : s.hart.vq = []
  takes : consume s ((vecForm i).bind fun f => f.queue) = .ok (qv, u)

/-- Operand a of a computing instruction at an element: zero in the place of an element of an invalid scaled block (07 R162). -/
def operandA (h : Hart) (r : VReg) (i : Nat) : Nat := if h.shape.sc = true ∧ (h.elemAt r i).2 = false then 0 else (h.elemAt r i).1

/-- Operand b of a computing instruction at an element (07 R159, R162). -/
def operandB (h : Hart) (b : Src) (qv : List VWord) (i : Nat) : Nat :=
  if h.shape.sc = true ∧ (h.srcAt b qv i).2 = false then 0 else (h.srcAt b qv i).1

/-- Whether element i is active: below VL, and its mask bit is 1 or there is no mask (02 R37, 07 R161). -/
def Hart.acts (h : Hart) (k : KReg) (i : Nat) : Prop := i < h.vl.toNat ∧ (k = 0 ∨ (h.rk k).getLsbD i = true)

/-- What a vector instruction leaves of its hart: it is past the instruction, VES is 0, flags are ORed in, and nothing but
vector registers, their validity and dirty bits differs (02 R41, R43, 07 R157). -/
def VectorFrame (h h' : Hart) (fl : BitVec 6) (n : Nat := 4) : Prop :=
  h' = { h with pc := h.pc + BitVec.ofNat 64 n, ves := 0, fflags := h.fflags ||| fl, v := h'.v, val := h'.val, vdirty := h'.vdirty }

/-- Two elements of a group of registers of e elements lie in one block of 32 (02 R38). -/
def SameBlock (e i j : Nat) : Prop := j / e = i / e ∧ j % e / 32 = i % e / 32

/-- The elements of group d that satisfy p are written with f, and nothing else of the vector registers changes (07 R161): other elements, the
bits above the group's elements, other registers. A block that holds a written element becomes valid where every written element's sources
are (ok), else invalid; another keeps its bit (07 R162). At U the registers written become dirty (15 R320). -/
structure ElemsWritten (h h' : Hart) (d : VReg) (p : Nat → Prop) (f : Nat → Nat) (ok : Nat → Prop) : Prop where
  hit : ∀ i, i < h.shape.vlmax → p i → h'.elem d h.shape.w h.shape.e i = f i % 2 ^ h.shape.w
  kept : ∀ i, i < h.shape.vlmax → ¬p i → h'.elem d h.shape.w h.shape.e i = h.elem d h.shape.w h.shape.e i
  above : ∀ r b, h.shape.e * h.shape.w ≤ b → (h'.rv r).getLsbD b = (h.rv r).getLsbD b
  others : ∀ r, (∀ i, i < h.shape.vlmax → p i → r ≠ regPlus d (i / h.shape.e)) →
    h'.rv r = h.rv r ∧ h'.val.get r.toFin = h.val.get r.toFin ∧ h'.vdirty.getLsbD r.toNat = h.vdirty.getLsbD r.toNat
  renewed : ∀ i, i < h.shape.vlmax → (∃ j, j < h.shape.vlmax ∧ p j ∧ SameBlock h.shape.e i j) →
    (h'.valid d h.shape.e i = true ↔ ∀ j, j < h.shape.vlmax → p j → SameBlock h.shape.e i j → ok j)
  untouched : ∀ i, i < h.shape.vlmax → (∀ j, j < h.shape.vlmax → p j → ¬SameBlock h.shape.e i j) →
    h'.valid d h.shape.e i = h.valid d h.shape.e i
  dirty : ∀ i, i < h.shape.vlmax → p i → (h'.vdirty.getLsbD (regPlus d (i / h.shape.e)).toNat = true ↔
    h.level = .u ∨ h.vdirty.getLsbD (regPlus d (i / h.shape.e)).toNat = true)
  clean : ∀ b, 32 ≤ b → h'.vdirty.getLsbD b = h.vdirty.getLsbD b

/-- What a vector instruction that writes mask register d leaves of its hart (07 R171, R177): the bits that satisfy p are f, every
other bit of every mask register is kept, and at U a written register becomes dirty (15 R320). -/
structure MaskWritten (h h' : Hart) (fl : BitVec 6) (d : KReg) (p : Nat → Prop) (f : Nat → Prop) : Prop where
  rest : h' = { h with pc := h.pc + 4, ves := 0, fflags := h.fflags ||| fl, k := h'.k, vdirty := h'.vdirty }
  hit : ∀ i, i < 4096 → p i → ((h'.rk d).getLsbD i = true ↔ f i)
  kept : ∀ i, ¬p i → (h'.rk d).getLsbD i = (h.rk d).getLsbD i
  others : ∀ r, r ≠ d → h'.rk r = h.rk r
  dirty : ∀ b, h'.vdirty.getLsbD b = true ↔ h.vdirty.getLsbD b = true ∨ (b = 32 + d.toNat ∧ h.level = .u ∧ ∃ i, i < 4096 ∧ p i)

/-- The flags that some active element raises (03 R57). -/
def FlagsOf (fl : BitVec 6) (p : Nat → Prop) (f : Nat → BitVec 6) : Prop :=
  ∀ b, fl.getLsbD b = true ↔ ∃ i, p i ∧ (f i).getLsbD b = true

/-- Nothing stands between the current hart and memory (log 5): effects do not lag, no reservation, no cached copy, no bad byte, no access of
its own on the way, none that a home has refused. -/
structure Calm (s : State) : Prop where
  prompt : s.relaxed = false
  unreserved : s.resvs = []
  uncached : s.dir = []
  good : s.bad = []
  nothingHeld : s.held = [] ∧ s.hart.answers = []
  nothingPending : s.hart.wcb = [] ∧ s.hart.heldWrites = 0 ∧ s.hostWrites = [] ∧ s.hart.sentLines = []
  unrefused : s.refused = []
  form : s.memoryForm

/-- An access of n bytes by the vector side of the current hart reaches memory at pa, and its leaf entry is already marked (06 R133,
16 R337). -/
structure Plain (s : State) (k : AccKind) (n : Nat) (va : Word) (pa : Nat) : Prop where
  aligned : va.toNat % n = 0
  reached : ∃ ty e, translate s (hartSpace s s.cur) k va = .ok pa ty e ∧ ty ≠ 3 ∧ markLeaf s (hartSpace s s.cur) k va.toNat e = s

/-- Byte c lies in the n bytes of element j at pa j. -/
def inElem (pa : Nat → Nat) (n j c : Nat) : Prop := pa j ≤ c ∧ c < pa j + n

/-- Elements of n bytes stored in increasing order (08 R189): a byte that several elements cover holds the last one's, a byte that none
covers is kept. -/
structure Stored (s t : State) (p : Nat → Prop) (n : Nat) (pa x : Nat → Nat) : Prop where
  hit : ∀ j, p j → ∀ b, b < n → (∀ i, p i → j < i → ¬inElem pa n i (pa j + b)) →
    memGet t.mem (pa j + b) = BitVec.ofNat 8 (x j / 2 ^ (8 * b))
  kept : ∀ c, (∀ j, p j → ¬inElem pa n j c) → memGet t.mem c = memGet s.mem c

/-- Elements that satisfy p share no byte. -/
def Disjoint' (p : Nat → Prop) (n : Nat) (pa : Nat → Nat) : Prop := ∀ i j, p i → p j → i ≠ j → pa i + n ≤ pa j ∨ pa j + n ≤ pa i

/-- 4-bit elements stored (03 R54): each is its half of its byte, the other half of a byte with one stored element is kept. -/
structure StoredHalves (s t : State) (p : Nat → Prop) (pa x : Nat → Nat) : Prop where
  hit : ∀ j, p j → (memGet t.mem (pa j)).toNat / 16 ^ (j % 2) % 16 = x j % 16
  other : ∀ j, p j → (∀ l, p l → l / 2 = j / 2 → l = j) →
    (memGet t.mem (pa j)).toNat / 16 ^ (1 - j % 2) % 16 = (memGet s.mem (pa j)).toNat / 16 ^ (1 - j % 2) % 16
  kept : ∀ c, (∀ j, p j → c ≠ pa j) → memGet t.mem c = memGet s.mem c

/-- Elements of w bits stored at pa. -/
def StoredElems (s t : State) (w : Nat) (p : Nat → Prop) (pa x : Nat → Nat) : Prop :=
  (w ≠ 4 → Stored s t p (elemBytes w) pa x) ∧ (w = 4 → StoredHalves s t p pa x)

/-- Consecutive elements lie apart in memory, two 4-bit elements to a byte (08 R186, 03 R54). -/
def Apart (w : Nat) (p : Nat → Prop) (pa : Nat → Nat) : Prop :=
  (w ≠ 4 → Disjoint' p (elemBytes w) pa) ∧ (w = 4 → ∀ j l, p j → p l → (pa j = pa l ↔ j / 2 = l / 2))

/-- The elements that an instruction performs which honours VES (02 R43): active ones from VES on. -/
def Hart.performs (h : Hart) (k : KReg) (i : Nat) : Prop := h.acts k i ∧ h.ves.toNat ≤ i

/-- The current hart takes its turn at an instruction: the module has power, the agenda is empty or gives it the turn, and it neither waits nor
has an instruction in progress. -/
structure Running (s : State) : Prop where
  power : s.power = true
  agenda : s.events = []
  runs : s.hart.run = .running
  fresh : s.hart.inProgress = none
  untrapped : s.hart.trapWait = none
  sound : s.hart.badStore = []
  undisturbed : s.hart.replay = none ∧ s.hart.replayed = none

/-- Word w stands at a virtual address, and its fetch changes nothing: it translates, its leaf entry is marked already, no reservation and no busy
home stands in its way, no byte of it is bad, and no instruction cache holds its line (04 R89, 16 R330 to R333, log 5). -/
def Fetches (s : State) (va : Word) (w : Nat) : Prop :=
  s.relaxed = false ∧ ∃ pa ty e,
    translate s (hartSpace s s.cur) .fetch va = .ok pa ty e ∧ badIn s pa 4 = none ∧ alGet s.tile.icache (pa / 128) = none ∧
    conflict s (hartWho s s.cur) [pa / 128] false = .serve [] ∧ lineDenied s (tileId s.cur.tile) (pa / 128) = false ∧
    ageOf s (tileId s.cur.tile) (pa / 128) = 0 ∧
    markLeaf s (hartSpace s s.cur) .fetch va.toNat e = s ∧ memRead s.mem 4 pa = w

/-- The two words of the instruction at the pc: the second is zero after a short word (05 R101, R103). -/
def FetchesPair (s : State) (w0 w1 : Nat) : Prop :=
  Fetches s s.hart.pc w0 ∧ (w0 % 2 = 1 → Fetches s (s.hart.pc + 4) w1) ∧ (w0 % 2 = 0 → w1 = 0)

/-- Event e stands at the head of the agenda of s, and u is s without it. -/
def Fires (s u : State) (e : Event) : Prop := ∃ rest, s.events = .event e :: rest ∧ u = { s with events := rest }

/-- A request finds its line in its partition's ranges, and no reservation or held request in its way (16 R335, 18 R367, R369). -/
def Arrives (u : State) (q : HomeReq) : Prop := u.resvs = [] ∧ u.held = [] ∧ (rangeOf (partOf u q.tile) (128 * q.line)).isSome = true

/-- A home serves a request: the line is not busy and not reserved for another requester (18 R362, R364). -/
def HomeServes (u : State) (q : HomeReq) : Prop :=
  Arrives u q ∧ (dirAt u q.line).busy = none ∧ ((dirAt u q.line).sv = true → (dirAt u q.line).sid = reqId q)

/-- A pointer that names a tile other than the requester's, or the host (18 R362). -/
def otherCopy (q : HomeReq) (p : DirPtr) : Bool := p.isCopy && p != .tile q.tile

/-- Group size K of a sum of products (09 R215, 03 R69). -/
def sumGroupSize (t : ElemTy) (sc : Bool) : Nat :=
  match t with
  | .bf16 | .fp16 => 8
  | .e4m3 | .e5m2 => if sc then 32 else 16
  | _ => 32

/-- What one group of products adds to an accumulator element in FP32 (03 R69, 09 R219): the exact sum of the products x k times y k for k in ks, scaled by
2 to the shift, rounded once to nearest, then added with one rounding to nearest. S is the sum in units of 2 to the E. A NaN makes the
canonical NaN. -/
structure GroupAdded (x y : Nat → FVal) (ks : List Nat) (shift : Int) (old new : Nat) : Prop where
  sum : ∀ E : Int, (∀ k ∈ ks, ∃ n m e n' m' e', x k = .fin n m e ∧ y k = .fin n' m' e' ∧ E ≤ e + e') →
    let term (k : Nat) : Int := match x k, y k with
      | .fin n m e, .fin n' m' e' => (if n = n' then 1 else -1) * (m * m' * 2 ^ (e + e' - E).toNat : Nat)
      | _, _ => 0
    let S := (ks.map term).foldl (· + ·) 0
    S ≠ 0 → new = (fp32Form.addV .rne (fp32Form.decode old)
      (fp32Form.decode (fp32Form.round .rne (decide (S < 0)) S.natAbs (E + shift) false).bits)).bits
  nan : (∃ k ∈ ks, (x k).isNan = true ∨ (y k).isNan = true) → new = 0x7FC00000

/-- The batches of the current hart are at rest: none open, none outstanding, no failure to report, no instruction in progress (10 R229, R231). -/
structure BatchesIdle (h : Hart) : Prop where
  noOpen : h.openBatch = none
  noOut : h.outstanding = []
  noFailure : h.failures = []
  noSync : h.sync = none

/-- A synchronous remote instruction of the current hart has every answer: its batch holds the operations ops and nothing else is outstanding
(10 R229). -/
def Answered (h : Hart) (stop : Option (Nat × Word)) (ops : List BatchOp) : Prop :=
  ∃ pc b, h.sync = some { pc := pc, batch := b.id, stop := stop } ∧ h.outstanding = [b] ∧ b.ops = ops ∧ ∀ o ∈ ops, o.res.isSome = true

/-- The hart without the batch of a synchronous instruction that has ended. -/
def Hart.unbatched (h : Hart) : Hart := { h with sync := none, batchWait := false, outstanding := [] }

/-- An instruction has sent its operations to this package as one synchronous batch and waits for it (10 R226, R229). -/
def SentToSelf (s t : State) (ops : List RemoteOp) (stop : Option (Nat × Word)) : Prop :=
  let h := s.hart
  t.hart = { h with
    nextBatch := h.nextBatch + 1, batchWait := false, sync := some { pc := h.pc, batch := h.nextBatch, stop := stop },
    outstanding := [{ id := h.nextBatch, sync := true, ops := ops.map fun o => { op := o, res := none }, sent := true }] } ∧
  t = { s.setHart t.hart with events := s.events ++ [.event (.subBatchArrival
    { src := s.self, ctx := h.ctxid, hart := s.cur, batch := h.nextBatch, ops := ops, intact := true })] }

/-- A held stream engine that goes on with its next element, while no reservation, no cached copy and no bad byte is in its way (11 R273, R275). -/
structure EngineGoes (u : State) (n : Nat) (e : Engine) (x : EngineState) : Prop where
  held : engineAt u n e = some x
  inUse : x.phase = .inUse ∧ x.registering = [] ∧ x.done = false ∧ x.discarding = false
  plain : x.pages = [] ∧ u.resvs = [] ∧ u.dir = [] ∧ u.bad = [] ∧ u.refused = []

/-- An access of m bytes by a stream engine reaches memory at pa, at level U of the context that opened it, and its leaf entry is marked already
(16 R329, R333); the line lies in its partition. -/
def EngineReaches (u : State) (n : Nat) (e : Engine) (x : EngineState) (k : AccKind) (m : Nat) (va : Word) (pa : Nat) : Prop :=
  let sp : Space := { level := .u, table := x.root, part := partByNum u x.part, who := .engine n e }
  va.toNat % m = 0 ∧ (rangeOf (partByNum u x.part) (128 * (pa / 128))).isSome = true ∧
    ∃ ty en, translate u sp k va = .ok pa ty en ∧ ty ≠ 3 ∧ markLeaf u sp k va.toNat en = u

/-- The address of element j of a stream (11 R272). -/
def elementAt (x : StreamDesc) (j : Nat) : Word :=
  x.base + BitVec.ofNat 64 (j / x.icnt) * x.ostr + BitVec.ofNat 64 (j % x.icnt) * x.istr

/-- The state with a stream engine of a tile replaced. -/
def withEngine (u : State) (n : Nat) (e : Engine) (y : EngineState) : State :=
  modTile u n fun z => { z with engines := z.engines.set e.toNat (some y) e.isLt }

/-- The keys of a map rise strictly: its canonical form. -/
def Rising {α : Type} (l : List (Nat × α)) : Prop := (l.map fun e => e.1).Pairwise (· < ·)

/-- The address space in which the block sequencer reads for the current hart: that of its context at U (16 R329, R333). -/
def weightSpace (s : State) : Space := { hartSpace s s.cur with level := .u }

/-- What a wait inside a block leaves of its hart: SP has been passed, CTAB is kept as it was when the payload was read, and the header
and the payload l are not read again (12 R286, R292, 15 R326). -/
def Hart.waitsAtBlock (h : Hart) (s : State) (hdr : BitVec 512) (l : List Byte) : Hart :=
  { h with wbResume := true, wbCtab := some (h.wbCtab.getD s.tile.ctab), wbBlock := some (hdr, l) }

/-- The current hart is in weight-driven mode at the start of a block with these header fields, every other bit zero; its payload reads as the bytes l, from
pages with WX that level U may read (12 R281 to R286). -/
structure AtBlock (s : State) (hdr : BitVec 512) (op fmt count next route crc : Nat) (sp : Bool) (l : List Byte) : Prop where
  mode : s.hart.run = .weight ∧ s.tile.seqr = some s.cur.h1 ∧ s.hart.vq = []
  fresh : s.hart.wbesDone = false ∧ s.hart.wbesArr = false ∧ s.hart.wbesTkn = false ∧ s.hart.wbesIdx = 0 ∧ s.hart.wbBlock = none
  header : hdr.toNat = op + (if sp then 2 ^ 8 else 0) + fmt * 2 ^ 16 + count * 2 ^ 32 + next * 2 ^ 64 + l.length * 2 ^ 128 + crc * 2 ^ 160 + route * 2 ^ 192
  bounds : op < 256 ∧ fmt < 256 ∧ count < 2 ^ 32 ∧ next < 2 ^ 64 ∧ l.length ≤ 65536 ∧ crc < 2 ^ 32 ∧ route < 2 ^ 32
  payload : ∀ k, 64 * k < l.length → ∃ pa ty en,
    let va : Word := BitVec.ofNat 64 (64 * s.hart.wbaAddr.toNat + 64 + 64 * k)
    translate s (weightSpace s) .weight va = .ok pa ty en ∧ ty ≠ 3 ∧ markLeaf s (weightSpace s) .weight va.toNat en = s ∧
    memBytes s.mem (min 64 (l.length - 64 * k)) pa = (l.drop (64 * k)).take 64

/-- A block whose successor link is well-formed and whose CRC matches, before no safe point. -/
def BlockReady (s : State) (hdr : BitVec 512) (op fmt count next route : Nat) (l : List Byte) : Prop :=
  Calm s ∧ AtBlock s hdr op fmt count next route (crc32c l).toNat false l ∧ next % 64 = 0 ∧ next < 2 ^ 48

/-- A block that the hart stands at, its effect perhaps under way: as BlockReady says, but for WBES.IDX and WBES.ARR; the payload is not yet read
or is what a wait inside the block keeps (12 R286, R292). -/
def BlockUnderWay (s : State) (hdr : BitVec 512) (op fmt count next route : Nat) (l : List Byte) : Prop :=
  BlockReady (s.setHart { s.hart with wbesArr := false, wbesIdx := 0, wbBlock := none }) hdr op fmt count next route l ∧
    (s.hart.wbBlock = none ∨ s.hart = s.hart.waitsAtBlock s hdr l)

/-- The walk has gone on from a block that left the hart as g (12 R278, R286): to its successor, or out of the mode where that is 0. -/
def Succeeded (g : Hart) (next : Nat) (t : State) : Prop :=
  (next ≠ 0 → t.hart = { g with
    wbaAddr := BitVec.ofNat 42 (next / 64), wbesDone := false, wbesArr := false, wbesTkn := false, wbesIdx := 0, wbResume := false, wbCtab := none,
    wbBlock := none, bwait := none }) ∧
  (next = 0 → t.tile.seqr = none ∧ t.hart = { g with
    wbaRes := false, wbaAddr := 0, wbesDone := false, wbesArr := false, wbesTkn := false, wbesIdx := 0, wbResume := false, wbCtab := none,
    wbBlock := none, run := .running, pc := g.pc + 8 })

/-- Element i of a raw payload of w-bit elements (12 R284, 03 R54). -/
def rawElem (w : Nat) (l : List Byte) (i : Nat) : Nat := bytesNat l / 2 ^ (i * w) % 2 ^ w

/-- The code length of an exponent symbol in a code table; 0: it has no code (03 R67). -/
def symbolLen (ct : Word) (s : Nat) : Nat := ct.toNat / 2 ^ (4 * s) % 16

/-- A code table is valid: no length above 8, and the lengths' sum within 1 (03 R67). -/
def ValidTable (ct : Word) : Prop :=
  (∀ s, s < 16 → symbolLen ct s ≤ 8) ∧
  (((List.range 16).filter fun s => symbolLen ct s != 0).map fun s => 2 ^ (8 - symbolLen ct s)).sum ≤ 2 ^ 8

/-- The canonical codes of a table (03 R67): the coded symbols in order of length and then of symbol; the first has the all-zero code, each
later one the code before it plus one, shifted left by the difference in length. -/
structure CanonicalCodes (ct : Word) (code : Nat → Nat) : Prop where
  first : ∀ s, s < 16 → symbolLen ct s ≠ 0 →
    (∀ t, t < 16 → symbolLen ct t ≠ 0 → symbolLen ct s < symbolLen ct t ∨ (symbolLen ct s = symbolLen ct t ∧ s ≤ t)) → code s = 0
  next : ∀ s t, s < 16 → t < 16 → symbolLen ct s ≠ 0 → symbolLen ct t ≠ 0 →
    (symbolLen ct s < symbolLen ct t ∨ (symbolLen ct s = symbolLen ct t ∧ s < t)) →
    (∀ u, u < 16 → symbolLen ct u ≠ 0 →
      (symbolLen ct u < symbolLen ct s ∨ (symbolLen ct u = symbolLen ct s ∧ u ≤ s)) ∨
      (symbolLen ct t < symbolLen ct u ∨ (symbolLen ct t = symbolLen ct u ∧ t ≤ u))) →
    code t = (code s + 1) * 2 ^ (symbolLen ct t - symbolLen ct s)

/-- Stream bit n of the tokens of a block (03 R65). -/
def tokenBit (l : List Byte) (n : Nat) : Bool := (l.getD (17 + n / 8) 0).getLsbD (n % 8)

/-- The stream bit at which the token of element i begins (03 R65). -/
def tokenStart (ct : Word) (sym : Nat → Nat) (i : Nat) : Nat := ((List.range i).map fun j => symbolLen ct (sym j)).sum

/-- The bytes of an EXFP8 block under table t: header, nibbles (sign and fraction of each element), tokens of the elements' exponent symbols,
zeros up to the byte boundary (03 R65, R66). -/
structure BlockIs (ct : Word) (t : Nat) (code sym nib : Nat → Nat) (l : List Byte) : Prop where
  header : l[0]? = some (BitVec.ofNat 8 t)
  nibbles : ∀ j, j < 16 → l[1 + j]? = some (BitVec.ofNat 8 (nib (2 * j) + 16 * nib (2 * j + 1)))
  length : l.length = 17 + (tokenStart ct sym 32 + 7) / 8
  tokens : ∀ i, i < 32 → ∀ b, b < symbolLen ct (sym i) →
    tokenBit l (tokenStart ct sym i + b) = (code (sym i)).testBit (symbolLen ct (sym i) - 1 - b)
  padding : ∀ n, tokenStart ct sym 32 ≤ n → n < 8 * (l.length - 17) → tokenBit l n = false

/-- A management call of hart i is the oldest that waits, from a hart of partition p; rest are the calls behind it (21 R414). -/
structure Called (u : State) (i : HartId) (p : Partition) (rest : List HartId) : Prop where
  oldest : (u.calls.filter fun j => decide ((getHart u j).run = .mgmt)) = i :: rest
  part : partOf u i.tile = some p

/-- The answer of a call: G[10] and other registers written in state y, the hart past its ECALL. -/
def answered (y : State) (i : HartId) (code : Nat) (more : List (Fin 32 × Word)) : State :=
  let h := getHart y i
  putHart y i { h with g := (((10 : Fin 32), BitVec.ofNat 64 code) :: more).foldl (fun g x => g.set x.1.val x.2 x.1.isLt) h.g, pc := h.pc + 4,
                       run := .running }

/-- Every byte of a buffer lies in memory and within a range of a partition (21 R414). -/
def InPartition (p : Partition) (a n : Nat) : Prop :=
  ∀ x, a ≤ x → x < a + n →
    (x < 2 ^ 40 ∨ (0x8000000000000 ≤ x ∧ x < 0x10000000000000)) ∧ ∃ r ∈ p.ranges, r.base ≤ x ∧ x < r.base + r.len

/-- The rules that a queue-pair descriptor at a physical address follows (18 R385), but for its context and window table. -/
structure DescriptorOk (u : State) (p : Partition) (a : Nat) : Prop where
  aligned : a % 128 = 0
  port : memRead u.mem 1 a ≤ 2
  mtu : memRead u.mem 1 (a + 1) ≤ 2
  retries : memRead u.mem 1 (a + 2) ≤ 7 ∧ memRead u.mem 1 (a + 3) ≤ 7
  index : p.firstQp ≤ memRead u.mem 2 (a + 4) ∧ memRead u.mem 2 (a + 4) < p.firstQp + p.qpCount
  ctx : memRead u.mem 2 (a + 6) ≠ 0
  zero : memRead u.mem 1 (a + 11) = 0 ∧ memRead u.mem 1 (a + 15) = 0 ∧ memRead u.mem 1 (a + 19) = 0 ∧ memRead u.mem 1 (a + 22) % 4 = 0 ∧
    memRead u.mem 3 (a + 101) = 0 ∧ memRead u.mem 16 (a + 112) = 0
  hops : memRead u.mem 1 (a + 23) ≠ 0
  timeout : memRead u.mem 1 (a + 30) ≤ 20
  reads : 1 ≤ memRead u.mem 1 (a + 31) ∧ memRead u.mem 1 (a + 31) ≤ 16
  address : (memRead u.mem 1 a, BitVec.ofNat 128 (memRead u.mem 16 (a + 32))) ∈ p.ips
  family : (memRead u.mem 10 (a + 32) = 0 ∧ memRead u.mem 2 (a + 42) = 0xFFFF) ↔ (memRead u.mem 10 (a + 48) = 0 ∧ memRead u.mem 2 (a + 58) = 0xFFFF)
  bases : memRead u.mem 8 (a + 64) % 4096 = 0 ∧ memRead u.mem 8 (a + 80) % 4096 = 0 ∧ memRead u.mem 8 (a + 88) % 4096 = 0
  sizes : ∀ o ∈ [72, 76, 96], ∃ j, j ≤ 16 ∧ memRead u.mem 4 (a + o) = 2 ^ j
  windows : memRead u.mem 1 (a + 100) ≤ 16 ∧ memRead u.mem 8 (a + 104) % 32 = 0 ∧
    (memRead u.mem 1 (a + 100) = 0 → memRead u.mem 8 (a + 104) = 0)

/-- Nothing stands between a port and memory: no reservation, no cached copy, no bad byte (18 R383). -/
structure PortCalm (u : State) : Prop where
  unreserved : u.resvs = []
  uncached : u.dir = []
  good : u.bad = []
  form : u.memoryForm

/-- An access by queue pair q at va reaches memory at pa in the queue pair's context, and its leaf entry is marked already (18 R383, 16 R337). -/
def QpReaches (u : State) (q : Qp) (k : AccKind) (va : Word) (pa : Nat) : Prop :=
  ∃ sp ty en, q.space u = some sp ∧ translate u sp k va = .ok pa ty en ∧ ty ≠ 3 ∧ markLeaf u sp k va.toNat en = u

/-- Each of n bytes from va reaches the bytes from pa, whatever those bytes hold: they hold no translation of their own access. -/
def QpRange (u : State) (q : Qp) (k : AccKind) (va : Word) (pa n : Nat) : Prop :=
  ∀ m : List Host.Cell, Memory.wf m = true → (∀ c, c < pa ∨ pa + n ≤ c → memGet m c = memGet u.mem c) →
    ∀ j, j < n → QpReaches { u with mem := m } q k (va + BitVec.ofNat 64 j) (pa + j)

/-- An access by queue pair q at va faults, with no cached translation to drop (18 R387, 16 R338). -/
def QpFaults (u : State) (q : Qp) (k : AccKind) (va : Word) : Prop :=
  q.space u = none ∨ ∃ sp t, u.tlb = [] ∧ q.space u = some sp ∧ translate u sp k va = .trap t

/-- Fields of a send entry (18 R386). -/
structure SendIs (x op flags len : Nat) (laddr raddr : Word) (rkey imm : BitVec 32) (wrid : Word) : Prop where
  op : x % 2 ^ 8 = op
  flags : x / 2 ^ 8 % 2 ^ 8 = flags
  len : x / 2 ^ 32 % 2 ^ 32 = len
  laddr : BitVec.ofNat 64 (x / 2 ^ 64) = laddr
  raddr : BitVec.ofNat 64 (x / 2 ^ 128) = raddr
  rkey : BitVec.ofNat 32 (x / 2 ^ 192) = rkey
  imm : BitVec.ofNat 32 (x / 2 ^ 224) = imm
  wrid : BitVec.ofNat 64 (x / 2 ^ 256) = wrid

/-- The rules that a send entry follows (18 R386). -/
structure SendOk (x op flags len : Nat) (raddr : Word) (rkey imm : BitVec 32) : Prop where
  known : op ≤ 4
  flags : flags < 8
  len : len ≤ 2 ^ 31
  zero : x / 2 ^ 16 % 2 ^ 16 = 0 ∧ x / 2 ^ 320 = 0
  remote : op < 2 → raddr = 0 ∧ rkey = 0
  immediate : op ≠ 1 → op ≠ 3 → imm = 0

/-- A message of a queue pair on the wire (18 R384, R385, R390): both ends' QPNs, its addresses, ECT(0) and UDP port 4791. -/
def onWire (q : Qp) (port qp : Nat) (b : EthBody) : EthMsg :=
  .message port (BitVec.ofNat 24 (0x100000 * (port + 1) + qp)) q.dqpn
    { dmac := q.dmac, sip := q.sip, dip := q.dip, hopLim := q.hopLim, dscp := BitVec.ofNat 6 (q.tclass.toNat / 4), ecn := 2, udpSrc := q.udpSrc,
      udpDst := 4791 } b

/-- A message that was sent under a PSN is on the wire again, from its oldest packet that is not acknowledged on: its entry and its data read as
they did (18 R390). -/
def SentAgain (u : State) (q : Qp) (port qp : Nat) (e : EthSent) (m : EthMsg) : Prop :=
  ∃ pa pd op flags len laddr raddr rkey imm wrid,
    QpReaches u q .load (q.sq + BitVec.ofNat 64 (64 * (e.slot % q.sqSize))) pa ∧
    SendIs (memRead u.mem 64 pa) op flags len laddr raddr rkey imm wrid ∧
    (op ≠ 4 → QpRange u q .load (laddr + BitVec.ofNat 64 (e.acked * (1024 * 2 ^ q.mtu))) pd (len - e.acked * (1024 * 2 ^ q.mtu))) ∧
    m = onWire q port qp (.send (e.psn + BitVec.ofNat 24 e.acked) (BitVec.ofNat 8 op) raddr rkey imm (decide (flags / 4 % 2 = 1)) len
      (if op = 4 then [] else memBytes u.mem (len - e.acked * (1024 * 2 ^ q.mtu)) pd))

/-- The entry of work queue q of partition p makes it usable (17 R344), with these fields. -/
structure UsableQueue (u : State) (p : Partition) (q : Nat) (host : Bool) (cls : Nat) (ctx : BitVec 16) (size ring weight : Nat) : Prop where
  owner : queuePart u q = some p
  ring : memRead u.mem 8 (p.queueBase + 64 * (q - p.firstQueue)) = ring ∧ ring % 4096 = 0
  size : memRead u.mem 4 (p.queueBase + 64 * (q - p.firstQueue) + 8) = size ∧ ∃ j, j ≤ 16 ∧ size = 2 ^ j
  ctx : memRead u.mem 2 (p.queueBase + 64 * (q - p.firstQueue) + 12) = ctx.toNat ∧ ctx ≠ 0
  ctl : memRead u.mem 1 (p.queueBase + 64 * (q - p.firstQueue) + 14) = cls + (if host then 64 else 32) + 128 ∧ cls < 4
  weight : memRead u.mem 1 (p.queueBase + 64 * (q - p.firstQueue) + 15) = weight ∧ weight ≠ 0
  zero : memRead u.mem 6 (p.queueBase + 64 * (q - p.firstQueue) + 18) = 0 ∧ memRead u.mem 16 (p.queueBase + 64 * (q - p.firstQueue) + 48) = 0

/-- HEAD and TAIL of a queue while EN = 1: what the scheduler holds, or what the entry says before it first looks (17 R345). -/
def QueueHolds (u : State) (p : Partition) (q : Nat) (head tail : Word) : Prop :=
  alGet u.queues q = some { head := head, tail := tail } ∨
  (alGet u.queues q = none ∧ memRead u.mem 8 (p.queueBase + 64 * (q - p.firstQueue) + 32) = head.toNat ∧
    memRead u.mem 8 (p.queueBase + 64 * (q - p.firstQueue) + 40) = tail.toNat)

/-- A usable queue of a class with packets to take (17 R349). -/
def ReadyQueue (u : State) (p : Partition) (q : Nat) (cls : BitVec 2) : Prop :=
  ∃ host ctx size ring weight head tail, UsableQueue u p q host cls.toNat ctx size ring weight ∧ QueueHolds u p q head tail ∧ head.toNat < tail.toNat

/-- Memory m differs from that of u in HEAD and TAIL of a queue's entry at most, which hold these counts (17 R345). -/
def CountsWritten (u : State) (p : Partition) (q : Nat) (head tail : Word) (m : List Host.Cell) : Prop :=
  let b := p.queueBase + 64 * (q - p.firstQueue)
  memRead m 8 (b + 32) = head.toNat ∧ memRead m 8 (b + 40) = tail.toNat ∧ Memory.wf m = true ∧
  ∀ c, c < b + 32 ∨ b + 48 ≤ c → memGet m c = memGet u.mem c

/-- The launch packet that 128 bytes hold (17 R347). -/
structure PacketIs (x : Nat) (k : Packet) : Prop where
  entry : k.entry = BitVec.ofNat 64 x
  n : k.n = BitVec.ofNat 64 (x / 2 ^ 64)
  s : k.s = BitVec.ofNat 64 (x / 2 ^ 128)
  crec : k.crec = BitVec.ofNat 64 (x / 2 ^ 192)
  harts : k.harts = x / 2 ^ 256 % 2 ^ 16
  gang : k.gang = decide (x / 2 ^ 272 % 2 = 1)
  prot : k.prot = decide (x / 2 ^ 273 % 2 = 1)
  place : k.place = BitVec.ofNat 2 (x / 2 ^ 274)
  tge : k.tge = BitVec.ofNat 16 (x / 2 ^ 288)
  args : ∀ m : Fin 10, k.args.get m = if m.val < x / 2 ^ 280 % 2 ^ 8 then BitVec.ofNat 64 (x / 2 ^ (320 + 64 * m.val)) else 0

/-- The farm that a packet starts (17 R349, R353; 01 R13, R15): strip n goes to index n while strips remain. -/
structure FarmStarts (f : Farm) (id part queue : Nat) (cls : BitVec 2) (ctx : BitVec 16) (shb : Word) (k : Packet) (waits : Bool) : Prop where
  rest : f = { f with id := id, part := part, queue := queue, cls := cls, ctx := ctx, shb := shb, packet := k, waitsGraph := waits, tiles := [], verdict := .clean, firstKind := 0, triggered := false, killed := false, bittern := 0, victim := none, since := id }
  next : f.nextStrip = BitVec.ofNat 64 (min k.harts ((k.n.toNat + (k.s.toNat - 1)) / k.s.toNat))
  count : f.harts.length = k.harts
  strips : ∀ (n : Nat) (x : FarmHart), f.harts[n]? = some x →
    x = { start := if n * k.s.toNat < k.n.toNat then BitVec.ofNat 64 (n * k.s.toNat) else k.n,
          cnt := if n * k.s.toNat < k.n.toNat then BitVec.ofNat 64 (min k.s.toNat (k.n.toNat - n * k.s.toNat)) else 0,
          placed := false, place := none, exited := false, triggered := false, arrivals := 0 }

/-- The reason for which a packet is refused, 0 for none (17 R348); room is the number of harts that the partition holds under PLACE, st the STATE of
the packet's task-graph entry, none where it has none in the table. -/
def refusedFor (x : Nat) (k : Packet) (room : Nat) (st : Option Nat) : Nat :=
  if x / 2 ^ 52 % 2 ^ 12 ≠ 0 ∨ x % 4 ≠ 0 ∨ x / 2 ^ 276 % 2 ^ 4 ≠ 0 ∨ x / 2 ^ 304 % 2 ^ 16 ≠ 0 ∨ x / 2 ^ 960 ≠ 0 ∨ k.place = 3 then 1
  else if k.s = 0 then 2
  else if k.harts = 0 ∨ 4608 < k.harts then 3
  else if k.gang = true ∧ room < k.harts then 4
  else if 10 < x / 2 ^ 280 % 2 ^ 8 then 5
  else if k.tge ≠ 0xFFFF ∧ st ≠ some 0 ∧ st ≠ some 3 then 6
  else 0

/-- Every access to the 32 bytes of a completion record reaches the bytes from pa, whatever those bytes hold (17 R348, R358). -/
def RecordReaches (u : State) (p : Partition) (f : Farm) (pa : Nat) : Prop :=
  ∃ sp, recordSpace u p f.ctx = some sp ∧
    ∀ m : List Host.Cell, Memory.wf m = true → (∀ c, c < pa ∨ pa + 32 ≤ c → memGet m c = memGet u.mem c) → ∃ ty e ty' e',
      let v : State := { u with mem := m }
      translate v sp .store f.packet.crec = .ok pa ty e ∧ ty ≠ 3 ∧ markLeaf v sp .store f.packet.crec.toNat e = v ∧
      translate v sp .store (f.packet.crec + 8) = .ok (pa + 8) ty' e' ∧ ty' ≠ 3 ∧ markLeaf v sp .store (f.packet.crec + 8).toNat e' = v

/-- A hart as placed for index n of a farm (01 R13, R14, 02 R52, 17 R351), with want clusters and registers g. -/
def startsHart (h : Hart) (f : Farm) (n : Nat) (root : Word) (asid : BitVec 16) (want : Nat) (g : Vector Word 32) : Hart :=
  { h with
    pc := f.packet.entry &&& 0x000FFFFFFFFFFFFC, level := .u, run := .running, g := g, shd := Vector.replicate 8 0, frm := 0, fflags := 0, vmf := 0x1F,
    vmfs := 0x3F800000, vsreg := 0, ves := 0, ulivec := 0, uliepc := 0, ulipend := 0, uliActive := false, uliEvent := 0, vl := 0, ill := true, vtype := 0,
    vlmax := 0, q := Vector.replicate 4 [], openTail := none, shbase := f.shb &&& 0x000FFFFFFFFF0000, cyc := 0, spcnt := 0, fresh := true, unset := true, ctxid := f.ctx, translated := true,
    root := root, asid := asid, want := BitVec.ofNat 4 want, prot := f.packet.prot,
    badStore := h.badStore.filter fun x => x.kind != 1 && x.kind != 4, replay := none, replayed := none, member := some { farm := f.id, index := n } }

/-- The maps of the state are in their canonical form (log 4): the keys of each rise strictly. -/
def State.rising (s : State) : Prop :=
  Rising s.dir ∧ Rising s.tiles ∧ Rising s.qps ∧ Rising s.queues ∧ Rising s.gb ∧
  ∀ r, s.flash.slot0 = some r ∨ s.flash.slot1 = some r → Rising r.tiles ∧ Rising r.gb

end Sys2Proof.Machine
end

