-- ==== Sys2Proof/Certificates/Slice0/Obligations.lean ====
section
/-! DEFINITION. The statements for the provers. -/

open Sys2Proof
open Sys2Proof.Machine

/-- 06 R127: each register form writes its value to G[d] and changes nothing else. A shift amount is bits 5:0 of G[b]; SLT, MIN and MAX compare signed,
SLTN, MINN and MAXN unsigned; MULH and MULHN give bits 127:64 of the product. 06 R127: CLZ and CTZ count the zeros above the highest and below the
lowest one bit, 64 where there is none; POPC counts the one bits; BREV moves bit i to bit 63 − i. 06 R129, R131: the immediate forms, with the 15-bit
immediate sign-extended and the shift amount in its low 6 bits, and the constants: LUI and AUIPC in units of 16 KiB, LIMM sign-extended, LIMM.H to
bits 63:32 with bits 31:0 kept. -/
def Obligations.IntegerOperations : Prop :=
  (∀ (s : State) (d a b : GReg),
    let x := s.hart.rg a
    let y := s.hart.rg b
    let gives (i : Instr) (v : Word) : Prop := ∃ t, exec i s = .next t ∧ WroteG s t (s.hart.pc + 4) d v ∧ OnlyHart s t
    gives (.add d a b) (x + y) ∧ gives (.sub d a b) (x - y) ∧
    gives (.and d a b) (x &&& y) ∧ gives (.or d a b) (x ||| y) ∧ gives (.xor d a b) (x ^^^ y) ∧
    gives (.sll d a b) (x <<< (y.toNat % 64)) ∧ gives (.srl d a b) (x >>> (y.toNat % 64)) ∧
    gives (.sra d a b) (x.sshiftRight (y.toNat % 64)) ∧
    gives (.slt d a b) (if x.toInt < y.toInt then 1 else 0) ∧ gives (.sltn d a b) (if x.toNat < y.toNat then 1 else 0) ∧
    gives (.min d a b) (if x.toInt < y.toInt then x else y) ∧ gives (.max d a b) (if x.toInt < y.toInt then y else x) ∧
    gives (.minn d a b) (if x.toNat < y.toNat then x else y) ∧ gives (.maxn d a b) (if x.toNat < y.toNat then y else x) ∧
    gives (.mul d a b) (x * y) ∧
    gives (.mulh d a b) (BitVec.ofInt 64 (x.toInt * y.toInt / 2 ^ 64)) ∧
    gives (.mulhn d a b) (BitVec.ofNat 64 (x.toNat * y.toNat / 2 ^ 64))) ∧
  (∀ (s : State) (d a : GReg),
    let x := s.hart.rg a
    let gives (i : Instr) (p : Word → Prop) : Prop := ∃ t v, exec i s = .next t ∧ WroteG s t (s.hart.pc + 4) d v ∧ OnlyHart s t ∧ p v
    gives (.clz d a) (fun v => v.toNat ≤ 64 ∧ (∀ i, 64 - v.toNat ≤ i → x.getLsbD i = false) ∧
      (v.toNat < 64 → x.getLsbD (63 - v.toNat) = true)) ∧
    gives (.ctz d a) (fun v => v.toNat ≤ 64 ∧ (∀ i, i < v.toNat → x.getLsbD i = false) ∧
      (v.toNat < 64 → x.getLsbD v.toNat = true)) ∧
    gives (.popc d a) (fun v => v.toNat = ((List.range 64).filter fun i => x.getLsbD i).length) ∧
    gives (.brev d a) (fun v => ∀ i, i < 64 → v.getLsbD i = x.getLsbD (63 - i))) ∧
  (∀ (s : State) (d a : GReg) (imm : BitVec 15) (sh : BitVec 6) (up : BitVec 20) (w : BitVec 32),
    let x := s.hart.rg a
    let c : Word := imm.signExtend 64
    let gives (i : Instr) (n : Nat) (v : Word) : Prop := ∃ t, exec i s = .next t ∧ WroteG s t (s.hart.pc + BitVec.ofNat 64 n) d v ∧ OnlyHart s t
    gives (.addi d a imm) 4 (x + c) ∧ gives (.andi d a imm) 4 (x &&& c) ∧ gives (.ori d a imm) 4 (x ||| c) ∧
    gives (.xori d a imm) 4 (x ^^^ c) ∧ gives (.slti d a imm) 4 (if x.toInt < c.toInt then 1 else 0) ∧
    gives (.sltni d a imm) 4 (if x.toNat < c.toNat then 1 else 0) ∧
    gives (.slli d a sh) 4 (x <<< sh.toNat) ∧ gives (.srli d a sh) 4 (x >>> sh.toNat) ∧
    gives (.srai d a sh) 4 (x.sshiftRight sh.toNat) ∧
    gives (.lui d up) 4 (BitVec.ofInt 64 (up.toInt * 16384)) ∧
    gives (.auipc d up) 4 (s.hart.pc + BitVec.ofInt 64 (up.toInt * 16384)) ∧
    gives (.limm d w) 8 (w.signExtend 64) ∧
    gives (.limmH d w) 8 (w ++ (s.hart.rg d).setWidth 32))

/-- 06 R127, R128: DIV, DIVN, REM and REMN. Division rounds toward zero; a divisor of zero gives the quotient with every bit 1 and the dividend as the
remainder; the most negative dividend and a divisor of −1 give the dividend and 0. -/
def Obligations.Division : Prop :=
  ∀ (s : State) (d a b : GReg),
    let x := s.hart.rg a
    let y := s.hart.rg b
    let gives (i : Instr) (v : Word) : Prop := ∃ t, exec i s = .next t ∧ WroteG s t (s.hart.pc + 4) d v ∧ OnlyHart s t
    (y = 0 → gives (.div d a b) (BitVec.allOnes 64) ∧ gives (.divn d a b) (BitVec.allOnes 64) ∧
      gives (.rem d a b) x ∧ gives (.remn d a b) x) ∧
    (y ≠ 0 → gives (.div d a b) (BitVec.ofInt 64 (Int.tdiv x.toInt y.toInt)) ∧
      gives (.rem d a b) (BitVec.ofInt 64 (Int.tmod x.toInt y.toInt)) ∧
      gives (.divn d a b) (BitVec.ofNat 64 (x.toNat / y.toNat)) ∧
      gives (.remn d a b) (BitVec.ofNat 64 (x.toNat % y.toNat))) ∧
    (x = BitVec.intMin 64 → y = BitVec.allOnes 64 → gives (.div d a b) x ∧ gives (.rem d a b) 0)

/-- 06 R137, R138, 05 R110: a branch goes to PC + 4 × offset where its comparison holds and past itself where it does not; JAL and JALR write PC + 4 to
G[d]; JALR goes to G[a] plus its immediate where that address is a multiple of 4. -/
def Obligations.BranchesAndJumps : Prop :=
  ∀ (s : State) (d a b : GReg) (off : BitVec 10) (imm : BitVec 20) (c : BitVec 15),
    let x := s.hart.rg a
    let y := s.hart.rg b
    let goes (t : State) (pc : Word) : Prop := t.hart = { s.hart with pc := pc } ∧ OnlyHart s t
    let takes (i : Instr) (p : Prop) : Prop :=
      (p → ∃ t, exec i s = .next t ∧ goes t (s.hart.pc + BitVec.ofInt 64 (4 * off.toInt))) ∧
      (¬p → ∃ t, exec i s = .next t ∧ goes t (s.hart.pc + 4))
    let jumps (i : Instr) (pc : Word) : Prop := ∃ t, exec i s = .next t ∧ WroteG s t pc d (s.hart.pc + 4) ∧ OnlyHart s t
    takes (.beq a b off) (x = y) ∧ takes (.bne a b off) (x ≠ y) ∧
    takes (.blt a b off) (x.toInt < y.toInt) ∧ takes (.bge a b off) (y.toInt ≤ x.toInt) ∧
    takes (.bltn a b off) (x.toNat < y.toNat) ∧ takes (.bgen a b off) (y.toNat ≤ x.toNat) ∧
    jumps (.jal d imm) (s.hart.pc + BitVec.ofInt 64 (4 * imm.toInt)) ∧
    ((x + c.signExtend 64).toNat % 4 = 0 → jumps (.jalr d a c) (x + c.signExtend 64))

/-- 06 R132, R133, 05 R109: a scalar load of n aligned bytes that its access reaches writes them to G[d], sign-extended, or zero-extended in the N forms;
the hart reads its own writes first (04 R80). Memory keeps every byte but for the A bit of the leaf entry. -/
def Obligations.ScalarLoads : Prop :=
  ∀ (s : State) (d a : GReg) (off : BitVec 10) (z : Bool) (sz : Size) (sc : Scope) (pa ty : Nat) (e : Option (Nat × Nat × Nat)),
    let va : Word := s.hart.rg a + off.signExtend 64
    let loads (i : Instr) (va : Word) (n : Nat) (zero : Bool) : Prop :=
      Reaches s (scalarActor s s.cur) .load n va pa ty e →
      ∃ t, exec i s = .next t ∧ ReadFrame s t e ∧
        WroteG s t (s.hart.pc + 4) d
          (if zero then BitVec.ofNat 64 (readOwn s (some s.cur) n pa)
           else (BitVec.ofNat (8 * n) (readOwn s (some s.cur) n pa)).signExtend 64)
    loads (.ldb d a off) va 1 false ∧ loads (.ldh d a off) va 2 false ∧ loads (.ldw d a off) va 4 false ∧
    loads (.ldd d a off) va 8 false ∧ loads (.ldbN d a off) va 1 true ∧ loads (.ldhN d a off) va 2 true ∧
    loads (.ldwN d a off) va 4 true ∧ loads (.ldaq d a z sz sc) (s.hart.rg a) (sizeBytes sz) z

/-- 06 R132, R133, 05 R109: a scalar store puts the low n bytes of G[d], lowest first, at the address its access reaches, and changes no other byte but
the A and D bits of the leaf entry. STREL does so once every write of the hart is performed (04 R84). 04 R78, R80, R84, R99, 01 R22: while effects lag
(log 5), a scalar store goes into its hart's write-combining buffer, or on its way to the host's domain where memory is uncached host memory: memory
is unchanged but for the leaf's A and D bits, the hart itself reads the new bytes, and no release passes before the write is performed. -/
def Obligations.ScalarStores : Prop :=
  (∀ (s : State) (d a : GReg) (off : BitVec 10) (sz : Size) (sc : Scope) (pa ty : Nat) (e : Option (Nat × Nat × Nat)),
    s.relaxed = false →
    let va : Word := s.hart.rg a + off.signExtend 64
    let stores (i : Instr) (va : Word) (n : Nat) : Prop :=
      Reaches s (scalarActor s s.cur) .store n va pa ty e →
      ∃ t, exec i s = .next t ∧ t.hart = { s.hart with pc := s.hart.pc + 4 } ∧
        WriteFrame s t pa n ((s.hart.rg d).toNat % 2 ^ (8 * n)) e
    stores (.stb d a off) va 1 ∧ stores (.sth d a off) va 2 ∧ stores (.stw d a off) va 4 ∧ stores (.std d a off) va 8 ∧
    (Settled s → stores (.strel d a sz sc) (s.hart.rg a) (sizeBytes sz))) ∧
  (∀ (s : State) (d a : GReg) (off : BitVec 10) (pa ty : Nat) (e : Option (Nat × Nat × Nat)), s.relaxed = true → s.resvs = [] →
    let va : Word := s.hart.rg a + off.signExtend 64
    let x (n : Nat) : Nat := (s.hart.rg d).toNat % 2 ^ (8 * n)
    let lags (i : Instr) (n : Nat) : Prop :=
      va.toNat % n = 0 → translate s (hartSpace s s.cur) .store va = .ok pa ty e → ty ≠ 3 → s.memoryForm →
      ∃ t, exec i s = .next t ∧ (∀ c, ¬entryBytes e c → memGet t.mem c = memGet s.mem c) ∧
        (ty ≠ 1 → t.hart = { s.hart with pc := s.hart.pc + 4, wcb := s.hart.wcb ++ cellsOf n pa (x n) } ∧
          readOwn t (some t.cur) n pa = x n ∧ ((∀ c ∈ s.hart.wcb, c.1 / 128 ≠ pa / 128) →
            .event (.writeCombineFlush s.cur (pa / 128)) ∈ t.events)) ∧
        (ty = 1 → t.hart = { s.hart with pc := s.hart.pc + 4 } ∧
          t.hostWrites = s.hostWrites ++ [{ id := s.nextHostWrite, hart := s.cur, cells := cellsOf n pa (x n) }] ∧
          .event (.cxlCacheResponse s.nextHostWrite) ∈ t.events ∧
          ((∀ c ∈ s.hart.wcb, c.1 < pa ∨ pa + n ≤ c.1) → s.held = [] → readOwn t (some t.cur) n pa = x n)) ∧
        writesDone t = false
    lags (.stb d a off) 1 ∧ lags (.sth d a off) 2 ∧ lags (.stw d a off) 4 ∧ lags (.std d a off) 8)

/-- 06 R135, R136, 04 R83: an atomic writes the old value to G[d], sign-extended, or zero-extended in the N forms, and stores the new one: the sum, the
bitwise result, the signed or unsigned minimum or maximum, or G[b]; AMOCAS stores G[b] only where the old value is the low bytes of G[d]. A release
first waits for the hart's writes. 04 R79, 06 R133: an access whose address is no multiple of its size traps with cause 0x04 and the address in TVAL,
and one that does not translate takes the trap of its translation, and its cached translation is gone (16 R338); nothing is loaded or stored. That holds
for every load, store and atomic, a release once the hart's writes are performed. -/
def Obligations.ScalarAtomics : Prop :=
  (∀ (s : State) (d a b : GReg) (o : MemOrd) (sc : Scope) (sz : WSize) (z : Bool) (pa ty : Nat) (e : Option (Nat × Nat × Nat)),
    s.relaxed = false → s.hart.wcb = [] → s.hostWrites = [] → (o = .rel ∨ o = .ar → Settled s) →
    let n := wsizeBytes sz
    let va : Word := s.hart.rg a
    let old := physRead (markLeaf s (scalarActor s s.cur).sp .store va.toNat e) n pa
    let x := (s.hart.rg b).toNat % 2 ^ (8 * n)
    let less (zero : Bool) : Prop := if zero then old < x else (BitVec.ofNat (8 * n) old).toInt < (BitVec.ofNat (8 * n) x).toInt
    let swaps (i : Instr) (zero : Bool) (new : Nat) : Prop :=
      ∃ t, exec i s = .next t ∧ WriteFrame s t pa n new e ∧
        WroteG s t (s.hart.pc + 4) d
          (if zero then BitVec.ofNat 64 old else (BitVec.ofNat (8 * n) old).signExtend 64)
    Reaches s (scalarActor s s.cur) .store n va pa ty e →
    swaps (.amoadd d a b o sc sz) false ((old + x) % 2 ^ (8 * n)) ∧
    swaps (.amoand d a b o sc sz) false (old &&& x) ∧ swaps (.amoor d a b o sc sz) false (old ||| x) ∧
    swaps (.amoxor d a b o sc sz) false (old ^^^ x) ∧
    ((less z → swaps (.amomin d a b o sc sz z) z old ∧ swaps (.amomax d a b o sc sz z) z x) ∧
     (¬less z → swaps (.amomin d a b o sc sz z) z x ∧ swaps (.amomax d a b o sc sz z) z old)) ∧
    swaps (.amoswp d a b o sc sz) false x ∧
    swaps (.amocas d a b o sc sz) false (if old = (s.hart.rg d).toNat % 2 ^ (8 * n) then x else old)) ∧
  (∀ (s : State) (d a : GReg) (off : BitVec 10) (b : GReg) (o : MemOrd) (sc : Scope) (ss : Size) (sz : WSize) (z : Bool),
    let va : Word := s.hart.rg a + off.signExtend 64
    let traps (i : Instr) (n : Nat) (k : AccKind) (va : Word) : Prop :=
      (va.toNat % n ≠ 0 → exec i s = .next (trapNow s { code := 0x04, sub := 0, tval := va, unres := false })) ∧
      (∀ t, va.toNat % n = 0 → translate s (hartSpace s s.cur) k va = .trap t → t.code ≠ 0x0E →
        s.resvs = [] → s.dir = [] → s.held = [] → s.hart.answers = [] →
        exec i s = .next (trapNow { s with tlb := if s.hart.translated then s.tlb.filter fun x =>
          !((x.glob || x.asid == s.hart.asid) && x.vpage == va.toNat / 2 ^ x.bits) else s.tlb } t))
    traps (.ldb d a off) 1 .load va ∧ traps (.ldh d a off) 2 .load va ∧ traps (.ldw d a off) 4 .load va ∧
    traps (.ldd d a off) 8 .load va ∧ traps (.ldbN d a off) 1 .load va ∧ traps (.ldhN d a off) 2 .load va ∧
    traps (.ldwN d a off) 4 .load va ∧ traps (.stb d a off) 1 .store va ∧ traps (.sth d a off) 2 .store va ∧
    traps (.stw d a off) 4 .store va ∧ traps (.std d a off) 8 .store va ∧
    traps (.ldaq d a z ss sc) (sizeBytes ss) .load (s.hart.rg a) ∧
    (Settled s → traps (.strel d a ss sc) (sizeBytes ss) .store (s.hart.rg a)) ∧
    ((o = .rel ∨ o = .ar → Settled s) →
      ∀ i ∈ [Instr.amoadd d a b o sc sz, .amoand d a b o sc sz, .amoor d a b o sc sz, .amoxor d a b o sc sz, .amomin d a b o sc sz z,
        .amomax d a b o sc sz z, .amoswp d a b o sc sz, .amocas d a b o sc sz],
        traps i (wsizeBytes sz) .store (s.hart.rg a)))

/-- 06 R140, R141, R143, R145: scalar floating point. A result of width w goes to bits w − 1:0 of G[d] with zeros above it, and its flags are ORed into
FFLAGS; the operands are the low w bits; rounding is by FRM. An I32 result is sign-extended, an N32 result zero-extended. 06 R142, R144, 03 R56: FCMP
gives 1 where its condition holds and 0 elsewhere (a NaN operand makes eq, lt and le 0 and unordered 1; lt and le set NV for any NaN, eq and unordered
for a signalling one; zeros compare equal); FMIN and FMAX give the other operand for a NaN, the canonical NaN for two, and order −0 below +0; FCLASS
gives its code and no flag. -/
def Obligations.ScalarFloat : Prop :=
  (∀ (s : State) (d a b c : GReg) (f g : FFmt) (t : IntTy),
    let F := fFmtForm f
    let X (r : GReg) : FVal := F.decode ((s.hart.rg r).toNat % 2 ^ F.width)
    let m := modeOf s.hart.frm.toNat
    let gives (i : Instr) (x : Word) (fl : BitVec 6) : Prop :=
      ∃ u, exec i s = .next u ∧ WroteG (s.modHart fun h => { h with fflags := h.fflags ||| fl }) u (s.hart.pc + 4) d x ∧ OnlyHart s u
    let floats (i : Instr) (r : FOut) : Prop := gives i (BitVec.ofNat 64 r.bits) r.flags
    floats (.fadd d a b f) (F.addV m (X a) (X b)) ∧ floats (.fsub d a b f) (F.addV m (X a) (X b).neg) ∧
    floats (.fmul d a b f) (F.mulV m (X a) (X b)) ∧ floats (.fdiv d a b f) (F.divV m (X a) (X b)) ∧
    floats (.fsqrt d a f) (F.sqrtV m (X a)) ∧ floats (.fma d a b c f) (F.fmaV m (X a) (X b) (X c)) ∧
    floats (.fcvtToFloat d a f (.float g)) (F.convert m ((fFmtForm g).decode ((s.hart.rg a).toNat % 2 ^ (fFmtForm g).width))) ∧
    floats (.fcvtToFloat d a f (.int .i64)) (F.ofInt m (s.hart.rg a).toInt) ∧
    floats (.fcvtToFloat d a f (.int .n64)) (F.ofInt m (s.hart.rg a).toNat) ∧
    floats (.fcvtToFloat d a f (.int .i32)) (F.ofInt m ((s.hart.rg a).setWidth 32).toInt) ∧
    floats (.fcvtToFloat d a f (.int .n32)) (F.ofInt m ((s.hart.rg a).setWidth 32).toNat) ∧
    (let r := toIntSat m (intTySigned t) (intTyWidth t) (X a)
     gives (.fcvtToInteger d a f t)
       (if t = .i32 then (BitVec.ofNat 32 r.bits).signExtend 64 else BitVec.ofNat 64 (r.bits % 2 ^ intTyWidth t)) r.flags)) ∧
  (∀ (s : State) (d a b : GReg) (f : FFmt),
    let F := fFmtForm f
    let x := (s.hart.rg a).toNat % 2 ^ F.width
    let y := (s.hart.rg b).toNat % 2 ^ F.width
    let X := F.decode x
    let Y := F.decode y
    let gives (i : Instr) (v : Nat) (nv : Bool) : Prop :=
      ∃ u, exec i s = .next u ∧ OnlyHart s u ∧
        WroteG (s.modHart fun h => { h with fflags := h.fflags ||| (if nv then flagNV else 0) }) u (s.hart.pc + 4) d (BitVec.ofNat 64 v)
    let num (v : FVal) : Prop := v.isNan = false
    let nan : Nat := match f with | .fp64 => 0x7FF8000000000000 | .fp32 => 0x7FC00000 | .bf16 => 0x7FC0 | .fp16 => 0x7E00
    let sig := X.isSig || Y.isSig
    (X.isNan = true ∨ Y.isNan = true →
      gives (.fcmp d a b f .eq) 0 sig ∧ gives (.fcmp d a b f .lt) 0 true ∧
      gives (.fcmp d a b f .le) 0 true ∧ gives (.fcmp d a b f .uno) 1 sig) ∧
    (num X → num Y →
      gives (.fcmp d a b f .eq) (if X.lt Y || Y.lt X then 0 else 1) false ∧ gives (.fcmp d a b f .lt) (if X.lt Y then 1 else 0) false ∧
      gives (.fcmp d a b f .le) (if Y.lt X then 0 else 1) false ∧ gives (.fcmp d a b f .uno) 0 false) ∧
    (X.isNan = true → Y.isNan = true → gives (.fmin d a b f) nan sig ∧ gives (.fmax d a b f) nan sig) ∧
    (X.isNan = true → num Y → gives (.fmin d a b f) y sig ∧ gives (.fmax d a b f) y sig) ∧
    (num X → Y.isNan = true → gives (.fmin d a b f) x sig ∧ gives (.fmax d a b f) x sig) ∧
    (num X → num Y → X.lt Y = true → gives (.fmin d a b f) x false ∧ gives (.fmax d a b f) y false) ∧
    (num X → num Y → Y.lt X = true → gives (.fmin d a b f) y false ∧ gives (.fmax d a b f) x false) ∧
    (x = 2 ^ (F.width - 1) → y = 0 → gives (.fcmp d a b f .eq) 1 false ∧ gives (.fmin d a b f) x false ∧ gives (.fmax d a b f) y false))

/-- 03 R58, R61: a conversion of a finite value to an integer rounds it by the mode (the nearer, the even one on a tie; toward −∞; toward +∞; toward
zero), sets NX alone where it was inexact, and gives the bound with NV where the rounded value lies outside the integer's range; a NaN gives 0 with
NV. 03 R58: an exact value is returned unchanged, with no flag: in every format and mode, the value that the code of a finite number stands for rounds
to that code. 03 R57, R58, R60: an inexact finite value goes to the one of its two neighbours in the format that the mode names, with NX, and with UF
where it is tiny: below the smallest normal number also when it is rounded with an unbounded exponent. A value that so rounds above the largest finite
number overflows with OF and NX: to infinity or the largest finite number by the mode, in the finite-only formats to the largest finite number. 06
R141, R145: a sum, product, fused sum, quotient or square root is that rounding of the exact result, where an exact zero sum of opposite signs is +0,
or −0 under RDN; an inexact quotient or root is given by the odd number of half units between which it lies, with more bits than the format has. 03
R56, 06 R141, R145: an arithmetic operation with a NaN operand gives the canonical quiet NaN of its format and sets NV only for a
signalling one; infinity minus infinity, zero times infinity (whatever the addend), 0 ÷ 0, infinity ÷ infinity and the square root of a number below
zero give it with NV; a finite non-zero value over zero gives a signed infinity with DZ; √−0 is −0. 07 R175: the special cases of VFEXP2, VFRCP and
VFRSQ, and their exact ones: 2^0 is 1, 2^−∞ is +0, 2^+∞ is +∞; 1 ÷ ±0 is ±∞ with DZ, 1 ÷ ±∞ is ±0; 1 ÷ √±0 is ±∞ with DZ, 1 ÷ √+∞ is +0, of a number
below zero the canonical NaN with NV; a NaN gives the canonical NaN, with NV for a signalling one. -/
def Obligations.FloatRounding : Prop :=
  (∀ (m : Mode) (sg : Bool) (w : Nat) (neg sig : Bool) (n k : Nat), 0 < w →
    let v : Int := if neg then -(n : Int) else n
    let den : Int := 2 ^ k
    let lo : Int := if sg then -(2 ^ (w - 1)) else 0
    let hi : Int := if sg then 2 ^ (w - 1) - 1 else 2 ^ w - 1
    (∀ x : Int,
      (match m with
        | .rdn => x = Int.fdiv v den
        | .rup => x = -Int.fdiv (-v) den
        | .rtz => x = Int.tdiv v den
        | .rne => 2 * (v - x * den).natAbs ≤ 2 ^ k ∧ (2 * (v - x * den).natAbs = 2 ^ k → x % 2 = 0)) →
      toIntSat m sg w (.fin neg n (-k)) =
        (if hi < x then { bits := (BitVec.ofInt w hi).toNat, flags := flagNV }
         else if x < lo then { bits := (BitVec.ofInt w lo).toNat, flags := flagNV }
         else { bits := (BitVec.ofInt w x).toNat, flags := if x * den = v then 0 else flagNX })) ∧
    toIntSat m sg w (.nan sig) = { bits := 0, flags := flagNV } ∧
    toIntSat m sg w (.inf neg) = { bits := (BitVec.ofInt w (if neg then lo else hi)).toNat, flags := flagNV }) ∧
  (∀ (f : FForm), f ∈ [fp64Form, fp32Form, bf16Form, fp16Form, e4m3Form, e5m2Form, e2m1Form] →
    ∀ (m : Mode) (x : Nat) (neg : Bool) (n : Nat) (e : Int), x < 2 ^ f.width → f.decode x = .fin neg n e →
      f.round m neg n e false = { bits := x, flags := 0 }) ∧
  (∀ (f : FForm), f ∈ [fp64Form, fp32Form, bf16Form, fp16Form, e4m3Form, e5m2Form, e2m1Form] →
    ∀ (m : Mode) (neg : Bool) (n : Nat) (e K : Int), 0 < n → K ≤ e → K ≤ 1 - f.bias - f.fbits - 2 →
      let r := f.round m neg n e false
      let v : Nat := n * 2 ^ (e - K).toNat
      let at' (x : Nat) : Nat :=
        if x < 2 ^ f.fbits then x * 2 ^ (1 - f.bias - f.fbits - K).toNat
        else (2 ^ f.fbits + x % 2 ^ f.fbits) * 2 ^ ((x / 2 ^ f.fbits : Nat) - f.bias - f.fbits - K).toNat
      let top : Nat := (2 ^ f.ebits - if f.narrow then 0 else 1) * 2 ^ f.fbits - 1
      let goesUp (a b : Nat) (even : Bool) : Bool := match m with
        | .rne => decide (a + b < 2 * v) || (decide (a + b = 2 * v) && !even)
        | .rtz => false
        | .rdn => neg
        | .rup => !neg
      let least : Nat := 2 ^ (1 - f.bias - K).toNat
      let below : Nat := least - 2 ^ (1 - f.bias - f.fbits - 1 - K).toNat
      let tiny : Bool := decide (v < least) && (decide (v ≤ below) || !goesUp below least false)
      let sign : Nat := if neg then 2 ^ (f.width - 1) else 0
      (∀ x, x < top → at' x < v → v < at' (x + 1) →
        r = { bits := sign + (if goesUp (at' x) (at' (x + 1)) (x % 2 == 0) then x + 1 else x), flags := flagNX ||| if tiny then flagUF else 0 }) ∧
      (at' top < v → v < at' (top + 1) → goesUp (at' top) (at' (top + 1)) false = false → r = { bits := sign + top, flags := flagNX }) ∧
      (at' top < v → at' (top + 1) ≤ v ∨ goesUp (at' top) (at' (top + 1)) false = true →
        let inf : Bool := !f.narrow && (match m with | .rne => true | .rtz => false | .rdn => neg | .rup => !neg)
        r = { bits := sign + (if inf then top + 1 else top), flags := flagOF ||| flagNX })) ∧
  (∀ (f : FForm), f ∈ [fp64Form, fp32Form, bf16Form, fp16Form, e4m3Form, e5m2Form, e2m1Form] →
    ∀ (m : Mode) (p q o : Bool) (a b c : Nat) (d e g K : Int),
      let x (neg : Bool) (n : Nat) (e : Int) : Int := (if neg then -1 else 1) * (n * 2 ^ (e - K).toNat : Nat)
      let sum (z : Int) (s t : Bool) : FOut :=
        if z = 0 then { bits := if (if s = t then s else decide (m = .rdn)) then 2 ^ (f.width - 1) else 0, flags := 0 }
        else f.round m (decide (z < 0)) z.natAbs K false
      (K ≤ d → K ≤ e → f.addV m (.fin p a d) (.fin q b e) = sum (x p a d + x q b e) p q) ∧
      (K ≤ d + e → K ≤ g → f.fmaV m (.fin p a d) (.fin q b e) (.fin o c g) = sum (x (p != q) (a * b) (d + e) + x o c g) (p != q) o) ∧
      f.mulV m (.fin p a d) (.fin q b e) = f.round m (p != q) (a * b) (d + e) false ∧
      (0 < a → 0 < b → ∀ k y : Nat,
        (a * 2 ^ k = y * b → f.divV m (.fin p a d) (.fin q b e) = f.round m (p != q) y (d - e - k) false) ∧
        (y * b < a * 2 ^ k → a * 2 ^ k < (y + 1) * b → 2 ^ (f.fbits + 2) ≤ y →
          f.divV m (.fin p a d) (.fin q b e) = f.round m (p != q) (2 * y + 1) (d - e - k - 1) false)) ∧
      (0 < a → ∀ k y : Nat, ∀ j : Int, d - k = 2 * j →
        (a * 2 ^ k = y * y → f.sqrtV m (.fin false a d) = f.round m false y j false) ∧
        (y * y < a * 2 ^ k → a * 2 ^ k < (y + 1) * (y + 1) → 2 ^ (f.fbits + 2) ≤ y →
          f.sqrtV m (.fin false a d) = f.round m false (2 * y + 1) (j - 1) false))) ∧
  (∀ (f : FFmt) (m : Mode) (v w c : FVal) (sg n : Bool) (j : Bool) (k : Nat) (e : Int), 0 < k →
    let F := fFmtForm f
    let nan : Nat := match f with | .fp64 => 0x7FF8000000000000 | .fp32 => 0x7FC00000 | .bf16 => 0x7FC0 | .fp16 => 0x7E00
    let inf (neg : Bool) : Nat := (if neg then 2 ^ (F.width - 1) else 0) + match f with
      | .fp64 => 0x7FF0000000000000 | .fp32 => 0x7F800000 | .bf16 => 0x7F80 | .fp16 => 0x7C00
    let quiet (r : FOut) (invalid : Bool) : Prop := r = { bits := nan, flags := if invalid then flagNV else 0 }
    let zero (neg : Bool) : FVal := .fin neg 0 e
    quiet (F.addV m (.nan sg) w) (sg || w.isSig) ∧ quiet (F.addV m v (.nan sg)) (v.isSig || sg) ∧
    quiet (F.mulV m (.nan sg) w) (sg || w.isSig) ∧ quiet (F.mulV m v (.nan sg)) (v.isSig || sg) ∧
    quiet (F.divV m (.nan sg) w) (sg || w.isSig) ∧ quiet (F.divV m v (.nan sg)) (v.isSig || sg) ∧
    quiet (F.sqrtV m (.nan sg)) sg ∧ quiet (F.convert m (.nan sg)) sg ∧
    quiet (F.addV m (.inf n) (.inf !n)) true ∧ quiet (F.mulV m (zero n) (.inf j)) true ∧ quiet (F.mulV m (.inf j) (zero n)) true ∧
    quiet (F.fmaV m (zero n) (.inf j) c) true ∧ quiet (F.fmaV m (.inf j) (zero n) c) true ∧
    quiet (F.divV m (zero n) (zero j)) true ∧ quiet (F.divV m (.inf n) (.inf j)) true ∧
    quiet (F.sqrtV m (.fin true k e)) true ∧ quiet (F.sqrtV m (.inf true)) true ∧
    F.divV m (.fin n k e) (zero j) = { bits := inf (n != j), flags := flagDZ } ∧
    F.sqrtV m (zero true) = { bits := 2 ^ (F.width - 1), flags := 0 } ∧
    F.addV m (zero true) (zero false) = { bits := if m = .rdn then 2 ^ (F.width - 1) else 0, flags := 0 }) ∧
  (∀ (f : FForm), f ∈ [fp64Form, fp32Form, bf16Form, fp16Form] → ∀ (m : Mode),
    let top : Nat := 2 ^ (f.ebits + f.fbits)
    let one : Nat := f.bias * 2 ^ f.fbits
    let inf : Nat := (2 ^ f.ebits - 1) * 2 ^ f.fbits
    let nan : Nat := inf + 2 ^ (f.fbits - 1)
    let is (r : FOut) (x : Nat) (fl : BitVec 6) : Prop := r = { bits := x, flags := fl }
    is (f.exp2V m 0) one 0 ∧ is (f.exp2V m top) one 0 ∧ is (f.exp2V m inf) inf 0 ∧ is (f.exp2V m (top + inf)) 0 0 ∧
    is (f.rcpV m 0) inf flagDZ ∧ is (f.rcpV m top) (top + inf) flagDZ ∧ is (f.rcpV m inf) 0 0 ∧ is (f.rcpV m (top + inf)) top 0 ∧
    is (f.rcpV m one) one 0 ∧ is (f.rsqV m one) one 0 ∧
    is (f.rsqV m 0) inf flagDZ ∧ is (f.rsqV m top) (top + inf) flagDZ ∧ is (f.rsqV m inf) 0 0 ∧ is (f.rsqV m (top + one)) nan flagNV ∧
    is (f.exp2V m nan) nan 0 ∧ is (f.rcpV m nan) nan 0 ∧ is (f.rsqV m nan) nan 0 ∧
    is (f.exp2V m (inf + 1)) nan flagNV ∧ is (f.rcpV m (inf + 1)) nan flagNV ∧ is (f.rsqV m (inf + 1)) nan flagNV)

/-- 06 R144: FCLASS writes a class code to G[d] and raises no flag: bits 2:0 the kind (0 zero, 1 subnormal, 2 normal, 3 infinity, 4 quiet NaN, 5
signalling NaN), bit 3 the sign, for NaNs as well, bit 4 set for the canonical quiet NaN of the format, bits 63:5 zero. -/
def Obligations.FloatClass : Prop :=
  ∀ (s : State) (d a : GReg) (f : FFmt),
    let F := fFmtForm f
    let x := (s.hart.rg a).toNat % 2 ^ F.width
    let nan : Nat := match f with | .fp64 => 0x7FF8000000000000 | .fp32 => 0x7FC00000 | .bf16 => 0x7FC0 | .fp16 => 0x7E00
    ∃ u v, exec (.fclass d a f) s = .next u ∧ OnlyHart s u ∧ WroteG s u (s.hart.pc + 4) d (BitVec.ofNat 64 v) ∧ v < 32 ∧
      v / 8 % 2 = x / 2 ^ (F.width - 1) ∧ (v / 16 = 1 ↔ x = nan) ∧
      (match F.decode x with
        | .nan q => v % 8 = if q then 5 else 4
        | .inf _ => v % 8 = 3
        | .fin _ n _ => (n = 0 ↔ v % 8 = 0) ∧ (0 < n → n < 2 ^ F.fbits → v % 8 = 1) ∧ (2 ^ F.fbits ≤ n → v % 8 = 2))

/-- 06 R146, 02 R40: CRR, and CRS and CRC with source g0, write the value of a register that the level may read to G[d] and change nothing else; a read of
FFLAGS, VES and of the validity fields comes once the execute side is at rest (01 R19, 20 R408). 15 R302, R303, R305: TSTATUS shows TB where the hart
holds a stream engine or its fabric a resident or staged region, QCNT each queue's entries and whether an engine is bound to it, VVLO and VVHI the
validity of the register that VVSEL names, 1 for blocks without an element, ACCCFG and CTAB an accumulator's configuration and a compact table, and at
S the numbers from 0x300 read as those from 0x100 do; 12 R292: so read WBES and WLE. 02 R40, 15 R301: at either level a write of a number
from 0x100 to 0x1FF, at U any number from 0x200 on, and any number that names no register of a hart, trap with cause 0x01 and the instruction's
encoding in TVAL; a set or clear with source g0 is no write. -/
def Obligations.ControlRegisterReads : Prop :=
  (∀ (s : State) (d : GReg), s.hart.vq = [] →
    let reads (n : BitVec 12) (v : Word) : Prop :=
      (∃ t, exec (.crr d n) s = .next t ∧ WroteG s t (s.hart.pc + 4) d v ∧ OnlyHart s t) ∧
      (∃ t, exec (.crs d 0 n) s = .next t ∧ WroteG s t (s.hart.pc + 4) d v ∧ OnlyHart s t) ∧
      (∃ t, exec (.crc d 0 n) s = .next t ∧ WroteG s t (s.hart.pc + 4) d v ∧ OnlyHart s t)
    (∀ r ∈ userRegisters, reads r.num (r.get s.hart)) ∧
    reads 0x008 (s.hart.ulipend.setWidth 64) ∧ reads 0x100 (s.hart.vl.setWidth 64) ∧
    reads 0x101 ((if s.hart.ill then 0x8000000000000000 else 0) + s.hart.vtype.setWidth 64) ∧
    reads 0x102 (s.hart.vlmax.setWidth 64) ∧ reads 0x103 (s.tile.vlp.setWidth 64) ∧
    reads 0x104 s.hart.shbase ∧ reads 0x105 s.hart.cyc ∧
    reads 0x106 ((if s.hart.uliActive then 0x8000000000000000 else 0) + s.hart.uliEvent.setWidth 64) ∧
    (s.hart.level = .s →
      (∀ r ∈ supervisorRegisters, reads r.num (r.get s.hart)) ∧
      reads 0x300 (s.hart.vl.setWidth 64) ∧ reads 0x302 (s.hart.vlmax.setWidth 64) ∧
      reads 0x301 ((if s.hart.ill then 0x8000000000000000 else 0) + s.hart.vtype.setWidth 64) ∧ reads 0x303 (s.tile.vlp.setWidth 64) ∧
      reads 0x306 ((if s.hart.uliActive then 0x8000000000000000 else 0) + s.hart.uliEvent.setWidth 64) ∧
      (let mine (x : EngineState) : Bool := x.h1 == s.cur.h1 && x.ctx == s.hart.ctxid
       let f := s.tile.fabric
       let tb : Bool := (s.tile.engines.toList.any fun e => match e with | some x => mine x | none => false) ||
         (f.owner == some (s.cur.h1, s.hart.ctxid) && (f.regions != [] || f.staged.isSome || f.swap.isSome))
       reads 0x204 (BitVec.ofNat 64 ((if s.hart.unres then 256 else 0) + (if s.hart.fresh then 128 else 0) + (if s.hart.full then 64 else 0) +
         (if s.hart.spf then 32 else 0) + (if tb then 16 else 0) + (if s.hart.tip then 8 else 0) + (if s.hart.pp = .s then 4 else 0) +
         (if s.hart.pie then 2 else 0) + (if s.hart.ie then 1 else 0))) ∧
       let bound (n : Fin 4) : Bool := s.tile.engines.toList.any fun e => match e with
         | some x => mine x && x.bind == .queue (BitVec.ofFin n) | none => false
       let count (n : Fin 4) : Nat := 16 ^ n.val * (s.hart.q.get n).length + (if bound n then 2 ^ (16 + n.val) else 0)
       reads 0x210 (BitVec.ofNat 64 (count 0 + count 1 + count 2 + count 3))) ∧
      (∃ lo hi : Word, reads 0x212 lo ∧ reads 0x213 hi ∧
        let per := s.hart.vlmax.toNat / 2 ^ (s.hart.vtype.toNat / 16 % 8)
        let good (b : Nat) : Bool := decide (per ≤ 32 * b) || (s.hart.val.get s.hart.vvsel.toFin).getLsbD b
        ∀ b, b < 64 → lo.getLsbD b = good b ∧ hi.getLsbD b = good (64 + b)) ∧
      (∀ j : Fin 4, reads (0x220 + BitVec.ofNat 12 j) (s.tile.ctab.get j) ∧
        reads (0x243 + BitVec.ofNat 12 j) ((s.hart.wle.get j).setWidth 64) ∧
        (let x := s.tile.acc.get j
         reads (0x228 + BitVec.ofNat 12 j) (BitVec.ofNat 64
          ((match x.owner with | none => 0 | some b => if b then 2 else 1) * 2 ^ 32 + x.n.toNat * 2 ^ 18 + x.m.toNat * 2 ^ 11 +
            (if x.int32 then 2 ^ 9 else 0) + (if x.sc then 2 ^ 8 else 0) + x.fmt.toNat * 2 ^ 4)))) ∧
      reads 0x241 ((if s.hart.wbesDone then 0x8000000000000000 else 0) + (if s.hart.wbesArr then 0x4000000000000000 else 0) +
        (if s.hart.wbesTkn then 0x2000000000000000 else 0) + s.hart.wbesIdx.setWidth 64) ∧
      reads 0x206 (s.hart.sip.setWidth 64) ∧ reads 0x208 (s.hart.ctxid.setWidth 64) ∧
      reads 0x20E s.hart.spe0 ∧ reads 0x20F s.hart.spe1 ∧
      reads 0x209 ((if s.hart.vownV then 0x8000000000000000 else 0) + s.hart.vownId.setWidth 64) ∧
      reads 0x240 ((if s.hart.wbaRes then 0x8000000000000000 else 0) + s.hart.wbaAddr.setWidth 64 <<< 6) ∧
      reads 0x242 (if s.hart.wls.toNat < 4 then s.hart.wls.setWidth 64 else 4) ∧
      ∀ j : Fin 8, reads (0x218 + BitVec.ofNat 12 j) (s.hart.shd.get j))) ∧
  (∀ (s : State) (d a : GReg) (n : BitVec 12),
    let traps (i : Instr) : Prop := exec i s = .next (trapNow s { code := 0x01, sub := 0, tval := i.tval, unres := false })
    (0x100 ≤ n.toNat → n.toNat < 0x200 →
      traps (.crw d a n) ∧ (a ≠ 0 → traps (.crs d a n) ∧ traps (.crc d a n))) ∧
    ((s.hart.level = .u ∧ 0x200 ≤ n.toNat) ∨ 0x400 ≤ n.toNat ∨ (9 ≤ n.toNat ∧ n.toNat < 0x100) ∨ (0x107 ≤ n.toNat ∧ n.toNat < 0x200) →
      traps (.crr d n) ∧ traps (.crw d a n) ∧ traps (.crs d a n) ∧ traps (.crc d a n)) ∧
    (Instr.crr d n).tval.toNat < 2 ^ 32)

/-- 06 R146, 02 R41: CRW writes G[a] to the fields of a register, CRS sets and CRC clears the bits that G[a] names, and each writes the old value to G[d];
reserved bits stay zero (00 R8). 06 R146: in a field that is cleared by writing 1, CRW, CRS and CRC each clear the bits that G[a] names and keep the
others: ULIPEND (02 R51), TSTATUS.UNRES and SIP.MGMT and CNT (15 R303), beside which the RW fields of TSTATUS and SIP follow CRW, CRS and CRC. -/
def Obligations.ControlRegisterWrites : Prop :=
  (∀ (s : State) (d a : GReg), s.hart.vq = [] →
    let x := s.hart.rg a
    let leaves (i : Instr) (h : Hart) (old : Word) : Prop :=
      ∃ t, exec i s = .next t ∧ OnlyHart s t ∧ WroteFrom s h t (s.hart.pc + 4) d old
    ∀ r, r ∈ userRegisters ∨ (r ∈ supervisorRegisters ∧ s.hart.level = .s) →
      let old := r.get s.hart
      leaves (.crw d a r.num) (r.put s.hart x) old ∧
      (a ≠ 0 → leaves (.crs d a r.num) (r.put s.hart (old ||| x)) old ∧ leaves (.crc d a r.num) (r.put s.hart (old &&& ~~~x)) old)) ∧
  (∀ (s : State) (d a : GReg), a ≠ 0 →
    let h := s.hart
    let x := h.rg a
    let leaves (i : Instr) (n : Nat) (g : Hart) : Prop :=
      ∃ t, exec i s = .next t ∧ OnlyHart s t ∧ WroteFrom s g t (h.pc + 4) d (BitVec.ofNat 64 (crValue s s.cur n))
    let rw (i : Fin 3) (old new : Bool) : Bool := match i with | 0 => new | 1 => old || new | 2 => old && !new
    let op (i : Fin 3) (n : BitVec 12) : Instr := match i with | 0 => .crw d a n | 1 => .crs d a n | 2 => .crc d a n
    ∀ i : Fin 3,
      leaves (op i 0x008) 0x008 { h with ulipend := h.ulipend &&& ~~~x.setWidth 4 } ∧
      (h.level = .s →
        leaves (op i 0x206) 0x206
          { h with sip := (h.sip &&& ~~~x.setWidth 3 &&& 6) ||| (if rw i (h.sip.getLsbD 0) (x.getLsbD 0) then 1 else 0) } ∧
        leaves (op i 0x204) 0x204
          { h with unres := h.unres && !x.getLsbD 8, fresh := rw i h.fresh (x.getLsbD 7), tip := rw i h.tip (x.getLsbD 3),
                   pp := if rw i (h.pp = .s) (x.getLsbD 2) then .s else .u, pie := rw i h.pie (x.getLsbD 1),
                   ie := rw i h.ie (x.getLsbD 0) }))

/-- 15 R305: at S a write of VL is clamped to VLMAX; a write of VTYPE takes bits 7:0, sets ILL and zeros VL and VLMAX where bit 63 is 1 or 02 R39 rejects
the type, and otherwise forms VLMAX with the current effective set (01 R28) and clamps VL to it; a write of VLP sets the owner map alone; writes of
VLMAX change nothing. 16 R328: a write of CTXID reads the new context's entry first. One that is not valid leaves CTXID and traps with cause 0x01; a
valid one of the context that the hart runs captures its root and ASID; a change of context first parks the hart's index of its farm, which then runs
nowhere (17 R354), and takes up no index of context 0. -/
def Obligations.SupervisorWrites : Prop :=
  (∀ (s : State) (d a : GReg), s.hart.level = .s →
    let h := s.hart
    let x := h.rg a
    let ty : BitVec 8 := x.setWidth 8
    let grp := ty.toNat / 16 % 8
    let narrow := ty.toNat % 16 = 12 ∨ ty.toNat % 16 = 13 ∨ ty.toNat % 16 = 14
    let width := elemWidth (elemOf (ty.toNat % 16))
    let wellFormed := grp ≤ 3 ∧ (128 ≤ ty.toNat → narrow) ∧ 16384 / width * 2 ^ grp ≤ 4096
    let leaves (i : Instr) (g : Hart) : Prop := ∃ t old, exec i s = .next t ∧ OnlyHart s t ∧ WroteFrom s g t (h.pc + 4) d old
    leaves (.crw d a 0x300) { h with vl := BitVec.ofNat 16 (min x.toNat h.vlmax.toNat) } ∧
    (x.getLsbD 63 = true ∨ ¬wellFormed → leaves (.crw d a 0x301) { h with vtype := ty, ill := true, vlmax := 0, vl := 0 }) ∧
    (x.getLsbD 63 = false → wellFormed →
      let c := ((List.range 8).filter fun j => h.eff.getLsbD j && !s.tile.lanemap.getLsbD j).length
      let m := (if h.prot then c / 2 else c) * 8 * 256 / width * 2 ^ grp
      leaves (.crw d a 0x301) { h with vtype := ty, ill := false, vlmax := BitVec.ofNat 16 m, vl := BitVec.ofNat 16 (min h.vl.toNat m) }) ∧
    (∃ t, exec (.crw d a 0x303) s = .next t ∧ t.tile.vlp = x.setWidth 8 ∧ t.tile.hart (!s.cur.h1) = s.tile.hart (!s.cur.h1) ∧
      t = (s.modTile fun y => { y with vlp := x.setWidth 8 }).setHart t.hart ∧
      WroteG s t (h.pc + 4) d (s.tile.vlp.setWidth 64)) ∧
    leaves (.crw d a 0x302) h) ∧
  (∀ (s : State) (d a : GReg) (p : Partition) (root : Word) (asid : BitVec 16), s.hart.level = .s → partOf s s.cur.tile = some p →
    s.resvs = [] → s.dir = [] → s.refused = [] →
    let c : BitVec 16 := (s.hart.rg a).setWidth 16
    let i : Instr := .crw d a 0x208
    (ctxEntry s p c = none → exec i s = .next (trapNow s { code := 0x01, sub := 0, tval := i.tval, unres := false })) ∧
    (ctxEntry s p c = some (root, asid) →
      let g := { s.hart with ctxid := c, translated := true, root := root, asid := asid }
      (c = s.hart.ctxid → s.hart.translated = true →
        ∃ t, exec i s = .next t ∧ OnlyHart s t ∧ WroteFrom s g t (s.hart.pc + 4) d (s.hart.ctxid.setWidth 64)) ∧
      (c = 0 → s.hart.ctxid ≠ 0 → ∀ m, s.hart.member = some m →
        ∃ t, exec i s = .next t ∧ WroteFrom s { g with member := none } t (s.hart.pc + 4) d (s.hart.ctxid.setWidth 64) ∧
          t.mem = s.mem ∧ (∀ f ∈ t.farms, f.id = m.farm → ∀ x, f.harts[m.index]? = some x → x.place = none))))

/-- 15 R306, R323, 01 R21: a synchronous trap that does not escalate, of a hart whose execute side is at rest, writes TEPC, TCAUSE, TVAL, FULL, SPF, PP,
PIE, IE, TIP and UNRES, changes the level to S and goes to TVEC; no other register of the hart, no other hart and no byte of memory changes. While
vector instructions are queued the trap waits for them. 15 R309: a synchronous trap at S while TIP = 1 and EBRK at S escalate: a record of kind 0x08
names the hart's TCAUSE and TEPC, and the hart, here of context 0, restarts at S at TVEC with TIP 0, IE 0 and SIP.MGMT set; any later notice is
interrupt 0x22. That FULL is set wherever VES is not 0 is log 39's reading of 15 R323, and that the record of kind 0x08 also adds to GEN is log 42's:
the model's choices. -/
def Obligations.TrapEntryAndEscalation : Prop :=
  (∀ (s : State) (c : TrapRec),
    let h := s.hart
    let t := trapNow s c
    ¬(h.level = .s ∧ h.tip = true) →
      (h.vq = [] →
        t.hart = { h with
          tepc := h.pc &&& 0x000FFFFFFFFFFFFC, tcause := c.sub.setWidth 64 <<< 8 ||| c.code.setWidth 64, tval := c.tval,
          full := h.ves != 0 || (h.q.toList.any fun l => !l.isEmpty) || h.wbaRes,
          spf := false, pp := h.level, pie := h.ie, ie := false, tip := true, level := .s, pc := h.tvec,
          unres := h.unres || c.unres, run := .running, batchWait := false, bwait := none, trapWait := none, wbBlock := none, replay := none,
          replayed := none } ∧
        t.mem = s.mem ∧ (∀ i, i ≠ s.cur → getHart t i = getHart s i) ∧
        (s.tile.seqr ≠ some s.cur.h1 → t = s.setHart t.hart)) ∧
      (h.vq ≠ [] → t = s.setHart { h with trapWait := some c })) ∧
  (∀ (s : State) (c : TrapRec), s.hart.level = .s → s.hart.vq = [] → s.hart.ctxid = 0 →
    let restarts (t : State) : Prop :=
      t.hart = { s.hart with run := .running, pc := s.hart.tvec, tip := false, ie := false, sip := s.hart.sip ||| 4,
                             noticeSeq := s.logSeq + 1, wbBlock := none, replay := none, replayed := none } ∧
      t.logSeq = s.logSeq + 1 ∧ t.gen = s.gen + 1 ∧ t.mem = s.mem ∧
      (∃ r, t.log.getLast? = some r ∧ r.kind = 0x08 ∧ r.seq = s.logSeq + 1 ∧ r.data0 = s.hart.tcause ∧ r.data1 = s.hart.tepc)
    (s.hart.tip = true → restarts (trapNow s c)) ∧ (∃ t, exec .ebrk s = .next t ∧ restarts t))

/-- 06 R148, 15 R310: at U, ECALL and EBRK each wait for the execute side and then trap to S with causes 0x0C and 0x0B, TEPC at the instruction and TVAL
0. At S, ECALL is a management call: a known function stops the hart until the management core answers, an unknown one returns all ones in g10. -/
def Obligations.EnvironmentCalls : Prop :=
  ∀ s : State,
    let h := s.hart
    (h.level = .u → h.vq = [] → ∀ i code, (i, code) ∈ [(Instr.ecall, (0x0C : BitVec 8)), (Instr.ebrk, 0x0B)] →
      ∃ t, exec i s = .next t ∧ t.hart.tcause = code.setWidth 64 ∧ t.hart.tepc = h.pc &&& 0x000FFFFFFFFFFFFC ∧ t.hart.tval = 0 ∧
        t.hart.level = .s ∧ t.hart.pp = .u ∧ t.hart.tip = true ∧ t.hart.pc = h.tvec ∧ t.hart.g = h.g) ∧
    (h.vq ≠ [] → ∀ i ∈ [Instr.ecall, .ebrk],
      exec i s = .next { s with events := s.events ++ [.event (.vectorInstructionRetirement s.cur)] }) ∧
    (h.level = .s → h.vq = [] →
      (∀ n : Fin 7, h.g.get 10 = BitVec.ofNat 64 n → ∃ t e, exec .ecall s = .next t ∧ t.hart = { h with run := .mgmt } ∧
        t.calls = s.calls ++ [s.cur] ∧ t.events = s.events ++ [.event e] ∧ t.mem = s.mem ∧
        [Event.pinfo s.cur, .logread s.cur, .peerreg s.cur, .fabesc s.cur, .attest s.cur, .qpopen s.cur, .qpclose s.cur][n]? = some e) ∧
      (7 ≤ (h.g.get 10).toNat → ∃ t, exec .ecall s = .next t ∧ OnlyHart s t ∧
        t.hart = { h with pc := h.pc + 4, g := h.g.set 10 (BitVec.allOnes 64) }))

/-- 15 R308, 02 R51: TRAPRET at S takes level and IE from PP and PIE, clears TIP, FULL and SPF and goes to TEPC, once the hart's accesses are performed;
at U, or with PP = 0 and UNRES = 1, it traps with cause 0x01. URET at U with ACTIVE = 1 clears ACTIVE, so that g24 to g31 name the live registers
again, and goes to ULIEPC; at S, or with ACTIVE = 0, it traps with cause 0x01. -/
def Obligations.Returns : Prop :=
  ∀ s : State,
    let h := s.hart
    let traps (i : Instr) : Prop := exec i s = .next (trapNow s { code := 0x01, sub := 0, tval := i.tval, unres := false })
    (h.level = .u ∨ (h.pp = .u ∧ h.unres = true) → traps .trapret) ∧
    (h.level = .s → ¬(h.pp = .u ∧ h.unres = true) →
      (Settled s → ∃ t, exec .trapret s = .next t ∧ OnlyHart s t ∧
        t.hart = { h with level := h.pp, ie := h.pie, tip := false, full := false, spf := false, pc := h.tepc }) ∧
      (¬Settled s → ∃ t, exec .trapret s = .next t ∧ t.hart = h ∧ t.mem = s.mem)) ∧
    (h.level = .s ∨ h.uliActive = false → traps .uret) ∧
    (h.level = .u → h.uliActive = true → ∃ t, exec .uret s = .next t ∧ OnlyHart s t ∧
      t.hart = { h with uliActive := false, pc := h.uliepc } ∧ ∀ r : Fin 32, r ≠ 0 → t.hart.rg (BitVec.ofFin r) = h.g.get r)

/-- 06 R147, R150, R154, R155, 04 R87, 16 R340: WFE waits at the next instruction unless an event, an interrupt or a pre-emption request is pending; FENCE
passes once the execute side and the hart's writes are at rest and waits before that; TLBINV at S drops the translations of the page and the ASID that
it names, of all where it names none, global ones only where it names no ASID, once no hart's write through one of them is on its way, and traps at
U; CINV drops the instruction lines of its bytes and no data. -/
def Obligations.WaitsAndInvalidations : Prop :=
  ∀ (s : State) (d a : GReg) (o : MemOrd) (sc : Scope),
    let h := s.hart
    let passed : Hart := { h with pc := h.pc + 4 }
    (∃ t, exec .wfe s = .next t ∧ OnlyHart s t ∧
      t.hart = if h.ulipend = 0 ∧ h.sip = 0 then { passed with run := .wfe } else passed) ∧
    (Settled s → ∃ t, exec (.fence o sc) s = .next t ∧ OnlyHart s t ∧ t.hart = passed) ∧
    (¬Settled s → ∃ t, exec (.fence o sc) s = .next t ∧ t.hart = h ∧ t.mem = s.mem) ∧
    (h.level = .u → exec (.tlbinv d a) s =
      .next (trapNow s { code := 0x01, sub := 0, tval := (Instr.tlbinv d a).tval, unres := false })) ∧
    (let spared (e : TlbEntry) : Prop :=
       (a ≠ 0 ∧ (h.rg a).toNat / 2 ^ e.bits ≠ e.vpage) ∨ (d ≠ 0 ∧ (e.glob = true ∨ e.asid ≠ (h.rg d).setWidth 16))
     (h.level = .s → Settled s → s.hostWrites = [] → (∀ i, (getHart s i).wcb = [] ∧ (getHart s i).sentLines = [] ∧ (getHart s i).vq = []) →
       ∃ t, exec (.tlbinv d a) s = .next t ∧ t.hart = passed ∧ t = { s.setHart t.hart with tlb := t.tlb } ∧
         ∀ e, e ∈ t.tlb ↔ e ∈ s.tlb ∧ spared e) ∧
     (h.level = .s → ∀ e ∈ s.tlb, ¬spared e → ∀ i, ∀ c ∈ (getHart s i).wcb,
       c.1 / 2 ^ e.bits = e.leaf.toNat / 2 ^ 12 % 2 ^ 40 * 4096 / 2 ^ e.bits →
       ∃ t, exec (.tlbinv d a) s = .next t ∧ t.hart = h ∧ t.tlb = s.tlb ∧ t.mem = s.mem)) ∧
    (∃ t, exec (.cinv d a) s = .next t ∧ t.hart = passed ∧
      t = (s.modTile fun y => { y with icache := t.tile.icache }).setHart t.hart ∧
      (∀ l ∈ t.tile.icache, l ∈ s.tile.icache) ∧ (d = 0 → t.tile.icache = []) ∧
      (d ≠ 0 → h.rg d = 0 → t.tile.icache = s.tile.icache) ∧
      (d ≠ 0 → (h.rg d).toNat < 65536 → ∀ l ∈ t.tile.icache, ∀ j, j < (h.rg d).toNat →
        (h.rg a).toNat + j < 2 ^ 64 → ∀ pa ty e,
          translate s (hartSpace s s.cur) .fetch (BitVec.ofNat 64 (((h.rg a).toNat + j) / 128 * 128)) = .ok pa ty e → l.1 ≠ pa / 128))

/-- 06 R152, 15 R316: SAFEPT at a quiet hart goes past itself; at U it also sets SPCNT to 0. A queue that is not empty makes it trap with cause 0x01. With
a pre-emption request that the fabric does not defer and no safe-point table, it enters the supervisor with interrupt 0x20: TEPC after the SAFEPT,
TVAL the id, every register live, SPF set, the request cleared. 06 R151, 01 R17, R27, 15 R309: HALT of a quiet hart that holds no engine, region or
accumulator. At U the hart is free, has left its farm and has no resident vector state of its context; at S it stops with a record of kind 0x08. Its
lane clusters pass to the other hart either way, and memory is untouched while its farm has not reached its trigger point. -/
def Obligations.SafePointsAndHalt : Prop :=
  (∀ (s : State) (id : BitVec 16), Quiet s →
    let h := { s.hart with batchWait := false }
    (queuesEmpty s s.cur = true →
      (h.level = .s → ∃ t, exec (.safept id) s = .next t ∧ OnlyHart s t ∧ t.hart = { h with pc := h.pc + 4 }) ∧
      (h.level = .u → h.sip.getLsbD 0 = false → ∃ t, exec (.safept id) s = .next t ∧ OnlyHart s t ∧
        t.hart = { h with pc := h.pc + 4, spcnt := 0 }) ∧
      (h.level = .u → h.sip.getLsbD 0 = true → h.sptb = 0 → s.tile.fabric.owner = none → s.tile.seqr ≠ some s.cur.h1 →
        ∃ t, exec (.safept id) s = .next t ∧ OnlyHart s t ∧
          t.hart = { h with
            tepc := (h.pc + 4) &&& 0x000FFFFFFFFFFFFC, tcause := 0x8000000000000020, tval := id.setWidth 64, full := false, spf := true,
            pp := .u, pie := h.ie, ie := false, tip := true, level := .s, pc := h.tvec, run := .running, bwait := none, trapWait := none,
            spe0 := 0xFFFFFFFFFFFFFFFE, spe1 := 0x3FFF, sip := h.sip &&& 6, spcnt := 0, wbBlock := none, replay := none, replayed := none })) ∧
    (queuesEmpty s s.cur = false → ∃ t, exec (.safept id) s = .next t ∧
      t = trapNow (s.setHart h) { code := 0x01, sub := 0, tval := (Instr.safept id).tval, unres := false })) ∧
  (∀ s : State, Quiet s → s.tile.fabric.owner = none → (∀ e ∈ s.tile.engines.toList, e = none) →
    (∀ x ∈ s.tile.acc.toList, x.owner ≠ some s.cur.h1) →
    let h := s.hart
    let clusters (t : State) : Prop := t.tile.vlp = (if s.cur.h1 then 0 else 0xFF) ∧ t.hart.eff = 0
    (h.level = .u → h.member = none → ∃ t, exec .halt s = .next t ∧ clusters t ∧ t.mem = s.mem ∧
      t.hart = { h with batchWait := false, eff := 0, run := .halted, vownV := h.vownV && h.vownId != h.ctxid }) ∧
    (h.level = .u → ∀ m, h.member = some m → ∃ t, exec .halt s = .next t ∧ clusters t ∧ t.hart.run = .halted ∧ t.hart.member = none ∧
      ∀ f ∈ t.farms, f.id = m.farm → ∀ x, f.harts[m.index]? = some x → x.exited = true ∧ x.place = none) ∧
    (h.level = .s → ∃ t, exec .halt s = .next t ∧ clusters t ∧ t.mem = s.mem ∧
      t.hart = { h with batchWait := false, eff := 0, run := .stopped } ∧
      ∃ r, t.log.getLast? = some r ∧ r.kind = 0x08 ∧ r.data0 = h.tcause ∧ r.data1 = h.tepc))

/-- 07 R164, R165, 01 R28, R14: SETVL (type and count in registers) and SETVLI set VTYPE, form VLMAX from the clusters that compute, set VL to the smaller
of count and VLMAX and write it to G[d]; an ill-formed type sets ILL and zeros both. VES becomes 0. At S, and while a load-data queue holds an entry,
ownership and effective set stay; else the effective set becomes what the hart owns and the other hart has left. A change of clusters, or the first
well-formed one of a fresh hart at U, clears the vector registers. 07 R167, R168: LPREQ records its request, at most 8, and gives the size of the
effective set in bits 3:0 and the target in bits 7:4: the request itself where both fit the eight clusters (a hart that is placed for no farm requests
none), else at least 4 or what the other leaves. It moves no cluster. 07 R165, R168: a SETVL at U that may change clusters first gives up what the
arbiter directs: the smaller of what the hart owns above its target and what the other lacks of its own, the highest-numbered first; else VLP stays.
That a first well-formed SETVL is one that finds FRESH or finds no type set since the hart was placed is log 53's reading: the model's choice. -/
def Obligations.SetVl : Prop :=
  (∀ (s : State) (d a b : GReg) (fmt : ElemTy) (grp : BitVec 3) (sc : Bool),
    let h := s.hart
    s.hart.vq = [] → (h.level = .s ∨ (h.vownV = true ∧ h.vownId = h.ctxid)) →
    let sets (i : Instr) (ty : BitVec 8) (ok : Prop) : Prop :=
      ∃ t, exec i s = .next t ∧
        let g := t.hart
        let c := ((List.range 8).filter fun j => g.eff.getLsbD j && !s.tile.lanemap.getLsbD j).length
        let c := if h.prot then c / 2 else c
        let width := elemWidth (elemOf (ty.toNat % 16))
        let k := ty.toNat / 16 % 8
        let narrow := ty.toNat % 16 = 12 ∨ ty.toNat % 16 = 13 ∨ ty.toNat % 16 = 14
        let good := ok ∧ k ≤ 3 ∧ (128 ≤ ty.toNat → narrow) ∧ 16384 / width * 2 ^ k ≤ 4096
        let first := h.level = .u ∧ (h.fresh = true ∨ h.unset = true) ∧ good
        (good → g.ill = false ∧ g.vlmax.toNat = c * 8 * 256 / width * 2 ^ k ∧ g.vl.toNat = min (h.rg a).toNat g.vlmax.toNat) ∧
        (¬good → g.ill = true ∧ g.vlmax = 0 ∧ g.vl = 0) ∧
        g.vtype = ty ∧ g.ves = 0 ∧ g.pc = h.pc + 4 ∧ g.clusters = c ∧
        (∀ r, g.rg r = if r = 0 then 0 else if r = d then g.vl.setWidth 64 else h.rg r) ∧
        (h.level = .s ∨ queuesEmpty s s.cur = false → g.eff = h.eff ∧ t.tile.vlp = s.tile.vlp) ∧
        (h.level = .u → queuesEmpty s s.cur = true →
          g.eff = (if s.cur.h1 then t.tile.vlp else ~~~t.tile.vlp) &&& ~~~(s.tile.hart (!s.cur.h1)).eff) ∧
        (h.level = .u → queuesEmpty s s.cur = true →
          let asks (x : Hart) : Nat := if x.member.isSome then min x.want.toNat 8 else 0
          let mine := asks h
          let theirs := asks (s.tile.hart (!s.cur.h1))
          let target := if mine + theirs ≤ 8 then mine else min mine (max 4 (8 - theirs))
          let target' := if mine + theirs ≤ 8 then theirs else min theirs (max 4 (8 - mine))
          let owns (v : BitVec 8) (j : Nat) : Bool := v.getLsbD j == s.cur.h1
          let own := ((List.range 8).filter (owns s.tile.vlp)).length
          let gives := min (own - target) (target' - (8 - own))
          ∀ j, j < 8 → (owns t.tile.vlp j = true ↔ owns s.tile.vlp j = true ∧
            gives ≤ ((List.range 8).filter fun i => decide (j < i) && owns s.tile.vlp i).length)) ∧
        (g.eff ≠ h.eff ∨ g.clusters ≠ h.clusters ∨ first →
          (∀ r, g.rv r = 0) ∧ (∀ k, g.rk k = 0) ∧ ∀ r, g.val.get r = BitVec.allOnes 128) ∧
        (g.eff = h.eff → g.clusters = h.clusters → ¬first → g.v = h.v ∧ g.k = h.k ∧ g.val = h.val ∧ g.q = h.q) ∧
        (first → g.fresh = false ∧ g.unset = false) ∧ (¬first → g.fresh = h.fresh ∧ g.unset = h.unset) ∧
        t.mem = s.mem ∧ (∀ i, i ≠ s.cur → getHart t i = getHart s i)
    sets (.setvl d a b) ((h.rg b).setWidth 8) ((h.rg b).toNat < 256) ∧
    sets (.setvli d a fmt grp sc) (BitVec.ofNat 8 (fmt.code + 16 * grp.toNat + if sc then 128 else 0)) True) ∧
  (∀ (s : State) (d a : GReg),
    let h := s.hart
    let w := min ((h.rg a).toNat % 16) 8
    let other := s.tile.hart (!s.cur.h1)
    let own := if h.member.isSome then w else 0
    let theirs := if other.member.isSome then min other.want.toNat 8 else 0
    let target := if own + theirs ≤ 8 then own else min own (max 4 (8 - theirs))
    let size := ((List.range 8).filter fun j => h.eff.getLsbD j).length
    ∃ t, exec (.lpreq d a) s = .next t ∧ OnlyHart s t ∧
      WroteFrom s { h with want := BitVec.ofNat 4 w } t (h.pc + 4) d (BitVec.ofNat 64 (size + 16 * target)))

/-- 07 R170, 03 R53: the integer element instructions write, for each active element, the low w bits of the exact result: sum, difference, product, high
half of the product by the type's signedness, product plus the old element, bits combined, shifts by the low log2(w) bits of operand b, signed and
unsigned minimum and maximum, saturated sum and difference. They set no flag. 07 R162, R170, R172, R173, R182: VAND, VOR and VXOR combine the codes of
any type as bits; VMERGE takes operand b where the mask bit is 1 and operand a elsewhere, for every element below VL; VMV copies operand b, VBCAST
element 0 of operand b, VINS one element from G[a]. They move codes without computing: of a scaled type, a written block is valid where every source
block is. -/
def Obligations.VectorInteger : Prop :=
  (∀ (s u : State) (d a : VReg) (b : Src) (k : KReg) (qv : List VWord), s.hart.shaped →
    let h := u.hart
    let w := elemWidth (vtFmt h.vtype)
    let sg := elemSigned (vtFmt h.vtype) = true
    let X (i : Nat) : BitVec w := BitVec.ofNat w (operandA h a i)
    let Y (i : Nat) : BitVec w := BitVec.ofNat w (operandB h b qv i)
    let O (i : Nat) : BitVec w := BitVec.ofNat w (operandA h d i)
    let gives (i : Instr) (f : Nat → BitVec w) : Prop :=
      VecReady i s qv u → ∃ t, exec i s = .next t ∧ OnlyHart u t ∧ VectorFrame h t.hart 0 ∧
        ElemsWritten h t.hart d (h.acts k) (fun i => (f i).toNat) (fun _ => True)
    let clamp (z : Int) : BitVec w :=
      if sg then BitVec.ofInt w (max (-(2 ^ (w - 1))) (min z (2 ^ (w - 1) - 1))) else BitVec.ofInt w (max 0 (min z (2 ^ w - 1)))
    let high (x y : BitVec w) : BitVec w :=
      if sg then BitVec.ofInt w (x.toInt * y.toInt / 2 ^ w) else BitVec.ofNat w (x.toNat * y.toNat / 2 ^ w)
    gives (.vadd d a b k) (fun i => X i + Y i) ∧ gives (.vsub d a b k) (fun i => X i - Y i) ∧ gives (.vmul d a b k) (fun i => X i * Y i) ∧
    gives (.vmulh d a b k) (fun i => high (X i) (Y i)) ∧ gives (.vmadd d a b k) (fun i => X i * Y i + O i) ∧
    gives (.vsll d a b k) (fun i => X i <<< ((Y i).toNat % w)) ∧ gives (.vsrl d a b k) (fun i => X i >>> ((Y i).toNat % w)) ∧
    gives (.vsra d a b k) (fun i => (X i).sshiftRight ((Y i).toNat % w)) ∧
    gives (.vmin d a b k) (fun i => if (Y i).toInt < (X i).toInt then Y i else X i) ∧
    gives (.vmax d a b k) (fun i => if (X i).toInt < (Y i).toInt then Y i else X i) ∧
    gives (.vminn d a b k) (fun i => if (Y i).toNat < (X i).toNat then Y i else X i) ∧
    gives (.vmaxn d a b k) (fun i => if (X i).toNat < (Y i).toNat then Y i else X i) ∧
    gives (.vsadd d a b k) (fun i => if sg then clamp ((X i).toInt + (Y i).toInt) else clamp ((X i).toNat + (Y i).toNat : Nat)) ∧
    gives (.vssub d a b k) (fun i => if sg then clamp ((X i).toInt - (Y i).toInt) else clamp ((X i).toNat - (Y i).toNat : Int))) ∧
  (∀ (s u : State) (d a : VReg) (b : Src) (k : KReg) (g : GReg) (qv : List VWord), s.hart.shaped →
    let h := u.hart
    let x (i : Nat) : Nat := (h.elemAt a i).1
    let y (i : Nat) : Nat := (h.srcAt b qv i).1
    let sound (p : Bool) : Prop := vtSc h.vtype = true → p = true
    let gives (i : Instr) (p : Nat → Prop) (f : Nat → Nat) (ok : Nat → Prop) : Prop :=
      VecReady i s qv u → ∃ t, exec i s = .next t ∧ OnlyHart u t ∧ VectorFrame h t.hart 0 ∧ ElemsWritten h t.hart d p f ok
    let both (i : Nat) : Prop := sound ((h.elemAt a i).2 && (h.srcAt b qv i).2)
    gives (.vand d a b k) (h.acts k) (fun i => x i &&& y i) both ∧
    gives (.vor d a b k) (h.acts k) (fun i => x i ||| y i) both ∧
    gives (.vxor d a b k) (h.acts k) (fun i => x i ^^^ y i) both ∧
    gives (.vmerge d a b k) (fun i => i < h.vl.toNat) (fun i => if (h.rk k).getLsbD i then y i else x i)
      (fun i => sound (if (h.rk k).getLsbD i then (h.srcAt b qv i).2 else (h.elemAt a i).2)) ∧
    gives (.vmv d b k) (h.acts k) y (fun i => sound (h.srcAt b qv i).2) ∧
    gives (.vbcast d b k) (h.acts k) (fun _ => y 0) (fun _ => sound (h.srcAt b qv 0).2) ∧
    (∀ n : GReg, gives (.vins d g (.g n) k) (fun i => i = (h.rg n).toNat ∧ h.acts k i) (fun _ => (h.rg g).toNat) (fun _ => True)) ∧
    (∀ n : BitVec 5, gives (.vins d g (.imm n) k) (fun i => i = n.toNat ∧ h.acts k i) (fun _ => (h.rg g).toNat) (fun _ => True)))

/-- 07 R171, 06 R142: a vector compare sets the bit of each active element in mask register d where its relation holds and clears it elsewhere: equal, not
equal, signed and unsigned less and not less of integers; of floats, a NaN makes only not-equal hold, VFCMP.lt and .le set NV for any NaN, .eq and .ne
for a signalling one. An element of an invalid scaled block counts as zero, with VINV. 07 R177: KAND, KOR, KXOR, KNOT and KMOV write bits 0 to VL − 1
of mask register d; KPOPC counts, and KFIRST finds the first of, the positions below VL at which both registers hold 1 (all ones in G[d] where there
is none). -/
def Obligations.VectorComparesAndMasks : Prop :=
  (∀ (s u : State) (d : KReg) (a : VReg) (b : Src) (k : KReg) (qv : List VWord), s.hart.shaped →
    let h := u.hart
    let w := elemWidth (vtFmt h.vtype)
    let x (i : Nat) : Nat := operandA h a i
    let y (i : Nat) : Nat := operandB h b qv i
    let gives (i : Instr) (f : Nat → Prop) (g : Nat → BitVec 6) : Prop :=
      VecReady i s qv u → ∃ t fl, exec i s = .next t ∧ OnlyHart u t ∧ MaskWritten h t.hart fl d (h.acts k) f ∧ FlagsOf fl (h.acts k) g
    let X (i : Nat) : FVal := (formOf (vtFmt h.vtype)).decode (x i)
    let Y (i : Nat) : FVal := (formOf (vtFmt h.vtype)).decode (y i)
    let un (i : Nat) : Bool := (X i).isNan || (Y i).isNan
    let sig (i : Nat) : Bool := (X i).isSig || (Y i).isSig
    let vinv (i : Nat) : BitVec 6 := if vtSc h.vtype && !((h.elemAt a i).2 && (h.srcAt b qv i).2) then flagVINV else 0
    let nv (i : Nat) (p : Bool) : BitVec 6 := (if p then flagNV else 0) ||| vinv i
    gives (.vcmpEq d a b k) (fun i => x i = y i) (fun _ => 0) ∧ gives (.vcmpNe d a b k) (fun i => x i ≠ y i) (fun _ => 0) ∧
    gives (.vcmpLt d a b k) (fun i => (BitVec.ofNat w (x i)).toInt < (BitVec.ofNat w (y i)).toInt) (fun _ => 0) ∧
    gives (.vcmpGe d a b k) (fun i => (BitVec.ofNat w (y i)).toInt ≤ (BitVec.ofNat w (x i)).toInt) (fun _ => 0) ∧
    gives (.vcmpLtn d a b k) (fun i => x i < y i) (fun _ => 0) ∧ gives (.vcmpGen d a b k) (fun i => y i ≤ x i) (fun _ => 0) ∧
    gives (.vfcmpEq d a b k) (fun i => un i = false ∧ (X i).lt (Y i) = false ∧ (Y i).lt (X i) = false) (fun i => nv i (sig i)) ∧
    gives (.vfcmpNe d a b k) (fun i => un i = true ∨ (X i).lt (Y i) = true ∨ (Y i).lt (X i) = true) (fun i => nv i (sig i)) ∧
    gives (.vfcmpLt d a b k) (fun i => un i = false ∧ (X i).lt (Y i) = true) (fun i => nv i (un i)) ∧
    gives (.vfcmpLe d a b k) (fun i => un i = false ∧ (Y i).lt (X i) = false) (fun i => nv i (un i))) ∧
  (∀ (s : State) (d a b : KReg) (g : GReg), s.hart.shaped →
    let h := s.hart
    let A (i : Nat) : Prop := (h.rk a).getLsbD i = true
    let B (i : Nat) : Prop := (h.rk b).getLsbD i = true
    let both := (List.range h.vl.toNat).filter fun i => (h.rk a).getLsbD i && (h.rk b).getLsbD i
    let gives (i : Instr) (f : Nat → Prop) : Prop :=
      VecReady i s [] s → ∃ t, exec i s = .next t ∧ OnlyHart s t ∧ MaskWritten h t.hart 0 d (fun i => i < h.vl.toNat) f
    let counts (i : Instr) (x : Word) : Prop :=
      VecReady i s [] s → ∃ t, exec i s = .next t ∧ OnlyHart s t ∧ WroteFrom s { h with ves := 0 } t (h.pc + 4) g x
    gives (.kand d a b) (fun i => A i ∧ B i) ∧ gives (.kor d a b) (fun i => A i ∨ B i) ∧
    gives (.kxor d a b) (fun i => ¬(A i ↔ B i)) ∧ gives (.knot d b) (fun i => ¬B i) ∧ gives (.kmov d b) B ∧
    counts (.kpopc g a b) (BitVec.ofNat 64 both.length) ∧
    counts (.kfirst g a b) (match both with | [] => BitVec.allOnes 64 | j :: _ => BitVec.ofNat 64 j))

/-- 07 R162, R174, 03 R57, R60: a vector float instruction computes each active element by the operation of its format, rounded once by FRM, and ORs in
the flags of its active elements. An element of an invalid scaled block counts as zero, makes the written block invalid and sets VINV (03 R64). Which
other flags such an element raises is log 55's reading, the model's choice: what a NaN among its other operands does, and with a valid product and an
invalid addend what the product does. -/
def Obligations.VectorFloat : Prop :=
  ∀ (s u : State) (d a : VReg) (b : Src) (k : KReg) (qv : List VWord), s.hart.shaped →
    let h := u.hart
    let F := formOf (vtFmt h.vtype)
    let m := modeOf h.frm.toNat
    let X (i : Nat) : FVal := F.decode (operandA h a i)
    let Y (i : Nat) : FVal := F.decode (operandB h b qv i)
    let O (i : Nat) : FVal := F.decode (operandA h d i)
    let sound (p : Bool) : Prop := vtSc h.vtype = true → p = true
    let va (i : Nat) : Bool := (h.elemAt a i).2
    let vb (i : Nat) : Bool := (h.srcAt b qv i).2
    let vd (i : Nat) : Bool := (h.elemAt d i).2
    let gives (i : Instr) (r : Nat → FOut) (good : Nat → Bool) (besides : Nat → BitVec 6) : Prop :=
      VecReady i s qv u → ∃ t fl, exec i s = .next t ∧ OnlyHart u t ∧ VectorFrame h t.hart fl ∧
        ElemsWritten h t.hart d (h.acts k) (fun i => (r i).bits) (fun i => sound (good i)) ∧
        FlagsOf fl (h.acts k) (fun i => if vtSc h.vtype = true ∧ good i = false then besides i ||| flagVINV else (r i).flags)
    let two (i : Nat) : Bool := va i && vb i
    let three (i : Nat) : Bool := va i && vb i && vd i
    let none' (_ : Nat) : BitVec 6 := 0
    let nan (i : Nat) (f : BitVec 6) : BitVec 6 := if (X i).isNan || (Y i).isNan then f else 0
    let only (v : FVal) : FVal := if v.isNan then v else F.decode 0
    let fused (i : Nat) (x : FVal → FVal) : BitVec 6 :=
      if va i && vb i then (F.fmaV m (x (X i)) (Y i) (O i)).flags
      else if (X i).isNan || (Y i).isNan || (O i).isNan then (F.fmaV m (x (only (X i))) (only (Y i)) (only (O i))).flags else 0
    gives (.vfadd d a b k) (fun i => F.addV m (X i) (Y i)) two (fun i => nan i (F.addV m (X i) (Y i)).flags) ∧
    gives (.vfsub d a b k) (fun i => F.addV m (X i) (Y i).neg) two (fun i => nan i (F.addV m (X i) (Y i).neg).flags) ∧
    gives (.vfmul d a b k) (fun i => F.mulV m (X i) (Y i)) two (fun i => nan i (F.mulV m (X i) (Y i)).flags) ∧
    gives (.vfdiv d a b k) (fun i => F.divV m (X i) (Y i)) two (fun i => nan i (F.divV m (X i) (Y i)).flags) ∧
    gives (.vfsqrt d b k) (fun i => F.sqrtV m (Y i)) vb none' ∧
    gives (.vfmin d a b k) (fun i => F.minmax false (operandA h a i) (operandB h b qv i)) two
      (fun i => nan i (F.minmax false (operandA h a i) (operandB h b qv i)).flags) ∧
    gives (.vfmax d a b k) (fun i => F.minmax true (operandA h a i) (operandB h b qv i)) two
      (fun i => nan i (F.minmax true (operandA h a i) (operandB h b qv i)).flags) ∧
    gives (.vfma d a b k) (fun i => F.fmaV m (X i) (Y i) (O i)) three (fun i => fused i id) ∧
    gives (.vfnma d a b k) (fun i => F.fmaV m (X i).neg (Y i) (O i)) three (fun i => fused i FVal.neg) ∧
    gives (.vfexp2 d b k) (fun i => F.exp2V m (operandB h b qv i)) vb none' ∧
    gives (.vfrcp d b k) (fun i => F.rcpV m (operandB h b qv i)) vb none' ∧
    gives (.vfrsq d b k) (fun i => F.rsqV m (operandB h b qv i)) vb none'

/-- 07 R176, 03 R61: VFCVT converts each active element from the source type of its encoding to VTYPE's type: between formats, from an integer, to an
integer (rounded, then saturated), and from integer to integer the low bits. Source elements lie in a group of the source's own width; one of an
invalid scaled block counts as zero, with VINV. That a source whose type is not narrow is read by its validity bits too is log 50's reading of 07 R176:
the model's choice. -/
def Obligations.VectorConvert : Prop :=
  ∀ (s u : State) (d : VReg) (src : ElemTy) (b : Src) (k : KReg) (qv : List VWord), s.hart.shaped →
    let h := u.hart
    let dst := vtFmt h.vtype
    let gs := vtG h.vtype * elemWidth src / elemWidth dst
    let e := if gs ≤ 1 then h.vlmax.toNat else h.vlmax.toNat / gs
    let good (i : Nat) : Prop := vtSc h.vtype = true → h.srcValid b e i = true
    let bad (i : Nat) : Bool := vtSc h.vtype && !h.srcValid b e i
    let x (i : Nat) : Nat := if bad i then 0 else h.srcElem b qv src (elemWidth src) e i
    let int (i : Nat) : Int := if elemSigned src then (BitVec.ofNat (elemWidth src) (x i)).toInt else (BitVec.ofNat (elemWidth src) (x i)).toNat
    let m := modeOf h.frm.toNat
    let r (i : Nat) : FOut :=
      match elemForm src, elemForm dst with
      | some f, some g =>
        if src = dst then (match f.decode (x i) with
          | .nan q => { bits := (f.nanOut 0).bits, flags := if q then flagNV else 0 }
          | _ => { bits := x i, flags := 0 })
        else g.convert m (f.decode (x i))
      | none, some g => g.ofInt m (int i)
      | some f, none => toIntSat m (elemSigned dst) (elemWidth dst) (f.decode (x i))
      | none, none => { bits := (BitVec.ofInt (elemWidth dst) (int i)).toNat, flags := 0 }
    VecReady (.vfcvt d src b k) s qv u → ∃ t fl, exec (.vfcvt d src b k) s = .next t ∧ OnlyHart u t ∧ VectorFrame h t.hart fl ∧
      ElemsWritten h t.hart d (h.acts k) (fun i => (r i).bits) good ∧
      FlagsOf fl (h.acts k) (fun i => (r i).flags ||| if bad i then flagVINV else 0)

/-- 07 R178 to R181, R183: VSLIDEUP leaves the elements below its offset, VSLIDEDN reads zero beyond VLMAX; VPERM takes the element that operand b
indexes, zero beyond VLMAX; VCOMPRESS packs the active elements of operand b, VEXPAND spreads its first elements over the active ones; VIOTA counts
the mask bits below each element; VEXTR gives one element, extended by its type, or zero beyond VLMAX. 07 R184, 03 R70, R71: the reductions start from
G[a] and take the active elements of operand b: sum modulo 2^w, maximum and minimum by the type's signedness, extended to G[d]; VFREDO adds in element
order, each step rounded; VFREDSUM adds the elements pairwise in a fixed tree over element index, whose leaf i is element i where that is active below
VL and else empty: two full nodes add, one passes unchanged, two empty ones are empty; the start comes last. -/
def Obligations.VectorPermutesAndReductions : Prop :=
  (∀ (s u : State) (d a : VReg) (b : Src) (k m : KReg) (g : GReg) (qv : List VWord), s.hart.shaped →
    let h := u.hart
    let top := h.vlmax.toNat
    let x (i : Nat) : Nat × Bool := h.elemAt a i
    let y (i : Nat) : Nat × Bool := h.srcAt b qv i
    let acting := (List.range h.vl.toNat).filter (h.maskOn k)
    let below (i : Nat) : Nat := ((List.range i).filter (h.maskOn k)).length
    let gives (i : Instr) (p : Nat → Prop) (f : Nat → Nat × Bool) : Prop :=
      VecReady i s qv u → ∃ t, exec i s = .next t ∧ OnlyHart u t ∧ VectorFrame h t.hart 0 ∧
        ElemsWritten h t.hart d p (fun i => (f i).1) (fun i => vtSc h.vtype = true → (f i).2 = true)
    let off : Nat := match b with | .g r => (h.rg r).toNat | .imm c => c.toNat | _ => 0
    gives (.vslideup d a b k) (fun i => off ≤ i ∧ h.acts k i) (fun i => x (i - off)) ∧
    gives (.vslidedn d a b k) (h.acts k) (fun i => if i + off < top then x (i + off) else (0, true)) ∧
    gives (.vperm d a b k) (h.acts k) (fun i => if (y i).1 < top then x (y i).1 else (0, true)) ∧
    gives (.vcompress d b k) (fun i => i < acting.length) (fun i => y (acting.getD i 0)) ∧
    gives (.vexpand d b k) (h.acts k) (fun i => y (below i)) ∧
    gives (.viota d m k) (h.acts k) (fun i => (((List.range i).filter fun j => (h.rk m).getLsbD j).length, true)) ∧
    (VecReady (.vextr g a b) s qv u → ∃ t, exec (.vextr g a b) s = .next t ∧ OnlyHart u t ∧
      WroteFrom u { h with ves := 0 } t (h.pc + 4) g
        (if off < top then
          (if elemSigned (vtFmt h.vtype) then (BitVec.ofNat (elemWidth (vtFmt h.vtype)) (x off).1).signExtend 64 else BitVec.ofNat 64 (x off).1)
         else 0))) ∧
  (∀ (s u : State) (d a : GReg) (b : Src) (k : KReg) (qv : List VWord), s.hart.shaped →
    let h := u.hart
    let ty := vtFmt h.vtype
    let w := elemWidth ty
    let y (i : Nat) : Nat := (h.srcAt b qv i).1
    let acting := (List.range h.vl.toNat).filter (h.maskOn k)
    let start : Nat := (h.rg a).toNat % 2 ^ w
    let num (x : Nat) : Int := if elemSigned ty then (BitVec.ofNat w x).toInt else x
    let ints (i : Instr) (p : Int → Prop) : Prop :=
      VecReady i s qv u → ∃ t z, exec i s = .next t ∧ OnlyHart u t ∧ p z ∧ WroteFrom u { h with ves := 0 } t (h.pc + 4) d (BitVec.ofInt 64 z)
    let F := formOf ty
    let m := modeOf h.frm.toNat
    let add (p q : FOut) : FOut :=
      { bits := (F.addV m (F.decode p.bits) (F.decode q.bits)).bits,
        flags := p.flags ||| q.flags ||| (F.addV m (F.decode p.bits) (F.decode q.bits)).flags }
    let leaf (i : Nat) : FOut := { bits := y i, flags := 0 }
    let first : FOut := if (F.decode start).isSig then { bits := (F.nanOut 0).bits, flags := flagNV } else { bits := start, flags := 0 }
    let floats (i : Instr) (r : FOut) : Prop :=
      VecReady i s qv u → ∃ t, exec i s = .next t ∧ OnlyHart u t ∧
        WroteFrom u { h with ves := 0, fflags := h.fflags ||| r.flags } t (h.pc + 4) d (BitVec.ofNat 64 r.bits)
    ints (.vredsum d a b k) (fun z => z = num ((BitVec.ofInt w (num start + (acting.map fun i => num (y i)).sum)).toNat)) ∧
    ints (.vredmax d a b k) (fun z => z ∈ num start :: (acting.map fun i => num (y i)) ∧ ∀ x ∈ num start :: (acting.map fun i => num (y i)), x ≤ z) ∧
    ints (.vredmin d a b k) (fun z => z ∈ num start :: (acting.map fun i => num (y i)) ∧ ∀ x ∈ num start :: (acting.map fun i => num (y i)), z ≤ x) ∧
    floats (.vfredo d a b k) (acting.foldl (fun r i => add r (leaf i)) first) ∧
    (VecReady (.vfredsum d a b k) s qv u → ∃ t r, exec (.vfredsum d a b k) s = .next t ∧ OnlyHart u t ∧
      WroteFrom u { h with ves := 0, fflags := h.fflags ||| r.flags } t (h.pc + 4) d (BitVec.ofNat 64 r.bits) ∧
      (acting = [] → r = first) ∧ (∀ i, acting = [i] → r = add (leaf i) first) ∧
      (k = 0 → h.vl.toNat = 3 → r = add (add (add (leaf 0) (leaf 1)) (leaf 2)) first) ∧
      (∀ node : Nat → Nat → Option FOut, (∀ i, node 0 i = if i < h.vl.toNat && h.maskOn k i then some (leaf i) else none) →
        (∀ l i, node (l + 1) i = match node l (2 * i), node l (2 * i + 1) with
          | some p, some q => some (add p q) | some p, none => some p | none, q => q) →
        ∀ l, h.vl.toNat ≤ 2 ^ l → r = match node l 0 with | some p => add p first | none => first)))

/-- 01 R23, R24, 11 R274: a queue operand takes the first G entries of its load-data queue, in order, and leaves the others; of a queue that a stream
engine binds it takes the engine's entries, waits while they are too few, and finds zero entries once the stream has ended; an instruction of 8
registers takes entries as they come, since a queue holds four (log 63, the model's choice); a queue with too few
counted entries makes the instruction trap with cause 0x01. 01 R18, 02 R41, R43 (log 5): while vector instructions may lag, one that writes no g
register is queued with the values captured at its issue and the access side goes on; its retirement, in order, has the effect it would have had on
vector registers, masks, validity, flags and dirty bits, and sets VES to 0. 01 R19, 08 R201, R202: while a VLDZ or VSTZ is queued, an instruction that names
its G[p], or uses VL where no SETVL has replaced it, waits; another goes on. The retirement of a VLDZ or VSTZ writes memory, G[p] and that VL. -/
def Obligations.VectorQueues : Prop :=
  (∀ (s : State) (n : BitVec 2) (d : VReg),
    let h := s.hart
    let g := vtG h.vtype
    let l := h.q.get n.toFin
    (boundEngine s s.cur n.toNat = none →
      ∃ t, consume s (some n) = .ok (l.take g, t) ∧ OnlyHart s t ∧ t.hart = { h with q := h.q.set n.toNat (l.drop g) n.isLt }) ∧
    (∀ (e : Engine) (x : EngineState), boundEngine s s.cur n.toNat = some (e, x) →
      let all : List (VWord × BitVec 6) := x.taken ++ x.entries.zip x.entryFlags
      (all.length < g → x.done = false → consume s (some n) = .error (if 4 < g
        then withEngine s s.cur.tile e { x with taken := all, entries := [], entryFlags := [] } else s)) ∧
      (g ≤ all.length ∨ x.done = true → ∃ t, consume s (some n) = .ok (((all.map Prod.fst) ++ List.replicate g 0).take g, t) ∧
        engineAt t s.cur.tile e = some { x with
          taken := x.taken.drop g, entries := x.entries.drop (g - x.taken.length), entryFlags := x.entryFlags.drop (g - x.taken.length) } ∧
        ∃ fl, t.hart = { h with fflags := h.fflags ||| fl } ∧ FlagsOf fl (fun j => j < g) (fun j => ((all.map Prod.snd)[j]?).getD 0))) ∧
    (s.hart.vq = [] → boundEngine s s.cur n.toNat = none → l.length < g → h.ill = false → (h.level = .s ∨ (h.vownV = true ∧ h.vownId = h.ctxid)) →
      exec (.vmv d (.q n) 0) s =
        .next (trapNow s { code := 0x01, sub := 0, tval := (Instr.vmv d (.q n) 0).tval, unres := false }))) ∧
  (∀ (s : State) (d a : VReg) (b : GReg) (k : KReg), s.relaxed = true → s.hart.vq.length < 64 → vecTrap (.vadd d a (.g b) k) s = none →
    let h := s.hart
    let i : Instr := .vadd d a (.g b) k
    (∃ t x, exec i s = .next t ∧ t = (s.modTile fun y => { y with issued := y.issued + 1 }).setHart t.hart ∧
      t.hart = { h with pc := h.pc + 4, vq := h.vq ++ [x] } ∧ x.instr = i ∧ x.vl = h.vl ∧ x.vtype = h.vtype ∧ x.frm = h.frm ∧ x.vmf = h.vmf ∧ x.pc = h.pc ∧ ∀ r : Fin 32, x.g.get r = h.rg (BitVec.ofFin r)) ∧
    (∀ (v : State) (rest : List Move) (x : Queued) (l : List Queued) (j : HartId), v.events = .event (.vectorInstructionRetirement j) :: rest →
      (getHart v j).vq = x :: l → coreOf x.instr = none → (getHart v j).badStore = [] → (getHart v j).replay = none → (getHart v j).replayed = none →
        ∃ t, exec .vectorInstructionRetirement v = .next t ∧ t.events = rest ∧ t.mem = v.mem ∧ (∀ m, m ≠ j → getHart t m = getHart v m) ∧
          (let g := getHart t j
           let q := x.inputs (getHart v j)
           let r := vecCore x.instr (q.2.install x) q.1
           g = { q.2 with vq := l, ves := 0, v := r.v, val := r.val, k := r.k, fflags := r.fflags, vdirty := r.vdirty }))) ∧
  (∀ (s : State) (d : VReg) (a p : GReg) (k : KReg) (off : BitVec 32) (x : Queued),
    x.instr = .vldz d a p k off ∨ x.instr = .vstz d a p k off →
    (∀ (b c r : GReg), s.hart.vq = [x] →
      (∀ i ∈ [Instr.add r p c, .add r b p, .add p b c, .ldd r p 0, .std p b 0], awaitsQueued i s = true) ∧
      (r ≠ p → b ≠ p → c ≠ p → awaitsQueued (.add r b c) s = false ∧ awaitsQueued (.setvl r b c) s = false ∧ awaitsQueued (.vadd d d (.g b) k) s = x.setsVl ∧
        awaitsQueued (.crr r 0x300) s = x.setsVl)) ∧
    (∀ (rest : List Move) (l : List Queued) (j : HartId) (core : Instr → State → Ended) (n : Nat) (u : State),
      s.events = .event (.vectorInstructionRetirement j) :: rest → (getHart s j).vq = x :: l → (getHart s j).badStore = [] → (getHart s j).replay = none →
      (getHart s j).replayed = none → coreOf x.instr = some core → core x.instr (staged { s with events := rest } j x) = .done n u →
      ∃ t, exec .vectorInstructionRetirement s = .next t ∧ t.mem = u.mem ∧ (getHart t j).vq = l ∧ (getHart t j).pc = (getHart s j).pc ∧
        (getHart t j).vl = (if x.setsVl then u.hart.vl else (getHart s j).vl) ∧
        ∀ r, (getHart t j).rg r = if r = p then u.hart.rg p else (getHart s j).rg r))

/-- 08 R186, R188, R192, R195, 01 R23, 02 R43: the vector loads of elements that are stored each on its own. Each active element from VES on is read at
its address (unit stride: 128 bytes times the offset and one element after another; a stride in a register or the instruction; an offset from an index
vector), decoded by VMF, and written to its group, or, from VES 0, with zeros between, to new entries at the tail of a queue. VES becomes 0; memory is
unchanged; VLD.sc takes a ticket for each element (04 R88). 08 R190, 04 R79, 15 R311: in every form, a vector load that meets an element it may not
read, by its alignment or its translation, performs the elements before it, with their flags and tickets, and traps with VES at that element, in the
state a later run resumes from: a load to a queue has appended its entries. The cached translation that refuses the element is dropped (16 R338). -/
def Obligations.VectorLoads : Prop :=
  (∀ (s : State) (d x : VReg) (q : BitVec 2) (a b : GReg) (off : BitVec 5) (k : KReg) (st : BitVec 32) (pa : Nat → Nat),
    Calm s → s.hart.shaped → s.hart.vq = [] → packedType (vmfEnc s.hart.vmf) = none →
    let h := s.hart
    let w := h.storedWidth
    let n := elemBytes w
    let unit (i : Nat) : Word := h.rg a + off.signExtend 64 * 128 + BitVec.ofNat 64 (i * w / 8)
    let apart (by' : Word) (i : Nat) : Word := h.rg a + BitVec.ofNat 64 i * by'
    let indexed (i : Nat) : Word := h.rg a + BitVec.ofNat 64 (h.indexElem x i)
    let read (i : Nat) : FOut := decodeElem h (if w = 4 then memRead s.mem 1 (pa i) / 16 ^ (i % 2) % 16 else memRead s.mem n (pa i))
    let count : Nat := ((List.range h.vl.toNat).filter fun j => decide (h.ves.toNat ≤ j) && h.maskOn k j).length
    let loads (i : Instr) (va : Nat → Word) (len tickets : Nat) : Prop :=
      vecTrap i s = none → (∀ j, h.performs k j → Plain s .load n (va j) (pa j)) →
      ∃ t fl, exec i s = .next t ∧ t = { s.setHart t.hart with ticket := s.ticket + BitVec.ofNat 64 tickets } ∧ VectorFrame h t.hart fl len ∧
        ElemsWritten h t.hart d (h.performs k) (fun j => (read j).bits) (fun _ => True) ∧ FlagsOf fl (h.performs k) (fun j => (read j).flags)
    let queues (i : Instr) (va : Nat → Word) : Prop :=
      vecTrap i s = none → h.ves = 0 → h.openTail = none → (∀ j, h.performs k j → Plain s .load n (va j) (pa j)) →
      ∃ t fl l, exec i s = .next t ∧ OnlyHart s t ∧ l.length = vtG h.vtype ∧
        t.hart = { h with pc := h.pc + 4, fflags := h.fflags ||| fl, q := h.q.set q.toNat (h.queue q ++ l) q.isLt } ∧
        FlagsOf fl (h.performs k) (fun j => (read j).flags) ∧
        (∀ j, j < h.vlmax.toNat → h.performs k j →
          fld (l.getD (j / h.perReg) 0).toNat (j % h.perReg * h.shape.w) h.shape.w = (read j).bits % 2 ^ h.shape.w) ∧
        (∀ j, j < h.vlmax.toNat → ¬h.performs k j → fld (l.getD (j / h.perReg) 0).toNat (j % h.perReg * h.shape.w) h.shape.w = 0)
    loads (.vld d a off k) unit 4 0 ∧ loads (.vldSc d a off k) unit 4 count ∧ loads (.vlds d a b k) (apart (h.rg b)) 4 0 ∧
    loads (.vldx d a x k) indexed 4 0 ∧ loads (.vldsImmediate d a k st) (apart (st.signExtend 64)) 8 0 ∧
    queues (.vldq q a off k) unit ∧ queues (.vldqStrided q a b k) (apart (h.rg b)) ∧ queues (.vldqIndexed q a x k) indexed) ∧
  (∀ (s : State) (d x : VReg) (q : BitVec 2) (a b : GReg) (off : BitVec 5) (k : KReg) (st : BitVec 32) (pa : Nat → Nat) (j : Nat) (c : TrapRec),
    Calm s → s.hart.shaped → s.hart.vq = [] → packedType (vmfEnc s.hart.vmf) = none → s.hart.performs k j →
    let h := s.hart
    let w := h.storedWidth
    let n := elemBytes w
    let unit (i : Nat) : Word := h.rg a + off.signExtend 64 * 128 + BitVec.ofNat 64 (i * w / 8)
    let apart (by' : Word) (i : Nat) : Word := h.rg a + BitVec.ofNat 64 i * by'
    let indexed (i : Nat) : Word := h.rg a + BitVec.ofNat 64 (h.indexElem x i)
    let read (i : Nat) : FOut := decodeElem h (if w = 4 then memRead s.mem 1 (pa i) / 16 ^ (i % 2) % 16 else memRead s.mem n (pa i))
    let before (i : Nat) : Prop := h.performs k i ∧ i < j
    let count : Nat := ((List.range j).filter fun i => decide (h.ves.toNat ≤ i) && h.maskOn k i).length
    let meets (va : Nat → Word) : Prop := (∀ i, before i → Plain s .load n (va i) (pa i)) ∧
      (((va j).toNat % n ≠ 0 ∧ c = { code := 0x04, sub := 0, tval := va j, unres := false }) ∨
       ((va j).toNat % n = 0 ∧ translate s (hartSpace s s.cur) .load (va j) = .trap c ∧ c.code ≠ 0x0E))
    let left (va : Nat → Word) : State := if (va j).toNat % n = 0 then dropTrans s (hartSpace s s.cur) (va j).toNat else s
    let stops (i : Instr) (va : Nat → Word) (tickets : Nat) : Prop := vecTrap i s = none → meets va →
      ∃ g fl, exec i s = .next (trapNow (({ left va with ticket := s.ticket + BitVec.ofNat 64 tickets } : State).setHart g) c) ∧
        g = { h with ves := BitVec.ofNat 16 j, fflags := h.fflags ||| fl, v := g.v, val := g.val, vdirty := g.vdirty } ∧
        ElemsWritten h g d before (fun i => (read i).bits) (fun _ => True) ∧ FlagsOf fl before (fun i => (read i).flags)
    let queueStops (i : Instr) (va : Nat → Word) : Prop := vecTrap i s = none → h.ves = 0 → h.openTail = none → meets va →
      ∃ fl l, l.length = vtG h.vtype ∧
        exec i s = .next (trapNow ((left va).setHart { h with
          ves := BitVec.ofNat 16 j, fflags := h.fflags ||| fl, q := h.q.set q.toNat (h.queue q ++ l) q.isLt,
          openTail := if j = 0 then some (q, h.pc, h.ctxid) else none }) c) ∧
        FlagsOf fl before (fun i => (read i).flags) ∧
        (∀ i, i < h.vlmax.toNat → before i →
          fld (l.getD (i / h.perReg) 0).toNat (i % h.perReg * h.shape.w) h.shape.w = (read i).bits % 2 ^ h.shape.w) ∧
        (∀ i, i < h.vlmax.toNat → ¬before i → fld (l.getD (i / h.perReg) 0).toNat (i % h.perReg * h.shape.w) h.shape.w = 0)
    stops (.vld d a off k) unit 0 ∧ stops (.vldSc d a off k) unit count ∧ stops (.vlds d a b k) (apart (h.rg b)) 0 ∧
    stops (.vldx d a x k) indexed 0 ∧ stops (.vldsImmediate d a k st) (apart (st.signExtend 64)) 0 ∧
    queueStops (.vldq q a off k) unit ∧ queueStops (.vldqStrided q a b k) (apart (h.rg b)) ∧ queueStops (.vldqIndexed q a x k) indexed)

/-- 08 R188, R189, R196, 03 R54: the vector stores of elements each on its own write each active element from VES on, encoded by VMF, lowest byte first;
where elements overlap the highest-numbered one stays; a 4-bit element leaves its byte's other half. VES becomes 0; VST.sc is performed at once, with
a ticket for each element (04 R88). 08 R190: in every form, a vector store that meets an element it may not write, by its alignment or its translation,
stores the elements before it, with their flags and tickets, and traps with VES at that element. 08 R205: VCOPY moves the active elements from VES on from G[a] to G[d], each read before the first write, without
conversion; VFILL writes the low bits of G[p] to each. No register changes but VES and the pc. -/
def Obligations.VectorStores : Prop :=
  (∀ (s : State) (d x : VReg) (a b : GReg) (off : BitVec 5) (k : KReg) (st : BitVec 32) (pa : Nat → Nat),
    Calm s → s.hart.shaped → s.hart.vq = [] → packedType (vmfEnc s.hart.vmf) = none →
    let h := s.hart
    let w := h.storedWidth
    let n := elemBytes w
    let unit (i : Nat) : Word := h.rg a + off.signExtend 64 * 128 + BitVec.ofNat 64 (i * w / 8)
    let apart (by' : Word) (i : Nat) : Word := h.rg a + BitVec.ofNat 64 i * by'
    let indexed (i : Nat) : Word := h.rg a + BitVec.ofNat 64 (h.indexElem x i)
    let out (i : Nat) : FOut :=
      if vtSc h.vtype then { bits := if h.valid d h.perReg i then (h.elemAt d i).1 else 0, flags := 0 }
      else encodeElem h (vtFmt h.vtype) (h.elemAt d i).1
    let count (l : Nat) : Nat := ((List.range l).filter fun j => decide (h.ves.toNat ≤ j) && h.maskOn k j).length
    let stores (i : Instr) (va : Nat → Word) (len tickets : Nat) : Prop :=
      vecTrap i s = none → (∀ j, h.performs k j → Plain s .store n (va j) (pa j)) →
      (w = 4 ∨ i = .vst d a off k → Apart w (h.performs k) pa) →
      ∃ t fl, exec i s = .next t ∧ t = { s.setHart t.hart with mem := t.mem, ticket := s.ticket + BitVec.ofNat 64 tickets } ∧
        t.hart = { h with pc := h.pc + BitVec.ofNat 64 len, ves := 0, fflags := h.fflags ||| fl } ∧
        FlagsOf fl (h.performs k) (fun j => (out j).flags) ∧
        StoredElems s t w (h.performs k) pa (fun j => (out j).bits)
    let stops (i : Instr) (va : Nat → Word) (j tickets : Nat) (c : TrapRec) : Prop :=
      vecTrap i s = none → h.performs k j →
      let before (i : Nat) : Prop := h.performs k i ∧ i < j
      (∀ i, before i → Plain s .store n (va i) (pa i)) → (w = 4 ∨ i = .vst d a off k → Apart w before pa) →
      (((va j).toNat % n ≠ 0 ∧ c = { code := 0x04, sub := 0, tval := va j, unres := false }) ∨
       ((va j).toNat % n = 0 ∧ translate s (hartSpace s s.cur) .store (va j) = .trap c ∧ c.code ≠ 0x0E)) →
      let left : State := if (va j).toNat % n = 0 then dropTrans s (hartSpace s s.cur) (va j).toNat else s
      ∃ t fl, exec i s = .next (trapNow t c) ∧
        t = { left.setHart t.hart with mem := t.mem, ticket := s.ticket + BitVec.ofNat 64 tickets } ∧
        t.hart = { h with ves := BitVec.ofNat 16 j, fflags := h.fflags ||| fl } ∧ FlagsOf fl before (fun i => (out i).flags) ∧
        StoredElems s t w before pa (fun i => (out i).bits)
    stores (.vst d a off k) unit 4 0 ∧
    ((∀ m, Memory.wf m = true → ∀ j, h.performs k j → Plain { s with mem := m } .store n (unit j) (pa j)) →
      stores (.vstSc d a off k) unit 4 (count h.vl.toNat)) ∧
    stores (.vsts d a b k) (apart (h.rg b)) 4 0 ∧ stores (.vstx d a x k) indexed 4 0 ∧
    stores (.vstsImmediate d a k st) (apart (st.signExtend 64)) 8 0 ∧
    (∀ j c, stops (.vst d a off k) unit j 0 c ∧ stops (.vsts d a b k) (apart (h.rg b)) j 0 c ∧ stops (.vstx d a x k) indexed j 0 c ∧
      stops (.vstsImmediate d a k st) (apart (st.signExtend 64)) j 0 c ∧
      ((∀ m, Memory.wf m = true → (∀ i, h.performs k i → i < j → Plain { s with mem := m } .store n (unit i) (pa i)) ∧
          translate { s with mem := m } (hartSpace s s.cur) .store (unit j) = translate s (hartSpace s s.cur) .store (unit j)) →
        stops (.vstSc d a off k) unit j (count j) c))) ∧
  (∀ (s : State) (d a p : GReg) (k : KReg) (pa pd : Nat → Nat), Calm s → s.hart.shaped → s.hart.vq = [] →
    let h := s.hart
    let w := elemWidth (vtFmt h.vtype)
    let n := elemBytes w
    let at' (r : GReg) (i : Nat) : Word := h.rg r + BitVec.ofNat 64 (i * w / 8)
    let writes (i : Instr) (x : Nat → Nat) : Prop :=
      vecTrap i s = none → (∀ j, h.performs k j → Plain s .store n (at' d j) (pd j)) → Apart w (h.performs k) pd →
      ∃ t, exec i s = .next t ∧ t = { s.setHart t.hart with mem := t.mem } ∧ t.hart = { h with pc := h.pc + 8, ves := 0 } ∧
        StoredElems s t w (h.performs k) pd x
    ((∀ j, h.performs k j → Plain s .load n (at' a j) (pa j)) → writes (.vcopy d a k)
      (fun j => if w = 4 then memRead s.mem 1 (pa j) / 16 ^ (j % 2) % 16 else memRead s.mem n (pa j))) ∧
    writes (.vfill d p k) (fun _ => (h.rg p).toNat))

/-- 08 R195, R196, R197, 03 R58, R61: with ENC 0x1F bits move unchanged; without a scale an element is converted between the stored type and the register
type; with SMODE 1 a load rounds the product with VMFS once by FRM, a store the quotient once by RND. VMF.SAT clamps integers and keeps an overflow
of an IEEE format finite, with its flags. That it clamps between integers of equal width too is log 50's reading: the model's choice. 08 R198, R199, 03 R63: a load of packed MX records reads element i of block i div 32 after the block's scale byte. For a scaled type the codes
go to the group and the scales to the register after it, a block of scale 0xFF becoming invalid; for an unscaled one each element is the product with
the scale, rounded by FRM, or zero with VINV under scale 0xFF. A store of packed MX records writes the active elements from VES on and each of their
blocks' scale byte, and no other byte or nibble: of a scaled type the codes and the scale, or code 0 and scale 0xFF for an invalid block or one of scale
0xFF; of an unscaled one each element divided by the scale, rounded by RND, where the scale puts the largest exponent of the block's active elements
at the largest of the format, is 127 for a block of zeros, and is 0xFF, with code 0 and NV, for one with a NaN or an infinity. -/
def Obligations.FormatsAndPackedLoads : Prop :=
  (∀ (h : Hart) (x : Nat),
    let fmt := vtFmt h.vtype
    let enc := vmfEnc h.vmf
    let ty := elemOf enc
    let loaded := decodeElem h x
    let stored := encodeElem h fmt x
    let scale := fp32Form.decode h.vmfs.toNat
    (enc = 0x1F → loaded = { bits := x, flags := 0 } ∧ stored = { bits := x, flags := 0 }) ∧
    (enc ≤ 0x0F → vtSc h.vtype = false → vmfSmode h.vmf = 0 → loaded = convElem (modeOf h.frm.toNat) ty fmt x ∧
      (vmfSat h.vmf = false → stored = convElem (modeOf (vmfRnd h.vmf)) fmt ty x) ∧
      (vmfSat h.vmf = true → elemForm fmt = none → elemForm ty = none → elemWidth ty ≤ elemWidth fmt →
        let v : Int := if elemSigned fmt then (BitVec.ofNat (elemWidth fmt) x).toInt else (BitVec.ofNat (elemWidth fmt) x).toNat
        let lo : Int := if elemSigned ty then -(2 ^ (elemWidth ty - 1)) else 0
        let hi : Int := if elemSigned ty then 2 ^ (elemWidth ty - 1) - 1 else 2 ^ elemWidth ty - 1
        stored = { bits := (BitVec.ofInt (elemWidth ty) (max lo (min v hi))).toNat, flags := 0 }) ∧
      (vmfSat h.vmf = true → elemForm fmt ≠ none ∨ elemForm ty ≠ none →
        let r := convElem (modeOf (vmfRnd h.vmf)) fmt ty x
        (∀ f, elemForm ty = some f → f.narrow = false → r.flags.getLsbD 1 = true →
          stored = { bits := r.bits / 2 ^ (f.width - 1) * 2 ^ (f.width - 1) + (2 ^ f.ebits - 1) * 2 ^ f.fbits - 1, flags := r.flags }) ∧
        ((∀ f, elemForm ty = some f → f.narrow = true ∨ r.flags.getLsbD 1 = false) → stored = r))) ∧
    (enc ≤ 0x0F → vtSc h.vtype = false → vmfSmode h.vmf = 1 → ∀ f g, elemForm ty = some f → elemForm fmt = some g →
      ∀ n m e n2 m2 e2, scale = .fin n2 m2 e2 →
        (f.decode x = .fin n m e → loaded = g.round (modeOf h.frm.toNat) (n != n2) (m * m2) (e + e2) false) ∧
        (g.decode x = .fin n m e → m2 = 2 ^ 23 →
          let r := f.round (modeOf (vmfRnd h.vmf)) (n != n2) m (e - e2 - 23) false
          stored.bits = if vmfSat h.vmf = true ∧ f.narrow = false ∧ r.flags.getLsbD 1 = true
            then (if n != n2 then 2 ^ (f.width - 1) else 0) + (2 ^ f.ebits - 1) * 2 ^ f.fbits - 1 else r.bits))) ∧
  (∀ (s : State) (d : VReg) (a : GReg) (off : BitVec 5) (k : KReg) (ty : ElemTy) (len : Nat) (pa ps : Nat → Nat),
    Calm s → s.hart.shaped → s.hart.vq = [] → packedType (vmfEnc s.hart.vmf) = some (ty, len) → vecTrap (.vld d a off k) s = none →
    let h := s.hart
    let w := elemWidth ty
    let rec' (b : Nat) : Word := h.rg a + off.signExtend 64 * 128 + BitVec.ofNat 64 (b * len)
    let scale (b : Nat) : Nat := (memGet s.mem (ps b)).toNat
    let code (i : Nat) : Nat := if w = 4 then memRead s.mem 1 (pa i) / 16 ^ (i % 2) % 16 else memRead s.mem 1 (pa i)
    (∀ i, h.performs k i → Plain s .load 1 (rec' (i / 32)) (ps (i / 32)) ∧
      Plain s .load 1 (rec' (i / 32) + 1 + BitVec.ofNat 64 (i % 32 * w / 8)) (pa i)) →
    (vtSc h.vtype = true → ∃ t, exec (.vld d a off k) s = .next t ∧ OnlyHart s t ∧ VectorFrame h t.hart 0 ∧
      (∀ i, i < h.shape.vlmax → h.performs k i → t.hart.elem d h.shape.w h.shape.e i = code i % 2 ^ h.shape.w) ∧
      (∀ i, i < h.shape.vlmax → ¬h.performs k i → t.hart.elem d h.shape.w h.shape.e i = h.elem d h.shape.w h.shape.e i) ∧
      (∀ i, h.performs k i → (t.hart.valid d h.shape.e i = true ↔ scale (i / 32) ≠ 0xFF)) ∧
      (∀ i, h.performs k i → fld (t.hart.rv (regPlus d (vtG h.vtype))).toNat (8 * (i / 32)) 8 = scale (i / 32))) ∧
    (vtSc h.vtype = false → ∃ t fl, exec (.vld d a off k) s = .next t ∧ OnlyHart s t ∧ VectorFrame h t.hart fl ∧
      ElemsWritten h t.hart d (h.performs k)
        (fun i => if scale (i / 32) = 0xFF then 0
          else (roundTo h.mode (vtFmt h.vtype) (byScale (elemVal ty (code i)) (scale (i / 32)) false)).bits) (fun _ => True) ∧
      FlagsOf fl (h.performs k) (fun i => if scale (i / 32) = 0xFF then flagVINV
          else (roundTo h.mode (vtFmt h.vtype) (byScale (elemVal ty (code i)) (scale (i / 32)) false)).flags))) ∧
  (∀ (s : State) (d : VReg) (a : GReg) (off : BitVec 5) (k : KReg) (ty : ElemTy) (len : Nat) (pa ps : Nat → Nat),
    Calm s → s.hart.shaped → s.hart.vq = [] → packedType (vmfEnc s.hart.vmf) = some (ty, len) → vecTrap (.vst d a off k) s = none →
    let h := s.hart
    let w := elemWidth ty
    let rec' (b : Nat) : Word := h.rg a + off.signExtend 64 * 128 + BitVec.ofNat 64 (b * len)
    let P (i : Nat) : Prop := h.performs k i
    (∀ i, P i → Plain s .store 1 (rec' (i / 32)) (ps (i / 32)) ∧
      Plain s .store 1 (rec' (i / 32) + 1 + BitVec.ofNat 64 (i % 32 * w / 8)) (pa i)) →
    (∀ i j, P i → P j → ps (i / 32) ≠ pa j ∧ (ps (i / 32) = ps (j / 32) ↔ i / 32 = j / 32) ∧
      (pa i = pa j ↔ if w = 4 then i / 2 = j / 2 else i = j)) →
    let stores (scale : Nat → Nat) (code : Nat → Nat) (flags : Nat → BitVec 6) : Prop :=
      ∃ t fl, exec (.vst d a off k) s = .next t ∧ t = { s.setHart t.hart with mem := t.mem } ∧
        t.hart = { h with pc := h.pc + 4, ves := 0, fflags := h.fflags ||| fl } ∧ FlagsOf fl P flags ∧
        (∀ i, P i → memGet t.mem (ps (i / 32)) = BitVec.ofNat 8 (scale (i / 32)) ∧
          (w ≠ 4 → memGet t.mem (pa i) = BitVec.ofNat 8 (code i)) ∧
          (w = 4 → (memGet t.mem (pa i)).toNat / 16 ^ (i % 2) % 16 = code i % 16 ∧
            ((∀ j, P j → j / 2 = i / 2 → j = i) →
              (memGet t.mem (pa i)).toNat / 16 ^ (1 - i % 2) % 16 = (memGet s.mem (pa i)).toNat / 16 ^ (1 - i % 2) % 16))) ∧
        ∀ c, (∀ i, P i → c ≠ pa i ∧ c ≠ ps (i / 32)) → memGet t.mem c = memGet s.mem c
    (vtSc h.vtype = true →
      let byte (b : Nat) : Nat := fld (h.rv (regPlus d (vtG h.vtype))).toNat (8 * b) 8
      let sound (b : Nat) : Bool := h.valid d h.perReg (32 * b) && byte b != 0xFF
      stores (fun b => if sound b then byte b else 0xFF) (fun i => if sound (i / 32) then (h.elemAt d i).1 else 0) (fun _ => 0)) ∧
    (vtSc h.vtype = false → ∀ scale : Nat → Nat,
      let v (i : Nat) : FVal := (formOf (vtFmt h.vtype)).decode (h.elemAt d i).1
      let mine (b i : Nat) : Prop := h.acts k i ∧ i / 32 = b
      let odd (b : Nat) : Prop := ∃ i, mine b i ∧ ∀ n m e, v i ≠ .fin n m e
      let emax : Int := match ty with | .e4m3 => 8 | .e5m2 => 15 | _ => 2
      (∀ i, P i → let b := i / 32
        (odd b → scale b = 0xFF) ∧ (¬odd b → (∀ j, mine b j → ∃ n e, v j = .fin n 0 e) → scale b = 127) ∧
        (∀ top : Int, ¬odd b → (∃ j n m e, mine b j ∧ v j = .fin n m e ∧ 0 < m ∧ e + Nat.log2 m = top) →
          (∀ j n m e, mine b j → v j = .fin n m e → 0 < m → e + Nat.log2 m ≤ top) →
          scale b = (max 0 (min 254 (top - emax + 127))).toNat)) →
      let out (i : Nat) : FOut := if scale (i / 32) = 0xFF then { bits := 0, flags := flagNV }
        else (formOf ty).convert (modeOf (vmfRnd h.vmf)) (match v i with
          | .fin n m e => .fin n m (e - ((scale (i / 32) : Int) - 127)) | x => x)
      stores scale (fun i => (out i).bits) (fun i => (out i).flags)))

/-- 08 R206: the vector atomics perform, for each active element from VES on, an atomic at its address by the type's width and signedness; the returning
ones write the old values to the group of the operands, the posting ones (operands at v0) write no register. Stated for elements that share no byte. -/
def Obligations.VectorAtomics : Prop :=
  ∀ (s : State) (d : VReg) (a : GReg) (b : VAddr) (k : KReg) (pa : Nat → Nat), Calm s → s.hart.shaped → s.hart.vq = [] →
    let h := s.hart
    let ty := vtFmt h.vtype
    let w := elemWidth ty
    let n := w / 8
    let va (i : Nat) : Word := match b with
      | .unit off => h.rg a + off.signExtend 64 * 128 + BitVec.ofNat 64 (i * n)
      | .strided r => h.rg a + BitVec.ofNat 64 i * h.rg r
      | .indexed v => h.rg a + BitVec.ofNat 64 (h.indexElem v i)
    let old (i : Nat) : BitVec w := BitVec.ofNat w (memRead s.mem n (pa i))
    let opnd (r : VReg) (i : Nat) : BitVec w := BitVec.ofNat w (h.elemAt r i).1
    let less (x y : BitVec w) : Prop := if elemSigned ty then x.toInt < y.toInt else x.toNat < y.toNat
    let reach : Prop :=
      Disjoint' (h.performs k) n pa ∧
      ∀ m, Memory.wf m = true → (∀ c, (∀ j, h.performs k j → ¬inElem pa n j c) → memGet m c = memGet s.mem c) →
        ∀ j, h.performs k j → Plain { s with mem := m } .store n (va j) (pa j)
    let both (ret post : Instr) (f : BitVec w → BitVec w → BitVec w → Prop) : Prop :=
      (vecTrap ret s = none → reach → ∃ (t : State) (x : Nat → BitVec w), exec ret s = .next t ∧ t = { s.setHart t.hart with mem := t.mem } ∧ VectorFrame h t.hart 0 ∧
        (∀ j, f (old j) (opnd d j) (x j)) ∧ Stored s t (h.performs k) n pa (fun j => (x j).toNat) ∧
        ElemsWritten h t.hart d (h.performs k) (fun j => (old j).toNat) (fun _ => True)) ∧
      (vecTrap post s = none → reach → ∃ (t : State) (x : Nat → BitVec w), exec post s = .next t ∧ t = { s.setHart t.hart with mem := t.mem } ∧
        t.hart = { h with pc := h.pc + 4, ves := 0 } ∧
        (∀ j, f (old j) (opnd 0 j) (x j)) ∧ Stored s t (h.performs k) n pa (fun j => (x j).toNat))
    both (.vamoadd d a b k) (.vpostadd a b k) (fun x y z => z = x + y) ∧ both (.vamoand d a b k) (.vpostand a b k) (fun x y z => z = x &&& y) ∧
    both (.vamoor d a b k) (.vpostor a b k) (fun x y z => z = x ||| y) ∧ both (.vamoxor d a b k) (.vpostxor a b k) (fun x y z => z = x ^^^ y) ∧
    both (.vamomin d a b k) (.vpostmin a b k) (fun x y z => (less x y → z = x) ∧ (¬less x y → z = y)) ∧
    both (.vamomax d a b k) (.vpostmax a b k) (fun x y z => (less x y → z = y) ∧ (¬less x y → z = x)) ∧
    both (.vamoswp d a b k) (.vpostswp a b k) (fun _ y z => z = y)

/-- 08 R207, R208: VCAPP at a queue object whose reserved slots are all published adds the number n of active elements to TAIL and COUNT and writes their
indices to the next n slots, modulo the capacity; every other byte is kept. Where COUNT passes a multiple of VLMAX, ULIPEND.CAPP is set. Without
active elements it touches no memory. It acts at U and writes: an object not aligned to 128 bytes traps with cause 0x04, one that a store may not
reach with that store's fault, one whose capacity is no power of two or that is not in one page with cause 0x01. 08 R200 to R203, 03 R65 to R68: VLDZ decodes EXFP8
blocks one after another until their bytes reach the bound in G[p] or VL is filled, writes the active elements converted to the type, sets VL to the
elements decoded and G[p] to the bytes consumed; a block that does not decode ends it with bit 63 of G[p] set. VSTZ writes the blocks of VL elements,
inactive ones as zero, in the same way; each raises the flags of the conversions of its active elements. 03 R65 to R68: a block is a header that names a
table, 32 nibbles of sign and fraction, and the exponent tokens in the table's canonical prefix code as a bit stream with zero padding; a header with
a reserved bit, an invalid table, a token that no code begins and a padding bit of 1 are decode errors; a store takes the valid table that codes every
symbol in the fewest bits, the lowest-numbered on a tie, and fails where there is none. That a VCAPP without active elements passes whatever its
address holds is log 54's reading: the model's choice. -/
def Obligations.CompressedMemory : Prop :=
  (∀ (s : State) (a : GReg) (k : KReg) (pa : Nat), Calm s → s.hart.shaped → Settled s → s.hart.capp = none → vecTrap (.vcapp a k) s = none →
    let h := s.hart
    let va := h.rg a
    let sp : Space := { hartSpace s s.cur with level := .u }
    let els := (List.range h.vl.toNat).filter (h.maskOn k)
    let n := els.length
    let tail := memRead s.mem 8 pa
    let cap := memRead s.mem 8 (pa + 16)
    (els = [] → ∃ t, exec (.vcapp a k) s = .next t ∧ OnlyHart s t ∧ t.hart = { h with pc := h.pc + 4, ves := 0 }) ∧
    (els ≠ [] → va.toNat % 128 ≠ 0 → exec (.vcapp a k) s =
      .next (trapNow s { code := 0x04, sub := 0, tval := va, unres := false })) ∧
    (∀ c, els ≠ [] → va.toNat % 128 = 0 → translate s sp .store va = .trap c → c.code ≠ 0x0E →
      exec (.vcapp a k) s = .next (trapNow (dropTrans s sp va.toNat) c)) ∧
    (∀ ty e, els ≠ [] → va.toNat % 128 = 0 → translate s sp .store va = .ok pa ty e → ty ≠ 3 → markLeaf s sp .store va.toNat e = s →
      let onePage : Prop := match e with
        | some (_, _, bits) => va.toNat % 2 ^ bits + (128 + 4 * cap) ≤ 2 ^ bits
        | none => windowOf pa = windowOf (pa + 127 + 4 * cap) ∧ rangeOf sp.part pa = rangeOf sp.part (pa + 127 + 4 * cap)
      ((∀ j, j ≤ 28 → cap ≠ 2 ^ j) ∨ ¬onePage → exec (.vcapp a k) s =
        .next (trapNow s { code := 0x01, sub := 0, tval := (Instr.vcapp a k).tval, unres := false })) ∧
      ((∃ j, j ≤ 28 ∧ cap = 2 ^ j) → onePage → memRead s.mem 8 (pa + 8) = tail → n ≤ cap → tail + n < 2 ^ 64 →
        ∃ t, exec (.vcapp a k) s = .next t ∧ t = { s.setHart t.hart with mem := t.mem } ∧
          t.hart = { h with
            pc := h.pc + 4, ves := 0,
            ulipend := if tail / h.vlmax.toNat < (tail + n) / h.vlmax.toNat then h.ulipend ||| 4 else h.ulipend } ∧
          memRead t.mem 8 pa = tail + n ∧ memRead t.mem 8 (pa + 8) = tail + n ∧
          (∀ j, j < n → memRead t.mem 4 (pa + 128 + 4 * ((tail + j) % cap)) = els.getD j 0) ∧
          (∀ c, ¬(pa ≤ c ∧ c < pa + 16) → (∀ j, j < n → ¬inElem (fun j => pa + 128 + 4 * ((tail + j) % cap)) 4 j c) →
            memGet t.mem c = memGet s.mem c)))) ∧
  (∀ (s : State) (d : VReg) (a p : GReg) (k : KReg) (off : BitVec 32) (base : Nat) (bs : List (List Byte)) (cs : List (List Nat)),
    Calm s → s.hart.shaped → s.hart.vq = [] →
    let h := s.hart
    let va : Word := h.rg a + off.signExtend 64
    let bytes := bs.flatten
    let fits := bytes.length ≤ (h.rg p).toNat
    (vecTrap (.vldz d a p k off) s = none → bs.length = cs.length → fits →
      (∀ (n : Nat) (l : List Byte), bs[n]? = some l → l.length ≤ 49 ∧ ∃ c, cs[n]? = some c ∧ readBlock s.tile.ctab l = .codes c ∧ c.length = 32 ∧
        ∀ m, m < l.length → readBlock s.tile.ctab (l.take m) = .more) →
      (∀ j, j < bytes.length → Plain s .load 1 (va + BitVec.ofNat 64 j) (base + j) ∧ bytes[j]? = some (memGet s.mem (base + j))) →
      (32 * bs.length ≤ h.vl.toNat ∧ (h.vl.toNat < 32 * (bs.length + 1) ∨ bytes.length = (h.rg p).toNat)) →
      ∃ t fl, exec (.vldz d a p k off) s = .next t ∧ OnlyHart s t ∧ t.hart.vl.toNat = 32 * bs.length ∧ t.hart.ves = 0 ∧ t.hart.pc = h.pc + 8 ∧
        t.hart.fflags = h.fflags ||| fl ∧ (p ≠ 0 → t.hart.rg p = BitVec.ofNat 64 bytes.length) ∧ (∀ r, r ≠ p → t.hart.rg r = h.rg r) ∧
        ElemsWritten h t.hart d (fun i => h.acts k i ∧ i < 32 * bs.length)
          (fun i => (convElem h.mode .e4m3 (vtFmt h.vtype) ((cs.flatten).getD i 0)).bits) (fun _ => True) ∧
        FlagsOf fl (fun i => h.acts k i ∧ i < 32 * bs.length) (fun i => (convElem h.mode .e4m3 (vtFmt h.vtype) ((cs.flatten).getD i 0)).flags)) ∧
    (vecTrap (.vldz d a p k off) s = none → 32 ≤ h.vl.toNat → 0 < (h.rg p).toNat → Plain s .load 1 va base → 4 ≤ (memGet s.mem base).toNat →
      ∃ t, exec (.vldz d a p k off) s = .next t ∧ OnlyHart s t ∧ t.hart.vl = 0 ∧ t.hart.v = h.v ∧
        (p ≠ 0 → t.hart.rg p = 0x8000000000000000)) ∧
    (vecTrap (.vstz d a p k off) s = none → bs.length = (h.vl.toNat + 31) / 32 → fits →
      (∀ (n : Nat) (l : List Byte), bs[n]? = some l → writeBlock s.tile.ctab ((List.range 32).map fun j =>
        if 32 * n + j < h.vl.toNat ∧ h.maskOn k (32 * n + j) = true
        then (convElem (modeOf (vmfRnd h.vmf)) (vtFmt h.vtype) .e4m3 (h.elemAt d (32 * n + j)).1).bits else 0) = some l) →
      (∀ m, Memory.wf m = true → (∀ c, c < base ∨ base + bytes.length ≤ c → memGet m c = memGet s.mem c) →
        ∀ j, j < bytes.length → Plain { s with mem := m } .store 1 (va + BitVec.ofNat 64 j) (base + j)) →
      ∃ t, exec (.vstz d a p k off) s = .next t ∧ t = { s.setHart t.hart with mem := t.mem } ∧ t.hart.vl = h.vl ∧ t.hart.v = h.v ∧
        t.hart.pc = h.pc + 8 ∧ (p ≠ 0 → t.hart.rg p = BitVec.ofNat 64 bytes.length) ∧
        (∀ j, j < bytes.length → bytes[j]? = some (memGet t.mem (base + j))) ∧ BytesKept s t base bytes.length ∧
        ∃ fl, t.hart.fflags = h.fflags ||| fl ∧
          FlagsOf fl (h.acts k) (fun i => (convElem (modeOf (vmfRnd h.vmf)) (vtFmt h.vtype) .e4m3 (h.elemAt d i).1).flags))) ∧
  (∀ (ctab : Vector Word 4) (t : Fin 4) (code sym nib : Nat → Nat) (l : List Byte),
    let ct := ctab.get t
    ValidTable ct → CanonicalCodes ct code →
    (∀ i, i < 32 → nib i < 16 ∧ sym i < 16 ∧ symbolLen ct (sym i) ≠ 0) → BlockIs ct t code sym nib l →
    readBlock ctab l = .codes ((List.range 32).map fun i => nib i / 8 * 128 + sym i * 8 + nib i % 8) ∧
    ∀ m, m < l.length → readBlock ctab (l.take m) = .more) ∧
  (∀ (ctab : Vector Word 4) (hd : Byte) (l : List Byte) (code sym : Nat → Nat) (n : Nat),
    let ct := ctab.get (BitVec.setWidth 2 hd).toFin
    let block := hd :: l
    (4 ≤ hd.toNat ∨ ¬ValidTable ct → readBlock ctab block = .error) ∧
    (hd.toNat < 4 → ValidTable ct → CanonicalCodes ct code → n ≤ 32 → (∀ i, i < n → sym i < 16 ∧ symbolLen ct (sym i) ≠ 0) →
      tokenStart ct sym n ≤ 8 * (block.length - 17) →
      (∀ i, i < n → ∀ b, b < symbolLen ct (sym i) →
        tokenBit block (tokenStart ct sym i + b) = (code (sym i)).testBit (symbolLen ct (sym i) - 1 - b)) →
      (n < 32 → tokenStart ct sym n + 8 ≤ 8 * (block.length - 17) → (∀ s, s < 16 → symbolLen ct s ≠ 0 → ∃ b, b < symbolLen ct s ∧
        tokenBit block (tokenStart ct sym n + b) ≠ (code s).testBit (symbolLen ct s - 1 - b)) → readBlock ctab block = .error) ∧
      (n = 32 → ∀ b, tokenStart ct sym 32 ≤ b → b < 8 * (block.length - 17) → tokenBit block b = true → readBlock ctab block = .error))) ∧
  (∀ (ctab : Vector Word 4) (cs : List Nat) (code : Fin 4 → Nat → Nat), cs.length = 32 → (∀ c ∈ cs, c < 256) →
    let sym (i : Nat) : Nat := cs.getD i 0 / 8 % 16
    let nib (i : Nat) : Nat := cs.getD i 0 / 128 * 8 + cs.getD i 0 % 8
    let eligible (t : Fin 4) : Prop := ValidTable (ctab.get t) ∧ ∀ i, i < 32 → symbolLen (ctab.get t) (sym i) ≠ 0
    let bits (t : Fin 4) : Nat := tokenStart (ctab.get t) sym 32
    ((∀ t, ¬eligible t) → writeBlock ctab cs = none) ∧
    ∀ t, CanonicalCodes (ctab.get t) (code t) → eligible t → (∀ u, eligible u → bits t < bits u ∨ (bits t = bits u ∧ t ≤ u)) →
      ∃ l, writeBlock ctab cs = some l ∧ BlockIs (ctab.get t) t (code t) sym nib l)

/-- 05 R101, R104, R105, 06 R156: where the words at the pc decode to an instruction that traps at issue, or at whose boundary nothing is due, a step runs
exec of it and then what follows a turn: the clocks counted, the agenda extended, the turn passed on; a turn that meets a home where it must wait is
undone (log 70). Words that decode to none trap with cause 0x01 and the words in TVAL. An instruction that needs what a queued one still gives waits for its retirement (01 R19, 04 R88). A turn on the agenda passes to its hart; an event on the agenda
runs its row, or is parked behind or at a home; an error there happens, or waits at a home; a step of bring-up is made; the ranges of a partition change,
translations gone (16 R335, log 42); without power nothing runs (log 7). -/
def Obligations.StepRunsDecoded : Prop :=
  ∀ (s : State) (w0 w1 : Nat),
    (∀ i, Running s → FetchesPair s w0 w1 → decode w0 w1 = .instr i →
      issueTraps i s = true ∨ (dueEvent (some i) s = none ∧ awaitsQueued i s = false) →
      step s = match exec i s with | .next t => .next (closeTurn s (some i) t) | o => o) ∧
    (∀ i, Running s → FetchesPair s w0 w1 → decode w0 w1 = .instr i → issueTraps i s = false → dueEvent (some i) s = none → awaitsQueued i s = true →
      step s = .next (closeTurn s none (schedule s [.vectorInstructionRetirement s.cur]))) ∧
    (∀ r, Running s → FetchesPair s w0 w1 → decode w0 w1 = .reserved r →
      step s = .next (closeTurn s none
        (trapNow s { code := 0x01, sub := 0, tval := BitVec.ofNat 64 (w0 + w1 * 2 ^ 32), unres := false }))) ∧
    (∀ h rest, s.power = true → s.events = .turn h :: rest → rest = [] → step s = step { s with events := [], cur := h }) ∧
    (∀ e rest, s.power = true → s.events = .event e :: rest → comesBehind s e = false → step s = match exec e.row s with
      | .next u => .next (if u.await = [] then noteCounts u else park s e u.await)
      | o => o) ∧
    (∀ e rest, s.power = true → s.events = .event e :: rest → comesBehind s e = true →
      step s = .next { s with events := rest, waiting := s.waiting ++ [e] }) ∧
    (∀ x rest, s.power = true → s.events = .upset x :: rest →
      let u := applyUpset x { s with events := rest }
      step s = .next (if u.await = [] then u else askHomes { s with events := rest ++ [.upset x] } u.await)) ∧
    (∀ rest, s.power = true → s.events = .bringUp :: rest → step s = .next (bringUp { s with events := rest })) ∧
    (∀ p rs rest, s.power = true → s.events = .ranges p rs :: rest → rangesFit rs = true → (∀ i, partNum s i.tile = p → (getHart s i).vq = []) →
      step s = .next { s with events := rest, tlb := [], parts := s.parts.map fun y => if y.num == p then { y with ranges := rs } else y }) ∧
    (∀ r u, u.await ≠ [] → closeTurn s r u = endTurn s.hart.inProgress (askHomes s u.await)) ∧
    (∀ r u, u.await = [] → u.hart.sync = none → u.hart.capp = none → u.hart.inProgress = none → u.held = [] → u.hart.answers = [] →
      inStream u s.cur = false →
      closeTurn s r u = endTurn none u) ∧
    (s.power = false → (∀ rest, s.events ≠ .event .powerOn :: rest) → step s = .fault .noPower) ∧
    ∀ r, (endTurn r s).mem = s.mem ∧ ∀ j, ∃ c n m p, getHart (endTurn r s) j =
      { getHart s j with cyc := c, spcnt := n, scount := m, inProgress := p } ∧ (j ≠ s.cur → getHart (endTurn r s) j = getHart s j)

/-- 05 R103 to R116: a word, or a pair of words, of the major opcodes, written out from their encoding tables and from the worked encodings, and the
instruction it decodes to; word 0, a short word of a major that is not assigned, and a word with a reserved field that is not zero decode to none (05
R104). -/
def Obligations.DecodesSpecWords : Prop :=
  let is (w0 w1 : Nat) (i : Instr) : Prop := decode w0 w1 = .instr i
  is 0x000E6282 0 (.add 5 6 7) ∧
  is 0x050E6282 0 (.divn 5 6 7) ∧
  is 0xFFFE6284 0 (.addi 5 6 (-1)) ∧
  is 0x00041690 0 (.slli 13 1 2) ∧
  is 0x017E6290 0 (.srai 5 6 63) ∧
  is 0x80000292 0 (.lui 5 0x80000) ∧
  is 0x18026296 0 (.ldd 5 6 1) ∧
  is 0x0FFE6298 0 (.sth 5 6 (-1)) ∧
  is 0xBBCE629A 0 (.amomax 5 6 7 .ar .pkg .d true) ∧
  is 0x0340201C 0 (.beq 2 0 13) ∧
  is 0x008E629C 0 (.bgen 6 7 2) ∧
  is 0x0000309E 0 (.jal 1 3) ∧
  is 0x020E62A2 0 (.fadd 5 6 7 .fp32) ∧
  is 0x120E62A4 0 (.fma 5 6 7 8 .fp16) ∧
  is 0x80000026 0 (.ecall) ∧
  is 0x200662A6 0 (.crw 5 6 3) ∧
  is 0x03C00028 0 (.fence .ar .pkg) ∧
  is 0x0000502A 0 (.safept 5) ∧
  is 0x201224B0 0 (.setvli 9 2 .fp32 0 false) ∧
  is 0x7EBE62B2 0 (.vsadd 5 6 (.imm (-1)) 2) ∧
  is 0x04404236 0 (.vfadd 4 4 (.q 0) 1) ∧
  is 0x064262C0 0 (.vld 5 6 1 1) ∧
  is 0x000E60CC 0 (.mma 1 6 7) ∧
  is 0x0140004E 0 (.nexts) ∧
  is 0x00CE604A 0 (.fpush 6 7) ∧
  is 0x00000503 0x12345678 (.limm 10 0x12345678) ∧
  is 0x180EC005 0x85800080 (.rld 0 12 7 .d (some 11) 128) ∧
  is 0x00006013 0x00000040 (.wdrive 6 64) ∧
  is 0x00006289 0x0000000E (.sopen 5 6 2 true .split) ∧
  is 0x0000000D 0x008200A3 (.mcfg 3 .bf16 false false 64 32) ∧
  (∃ r, decode 0 0 = .reserved r) ∧ (∃ r, decode 0x0000002C 0 = .reserved r) ∧ ∃ r, decode 0x80000826 0 = .reserved r

/-- 05 R103 to R116: the decoder reads back, with every operand, the words that the encoder makes of a well-formed instruction, and everything it reads is
well-formed and is what the encoder makes of it: no word has two readings, and no bit of a word is dropped. -/
def Obligations.DecodeAndEncodeAgree : Prop :=
  (∀ i, Laws.RoundTrip.Statement i) ∧
  ∀ w0 w1 i, w0 < 2 ^ 32 → w1 < 2 ^ 32 → (w0 % 2 = 0 → w1 = 0) → decode w0 w1 = .instr i → i.wellFormed = true ∧ encode i = (w0, w1)

/-- 04 R78, 16 R327: every step keeps memory in its canonical form, so that equal memories are equal data (the model's form, log 4). -/
def Obligations.MemoryFormKept : Prop := Kept State.memoryForm

/-- 01 R28, 02 R39, R42, 07 R164: every step keeps the vector shape of every hart: an ill type has VL and VLMAX 0, a well-formed one has VL within the
VLMAX of at most eight clusters, and no longer than a mask register. -/
def Obligations.VectorShapeKept : Prop := Kept State.shaped

/-- 00 R2, 18 R361, 19 R403: every step keeps the keys of the directory, of the tiles, of the queue pairs, of the work-queue counts, of the guard bands
and of the two deconfiguration records rising: each line, tile, queue and domain has one entry (the model's form of these tables, log 4). -/
def Obligations.MapsRise : Prop := Kept State.rising

/-- 02 R52, 15 R303, R304, 17 R351, 21 R409, R411 to R413: after reset the boot hart runs at S at its entry address and every other waits free in WFE at
S; no hart's accesses are translated; the registers that have a Reset value hold it, memory reads zero, STATUS.READY is set, nothing is logged; and
the invariants hold. That bring-up has succeeded, and the entry address, are the model's choice (log 1); so are the zeros of the registers that have no
Reset value (log 3), of UNRES, SIP, SCOUNT and SHBASE among them, and of host memory (log 4). -/
def Obligations.ResetHolds : Prop :=
  let s := State.reset
  s.memoryForm ∧ s.shaped ∧ s.rising ∧ s.ready = true ∧ s.log = [] ∧ s.farms = [] ∧ s.resvs = [] ∧ (∀ a, memGet s.mem a = 0) ∧
  s.hart.run = .running ∧ s.hart.pc = Partition.whole.entry ∧
  ∀ i, let h := getHart s i
    h.level = .s ∧ h.translated = false ∧ h.ctxid = 0 ∧ (i ≠ s.cur → h.run = .wfe) ∧
    h.frm = 0 ∧ h.fflags = 0 ∧ h.vmf = 0x1F ∧ h.vmfs = 0x3F800000 ∧ h.vsreg = 0 ∧ h.ves = 0 ∧ h.ulivec = 0 ∧ h.ulipend = 0 ∧
    h.uliActive = false ∧ h.ill = true ∧ h.vl = 0 ∧ h.vlmax = 0 ∧ h.shbase = 0 ∧ h.cyc = 0 ∧ h.ie = false ∧ h.tip = false ∧
    h.fresh = true ∧ h.unset = true ∧ h.unres = false ∧ h.sip = 0 ∧ h.scount = 0 ∧ h.vownV = false ∧ h.vdirty = 0 ∧ h.wbaRes = false ∧
    (∀ n, (h.q.toList.getD n []) = []) ∧ h.rg 0 = 0

/-- 18 R362, R363, R364, R365: what a home does. A fill is answered and its pointer added; at six pointers the oldest copy is invalidated first; at six
reservations the line is sent uncacheable. A write is performed and acknowledged once every other copy is gone. A busy or reserved line refuses,
counts, and changes nothing else; acknowledgements are counted, and the last completes the waiting write; an eviction notice removes its pointer
without a reply. 04 R78, R80, 18 R362, R363, R365, R369: what a requester does. Buffered bytes of a line go to its home as one write, which the hart
counts as in flight until it is acknowledged or held; a fill is installed unless it is stale or uncacheable; an invalidation drops the line and is
answered always; a refused request backs off with its AGE raised, and is sent again. -/
def Obligations.Coherence : Prop :=
  (∀ (s u : State) (q : HomeReq) (cells : List Host.Cell) (x : Nat),
    let l := q.line
    let d := dirAt u l
    let others := d.ptrs.filter (otherCopy q)
    let sends (t : State) (es : List Event) : Prop := t.events = u.events ++ es.map Move.event
    let quiet (t : State) : Prop := t = { u with dir := t.dir, events := t.events } ∧ ∀ m, m ≠ l → dirAt t m = dirAt u m
    let written (t : State) : Prop := t.mem = memPut u.mem cells ∧ (dirAt t l).busy = none
    Rising u.dir →
    (Fires s u (.fillRequest q) → HomeServes u q →
      (d.ptrs.length < 6 → ∃ t, exec .fillRequest s = .next t ∧ quiet t ∧ sends t [.fillResponse q true] ∧
        (dirAt t l).ptrs = if d.ptrs.contains (.tile q.tile) then d.ptrs else d.ptrs ++ [.tile q.tile]) ∧
      (6 ≤ d.ptrs.length → d.ptrs.find? DirPtr.isCopy = some (.tile x) → ∃ t, exec .fillRequest s = .next t ∧ quiet t ∧
        sends t [.invalidation l x] ∧ (dirAt t l).busy = some ([.tile x], .req q) ∧ (dirAt t l).ptrs = d.ptrs) ∧
      (6 ≤ d.ptrs.length → d.ptrs.find? DirPtr.isCopy = none → ∃ t, exec .fillRequest s = .next t ∧ quiet t ∧
        sends t [.fillResponse q false] ∧ (dirAt t l).ptrs = d.ptrs)) ∧
    (Fires s u (.writeRequest q) → HomeServes u q → q.action = .write cells → (∀ c ∈ cells, c.1 / 128 = l) →
      (others = [] → ∃ t, exec .writeRequest s = .next t ∧ written t ∧ sends t [.writeAcknowledgement q 0] ∧ (dirAt t l).ptrs = d.ptrs) ∧
      (others ≠ [] → DirPtr.host ∉ others → ∃ t, exec .writeRequest s = .next t ∧ quiet t ∧
        (dirAt t l).busy = some (others, .req q) ∧ (dirAt t l).ptrs = d.ptrs ∧
        t.events.length = u.events.length + others.length ∧ ∀ x, .tile x ∈ others → .event (.invalidation l x) ∈ t.events)) ∧
    (∀ e ∈ [Event.fillRequest q, .writeRequest q], Fires s u e → Arrives u q →
      d.busy.isSome = true ∨ (d.sv = true ∧ d.sid ≠ reqId q) → ∃ t, exec e.row s = .next t ∧ quiet t ∧ sends t [.requestRefusal q] ∧
        (dirAt t l).ref = min 16 (d.ref + 1) ∧ (dirAt t l).sv = (d.sv || (dirAt t l).ref == 16) ∧ (dirAt t l).ptrs = d.ptrs ∧
        (dirAt t l).busy = d.busy) ∧
    (Fires s u (.invalidationAcknowledgement l x) →
      (∀ out w, d.busy = some (out, w) → .tile x ∈ out → out.erase (.tile x) ≠ [] → ∃ t, exec .invalidationAcknowledgement s = .next t ∧
        quiet t ∧ sends t [] ∧ dirAt t l = { d with busy := some (out.erase (.tile x), w) }) ∧
      ((∀ out w, d.busy = some (out, w) → .tile x ∉ out) → exec .invalidationAcknowledgement s = .next u) ∧
      (d.busy = some ([.tile x], .req q) → q.action = .write cells → (∀ c ∈ cells, c.1 / 128 = l) → u.bridge = [] →
        ∃ t, exec .invalidationAcknowledgement s = .next t ∧ written t ∧ sends t [.writeAcknowledgement q 0] ∧
          (dirAt t l).ptrs = d.ptrs.filter fun p => !otherCopy q p)) ∧
    (Fires s u (.evictionNotice l x) → ∃ t, exec .evictionNotice s = .next t ∧
      t = { u with tiles := t.tiles, dir := t.dir } ∧ (tileAt t x).lines = (tileAt u x).lines.filter (· ≠ l) ∧
      dirAt t l = { d with ptrs := d.ptrs.filter fun p => p != .tile x })) ∧
  (∀ (s u : State) (q : HomeReq) (i : HartId) (l x : Nat) (old : Word),
    let sends (t : State) (es : List Event) : Prop := t.events = u.events ++ es.map Move.event
    let lines (t : State) (x : Nat) : List Nat := (tileAt t x).lines
    let mine := (getHart u i).wcb.filter fun c => c.1 / 128 == l
    (Fires s u (.writeCombineFlush i l) → mine ≠ [] → l ∉ (getHart u i).sentLines →
      ∃ t, exec .writeCombineFlush s = .next t ∧ sends t [.writeRequest { line := l, tile := i.tile, h1 := i.h1, action := .write mine, age := 0 }] ∧
        t.mem = u.mem ∧ getHart t i = { getHart u i with
          wcb := (getHart u i).wcb.filter (fun c => c.1 / 128 != l), sentLines := (getHart u i).sentLines ++ [l] }) ∧
    (Fires s u (.fillResponse q true) → q.line ∉ (tileAt u q.tile).staleFills → q.line ∉ lines u q.tile →
      ∃ t, exec .fillResponse s = .next t ∧ lines t q.tile = lines u q.tile ++ [q.line] ∧ t.mem = u.mem ∧ t.events = u.events) ∧
    (Fires s u (.fillResponse q false) → ∃ t, exec .fillResponse s = .next t ∧ lines t q.tile = lines u q.tile) ∧
    (∀ c, Fires s u (.fillResponse q c) → q.line ∈ (tileAt u q.tile).staleFills → ∃ t, exec .fillResponse s = .next t ∧
      lines t q.tile = lines u q.tile ∧ (tileAt t q.tile).staleFills = (tileAt u q.tile).staleFills.erase q.line) ∧
    (Fires s u (.invalidation l x) → ∃ t, exec .invalidation s = .next t ∧ lines t x = (lines u x).filter (· ≠ l) ∧
      sends t [.invalidationAcknowledgement l x] ∧ t.mem = u.mem ∧ t.dir = u.dir ∧
      (fillInFlight u l x = true → l ∈ (tileAt t x).staleFills)) ∧
    (∀ e ∈ [Event.writeAcknowledgement q old, .holdAcknowledgement q], Fires s u e →
      (∀ c ∈ (getHart u ⟨q.tile, q.h1⟩).wcb, c.1 / 128 ≠ q.line) → ∃ t, exec e.row s = .next t ∧ t.mem = u.mem ∧ t.events = u.events ∧
        getHart t ⟨q.tile, q.h1⟩ = { getHart u ⟨q.tile, q.h1⟩ with sentLines := (getHart u ⟨q.tile, q.h1⟩).sentLines.erase q.line } ∧
        (e = .writeAcknowledgement q old → .tile q.tile ∈ (dirAt u q.line).ptrs → q.line ∈ lines t q.tile) ∧
        (e = .holdAcknowledgement q ∨ .tile q.tile ∉ (dirAt u q.line).ptrs → lines t q.tile = lines u q.tile)) ∧
    (Fires s u (.requestRefusal q) → ∃ t r, exec .requestRefusal s = .next t ∧ r = { q with age := min 255 (q.age + 1) } ∧
      t = { u with backoffs := u.backoffs ++ [r], events := u.events ++ [.event (.retryBackoffExpiry r)] }) ∧
    (Fires s u (.retryBackoffExpiry q) → q ∈ u.backoffs → ∃ t, exec .retryBackoffExpiry s = .next t ∧
      t = { u with backoffs := u.backoffs.erase q,
                   events := u.events ++ [.event (if q.action = .fill then .fillRequest q else .writeRequest q)] }))

/-- 18 R362, R377, R378, R380, 04 R99, 16 R342: the host as a sharer. A read of an allowed line that is not busy is answered with its aligned 64 bytes and
gives the host a pointer, poison where it is bad or not allowed; a write is performed at once where no tile holds the line; a request to a busy line
waits at the bridge. A back-invalidation's answer removes the host's pointer, which ends the wait of a home that asked for it, and is discarded where
there is none; a snoop gives the line up, which then holds the bytes that the host has written, once the tiles' copies are gone: until then the move
waits at the home (log 70). An accepted write to host memory is performed; one outside its partition's ranges is dropped and logged (16 R335). -/
def Obligations.HostAsSharer : Prop :=
  ∀ (s u : State) (a : Nat) (bytes data : List Byte) (l n : Nat) (w : HostWrite),
    let d := dirAt u (a / 128)
    Rising u.dir →
    let reach (x : Option (List Byte)) : Prop :=
      Fires s u (.hostRequest a x) ∧ u.link = true ∧ u.ready = true ∧ u.bridge = [] ∧ u.resvs = [] ∧ ¬(deviceBase ≤ a ∧ a < deviceBase + 2 ^ 20)
    (reach none → hostAllowed u a = true → d.busy = none → d.ptrs.length < 6 → ∃ t, exec .hostRequest s = .next t ∧
      t = { u with dir := t.dir, hostOut := t.hostOut } ∧ DirPtr.host ∈ (dirAt t (a / 128)).ptrs ∧
      (badIn u (a / 64 * 64) 64 = none → t.hostOut = u.hostOut ++ [.data a (memBytes u.mem 64 (a / 64 * 64))]) ∧
      (badIn u (a / 64 * 64) 64 ≠ none → t.hostOut = u.hostOut ++ [.poison a])) ∧
    (reach none → hostAllowed u a = false → d.busy = none → ∃ t, exec .hostRequest s = .next t ∧ t = { u with hostOut := u.hostOut ++ [.poison a] }) ∧
    (reach (some bytes) → hostAllowed u a = true → u.dir = [] → u.bad = [] → ∃ t, exec .hostRequest s = .next t ∧
      t = { u with mem := memPut u.mem (cellsOfBytes a bytes), hostOut := u.hostOut ++ [.done a] }) ∧
    (∀ x, reach x → d.busy ≠ none → ∃ t, exec .hostRequest s = .next t ∧ t = { u with bridge := [(a, x)] }) ∧
    (Fires s u (.hostRequest a none) → u.link = false → ∃ t, exec .hostRequest s = .next t ∧ t = u) ∧
    (Fires s u (.backInvalidateResponse l) → (dirAt u l).busy = none → ∃ t, exec .backInvalidateResponse s = .next t ∧
      t = { u with dir := t.dir } ∧ (dirAt t l).ptrs = (dirAt u l).ptrs.filter (fun p => p != .host) ∧ ((dirAt u l).ptrs.contains .host = false → t = u)) ∧
    (∀ writer, Fires s u (.backInvalidateResponse l) →
      (dirAt u l).busy = some ([.host], .evict) ∨ (dirAt u l).busy = some ([.host], .again writer) → .host ∈ (dirAt u l).ptrs → u.bridge = [] →
      ∃ t, exec .backInvalidateResponse s = .next t ∧ t = { u with dir := t.dir } ∧ (dirAt t l).busy = none ∧
        (dirAt t l).ptrs = (dirAt u l).ptrs.filter fun p =>
          p != .host && !((dirAt u l).busy != some ([.host], .evict) && p.isCopy && writer.map DirPtr.tile != some p)) ∧
    (Fires s u (.hostSnoop l data) → (dirAt u l).busy = none →
      let copies := (dirAt u l).ptrs.filter DirPtr.isCopy
      (copies = [] → exec .hostSnoop s = .next { u with
        hostOut := u.hostOut ++ [.giveUp l]
        mem := if windowOf (128 * l) = .host then memPut u.mem (cellsOfBytes (128 * l) (data.take 128)) else u.mem }) ∧
      (copies ≠ [] → u.await = [] → ∃ t, exec .hostSnoop s = .next t ∧ t.await = [{ line := l, out := copies }])) ∧
    (Fires s u (.cxlCacheResponse n) → (u.hostWrites.find? fun w => w.id == n) = some w → ∃ t, exec .cxlCacheResponse s = .next t ∧
      t.hostWrites = (u.hostWrites.filter fun w => w.id != n) ∧
      let inside (c : Host.Cell) : Prop := (rangeOf (partOf u w.hart.tile) (128 * (c.1 / 128))).isSome = true
      ((∀ c ∈ w.cells, inside c) → u.resvs = [] → u.held = [] → u.dir = [] → t.mem = memPut u.mem w.cells) ∧
      ((∃ c ∈ w.cells, ¬inside c) → t.mem = u.mem ∧ ∃ r, t.log.getLast? = some r ∧ r.kind = 0x0B))

/-- 09 R213, R214, R217, R218: MCFG takes the tiles of its mask for the hart with the new configuration and every element zero; a tile that has this owner
and configuration keeps its elements. MZERO zeros the elements, MREL frees the tile and its elements are lost. VES becomes 0; at U a changed tile is
dirty (15 R320). 09 R216, R219, 03 R69: MMA adds to each element [i][j] of its tile the products of row i of operand a and row j of operand b over the
first VL columns: exactly modulo 2^32 for I8, else group by group, each an exact sum rounded once to FP32 and added with one rounding to nearest;
under SC = 1 a group is scaled by both blocks' scales, and a group in an invalid block, or one of scale 0xFF, adds zero. Nothing else changes but VES, the flags and the
dirty bit. 09 R220, R221, R222: MDRAIN and MDRAINX store, MLDACC loads, the rows that they name, columns below VL that the mask admits, from VES on:
rows a signed stride apart or at the offsets of an index register, columns one after another; drained elements are encoded by VMF from FP32 or I32 and
leave the tile, loaded words are copied as they are. VES becomes 0. -/
def Obligations.Matrix : Prop :=
  (∀ (s : State) (ts : BitVec 4) (c : Acc) (fmt : ElemTy) (sc int32 : Bool) (m n : BitVec 7), s.relaxed = false → s.hart.vq = [] →
    (s.tile.hart (!s.cur.h1)).vq = [] →
    let h := s.hart
    let old (x : Acc) : AccTile := accAt s s.cur.tile x
    let does (i : Instr) (len : Nat) (f : Acc → AccTile) (changed : Prop) : Prop :=
      vecTrap i s = none → ∃ t, exec i s = .next t ∧ t = (s.modTile fun y => { y with acc := t.tile.acc }).setHart t.hart ∧
        (∀ x, accAt t s.cur.tile x = f x) ∧
        t.hart = { h with pc := h.pc + BitVec.ofNat 64 len, ves := 0, vdirty := t.hart.vdirty } ∧
        (changed → h.level = .u → t.hart.vdirty = h.vdirty ||| (1#41 <<< 40)) ∧ (¬changed ∨ h.level = .s → t.hart.vdirty = h.vdirty)
    let new : AccTile := { owner := some s.cur.h1, m := m, n := n, int32 := int32, sc := sc, fmt := BitVec.ofNat 4 fmt.code, data := 0 }
    let same (x : Acc) : Prop := { old x with data := 0 } = new
    does (.mcfg ts fmt sc int32 m n) 8 (fun x => if ts.getLsbD x.toNat = true ∧ ¬same x then new else old x)
      (∃ x : Acc, ts.getLsbD x.toNat = true ∧ ¬same x) ∧
    does (.mzero c) 4 (fun x => if x = c then { old x with data := 0 } else old x) True ∧
    does (.mrel c) 4 (fun x => if x = c then AccTile.free else old x) True) ∧
  (∀ (s : State) (c : Acc) (a b : VReg), s.hart.shaped → s.relaxed = false → s.hart.vq = [] → vecTrap (.mma c a b) s = none →
    let h := s.hart
    let ty := vtFmt h.vtype
    let sc := vtSc h.vtype
    let L := h.vl.toNat
    let x := accAt s s.cur.tile c
    let code (v : VReg) (r k : Nat) : Nat := (h.elemAt v (64 * r + k)).1
    let K := sumGroupSize ty sc
    let asr : VReg := BitVec.ofNat 5 h.vsreg.toNat
    let bsr : VReg := BitVec.ofNat 5 (h.vsreg.toNat / 256)
    let scale (v : VReg) (r g : Nat) : Nat := (h.rv v).toNat / 2 ^ (8 * (2 * r + g)) % 256
    let sound (v sr : VReg) (r g : Nat) : Prop := h.valid v h.perReg (64 * r + 32 * g) = true ∧ scale sr r g ≠ 0xFF
    ∃ t fl, exec (.mma c a b) s = .next t ∧ t = (s.modTile fun y => { y with acc := t.tile.acc }).setHart t.hart ∧
      t.hart = { h with pc := h.pc + 4, ves := 0, fflags := h.fflags ||| fl, vdirty := t.hart.vdirty } ∧
      let y := accAt t s.cur.tile c
      (∀ z, z ≠ c → accAt t s.cur.tile z = accAt s s.cur.tile z) ∧ y = { x with data := y.data } ∧ (L = 0 → y = x ∧ fl = 0) ∧
      (∀ i j, i < 64 → j < 64 → ¬(i < x.m.toNat ∧ j < x.n.toNat) → y.elem i j = x.elem i j) ∧
      ∀ i j, i < x.m.toNat → j < x.n.toNat →
        (x.int32 = true → ty = .i8 → fl = 0 ∧ y.elem i j = ((x.elem i j : Int) +
          ((List.range L).map fun k => (BitVec.ofNat 8 (code a i k)).toInt * (BitVec.ofNat 8 (code b j k)).toInt).foldl (· + ·) 0).emod (2 ^ 32)) ∧
        (x.int32 = false → x.sc = sc → ∃ r : Nat → Nat, r 0 = x.elem i j ∧ r ((L + K - 1) / K) = y.elem i j ∧
          ∀ g, g < (L + K - 1) / K →
            let ks := (List.range K).filterMap fun k => if g * K + k < L then some (g * K + k) else none
            (sc = false → GroupAdded (fun k => elemVal ty (code a i k)) (fun k => elemVal ty (code b j k)) ks 0 (r g) (r (g + 1))) ∧
            (sc = true → sound a asr i g → sound b bsr j g → GroupAdded (fun k => elemVal ty (code a i k)) (fun k => elemVal ty (code b j k)) ks
              ((scale asr i g : Int) + scale bsr j g - 254) (r g) (r (g + 1))) ∧
            (sc = true → ¬(sound a asr i g ∧ sound b bsr j g) → fl.getLsbD 5 = true ∧
              r (g + 1) = (fp32Form.addV .rne (fp32Form.decode (r g)) (fp32Form.decode 0)).bits))) ∧
  (∀ (s : State) (c : Acc) (a p : GReg) (v : VReg) (row : BitVec 6) (rows : BitVec 7) (k : KReg) (pa : Nat → Nat),
    Calm s → s.hart.vq = [] →
    let h := s.hart
    let x := accAt s s.cur.tile c
    let w := elemWidth ((storedType (vmfEnc h.vmf) .fp32).getD .fp32)
    let does (k : KReg) (e : Nat) : Prop :=
      h.ves.toNat ≤ e ∧ e < 64 * rows.toNat ∧ e % 64 < h.vl.toNat ∧ (k = 0 ∨ (h.rk k).getLsbD (e % 64) = true)
    let byRow (m e : Nat) : Word := h.rg a + BitVec.ofNat 64 (e / 64) * h.rg p + BitVec.ofNat 64 (e % 64 * m)
    let byIndex (m e : Nat) : Word :=
      h.rg a + BitVec.ofNat 64 ((h.rv v).toNat / 2 ^ (32 * (e / 64)) % 2 ^ 32) + BitVec.ofNat 64 (e % 64 * m)
    let out (e : Nat) : FOut := encodeElem h (if x.int32 then .i32 else .fp32) (x.elem (row.toNat + e / 64) (e % 64))
    let drains (i : Instr) (va : Nat → Word) : Prop :=
      vecTrap i s = none → (∀ e, does k e → Plain s .store (w / 8) (va e) (pa e)) →
      ∃ t fl, exec i s = .next t ∧ t = { s.setHart t.hart with mem := t.mem } ∧
        t.hart = { h with pc := h.pc + 8, ves := 0, fflags := h.fflags ||| fl } ∧
        FlagsOf fl (does k) (fun e => (out e).flags) ∧ Stored s t (does k) (w / 8) pa (fun e => (out e).bits)
    drains (.mdrain c a p row rows k) (byRow (w / 8)) ∧ drains (.mdrainx c a v row rows k) (byIndex (w / 8)) ∧
    (vecTrap (.mldacc c a p row rows) s = none → (∀ e, does 0 e → Plain s .load 4 (byRow 4 e) (pa e)) →
      ∃ t, exec (.mldacc c a p row rows) s = .next t ∧ t = (s.modTile fun y => { y with acc := t.tile.acc }).setHart t.hart ∧
        t.hart = { h with pc := h.pc + 8, ves := 0, vdirty := t.hart.vdirty } ∧
        (∀ b, t.hart.vdirty.getLsbD b = true ↔ h.vdirty.getLsbD b = true ∨ (b = 40 ∧ h.level = .u ∧ ∃ e, does 0 e)) ∧
        let y := accAt t s.cur.tile c
        (∀ z, z ≠ c → accAt t s.cur.tile z = accAt s s.cur.tile z) ∧ y = { x with data := y.data } ∧
        (∀ e, does 0 e → row.toNat + e / 64 < 64 → y.elem (row.toNat + e / 64) (e % 64) = memRead s.mem 4 (pa e)) ∧
        ∀ i j, i < 64 → j < 64 → (∀ e, does 0 e → ¬(i = row.toNat + e / 64 ∧ j = e % 64)) → y.elem i j = x.elem i j))

/-- 10 R226, R227, R229, R231, R233, R236, R237: remote operations at their source, here to this package. RST without a status and RAMO without
destination or status join the open batch; the others send their own batch and wait. With its answers, a scalar form writes the loaded or old value,
sign-extended, where the code is 0, and its status register; a vector form writes its successful elements and its status bits. Without a status, a
failure traps with cause 0x0D, and peer, code and offset in TVAL; an offset that is no multiple of the size traps with cause 0x04 and nothing is sent. -/
def Obligations.RemoteAtSource : Prop :=
  ∀ (s : State) (d c a p : GReg) (v x y : VReg) (k : KReg) (st : Option GReg) (ks : Option KReg) (sz : Size) (wz : WSize) (off : BitVec 23),
    let h := s.hart
    let g := h.unbatched
    let o : Word := h.rg a + off.signExtend 64
    let peer : BitVec 16 := (h.rg p).setWidth 16
    let amo (f : AmoOp) : RemoteKind := .atomic f (wsizeBytes wz) (h.rg c) (h.rg d)
    let scalar (i : Instr) (n : Nat) (batched : Bool) (dst : Option GReg) (kind : RemoteKind) : Prop :=
      let op : RemoteOp := { kind := kind, peer := peer, off := o.toNat, elem := 0 }
      (o.toNat % n ≠ 0 → exec i s = .next (trapNow s { code := 0x04, sub := 0, tval := o, unres := false })) ∧
      (o.toNat % n = 0 → batched = true → ∀ b, h.openBatch = some b → b.ops.length < 63 → ∃ t, exec i s = .next t ∧ OnlyHart s t ∧
        t.hart = { h with pc := h.pc + 8, openBatch := some { b with ops := b.ops ++ [{ op := op, res := none }] } }) ∧
      (o.toNat % n = 0 → batched = false → BatchesIdle h → peer = 0xFFFF ∨ peer = s.self →
        ∃ t, exec i s = .next t ∧ SentToSelf s t [op] none) ∧
      ∀ r, o.toNat % n = 0 → batched = false → Answered h none [{ op := op, res := some r }] →
        (r.code = 0 ∨ st.isSome = true → ∃ t, exec i s = .next t ∧ OnlyHart s t ∧
          t.hart = { g with pc := h.pc + 8, g := t.hart.g, shd := t.hart.shd } ∧
          ∀ z, t.hart.rg z = if z = 0 then 0 else if st = some z then r.code.setWidth 64
            else if dst = some z ∧ r.code = 0 then (BitVec.ofNat (8 * n) r.val.toNat).signExtend 64 else h.rg z) ∧
        (r.code ≠ 0 → st = none → exec i s = .next (trapNow (s.setHart g)
          { code := 0x0D, sub := 0, tval := peer ++ r.code ++ BitVec.ofNat 40 o.toNat, unres := false }))
    let vector (i : Instr) (dst : Option VReg) (kind : Nat → RemoteKind) (at' : Nat → Nat) (checked : Bool) : Prop :=
      let n := elemWidth (vtFmt h.vtype) / 8
      let op (j : Nat) : RemoteOp := { kind := kind j, peer := BitVec.ofNat 16 (h.indexElem y j), off := at' j, elem := j }
      vecTrap i s = none → h.vq = [] →
      (∀ l : List Nat, BatchesIdle h → l.Pairwise (· < ·) → (∀ j, j ∈ l ↔ h.performs k j) → l ≠ [] →
        (∀ j ∈ l, (BitVec.ofNat 16 (h.indexElem y j) = 0xFFFF ∨ BitVec.ofNat 16 (h.indexElem y j) = s.self) ∧ (checked = true → at' j % n = 0)) →
        ∃ t, exec i s = .next t ∧ SentToSelf s t (l.map op) none) ∧
      ∀ ops : List BatchOp, Answered h none ops → ops.Pairwise (fun a b => a.op.elem < b.op.elem) → (∀ o ∈ ops, o.op.elem < h.vlmax.toNat) →
        let good (j : Nat) : Prop := ∃ o ∈ ops, o.op.elem = j ∧ ∃ r, o.res = some r ∧ r.code = 0
        let val (j : Nat) : Nat := match ops.find? fun o => o.op.elem == j with | some o => (o.res.getD ⟨0, 0⟩).val.toNat | none => 0
        ((∀ o ∈ ops, good o.op.elem) → ks = none → ∃ t, exec i s = .next t ∧ OnlyHart s t ∧
          match dst with
          | none => t.hart = { g with pc := h.pc + 8, ves := 0 }
          | some _ => VectorFrame g t.hart 0 8 ∧ ElemsWritten g t.hart v good val (fun _ => True)) ∧
        (∀ kr, ks = some kr → ∃ t, exec i s = .next t ∧ OnlyHart s t ∧ t.hart.pc = h.pc + 8 ∧ t.hart.ves = 0 ∧
          (∀ r, r ≠ kr → t.hart.rk r = h.rk r) ∧
          (∀ o ∈ ops, (t.hart.rk kr).getLsbD o.op.elem = true ↔ good o.op.elem) ∧
          (∀ j, (∀ o ∈ ops, o.op.elem ≠ j) → (t.hart.rk kr).getLsbD j = (h.rk kr).getLsbD j) ∧
          (dst = none → t.hart.v = h.v)) ∧
        (ks = none → ∀ q r, (ops.find? fun o => decide (o.res.map (fun r => r.code) ≠ some 0)) = some q → q.res = some r →
          ∃ u, exec i s = .next (trapNow (s.setHart u)
            { code := 0x0D, sub := 0, tval := q.op.peer ++ r.code ++ BitVec.ofNat 40 q.op.off, unres := false }) ∧
            u.ves = BitVec.ofNat 16 q.op.elem ∧ u.pc = h.pc)
    let none' := st.isNone
    scalar (.rld d a p sz st off) (sizeBytes sz) false (some d) (.load (sizeBytes sz)) ∧
    scalar (.rst c a p sz st off) (sizeBytes sz) none' none (.store (sizeBytes sz) (h.rg c)) ∧
    scalar (.ramoadd d c a p wz st off) (wsizeBytes wz) (none' && d == 0) (some d) (amo .add) ∧
    scalar (.ramoand d c a p wz st off) (wsizeBytes wz) (none' && d == 0) (some d) (amo .and) ∧
    scalar (.ramoor d c a p wz st off) (wsizeBytes wz) (none' && d == 0) (some d) (amo .or) ∧
    scalar (.ramoxor d c a p wz st off) (wsizeBytes wz) (none' && d == 0) (some d) (amo .xor) ∧
    scalar (.ramomin d c a p wz st off) (wsizeBytes wz) (none' && d == 0) (some d) (amo .min) ∧
    scalar (.ramomax d c a p wz st off) (wsizeBytes wz) (none' && d == 0) (some d) (amo .max) ∧
    scalar (.ramoswp d c a p wz st off) (wsizeBytes wz) (none' && d == 0) (some d) (amo .swp) ∧
    scalar (.ramocas d c a p wz st off) (wsizeBytes wz) (none' && d == 0) (some d) (amo .cas) ∧
    (s.hart.shaped → vector (.rldx v x y k ks) (some v) (fun _ => .load (elemWidth (vtFmt h.vtype) / 8)) (fun j => h.indexElem x j) true ∧
      vector (.rstx v x y k ks) none (fun j => .store (elemWidth (vtFmt h.vtype) / 8) (BitVec.ofNat 64 (h.elemAt v j).1))
        (fun j => h.indexElem x j) true ∧
      vector (.rapp v a y k ks) none (fun j => .append (BitVec.ofNat 64 (h.elemAt v j).1)) (fun _ => (h.rg a).toNat) false)

/-- 10 R227, R228, R229, R232, R233, R239, R240: a sub-batch at its destination, and its answers. An operation whose heap access is allowed is performed
and answered with code 0, a load or an atomic with the old value, one that is not with code 4; an append takes the next slot or finds the queue full
with code 3; an arrival counts at its barrier and ends the phase at EXPECT. A reply is entered, the last completes its batch; a complete batch leaves,
its first failure kept in closing order, and sets ULIPEND.BATCH unless an instruction waits. -/
def Obligations.RemoteAtDestination : Prop :=
  ∀ (s u : State) (b : SubBatch) (o : RemoteOp) (w : Served) (pa n : Nat) (f : AmoOp) (x e : Word) (i : HartId) (r : RemoteResult),
    let quiet : Prop := u.resvs = [] ∧ u.dir = [] ∧ u.bad = [] ∧ u.held = [] ∧ u.heldBatches = [] ∧ u.refused = [] ∧ u.deadPairs = [] ∧
      u.deadCtxs = [] ∧ u.memoryForm
    let arrives (kind : RemoteKind) (ak : AccKind) (m : Nat) : Prop :=
      Fires s u (.subBatchArrival b) ∧ quiet ∧ b.src = u.self ∧ b.intact = true ∧ b.ops = [o] ∧ o.kind = kind ∧
      servedBy u b = some w ∧ heapAddr u .remote w.part w.ctx w.heap ak o.off m = (some pa, u)
    let answered (t : State) (code : BitVec 8) (val : Word) : Prop :=
      t = { u with mem := t.mem, events := u.events ++ [.event (.remoteReply b.hart b.batch u.self [⟨code, val⟩] true)] }
    let old := memRead u.mem n pa
    -- one arrival, good or failed, counted at the barrier at pa
    let counts (good : Bool) (t : State) : Prop :=
      let count := memRead u.mem 4 pa + if good then 1 else 0
      let fail := memRead u.mem 4 (pa + 4) + if good then 0 else 1
      let dead := memRead u.mem 1 (pa + 22) % 2 = 1
      count < 2 ^ 32 → fail < 2 ^ 32 →
        (∀ c, ¬(pa ≤ c ∧ c < pa + 20 ∧ ¬(pa + 8 ≤ c ∧ c < pa + 12)) → memGet t.mem c = memGet u.mem c) ∧ (dead → t.mem = u.mem) ∧
        (¬dead → count + fail < memRead u.mem 4 (pa + 8) → memRead t.mem 4 pa = count ∧ memRead t.mem 4 (pa + 4) = fail ∧
          memRead t.mem 8 (pa + 12) = memRead u.mem 8 (pa + 12)) ∧
        (¬dead → memRead u.mem 4 (pa + 8) ≤ count + fail → memRead t.mem 8 pa = 0 ∧ memRead t.mem 4 (pa + 16) = fail ∧
          memRead t.mem 4 (pa + 12) = (memRead u.mem 4 (pa + 12) + 1) % 2 ^ 32)
    (arrives (.load n) .load n → ∃ t, exec .subBatchArrival s = .next t ∧ answered t 0 (BitVec.ofNat 64 old) ∧ t.mem = u.mem) ∧
    (arrives (.store n x) .store n → ∃ t, exec .subBatchArrival s = .next t ∧ answered t 0 0 ∧ t.mem = memPut u.mem (cellsOf n pa x.toNat)) ∧
    (arrives (.atomic f n x e) .store n → ∃ t, exec .subBatchArrival s = .next t ∧ answered t 0 (BitVec.ofNat 64 old) ∧
      t.mem = match amoNew f false (8 * n) old (x.toNat % 2 ^ (8 * n)) (e.toNat % 2 ^ (8 * n)) with
        | some z => memPut u.mem (cellsOf n pa z)
        | none => u.mem) ∧
    (arrives (.append x) .store 32 → o.off % 128 = 0 → ∀ slot,
      let tail := memRead u.mem 8 pa
      let head := memRead u.mem 8 (pa + 16)
      let cap := memRead u.mem 8 (pa + 24)
      (∃ j, j ≤ 24 ∧ cap = 2 ^ j) → o.off + 128 + 128 * cap ≤ w.heap →
      (cap ≤ tail - head → ∃ t, exec .subBatchArrival s = .next t ∧ answered t 3 0 ∧ t.mem = u.mem) ∧
      (tail - head < cap → memRead u.mem 8 (pa + 8) = tail → slot = pa + 128 + 128 * (tail % cap) →
        heapAddr u .remote w.part w.ctx w.heap .store (o.off + 128 + 128 * (tail % cap)) 16 = (some slot, u) →
        ∃ t, exec .subBatchArrival s = .next t ∧ answered t 0 0 ∧
          memRead t.mem 8 pa = (tail + 1) % 2 ^ 64 ∧ memRead t.mem 8 (pa + 8) = (tail + 1) % 2 ^ 64 ∧
          memRead t.mem 8 slot = x.toNat ∧ memRead t.mem 2 (slot + 8) = b.src.toNat ∧ memRead t.mem 2 (slot + 10) = o.elem % 65536 ∧
          memRead t.mem 4 (slot + 12) = 0 ∧
          ∀ c, ¬(pa ≤ c ∧ c < pa + 16) → ¬(slot ≤ c ∧ c < slot + 16) → memGet t.mem c = memGet u.mem c)) ∧
    (arrives .arrive .store 128 → ∃ t, exec .subBatchArrival s = .next t ∧ answered t 0 0 ∧ counts true t) ∧
    (∀ y, Fires s u (.subBatchArrival b) → quiet → b.src = u.self → ((servedBy u b = none ∧ y = u) ∨ (servedBy u b = some w ∧ b.intact = true ∧
        (o.kind = .load n ∧ heapAddr u .remote w.part w.ctx w.heap .load o.off n = (none, y)))) → b.ops = [o] →
      ∃ t, exec .subBatchArrival s = .next t ∧ t.mem = u.mem ∧
        t = { y with mem := t.mem, events := y.events ++ [.event (.remoteReply b.hart b.batch u.self [⟨4, 0⟩] true)] }) ∧
    (∀ good, Fires s u (.barrierArrival pa good) → quiet →
      ∃ t, exec .barrierArrival s = .next t ∧ t = { u with mem := t.mem } ∧ counts good t) ∧
    (∀ (id : Nat) (bt : Batch), (getHart u i).outstanding = [bt] → bt.id = id →
      (bt.ops = [{ op := o, res := none }] → (getHart u i).bwait = none → o.peer ≠ 0xFFFF → o.peer ≠ u.self →
        let filled (t : State) (r : RemoteResult) : Prop :=
          t.mem = u.mem ∧ t.events = u.events ++ [.event (.batchCompletion i id)] ∧
          getHart t i = { getHart u i with outstanding := [{ bt with ops := [{ op := o, res := some r }] }] }
        (Fires s u (.remoteReply i id o.peer [r] true) → ∃ t, exec .remoteReply s = .next t ∧ filled t r) ∧
        (Fires s u (.remoteReply i id o.peer [r] false) → o.kind = .load n → ∃ t, exec .remoteReply s = .next t ∧ filled t ⟨5, 0⟩) ∧
        (Fires s u (.peerUnreachable i id o.peer) → ∃ t, exec .peerUnreachable s = .next t ∧ filled t ⟨1, 0⟩)) ∧
      (Fires s u (.batchCompletion i id) → bt.ops = [{ op := o, res := some r }] → bt.sync = false → bt.sent = true →
        ∃ t fs, exec .batchCompletion s = .next t ∧ t.mem = u.mem ∧ t.events = u.events ∧
          fs.Perm ((getHart u i).failures ++ (if r.code = 0 then [] else [(id, o, r.code)])) ∧ fs.Pairwise (fun x y => x.1 ≤ y.1) ∧
          getHart t i = { getHart u i with
            outstanding := [],
            failures := fs,
            ulipend := if (getHart u i).batchWait then (getHart u i).ulipend else (getHart u i).ulipend ||| 2 }))

/-- 10 R229, R231, R234, R235, R240 to R243: RBATCH closes the open batch and sends it; RWAIT waits for at most n outstanding batches and RFENCE for every
access and batch, and each then reports the oldest failure with cause 0x0D. BARRIVE counts a good arrival at a local barrier, sends one to a remote
one as its own batch, or counts at the farm barrier of a gang; BWAIT ends with LASTFAIL when the phase has moved on, with bit 63 at a dead barrier,
with bit 62 under a pre-emption request, and waits otherwise; on g0 it ends once every hart has arrived as often or exited, with the number that
exited early. -/
def Obligations.BatchesAndBarriers : Prop :=
  ∀ (s : State) (d a : GReg) (n : BitVec 5) (b : Batch) (pa : Nat) (m : Membership) (f : Farm),
    let h := s.hart
    let ends (i : Instr) (g : Hart) : Prop := ∃ t, exec i s = .next t ∧ OnlyHart s t ∧ t.hart = g
    let writes (i : Instr) (x : Word) : Prop := ∃ t, exec i s = .next t ∧ OnlyHart s t ∧ WroteFrom s { h with bwait := none } t (h.pc + 4) d x
    let traps (i : Instr) (g : Hart) (c : TrapRec) : Prop := exec i s = .next (trapNow (s.setHart g) c)
    let failed (o : RemoteOp) (code : BitVec 8) : TrapRec := { code := 0x0D, sub := 0, tval := o.peer ++ code ++ BitVec.ofNat 40 o.off, unres := false }
    let sent (b : Batch) : SubBatch :=
      { src := s.self, ctx := h.ctxid, hart := s.cur, batch := b.id, ops := b.ops.map fun o => o.op, intact := true }
    (h.openBatch = none → ends .rbatch { h with pc := h.pc + 4, batchWait := false }) ∧
    (h.openBatch = some b → h.outstanding = [] → b.sent = false → b.ops ≠ [] →
      (∀ o ∈ b.ops, o.res = none ∧ o.op.peer = 0xFFFF ∧ o.op.kind ≠ .arrive) →
      ∃ t, exec .rbatch s = .next t ∧
        t.hart = { h with pc := h.pc + 4, batchWait := false, openBatch := none, outstanding := [{ b with sent := true }] } ∧
        t = { s.setHart t.hart with events := s.events ++ [.event (.subBatchArrival (sent b))] }) ∧
    (h.openBatch = none → h.outstanding.length ≤ n.toNat →
      (h.failures = [] → ends (.rwait n) { h with pc := h.pc + 4, batchWait := false }) ∧
      (∀ k o code rest, h.failures = (k, o, code) :: rest → traps (.rwait n) { h with batchWait := false, failures := rest } (failed o code))) ∧
    (h.openBatch = none → n.toNat < h.outstanding.length → ends (.rwait n) { h with batchWait := true }) ∧
    (Settled s → h.openBatch = none → h.outstanding = [] →
      (h.failures = [] → ends .rfence { h with pc := h.pc + 8, batchWait := false }) ∧
      (∀ k o code rest, h.failures = (k, o, code) :: rest → traps .rfence { h with batchWait := false, failures := rest } (failed o code))) ∧
    (Settled s → h.openBatch = none → h.outstanding ≠ [] → ends .rfence { h with batchWait := true }) ∧
    -- a barrier object at G[a]
    (a ≠ 0 → Calm s → Settled s → Plain s .load 2 (h.rg a + 20) (pa + 20) →
      (memRead s.mem 2 (pa + 20) = 0xFFFF → Plain s .store 128 (h.rg a) pa → ∃ t, exec (.barrive a) s = .next t ∧
        t.hart = { h with pc := h.pc + 4 } ∧ t = { s.setHart t.hart with events := s.events ++ [.event (.barrierArrival pa true)] }) ∧
      (∀ home : BitVec 16, memRead s.mem 2 (pa + 20) = home.toNat → home ≠ 0xFFFF → (h.rg a - h.shbase).toNat % 128 = 0 →
        h.openBatch = none → h.outstanding = [] → isSelf s home = false → sourceFailure s (partNum s s.cur.tile) h.ctxid home = none →
        let op : RemoteOp := { kind := .arrive, peer := home, off := (h.rg a - h.shbase).toNat, elem := 0 }
        let mine : Batch := { id := h.nextBatch, sync := false, ops := [{ op := op, res := none }], sent := true }
        ∃ t, exec (.barrive a) s = .next t ∧
          t.hart = { h with pc := h.pc + 4, batchWait := false, nextBatch := h.nextBatch + 1, outstanding := [mine] } ∧
          t = { s.setHart t.hart with peerOut := s.peerOut ++ [.subBatch home (sent mine)] })) ∧
    (a ≠ 0 → Calm s → Plain s .load 2 (h.rg a + 20) (pa + 20) → memRead s.mem 2 (pa + 20) = 0xFFFF →
      Plain s .load 4 (h.rg a + 12) (pa + 12) → Plain s .load 4 (h.rg a + 16) (pa + 16) → Plain s .load 1 (h.rg a + 22) (pa + 22) →
      let moved := memRead s.mem 4 (pa + 12) ≠ (h.rg d).toNat % 2 ^ 32
      let dead := memRead s.mem 1 (pa + 22) % 2 = 1
      (moved → writes (.bwait d a) (BitVec.ofNat 64 (memRead s.mem 4 (pa + 16)))) ∧
      (¬moved → dead → writes (.bwait d a) 0x8000000000000000) ∧
      (¬moved → ¬dead → h.sip.getLsbD 0 = true → writes (.bwait d a) 0x4000000000000000) ∧
      (¬moved → ¬dead → h.sip.getLsbD 0 = false → ends (.bwait d a) { h with bwait := none })) ∧
    -- the farm barrier
    (h.member = some m → farmBy s m.farm = some f → f.packet.gang = true →
      let mine := match f.harts[m.index]? with | some x => x.arrivals | none => 0
      let passed := ∀ x ∈ f.harts, mine ≤ x.arrivals ∨ x.exited = true
      (Settled s → ∃ t, exec (.barrive 0) s = .next t ∧ t.hart = { h with pc := h.pc + 4 } ∧ t = { s.setHart t.hart with farms := t.farms } ∧
        ∃ g, farmBy t m.farm = some g ∧ g.harts.length = f.harts.length ∧
          ∀ (j : Nat) x, f.harts[j]? = some x → g.harts[j]? = some (if j = m.index then { x with arrivals := x.arrivals + 1 } else x)) ∧
      (passed → writes (.bwait d 0) (BitVec.ofNat 64 (f.harts.filter fun x => x.exited && decide (x.arrivals < mine)).length)) ∧
      (¬passed → exec (.bwait d 0) s = .next s)) ∧
    (h.member = none → ∀ i ∈ [Instr.bwait d 0, .barrive 0], (i = .barrive 0 → Settled s) →
      exec i s = .next (trapNow s { code := 0x01, sub := 0, tval := i.tval, unres := false }))

/-- 10 R245, R246, 17 R346: TRIGGER marks its hart triggered. LAUNCH copies the packet of 128 bytes to the ring of a work queue open to the hart's context
and moves TAIL on, or answers 1 for a full queue and 2 for a closed one, with nothing enqueued. CREC reads the status word of a completion record. -/
def Obligations.WorkCreation : Prop :=
  ∀ (s : State) (d a : GReg) (q : BitVec 10) (p : Partition) (pa : Nat) (m : Membership),
    let h := s.hart
    (Quiet s →
      (h.member = none → ∃ t, exec .trigger s = .next t ∧ OnlyHart s t ∧ t.hart = { h with pc := h.pc + 4, batchWait := false }) ∧
      (h.member = some m → ∃ t, exec .trigger s = .next t ∧ t.hart = { h with pc := h.pc + 4, batchWait := false } ∧
        (∀ g ∈ t.farms, g.id = m.farm → ∀ x, g.harts[m.index]? = some x → x.triggered = true))) ∧
    (Calm s → Settled s → (h.rg a).toNat % 128 = 0 → (∀ j, j < 16 → Plain s .load 8 (h.rg a + BitVec.ofNat 64 (8 * j)) (pa + 8 * j)) →
      let c := queueCounts s p q.toNat
      let size := queueSize s p q.toNat
      let opens := queueUsable s p q.toNat = true ∧ bitAt (queueCtl s p q.toNat) 5 = true ∧ queueDevCtx s p q.toNat = h.ctxid
      let answers (x : Word) (mem : List Host.Cell) (qs : List (Nat × QueueCounts)) : Prop := ∃ t, exec (.launch d a q) s = .next t ∧
        t = { s.setHart t.hart with mem := t.mem, queues := t.queues } ∧ WroteFrom s h t (h.pc + 8) d x ∧ t.mem = mem ∧ t.queues = qs
      (partOf s s.cur.tile = some p → queuePart s q.toNat = some p → opens → c.tail.toNat - c.head.toNat ≠ size →
        answers 0 (memPut (memPut s.mem (cellsOfBytes (queueRing s p q.toNat + 128 * (c.tail.toNat % size)) (memBytes s.mem 128 pa)))
            (cellsOf 8 (queueAddr p q.toNat + 32) c.head.toNat ++ cellsOf 8 (queueAddr p q.toNat + 40) (c.tail + 1).toNat))
          (alSet s.queues q.toNat { c with tail := c.tail + 1 })) ∧
      (partOf s s.cur.tile = some p → queuePart s q.toNat = some p → opens → c.tail.toNat - c.head.toNat = size → answers 1 s.mem s.queues) ∧
      (queuePart s q.toNat = none ∨ (∃ o, partOf s s.cur.tile = some p ∧ queuePart s q.toNat = some o ∧ p.num ≠ o.num) ∨
          (partOf s s.cur.tile = some p ∧ queuePart s q.toNat = some p ∧ ¬opens) → answers 2 s.mem s.queues)) ∧
    ((h.rg a).toNat % 128 ≠ 0 → Settled s → exec (.launch d a q) s =
      .next (trapNow s { code := 0x04, sub := 0, tval := h.rg a, unres := false })) ∧
    (Calm s → Plain s .load 8 (h.rg a) pa → ∃ t, exec (.crec d a) s = .next t ∧ OnlyHart s t ∧
      WroteFrom s h t (h.pc + 8) d (BitVec.ofNat 64 (memRead s.mem 8 pa)))

/-- 01 R16: NEXTS asks the rake for the next strip j of its hart's farm. If one remains it writes its start, j × S, to g1 and its count, the smaller of S
and N − j × S, to g2; otherwise N to g1 and 0 to g2, again and again. Nothing else changes, and it does not wait for vector work; on a hart at S that is
placed for no farm it traps with cause 0x01 (06 R153), and that a hart at U without a farm traps so too is the model's choice (log 59). -/
def Obligations.NextStrip : Prop :=
  ∀ (s : State) (m : Membership) (f : Farm),
    let h := s.hart
    (h.member = some m → farmBy s m.farm = some f →
      let j := f.nextStrip.toNat
      let N := f.packet.n.toNat
      let S := f.packet.s.toNat
      let gives (x y : Word) (g : Farm) : Prop := ∃ t, exec .nexts s = .next t ∧ farmBy t m.farm = some g ∧ (∀ i, i ≠ m.farm → farmBy t i = farmBy s i) ∧
        t = { s.setHart t.hart with farms := t.farms } ∧ t.hart = { h with pc := h.pc + 4, g := t.hart.g, shd := t.hart.shd } ∧
        ∀ r, t.hart.rg r = if r = 1 then x else if r = 2 then y else h.rg r
      (j * S < N → S ≠ 0 → gives (BitVec.ofNat 64 (j * S)) (BitVec.ofNat 64 (min S (N - j * S))) { f with nextStrip := f.nextStrip + 1 }) ∧
      (N ≤ j * S → S ≠ 0 → gives f.packet.n 0 f)) ∧
    (h.member = none → exec .nexts s = .next (trapNow s { code := 0x01, sub := 0, tval := Instr.nexts.tval, unres := false }))

/-- 11 R253, R259, R262 to R268: the fabric's configurations. FLOAD reads the object and checks it whole: a bad one traps with cause 0x10 and nothing
changed, a good one becomes the stage. FSWAP takes the chosen staged regions and starts the drain of every resident region that shares a PE or an
index with them; at SWAP_COMPLETE they become resident, their PEs cleared. FDRAIN marks its regions draining, drain tokens behind their port inputs,
or with DISCARD, as in a swap that meets a stopped region, empties them but for the drain tokens of their output streams, and ends a mismatch's bar. A
region that has drained leaves, its flags in the owner's FFLAGS. FSTAT shows all this. Another hart or context traps with cause 0x01. Reason 0x01 with
INDEX 0 for a wrong MAGIC, whatever else is wrong (log 62), and STG counting the regions of a swap (log 60) are the model's choices. -/
def Obligations.FabricConfigurations : Prop :=
  ∀ (s u : State) (d a b : GReg) (off : BitVec 32) (pa : Nat → Nat) (n ri : Nat) (c m : FabricCfg) (D : List Nat),
    let h := s.hart
    let x := s.tile.fabric
    let mine : Prop := (x.regions = [] ∧ x.staged = none ∧ x.swap = none) ∨ x.owner = some (s.cur.h1, h.ctxid)
    let ran (i : Instr) (len : Nat) (p : Fabric → Prop) : Prop :=
      ∃ t, exec i s = .next t ∧ t = (s.modTile fun z => { z with fabric := t.tile.fabric }).setHart t.hart ∧
        t.hart = { h with pc := h.pc + BitVec.ofNat 64 len } ∧ p t.tile.fabric
    let traps (i : Instr) (r : TrapRec) : Prop := exec i s = .next (trapNow s r)
    let plain (code : BitVec 8) (v : Word) : TrapRec := { code := code, sub := 0, tval := v, unres := false }
    let va : Word := h.rg a + off.signExtend 64
    let obj : Nat := ((List.range 1600).map fun j => memRead s.mem 8 (pa j) * 2 ^ (64 * j)).foldl (· + ·) 0
    let sel (r : Nat) : Bool := a == 0 || (h.rg a).getLsbD r
    let inM (p : Nat) : Bool := c.pes.any fun y => y.pe == p && sel y.region
    let indexed : Prop := (x.regions.map fun r => r.cfg.index).Nodup
    let apart : Prop := ∀ y ∈ x.regions, ∀ z ∈ x.regions, (∃ i ∈ y.cfg.occupied, i ∈ z.cfg.occupied) → y = z
    let noEngines : Prop := ∀ e ∈ s.tile.engines.toList, e = none
    let ends (q : List Token) : List Token := if q.getLast? = some .drain then q else q ++ [.drain]
    let discarded (p : Pe) : Pe :=
      { p with ins := Vector.replicate 4 []
               outs := Vector.ofFn fun ch => match p.cfg.outKind ch.val with | .stream _ => [.drain] | _ => []
               quiescent := true }
    (¬mine → ∀ i ∈ [Instr.fload a off, .fswap a, .fdrain a, .fpush a b, .fpop d a], traps i (plain 0x01 i.tval)) ∧
    -- FLOAD
    (mine → Settled s → x.swap = none → va.toNat % 128 ≠ 0 → traps (.fload a off) (plain 0x04 va)) ∧
    (mine → Settled s → x.swap ≠ none → exec (.fload a off) s = .next s ∧ exec (.fswap a) s = .next s) ∧
    (mine → Calm s → Settled s → x.swap = none → va.toNat % 128 = 0 → (∀ j, j < 1600 → Plain s .load 8 (va + BitVec.ofNat 64 (8 * j)) (pa j)) →
      (∀ r, checkObject obj h.prot = some r → traps (.fload a off) (plain 0x10 (BitVec.ofNat 64 (2 ^ 63 + r.slot * 2 ^ 16 + r.index * 2 ^ 8 + r.reason)))) ∧
      (obj % 2 ^ 32 ≠ 0xFAB1 → traps (.fload a off) (plain 0x10 0x8000000000000001)) ∧
      (checkObject obj h.prot = none → obj % 2 ^ 32 = 0xFAB1 ∧ 1 ≤ obj / 2 ^ 32 % 256 ∧ obj / 2 ^ 32 % 256 ≤ 8 ∧
        ran (.fload a off) 8 fun y => y.staging = true ∧ y.owner = some (s.cur.h1, h.ctxid) ∧ y.staged = some (parseObject obj) ∧
          y = { x with staging := true, owner := y.owner, farm := h.member.map fun k => k.farm, staged := y.staged, leftover := y.leftover } ∧
          (parseObject obj).regions.length = obj / 2 ^ 32 % 256)) ∧
    (Fires s u (.stagingComplete n) → exec .stagingComplete s =
      .next (modTile u n fun z => { z with fabric := { z.fabric with staging := false } })) ∧
    -- FSWAP
    (mine → Settled s → x.swap = none → (∀ y, x.staged = some y → ∀ r ∈ y.regions, sel r.index = false) → ran (.fswap a) 4 fun y => y = x) ∧
    (mine → Settled s → x.swap = none → x.staged = some c → (∃ r ∈ c.regions, sel r.index = true) →
      ((∃ y ∈ c.streams, inM y.prodPe ≠ inM y.consPe) → traps (.fswap a) (plain 0x01 (Instr.fswap a).tval)) ∧
      ((∀ y ∈ c.streams, inM y.prodPe = inM y.consPe) → noEngines ∨ (∀ r ∈ x.regions, r.stopped = false) → ran (.fswap a) 4 fun y => ∃ D : List Nat,
        y.swap = some ({ regions := c.regions.filter (fun r => sel r.index), streams := c.streams.filter (fun z => inM z.prodPe),
                         pes := c.pes.filter fun p => sel p.region }, D) ∧
        y.staged = (if (c.regions.filter fun r => !sel r.index) = [] then none else
          some { regions := c.regions.filter fun r => !sel r.index, streams := c.streams.filter (fun z => !inM z.prodPe),
                 pes := c.pes.filter fun p => !sel p.region }) ∧
        (∀ r ∈ x.regions, (∃ z ∈ c.regions, sel z.index = true ∧ (z.index = r.cfg.index ∨ ∃ p ∈ z.occupied, p ∈ r.cfg.occupied)) → r.cfg.index ∈ D) ∧
        (∀ r ∈ y.regions, r.cfg.index ∈ D → r.draining = true) ∧
        (∀ r ∈ x.regions, r.cfg.index ∉ D → r ∈ y.regions) ∧
        (indexed → apart → ∀ i r p, x.home i = some r → r.cfg.index ∈ D → r.stopped = true → x.pe i = some p → y.pe i = some (discarded p)))) ∧
    (Fires s u (.swapComplete n) →
      let y := (tileAt u n).fabric
      (y.swap = some (m, D) → y.staging = false → y.swapDrains = [] → (∀ r ∈ D, ∀ z ∈ y.regions, z.cfg.index ≠ r) → (∀ r ∈ m.regions, r.duplex = false) →
        (m.pes.map fun p => p.pe).Nodup → ∃ t, exec .swapComplete s = .next t ∧ t.mem = u.mem ∧ (∀ i, getHart t i = getHart u i) ∧
          let z := (tileAt t n).fabric
          z.swap = none ∧ z.regions = y.regions ++ m.regions.map (fun r => { cfg := r, stopped := false, barred := false, draining := false }) ∧
          (∀ p ∈ m.pes, z.pe p.pe = some { cfg := p, d := Vector.replicate 8 0, p := 0, ins := Vector.replicate 4 [], outs := Vector.replicate 4 [],
                                           quiescent := false }) ∧
          (∀ i, (∀ p ∈ m.pes, p.pe ≠ i) → z.pe i = y.pe i)) ∧
      (y.swap = none ∨ y.staging = true ∨ (∃ r ∈ D, y.swap = some (m, D) ∧ ∃ z ∈ y.regions, z.cfg.index = r) → exec .swapComplete s = .next u)) ∧
    -- FDRAIN
    (mine → indexed → a = 0 ∨ (h.rg a).getLsbD 8 = false → ran (.fdrain a) 4 fun y => ∃ D : List Nat,
      (∀ r ∈ x.regions, sel r.cfg.index = true → r.cfg.index ∈ D) ∧ (∀ r ∈ y.regions, r.cfg.index ∈ D → r.draining = true) ∧
      (∀ r ∈ x.regions, r.cfg.index ∉ D → r ∈ y.regions) ∧
      ∀ i ch r p, ch < 4 → x.home i = some r → r.cfg.index ∈ D → r.cfg.duplex = false → x.pe i = some p → p.cfg.inKind ch = .port →
        ∃ q, y.pe i = some q ∧ q.inq ch = ends (p.inq ch)) ∧
    (mine → indexed → a ≠ 0 → (h.rg a).getLsbD 8 = true → noEngines → ran (.fdrain a) 4 fun y => ∃ D : List Nat,
      (∀ r ∈ x.regions, sel r.cfg.index = true → r.cfg.index ∈ D) ∧
      (∀ r ∈ y.regions, r.cfg.index ∈ D → r.draining = true ∧ r.barred = false) ∧
      ∀ i r p, x.home i = some r → r.cfg.index ∈ D → x.pe i = some p →
        y.pe i = some (discarded p)) ∧
    -- a region has drained
    (Fires s u (.regionDrained n ri) →
      let y := (tileAt u n).fabric
      let done : Prop := ∃ r, y.region ri = some r ∧ ∀ i ∈ r.cfg.occupied, ∃ p, y.pe i = some p ∧ p.quiescent = true ∧
        ∀ ch k, ch < 4 → p.cfg.outKind ch = .stream k → p.outq ch = []
      (∀ e ∈ (tileAt u n).engines.toList, e = none) →
      (done → ∀ h1 o, y.owner = some (h1, o) → ∃ t, exec .regionDrained s = .next t ∧ t.mem = u.mem ∧
        getHart t ⟨n, h1⟩ = { getHart u ⟨n, h1⟩ with
          fflags := (getHart u ⟨n, h1⟩).fflags ||| y.flags.setWidth 6, ulipend := (getHart u ⟨n, h1⟩).ulipend ||| 8 } ∧
        (tileAt t n).fabric.flags = 0 ∧ (tileAt t n).fabric.regions = y.regions.filter fun r => r.cfg.index != ri) ∧
      (y.region ri = none → exec .regionDrained s = .next u)) ∧
    -- FSTAT
    (∃ t v, exec (.fstat d) s = .next t ∧ OnlyHart s t ∧ WroteG s t (h.pc + 4) d v ∧ (¬mine → v = 0x8000000000000000) ∧
      (mine → (∀ r ∈ x.regions, r.cfg.index < 8) → (∀ y, x.staged = some y → ∀ r ∈ y.regions, r.index < 8) →
        (∀ y D, x.swap = some (y, D) → ∀ r ∈ y.regions, r.index < 8) →
        let staged (r : Nat) : Prop := ∃ y, x.staged = some y ∧ ∃ z ∈ y.regions, z.index = r
        let swapped (r : Nat) : Prop := ∃ y D, x.swap = some (y, D) ∧ ∃ z ∈ y.regions, z.index = r
        (∀ r, r < 8 →
          (v.getLsbD r = true ↔ ∃ y ∈ x.regions, y.cfg.index = r) ∧
          (v.getLsbD (8 + r) = true ↔ ∃ y ∈ x.regions, y.cfg.index = r ∧
            (y.draining = true ∨ ∃ i ∈ y.cfg.pes, ∃ p, x.pe i = some p ∧ p.quiescent = true)) ∧
          (v.getLsbD (16 + r) = true ↔ staged r ∨ swapped r) ∧
          (v.getLsbD (24 + r) = true ↔ ∃ y ∈ x.regions, y.cfg.index = r ∧ y.stopped = true) ∧
          (v.getLsbD (32 + r) = true ↔ swapped r)) ∧
        (∀ i, i < 5 → v.getLsbD (40 + i) = x.flags.getLsbD i) ∧ ∀ i, 45 ≤ i → v.getLsbD i = false))

/-- 11 R247 to R251, R258, R260, R261, R266, R269, R417: how tokens move. A PE fires its lowest ready slot: the result of its operation to a d register or
an output with its tag, the heads that DQ names removed, the flag to the predicate; FAULT stops the region and its record goes to the owner's hart
where there is no fault edge; along fault edges it enters, with tag 3, in3 of the lowest PE of the first region that runs and has room, with ESC where it passed one
that does not, and the hart where the last of those has no edge. A wire and a stream pass tokens in order while there is room; that a token for a
consumer that is gone or quiescent is lost is the model's choice (log 60). A PE whose inputs all show drain tokens becomes quiescent
and passes them on. FPUSH and FPOP put and take tokens at unbound ports and wait for room and for a token. A duplex output that differs stops its
region. A fault record reaches its hart as cause 0x10, a mismatch as 0x12, at a boundary. Stated for regions without mirrors but for the mismatch. -/
def Obligations.FabricFiring : Prop :=
  ∀ (s u : State) (d a b : GReg) (n : Nat) (i : BitVec 6) (chan : BitVec 2) (r : Region) (p q : Pe) (pre post : List (BitVec 64)) (w : BitVec 64)
    (tok : Token) (rest : List Token) (st : FStream) (j : HartId) (v : Word),
    let h := s.hart
    let y := (tileAt u n).fabric
    let put (y' : Fabric) : State := modTile u n fun z => { z with fabric := y' }
    let field (lo k : Nat) : Nat := w.toNat / 2 ^ lo % 2 ^ k
    let ends (q : List Token) : List Token := if q.getLast? = some .drain then q else q ++ [.drain]
    let at' (i : Nat) (r : Region) (p : Pe) : Prop := y.home i = some r ∧ r.cfg.duplex = false ∧ r.stopped = false ∧ r.barred = false ∧ y.pe i = some p
    -- firing
    let ready (w : BitVec 64) : Prop :=
      w.getLsbD 63 = true ∧ (∀ k, k < 8 → w.getLsbD (55 + k) = true → p.p.getLsbD k = w.getLsbD (47 + k)) ∧
      (∀ k, k < 4 → w.getLsbD (43 + k) = true → ∃ x t, (p.inq k).head? = some (.data x t)) ∧
      (w.getLsbD 42 = true → ∃ x t, (p.inq (w.toNat / 2 ^ 40 % 4)).head? = some (.data x t) ∧ t.toNat = w.toNat / 2 ^ 38 % 4) ∧
      ∀ k, k < 4 → w.getLsbD (34 + k) = true → (p.outq k).length < 4
    let src (c : Nat) : BitVec 32 :=
      if c < 8 then p.d.toList.getD c 0
      else if c < 12 then (match (p.inq (c - 8)).head? with | some (.data x _) => x | _ => 0) else p.cfg.consts.getD (c - 12) 0
    let tag : BitVec 2 := match (p.inq (field 20 4 - 8)).head? with | some (.data _ t) => t | _ => 0
    let op := field 28 6
    let imm : BitVec 6 := w.setWidth 6
    let k3 := imm.toNat % 8
    let gives (x z : BitVec 32) (res : BitVec 32) (flag : Bool) (fl : BitVec 6) : Prop :=
      let F := fp32Form
      let X := F.decode x.toNat
      let Z := F.decode z.toNat
      let int (r : BitVec 32) (f : Bool) : Prop := res = r ∧ flag = f ∧ fl = 0
      let flt (r : FOut) (f : Bool) : Prop := res = BitVec.ofNat 32 r.bits ∧ flag = f ∧ fl = r.flags
      let tst (f : Bool) (e : BitVec 6) : Prop := flag = f ∧ fl = e
      let i0 := imm.getLsbD 0
      (op = 0x00 → int x i0) ∧ (op = 0x01 → int (x + z) i0) ∧ (op = 0x02 → int (x - z) i0) ∧ (op = 0x03 → int (x * z) i0) ∧
      (op = 0x04 → int (x &&& z) i0) ∧ (op = 0x05 → int (x ||| z) i0) ∧ (op = 0x06 → int (x ^^^ z) i0) ∧
      (op = 0x07 → int (x <<< (z.toNat % 32)) i0) ∧ (op = 0x08 → int (x >>> (z.toNat % 32)) i0) ∧
      (op = 0x09 → int (x + imm.signExtend 32) true) ∧ (op = 0x0A → int (x <<< (imm.toNat % 32)) true) ∧
      (op = 0x0B → int (x >>> (imm.toNat % 32)) true) ∧ (op = 0x0C → int (x.sshiftRight (imm.toNat % 32)) true) ∧
      (op = 0x0D → int (if z.toInt < x.toInt then z else x) i0) ∧ (op = 0x0E → int (if x.toInt < z.toInt then z else x) i0) ∧
      (op = 0x0F → int (if p.p.getLsbD k3 then x else z) true) ∧ (op = 0x10 → int (imm.signExtend 32) true) ∧
      (op = 0x11 → flt (F.addV .rne X Z) i0) ∧ (op = 0x12 → flt (F.addV .rne X Z.neg) i0) ∧ (op = 0x13 → flt (F.mulV .rne X Z) i0) ∧
      (op = 0x14 → flt (F.fmaV .rne X Z (F.decode (p.d.toList.getD k3 0).toNat)) true) ∧
      (op = 0x15 → flt (F.minmax true x.toNat z.toNat) i0) ∧ (op = 0x16 → flt (F.minmax false x.toNat z.toNat) i0) ∧
      (op = 0x17 → flt (F.exp2V .rne x.toNat) i0) ∧ (op = 0x18 → flt (F.rcpV .rne x.toNat) i0) ∧
      (op = 0x19 → flag = i0 ∧ res = BitVec.ofNat 32 ((bf16Form.convert .rne X).bits + 65536 * (bf16Form.convert .rne Z).bits) ∧
        fl = (bf16Form.convert .rne X).flags ||| (bf16Form.convert .rne Z).flags) ∧
      (op = 0x1A → flt (F.convert .rne (bf16Form.decode (x.toNat / 2 ^ (if i0 then 16 else 0) % 65536))) true) ∧
      (op = 0x1B → tst (x == z) 0) ∧ (op = 0x1C → tst (decide (x.toInt < z.toInt)) 0) ∧ (op = 0x1D → tst (decide (x.toNat < z.toNat)) 0) ∧
      (op = 0x1E → tst (!X.isNan && !Z.isNan && X.lt Z) 0) ∧ (op = 0x1F → tst (!X.isNan && !Z.isNan && !X.lt Z && !Z.lt X) 0) ∧
      (op = 0x20 → tst i0 0) ∧ (op = 0x21 → int (tag.setWidth 32) i0)
    let writes : Prop := op < 0x1B ∨ op = 0x21
    (Fires s u (.peFire n i) → at' i.toNat r p → p.quiescent = false → p.cfg.slots = pre ++ w :: post →
      (∀ z ∈ p.cfg.slots, ∀ k, k < 8 → z.getLsbD (47 + k) = true → z.getLsbD (55 + k) = true) → (∀ z ∈ pre, ¬ready z) → ready w →
      (op ≤ 0x21 → ∃ t p' res flag fl, exec .peFire s = .next t ∧ gives (src (field 20 4)) (src (field 16 4)) res flag fl ∧
        t = put { y with pes := alSet y.pes i.toNat p', flags := y.flags ||| fl.setWidth 5 } ∧ p'.cfg = p.cfg ∧ p'.quiescent = false ∧
        (∀ k, k < 8 → p'.d.toList.getD k 0 = if writes ∧ field 24 4 = k then res else p.d.toList.getD k 0) ∧
        (∀ k, k < 4 → p'.outq k = if writes ∧ field 24 4 = 8 + k then p.outq k ++ [.data res (BitVec.ofNat 2 (field 6 2))] else p.outq k) ∧
        (∀ k, k < 4 → p'.inq k = if w.getLsbD (12 + k) then (p.inq k).tail else p.inq k) ∧
        ∀ k, k < 8 → p'.p.getLsbD k = if w.getLsbD 11 = true ∧ field 8 3 = k then flag else p.p.getLsbD k) ∧
      (op = 0x22 → r.cfg.fedge = none → y.region r.cfg.index = some r → ∀ h1 c, y.owner = some (h1, c) → ∃ t, exec .peFire s = .next t ∧ t.mem = u.mem ∧
        (∀ z ∈ (tileAt t n).fabric.regions, z.cfg.index = r.cfg.index → z.stopped = true) ∧
        getHart t ⟨n, h1⟩ = { getHart u ⟨n, h1⟩ with fabricEvents := (getHart u ⟨n, h1⟩).fabricEvents ++
          [.fault c (BitVec.ofNat 64 (imm.toNat + i.toNat * 2 ^ 8 + r.cfg.index * 2 ^ 16))] }) ∧
      (op = 0x22 → y.region r.cfg.index = some r → ∀ (path : List Region) (last : Region), path.length < 8 →
        let busy (k : Region) : Prop := k.stopped = true ∨
          ∃ m z, k.cfg.pes.head? = some m ∧ y.home m = some k ∧ y.pe m = some z ∧ 4 ≤ (z.inq 3).length
        let record : Nat := imm.toNat + i.toNat * 2 ^ 8 + r.cfg.index * 2 ^ 16
        (∀ (l : Nat) (x k : Region), (r :: path)[l]? = some x → (path ++ [last])[l]? = some k →
          x.cfg.fedge = some k.cfg.index ∧ y.region k.cfg.index = some k ∧ k.cfg.index ≠ r.cfg.index ∧ k.cfg.duplex = false) →
        (∀ k ∈ path, busy k) →
        (∀ m z, last.stopped = false → last.cfg.pes.head? = some m → y.home m = some last → y.pe m = some z → (z.inq 3).length < 4 →
          ∃ t z', exec .peFire s = .next t ∧ t.mem = u.mem ∧ (∀ k, getHart t k = getHart u k) ∧ (tileAt t n).fabric.pe m = some z' ∧
            z'.inq 3 = z.inq 3 ++ [.data (BitVec.ofNat 32 (record ||| if path = [] then 0 else 2 ^ 19)) 3] ∧
            ∀ k ∈ (tileAt t n).fabric.regions, k.cfg.index = r.cfg.index → k.stopped = true) ∧
        (busy last → last.cfg.fedge = none → ∀ h1 c, y.owner = some (h1, c) → ∃ t, exec .peFire s = .next t ∧ t.mem = u.mem ∧
          getHart t ⟨n, h1⟩ = { getHart u ⟨n, h1⟩ with
            fabricEvents := (getHart u ⟨n, h1⟩).fabricEvents ++ [.fault c (BitVec.ofNat 64 (record ||| 2 ^ 19))] }))) ∧
    (Fires s u (.peFire n i) → at' i.toNat r p → p.quiescent = true ∨ (∀ z ∈ p.cfg.slots, ¬ready z) → exec .peFire s = .next u) ∧
    -- a wire, and a stream
    (∀ m ch, Fires s u (.tokenTransfer n i chan) → at' i.toNat r p → (∀ z ∈ y.streams, ¬(z.cfg.prodPe = i.toNat ∧ z.cfg.prodCh = chan.toNat)) →
      p.cfg.outKind chan.toNat = .wire m ch → ch < 4 → p.outq chan.toNat = tok :: rest → y.pe m = some q →
      (tok = .drain ∨ (q.inq ch).length < 4 → ∃ t, exec .tokenTransfer s = .next t ∧ t = put { y with pes := (tileAt t n).fabric.pes } ∧
        (∃ p' q', (tileAt t n).fabric.pe i.toNat = some p' ∧ (tileAt t n).fabric.pe m = some q' ∧ p'.outq chan.toNat = rest ∧
          q'.inq ch = if tok = .drain then ends (q.inq ch) else q.inq ch ++ [tok])) ∧
      (tok ≠ .drain → 4 ≤ (q.inq ch).length → exec .tokenTransfer s = .next u)) ∧
    (Fires s u (.tokenTransfer n i chan) → at' i.toNat r p → y.streamFrom i.toNat chan.toNat = some st →
      y.fromLeft i.toNat chan.toNat = none →
      let moved (t : State) : Prop := exec .tokenTransfer s = .next t ∧ t.mem = u.mem ∧ ∀ k, getHart t k = getHart u k
      let after (t : State) (l : List Token) : Prop := (tileAt t n).fabric.streamFrom i.toNat chan.toNat = some { st with q := l }
      (p.outq chan.toNat = tok :: rest → st.q = [] → 0 < st.cfg.depth → ∃ t p', moved t ∧ after t [tok] ∧
        (tileAt t n).fabric.pe i.toNat = some p' ∧ p'.outq chan.toNat = rest) ∧
      (p.outq chan.toNat = [] → st.q = tok :: rest → st.consGone = true ∨ (y.pe st.cfg.consPe = some q ∧ q.quiescent = true) →
        ∃ t, moved t ∧ after t rest ∧ (tileAt t n).fabric.pes = y.pes) ∧
      (∀ z, p.outq chan.toNat = [] → st.q = tok :: rest → st.consGone = false → q.quiescent = false →
        at' st.cfg.consPe z q → st.cfg.consCh < 4 → st.cfg.consPe ≠ i.toNat →
        (tok = .drain ∨ (q.inq st.cfg.consCh).length < 4 → ∃ t q', moved t ∧ after t rest ∧ (tileAt t n).fabric.pe st.cfg.consPe = some q' ∧
          q'.inq st.cfg.consCh = if tok = .drain then ends (q.inq st.cfg.consCh) else q.inq st.cfg.consCh ++ [tok]) ∧
        (tok ≠ .drain → 4 ≤ (q.inq st.cfg.consCh).length → exec .tokenTransfer s = .next u))) ∧
    -- quiescence
    (Fires s u (.peQuiescence n i) → at' i.toNat r p → p.quiescent = false →
      let joined (ch : Nat) : Prop := ch < 4 ∧ p.cfg.inKind ch ≠ .unused ∧ p.cfg.inKind ch ≠ .faultIn
      let drained : Prop := (∀ ch, joined ch → (p.inq ch).head? = some .drain) ∧ ((∀ ch, ¬joined ch) → r.draining = true)
      (drained → ∃ t p', exec .peQuiescence s = .next t ∧ t = put { y with pes := alSet y.pes i.toNat p' } ∧
        p' = { p with ins := p'.ins, outs := p'.outs, quiescent := true } ∧
        ∀ ch, ch < 4 → (joined ch → p'.inq ch = (p.inq ch).tail) ∧ (¬joined ch → p'.inq ch = p.inq ch) ∧
          p'.outq ch = if p.cfg.outKind ch = .unused then p.outq ch else ends (p.outq ch)) ∧
      (¬drained → exec .peQuiescence s = .next u)) ∧
    -- ports
    (let x := s.tile.fabric
     let me := (s.cur.h1, h.ctxid)
     let g := h.rg a
     let pe := g.toNat % 64
     let ch := g.toNat / 64 % 4
     let free (b : Binding) : Prop := ∀ e ∈ s.tile.engines.toList, ∀ z, e = some z → z.bind ≠ b
     let isIn : Prop := ∃ r p, x.home pe = some r ∧ x.pe pe = some p ∧ p.cfg.inKind ch = .port
     let isOut : Prop := ∃ r p, x.home pe = some r ∧ x.pe pe = some p ∧ p.cfg.outKind ch = .port
     let ran (i : Instr) (dst : GReg) (val : Word) (x' : Fabric) : Prop := ∃ t, exec i s = .next t ∧
       t = (s.modTile fun z => { z with fabric := x' }).setHart t.hart ∧ WroteFrom s h t (h.pc + 4) dst val
     let word (t : Token) : Word := match t with | .drain => 0x8000000000000000 | .data x t => x.setWidth 64 ||| t.setWidth 64 <<< 32
     let illegal (i : Instr) : Prop := exec i s = .next (trapNow s { code := 0x01, sub := 0, tval := i.tval, unres := false })
     x.owner = some me →
     (¬(isIn ∧ free (.fin pe ch false)) → illegal (.fpush a b)) ∧
     (isIn → free (.fin pe ch false) → x.home pe = some r → r.cfg.duplex = false → x.pe pe = some p →
       (g.getLsbD 10 = true → ran (.fpush a b) 0 0 { x with pes := alSet x.pes pe { p with ins := p.ins.setIfInBounds ch (ends (p.inq ch)) } }) ∧
       (g.getLsbD 10 = false → (p.inq ch).length < 4 → ran (.fpush a b) 0 0
         { x with pes := alSet x.pes pe
                    { p with ins := p.ins.setIfInBounds ch (p.inq ch ++ [.data ((h.rg b).setWidth 32) (BitVec.ofNat 2 (g.toNat / 256))]) } }) ∧
       (g.getLsbD 10 = false → 4 ≤ (p.inq ch).length → exec (.fpush a b) s = .next s)) ∧
     (isOut → free (.fout pe ch false) → x.home pe = some r → x.pe pe = some p →
       (r.cfg.duplex = false → r.barred = false → p.outq ch = tok :: rest → ran (.fpop d a) d (word tok)
         { x with pes := alSet x.pes pe { p with outs := p.outs.setIfInBounds ch rest } }) ∧
       (p.outq ch = [] → exec (.fpop d a) s = .next s) ∧
       (∀ tok' rest', r.cfg.duplex = true → x.pe (pe + 4) = some q → p.outq ch = tok :: rest → q.outq ch = tok' :: rest' → tok ≠ tok' →
         r.barred = false → x.farm = none → ∃ t, exec (.fpop d a) s = .next t ∧ t.mem = s.mem ∧ t.tile.fabric.pes = x.pes ∧
           (∀ z ∈ t.tile.fabric.regions, z.cfg.index = r.cfg.index → z.stopped = true) ∧
           t.hart = { h with fabricEvents := h.fabricEvents ++ [.mismatch h.ctxid (BitVec.ofNat 64 (2 ^ 63 + r.cfg.index * 2 ^ 16 + pe * 2 ^ 8 + ch))] } ∧
           ∃ l, t.log.getLast? = some l ∧ l.kind = 0x04)) ∧
     (∀ l, x.home pe = none → alGet x.leftover pe = some l → l.pe = p →
       (p.cfg.outKind ch ≠ .port ∨ ¬free (.fout pe ch false) → illegal (.fpop d a)) ∧
       (p.cfg.outKind ch = .port → free (.fout pe ch false) →
         (l.barred = false → l.mirror = none → p.outq ch = tok :: rest → ran (.fpop d a) d (word tok)
           { x with leftover := alSet x.leftover pe { l with pe := { p with outs := p.outs.setIfInBounds ch rest } } }) ∧
         (p.outq ch = [] → exec (.fpop d a) s = .next s))) ∧
     (x.home pe = none → alGet x.leftover pe = none → illegal (.fpop d a))) ∧
    -- a fabric event at a boundary
    (∀ (e : FabricEvent) code unres, (e, code, unres) ∈ [(.fault (getHart u j).ctxid v, 0x10, false), (.mismatch (getHart u j).ctxid v, (0x12 : BitVec 8), true)] →
      Fires s u (.fabricFaultDelivery j) →
      let g := getHart u j
      let bounded : Prop := (g.run = .running ∨ g.run = .wfe ∨ g.run = .weight) ∧ g.vq = [] ∧ g.inProgress = none ∧ g.trapWait = none
      ∀ l, g.fabricEvents = e :: l →
        (¬bounded → exec .fabricFaultDelivery s = .next u) ∧
        (bounded → ¬(g.level = .s ∧ g.tip = true) → (tileAt u j.tile).seqr ≠ some j.h1 → ∃ t, exec .fabricFaultDelivery s = .next t ∧
          t.mem = u.mem ∧ (let g' := getHart t j
            g'.fabricEvents = l ∧ g'.level = .s ∧ g'.pc = g.tvec ∧ g'.tepc = g.pc &&& 0x000FFFFFFFFFFFFC ∧ g'.tcause = code.setWidth 64 ∧
            g'.tval = v ∧ g'.unres = (g.unres || unres) ∧ g'.tip = true ∧ g'.ie = false ∧ g'.pp = g.level ∧ g'.g = g.g ∧ g'.v = g.v)))

/-- 11 R272 to R274, R277, 04 R89, R91, R93: the stream instructions, here with no effect lagging. SOPEN reads its descriptor and holds a free engine,
with a reservation on every line of its range where it asks for one, or writes code 1 for a held engine, 2 where a home has no free entry, 3 for a bad
descriptor; the first page of the range that fails gives its trap. SBIND binds it to an unbound port or to a load-data queue of the current type, or
writes codes 1 to 4, where 4 with VTYPE.ILL = 1 is the model's choice (log 63). SCLOSE ends a running stream, releases its reservation, frees the engine
and writes what SSTAT read just before; both write 0 for an engine that the hart does not hold. -/
def Obligations.StreamInstructions : Prop :=
  ∀ (s : State) (d a : GReg) (e : Engine) (wr : Bool) (pol : Policy) (pa : Nat → Nat) (pe : BitVec 6) (ch n : BitVec 2) (x : EngineState) (r : Resv),
    let h := s.hart
    let fab := s.tile.fabric
    let held (x : EngineState) : Prop := engineAt s s.cur.tile e = some x ∧ x.h1 = s.cur.h1 ∧ x.ctx = h.ctxid
    let wrote (i : Instr) (v : Word) (p : Option EngineState → Prop) : Prop := ∃ t y, exec i s = .next t ∧ p y ∧
      t = (s.modTile fun z => { z with engines := z.engines.set e.toNat y e.isLt }).setHart t.hart ∧ WroteFrom s h t (h.pc + 8) d v
    let kept (i : Instr) (v : Word) : Prop := ∃ t, exec i s = .next t ∧ OnlyHart s t ∧ WroteFrom s h t (h.pc + 8) d v
    let f (j lo len : Nat) : Nat := memRead s.mem 8 (pa j) / 2 ^ lo % 2 ^ len
    let total := f 1 0 32 * f 1 32 32
    let good : Prop := f 1 0 32 ≠ 0 ∧ f 1 32 32 ≠ 0 ∧ (f 4 8 8 = 3 ∨ f 4 0 8 ≤ 3) ∧ f 4 8 8 ≤ 3 ∧ f 4 16 8 ≤ 2 ∧ f 4 25 7 = 0 ∧ (f 4 8 8 ≠ 3 → f 4 32 32 = 0) ∧
      f 5 0 64 % 8 = 0 ∧ f 6 0 64 = 0 ∧ f 7 0 64 = 0 ∧ (f 4 8 8 = 3 → total % 32 = 0) ∧ (wr = true → f 4 8 8 ≠ 1 ∧ f 4 8 8 ≠ 3) ∧
      (f 4 8 8 = 2 → f 4 0 8 = 1)
    let busy : Prop := (engineAt s s.cur.tile e).isSome = true ∨ (e = 0 ∧ s.tile.seqr.isSome = true)
    -- the bytes of the range, and one that the context reaches at pb
    let ds : StreamDesc := descOf ((List.range 8).map fun j => memRead s.mem 8 (pa j))
    let inRange (b : Nat) : Prop := if f 4 8 8 = 3 then f 0 0 64 ≤ b ∧ b < f 0 0 64 + f 4 32 32
      else ∃ j i, j < total ∧ i < 2 ^ f 4 0 8 ∧ b = (elementAt ds j).toNat + i
    let sp : Space := { level := .u, table := if h.translated then some (h.root, h.asid) else none,
                        part := partByNum s (partNum s s.cur.tile), who := hartWho s s.cur }
    let kind : AccKind := if wr then .store else .load
    let reaches (pb b : Nat) : Prop := ∃ ty en, b < 2 ^ 64 ∧ translate s sp kind (BitVec.ofNat 64 b) = .ok pb ty en ∧ ty ≠ 3 ∧ markLeaf s sp kind b en = s
    let opened (y : EngineState) : Prop := y.h1 = s.cur.h1 ∧ y.ctx = h.ctxid ∧ y.phase = .inUse ∧ y.registering = [] ∧ y.wr = wr ∧ y.policy = pol ∧ y.bind = .none ∧
      y.count = 0 ∧ y.pos = 0 ∧ y.done = false ∧ y.err = false ∧ y.swf = false ∧ y.part = partNum s s.cur.tile ∧
      y.root = (if h.translated then some (h.root, h.asid) else none) ∧
      y.desc = { base := BitVec.ofNat 64 (f 0 0 64), icnt := f 1 0 32, ocnt := f 1 32 32, istr := BitVec.ofNat 64 (f 2 0 64),
                 ostr := BitVec.ofNat 64 (f 3 0 64), esize := f 4 0 8, enc := f 4 8 8, tagm := f 4 16 8, rsv := f 4 24 1 == 1, bytes := f 4 32 32,
                 sbar := BitVec.ofNat 64 (f 5 0 64) }
    let freeing : Prop := ∃ y ∈ s.resvs, y.tile = s.cur.tile ∧ y.e = e ∧ y.freeing = true
    let unused : Prop := ∀ x, held x → x.phase ≠ .opening
    (Settled s → unused → freeing → exec (.sopen d a e wr pol) s = .next s) ∧
    (Settled s → unused → ¬freeing → (h.rg a).toNat % 64 ≠ 0 →
      exec (.sopen d a e wr pol) s = .next (trapNow s { code := 0x04, sub := 0, tval := h.rg a, unres := false })) ∧
    (Calm s → Settled s → unused → (h.rg a).toNat % 64 = 0 →
      (∀ j, j < 8 → Plain s .load 8 (h.rg a + BitVec.ofNat 64 (8 * j)) (pa j)) →
      (busy → kept (.sopen d a e wr pol) 1) ∧
      (¬busy → ¬good → kept (.sopen d a e wr pol) 3) ∧
      (¬busy → good → f 4 24 1 = 0 → wrote (.sopen d a e wr pol) 0 fun y => ∃ z, y = some z ∧ opened z ∧ z.pages = []) ∧
      (∀ pb : Nat → Nat, s.tlb = [] → ¬busy → good → f 4 24 1 = 1 → (∀ b, inRange b → reaches (pb b) b) →
        ∃ t y z, exec (.sopen d a e wr pol) s = .next t ∧ engineAt t s.cur.tile e = some y ∧ opened y ∧ WroteFrom s h t (h.pc + 8) d 0 ∧
          t.mem = s.mem ∧ t.resvs = [z] ∧ z.tile = s.cur.tile ∧ z.e = e ∧ z.h1 = s.cur.h1 ∧ z.ctx = h.ctxid ∧ z.wi = wr ∧ z.policy = pol ∧ z.cut = false ∧
          (∀ b, inRange b → pb b / 128 ∈ z.lines) ∧ ∀ l ∈ z.lines, .resv s.cur.tile e ∈ (dirAt t l).ptrs) ∧
      (∀ (pb : Nat → Nat) (j : Nat) (tr : TrapRec), s.tlb = [] → ¬busy → good → f 4 24 1 = 1 →
        let x := if f 4 8 8 = 3 then (if j = 0 then f 0 0 64 else (f 0 0 64 / 65536 + j) * 65536) else (elementAt ds j).toNat
        inRange x → (f 4 8 8 ≠ 3 → j < total) →
        (∀ b, (if f 4 8 8 = 3 then f 0 0 64 ≤ b ∧ b < x else ∃ m i, m < j ∧ i < 2 ^ f 4 0 8 ∧ b = (elementAt ds m).toNat + i) →
          reaches (pb b) b ∧ b / 65536 ≠ x / 65536) →
        translate s sp kind (BitVec.ofNat 64 x) = .trap tr → exec (.sopen d a e wr pol) s = .next (trapNow s tr))) ∧
    -- a home with no free entry
    (∀ (pb : Nat → Nat) (b : Nat), Calm { s with resvs := [], dir := [] } → Settled s → unused → ¬freeing → (h.rg a).toNat % 64 = 0 →
      (∀ y ∈ s.resvs, y.wi = false) → (∀ y ∈ s.dir, y.2.busy = none ∧ y.2.sv = false) → s.tlb = [] → wr = false →
      (∀ j, j < 8 → Plain s .load 8 (h.rg a + BitVec.ofNat 64 (8 * j)) (pa j)) → ¬busy → good → f 4 24 1 = 1 →
      (∀ b, inRange b → reaches (pb b) b) → inRange b →
      (∃ l, l = pb b / 128 ∧ (((dirAt s l).ptrs.length = 6 ∧ ∀ p ∈ (dirAt s l).ptrs, ∃ k y, p = .resv k y) ∨
        16 ≤ (s.resvs.filter fun y => y.lines.any fun m => sliceOf s m == sliceOf s l).length)) → kept (.sopen d a e wr pol) 2) ∧
    -- SBIND
    (fab.regions ≠ [] → fab.owner ≠ some (s.cur.h1, h.ctxid) → ∀ b ∈ [BindTarget.fin pe ch, .fout pe ch],
      exec (.sbind d e b) s = .next (trapNow s { code := 0x01, sub := 0, tval := (Instr.sbind d e b).tval, unres := false })) ∧
    ((fab.regions = [] ∧ fab.staged = none ∧ fab.swap = none) ∨ fab.owner = some (s.cur.h1, h.ctxid) →
      let free (b : Binding) : Prop := ∀ k ∈ s.tile.engines.toList, ∀ z, k = some z → z.bind ≠ b
      let bound (b : BindTarget) (z : Binding) : Prop := wrote (.sbind d e b) 0 fun y => y = some { x with bind := z }
      let coming (out : Bool) : Prop := ∃ m D, fab.swap = some (m, D) ∧ ∃ c ∈ m.pes, c.pe = pe.toNat ∧
        (if out then c.outKind ch.toNat else c.inKind ch.toNat) = .port
      let isPort (out : Bool) : Prop := ∃ r p, fab.home pe.toNat = some r ∧ fab.pe pe.toNat = some p ∧
        (if out then p.cfg.outKind ch.toNat else p.cfg.inKind ch.toNat) = .port
      (∀ b, (∀ x, ¬held x) → kept (.sbind d e b) 1) ∧
      (held x → (∀ b, x.bind ≠ .none → kept (.sbind d e b) 1) ∧
        (x.bind = .none →
          (x.wr = true → kept (.sbind d e (.fin pe ch)) 2 ∧ kept (.sbind d e (.queue n)) 2) ∧ (x.wr = false → kept (.sbind d e (.fout pe ch)) 2) ∧
          (¬coming false → x.wr = false →
            (isPort false → free (.fin pe.toNat ch.toNat false) → bound (.fin pe ch) (.fin pe.toNat ch.toNat false)) ∧
            (¬(isPort false ∧ free (.fin pe.toNat ch.toNat false)) → kept (.sbind d e (.fin pe ch)) 3)) ∧
          (¬coming true → x.wr = true →
            (isPort true → free (.fout pe.toNat ch.toNat false) → bound (.fout pe ch) (.fout pe.toNat ch.toNat false)) ∧
            (¬(isPort true ∧ free (.fout pe.toNat ch.toNat false)) → kept (.sbind d e (.fout pe ch)) 3)) ∧
          (coming false → x.wr = false →
            (free (.fin pe.toNat ch.toNat true) → bound (.fin pe ch) (.fin pe.toNat ch.toNat true)) ∧
            (¬free (.fin pe.toNat ch.toNat true) → kept (.sbind d e (.fin pe ch)) 3)) ∧
          (coming true → x.wr = true →
            (free (.fout pe.toNat ch.toNat true) → bound (.fout pe ch) (.fout pe.toNat ch.toNat true)) ∧
            (¬free (.fout pe.toNat ch.toNat true) → kept (.sbind d e (.fout pe ch)) 3)) ∧
          (x.wr = false →
            let w := elemWidth (vtFmt h.vtype)
            let suits : Prop := h.ill = false ∧ (x.desc.enc = 2 → w = 32) ∧ (x.desc.enc = 3 → (elemForm (vtFmt h.vtype)).isSome = true) ∧
              (x.desc.enc ≠ 2 → x.desc.enc ≠ 3 → 2 ^ x.desc.esize * 8 = w)
            let taken : Prop := ∃ k ∈ s.tile.engines.toList, ∃ z, k = some z ∧ z.h1 = s.cur.h1 ∧ z.ctx = h.ctxid ∧ z.bind = .queue n
            (taken → kept (.sbind d e (.queue n)) 3) ∧ (¬taken → ¬suits → kept (.sbind d e (.queue n)) 4) ∧
            (¬taken → suits → wrote (.sbind d e (.queue n)) 0 fun y => y = some { x with
              bind := .queue n, shape := some { fmt := vtFmt h.vtype, width := w, perEntry := h.vlmax.toNat / vtG h.vtype, frm := h.frm } }))))) ∧
    -- SSTAT and SCLOSE
    (let status (x : EngineState) : Word := BitVec.ofNat 64 ((if x.err then 2 ^ 63 else 0) + (if x.done then 2 ^ 62 else 0) + 2 ^ 61 + (if x.swf then 2 ^ 60 else 0) +
       x.cause.toNat * 2 ^ 48 + x.count % 2 ^ 40)
     (held x → kept (.sstat d e) (status x)) ∧ ((∀ x, ¬held x) → kept (.sstat d e) 0 ∧ (Settled s → kept (.sclose d e) 0)) ∧
     (held x → Settled s → s.relaxed = false →
       (x.done = true → s.resvs = [] → wrote (.sclose d e) (status x) (· = none)) ∧
       (x.done = true → x.phase ≠ .closing → s.resvs = [r] → r.tile = s.cur.tile → r.e = e → s.held = [] → Rising s.dir → ∃ t, exec (.sclose d e) s = .next t ∧
         engineAt t s.cur.tile e = none ∧ t.resvs = [] ∧ t.mem = s.mem ∧ WroteFrom s h t (h.pc + 8) d (status x) ∧
         ∀ l ∈ r.lines, .resv r.tile e ∉ (dirAt t l).ptrs) ∧
       (x.done = false → x.phase ≠ .closing → s.resvs = [] → x.desc.sbar = 0 → (∀ p c b, x.bind ≠ .fin p c b) → ∃ t, exec (.sclose d e) s = .next t ∧
         engineAt t s.cur.tile e = none ∧ t.mem = s.mem ∧ t.tile.fabric = fab ∧
         WroteFrom s { h with ulipend := h.ulipend ||| 1 } t (h.pc + 8) d (status { x with done := true, err := false, cause := 0 }))))

/-- 11 R272, R274 to R276, 04 R89, R90, R93, 18 R366, R368, R369: what the stream engines and their reservations do by themselves. A read engine delivers
its next element, as ENC gives it, to its queue, its entries packed with the flags of the conversion, or to its port with the tag of TAGM, an element of
8 bytes as two tokens; the last is followed by a drain token, the stage word and ULIPEND.STREAM. Of an EXFP8 stream each byte is read in turn, a block's
first code delivered and the others kept. An access fault or a decode error ends the stream with its cause and delivers nothing. A write engine stores
the tokens of its port in order; a drain token ends it. A home registers a line, or none of the range where its entry is full of reservations; a cut
reservation is freed; what was held under a closing engine's is performed and it is freed. An engine's queue taking a next element while it holds
fewer than four entries, whatever G, and a fabric port dropping the flags of a conversion on the way in are the model's choices (log 63). -/
def Obligations.StreamElements : Prop :=
  ∀ (s u : State) (n pe ch pa pb l : Nat) (e : Engine) (x : EngineState) (sh : QueueShape) (q : BitVec 2) (c : BitVec 8) (r : Region) (p : Pe)
    (rest : List Token) (w : BitVec 32) (g : BitVec 2) (rv : Resv) (i : HartId) (cells : List Host.Cell),
    let d := x.desc
    let m := 2 ^ d.esize
    let va := elementAt d x.count
    let total := d.icnt * d.ocnt
    let v := memRead u.mem m pa
    let fab := (tileAt u n).fabric
    let holder : HartId := ⟨n, x.h1⟩
    let told (t : State) : Prop := ((getHart u holder).ctxid = x.ctx → getHart t holder = { getHart u holder with ulipend := (getHart u holder).ulipend ||| 1 })
    let port (out : Bool) : Prop := fab.home pe = some r ∧ r.cfg.duplex = false ∧ r.barred = false ∧ fab.pe pe = some p ∧ ch < 4 ∧
      (if out then p.cfg.outKind ch else p.cfg.inKind ch) = .port
    let withIn (q : List Token) : Fabric := { fab with pes := alSet fab.pes pe { p with ins := p.ins.setIfInBounds ch q } }
    let withOut (q : List Token) : Fabric := { fab with pes := alSet fab.pes pe { p with outs := p.outs.setIfInBounds ch q } }
    let both (y : EngineState) (f : Fabric) : State := modTile u n fun z => { z with engines := z.engines.set e.toNat (some y) e.isLt, fabric := f }
    let more : EngineState := { x with count := x.count + 1, pos := x.pos + 1, half := none }
    let goes : Prop := Fires s u (.streamReadElement n e) ∧ EngineGoes u n e x ∧ x.wr = false ∧ x.half = none
    let reads : Prop := goes ∧ d.enc < 3
    let ctab := (tileAt u n).ctab
    -- the engine with one more element of its queue
    let queued (x' : EngineState) (sh : QueueShape) (r : FOut) : EngineState :=
      let bits : VWord := x.partBits ||| BitVec.ofNat 16384 (r.bits % 2 ^ sh.width * 2 ^ (x.partElems * sh.width))
      let fl := x.partFlags ||| r.flags
      if sh.perEntry ≤ x.partElems + 1 then
        { x' with entries := x.entries ++ [bits], entryFlags := x.entryFlags ++ [fl], partElems := 0, partBits := 0, partFlags := 0 }
      else { x' with partElems := x.partElems + 1, partBits := bits, partFlags := fl }
    let writes : Prop := Fires s u (.streamWriteElement n e) ∧ EngineGoes u n e x ∧ x.wr = true ∧ x.bind = .fout pe ch false ∧ port true
    -- to a queue
    (reads → EngineReaches u n e x .load m va pa → x.bind = .queue q → x.shape = some sh →
      x.entries.length < 4 → x.count + 1 ≠ total → (d.enc = 1 → sh.width = 8 * m) →
      let r : FOut := if d.enc = 2 then fp32Form.convert .rne (bf16Form.decode v) else { bits := v, flags := 0 }
      exec .streamReadElement s = .next (withEngine u n e (queued more sh r))) ∧
    -- EXFP8
    (goes → d.enc = 3 → x.bind = .queue q → x.shape = some sh → x.entries.length < 4 → x.count + 1 ≠ total →
      let code (c : Nat) : FOut := convElem (modeOf sh.frm.toNat) .e4m3 sh.fmt c
      (∀ c rest, x.pending = c :: rest → exec .streamReadElement s = .next (withEngine u n e (queued { more with pending := rest } sh (code c.toNat)))) ∧
      (∀ (l : List Byte) (pz : Nat → Nat), x.pending = [] → x.bytePos + l.length ≤ d.bytes →
        (∀ k, k < l.length → EngineReaches u n e x .load 1 (d.base + BitVec.ofNat 64 (x.bytePos + k)) (pz k) ∧ l[k]? = some (memGet u.mem (pz k)) ∧
          readBlock ctab (l.take k) = .more) →
        (∀ c cs, readBlock ctab l = .codes (c :: cs) → exec .streamReadElement s = .next (withEngine u n e
          (queued { more with bytePos := x.bytePos + l.length, pending := cs.map fun c => BitVec.ofNat 8 c } sh (code c)))) ∧
        (readBlock ctab l = .error ∨ (readBlock ctab l = .more ∧ x.bytePos + l.length = d.bytes) → d.sbar = 0 → l.length < 51 →
          ∃ t y, exec .streamReadElement s = .next t ∧ engineAt t n e = some y ∧ y.err = true ∧ y.cause = 0 ∧ y.done = true ∧ y.count = x.count ∧
            told t ∧ t.mem = u.mem ∧ (x.partElems = 0 → y.entries = x.entries)))) ∧
    -- to a port
    (Fires s u (.streamReadElement n e) → EngineGoes u n e x → x.wr = false → x.bind = .fin pe ch false → port false → (p.inq ch).length < 4 →
      let tag : BitVec 2 := if d.tagm = 2 ∧ x.count + 1 = total then 2 else if d.tagm ≠ 0 ∧ x.count % d.icnt + 1 = d.icnt then 1 else 0
      let word : BitVec 32 := if d.enc = 2 then BitVec.ofNat 32 (fp32Form.convert .rne (bf16Form.decode v)).bits else if d.enc = 1 then (BitVec.ofNat (8 * m) v).signExtend 32 else BitVec.ofNat 32 v
      (x.half = none → EngineReaches u n e x .load m va pa → d.esize = 3 → d.enc = 0 → exec .streamReadElement s =
        .next (both { x with half := some (BitVec.ofNat 32 (v / 2 ^ 32)) } (withIn (p.inq ch ++ [.data (BitVec.ofNat 32 v) 0])))) ∧
      (x.half = some w → x.count + 1 ≠ total → exec .streamReadElement s = .next (both more (withIn (p.inq ch ++ [.data w tag])))) ∧
      (∀ c rest, x.half = none → d.enc = 3 → x.shape = none → x.pending = c :: rest → x.count + 1 ≠ total → exec .streamReadElement s =
        .next (both { more with pending := rest }
          (withIn (p.inq ch ++ [.data (BitVec.ofNat 32 (convElem .rne .e4m3 .fp32 c.toNat).bits) tag])))) ∧
      (x.half = none → EngineReaches u n e x .load m va pa → d.enc < 3 → d.esize < 3 →
        (x.count + 1 ≠ total → exec .streamReadElement s = .next (both more (withIn (p.inq ch ++ [.data word tag])))) ∧
        (x.count + 1 = total → x.partElems = 0 →
          let ended (t : State) (y : EngineState) : Prop := exec .streamReadElement s = .next t ∧ engineAt t n e = some y ∧ told t ∧
            y = { more with done := true, err := false, cause := 0 } ∧ (tileAt t n).fabric = withIn (p.inq ch ++ [.data word tag, .drain])
          (d.sbar = 0 → ∃ t y, ended t y ∧ t.mem = u.mem) ∧
          (d.sbar ≠ 0 → EngineReaches u n e x .store 8 d.sbar pb → ∃ t y, ended t y ∧ t.mem = memPut u.mem (cellsOf 8 pb (total % 2 ^ 63)))))) ∧
    -- an access fault
    (reads → x.bind = .queue q → x.entries.length < 4 → d.sbar = 0 →
      let sp : Space := { level := .u, table := x.root, part := partByNum u x.part, who := .engine n e }
      (va.toNat % m ≠ 0 ∧ c = 0x04) ∨ (va.toNat % m = 0 ∧ ∃ k : TrapRec, k.code = c ∧ translate u sp .load va = .trap k) ∨
        (va.toNat % m = 0 ∧ c = 0x08 ∧ u.tlb = [] ∧ ∃ en, translate u sp .load va = .ok pa 3 en) →
      ∃ t y, exec .streamReadElement s = .next t ∧ engineAt t n e = some y ∧ y.err = true ∧ y.cause = c ∧ y.done = true ∧ y.count = x.count ∧ told t ∧
        t.mem = u.mem ∧ (x.partElems = 0 → y.entries = x.entries)) ∧
    -- a write engine
    (writes → p.outq ch = .data w g :: rest →
      (d.esize < 3 → x.half = none → EngineReaches u n e x .store m va pa → x.count + 1 ≠ total →
        let y := if d.enc = 2 then bf16Form.convert .rne (fp32Form.decode w.toNat) else { bits := w.toNat, flags := 0 }
        ∃ t, exec .streamWriteElement s = .next t ∧ t.mem = memPut u.mem (cellsOf m pa y.bits) ∧ engineAt t n e = some more ∧
          (tileAt t n).fabric = { withOut rest with flags := fab.flags ||| y.flags.setWidth 5 } ∧ ∀ j, getHart t j = getHart u j) ∧
      (d.esize = 3 → d.enc = 0 → x.half = none → exec .streamWriteElement s = .next (both { x with half := some w } (withOut rest))) ∧
      (∀ lo, d.esize = 3 → x.half = some lo → EngineReaches u n e x .store 8 va pa → x.count + 1 ≠ total → ∃ t, exec .streamWriteElement s = .next t ∧
        t.mem = memPut u.mem (cellsOf 8 pa (lo.toNat + w.toNat * 2 ^ 32)) ∧ engineAt t n e = some more ∧ (tileAt t n).fabric = withOut rest)) ∧
    (writes → p.outq ch = .drain :: rest → d.sbar = 0 → x.partElems = 0 → ∃ t, exec .streamWriteElement s = .next t ∧ t.mem = u.mem ∧ told t ∧
      (tileAt t n).fabric = withOut rest ∧
      engineAt t n e = some { x with done := true, err := false, cause := 0, half := none, discarding := false, drained := true }) ∧
    (Fires s u (.streamWriteElement n e) → engineAt u n e = some x → x.wr = true → x.phase = .inUse → x.registering = [] → x.bind = .fout pe ch false →
      x.done = true → x.discarding = true → port true → p.outq ch = .data w g :: rest → exec .streamWriteElement s = .next (both x (withOut rest))) ∧
    -- reservations
    (Fires s u (.reservationRegistration n e l) → engineAt u n e = some x →
      (l ∈ x.registering → u.dir = [] → u.held = [] → u.waiting = [] → u.hostWrites = [] → (∀ v ∈ u.events, ∀ a g, v ≠ .event (.barrierArrival a g)) →
        (∀ i, (getHart u i).wcb = [] ∧ (getHart u i).sentLines = [] ∧ (getHart u i).vq = []) → ∃ t, exec .reservationRegistration s = .next t ∧ t.mem = u.mem ∧ (dirAt t l).ptrs = [.resv n e] ∧
        engineAt t n e = some { x with registering := x.registering.filter (· ≠ l) } ∧
        t.resvs = u.resvs.map fun r => if r.tile = n ∧ r.e = e then { r with lines := r.lines ++ [l] } else r) ∧
      (l ∈ x.registering → (dirAt u l).ptrs.length = 6 → (∀ z ∈ (dirAt u l).ptrs, ∃ k y, z = .resv k y) → u.held = [] →
        ∃ t, exec .reservationRegistration s = .next t ∧ t.mem = u.mem ∧ engineAt t n e = none ∧ ∀ z ∈ t.resvs, ¬(z.tile = n ∧ z.e = e)) ∧
      (l ∉ x.registering → exec .reservationRegistration s = .next u)) ∧
    (Fires s u (.cutNotice n e) → u.held = [] → u.resvs = [rv] → rv.tile = n → rv.e = e → engineAt u n e = some x → Rising u.dir →
      (rv.cut = true → ∃ t, exec .cutNotice s = .next t ∧ t.mem = u.mem ∧ t.resvs = [] ∧ engineAt t n e = some { x with registering := [] } ∧
        ∀ l ∈ rv.lines, .resv n e ∉ (dirAt t l).ptrs) ∧
      (rv.cut = false → exec .cutNotice s = .next u)) ∧
    (Fires s u (.reservationFree n e) → engineAt u n e = some x →
      (x.phase = .closing ∨ rv.freeing = true → u.resvs = [rv] → rv.tile = n → rv.e = e → u.dir = [] → u.bad = [] →
        (u.held = [{ tile := n, e := e, hart := some i, action := .write cells, returns := false, fill := none, va := 0, event := none }] →
          ∃ t, exec .reservationFree s = .next t ∧ t.mem = memPut u.mem cells ∧ t.resvs = [] ∧ t.held = [] ∧
            getHart t i = { getHart u i with heldWrites := (getHart u i).heldWrites - 1 }) ∧
        (∀ (z : Held) (v : Event), u.held = [z] → z.tile = n → z.e = e → z.event = some v → exec .reservationFree s =
          .next { u with held := [], resvs := [{ rv with freeing := true }], events := .event v :: .event (.reservationFree n e) :: u.events })) ∧
      (x.phase ≠ .closing → (∀ z ∈ u.resvs, z.tile = n → z.e = e → z.freeing = false) → exec .reservationFree s = .next u))

/-- 12 R278, R283 to R289, R292 to R294: WDRIVE enters the mode at an aligned block, or resumes at WBA, once the sequencer and stream engine 0 are free. A
block goes on to its successor: NEXT; for WB.BRANCH the payload address where G[REG] is not 0; for WB.CALL the payload address, with NEXT on the link
stack; for WB.RET the link that it pops; WB.EXIT and a successor 0 end the mode, past the WDRIVE. A block that breaks a rule traps with cause 0x0F,
its OP and the reason, and has had no effect. At a safe point SPCNT becomes 0 and a pending pre-emption is taken with WBA in TVAL. Reason 0x04 for
any bit of ROUTE that its kind does not use, and WBA wholly 0 once the chain has ended, are the model's choices (log 64). -/
def Obligations.WeightChains : Prop :=
  ∀ (s : State) (a : GReg) (off : BitVec 32) (hdr : BitVec 512) (fmt count next route crc : Nat) (l : List Byte) (r : GReg),
    let h := s.hart
    let b : Word := h.rg a + off.signExtend 64
    let traps (i : Instr) (code : BitVec 8) (v : Word) : Prop := exec i s = .next (trapNow s { code := code, sub := 0, tval := v, unres := false })
    let goes (i : Instr) (g : Hart) (next : Nat) : Prop := ∃ t, exec i s = .next t ∧ Succeeded g next t ∧ t.mem = s.mem
    let w := elemWidth (elemOf fmt)
    let ptr := bytesNat l
    let depth := min h.wls.toNat 4
    -- WDRIVE
    (h.vq = [] → h.level = .s ∨ (h.vownV = true ∧ h.vownId = h.ctxid) → h.ill = false → vmfKnown h.vmf = true →
      ((∃ q ∈ h.q.toList, q ≠ []) → traps (.wdrive a off) 0x01 (Instr.wdrive a off).tval) ∧
      ((∀ q ∈ h.q.toList, q = []) → Settled s →
        (∀ x, engineAt s s.cur.tile 0 = some x → x.h1 = s.cur.h1 → x.ctx = h.ctxid → traps (.wdrive a off) 0x01 (Instr.wdrive a off).tval) ∧
        (s.tile.seqr ≠ none → engineAt s s.cur.tile 0 = none → exec (.wdrive a off) s = .next s) ∧
        (s.tile.seqr = none → engineAt s s.cur.tile 0 = none →
          let enters (g : Hart) : Prop := ∃ t, exec (.wdrive a off) s = .next t ∧ t.hart = { g with run := .weight, wbCtab := none, wbBlock := none, wdriveEnc := t.hart.wdriveEnc } ∧
            t.hart.wdriveEnc = (Instr.wdrive a off).tval ∧ t = (s.modTile fun z => { z with seqr := some s.cur.h1, postReply := none }).setHart t.hart
          (h.wbaRes = true → enters { h with wbResume := true }) ∧
          (h.wbaRes = false → b.toNat % 64 = 0 → b.toNat < 2 ^ 48 → enters { h with
            wls := 0, wbesDone := false, wbesArr := false, wbesTkn := false, wbesIdx := 0, wbaRes := true, wbaAddr := BitVec.ofNat 42 (b.toNat / 64),
            wbResume := false }) ∧
          (h.wbaRes = false → b.toNat % 64 ≠ 0 ∨ 2 ^ 48 ≤ b.toNat → traps (.wdrive a off) 0x04 b)))) ∧
    -- blocks without an effect, and links
    (BlockReady s hdr 10 fmt count next 0 l → (fmt ≤ 0x0F ∧ l.length = (count * w + 7) / 8) ∨ (fmt = 0xFF ∧ count = 0 ∧ l = []) → goes (.wbNop hdr) h next) ∧
    (BlockReady s hdr 11 0xFF 0 0 0 [] → goes (.wbExit hdr) h 0) ∧
    (BlockReady s hdr 6 7 1 next (5 + 16 * r.toNat) l → l.length = 8 →
      (ptr % 64 = 0 → ptr < 2 ^ 48 → goes (.wbBranch hdr) h (if h.rg r = 0 then next else ptr)) ∧
      (ptr % 64 ≠ 0 ∨ 2 ^ 48 ≤ ptr → traps (.wbBranch hdr) 0x0F 0x0601)) ∧
    (BlockReady s hdr 7 7 1 next 0 l → l.length = 8 →
      (depth < 4 → ptr % 64 = 0 → ptr < 2 ^ 48 → goes (.wbCall hdr)
        { h with wle := h.wle.setIfInBounds depth (BitVec.ofNat 48 next), wls := BitVec.ofNat 3 (depth + 1) } ptr) ∧
      (depth < 4 → ptr % 64 ≠ 0 ∨ 2 ^ 48 ≤ ptr → traps (.wbCall hdr) 0x0F 0x0701) ∧ (depth = 4 → traps (.wbCall hdr) 0x0F 0x0707)) ∧
    (BlockReady s hdr 8 0xFF 0 0 0 [] →
      (0 < depth → goes (.wbRet hdr) { h with wls := BitVec.ofNat 3 (depth - 1) } (h.wle.toList.getD (depth - 1) 0).toNat) ∧
      (depth = 0 → traps (.wbRet hdr) 0x0F 0x0807)) ∧
    -- faults, here of WB.NOP
    (Calm s → ∀ sp, AtBlock s hdr 10 fmt count next route crc sp l →
      (0x13 < fmt → fmt ≠ 0xFF → traps (.wbNop hdr) 0x0F 0x0A03) ∧
      (fmt ≤ 0x0F → l.length ≠ (count * w + 7) / 8 → traps (.wbNop hdr) 0x0F 0x0A03) ∧
      (fmt ≤ 0x0F → l.length = (count * w + 7) / 8 →
        (next % 64 ≠ 0 ∨ 2 ^ 48 ≤ next → traps (.wbNop hdr) 0x0F 0x0A01) ∧
        (next % 64 = 0 → next < 2 ^ 48 → route ≠ 0 → traps (.wbNop hdr) 0x0F 0x0A04) ∧
        (next % 64 = 0 → next < 2 ^ 48 → route = 0 → sp = false → crc ≠ (crc32c l).toNat → traps (.wbNop hdr) 0x0F 0x0A05) ∧
        -- a safe point
        (next % 64 = 0 → next < 2 ^ 48 → route = 0 → sp = true → h.wbResume = false →
          (h.sip.getLsbD 0 = false → crc = (crc32c l).toNat → goes (.wbNop hdr) { h with spcnt := 0 } next) ∧
          (h.level = .u → h.sip.getLsbD 0 = true → s.tile.fabric.owner = none → ∃ t, exec (.wbNop hdr) s = .next t ∧ t.mem = s.mem ∧ t.tile.seqr = none ∧
            t.hart = { h with
              tepc := h.pc &&& 0x000FFFFFFFFFFFFC, tcause := 0x8000000000000020, full := true, spf := false, pp := .u, pie := h.ie, ie := false, tip := true,
              level := .s, pc := h.tvec, run := .running, batchWait := false, bwait := none, trapWait := none, replay := none, replayed := none,
              spe0 := 0xFFFFFFFFFFFFFFFE, spe1 := 0x3FFF, sip := h.sip &&& 6, spcnt := 0, tval := (if h.wbaRes then 0x8000000000000000 else 0) + h.wbaAddr.setWidth 64 <<< 6 }))))

/-- 12 R288, R290, R291, 09 R219, R221: the effects of weight blocks with raw payloads. WB.ADD and WB.SCALE combine each element below VL of a group with
its payload element, or the one element, converted to the register type; WB.ACT applies its function; WB.ADD to a port delivers tokens, the last with
tag 1, and waits for room. WB.MMA adds the products of the rows at v0 and of the payload's rows to its tile. WB.DRAIN stores the tile's rows below VL.
WB.SYNC arrives at a local barrier, waits there for a new phase, and fails on failed arrivals or a dead barrier. Then the walk goes on. 12 R295: a
block of KIND 4 goes to the mailbox of its target's sequencer and its poster waits; it is refused where no hart of the target is in the mode in the
same context, with reason 0x09. The post runs on the target's hart with INNER in place of KIND, here a WB.ACT, and the poster is told; a post to a tile
that has left the mode, one whose poster has, and a block that fails a check there are refused, the model's choices (log 64). The poster then goes on,
or takes reason 0x09. Of the group and tile effects the forms with SC = 0 are stated. -/
def Obligations.WeightBlocks : Prop :=
  (∀ (s : State) (hdr : BitVec 512) (fmt count next : Nat) (l : List Byte) (reg : VReg) (c : Acc) (r : Region) (p : Pe) (n ch : Nat) (pa : Nat → Nat),
    next ≠ 0 → s.hart.shaped →
    let h := s.hart
    let ty := vtFmt h.vtype
    let W := elemWidth ty
    let m := modeOf h.frm.toNat
    let pt := elemOf fmt
    let pw := elemWidth pt
    let raw : Prop := fmt ≤ 0x0F ∧ l.length = (count * pw + 7) / 8
    let code (i : Nat) : Nat := rawElem pw l (if count = 1 then 0 else i)
    let fault (i : Instr) (v : Word) : Prop := exec i s = .next (trapNow s { code := 0x0F, sub := 0, tval := v, unres := false })
    -- groups
    let group (i : Instr) (f : Nat → FOut) : Prop := ∃ t fl, exec i s = .next t ∧ OnlyHart s t ∧
      Succeeded { h with v := t.hart.v, val := t.hart.val, vdirty := t.hart.vdirty, fflags := h.fflags ||| fl } next t ∧
      ElemsWritten h t.hart reg (fun i => i < h.vl.toNat) (fun i => (f i).bits) (fun _ => True) ∧
      FlagsOf fl (fun i => i < h.vl.toNat) (fun i => (f i).flags)
    let x (i : Nat) : Nat := h.elem reg h.shape.w h.shape.e i
    let y (i : Nat) : FOut := convElem m pt ty (code i)
    (h.ill = false → vtSc h.vtype = false → reg.toNat % vtG h.vtype = 0 →
      (raw → count = h.vl.toNat ∨ count = 1 →
        (∀ F, elemForm ty = some F →
          (BlockReady s hdr 2 fmt count next (2 + 16 * reg.toNat) l → group (.wbAdd hdr) fun i =>
            { bits := (F.addV m (F.decode (x i)) (F.decode (y i).bits)).bits,
              flags := (F.addV m (F.decode (x i)) (F.decode (y i).bits)).flags ||| (y i).flags }) ∧
          (BlockReady s hdr 3 fmt count next (2 + 16 * reg.toNat) l → group (.wbScale hdr) fun i =>
            { bits := (F.mulV m (F.decode (x i)) (F.decode (y i).bits)).bits,
              flags := (F.mulV m (F.decode (x i)) (F.decode (y i).bits)).flags ||| (y i).flags })) ∧
        (elemForm ty = none →
          (BlockReady s hdr 2 fmt count next (2 + 16 * reg.toNat) l → group (.wbAdd hdr) fun i =>
            { bits := (x i + (y i).bits) % 2 ^ W, flags := (y i).flags }) ∧
          (BlockReady s hdr 3 fmt count next (2 + 16 * reg.toNat) l → group (.wbScale hdr) fun i =>
            { bits := (x i * (y i).bits) % 2 ^ W, flags := (y i).flags }))) ∧
      (BlockReady s hdr 4 5 1 next (2 + 16 * reg.toNat) l → l.length = 4 →
        (∀ F, elemForm ty = some F →
          (bytesNat l = 0 → group (.wbAct hdr) fun i => F.minmax true (x i) 0) ∧
          (bytesNat l = 1 → group (.wbAct hdr) fun i => F.exp2V m (x i)) ∧
          (bytesNat l = 2 → group (.wbAct hdr) fun i => F.rcpV m (x i)) ∧
          (bytesNat l = 3 → group (.wbAct hdr) fun i => F.rsqV m (x i))) ∧
        (elemForm ty = none → bytesNat l ≤ 3 → fault (.wbAct hdr) 0x0404) ∧ (3 < bytesNat l → fault (.wbAct hdr) 0x0408))) ∧
    -- a fabric port
    (let fab := s.tile.fabric
     let tok (i : Nat) : FOut := match elemForm pt with
       | some _ => convElem m pt .fp32 (rawElem pw l i)
       | none => { bits := (BitVec.ofInt 32 (if elemSigned pt then (BitVec.ofNat pw (rawElem pw l i)).toInt else rawElem pw l i)).toNat, flags := 0 }
     let i := h.wbesIdx.toNat
     BlockUnderWay s hdr 2 fmt count next (3 + 16 * n + 1024 * ch) l → h.wbesArr = false → i < count → raw → 1 ≤ count → n < 64 → ch < 4 → fab.owner = some (s.cur.h1, h.ctxid) →
       fab.home n = some r → r.cfg.duplex = false → fab.pe n = some p → p.cfg.inKind ch = .port →
       (∀ e ∈ s.tile.engines.toList, ∀ z, e = some z → z.bind ≠ .fin n ch false) →
       ((p.inq ch).length + (count - i) ≤ 4 → ∃ t fl, exec (.wbAdd hdr) s = .next t ∧ Succeeded { h with fflags := h.fflags ||| fl } next t ∧
         FlagsOf fl (fun j => i ≤ j ∧ j < count) (fun j => (tok j).flags) ∧ t = (s.modTile fun z => { z with fabric := t.tile.fabric }).setHart t.hart ∧
         t.tile.fabric = { fab with pes := alSet fab.pes n { p with ins := p.ins.setIfInBounds ch (p.inq ch ++ (List.range (count - i)).map fun j =>
           Token.data (BitVec.ofNat 32 (tok (i + j)).bits) (if i + j + 1 = count then 1 else 0)) } }) ∧
       (4 ≤ (p.inq ch).length → ∃ t, exec (.wbAdd hdr) s = .next t ∧ OnlyHart s t ∧ t.hart = h.waitsAtBlock s hdr l)) ∧
    -- a tile
    (let a := accAt s s.cur.tile c
     let L := h.vl.toNat
     let K := sumGroupSize ty false
     let xa (i k : Nat) : Nat := (h.elemAt 0 (64 * i + k)).1
     let pb (j k : Nat) : Nat := rawElem pw l (j * L + k)
     BlockReady s hdr 1 fmt count next (1 + 16 * c.toNat) l → raw → h.ill = false → vtSc h.vtype = false → a.owner = some s.cur.h1 → a.sc = false → a.fmt.toNat = fmt →
       fmt = ty.code → count = a.n.toNat * L → L ≤ 64 → a.m.toNat ≤ h.vlmax.toNat / 64 →
       ∃ t fl, exec (.wbMma hdr) s = .next t ∧ t = (s.modTile fun z => { z with acc := t.tile.acc }).setHart t.hart ∧
         Succeeded { h with fflags := h.fflags ||| fl, vdirty := t.hart.vdirty } next t ∧
         let z := accAt t s.cur.tile c
         (∀ o, o ≠ c → accAt t s.cur.tile o = accAt s s.cur.tile o) ∧ z = { a with data := z.data } ∧
         ∀ i j, i < a.m.toNat → j < a.n.toNat → a.n.toNat ≤ 64 →
           (a.int32 = true → ty = .i8 → z.elem i j = ((a.elem i j : Int) +
             ((List.range L).map fun k => (BitVec.ofNat 8 (xa i k)).toInt * (BitVec.ofNat 8 (pb j k)).toInt).foldl (· + ·) 0).emod (2 ^ 32)) ∧
           (a.int32 = false → ∃ q : Nat → Nat, q 0 = a.elem i j ∧ q ((L + K - 1) / K) = z.elem i j ∧ ∀ g, g < (L + K - 1) / K →
             GroupAdded (fun k => elemVal ty (xa i k)) (fun k => elemVal ty (pb j k))
               ((List.range K).filterMap fun k => if g * K + k < L then some (g * K + k) else none) 0 (q g) (q (g + 1)))) ∧
    -- WB.DRAIN
    (let a := accAt s s.cur.tile c
     let enc := vmfEnc h.vmf
     let w := elemWidth ((storedType enc .fp32).getD .fp32)
     let does (e : Nat) : Prop := e < 64 * a.m.toNat ∧ e % 64 < h.vl.toNat
     let out (e : Nat) : FOut := encodeElem h (if a.int32 then .i32 else .fp32) (a.elem (e / 64) (e % 64))
     let va (e : Nat) : Word := BitVec.ofNat 64 (rawElem 64 l 0 + e / 64 * rawElem 64 l 1 + e % 64 * (w / 8))
     BlockReady s hdr 5 7 2 next (1 + 16 * c.toNat) l → l.length = 16 → a.owner = some s.cur.h1 → h.vl.toNat ≤ a.n.toNat →
       (enc = 0x1F ∧ vmfSmode h.vmf = 0) ∨ (enc ≤ 0x0D ∧ vmfSmode h.vmf ≤ 1) → (∀ e, does e → Plain s .store (w / 8) (va e) (pa e)) →
       ∃ t fl, exec (.wbDrain hdr) s = .next t ∧ t = { s.setHart t.hart with mem := t.mem } ∧
         Succeeded { h with fflags := h.fflags ||| fl } next t ∧ FlagsOf fl does (fun e => (out e).flags) ∧
         Stored s t does (w / 8) pa (fun e => (out e).bits)) ∧
    -- WB.SYNC
    (let va : Word := BitVec.ofNat 64 (bytesNat l)
     let o := pa 0
     let phase := memRead s.mem 4 (o + 12)
     let last := memRead s.mem 4 (o + 16)
     let dead := memRead s.mem 1 (o + 22) % 2 = 1
     let object : Prop := l.length = 8 ∧ va ≠ 0 ∧ memRead s.mem 2 (o + 20) = 0xFFFF ∧ Plain s .load 2 (va + 20) (o + 20) ∧ Plain s .load 4 (va + 12) (o + 12) ∧
       Plain s .load 4 (va + 16) (o + 16) ∧ Plain s .load 1 (va + 22) (o + 22)
     object →
       (BlockReady s hdr 9 7 1 next 0 l → Settled s → Plain s .store 128 va o → ∃ t, exec (.wbSync hdr) s = .next t ∧
         t.hart = { h.waitsAtBlock s hdr l with wbesArr := true, wbesIdx := BitVec.ofNat 32 phase, inProgress := none } ∧
         t = { s.setHart t.hart with events := s.events ++ [.event (.barrierArrival o true)] }) ∧
       (∀ idx, BlockUnderWay s hdr 9 7 1 next 0 l → h.wbesArr = true → h.wbesIdx = idx →
         (phase ≠ idx.toNat → last = 0 → ∃ t, exec (.wbSync hdr) s = .next t ∧ OnlyHart s t ∧ Succeeded h next t) ∧
         (phase ≠ idx.toNat ∧ last ≠ 0 ∨ phase = idx.toNat ∧ dead → exec (.wbSync hdr) s =
           .next (trapNow (s.setHart { h.waitsAtBlock s hdr l with wbesDone := true }) { code := 0x0F, sub := 0, tval := 0x090A, unres := false })) ∧
         (phase = idx.toNat → ¬dead → ∃ t, exec (.wbSync hdr) s = .next t ∧ OnlyHart s t ∧ t.hart = h.waitsAtBlock s hdr l)))) ∧
  (∀ (s u : State) (hdr : BitVec 512) (count next tx ty n src : Nat) (l : List Byte) (reg : VReg) (h1 p1 : Bool) (addr : BitVec 48) (F : FForm) (pa : Nat) (k : Byte),
    let h := s.hart
    let target := tx + 36 * ty
    let fault : Prop := exec (.wbAct hdr) s =
      .next (trapNow (s.setHart (h.waitsAtBlock s hdr l)) { code := 0x0F, sub := 0, tval := 0x0409, unres := false })
    let there := tileAt s target
    let sameCtx (k : Bool) : Prop := (there.hart k).ctxid = h.ctxid ∧ partNum s target = partNum s s.cur.tile
    let route := 4 + 16 * reg.toNat + 2 * 2 ^ 16 + tx * 2 ^ 20 + ty * 2 ^ 26
    (BlockUnderWay s hdr 4 5 1 next route l → h.wbesArr = false → h.wbesIdx = 0 → l.length = 4 → bytesNat l ≤ 3 → tx < 36 → ty < 64 → reg.toNat % vtG h.vtype = 0 →
      (s.tile.postReply = none → (there.seqr = none ∨ ∃ k, there.seqr = some k ∧ ¬sameCtx k) → fault) ∧
      (s.tile.postReply = none → there.mailbox = none → (∃ k, there.seqr = some k ∧ sameCtx k) → ∃ t, exec (.wbAct hdr) s = .next t ∧ t.mem = s.mem ∧
        t.hart = h.waitsAtBlock s hdr l ∧ (tileAt t target).mailbox = some (s.cur.tile, h.wbaAddr.setWidth 48 <<< 6)) ∧
      (s.tile.postReply = none → there.mailbox ≠ none → (∃ k, there.seqr = some k ∧ sameCtx k) →
        ∃ t, exec (.wbAct hdr) s = .next t ∧ OnlyHart s t ∧ t.hart = h.waitsAtBlock s hdr l) ∧
      (s.tile.postReply = some true → next ≠ 0 → ∃ t, exec (.wbAct hdr) s = .next t ∧ Succeeded h next t ∧ t.tile.postReply = none) ∧
      (s.tile.postReply = some false → ∃ t, exec (.wbAct hdr) s = .next t ∧ (¬(h.level = .s ∧ h.tip = true) →
        t.hart.wbaRes = h.wbaRes ∧ t.hart.tcause = 0x0F ∧ t.hart.tval = 0x0409 ∧ t.hart.tepc = h.pc &&& 0x000FFFFFFFFFFFFC ∧ t.hart.level = .s))) ∧
    (Fires s u (.weightBlockPost n) → (tileAt u n).mailbox = some (src, addr) → src ≠ n →
      ((tileAt u n).seqr = none ∨ (tileAt u src).seqr = none → ∃ t, exec .weightBlockPost s = .next t ∧ t.mem = u.mem ∧ (∀ i, getHart t i = getHart u i) ∧
        (tileAt t n).mailbox = none ∧ (tileAt t src).postReply = some false) ∧
      ((tileAt u n).seqr = some h1 → (tileAt u src).seqr = some p1 →
        let v : State := { u with cur := ⟨n, h1⟩ }
        let g := v.hart
        g.ctxid = (getHart u ⟨src, p1⟩).ctxid → g.badStore = [] → g.replay = none → g.shaped → g.ill = false → vtSc g.vtype = false → reg.toNat % vtG g.vtype = 0 → elemForm (vtFmt g.vtype) = some F →
        -- the header and the payload, as the target reads them
        (∃ ty' en, translate v (weightSpace v) .weight (addr.setWidth 64) = .ok pa ty' en ∧ ty' ≠ 3 ∧
          markLeaf v (weightSpace v) .weight addr.toNat en = v ∧ bytesNat (memBytes u.mem 64 pa) = hdr.toNat) →
        (∀ w : Hart, w = { g with run := .weight, vq := [], wbesDone := false, wbesArr := false, wbesTkn := false, wbesIdx := 0, wbBlock := none,
                                      wbaAddr := BitVec.ofNat 42 (addr.toNat / 64) } →
          BlockReady (v.setHart w) hdr 4 5 count next route l) → Calm v → addr.toNat % 64 = 0 → tx < 36 → ty < 64 → count = 1 → l = [k, 0, 0, 0] → k.toNat ≤ 3 →
        let m := modeOf g.frm.toNat
        let y (i : Nat) : FOut :=
          let x := g.elem reg g.shape.w g.shape.e i
          if k = 0 then F.minmax true x 0 else if k = 1 then F.exp2V m x else if k = 2 then F.rcpV m x else F.rsqV m x
        ∃ t fl, exec .weightBlockPost s = .next t ∧ t.mem = u.mem ∧ (tileAt t n).mailbox = none ∧ (tileAt t src).postReply = some true ∧
          getHart t ⟨n, h1⟩ = { g with v := (getHart t ⟨n, h1⟩).v, val := (getHart t ⟨n, h1⟩).val, vdirty := (getHart t ⟨n, h1⟩).vdirty, fflags := g.fflags ||| fl } ∧
          ElemsWritten g (getHart t ⟨n, h1⟩) reg (fun i => i < g.vl.toNat) (fun i => (y i).bits) (fun _ => True) ∧
          FlagsOf fl (fun i => i < g.vl.toNat) (fun i => (y i).flags))))

/-- 06 R146, 02 R41, 15 R305, 16 R327, R328, 17 R352, 19 R404, 20 R408: a write of a control register that is a step of its own has, for the hart whose
turn it is, the effect of CRW on that register without its move of the pc: every plain register, VL clamped, VTYPE with its VLMAX, VLP, half of the
validity field that VVSEL names, CTXID with the entry that it captures. It traps with cause 0x01 where the level may not write the register or the
context is not valid, and FFLAGS, VES and the validity fields wait for the execute side, VL and VTYPE for a VLDZ or VSTZ queued
that still sets VL (01 R19). A device register is written as a hart writes it: HMCTL takes
its fields, and CLR clears the results. That TVAL names a CRW with register fields 0 is the model's choice (log 17), as is that the write of a device
register is the current hart's and that every write at 0x20000 to 0x3FFFF of the window is ignored (log 32). -/
def Obligations.RegisterWriteEvents : Prop :=
  ∀ (s u : State) (n : BitVec 12) (v : Word),
    let h := u.hart
    let leaves (e : Event) (g : Hart) : Prop := Fires s u e → exec e.row s = .next (u.setHart g)
    let traps (e : Event) (n : BitVec 12) : Prop := Fires s u e →
      exec e.row s = .next (trapNow u { code := 0x01, sub := 0, tval := (Instr.crw 0 0 n).tval, unres := false })
    let ty : BitVec 8 := v.setWidth 8
    let grp := ty.toNat / 16 % 8
    let narrow := ty.toNat % 16 = 12 ∨ ty.toNat % 16 = 13 ∨ ty.toNat % 16 = 14
    let width := elemWidth (elemOf (ty.toNat % 16))
    let wellFormed := grp ≤ 3 ∧ (128 ≤ ty.toNat → narrow) ∧ 16384 / width * 2 ^ grp ≤ 4096
    let cv := v.toNat
    (h.vq = [] →
      (∀ r, r ∈ userRegisters ∨ (r ∈ supervisorRegisters ∧ h.level = .s) → leaves (.registerWrite (.cr r.num) v) (r.put h v)) ∧
      leaves (.fflagsWrite v) { h with fflags := v.setWidth 6 } ∧ leaves (.vesWrite v) { h with ves := v.setWidth 16 } ∧
      (h.level = .s → ∀ w : Validity, w.setWidth 64 = (h.val.get h.vvsel.toFin).setWidth 64 → w >>> 64 = v.setWidth 128 →
        leaves (.validityFieldWrite 0x213 v) { h with val := h.val.set h.vvsel.toNat w h.vvsel.isLt }) ∧
      (h.level = .s → ∀ w : Validity, w.setWidth 64 = v → w >>> 64 = h.val.get h.vvsel.toFin >>> 64 →
        leaves (.validityFieldWrite 0x212 v) { h with val := h.val.set h.vvsel.toNat w h.vvsel.isLt })) ∧
    (h.vq ≠ [] →
      let waits (e : Event) : Prop := Fires s u e →
        exec e.row s = .next { u with events := .event (.vectorInstructionRetirement u.cur) :: .event e :: u.events }
      waits (.fflagsWrite v) ∧ waits (.vesWrite v) ∧
      (h.level = .s → n = 0x211 ∨ n = 0x212 ∨ n = 0x213 → waits (.validityFieldWrite n v)) ∧
      (h.level = .s → (∃ x ∈ h.vq, (exfp8Reg x.instr).isSome = true ∧ x.setsVl = true) → waits (.vlWrite v) ∧ waits (.vtypeWrite v))) ∧
    (h.level = .s → (∀ x ∈ h.vq, exfp8Reg x.instr = none) →
      leaves (.vlWrite v) { h with vl := BitVec.ofNat 16 (min cv h.vlmax.toNat) } ∧
      (v.getLsbD 63 = true ∨ ¬wellFormed → leaves (.vtypeWrite v) { h with vtype := ty, ill := true, vlmax := 0, vl := 0 }) ∧
      (v.getLsbD 63 = false → wellFormed →
        let c := ((List.range 8).filter fun j => h.eff.getLsbD j && !u.tile.lanemap.getLsbD j).length
        let m := (if h.prot then c / 2 else c) * 8 * 256 / width * 2 ^ grp
        leaves (.vtypeWrite v) { h with vtype := ty, ill := false, vlmax := BitVec.ofNat 16 m, vl := BitVec.ofNat 16 (min h.vl.toNat m) }) ∧
      (Fires s u (.vlpWrite v) → exec .vlpWrite s = .next (u.modTile fun y => { y with vlp := v.setWidth 8 })) ∧
      ∀ p, partOf u u.cur.tile = some p → u.resvs = [] → u.dir = [] →
        let c : BitVec 16 := v.setWidth 16
        (ctxEntry u p c = none → traps (.ctxidWrite v) 0x208) ∧
        ∀ root asid, ctxEntry u p c = some (root, asid) →
          let g := { h with ctxid := c, translated := true, root := root, asid := asid }
          (c = h.ctxid → h.translated = true → leaves (.ctxidWrite v) g) ∧
          (c = 0 → h.ctxid ≠ 0 → ∀ m, h.member = some m → Fires s u (.ctxidWrite v) →
            ∃ t, exec .ctxidWrite s = .next t ∧ t.hart = { g with member := none } ∧ t.mem = u.mem ∧
              ∀ f ∈ t.farms, f.id = m.farm → ∀ x, f.harts[m.index]? = some x → x.place = none)) ∧
    (h.level = .u → traps (.vlWrite v) 0x300 ∧ traps (.vtypeWrite v) 0x301 ∧ traps (.vlpWrite v) 0x303 ∧ traps (.ctxidWrite v) 0x208 ∧
      (0x200 ≤ n.toNat → traps (.validityFieldWrite n v) n ∧ traps (.registerWrite (.cr n) v) n)) ∧
    (0x100 ≤ n.toNat → n.toNat < 0x200 → traps (.registerWrite (.cr n) v) n) ∧
    -- HMCTL of monitor k of tile x, and a read-only register
    (∀ (x : Nat) (k : BitVec 2), u.ready = true → x < 2304 →
      Fires s u (.registerWrite (.device (0x4000000000000 + 0x100000 + 512 * x + 128 * k.toNat) 8) v) →
        let m := (tileAt u x).monitors.get k.toFin
        ∃ t m', exec .registerWrite s = .next t ∧ t = modTile u x (fun y => { y with monitors := y.monitors.set k.toNat m' k.isLt }) ∧
          (∀ b, b < 64 → m'.ctl.getLsbD b = (v.getLsbD b && decide (b ≤ 36 ∨ 62 ≤ b))) ∧
          (v.getLsbD 61 = false → m' = { m with ctl := m'.ctl }) ∧
          (v.getLsbD 61 = true → m'.min = 0xFFFFFFFF ∧ m'.max = 0 ∧ m'.count = 0 ∧ ∀ b ∈ m'.bins.toList, b = 0)) ∧
    (∀ a k, 0x4000000020000 ≤ a → a < 0x4000000040000 → Fires s u (.registerWrite (.device a k) v) → exec .registerWrite s = .next u)

/-- 15 R304, R306, R307, R311, R314, 02 R51, 06 R150, R156: what a hart takes at its boundaries. An S-level interrupt is taken at U, and at S with IE = 1
and TIP = 0: 0x22 before 0x21, TVAL the SEQ that the notice reported or 0, the SIP bit cleared, FULL set, TEPC the next instruction. The safe-point
distance fault traps with cause 0x0A and SPCNT in TVAL. A user-level interrupt at U saves the pc, copies g24 to g31, clears the lowest pending bit and
reports it. SCOUNT reaching zero sets SIP.CNT. The time limit of WFE ends the wait. An event that is not due changes nothing (log 10). A user-level
interrupt comes only at U (02 R51, log 27). -/
def Obligations.BoundaryEvents : Prop :=
  ∀ (s u : State) (i : HartId),
    let h := getHart u i
    let put (g : Hart) : State := putHart u i g
    let boundary : Prop := (h.run = .running ∨ h.run = .wfe ∨ h.run = .weight) ∧ h.vq = [] ∧ h.inProgress = none ∧ h.trapWait = none
    let taken : Prop := h.level = .u ∨ (h.ie = true ∧ h.tip = false)
    let enters (code : Nat) (tval : Word) (sip : BitVec 3) : Hart :=
      { h with tepc := h.pc &&& 0x000FFFFFFFFFFFFC, tcause := BitVec.ofNat 64 (2 ^ 63 + code), tval := tval, full := true, spf := false,
               pp := h.level, pie := h.ie, ie := false, tip := true, level := .s, pc := h.tvec, run := .running, batchWait := false, bwait := none,
               wbBlock := none, replay := none, replayed := none, sip := sip }
    -- interrupts
    (Fires s u (.interruptEntry i) →
      (boundary → taken → (tileAt u i.tile).seqr ≠ some i.h1 →
        (h.sip.getLsbD 2 = true → exec .interruptEntry s = .next (put (enters 0x22 h.noticeSeq (h.sip &&& 3)))) ∧
        (h.sip.getLsbD 2 = false → h.sip.getLsbD 1 = true → exec .interruptEntry s = .next (put (enters 0x21 0 (h.sip &&& 5))))) ∧
      (boundary → taken → (tileAt u i.tile).seqr = some i.h1 → (∀ e ∈ u.tiles, ∀ m, e.2.mailbox = some m → m.1 ≠ i.tile) → Rising u.tiles →
        h.sip.getLsbD 2 = true → exec .interruptEntry s =
          .next (modTile (put (enters 0x22 h.noticeSeq (h.sip &&& 3))) i.tile fun x => { x with seqr := none, postReply := none })) ∧
      (¬boundary ∨ ¬taken ∨ h.sip &&& 6 = 0 → exec .interruptEntry s = .next u)) ∧
    -- user-level interrupts
    (Fires s u (.userLevelInterrupt i) →
      (boundary → h.run ≠ .weight → h.level = .u → h.ulivec.getLsbD 0 = true → h.uliActive = false → ∀ e, e < 4 → h.ulipend.getLsbD e = true →
        (∀ k, k < e → h.ulipend.getLsbD k = false) →
        ∃ g, exec .userLevelInterrupt s = .next (put g) ∧
          g = { h with ulipend := g.ulipend, uliEvent := BitVec.ofNat 4 (e + 1), uliActive := true, uliepc := h.pc &&& 0x000FFFFFFFFFFFFC, shd := g.shd,
                       pc := h.ulivec &&& 0x000FFFFFFFFFFFFC, run := .running, batchWait := false, bwait := none, replayed := none } ∧
          (∀ k, k < 4 → g.ulipend.getLsbD k = (h.ulipend.getLsbD k && k != e)) ∧
          ∀ k : Fin 8, g.shd.get k = h.g.get ⟨24 + k.val, by omega⟩) ∧
      (h.level = .s ∨ h.ulivec.getLsbD 0 = false ∨ h.uliActive = true ∨ h.ulipend = 0 ∨ h.run = .weight → exec .userLevelInterrupt s = .next u)) ∧
    -- the countdown, and the distance
    (Fires s u (.scountZero i) →
      (h.scount = 1 → exec .scountZero s = .next (put { h with scount := 0, sip := h.sip ||| 2 })) ∧
      (h.scount ≠ 1 → exec .scountZero s = .next (put h))) ∧
    (Fires s u (.safePointDistanceFault i) →
      (boundary → h.level = .u → h.spdist ≠ 0 → h.spdist.toNat < h.spcnt.toNat →
        exec .safePointDistanceFault s = .next (trapAt u i { code := 0x0A, sub := 0, tval := h.spcnt.setWidth 64, unres := false })) ∧
      (h.level = .s ∨ h.spdist = 0 ∨ h.spcnt.toNat ≤ h.spdist.toNat → exec .safePointDistanceFault s = .next u)) ∧
    -- WFE
    (Fires s u (.wfeTimeLimit i) →
      (h.run = .wfe → exec .wfeTimeLimit s = .next (put { h with run := .running })) ∧ (h.run ≠ .wfe → exec .wfeTimeLimit s = .next (put h)))

/-- 21 R410, R413, R414, 11 R262, 18 R381, 19 R403, R405: management calls. The management core serves the oldest call that waits; a younger one goes on
waiting. PINFO answers the item, LOGREAD copies the first record of the partition with SEQ ≥ G[11], PEERREG registers a well-formed peer-group table
in place of the context's former one, FABESC logs the fault and kills the context, ATTEST writes the report. A buffer outside the partition's ranges
answers 4 and changes nothing; an unknown item, a malformed table answer 3; no such record answers 1. The hart goes on after its ECALL. Model's
choices: a buffer in the device window answers 4, the buffer is checked first, PEERREG asks for a valid context entry, and the length of a range of
2^48 bytes or more is a free value (log 43); what the record of FABESC holds (log 40); digests and signature are free values (log 14). -/
def Obligations.ManagementCalls : Prop :=
  ∀ (s u : State) (i : HartId) (p : Partition) (rest : List HartId),
    let h := getHart u i
    let y : State := { u with calls := rest }
    let g11 := (h.rg 11).toNat
    let g12 := (h.rg 12).toNat
    let rd (n a : Nat) := memRead u.mem n a
    let ans (e : Event) (z : State) (code : Nat) (more : List (Fin 32 × Word)) : Prop :=
      Fires s u e → Called u i p rest → exec e.row s = .next (answered z i code more)
    -- the order of the calls
    (∀ e ∈ [Event.pinfo i, .logread i, .peerreg i, .fabesc i, .attest i, .qpopen i, .qpclose i], Fires s u e →
      (h.run ≠ .mgmt ∨ i ∉ u.calls → exec e.row s = .next u) ∧
      (h.run = .mgmt → i ∈ u.calls → (u.calls.filter fun j => decide ((getHart u j).run = .mgmt)).head? ≠ some i → exec e.row s = .next { u with events := u.events ++ [.event e] })) ∧
    -- PINFO
    ((g11 = 0 → ans (.pinfo i) y 0 [(11, BitVec.ofNat 64 p.ctxBase)]) ∧ (g11 = 1 → ans (.pinfo i) y 0 [(11, BitVec.ofNat 64 p.queueBase)]) ∧
     (g11 = 2 → ans (.pinfo i) y 0 [(11, BitVec.ofNat 64 p.firstQueue)]) ∧ (g11 = 3 → ans (.pinfo i) y 0 [(11, BitVec.ofNat 64 p.queueCount)]) ∧
     (g11 = 4 → ans (.pinfo i) y 0 [(11, BitVec.ofNat 64 p.graphBase)]) ∧ (g11 = 5 → ans (.pinfo i) y 0 [(11, BitVec.ofNat 64 p.graphLen)]) ∧
     (g11 = 6 → ans (.pinfo i) y 0 [(11, BitVec.ofNat 64 (2 * p.notice.tile + if p.notice.h1 then 1 else 0))]) ∧
     (g11 = 7 → ans (.pinfo i) y 0 [(11, BitVec.ofNat 64 p.num)]) ∧ (g11 = 8 → ans (.pinfo i) y 0 [(11, BitVec.ofNat 64 p.ranges.length)]) ∧
     (g11 = 9 → ans (.pinfo i) y 0 [(11, BitVec.ofNat 64 p.firstQp)]) ∧ (g11 = 10 → ans (.pinfo i) y 0 [(11, BitVec.ofNat 64 p.qpCount)]) ∧
     (∀ r, 0x100 ≤ g11 → p.ranges[g11 - 0x100]? = some r →
       let len := if r.len < 2 ^ 48 then r.len else Config.longRange r.len % 2 ^ 48
       ans (.pinfo i) y 0 [(11, BitVec.ofNat 64 r.base), (12, BitVec.ofNat 64 (len + r.policy.toNat * 2 ^ 48 + if r.host then 2 ^ 50 else 0))]) ∧
     (10 < g11 → g11 < 0x100 ∨ 0x100 + p.ranges.length ≤ g11 → ans (.pinfo i) y 3 [])) ∧
    -- LOGREAD
    ((¬InPartition p g12 64 → ans (.logread i) y 4 []) ∧
     (InPartition p g12 64 → (∀ r ∈ u.log, r.part.toNat = p.num → r.seq.toNat < g11) → ans (.logread i) y 1 []) ∧
     (InPartition p g12 64 → ∀ before r after, u.log = before ++ r :: after → r.part.toNat = p.num → g11 ≤ r.seq.toNat →
       (∀ x ∈ before, x.part.toNat ≠ p.num ∨ x.seq.toNat < g11) → PortCalm u → Fires s u (.logread i) → Called u i p rest →
       ∃ m, exec .logread s = .next (answered { y with mem := m } i 0 [(11, r.seq)]) ∧
         let at' (n off : Nat) := memRead m n (g12 + off)
         at' 8 0 = r.seq.toNat ∧ at' 2 8 = r.kind.toNat ∧ at' 1 10 = r.sev.toNat ∧ at' 1 11 = r.part.toNat ∧ at' 2 12 = r.ctx.toNat ∧
         at' 2 14 = r.tile.toNat ∧ at' 8 16 = r.addr.toNat ∧ at' 8 24 = r.data0.toNat ∧ at' 8 32 = r.data1.toNat ∧ at' 8 40 = r.data2.toNat ∧
         at' 16 48 = 0 ∧ ∀ c, c < g12 ∨ g12 + 64 ≤ c → memGet m c = memGet u.mem c)) ∧
    -- PEERREG
    (let np := rd 2 (g11 + 2)
     let nb := rd 2 (g11 + 4)
     let ctx := BitVec.ofNat 16 (rd 2 g11)
     let whole := InPartition p g11 64 ∧ (np ≤ 256 → nb ≤ 256 → InPartition p g11 (64 + 8 * np + 8 * nb))
     let good := g11 % 64 = 0 ∧ np ≤ 256 ∧ nb ≤ 256 ∧ rd 2 (g11 + 6) = 0 ∧ rd 48 (g11 + 16) = 0 ∧
       (∀ k, k < np → rd 4 (g11 + 64 + 8 * k + 4) = 0) ∧ ctxEntry u p ctx ≠ none
     u.resvs = [] → u.dir = [] →
     (¬whole → ans (.peerreg i) y 4 []) ∧ (whole → ¬good → ans (.peerreg i) y 3 []) ∧
     (whole → good →
       let t : PeerTable := { part := p.num, ctx := ctx, heap := rd 8 (g11 + 8), peers := (List.range np).map fun k => (BitVec.ofNat 16 (rd 2 (g11 + 64 + 8 * k)), BitVec.ofNat 16 (rd 2 (g11 + 66 + 8 * k))), bars := (List.range nb).map fun k => rd 8 (g11 + 64 + 8 * np + 8 * k) }
       ans (.peerreg i) { y with peerTables := (u.peerTables.filter fun x => !(x.part == p.num && x.ctx == ctx)) ++ [t] } 0 [])) ∧
    -- FABESC
    ans (.fabesc i) (killContext (addLog y 0x08 0 p.num (BitVec.ofNat 16 g12) i.tile g11 0x10 h.pc.toNat) p (BitVec.ofNat 16 g12)) 0 [] ∧
    -- ATTEST
    ((¬InPartition p g11 48 ∨ ¬InPartition p g12 352 → ans (.attest i) y 4 []) ∧
     (InPartition p g11 48 → InPartition p g12 352 → PortCalm u → ∀ r, u.applied = some r →
       Fires s u (.attest i) → Called u i p rest →
       ∃ m, exec .attest s = .next (answered { y with mem := m } i 0 []) ∧
         let at' (n off : Nat) := memRead m n (g12 + off)
         at' 4 0 = 0xA77E ∧ at' 4 4 = 0 ∧ at' 48 8 = rd 48 g11 ∧ at' 48 56 = (Config.imageDigest u.fwver).toNat ∧
         at' 48 104 = (Config.sha384 r.bytes).toNat ∧ at' 8 152 = u.gen.toNat ∧ at' 96 160 = 0 ∧
         at' 96 256 = (Config.attestSignature (memBytes m 256 g12)).toNat ∧ ∀ c, c < g12 ∨ g12 + 352 ≤ c → memGet m c = memGet u.mem c)) ∧
    -- bytes 0 to 4,767 of a deconfiguration record
    (∀ r : DeconfRecord, r.bytes.length = 4768 ∧ bytesNat (r.bytes.take 4) = 0xDEC0 ∧ bytesNat ((r.bytes.drop 4).take 2) = 1 ∧
      bytesNat ((r.bytes.drop 8).take 8) = r.seq.toNat ∧ bytesNat ((r.bytes.drop 16).take 16) = r.serial.toNat ∧
      (∀ t, t < 2304 → (∀ e ∈ r.tiles, e.1 ≠ t) → bytesNat ((r.bytes.drop (64 + 2 * t)).take 2) = 0) ∧
      (∀ t dead map, t < 2304 → Rising r.tiles → (t, dead, map) ∈ r.tiles →
        bytesNat ((r.bytes.drop (64 + 2 * t)).take 2) = (if dead then 1 else 0) + map.toNat * 256) ∧
      (∀ d x, d < 72 → Rising r.gb → (d, x) ∈ r.gb → x < 256 → bytesNat ((r.bytes.drop (4672 + d)).take 1) = x))

/-- 18 R384, R385, R388: QPOPEN refuses a descriptor that breaks a rule of its table, a context without a valid entry, or a window table that cannot be
read, with 3, and one of a queue pair not in Reset with 5; else the queue pair is Ready with the descriptor's fields, its windows and every count 0.
QPCLOSE answers 3 for an index outside the partition's run; else every entry left is flushed and the queue pair is in Reset. The checks' order 4, 3, 5
is the model's choice (log 44). 18 R387, R389: doorbells of queue pairs and completions. A doorbell with bits 61:32 zero whose count lies ahead of the
port's by the queue's size at most is accepted in Ready and in Error; any other is logged under kind 0x0C and ignored. In Error posted entries are
flushed. A completion goes to slot n mod CQSIZE with WRID, BYTES, IMM, STATUS, OP, QIDX, PORT and PHASE; a status other than 0 and 7 moves the queue
pair to Error; one that would overrun the queue is not written, the queue pair enters Error and kind 0x12 is logged. What DATA the records hold is the
model's choice (log 40). -/
def Obligations.QueuePairs : Prop :=
  (∀ (s u : State) (i : HartId) (p : Partition) (rest : List HartId),
    let h := getHart u i
    let y : State := { u with calls := rest }
    let a := (h.rg 11).toNat
    let g12 := (h.rg 12).toNat
    let rd (n o : Nat) := memRead u.mem n (a + o)
    let ans (e : Event) (z : State) (code : Nat) : Prop :=
      Fires s u e → Called u i p rest → exec e.row s = .next (answered z i code [])
    let key := 4096 * rd 1 0 + rd 2 4
    let q : Qp := { state := .ready, part := p.num, ctx := BitVec.ofNat 16 (rd 2 6), mtu := rd 1 1, retry := rd 1 2, rnr := rd 1 3, dqpn := BitVec.ofNat 24 (rd 3 8), spsn := BitVec.ofNat 24 (rd 3 12), rpsn := BitVec.ofNat 24 (rd 3 16), udpSrc := BitVec.ofNat 16 (rd 2 20), tclass := BitVec.ofNat 8 (rd 1 22), hopLim := BitVec.ofNat 8 (rd 1 23), dmac := BitVec.ofNat 48 (rd 6 24), timeout := rd 1 30, rdmax := rd 1 31, sip := BitVec.ofNat 128 (rd 16 32), dip := BitVec.ofNat 128 (rd 16 48), sq := BitVec.ofNat 64 (rd 8 64), sqSize := rd 4 72, rqSize := rd 4 76, rq := BitVec.ofNat 64 (rd 8 80), cq := BitVec.ofNat 64 (rd 8 88), cqSize := rd 4 96, windows := [], sqProd := 0, rqProd := 0, cqCons := 0, sqTaken := 0, rqTaken := 0, completions := 0, sent := [], retries := 0, rnrRetries := 0, rnrWait := false, rate := 256 }
    (u.resvs = [] → u.dir = [] →
    (¬InPartition p a 128 → ans (.qpopen i) y 4) ∧
    (InPartition p a 128 → ¬DescriptorOk u p a → ans (.qpopen i) y 3) ∧
    (InPartition p a 128 → DescriptorOk u p a → ctxSpace y .agent p q.ctx = none → ans (.qpopen i) y 3) ∧
    (InPartition p a 128 → DescriptorOk u p a → ∀ sp, ctxSpace y .agent p q.ctx = some sp →
      -- without windows
      (rd 1 100 = 0 → (alGet u.qps key ≠ none → ans (.qpopen i) y 5) ∧
        (alGet u.qps key = none → ans (.qpopen i) { y with qps := alSet u.qps key q } 0)) ∧
      -- with windows, whose bytes xs lie in pages that are marked already; the first of them that cannot be read
      (let n := rd 1 100
       let entry (j : Nat) := agentLoad y .agent sp 32 (BitVec.ofNat 64 (rd 8 104) + BitVec.ofNat 64 (32 * j))
       let reserved (x : Nat) : Prop := x / 2 ^ 156 % 16 ≠ 0 ∨ x / 2 ^ 162 ≠ 0
       let window (x : Nat) : QpWindow := { base := x % 2 ^ 64, len := x / 2 ^ 64 % 2 ^ 64, tag := BitVec.ofNat 28 (x / 2 ^ 128), read := decide (x / 2 ^ 160 % 2 = 1), write := decide (x / 2 ^ 161 % 2 = 1) }
       (∀ xs : Nat → Nat, (∀ j, j < n → entry j = (some (xs j), y)) →
         ((∃ j, j < n ∧ reserved (xs j)) → ans (.qpopen i) y 3) ∧
         ((∀ j, j < n → ¬reserved (xs j)) → (alGet u.qps key ≠ none → ans (.qpopen i) y 5) ∧
           (alGet u.qps key = none →
             ans (.qpopen i) { y with qps := alSet u.qps key { q with windows := (List.range n).map fun j => window (xs j) } } 0))) ∧
       ∀ m t, m < n → (∀ j, j < m → ∃ x, entry j = (some x, y)) → entry m = (none, t) → ans (.qpopen i) t 3))) ∧
    -- QPCLOSE
    (2 < a ∨ g12 < p.firstQp ∨ p.firstQp + p.qpCount ≤ g12 → ans (.qpclose i) y 3) ∧
    (a ≤ 2 → p.firstQp ≤ g12 → g12 < p.firstQp + p.qpCount →
      let k := 4096 * a + g12
      ans (.qpclose i) { flushQp y k with qps := alDel (flushQp y k).qps k } 0 ∧
      (alGet u.qps k = none → Rising u.qps → ans (.qpclose i) y 0) ∧
      (∀ q, alGet u.qps k = some q → Rising u.qps → q.sent = [] → q.sqProd.toNat = q.sqTaken → q.rqProd.toNat = q.rqTaken →
        ans (.qpclose i) { y with qps := alDel u.qps k } 0))) ∧
  (∀ (s u : State) (port qp : Nat) (v : Word) (q : Qp) (c : Completion) (pa : Nat), qp < 4096 → port < 3 →
    let k := 4096 * port + qp
    let cnt : BitVec 32 := v.setWidth 32
    let value (kind : Nat) : Word := BitVec.ofNat 64 (v.toNat % 2 ^ 62 + kind * 2 ^ 62)
    let ignored (kind : Nat) : State := addLog u 0x0C 0 0xFF 0 0xFFFF 0 (0x10000 + k) (value kind).toNat
    let put (q : Qp) : State := { u with qps := alSet u.qps k q }
    let rows : List (Nat × Event) := [(0, .sendQueueDoorbell port qp v), (1, .receiveQueueDoorbell port qp v), (2, .completionQueueDoorbell port qp v)]
    -- doorbells
    (∀ e ∈ rows, Fires s u e.2 →
      (u.ready = false → exec e.2.row s = .next u) ∧
      (u.ready = true → alGet u.qps k = none ∨ v.toNat / 2 ^ 32 % 2 ^ 30 ≠ 0 → exec e.2.row s = .next (ignored e.1))) ∧
    (u.ready = true → alGet u.qps k = some q → q.state ≠ .reset → v.toNat / 2 ^ 32 % 2 ^ 30 = 0 →
      (Fires s u (.sendQueueDoorbell port qp v) →
        (q.sqSize < (cnt - q.sqProd).toNat → exec .sendQueueDoorbell s = .next (ignored 0)) ∧
        ((cnt - q.sqProd).toNat ≤ q.sqSize →
          (q.state = .ready → exec .sendQueueDoorbell s = .next (put { q with sqProd := cnt })) ∧
          (q.state = .error → exec .sendQueueDoorbell s = .next (flushQp (put { q with sqProd := cnt }) k)))) ∧
      (Fires s u (.receiveQueueDoorbell port qp v) →
        (q.rqSize < (cnt - q.rqProd).toNat → exec .receiveQueueDoorbell s = .next (ignored 1)) ∧
        ((cnt - q.rqProd).toNat ≤ q.rqSize →
          (q.state = .ready → exec .receiveQueueDoorbell s = .next (put { q with rqProd := cnt })) ∧
          (q.state = .error → exec .receiveQueueDoorbell s = .next (flushQp (put { q with rqProd := cnt }) k)))) ∧
      (Fires s u (.completionQueueDoorbell port qp v) →
        (q.cqSize < (cnt - q.cqCons).toNat → exec .completionQueueDoorbell s = .next (ignored 2)) ∧
        ((cnt - q.cqCons).toNat ≤ q.cqSize → exec .completionQueueDoorbell s = .next (put { q with cqCons := cnt })))) ∧
    -- completions
    (alGet u.qps k = some q → PortCalm u →
      let n := q.completions
      let va := q.cq + BitVec.ofNat 64 (32 * (n % q.cqSize))
      ((n + (2 ^ 32 - q.cqCons.toNat)) % 2 ^ 32 < q.cqSize → QpRange u q .store va pa 32 → (∀ j, j < 32 → (va + BitVec.ofNat 64 j).toNat = va.toNat + j) →
        c.bytes < 2 ^ 32 → c.imm < 2 ^ 32 → c.status < 2 ^ 8 → c.op < 2 ^ 8 →
        ∃ m, writeCompletion u k c =
            { u with mem := m, qps := alSet u.qps k { q with completions := n + 1, state := if c.status = 0 ∨ c.status = 7 then q.state else .error } } ∧
          let at' (n off : Nat) := memRead m n (pa + off)
          at' 8 0 = c.wrid.toNat ∧ at' 4 8 = c.bytes ∧ at' 4 12 = c.imm ∧ at' 1 16 = c.status ∧ at' 1 17 = c.op ∧ at' 2 18 = qp ∧ at' 1 20 = port ∧
          at' 10 21 = 0 ∧ at' 1 31 = (if n / q.cqSize % 2 = 0 then 1 else 0) ∧ ∀ c, c < pa ∨ pa + 32 ≤ c → memGet m c = memGet u.mem c) ∧
      (q.cqSize ≤ (n + (2 ^ 32 - q.cqCons.toNat)) % 2 ^ 32 →
        writeCompletion u k c = addLog (put { q with state := .error }) 0x12 0 q.part q.ctx 0xFFFF 0 k n) ∧
      -- what follows in Error
      (∀ q', alGet (writeCompletion u k c).qps k = some q' →
        (q'.state ≠ .error → completeQp u k c = writeCompletion u k c) ∧ (q'.state = .error → completeQp u k c = flushQp (writeCompletion u k c) k)) ∧
      (∀ e, q.sent = [e] → q.sqProd.toNat = q.sqTaken → q.rqProd.toNat = q.rqTaken →
        let z := writeCompletion u k { wrid := e.wrid, bytes := 0, imm := 0, status := 7, op := e.op.toNat }
        ∀ q', alGet z.qps k = some q' → flushQp u k = { z with qps := alSet z.qps k { q' with sent := [], sqTaken := q.sqTaken, rqTaken := q.rqTaken } }) ∧
      (∀ op flags len laddr raddr rkey imm wrid, q.sent = [] → q.sqProd.toNat = q.sqTaken + 1 → q.rqProd.toNat = q.rqTaken →
        QpReaches u q .load (q.sq + BitVec.ofNat 64 (64 * (q.sqTaken % q.sqSize))) pa → SendIs (memRead u.mem 64 pa) op flags len laddr raddr rkey imm wrid →
        let z := writeCompletion u k { wrid := wrid, bytes := 0, imm := 0, status := 7, op := op }
        ∀ q', alGet z.qps k = some q' → flushQp u k = { z with qps := alSet z.qps k { q' with sent := [], sqTaken := q.sqTaken + 1, rqTaken := q.rqTaken } })))

/-- 18 R386, R387, R390: a port takes the next send entry of a queue pair, in slot order: it is Ready, an entry is posted, no wait runs and its priority
is not paused. A valid entry is on the wire with its PSN, its fields and, but for a READ, the data at LADDR; the PSN moves by its packets. An invalid
one completes with status 8, one whose LADDR cannot be read with status 2. A fenced entry waits for READs, and a READ for room under RDMAX. 18 R386 to
R388, R390: what arrives at a queue pair in Ready. A SEND takes the next receive entry: its data are written from ADDR, the receive completes with
0x80, or 0x81 and the immediate, and the message is acknowledged; without an entry the answer is a receiver-not-ready NAK, and a message longer than
LEN completes the receive with status 1 and is refused. A WRITE and a READ are performed only where their key's window grants all of the range; else
the answer is a remote-access NAK and nothing is performed. A WRITE with immediate takes a receive entry as well. A failed receive is refused with an
operation NAK (log 49), and a message that names no queue pair in Ready changes nothing (log 47): the model's choices. -/
def Obligations.EthernetMessages : Prop :=
  (∀ (s u : State) (port qp : Nat) (q : Qp) (pt : Partition) (pa pd op flags len : Nat) (laddr raddr : Word) (rkey imm : BitVec 32) (wrid : Word),
    let k := 4096 * port + qp
    let ev : Event := if op = 1 then .sendWithImmediate port qp else if op = 2 then .rdmaWrite port qp else if op = 3 then .rdmaWriteWithImmediate port qp else if op = 4 then .rdmaRead port qp else .send port qp
    let x := memRead u.mem 64 pa
    let taken : Qp := { q with sqTaken := q.sqTaken + 1 }
    let put (q : Qp) : State := { u with qps := alSet u.qps k q }
    let packets := max 1 ((len + (1024 * 2 ^ q.mtu - 1)) / (1024 * 2 ^ q.mtu))
    let reads := (q.sent.filter fun e => e.op == 4).length
    let mine := alGet u.qps k = some q ∧ q.state = .ready ∧ q.sqProd.toNat ≠ q.sqTaken % 2 ^ 32 ∧ q.rnrWait = false ∧
      partByNum u q.part = some pt ∧ (port, pt.prio) ∉ u.paused ∧
      QpReaches u q .load (q.sq + BitVec.ofNat 64 (64 * (q.sqTaken % q.sqSize))) pa ∧ SendIs x op flags len laddr raddr rkey imm wrid
    qp < 4096 → Fires s u ev →
      (alGet u.qps k = none ∨ (alGet u.qps k = some q ∧ (q.state ≠ .ready ∨ q.sqProd.toNat = q.sqTaken % 2 ^ 32 ∨ q.rnrWait = true)) →
        exec ev.row s = .next u) ∧
      (alGet u.qps k = some q → partByNum u q.part = some pt → (port, pt.prio) ∈ u.paused → exec ev.row s = .next u) ∧
      (PortCalm u → mine →
        (flags / 2 % 2 = 1 ∧ reads ≠ 0 ∨ op = 4 ∧ q.rdmax ≤ reads → exec ev.row s = .next u) ∧
        (flags / 2 % 2 = 0 ∨ reads = 0 → op ≠ 4 ∨ reads < q.rdmax →
          (¬SendOk x op flags len raddr rkey imm →
            exec ev.row s = .next (completeQp (put taken) k { wrid := wrid, bytes := 0, imm := 0, status := 8, op := op })) ∧
          (SendOk x op flags len raddr rkey imm → op ≠ 4 → len ≠ 0 → QpFaults u q .load laddr →
            exec ev.row s = .next (completeQp (put taken) k { wrid := wrid, bytes := 0, imm := 0, status := 2, op := op })) ∧
          (SendOk x op flags len raddr rkey imm → (op ≠ 4 → QpRange u q .load laddr pd len) →
            let sent : EthSent := { slot := q.sqTaken, op := BitVec.ofNat 8 op, psn := q.spsn, last := q.spsn + BitVec.ofNat 24 (packets - 1), len := len, laddr := laddr, wrid := wrid, sig := flags % 2 = 1 }
            let data := if op = 4 then [] else memBytes u.mem len pd
            exec ev.row s = .next { put { taken with sent := q.sent ++ [sent], spsn := q.spsn + BitVec.ofNat 24 packets } with
              ethOut := u.ethOut ++ [onWire q port qp (.send q.spsn (BitVec.ofNat 8 op) raddr rkey imm (decide (flags / 4 % 2 = 1)) len data)] })))) ∧
  (∀ (s u : State) (port qp : Nat) (q : Qp) (pa pd addr n : Nat) (key : BitVec 32) (data : List Byte) (imm : Option (BitVec 32)),
    let k := 4096 * port + qp
    let put (q : Qp) : State := { u with qps := alSet u.qps k q }
    let me : BitVec 24 := BitVec.ofNat 24 (0x100000 * (port + 1) + qp)
    let answers (z : State) (b : EthBody) : State := { z with ethOut := z.ethOut ++ [onWire q port qp b] }
    let posted := q.rqProd.toNat ≠ q.rqTaken % 2 ^ 32
    let x := memRead u.mem 32 pa
    let entry := QpReaches u q .load (q.rq + BitVec.ofNat 64 (32 * (q.rqTaken % q.rqSize))) pa
    let wrid : Word := BitVec.ofNat 64 (x / 2 ^ 128)
    let room := x / 2 ^ 64 % 2 ^ 32
    let taken : Qp := { q with rqTaken := q.rqTaken + 1 }
    let packets (len : Nat) := max 1 ((len + (1024 * 2 ^ q.mtu - 1)) / (1024 * 2 ^ q.mtu))
    let acked (z t : State) (len : Nat) : Prop := ∀ q', alGet z.qps k = some q' →
      t = { z with qps := alSet z.qps k { q' with rpsn := q'.rpsn + BitVec.ofNat 24 (packets len) },
                   ethOut := z.ethOut ++ [onWire q' port qp (.ack (q'.rpsn + BitVec.ofNat 24 (packets len) - 1))] }
    let window (write : Bool) (n : Nat) : Prop := ∃ w, q.windows[key.toNat / 2 ^ 28]? = some w ∧ w.tag.toNat = key.toNat % 2 ^ 28 ∧
      (if write then w.write else w.read) = true ∧ w.base ≤ addr ∧ addr + n ≤ w.base + w.len
    let rcv := if imm.isSome then 0x81 else 0x80
    let value := match imm with | some v => v.toNat | none => 0
    qp < 4096 → port < 3 →
    (∀ other : BitVec 24, other.toNat < 0x100000 * (port + 1) ∨ 0x100000 * (port + 1) + 4096 ≤ other.toNat →
      (Fires s u (.incomingSend port other data imm) → exec .incomingSend s = .next u) ∧
      (Fires s u (.incomingRdmaWrite port other key addr data imm) → exec .incomingRdmaWrite s = .next u) ∧
      (Fires s u (.incomingRdmaRead port other key addr n) → exec .incomingRdmaRead s = .next u)) ∧
    (alGet u.qps k = none ∨ (alGet u.qps k = some q ∧ q.state ≠ .ready) →
      (Fires s u (.incomingSend port me data imm) → exec .incomingSend s = .next u) ∧
      (Fires s u (.incomingRdmaWrite port me key addr data imm) → exec .incomingRdmaWrite s = .next u) ∧
      (Fires s u (.incomingRdmaRead port me key addr n) → exec .incomingRdmaRead s = .next u)) ∧
    (alGet u.qps k = some q → q.state = .ready → PortCalm u →
      -- SEND
      (Fires s u (.incomingSend port me data imm) →
        (¬posted → exec .incomingSend s = .next (answers u .rnrNak)) ∧
        (posted → entry →
          (room < data.length → exec .incomingSend s =
            .next (completeQp (answers (put taken) .operationNak) k { wrid := wrid, bytes := 0, imm := 0, status := 1, op := rcv })) ∧
          (data.length ≤ room → data ≠ [] → QpFaults u q .store (BitVec.ofNat 64 x) → exec .incomingSend s =
            .next (completeQp (answers (put taken) .operationNak) k { wrid := wrid, bytes := 0, imm := 0, status := 2, op := rcv })) ∧
          (data.length ≤ room → QpRange u q .store (BitVec.ofNat 64 x) pd data.length →
            ∃ m t, (∀ j, j < data.length → memGet m (pd + j) = data.getD j 0) ∧ (∀ c, c < pd ∨ pd + data.length ≤ c → memGet m c = memGet u.mem c) ∧
              exec .incomingSend s = .next t ∧
              acked (completeQp { put taken with mem := m } k { wrid := wrid, bytes := data.length, imm := value, status := 0, op := rcv }) t data.length))) ∧
      -- WRITE
      (Fires s u (.incomingRdmaWrite port me key addr data imm) →
        (imm ≠ none → ¬posted → exec .incomingRdmaWrite s = .next (answers u .rnrNak)) ∧
        (imm = none ∨ posted →
          (¬window true data.length → exec .incomingRdmaWrite s = .next (answers u .accessNak)) ∧
          (window true data.length → data ≠ [] → QpFaults u q .store (BitVec.ofNat 64 addr) → exec .incomingRdmaWrite s = .next (answers u .accessNak)) ∧
          (window true data.length → QpRange u q .store (BitVec.ofNat 64 addr) pd data.length → ∃ m t,
            (∀ j, j < data.length → memGet m (pd + j) = data.getD j 0) ∧ (∀ c, c < pd ∨ pd + data.length ≤ c → memGet m c = memGet u.mem c) ∧
            (imm = none → exec .incomingRdmaWrite s = .next t ∧ acked { u with mem := m } t data.length) ∧
            (imm ≠ none → QpReaches { u with mem := m } q .load (q.rq + BitVec.ofNat 64 (32 * (q.rqTaken % q.rqSize))) pa → exec .incomingRdmaWrite s = .next t ∧
              acked (completeQp { put taken with mem := m } k
                { wrid := BitVec.ofNat 64 (memRead m 32 pa / 2 ^ 128), bytes := data.length, imm := value, status := 0, op := 0x82 }) t data.length)))) ∧
      -- READ
      (Fires s u (.incomingRdmaRead port me key addr n) →
        (¬window false n → exec .incomingRdmaRead s = .next (answers u .accessNak)) ∧
        (window false n → n ≠ 0 → QpFaults u q .load (BitVec.ofNat 64 addr) → exec .incomingRdmaRead s = .next (answers u .accessNak)) ∧
        (window false n → QpRange u q .load (BitVec.ofNat 64 addr) pd n → exec .incomingRdmaRead s =
          .next (answers (put { q with rpsn := q.rpsn + BitVec.ofNat 24 (packets n) }) (.readResponse (memBytes u.mem n pd)))))))

/-- 18 R387, R388, R390: what comes back to a queue pair in Ready. An acknowledgement completes the messages that it reaches, in order, and of one that it reaches in
part the packets stay acknowledged; the data of a READ are written at its LADDR; a remote-access NAK completes its message with status 3, another
refusal with 4. A timeout or a sequence-error NAK, which acknowledges what lies before its PSN, resends from the oldest PSN that is not acknowledged
and counts a retry, up to RETRY, then status 5; a receiver-not-ready NAK is a wait, after which they are sent again, up to RNR times, then status 6.
Model's choices: both retry counts are 0 once the oldest message completes, the slot order, what an acknowledgement reaches (log 45), and that an
answer to a queue pair not in Ready changes nothing (log 47). A congestion notification halves the rate, 55 µs without one raise it by 1/64 of the line rate, and a CE mark sends one
where 50 µs have passed (log 26). Priority flow control that arrives pauses a priority; a port sends it on the priority of a partition (log 46). -/
def Obligations.AnswersAndRetries : Prop :=
  ∀ (s u : State) (port qp : Nat) (q : Qp) (psn : BitVec 24) (data : List Byte) (e : EthSent) (rest : List EthSent) (pd : Nat) (prio : BitVec 3) (on : Bool),
    let k := 4096 * port + qp
    let put (q : Qp) : State := { u with qps := alSet u.qps k q }
    let reached (x : BitVec 24) : Prop := (psn - x).toNat < 2 ^ 23
    -- the packets of the oldest message up to a PSN acknowledged, and of the oldest in a state
    let heads (p : BitVec 24) (l : List EthSent) : List EthSent :=
      match l with
      | x :: l => (if x.op ≠ 4 ∧ (p - x.psn).toNat < 2 ^ 23 then { x with acked := max x.acked (p + 1 - x.psn).toNat } else x) :: l
      | [] => []
    let acks (z : State) : State := match alGet z.qps k with
      | some q => { z with qps := alSet z.qps k { q with sent := heads psn q.sent } }
      | none => z
    let behind : Qp := { q with sent := rest, retries := 0, rnrRetries := 0 }
    let fails (z : State) (status : Nat) : State := completeQp z k { wrid := e.wrid, bytes := 0, imm := 0, status := status, op := e.op.toNat }
    let me : BitVec 24 := BitVec.ofNat 24 (0x100000 * (port + 1) + qp)
    let again (f : EthSent → EthMsg) (q' : Qp) : State := { put q' with ethOut := u.ethOut ++ q'.sent.map f }
    let answers : List Event := [.ack port me psn, .rdmaReadResponse port me data, .sequenceErrorNak port me psn, .receiverNotReadyNak port me psn,
      .remoteAccessNak port me psn, .remoteOperationNak port me psn, .ackTimeout port qp, .rnrWaitExpiry port qp, .ceMarkedPacket port me]
    qp < 4096 → port < 3 →
    (∀ ev ∈ answers, Fires s u ev → alGet u.qps k = none ∨ (alGet u.qps k = some q ∧ q.state ≠ .ready) → exec ev.row s = .next u) ∧
    (alGet u.qps k = some q → q.state = .ready →
      -- acknowledgements
      (Fires s u (.ack port me psn) → q.sent = e :: rest →
        (e.op = 4 ∨ ¬reached e.last → exec .ack s = .next (acks u)) ∧
        (e.op ≠ 4 → reached e.last → (∀ e', rest.head? = some e' → e'.op = 4 ∨ ¬reached e'.last) →
          (e.sig = false → exec .ack s = .next (acks (put behind))) ∧
          (e.sig = true → exec .ack s =
            .next (acks (completeQp (put behind) k { wrid := e.wrid, bytes := e.len, imm := 0, status := 0, op := e.op.toNat }))))) ∧
      (Fires s u (.rdmaReadResponse port me data) → q.sent = e :: rest → e.op = 4 → data.length = e.len → PortCalm u →
        (QpRange u q .store e.laddr pd e.len → ∃ m, (∀ j, j < e.len → memGet m (pd + j) = data.getD j 0) ∧
          (∀ c, c < pd ∨ pd + e.len ≤ c → memGet m c = memGet u.mem c) ∧
          (e.sig = false → exec .rdmaReadResponse s = .next { put behind with mem := m }) ∧
          (e.sig = true → exec .rdmaReadResponse s =
            .next (completeQp { put behind with mem := m } k { wrid := e.wrid, bytes := e.len, imm := 0, status := 0, op := 4 }))) ∧
        (e.len ≠ 0 → QpFaults u q .store e.laddr → exec .rdmaReadResponse s = .next (fails (put { q with sent := rest }) 2))) ∧
      -- refusals: the oldest message is the one that the NAK names
      (q.sent = e :: rest → (∀ x ∈ rest, x ≠ e) → (psn - e.psn).toNat < 2 ^ 23 → (e.last - psn).toNat < 2 ^ 23 →
        (Fires s u (.remoteAccessNak port me psn) → exec .remoteAccessNak s = .next (fails (put { q with sent := rest }) 3)) ∧
        (Fires s u (.remoteOperationNak port me psn) → exec .remoteOperationNak s = .next (fails (put { q with sent := rest }) 4))) ∧
      -- retries
      (∀ f : EthSent → EthMsg, (∀ x ∈ heads (psn - 1) q.sent, SentAgain u q port qp x (f x)) → PortCalm u → q.sent = e :: rest → q.retries < q.retry →
        e.op = 4 ∨ ¬(psn - 1 - e.last).toNat < 2 ^ 23 → Fires s u (.sequenceErrorNak port me psn) →
          exec .sequenceErrorNak s = .next (again f { q with sent := heads (psn - 1) q.sent, retries := q.retries + 1 })) ∧
      (∀ f : EthSent → EthMsg, (∀ x ∈ q.sent, SentAgain u q port qp x (f x)) → PortCalm u → q.sent ≠ [] →
        (q.retries < q.retry →
          (Fires s u (.ackTimeout port qp) → exec .ackTimeout s = .next (again f { q with retries := q.retries + 1 }))) ∧
        (Fires s u (.rnrWaitExpiry port qp) → q.rnrWait = true → q.rnrRetries < q.rnr →
          exec .rnrWaitExpiry s = .next (again f { q with rnrWait := false, rnrRetries := q.rnrRetries + 1 }))) ∧
      (q.sent = e :: rest →
        (q.retry ≤ q.retries →
          (e.op = 4 ∨ ¬(psn - 1 - e.last).toNat < 2 ^ 23 → Fires s u (.sequenceErrorNak port me psn) →
            exec .sequenceErrorNak s = .next (fails (put { q with sent := rest }) 5)) ∧
          (Fires s u (.ackTimeout port qp) → exec .ackTimeout s = .next (fails (put { q with sent := rest }) 5))) ∧
        (Fires s u (.receiverNotReadyNak port me psn) → exec .receiverNotReadyNak s = .next (put { q with rnrWait := true })) ∧
        (Fires s u (.rnrWaitExpiry port qp) → q.rnrWait = true → q.rnr ≤ q.rnrRetries →
          exec .rnrWaitExpiry s = .next (fails (put { q with rnrWait := false, sent := rest }) 6))) ∧
      (Fires s u (.rnrWaitExpiry port qp) → q.rnrWait = false → exec .rnrWaitExpiry s = .next u) ∧
      -- congestion
      (Fires s u (.congestionNotificationPacket port me) →
        exec .congestionNotificationPacket s = .next (put { q with rate := if q.rate < 2 then 1 else q.rate / 2 })) ∧
      (Fires s u (.rateRecovery port qp) → exec .rateRecovery s = .next (put { q with rate := if q.rate + 4 ≤ 256 then q.rate + 4 else 256 })) ∧
      (Fires s u (.ceMarkedPacket port me) → ∃ t, exec .ceMarkedPacket s = .next t ∧
        (t = { u with draws := u.draws + 1 } ∨ t = { u with draws := u.draws + 1, ethOut := u.ethOut ++ [onWire q port qp .congestion] }))) ∧
    (Fires s u (.priorityFlowControl port prio on true) →
      ((∃ x ∈ u.parts, x.prio = prio) → exec .priorityFlowControl s = .next { u with ethOut := u.ethOut ++ [.flowControl port prio on] }) ∧
      ((∀ x ∈ u.parts, x.prio ≠ prio) → exec .priorityFlowControl s = .next u)) ∧
    (Fires s u (.priorityFlowControl port prio on false) → ∃ l, exec .priorityFlowControl s = .next { u with paused := l } ∧
      ((port, prio) ∈ l ↔ on = true) ∧ ∀ x, x ≠ (port, prio) → (x ∈ l ↔ x ∈ u.paused))

/-- 17 R344 to R349, R353, R356, R357: work queues. A HOST queue's doorbell sets TAIL where its value lies from TAIL to HEAD + SIZE; any other is logged
under kind 0x0C and ignored. The scheduler takes from the highest class that has packets, in weighted rounds by queue number, and from no class at or
below that of a farm that waits for placement. Taking advances HEAD. A packet without a valid context or a reachable, aligned CREC is dropped and
logged under kind 0x0E; one that fails a check gets a record with STATUS 2 and the first reason of the table; one of a held entry a record with STATUS
4; any other starts a farm, or waits where its entry's PCOUNT is not 0. Model's choices: what the records of the log hold (log 40); a refused packet
sets its entry's STATE to 4 (R355, DEDUCED, log 33); one index at each HART_PLACEMENT, and a farm whose context has no valid
entry can be neither placed nor ask another to give way (log 35); accumulators go free whatever VOWN says (log 37). 17 R350, R351, R353, R356, R358, 01 R13 to R17, R29, 02 R52: the controller places the next index
of the farm that it serves on the lowest free hart, in the state of 01 R13 and R14, with the tile's clusters where its other hart is free, and a gang
at once on the first free harts; no farm passes a gang of a higher class, nor one of a higher class that can be placed, but where an earlier farm that
cannot be placed keeps that one back. The placed hart owns no accumulators (01 R14). A farm that cannot be placed asks the farm of the lowest class below it, the one launched last, to give way: SIP.PRE on its harts. A farm whose harts have all exited and
whose drains are done ends with STATUS 1, the record's bytes 8 to 31 before its status word. -/
def Obligations.Scheduling : Prop :=
  (∀ (s u : State) (p : Partition) (q : Nat) (cls : BitVec 2) (ctx : BitVec 16) (size ring weight : Nat) (host : Bool) (head tail v : Word),
    let clear := PortCalm u
    let b := p.queueBase + 64 * (q - p.firstQueue)
    let ignored (part : Nat) : State := addLog u 0x0C 0 part 0 0xFFFF 0 q v.toNat
    -- doorbells
    (Fires s u (.workQueueDoorbell q v) → u.bridge = [] → u.dir = [] → u.resvs = [] →
      (u.ready = false → exec .workQueueDoorbell s = .next u) ∧
      (u.ready = true → queuePart u q = none → exec .workQueueDoorbell s = .next (ignored 0xFF)) ∧
      (u.ready = true → queuePart u q = some p → (¬∃ c x n r w, UsableQueue u p q true c x n r w) → exec .workQueueDoorbell s = .next (ignored p.num)) ∧
      (u.ready = true → UsableQueue u p q true cls.toNat ctx size ring weight → QueueHolds u p q head tail →
        (v.toNat < tail.toNat ∨ head.toNat + size < v.toNat → exec .workQueueDoorbell s = .next (ignored p.num)) ∧
        (tail.toNat ≤ v.toNat → v.toNat ≤ head.toNat + size → clear → ∃ m, CountsWritten u p q head v m ∧
          exec .workQueueDoorbell s = .next { u with mem := m, queues := alSet u.queues q { head := head, tail := v } }))) ∧
    -- the scheduler's choice
    (u.memoryForm → u.resvs = [] → (∀ x, p.firstQueue ≤ x → x < p.firstQueue + p.queueCount → queuePart u x = some p) →
      let free (c : BitVec 2) : Prop := ∀ f ∈ u.farms, f.part = p.num → c ≤ f.cls → f.waits = false
      (∀ x c, u.ready = true → ReadyQueue u p x c → (∀ y d, ReadyQueue u p y d → d ≤ c) → free c → chooseQueue u p ≠ none) ∧
      (∀ x, chooseQueue u p = some x → ∃ c, ReadyQueue u p x c ∧ (∀ y d, ReadyQueue u p y d → d ≤ c) ∧ free c ∧
        (roundOf u p c = none → ∀ y, ReadyQueue u p y c → x ≤ y) ∧
        ∀ r, roundOf u p c = some r →
          let goes := ReadyQueue u p r.queue c ∧ r.used < memRead u.mem 1 (p.queueBase + 64 * (r.queue - p.firstQueue) + 15)
          (goes → x = r.queue) ∧
          (¬goes → (∃ y, ReadyQueue u p y c ∧ r.queue < y) → r.queue < x ∧ ∀ y, ReadyQueue u p y c → r.queue < y → x ≤ y) ∧
          (¬goes → (∀ y, ReadyQueue u p y c → y ≤ r.queue) → ∀ y, ReadyQueue u p y c → x ≤ y))) ∧
    -- a packet taken
    (Fires s u (.packetTake q) →
      (queuePart u q = none → exec .packetTake s = .next u) ∧ (queuePart u q = some p → chooseQueue u p ≠ some q → exec .packetTake s = .next u) ∧
      (chooseQueue u p = some q → UsableQueue u p q host cls.toNat ctx size ring weight → QueueHolds u p q head tail → clear →
        let slot := head.toNat % size
        let x := memRead u.mem 128 (ring + 128 * slot)
        let shb : Word := BitVec.ofNat 64 (memRead u.mem 8 (b + 24))
        ∃ y m l, y = { u with mem := m, queues := alSet u.queues q { head := head + 1, tail := tail }, rounds := l } ∧
          CountsWritten u p q (head + 1) tail m ∧ (∀ r ∈ u.rounds, r.part ≠ p.num ∨ r.cls ≠ cls → r ∈ l) ∧
          ∀ k, PacketIs x k →
            let drops := exec .packetTake s = .next (addLog y 0x0E 0 p.num ctx 0xFFFF 0 q slot)
            let e := k.tge.toNat
            let inTable := k.tge ≠ 0xFFFF ∧ e < p.graphLen
            let g := p.graphBase + 64 * e
            let st := memRead m 1 (g + 4)
            let tiles := (p.tiles.flatMap fun r => (List.range r.2).map fun j => r.1 + j).filter fun n => !(tileAt u n).dead
            let room := (if k.place = 1 then 1 else 2) * tiles.length
            let reason := refusedFor x k room (if k.tge ≠ 0xFFFF ∧ e < p.graphLen then some st else none)
            let y' : State := { y with ended := u.ended.filter fun f => !(f.part == p.num && f.packet.tge != 0xFFFF && f.packet.tge.toNat == e) }
            let set (n : Nat) (m' : List Host.Cell) : Prop := memGet m' (g + 4) = BitVec.ofNat 8 n ∧ ∀ c, c ≠ g + 4 → memGet m' c = memGet m c
            (recordSpace y p ctx = none → drops) ∧
            (∀ sp, recordSpace y p ctx = some sp →
              (k.crec.toNat % 32 ≠ 0 → drops) ∧ (∀ t, u.tlb = [] → translate y sp .store k.crec = .trap t → drops) ∧
              (∀ pc ty en, k.crec.toNat % 32 = 0 → translate y sp .store k.crec = .ok pc ty en →
                ∃ f, FarmStarts f u.nextFarm p.num q cls ctx shb k false ∧
                (reason ≠ 0 →
                  (¬inTable ∨ st ≠ 0 → exec .packetTake s = .next (writeRecord y f 2 reason 0 0 0 0 0)) ∧
                  (inTable → st = 0 → ∃ m', set 4 m' ∧ exec .packetTake s = .next (writeRecord { y with mem := m' } f 2 reason 0 0 0 0 0))) ∧
                (reason = 0 →
                  (¬inTable → exec .packetTake s = .next { y with farms := u.farms ++ [f], nextFarm := u.nextFarm + 1 }) ∧
                  (inTable → st = 3 → let why := memRead m 1 (g + 6)
                    exec .packetTake s = .next (writeRecord y' f 4 (if why = 0 then 1 else why) 2 0 0 0 0)) ∧
                  (inTable → st = 0 → memRead m 4 g = 0 → ∃ m', set 2 m' ∧
                    exec .packetTake s = .next { y' with mem := m', farms := u.farms ++ [f], nextFarm := u.nextFarm + 1 }) ∧
                  (inTable → st = 0 → memRead m 4 g ≠ 0 → ∃ m', set 1 m' ∧
                    exec .packetTake s = .next { y' with mem := m', farms := u.farms ++ [{ f with waitsGraph := true }], nextFarm := u.nextFarm + 1 }))))))) ∧
  (∀ (s u : State) (f : Farm) (p : Partition) (i : HartId) (n : Nat) (x : FarmHart) (root : Word) (asid : BitVec 16) (rest : List HartId) (left : List Nat)
    (status reason verdict harts undisp notrig : Nat) (bittern : Word) (pa : Nat),
    let h := getHart u i
    let freeHart (h : Hart) : Prop := h.vq = [] ∧ (h.run = .halted ∨ (h.level = .s ∧ h.ctxid = 0 ∧ h.run = .wfe))
    let other := getHart u ⟨i.tile, !i.h1⟩
    let z := tileAt u i.tile
    let entered (f : Farm) (n : Nat) (x : FarmHart) (g : Vector Word 32) : Prop :=
      g.get 0 = 0 ∧ g.get 1 = x.start ∧ g.get 2 = x.cnt ∧ g.get 3 = f.packet.n ∧ g.get 4 = BitVec.ofNat 64 n ∧ g.get 5 = BitVec.ofNat 64 f.packet.harts ∧
      (∀ m : Fin 10, g.get ⟨6 + m.val, by omega⟩ = f.packet.args.get m) ∧ ∀ r : Fin 32, 16 ≤ r.val → g.get r = 0
    let mine := farmBy u f.id = some f ∧ partByNum u f.part = some p
    let chosen := (placementChoice u p).map (fun g => g.id) = some f.id
    (Fires s u (.hartPlacement f.id) → u.dir = [] → u.resvs = [] →
      (farmBy u f.id = none → exec .hartPlacement s = .next u) ∧ (mine → ¬chosen → exec .hartPlacement s = .next u) ∧
      -- one index
      (mine → chosen → ctxEntry u p f.ctx = some (root, asid) → f.packet.gang = false → f.packet.place ≠ 2 → f.unplaced = n :: left →
        farmSlots u p f = i :: rest → f.harts[n]? = some x →
        ∃ g, entered f n x g ∧
          let vlp : BitVec 8 := if other.vq = [] ∧ (other.run = .halted ∨ (other.level = .s ∧ other.ctxid = 0 ∧ other.run = .wfe)) then (if i.h1 then 0xFF else 0) else z.vlp
          let want := ((List.range 8).filter fun c => vlp.getLsbD c == i.h1).length
          let acc := z.acc.map fun a => if a.owner == some i.h1 then AccTile.free else a
          exec .hartPlacement s = .next (modFarm (putHart (modTile u i.tile fun z => { z with vlp := vlp, acc := acc }) i (startsHart h f n root asid want g)) f.id fun f =>
            { f with harts := f.harts.set n { x with placed := true, place := some i }, tiles := if f.tiles.contains i.tile then f.tiles else f.tiles ++ [i.tile] })) ∧
      -- a gang
      (mine → chosen → ctxEntry u p f.ctx = some (root, asid) → f.packet.gang = true → f.unplaced.length ≤ (farmSlots u p f).length → (farmSlots u p f).Nodup →
        (∀ g ∈ u.farms, g.id = f.id → g = f) →
        ∃ t, exec .hartPlacement s = .next t ∧ ∃ f', farmBy t f.id = some f' ∧ ∀ (m j : Nat) (y : FarmHart), f.unplaced[m]? = some j → f.harts[j]? = some y →
          ∃ i', (farmSlots u p f)[m]? = some i' ∧ f'.harts[j]? = some { y with placed := true, place := some i' } ∧
            entered f j y (getHart t i').g ∧ (getHart t i').level = .u ∧ (getHart t i').run = .running ∧
            (getHart t i').pc = f.packet.entry &&& 0x000FFFFFFFFFFFFC ∧ (getHart t i').member = some { farm := f.id, index := j }) ∧
      -- pre-emption
      (mine → chosen → (farmSlots u p f).length < f.together → ∀ v, victimOf u p f.cls = some v → askedAlready u f = false →
        ∃ t, exec .hartPlacement s = .next t ∧ t = { u with tiles := t.tiles, farms := u.farms.map fun g => if g.id == f.id then { g with victim := some v.id } else g } ∧
          (∀ y ∈ v.harts, ∀ j, y.place = some j → getHart t j = { getHart u j with sip := (getHart u j).sip ||| 1 }) ∧
          ∀ j, (∀ y ∈ v.harts, y.place ≠ some j) → getHart t j = getHart u j)) ∧
    -- who is served, where, and who gives way
    (placementChoice u p = some f → f ∈ u.farms ∧ f.part = p.num ∧ f.waits = true ∧
      ∀ g ∈ u.farms, g.part = p.num → g.waits = true → f.cls < g.cls → g.packet.gang = false ∧ (canPlace u p g = false → f.id ≤ g.id) ∧
        (canPlace u p g = true → ∃ k ∈ u.farms, k.part = p.num ∧ k.waits = true ∧ canPlace u p k = false ∧ g.cls ≤ k.cls ∧ k.id < g.id)) ∧
    (f.packet.place = 0 → farmSlots u p f = i :: rest → freeHart h ∧ z.dead = false ∧
      (∀ j, freeHart (getHart u j) → (tileAt u j.tile).dead = false → (∃ r ∈ p.tiles, r.1 ≤ j.tile ∧ j.tile < r.1 + r.2) →
        i.tile < j.tile ∨ (i.tile = j.tile ∧ (i.h1 = true → j.h1 = true)))) ∧
    (f.packet.place = 1 → i ∈ farmSlots u p f → freeHart h ∧ ∀ y ∈ f.harts, ∀ j, y.place = some j → j.tile ≠ i.tile) ∧
    (f.packet.place = 2 → i ∈ farmSlots u p f → freeHart h ∧ freeHart other) ∧
    (∀ v, victimOf u p f.cls = some v → v ∈ u.farms ∧ v.cls < f.cls ∧ (∃ y ∈ v.harts, y.place ≠ none) ∧
      ∀ before w after, u.farms = before ++ w :: after → w.part = p.num → w.cls < f.cls → (∃ y ∈ w.harts, y.place ≠ none) →
        v.cls ≤ w.cls ∧ (v.cls = w.cls → v ∈ w :: after)) ∧
    -- completion
    (Fires s u (.farmCompletion f.id) →
      (farmBy u f.id = none → exec .farmCompletion s = .next u) ∧
      (farmBy u f.id = some f → f.waitsGraph = true ∨ f.allOut = false ∨ drainsLeft u f = true → exec .farmCompletion s = .next u) ∧
      (farmBy u f.id = some f → f.waitsGraph = false → f.allOut = true → drainsLeft u f = false → f.triggered = true →
        let cap (k : Nat) := min k (2 ^ 32 - 1)
        let y := writeRecord u f 1 0 f.verdict.code (cap (f.harts.filter fun x => x.placed).length)
          (cap ((f.packet.n.toNat + f.packet.s.toNat - 1) / f.packet.s.toNat - f.nextStrip.toNat))
          (cap (f.harts.filter fun x => x.placed && x.exited && !x.triggered).length) f.bittern
        exec .farmCompletion s = .next { y with
          farms := y.farms.filter fun g => g.id != f.id, ended := if f.packet.tge = 0xFFFF then y.ended else y.ended ++ [f] })) ∧
    -- a completion record
    (partByNum u f.part = some p → RecordReaches u p f pa → PortCalm u → status < 2 ^ 8 → reason < 2 ^ 8 → verdict < 4 → harts < 2 ^ 32 → undisp < 2 ^ 32 → notrig < 2 ^ 32 →
      ∃ m, writeRecord u f status reason verdict harts undisp notrig bittern = { u with mem := m } ∧ memRead m 8 pa = status + reason * 2 ^ 8 + verdict * 2 ^ 16 ∧
        memRead m 4 (pa + 8) = harts ∧ memRead m 4 (pa + 12) = undisp ∧ memRead m 4 (pa + 16) = notrig ∧ memRead m 4 (pa + 20) = 0 ∧
        memRead m 8 (pa + 24) = bittern.toNat ∧ ∀ c, c < pa ∨ pa + 32 ≤ c → memGet m c = memGet u.mem c))

/-- 18 R382, 17 R359, 04 R98: a killed context and its peers. The kill stops the context's harts at U and those of its farms, frees its engines and its
fabric, ends its placed farms, marks the context dead and sends a kill notice to every listed peer; a supervisor at S that runs for no farm runs on, and the accumulators of
the context go free (09 R213). A peer that receives the notice marks the
pair dead, drops its held sub-batches, fails its own operations addressed to it with code 2, sets DEAD in a listed barrier at home here, and
acknowledges. The kill completes when every peer has acknowledged or has been logged under kind 0x0F. Model's choice: what a kill does to harts at S
(log 20). -/
def Obligations.KillsAndNotices : Prop :=
  ∀ (s u : State) (p : Partition) (c peer : BitVec 16) (i : HartId),
    let h := getHart u i
    let t := killContext u p c
    let mine := partNum u i.tile = p.num ∧ (∃ x, (i.tile, x) ∈ u.tiles) ∧ h.ctxid = c ∧ h.translated = true ∧ h.run ≠ .halted ∧ h.run ≠ .stopped
    let answered (ks : List Kill) : Prop := ∀ k', k' ∈ ks ↔ ∃ k ∈ u.kills,
      k'.peers ≠ [] ∧ k' = (if k.ctx = c then { k with peers := k.peers.filter fun q => q != peer } else k)
    -- the kill
    (Rising u.tiles → u.resvs = [] → u.held = [] →
      (mine → h.level = .u ∨ h.member ≠ none → (getHart t i).run = .halted ∧ (getHart t i).member = none ∧ (getHart t i).vq = [] ∧ (getHart t i).outstanding = [] ∧
        (getHart t i).pc = h.pc) ∧
      (mine → h.level = .s → h.member = none → (getHart t i).run = h.run ∧ (getHart t i).member = none ∧ (getHart t i).g = h.g) ∧
      (mine → (h.vownV = true → h.vownId = c) → ∀ a, (accAt t i.tile a).owner ≠ some i.h1) ∧
      (h.ctxid ≠ c ∨ partNum u i.tile ≠ p.num → getHart t i = { h with sip := (getHart t i).sip, noticeSeq := (getHart t i).noticeSeq }) ∧
      (∀ e x, partNum u i.tile = p.num → engineAt u i.tile e = some x → x.ctx = c → engineAt t i.tile e = none) ∧
      (∀ h1, partNum u i.tile = p.num → (tileAt u i.tile).fabric.owner = some (h1, c) → (tileAt t i.tile).fabric = Fabric.empty) ∧
      ((u.farms.map fun f => f.id).Nodup → ∀ f ∈ t.farms, f.part = p.num → f.ctx = c → ∀ x ∈ f.harts, x.placed = false) ∧
      (∀ x, x ∈ t.deadCtxs ↔ x ∈ u.deadCtxs ∨ x = (p.num, c)) ∧
      ((∀ b ∈ u.peerTables, b.part = p.num → b.ctx ≠ c) → t.peerOut = u.peerOut ∧ t.kills = u.kills) ∧
      (∀ b, b ∈ u.peerTables → b.part = p.num → b.ctx = c → (∀ d ∈ u.peerTables, d.part = p.num → d.ctx = c → d = b) → b.peers ≠ [] →
        t.peerOut = u.peerOut ++ (b.peers.map fun q => PeerMsg.killNotice q.1 c) ∧
        t.kills = u.kills ++ [{ part := p.num, ctx := c, peers := b.peers.map fun q => q.1 }])) ∧
    -- a notice
    (Fires s u (.killNotice peer c) →
      ((∀ b ∈ u.peerTables, (peer, c) ∉ b.peers) → exec .killNotice s = .next { u with
        deadPairs := if (peer, c) ∈ u.deadPairs then u.deadPairs else u.deadPairs ++ [(peer, c)],
        heldBatches := u.heldBatches.filter fun b => !(b.src == peer && b.ctx == c),
        held := u.held.filter fun r => match r.event with
          | some (.subBatchArrival b) => !(b.src == peer && b.ctx == c)
          | _ => true
        peerOut := u.peerOut ++ [.killAck peer c] }) ∧
      (∀ b off, u.peerTables.filter (fun b => b.peers.contains (peer, c)) = [b] → Rising u.tiles → partByNum u b.part = some p →
        let failed (q : Batch) : Batch := { q with ops := q.ops.map fun o => if o.op.peer = peer ∧ o.res = none then { o with res := some { code := 2, val := 0 } } else o }
        ∃ t, exec .killNotice s = .next t ∧ (∀ x, x ∈ t.deadPairs ↔ x ∈ u.deadPairs ∨ x = (peer, c)) ∧ t.peerOut = u.peerOut ++ [.killAck peer c] ∧
          (∀ x, x ∈ t.heldBatches ↔ x ∈ u.heldBatches ∧ (x.src ≠ peer ∨ x.ctx ≠ c)) ∧
          (b.part = partNum u i.tile → b.ctx = h.ctxid → (∃ x, (i.tile, x) ∈ u.tiles) →
            getHart t i = { h with outstanding := h.outstanding.map failed, openBatch := h.openBatch.map failed } ∧
            ∀ q ∈ h.outstanding, (∃ o ∈ q.ops, o.op.peer = peer ∧ o.res = none) → .event (.batchCompletion i q.id) ∈ t.events) ∧
          (b.part ≠ partNum u i.tile ∨ b.ctx ≠ h.ctxid → getHart t i = h) ∧
          (b.bars = [] → t.mem = u.mem) ∧
          (∀ pa, b.bars = [off] → heapAddr u .agent p b.ctx b.heap .store off 128 = (some pa, u) → PortCalm u →
            let home := memRead u.mem 2 (pa + 20)
            (home = 0xFFFF ∨ home = u.self.toNat → memRead t.mem 1 (pa + 22) % 2 = 1 ∧ ∀ c, c ≠ pa + 22 → memGet t.mem c = memGet u.mem c) ∧
            (home ≠ 0xFFFF → home ≠ u.self.toNat → t.mem = u.mem)))) ∧
    -- acknowledgements
    (Fires s u (.killAcknowledgement peer c) → ∃ ks, answered ks ∧ exec .killAcknowledgement s = .next { u with kills := ks }) ∧
    (Fires s u (.killAcknowledgementTimeout peer c) →
      ((∀ k ∈ u.kills, k.ctx = c → peer ∉ k.peers) → exec .killAcknowledgementTimeout s = .next u) ∧
      (∀ k before after, u.kills = before ++ k :: after → k.ctx = c → peer ∈ k.peers → (∀ x ∈ before, x.ctx = c → peer ∉ x.peers) →
        ∃ ks, answered ks ∧ exec .killAcknowledgementTimeout s = .next { addLog u 0x0F 0 k.part c 0xFFFF 0 peer.toNat c.toNat with kills := ks }))

/-- 19 R399 to R404, 21 R416, 17 R359: health. Retirement sets the cluster's LANEMAP bit, for good; a guard band rises by one step, to 30 at most;
deconfiguration stops the tile's harts, frees its engines and fabric and kills every context on it; each raises GEN, is logged (0x05,
0x06, 0x07) and writes the record of what is lost to the slot that does not hold the current one, with the next SEQ. A temperature above 110 °C kills
every context, one that has only a peer-group table too, stops every hart, clears READY and sets ERR 6, and changes no record. A monitor that samples
counts a sample in its bin: for signal 3 the entries in the queue of the hart that ARG names. Model's choices: GEN also rises for LOGSEQ (log 42); the
limit is 440 quarter degrees and the stop comes above it, ARG's low bit names the hart, and what the other signals sample comes with the event (log 48). 21 R409 to R413, 19 R400, R403: power and bring-up.
Without power nothing is left but module flash. Bring-up goes step by step, STAGE the step in progress and READY clear, up to one that fails with its
ERR, which ends it; memory is written in step 3, in step 4 the valid record with the higher SEQ is applied; each guard band starts at the larger of its need and the record's step, the partitions of the plan are set up, each
boot hart starts at S at its entry address with CTXID 0, every other hart waits free, and READY is set. The host link trains. A boot hart on a
deconfigured tile does not start, moves put on the agenda after the next POWER_ON stay, and a step is a move: the model's choices (log 7, 42). -/
def Obligations.HealthAndPower : Prop :=
  (∀ (s u : State) (n : Nat) (c : BitVec 3) (d : Nat) (k : BitVec 2) (v : BitVec 32) (p : Partition),
    let x := tileAt u n
    let recorded (y t : State) : Prop := t = { y with flash := t.flash } ∧ ∃ r : DeconfRecord, r.valid = true ∧ r.serial = y.serial ∧ r.gb = y.gb ∧
      (∀ e, e ∈ r.tiles ↔ ∃ z, (e.1, z) ∈ y.tiles ∧ e.2 = (z.dead, z.lanemap) ∧ (z.dead = true ∨ z.lanemap ≠ 0)) ∧
      let ok (o : Option DeconfRecord) : Prop := ∃ a, o = some a ∧ a.valid = true
      let f := y.flash
      (∀ a, f.slot0 = some a → a.valid = true → ¬ok f.slot1 ∨ (∃ b, f.slot1 = some b ∧ b.seq ≤ a.seq) → r.seq = a.seq + 1 ∧ t.flash = { f with slot1 := some r }) ∧
      (∀ b, f.slot1 = some b → b.valid = true → ¬ok f.slot0 ∨ (∃ a, f.slot0 = some a ∧ a.seq < b.seq) → r.seq = b.seq + 1 ∧ t.flash = { f with slot0 := some r }) ∧
      (¬ok f.slot0 → ¬ok f.slot1 → r.seq = 1 ∧ t.flash = { f with slot0 := some r })
    -- lane clusters
    (Fires s u (.clusterRetirement n c) →
      (x.lanemap.getLsbD c.toNat = true → exec .clusterRetirement s = .next u) ∧
      (x.lanemap.getLsbD c.toNat = false → ∃ (map : BitVec 8) (t : State), (∀ b, b < 8 → map.getLsbD b = (x.lanemap.getLsbD b || decide (b = c.toNat))) ∧
        exec .clusterRetirement s = .next t ∧
        recorded (addLog { modTile u n fun z => { z with lanemap := map } with gen := u.gen + 1 } 0x05 3 (partNum u n) 0 n 0 c.toNat map.toNat) t)) ∧
    -- guard bands
    (Fires s u (.guardBandRaise d) →
      let g := (alGet u.gb d).getD 0
      (72 ≤ d ∨ 30 ≤ g → exec .guardBandRaise s = .next u) ∧
      (d < 72 → g < 30 → ∃ t, exec .guardBandRaise s = .next t ∧
        recorded (addLog { u with gb := alSet u.gb d (g + 1), gen := u.gen + 1 } 0x06 0 0xFF 0 0xFFFF 0 d (g + 1)) t)) ∧
    -- tiles
    (Fires s u (.tileDeconfiguration n) →
      (x.dead = true → exec .tileDeconfiguration s = .next u) ∧
      (x.dead = false → ∃ y t, exec .tileDeconfiguration s = .next t ∧ recorded y t ∧ (tileAt t n).dead = true ∧ (tileAt t n).lanemap = x.lanemap ∧
        (∀ h1, ((tileAt t n).hart h1).run = .stopped ∧ ((tileAt t n).hart h1).member = none) ∧ (tileAt t n).fabric = Fabric.empty ∧
        (∀ e, engineAt t n e = none) ∧
        (∃ r, y.log.getLast? = some r ∧ r.kind = 0x07 ∧ r.sev = 3 ∧ r.tile = BitVec.ofNat 16 n) ∧
        (partOf u n = some p → Rising u.tiles → ∀ h1, ((x.hart h1).run ≠ .halted ∧ (x.hart h1).run ≠ .stopped ∧ (x.hart h1).translated = true) →
          (p.num, (x.hart h1).ctxid) ∈ t.deadCtxs) ∧
        (∀ e z, partOf u n = some p → engineAt u n e = some z → (p.num, z.ctx) ∈ t.deadCtxs))) ∧
    -- the thermal stop
    (Fires s u (.thermalStop n v) →
      (v.toNat ≤ 440 ∨ u.ready = false → exec .thermalStop s = .next u) ∧
      (440 < v.toNat → u.ready = true → ∃ t, exec .thermalStop s = .next t ∧ t.ready = false ∧ t.errCode = 6 ∧ t.flash = u.flash ∧
        (∀ e ∈ t.tiles, e.2.h0.run = .stopped ∧ e.2.h1.run = .stopped) ∧
        (∃ r, t.log.getLast? = some r ∧ r.kind = 0x11 ∧ r.tile = BitVec.ofNat 16 n ∧ r.data0 = BitVec.ofNat 64 n ∧ r.data1 = v.setWidth 64) ∧
        (∀ f ∈ u.farms, p ∈ u.parts → f.part = p.num → (p.num, f.ctx) ∈ t.deadCtxs) ∧
        ∀ b ∈ u.peerTables, p ∈ u.parts → b.part = p.num → (p.num, b.ctx) ∈ t.deadCtxs)) ∧
    -- health monitors
    (let m := x.monitors.get k.toFin
     let base := m.ctl.toNat / 2 ^ 16 % 2 ^ 16
     let width := 2 ^ (m.ctl.toNat / 2 ^ 32 % 2 ^ 5)
     let sig := m.ctl.toNat % 2 ^ 8
     let v' : BitVec 32 := if sig = 3 then BitVec.ofNat 32 (if m.ctl.getLsbD 8 then x.h1 else x.h0).vq.length else v
     let put (y : Monitor) : State := modTile u n fun z => { z with monitors := z.monitors.set k.toNat y k.isLt }
     (Fires s u (.healthMonitorSample n k v) →
       (m.ctl.getLsbD 63 = false ∨ m.ctl.getLsbD 62 = true ∨ sig = 0 ∨ 7 < sig → exec .healthMonitorSample s = .next (put m)) ∧
       (m.ctl.getLsbD 63 = true → m.ctl.getLsbD 62 = false → 1 ≤ sig → sig ≤ 7 → ∃ y, exec .healthMonitorSample s = .next (put y) ∧ y.ctl = m.ctl ∧
         y.min.toNat = min m.min.toNat v'.toNat ∧ y.max.toNat = max m.max.toNat v'.toNat ∧ y.count = m.count + 1 ∧
         ∀ b : Fin 16, let counts := (base + b.val * width ≤ v'.toNat ∧ v'.toNat < base + (b.val + 1) * width) ∨ (b.val = 0 ∧ v'.toNat < base) ∨
             (b.val = 15 ∧ base + 16 * width ≤ v'.toNat)
           (counts → (y.bins.get b).toNat = min ((m.bins.get b).toNat + 1) (2 ^ 32 - 1)) ∧ (¬counts → y.bins.get b = m.bins.get b))) ∧
     (Fires s u (.healthMonitorClear n k) → exec .healthMonitorClear s =
       .next (put { m with min := 0xFFFFFFFF, max := 0, count := 0, bins := Vector.replicate 16 0 })))) ∧
  (∀ (s u : State) (r : DeconfRecord),
    let f := u.flash
    let ok (o : Option DeconfRecord) : Prop := ∃ a, o = some a ∧ a.valid = true
    let chosen := (f.slot0 = some r ∧ r.valid = true ∧ ∀ b, f.slot1 = some b → b.valid = true → b.seq ≤ r.seq) ∨
      (f.slot1 = some r ∧ r.valid = true ∧ ∀ a, f.slot0 = some a → a.valid = true → a.seq < r.seq)
    let fits : Prop := ∀ p ∈ f.plan, p.ranges.length ≤ 64 ∧ ∀ x ∈ p.ranges, x.base % 2 ^ 25 = 0 ∧ x.len % 2 ^ 25 = 0
    (Fires s u .powerLoss → exec .powerLoss s = .next { State.reset with
      power := false, ready := false, stage := 0, errCode := 0, fwver := 0, serial := 0, link := false, flash := u.flash, applied := none, tiles := [],
      self := u.self, parts := [], gen := 0, relaxed := u.relaxed, draws := u.draws, events := u.events.dropWhile fun m => m != .event .powerOn }) ∧
    (Fires s u .hostLinkTraining → exec .hostLinkTraining s = .next { u with link := true }) ∧
    (Fires s u .powerOn →
      (u.power = true → exec .powerOn s = .next u) ∧
      (u.power = false → exec .powerOn s = .next { u with power := true, stage := 1, events := u.events ++ [.bringUp] })) ∧
    -- the steps of bring-up
    (u.ready = true ∨ u.errCode ≠ 0 → bringUp u = u) ∧
    (u.ready = false → u.errCode = 0 →
      let fails (e : BitVec 8) : Prop := bringUp u = { u with errCode := e }
      let goes (y : State) : Prop := bringUp u = { y with stage := u.stage + 1, events := u.events ++ [.bringUp] }
      (u.stage = 1 → (f.imageOk = false → fails 1) ∧ (f.imageOk = true → ¬ok f.slot0 → ¬ok f.slot1 → fails 2) ∧
        (f.imageOk = true → chosen → goes { u with fwver := f.fwver, serial := r.serial })) ∧
      (u.stage = 2 → chosen → (f.calibrates = false → fails 3) ∧
        (f.calibrates = true → ∃ g, goes { u with gb := g } ∧ ∀ d, d < 72 → (alGet g d).getD 0 = max ((alGet f.needs d).getD 0) ((alGet r.gb d).getD 0))) ∧
      (u.stage = 3 → (f.memoryOk = false → fails 4) ∧
        (f.memoryOk = true → goes { u with mem := [], bad := [], dir := [], resvs := [], held := [], tiles := [] })) ∧
      (u.stage = 4 → chosen → ∃ l, goes { u with applied := some r, tiles := l, gen := 1 } ∧
        let t : State := { u with tiles := l }
        (∀ j, getHart t j = Hart.free) ∧
        (Rising r.tiles → (∀ n dead map, (n, dead, map) ∈ r.tiles → (tileAt t n).dead = dead ∧ (tileAt t n).lanemap = map) ∧
          ∀ n, (∀ e ∈ r.tiles, e.1 ≠ n) → (tileAt t n).dead = false ∧ (tileAt t n).lanemap = 0)) ∧
      (u.stage = 5 → (f.planOk = false ∨ ¬fits → fails 5) ∧
        (f.planOk = true → fits → ∃ t, bringUp u = t ∧ t = { u with ready := true, parts := f.plan, tiles := t.tiles, cur := t.cur } ∧
          (∀ p, f.plan.head? = some p → t.cur = p.boot) ∧
          (∀ p ∈ f.plan, (∀ q ∈ f.plan, q.boot = p.boot → q = p) → (tileAt t p.boot.tile).dead = false →
            getHart t p.boot = { Hart.free with run := .running, pc := p.entry }) ∧
          (∀ n, (tileAt t n).dead = (tileAt u n).dead) ∧ ∀ j, (∀ p ∈ f.plan, p.boot ≠ j) → getHart t j = getHart u j))))

/-- 19 R391 to R393, R396, R398, R399, R406, 17 R357: errors of the hardware, which come as data on the agenda (log 31). A corrected error is logged
(0x01) and makes the verdict of the hart's farm corrected at least; a lane cluster's count rises, and at 16 the cluster is retired. A codeword or a
line becomes bad, or a word of register storage; a parity error in a cache drops the line; a bad
reservation entry poisons its line (0x0A). An instruction that reads a bad general register takes cause 0x0E with TVAL by R393 and UNRES (record 0x02); one that writes it makes it good. In protected mode a mismatch in the replay window is replayed: the
instruction runs again, and as it completes the recovery is logged (0x03) and charged; met again, it raises cause 0x12 with TEPC at the oldest
instruction that has not retired, the element in TVAL, and UNRES (record 0x04), and that instruction writes no register. Model's choices: the order of an error among the moves, and that no element is performed
(log 31). -/
def Obligations.Errors : Prop :=
  let logged (s t : State) (kind : BitVec 16) (sev : BitVec 8) (addr d0 d1 : Word) : Prop :=
    t.logSeq = s.logSeq + 1 ∧ t.mem = s.mem ∧
    ∃ r, t.log.getLast? = some r ∧ r.seq = t.logSeq ∧ r.kind = kind ∧ r.sev = sev ∧ r.addr = addr ∧ r.data0 = d0 ∧ r.data1 = d1
  let enters (s t : State) (pc : Word) (code : BitVec 8) (tval : Word) : Prop :=
    t.hart.tcause = code.setWidth 64 ∧ t.hart.tval = tval ∧ t.hart.tepc = pc &&& 0x000FFFFFFFFFFFFC ∧ t.hart.unres = true ∧
    t.hart.level = .s ∧ t.hart.pp = .u ∧ t.hart.pc = s.hart.tvec ∧ t.hart.g = s.hart.g ∧ t.hart.v = s.hart.v ∧ t.hart.k = s.hart.k ∧ t.hart.vq = []
  (∀ (s : State) (x : Upset) (rest : List Move), s.power = true → s.events = .upset x :: rest →
    let t := applyUpset x { s with events := rest }
    (t.await = [] → step s = .next t) ∧ (t.await ≠ [] → step s = .next (askHomes { s with events := rest ++ [.upset x] } t.await))) ∧
  (∀ (s : State) (i : HartId) (storage addr : Word) (c : Option (BitVec 3)) (m : Membership) (f : Farm),
    (getHart s i).member = some m → farmBy s m.farm = some f →
    let t := applyUpset (.corrected i storage addr c) s
    let count (u : State) (b : BitVec 3) : Nat := (tileAt u i.tile).errCounts.get ⟨b.toNat, b.isLt⟩
    logged s t 0x01 1 addr storage (match c with | some b => BitVec.ofNat 64 (count t b) | none => 0) ∧
    farmBy t m.farm = some { f with verdict := if f.verdict = .clean then .corrected else f.verdict, bittern := t.logSeq } ∧
    (c = none → t.events = s.events) ∧
    ∀ b, c = some b → count t b = count s b + 1 ∧
      t.events = s.events ++ (if count t b = 16 then [Move.event (.clusterRetirement i.tile b)] else [])) ∧
  (∀ (s : State) (w l : Nat) (i : HartId) (x : StoreWord) (c : BitVec 3),
    (let t := applyUpset (.codeword w) s
     t = { s with bad := t.bad } ∧ ∀ a, isBad t a = true ↔ isBad s a = true ∨ a / 32 = w) ∧
    (let t := applyUpset (.directory l) s
     logged s t 0x0A (Config.severity 0x0A) (BitVec.ofNat 64 (128 * l)) 0 1 ∧ ∀ a, isBad t a = true ↔ isBad s a = true ∨ a / 128 = l) ∧
    (let t := applyUpset (.register i x (some c)) s
     x ∈ (getHart t i).badStore ∧ getHart t i = { getHart s i with badStore := (getHart t i).badStore } ∧ (∀ j, j ≠ i → getHart t j = getHart s j) ∧
     t.events = s.events ++ [.event (.clusterRetirement i.tile c)] ∧ t.mem = s.mem) ∧
    (∀ r, let t := applyUpset (.replay i r (some c)) s
     getHart t i = { getHart s i with replay := some r } ∧ t.events = s.events ++ [.event (.clusterRetirement i.tile c)] ∧ t.mem = s.mem) ∧
    (∀ n, let t := applyUpset (.parity i n l) s
     logged s t 0x01 1 (BitVec.ofNat 64 (128 * l)) n 0 ∧ (Rising (tileAt s i.tile).icache → alGet (tileAt t i.tile).icache l = none)) ∧
    ((∀ r ∈ s.resvs, l ∉ r.lines) → applyUpset (.reservation l) s = s) ∧
    (∀ r, s.resvs = [r] → l ∈ r.lines → let t := applyUpset (.reservation l) s
     logged s t 0x0A (Config.severity 0x0A) (BitVec.ofNat 64 (128 * l)) r.ident 1 ∧ ∀ a, isBad t a = true ↔ isBad s a = true ∨ a / 128 = l)) ∧
  (∀ (s t : State) (w0 w1 : Nat) (i : Instr), s.power = true → s.events = [] → s.hart.run = .running → s.hart.inProgress = none → s.hart.trapWait = none →
    FetchesPair s w0 w1 → decode w0 w1 = .instr i → issueTraps i s = false → dueEvent (some i) s = none → awaitsQueued i s = false →
    meetError i s = some t →
    step s = .next (closeTurn s none t)) ∧
  (∀ (s : State) (d a b : GReg), s.hart.level = .u → s.hart.member = none → s.hart.vq = [] → s.hart.uliActive = false → s.hart.replay = none → a ≠ 0 →
    s.hart.badStore = [⟨1, a.setWidth 8, 0⟩] →
    let tval : Word := BitVec.ofNat 64 (2 ^ 63 + a.toNat * 256 + 1)
    (∀ i ∈ [Instr.add d a b, .add d b a, .ldd d a 0, .std a b 0], ∃ t, meetError i s = some t ∧
      enters s t s.hart.pc 0x0E tval ∧ logged s t 0x02 2 tval 0x0E s.hart.pc) ∧
    (b ≠ a → d ≠ a → meetError (.add a d b) s = none ∧
      ∃ t, exec (.add a d b) s = .next t ∧ (settle (.add a d b) s t).hart.badStore = [] ∧ (settle (.add a d b) s t).hart.g = t.hart.g)) ∧
  (∀ (s : State) (d a b : VReg) (k : KReg) (r : Replay), s.hart.level = .u → s.hart.run = .running → s.hart.member = none → s.relaxed = false →
    s.hart.badStore = [] → s.hart.replay = some r → r.cause = .mismatch →
    let i : Instr := .vadd d a (.v b) k
    (s.hart.vq = [] → s.hart.prot = false ∨ s.hart.vl = 0 → meetError i s = some (s.setHart { s.hart with replay := none })) ∧
    let second (pc : Word) : Prop := r.again = true ∨ ∃ e, s.hart.replayed = some (pc, e)
    let used : State := { s with ticket := s.ticket + BitVec.ofNat 64 r.tickets }
    (s.hart.vq = [] → s.hart.prot = true → s.hart.vl ≠ 0 → ¬second s.hart.pc →
      meetError i s = some (used.setHart { s.hart with replay := none, replayed := some (s.hart.pc, r.elem), wbBlock := none })) ∧
    (s.hart.vq = [] → s.hart.prot = true → s.hart.vl ≠ 0 → second s.hart.pc → ∃ t, meetError i s = some t ∧ enters s t s.hart.pc 0x12 (BitVec.ofNat 64 r.elem) ∧
      t.hart.replay = none ∧ t.hart.replayed = none ∧ t.ticket = used.ticket ∧ logged s t 0x04 2 0 0x12 (BitVec.ofNat 64 r.elem)) ∧
    ∀ (q : Queued) (l : List Queued) (rest : List Move), s.hart.vq = q :: l → q.instr = i → q.vl ≠ 0 → s.hart.prot = true →
      s.events = .event (.vectorInstructionRetirement s.cur) :: rest →
      (second q.pc → ∃ t, exec .vectorInstructionRetirement s = .next t ∧ enters s t q.pc 0x12 (BitVec.ofNat 64 r.elem) ∧ t.events = rest) ∧
      (¬second q.pc → ∃ t, exec .vectorInstructionRetirement s = .next t ∧ t.hart.vq = l ∧ t.hart.replay = none ∧ t.hart.replayed = none ∧
        t.hart.level = .u ∧ logged s t 0x03 1 0 q.pc (BitVec.ofNat 64 r.elem) ∧ t.events = rest)) ∧
  -- what a replay has recovered, as the instruction completes
  (∀ (s t : State) (i : Instr) (e : Nat), s.hart.run = .running → s.hart.replayed = some (s.hart.pc, e) → s.hart.replay = none → s.hart.badStore = [] →
    t.cur = s.cur → t.hart.pc ≠ s.hart.pc → t.hart.level = s.hart.level → t.hart.tip = s.hart.tip → t.hart.vq.length ≤ s.hart.vq.length →
    t.hart.replayed = s.hart.replayed →
    let z := settle i s t
    z.hart = { t.hart with replayed := none } ∧ logged t z 0x03 1 0 s.hart.pc (BitVec.ofNat 64 e) ∧
    ∀ m f, t.hart.member = some m → farmBy t m.farm = some f →
      farmBy z m.farm = some { f with verdict := if f.verdict = .clean then .corrected else f.verdict, bittern := z.logSeq })
end

