-- ==== Sys2Proof/Laws/Dispatch.lean ====
section
/-! SUPPORT. The arms of exec, one equation each. -/

namespace Sys2Proof.Machine

theorem exec_add (d : GReg) (a : GReg) (b : GReg) (s : State) : exec (.add d a b) s = execAdd d a b s := rfl
theorem exec_sub (d : GReg) (a : GReg) (b : GReg) (s : State) : exec (.sub d a b) s = execSub d a b s := rfl
theorem exec_and (d : GReg) (a : GReg) (b : GReg) (s : State) : exec (.and d a b) s = execAnd d a b s := rfl
theorem exec_or (d : GReg) (a : GReg) (b : GReg) (s : State) : exec (.or d a b) s = execOr d a b s := rfl
theorem exec_xor (d : GReg) (a : GReg) (b : GReg) (s : State) : exec (.xor d a b) s = execXor d a b s := rfl
theorem exec_sll (d : GReg) (a : GReg) (b : GReg) (s : State) : exec (.sll d a b) s = execSll d a b s := rfl
theorem exec_srl (d : GReg) (a : GReg) (b : GReg) (s : State) : exec (.srl d a b) s = execSrl d a b s := rfl
theorem exec_sra (d : GReg) (a : GReg) (b : GReg) (s : State) : exec (.sra d a b) s = execSra d a b s := rfl
theorem exec_slt (d : GReg) (a : GReg) (b : GReg) (s : State) : exec (.slt d a b) s = execSlt d a b s := rfl
theorem exec_sltn (d : GReg) (a : GReg) (b : GReg) (s : State) : exec (.sltn d a b) s = execSltn d a b s := rfl
theorem exec_min (d : GReg) (a : GReg) (b : GReg) (s : State) : exec (.min d a b) s = execMin d a b s := rfl
theorem exec_max (d : GReg) (a : GReg) (b : GReg) (s : State) : exec (.max d a b) s = execMax d a b s := rfl
theorem exec_minn (d : GReg) (a : GReg) (b : GReg) (s : State) : exec (.minn d a b) s = execMinn d a b s := rfl
theorem exec_maxn (d : GReg) (a : GReg) (b : GReg) (s : State) : exec (.maxn d a b) s = execMaxn d a b s := rfl
theorem exec_mul (d : GReg) (a : GReg) (b : GReg) (s : State) : exec (.mul d a b) s = execMul d a b s := rfl
theorem exec_mulh (d : GReg) (a : GReg) (b : GReg) (s : State) : exec (.mulh d a b) s = execMulh d a b s := rfl
theorem exec_mulhn (d : GReg) (a : GReg) (b : GReg) (s : State) : exec (.mulhn d a b) s = execMulhn d a b s := rfl
theorem exec_div (d : GReg) (a : GReg) (b : GReg) (s : State) : exec (.div d a b) s = execDiv d a b s := rfl
theorem exec_divn (d : GReg) (a : GReg) (b : GReg) (s : State) : exec (.divn d a b) s = execDivn d a b s := rfl
theorem exec_rem (d : GReg) (a : GReg) (b : GReg) (s : State) : exec (.rem d a b) s = execRem d a b s := rfl
theorem exec_remn (d : GReg) (a : GReg) (b : GReg) (s : State) : exec (.remn d a b) s = execRemn d a b s := rfl
theorem exec_clz (d : GReg) (a : GReg) (s : State) : exec (.clz d a) s = execClz d a s := rfl
theorem exec_ctz (d : GReg) (a : GReg) (s : State) : exec (.ctz d a) s = execCtz d a s := rfl
theorem exec_popc (d : GReg) (a : GReg) (s : State) : exec (.popc d a) s = execPopc d a s := rfl
theorem exec_brev (d : GReg) (a : GReg) (s : State) : exec (.brev d a) s = execBrev d a s := rfl
theorem exec_addi (d : GReg) (a : GReg) (imm : BitVec 15) (s : State) : exec (.addi d a imm) s = execAddi d a imm s := rfl
theorem exec_andi (d : GReg) (a : GReg) (imm : BitVec 15) (s : State) : exec (.andi d a imm) s = execAndi d a imm s := rfl
theorem exec_ori (d : GReg) (a : GReg) (imm : BitVec 15) (s : State) : exec (.ori d a imm) s = execOri d a imm s := rfl
theorem exec_xori (d : GReg) (a : GReg) (imm : BitVec 15) (s : State) : exec (.xori d a imm) s = execXori d a imm s := rfl
theorem exec_slti (d : GReg) (a : GReg) (imm : BitVec 15) (s : State) : exec (.slti d a imm) s = execSlti d a imm s := rfl
theorem exec_sltni (d : GReg) (a : GReg) (imm : BitVec 15) (s : State) : exec (.sltni d a imm) s = execSltni d a imm s := rfl
theorem exec_slli (d : GReg) (a : GReg) (sh : BitVec 6) (s : State) : exec (.slli d a sh) s = execSlli d a sh s := rfl
theorem exec_srli (d : GReg) (a : GReg) (sh : BitVec 6) (s : State) : exec (.srli d a sh) s = execSrli d a sh s := rfl
theorem exec_srai (d : GReg) (a : GReg) (sh : BitVec 6) (s : State) : exec (.srai d a sh) s = execSrai d a sh s := rfl
theorem exec_lui (d : GReg) (imm : BitVec 20) (s : State) : exec (.lui d imm) s = execLui d imm s := rfl
theorem exec_auipc (d : GReg) (imm : BitVec 20) (s : State) : exec (.auipc d imm) s = execAuipc d imm s := rfl
theorem exec_limm (d : GReg) (imm : BitVec 32) (s : State) : exec (.limm d imm) s = execLimm d imm s := rfl
theorem exec_limmH (d : GReg) (imm : BitVec 32) (s : State) : exec (.limmH d imm) s = execLimmH d imm s := rfl
theorem exec_ldb (d : GReg) (a : GReg) (off : BitVec 10) (s : State) : exec (.ldb d a off) s = execLdb d a off s := rfl
theorem exec_ldh (d : GReg) (a : GReg) (off : BitVec 10) (s : State) : exec (.ldh d a off) s = execLdh d a off s := rfl
theorem exec_ldw (d : GReg) (a : GReg) (off : BitVec 10) (s : State) : exec (.ldw d a off) s = execLdw d a off s := rfl
theorem exec_ldd (d : GReg) (a : GReg) (off : BitVec 10) (s : State) : exec (.ldd d a off) s = execLdd d a off s := rfl
theorem exec_ldbN (d : GReg) (a : GReg) (off : BitVec 10) (s : State) : exec (.ldbN d a off) s = execLdbN d a off s := rfl
theorem exec_ldhN (d : GReg) (a : GReg) (off : BitVec 10) (s : State) : exec (.ldhN d a off) s = execLdhN d a off s := rfl
theorem exec_ldwN (d : GReg) (a : GReg) (off : BitVec 10) (s : State) : exec (.ldwN d a off) s = execLdwN d a off s := rfl
theorem exec_ldaq (d : GReg) (a : GReg) (n : Bool) (sz : Size) (sc : Scope) (s : State) : exec (.ldaq d a n sz sc) s = execLdaq d a n sz sc s := rfl
theorem exec_stb (d : GReg) (a : GReg) (off : BitVec 10) (s : State) : exec (.stb d a off) s = execStb d a off s := rfl
theorem exec_sth (d : GReg) (a : GReg) (off : BitVec 10) (s : State) : exec (.sth d a off) s = execSth d a off s := rfl
theorem exec_stw (d : GReg) (a : GReg) (off : BitVec 10) (s : State) : exec (.stw d a off) s = execStw d a off s := rfl
theorem exec_std (d : GReg) (a : GReg) (off : BitVec 10) (s : State) : exec (.std d a off) s = execStd d a off s := rfl
theorem exec_strel (d : GReg) (a : GReg) (sz : Size) (sc : Scope) (s : State) : exec (.strel d a sz sc) s = execStrel d a sz sc s := rfl
theorem exec_amoadd (d : GReg) (a : GReg) (b : GReg) (o : MemOrd) (sc : Scope) (sz : WSize) (s : State) : exec (.amoadd d a b o sc sz) s = execAmoadd d a b o sc sz s := rfl
theorem exec_amoand (d : GReg) (a : GReg) (b : GReg) (o : MemOrd) (sc : Scope) (sz : WSize) (s : State) : exec (.amoand d a b o sc sz) s = execAmoand d a b o sc sz s := rfl
theorem exec_amoor (d : GReg) (a : GReg) (b : GReg) (o : MemOrd) (sc : Scope) (sz : WSize) (s : State) : exec (.amoor d a b o sc sz) s = execAmoor d a b o sc sz s := rfl
theorem exec_amoxor (d : GReg) (a : GReg) (b : GReg) (o : MemOrd) (sc : Scope) (sz : WSize) (s : State) : exec (.amoxor d a b o sc sz) s = execAmoxor d a b o sc sz s := rfl
theorem exec_amomin (d : GReg) (a : GReg) (b : GReg) (o : MemOrd) (sc : Scope) (sz : WSize) (n : Bool) (s : State) : exec (.amomin d a b o sc sz n) s = execAmomin d a b o sc sz n s := rfl
theorem exec_amomax (d : GReg) (a : GReg) (b : GReg) (o : MemOrd) (sc : Scope) (sz : WSize) (n : Bool) (s : State) : exec (.amomax d a b o sc sz n) s = execAmomax d a b o sc sz n s := rfl
theorem exec_amoswp (d : GReg) (a : GReg) (b : GReg) (o : MemOrd) (sc : Scope) (sz : WSize) (s : State) : exec (.amoswp d a b o sc sz) s = execAmoswp d a b o sc sz s := rfl
theorem exec_amocas (d : GReg) (a : GReg) (b : GReg) (o : MemOrd) (sc : Scope) (sz : WSize) (s : State) : exec (.amocas d a b o sc sz) s = execAmocas d a b o sc sz s := rfl
theorem exec_beq (a : GReg) (b : GReg) (off : BitVec 10) (s : State) : exec (.beq a b off) s = execBeq a b off s := rfl
theorem exec_bne (a : GReg) (b : GReg) (off : BitVec 10) (s : State) : exec (.bne a b off) s = execBne a b off s := rfl
theorem exec_blt (a : GReg) (b : GReg) (off : BitVec 10) (s : State) : exec (.blt a b off) s = execBlt a b off s := rfl
theorem exec_bge (a : GReg) (b : GReg) (off : BitVec 10) (s : State) : exec (.bge a b off) s = execBge a b off s := rfl
theorem exec_bltn (a : GReg) (b : GReg) (off : BitVec 10) (s : State) : exec (.bltn a b off) s = execBltn a b off s := rfl
theorem exec_bgen (a : GReg) (b : GReg) (off : BitVec 10) (s : State) : exec (.bgen a b off) s = execBgen a b off s := rfl
theorem exec_jal (d : GReg) (imm : BitVec 20) (s : State) : exec (.jal d imm) s = execJal d imm s := rfl
theorem exec_jalr (d : GReg) (a : GReg) (imm : BitVec 15) (s : State) : exec (.jalr d a imm) s = execJalr d a imm s := rfl
theorem exec_fadd (d : GReg) (a : GReg) (b : GReg) (f : FFmt) (s : State) : exec (.fadd d a b f) s = execFadd d a b f s := rfl
theorem exec_fsub (d : GReg) (a : GReg) (b : GReg) (f : FFmt) (s : State) : exec (.fsub d a b f) s = execFsub d a b f s := rfl
theorem exec_fmul (d : GReg) (a : GReg) (b : GReg) (f : FFmt) (s : State) : exec (.fmul d a b f) s = execFmul d a b f s := rfl
theorem exec_fdiv (d : GReg) (a : GReg) (b : GReg) (f : FFmt) (s : State) : exec (.fdiv d a b f) s = execFdiv d a b f s := rfl
theorem exec_fsqrt (d : GReg) (a : GReg) (f : FFmt) (s : State) : exec (.fsqrt d a f) s = execFsqrt d a f s := rfl
theorem exec_fmin (d : GReg) (a : GReg) (b : GReg) (f : FFmt) (s : State) : exec (.fmin d a b f) s = execFmin d a b f s := rfl
theorem exec_fmax (d : GReg) (a : GReg) (b : GReg) (f : FFmt) (s : State) : exec (.fmax d a b f) s = execFmax d a b f s := rfl
theorem exec_fcmp (d : GReg) (a : GReg) (b : GReg) (f : FFmt) (c : FCmpCond) (s : State) : exec (.fcmp d a b f c) s = execFcmp d a b f c s := rfl
theorem exec_fcvtToFloat (d : GReg) (a : GReg) (f : FFmt) (src : CvtSrc) (s : State) : exec (.fcvtToFloat d a f src) s = execFcvtToFloat d a f src s := rfl
theorem exec_fcvtToInteger (d : GReg) (a : GReg) (f : FFmt) (dst : IntTy) (s : State) : exec (.fcvtToInteger d a f dst) s = execFcvtToInteger d a f dst s := rfl
theorem exec_fclass (d : GReg) (a : GReg) (f : FFmt) (s : State) : exec (.fclass d a f) s = execFclass d a f s := rfl
theorem exec_fma (d : GReg) (a : GReg) (b : GReg) (c : GReg) (f : FFmt) (s : State) : exec (.fma d a b c f) s = execFma d a b c f s := rfl
theorem exec_crr (d : GReg) (n : BitVec 12) (s : State) : exec (.crr d n) s = execCrr d n s := rfl
theorem exec_crw (d : GReg) (a : GReg) (n : BitVec 12) (s : State) : exec (.crw d a n) s = execCrw d a n s := rfl
theorem exec_crs (d : GReg) (a : GReg) (n : BitVec 12) (s : State) : exec (.crs d a n) s = execCrs d a n s := rfl
theorem exec_crc (d : GReg) (a : GReg) (n : BitVec 12) (s : State) : exec (.crc d a n) s = execCrc d a n s := rfl
theorem exec_ecall (s : State) : exec (.ecall) s = execEcall s := rfl
theorem exec_ebrk (s : State) : exec (.ebrk) s = execEbrk s := rfl
theorem exec_trapret (s : State) : exec (.trapret) s = execTrapret s := rfl
theorem exec_uret (s : State) : exec (.uret) s = execUret s := rfl
theorem exec_wfe (s : State) : exec (.wfe) s = execWfe s := rfl
theorem exec_halt (s : State) : exec (.halt) s = execHalt s := rfl
theorem exec_tlbinv (d : GReg) (a : GReg) (s : State) : exec (.tlbinv d a) s = execTlbinv d a s := rfl
theorem exec_cinv (d : GReg) (a : GReg) (s : State) : exec (.cinv d a) s = execCinv d a s := rfl
theorem exec_fence (o : MemOrd) (sc : Scope) (s : State) : exec (.fence o sc) s = execFence o sc s := rfl
theorem exec_safept (id : BitVec 16) (s : State) : exec (.safept id) s = execSafept id s := rfl
theorem exec_setvl (d : GReg) (a : GReg) (b : GReg) (s : State) : exec (.setvl d a b) s = execSetvl d a b s := rfl
theorem exec_setvli (d : GReg) (a : GReg) (fmt : ElemTy) (grp : BitVec 3) (sc : Bool) (s : State) : exec (.setvli d a fmt grp sc) s = execSetvli d a fmt grp sc s := rfl
theorem exec_lpreq (d : GReg) (a : GReg) (s : State) : exec (.lpreq d a) s = execLpreq d a s := rfl
theorem exec_vadd (d : VReg) (a : VReg) (b : Src) (k : KReg) (s : State) : exec (.vadd d a b k) s = execVadd d a b k s := rfl
theorem exec_vsub (d : VReg) (a : VReg) (b : Src) (k : KReg) (s : State) : exec (.vsub d a b k) s = execVsub d a b k s := rfl
theorem exec_vmul (d : VReg) (a : VReg) (b : Src) (k : KReg) (s : State) : exec (.vmul d a b k) s = execVmul d a b k s := rfl
theorem exec_vmulh (d : VReg) (a : VReg) (b : Src) (k : KReg) (s : State) : exec (.vmulh d a b k) s = execVmulh d a b k s := rfl
theorem exec_vmadd (d : VReg) (a : VReg) (b : Src) (k : KReg) (s : State) : exec (.vmadd d a b k) s = execVmadd d a b k s := rfl
theorem exec_vand (d : VReg) (a : VReg) (b : Src) (k : KReg) (s : State) : exec (.vand d a b k) s = execVand d a b k s := rfl
theorem exec_vor (d : VReg) (a : VReg) (b : Src) (k : KReg) (s : State) : exec (.vor d a b k) s = execVor d a b k s := rfl
theorem exec_vxor (d : VReg) (a : VReg) (b : Src) (k : KReg) (s : State) : exec (.vxor d a b k) s = execVxor d a b k s := rfl
theorem exec_vsll (d : VReg) (a : VReg) (b : Src) (k : KReg) (s : State) : exec (.vsll d a b k) s = execVsll d a b k s := rfl
theorem exec_vsrl (d : VReg) (a : VReg) (b : Src) (k : KReg) (s : State) : exec (.vsrl d a b k) s = execVsrl d a b k s := rfl
theorem exec_vsra (d : VReg) (a : VReg) (b : Src) (k : KReg) (s : State) : exec (.vsra d a b k) s = execVsra d a b k s := rfl
theorem exec_vmin (d : VReg) (a : VReg) (b : Src) (k : KReg) (s : State) : exec (.vmin d a b k) s = execVmin d a b k s := rfl
theorem exec_vmax (d : VReg) (a : VReg) (b : Src) (k : KReg) (s : State) : exec (.vmax d a b k) s = execVmax d a b k s := rfl
theorem exec_vminn (d : VReg) (a : VReg) (b : Src) (k : KReg) (s : State) : exec (.vminn d a b k) s = execVminn d a b k s := rfl
theorem exec_vmaxn (d : VReg) (a : VReg) (b : Src) (k : KReg) (s : State) : exec (.vmaxn d a b k) s = execVmaxn d a b k s := rfl
theorem exec_vsadd (d : VReg) (a : VReg) (b : Src) (k : KReg) (s : State) : exec (.vsadd d a b k) s = execVsadd d a b k s := rfl
theorem exec_vssub (d : VReg) (a : VReg) (b : Src) (k : KReg) (s : State) : exec (.vssub d a b k) s = execVssub d a b k s := rfl
theorem exec_vcmpEq (d : KReg) (a : VReg) (b : Src) (k : KReg) (s : State) : exec (.vcmpEq d a b k) s = execVcmpEq d a b k s := rfl
theorem exec_vcmpNe (d : KReg) (a : VReg) (b : Src) (k : KReg) (s : State) : exec (.vcmpNe d a b k) s = execVcmpNe d a b k s := rfl
theorem exec_vcmpLt (d : KReg) (a : VReg) (b : Src) (k : KReg) (s : State) : exec (.vcmpLt d a b k) s = execVcmpLt d a b k s := rfl
theorem exec_vcmpGe (d : KReg) (a : VReg) (b : Src) (k : KReg) (s : State) : exec (.vcmpGe d a b k) s = execVcmpGe d a b k s := rfl
theorem exec_vcmpLtn (d : KReg) (a : VReg) (b : Src) (k : KReg) (s : State) : exec (.vcmpLtn d a b k) s = execVcmpLtn d a b k s := rfl
theorem exec_vcmpGen (d : KReg) (a : VReg) (b : Src) (k : KReg) (s : State) : exec (.vcmpGen d a b k) s = execVcmpGen d a b k s := rfl
theorem exec_vmerge (d : VReg) (a : VReg) (b : Src) (k : KReg) (s : State) : exec (.vmerge d a b k) s = execVmerge d a b k s := rfl
theorem exec_vmv (d : VReg) (b : Src) (k : KReg) (s : State) : exec (.vmv d b k) s = execVmv d b k s := rfl
theorem exec_vfadd (d : VReg) (a : VReg) (b : Src) (k : KReg) (s : State) : exec (.vfadd d a b k) s = execVfadd d a b k s := rfl
theorem exec_vfsub (d : VReg) (a : VReg) (b : Src) (k : KReg) (s : State) : exec (.vfsub d a b k) s = execVfsub d a b k s := rfl
theorem exec_vfmul (d : VReg) (a : VReg) (b : Src) (k : KReg) (s : State) : exec (.vfmul d a b k) s = execVfmul d a b k s := rfl
theorem exec_vfdiv (d : VReg) (a : VReg) (b : Src) (k : KReg) (s : State) : exec (.vfdiv d a b k) s = execVfdiv d a b k s := rfl
theorem exec_vfsqrt (d : VReg) (b : Src) (k : KReg) (s : State) : exec (.vfsqrt d b k) s = execVfsqrt d b k s := rfl
theorem exec_vfmin (d : VReg) (a : VReg) (b : Src) (k : KReg) (s : State) : exec (.vfmin d a b k) s = execVfmin d a b k s := rfl
theorem exec_vfmax (d : VReg) (a : VReg) (b : Src) (k : KReg) (s : State) : exec (.vfmax d a b k) s = execVfmax d a b k s := rfl
theorem exec_vfcmpEq (d : KReg) (a : VReg) (b : Src) (k : KReg) (s : State) : exec (.vfcmpEq d a b k) s = execVfcmpEq d a b k s := rfl
theorem exec_vfcmpNe (d : KReg) (a : VReg) (b : Src) (k : KReg) (s : State) : exec (.vfcmpNe d a b k) s = execVfcmpNe d a b k s := rfl
theorem exec_vfcmpLt (d : KReg) (a : VReg) (b : Src) (k : KReg) (s : State) : exec (.vfcmpLt d a b k) s = execVfcmpLt d a b k s := rfl
theorem exec_vfcmpLe (d : KReg) (a : VReg) (b : Src) (k : KReg) (s : State) : exec (.vfcmpLe d a b k) s = execVfcmpLe d a b k s := rfl
theorem exec_vfexp2 (d : VReg) (b : Src) (k : KReg) (s : State) : exec (.vfexp2 d b k) s = execVfexp2 d b k s := rfl
theorem exec_vfrcp (d : VReg) (b : Src) (k : KReg) (s : State) : exec (.vfrcp d b k) s = execVfrcp d b k s := rfl
theorem exec_vfrsq (d : VReg) (b : Src) (k : KReg) (s : State) : exec (.vfrsq d b k) s = execVfrsq d b k s := rfl
theorem exec_vfma (d : VReg) (a : VReg) (b : Src) (k : KReg) (s : State) : exec (.vfma d a b k) s = execVfma d a b k s := rfl
theorem exec_vfnma (d : VReg) (a : VReg) (b : Src) (k : KReg) (s : State) : exec (.vfnma d a b k) s = execVfnma d a b k s := rfl
theorem exec_vfcvt (d : VReg) (src : ElemTy) (b : Src) (k : KReg) (s : State) : exec (.vfcvt d src b k) s = execVfcvt d src b k s := rfl
theorem exec_kand (d : KReg) (a : KReg) (b : KReg) (s : State) : exec (.kand d a b) s = execKand d a b s := rfl
theorem exec_kor (d : KReg) (a : KReg) (b : KReg) (s : State) : exec (.kor d a b) s = execKor d a b s := rfl
theorem exec_kxor (d : KReg) (a : KReg) (b : KReg) (s : State) : exec (.kxor d a b) s = execKxor d a b s := rfl
theorem exec_knot (d : KReg) (b : KReg) (s : State) : exec (.knot d b) s = execKnot d b s := rfl
theorem exec_kpopc (d : GReg) (a : KReg) (b : KReg) (s : State) : exec (.kpopc d a b) s = execKpopc d a b s := rfl
theorem exec_kfirst (d : GReg) (a : KReg) (b : KReg) (s : State) : exec (.kfirst d a b) s = execKfirst d a b s := rfl
theorem exec_kmov (d : KReg) (b : KReg) (s : State) : exec (.kmov d b) s = execKmov d b s := rfl
theorem exec_vredsum (d : GReg) (a : GReg) (b : Src) (k : KReg) (s : State) : exec (.vredsum d a b k) s = execVredsum d a b k s := rfl
theorem exec_vredmax (d : GReg) (a : GReg) (b : Src) (k : KReg) (s : State) : exec (.vredmax d a b k) s = execVredmax d a b k s := rfl
theorem exec_vredmin (d : GReg) (a : GReg) (b : Src) (k : KReg) (s : State) : exec (.vredmin d a b k) s = execVredmin d a b k s := rfl
theorem exec_vfredsum (d : GReg) (a : GReg) (b : Src) (k : KReg) (s : State) : exec (.vfredsum d a b k) s = execVfredsum d a b k s := rfl
theorem exec_vfredo (d : GReg) (a : GReg) (b : Src) (k : KReg) (s : State) : exec (.vfredo d a b k) s = execVfredo d a b k s := rfl
theorem exec_vslideup (d : VReg) (a : VReg) (b : Src) (k : KReg) (s : State) : exec (.vslideup d a b k) s = execVslideup d a b k s := rfl
theorem exec_vslidedn (d : VReg) (a : VReg) (b : Src) (k : KReg) (s : State) : exec (.vslidedn d a b k) s = execVslidedn d a b k s := rfl
theorem exec_vperm (d : VReg) (a : VReg) (b : Src) (k : KReg) (s : State) : exec (.vperm d a b k) s = execVperm d a b k s := rfl
theorem exec_vcompress (d : VReg) (b : Src) (k : KReg) (s : State) : exec (.vcompress d b k) s = execVcompress d b k s := rfl
theorem exec_vexpand (d : VReg) (b : Src) (k : KReg) (s : State) : exec (.vexpand d b k) s = execVexpand d b k s := rfl
theorem exec_viota (d : VReg) (b : KReg) (k : KReg) (s : State) : exec (.viota d b k) s = execViota d b k s := rfl
theorem exec_vbcast (d : VReg) (b : Src) (k : KReg) (s : State) : exec (.vbcast d b k) s = execVbcast d b k s := rfl
theorem exec_vextr (d : GReg) (a : VReg) (b : Src) (s : State) : exec (.vextr d a b) s = execVextr d a b s := rfl
theorem exec_vins (d : VReg) (a : GReg) (b : Src) (k : KReg) (s : State) : exec (.vins d a b k) s = execVins d a b k s := rfl
theorem exec_vld (d : VReg) (a : GReg) (off : BitVec 5) (k : KReg) (s : State) : exec (.vld d a off k) s = execVld d a off k s := rfl
theorem exec_vldSc (d : VReg) (a : GReg) (off : BitVec 5) (k : KReg) (s : State) : exec (.vldSc d a off k) s = execVldSc d a off k s := rfl
theorem exec_vlds (d : VReg) (a : GReg) (b : GReg) (k : KReg) (s : State) : exec (.vlds d a b k) s = execVlds d a b k s := rfl
theorem exec_vldx (d : VReg) (a : GReg) (b : VReg) (k : KReg) (s : State) : exec (.vldx d a b k) s = execVldx d a b k s := rfl
theorem exec_vst (d : VReg) (a : GReg) (off : BitVec 5) (k : KReg) (s : State) : exec (.vst d a off k) s = execVst d a off k s := rfl
theorem exec_vstSc (d : VReg) (a : GReg) (off : BitVec 5) (k : KReg) (s : State) : exec (.vstSc d a off k) s = execVstSc d a off k s := rfl
theorem exec_vsts (d : VReg) (a : GReg) (b : GReg) (k : KReg) (s : State) : exec (.vsts d a b k) s = execVsts d a b k s := rfl
theorem exec_vstx (d : VReg) (a : GReg) (b : VReg) (k : KReg) (s : State) : exec (.vstx d a b k) s = execVstx d a b k s := rfl
theorem exec_vldq (q : BitVec 2) (a : GReg) (off : BitVec 5) (k : KReg) (s : State) : exec (.vldq q a off k) s = execVldq q a off k s := rfl
theorem exec_vldqStrided (q : BitVec 2) (a : GReg) (b : GReg) (k : KReg) (s : State) : exec (.vldqStrided q a b k) s = execVldqStrided q a b k s := rfl
theorem exec_vldqIndexed (q : BitVec 2) (a : GReg) (b : VReg) (k : KReg) (s : State) : exec (.vldqIndexed q a b k) s = execVldqIndexed q a b k s := rfl
theorem exec_vamoadd (d : VReg) (a : GReg) (b : VAddr) (k : KReg) (s : State) : exec (.vamoadd d a b k) s = execVamoadd d a b k s := rfl
theorem exec_vamoand (d : VReg) (a : GReg) (b : VAddr) (k : KReg) (s : State) : exec (.vamoand d a b k) s = execVamoand d a b k s := rfl
theorem exec_vamoor (d : VReg) (a : GReg) (b : VAddr) (k : KReg) (s : State) : exec (.vamoor d a b k) s = execVamoor d a b k s := rfl
theorem exec_vamoxor (d : VReg) (a : GReg) (b : VAddr) (k : KReg) (s : State) : exec (.vamoxor d a b k) s = execVamoxor d a b k s := rfl
theorem exec_vamomin (d : VReg) (a : GReg) (b : VAddr) (k : KReg) (s : State) : exec (.vamomin d a b k) s = execVamomin d a b k s := rfl
theorem exec_vamomax (d : VReg) (a : GReg) (b : VAddr) (k : KReg) (s : State) : exec (.vamomax d a b k) s = execVamomax d a b k s := rfl
theorem exec_vamoswp (d : VReg) (a : GReg) (b : VAddr) (k : KReg) (s : State) : exec (.vamoswp d a b k) s = execVamoswp d a b k s := rfl
theorem exec_vpostadd (a : GReg) (b : VAddr) (k : KReg) (s : State) : exec (.vpostadd a b k) s = execVpostadd a b k s := rfl
theorem exec_vpostand (a : GReg) (b : VAddr) (k : KReg) (s : State) : exec (.vpostand a b k) s = execVpostand a b k s := rfl
theorem exec_vpostor (a : GReg) (b : VAddr) (k : KReg) (s : State) : exec (.vpostor a b k) s = execVpostor a b k s := rfl
theorem exec_vpostxor (a : GReg) (b : VAddr) (k : KReg) (s : State) : exec (.vpostxor a b k) s = execVpostxor a b k s := rfl
theorem exec_vpostmin (a : GReg) (b : VAddr) (k : KReg) (s : State) : exec (.vpostmin a b k) s = execVpostmin a b k s := rfl
theorem exec_vpostmax (a : GReg) (b : VAddr) (k : KReg) (s : State) : exec (.vpostmax a b k) s = execVpostmax a b k s := rfl
theorem exec_vpostswp (a : GReg) (b : VAddr) (k : KReg) (s : State) : exec (.vpostswp a b k) s = execVpostswp a b k s := rfl
theorem exec_vcapp (a : GReg) (k : KReg) (s : State) : exec (.vcapp a k) s = execVcapp a k s := rfl
theorem exec_vldz (d : VReg) (a : GReg) (p : GReg) (k : KReg) (off : BitVec 32) (s : State) : exec (.vldz d a p k off) s = execVldz d a p k off s := rfl
theorem exec_vstz (d : VReg) (a : GReg) (p : GReg) (k : KReg) (off : BitVec 32) (s : State) : exec (.vstz d a p k off) s = execVstz d a p k off s := rfl
theorem exec_vcopy (d : GReg) (a : GReg) (k : KReg) (s : State) : exec (.vcopy d a k) s = execVcopy d a k s := rfl
theorem exec_vfill (d : GReg) (p : GReg) (k : KReg) (s : State) : exec (.vfill d p k) s = execVfill d p k s := rfl
theorem exec_vldsImmediate (d : VReg) (a : GReg) (k : KReg) (stride : BitVec 32) (s : State) : exec (.vldsImmediate d a k stride) s = execVldsImmediate d a k stride s := rfl
theorem exec_vstsImmediate (d : VReg) (a : GReg) (k : KReg) (stride : BitVec 32) (s : State) : exec (.vstsImmediate d a k stride) s = execVstsImmediate d a k stride s := rfl
theorem exec_mcfg (tiles : BitVec 4) (fmt : ElemTy) (sc : Bool) (int32 : Bool) (m : BitVec 7) (n : BitVec 7) (s : State) : exec (.mcfg tiles fmt sc int32 m n) s = execMcfg tiles fmt sc int32 m n s := rfl
theorem exec_mma (c : Acc) (a : VReg) (b : VReg) (s : State) : exec (.mma c a b) s = execMma c a b s := rfl
theorem exec_mzero (c : Acc) (s : State) : exec (.mzero c) s = execMzero c s := rfl
theorem exec_mrel (c : Acc) (s : State) : exec (.mrel c) s = execMrel c s := rfl
theorem exec_mdrain (c : Acc) (a : GReg) (p : GReg) (row : BitVec 6) (rows : BitVec 7) (k : KReg) (s : State) : exec (.mdrain c a p row rows k) s = execMdrain c a p row rows k s := rfl
theorem exec_mdrainx (c : Acc) (a : GReg) (p : VReg) (row : BitVec 6) (rows : BitVec 7) (k : KReg) (s : State) : exec (.mdrainx c a p row rows k) s = execMdrainx c a p row rows k s := rfl
theorem exec_mldacc (c : Acc) (a : GReg) (p : GReg) (row : BitVec 6) (rows : BitVec 7) (s : State) : exec (.mldacc c a p row rows) s = execMldacc c a p row rows s := rfl
theorem exec_rld (d : GReg) (a : GReg) (p : GReg) (sz : Size) (st : Status) (off : BitVec 23) (s : State) : exec (.rld d a p sz st off) s = execRld d a p sz st off s := rfl
theorem exec_rst (c : GReg) (a : GReg) (p : GReg) (sz : Size) (st : Status) (off : BitVec 23) (s : State) : exec (.rst c a p sz st off) s = execRst c a p sz st off s := rfl
theorem exec_ramoadd (d : GReg) (c : GReg) (a : GReg) (p : GReg) (sz : WSize) (st : Status) (off : BitVec 23) (s : State) : exec (.ramoadd d c a p sz st off) s = execRamoadd d c a p sz st off s := rfl
theorem exec_ramoand (d : GReg) (c : GReg) (a : GReg) (p : GReg) (sz : WSize) (st : Status) (off : BitVec 23) (s : State) : exec (.ramoand d c a p sz st off) s = execRamoand d c a p sz st off s := rfl
theorem exec_ramoor (d : GReg) (c : GReg) (a : GReg) (p : GReg) (sz : WSize) (st : Status) (off : BitVec 23) (s : State) : exec (.ramoor d c a p sz st off) s = execRamoor d c a p sz st off s := rfl
theorem exec_ramoxor (d : GReg) (c : GReg) (a : GReg) (p : GReg) (sz : WSize) (st : Status) (off : BitVec 23) (s : State) : exec (.ramoxor d c a p sz st off) s = execRamoxor d c a p sz st off s := rfl
theorem exec_ramomin (d : GReg) (c : GReg) (a : GReg) (p : GReg) (sz : WSize) (st : Status) (off : BitVec 23) (s : State) : exec (.ramomin d c a p sz st off) s = execRamomin d c a p sz st off s := rfl
theorem exec_ramomax (d : GReg) (c : GReg) (a : GReg) (p : GReg) (sz : WSize) (st : Status) (off : BitVec 23) (s : State) : exec (.ramomax d c a p sz st off) s = execRamomax d c a p sz st off s := rfl
theorem exec_ramoswp (d : GReg) (c : GReg) (a : GReg) (p : GReg) (sz : WSize) (st : Status) (off : BitVec 23) (s : State) : exec (.ramoswp d c a p sz st off) s = execRamoswp d c a p sz st off s := rfl
theorem exec_ramocas (d : GReg) (c : GReg) (a : GReg) (p : GReg) (sz : WSize) (st : Status) (off : BitVec 23) (s : State) : exec (.ramocas d c a p sz st off) s = execRamocas d c a p sz st off s := rfl
theorem exec_rfence (s : State) : exec (.rfence) s = execRfence s := rfl
theorem exec_rldx (d : VReg) (a : VReg) (p : VReg) (k : KReg) (st : KStatus) (s : State) : exec (.rldx d a p k st) s = execRldx d a p k st s := rfl
theorem exec_rstx (d : VReg) (a : VReg) (p : VReg) (k : KReg) (st : KStatus) (s : State) : exec (.rstx d a p k st) s = execRstx d a p k st s := rfl
theorem exec_rapp (d : VReg) (a : GReg) (p : VReg) (k : KReg) (st : KStatus) (s : State) : exec (.rapp d a p k st) s = execRapp d a p k st s := rfl
theorem exec_rbatch (s : State) : exec (.rbatch) s = execRbatch s := rfl
theorem exec_rwait (n : BitVec 5) (s : State) : exec (.rwait n) s = execRwait n s := rfl
theorem exec_barrive (a : GReg) (s : State) : exec (.barrive a) s = execBarrive a s := rfl
theorem exec_bwait (d : GReg) (a : GReg) (s : State) : exec (.bwait d a) s = execBwait d a s := rfl
theorem exec_trigger (s : State) : exec (.trigger) s = execTrigger s := rfl
theorem exec_nexts (s : State) : exec (.nexts) s = execNexts s := rfl
theorem exec_launch (d : GReg) (a : GReg) (q : BitVec 10) (s : State) : exec (.launch d a q) s = execLaunch d a q s := rfl
theorem exec_crec (d : GReg) (a : GReg) (s : State) : exec (.crec d a) s = execCrec d a s := rfl
theorem exec_fswap (a : GReg) (s : State) : exec (.fswap a) s = execFswap a s := rfl
theorem exec_fdrain (a : GReg) (s : State) : exec (.fdrain a) s = execFdrain a s := rfl
theorem exec_fstat (d : GReg) (s : State) : exec (.fstat d) s = execFstat d s := rfl
theorem exec_fpush (a : GReg) (b : GReg) (s : State) : exec (.fpush a b) s = execFpush a b s := rfl
theorem exec_fpop (d : GReg) (a : GReg) (s : State) : exec (.fpop d a) s = execFpop d a s := rfl
theorem exec_fload (a : GReg) (off : BitVec 32) (s : State) : exec (.fload a off) s = execFload a off s := rfl
theorem exec_sopen (d : GReg) (a : GReg) (e : Engine) (wr : Bool) (pol : Policy) (s : State) : exec (.sopen d a e wr pol) s = execSopen d a e wr pol s := rfl
theorem exec_sbind (d : GReg) (e : Engine) (t : BindTarget) (s : State) : exec (.sbind d e t) s = execSbind d e t s := rfl
theorem exec_sclose (d : GReg) (e : Engine) (s : State) : exec (.sclose d e) s = execSclose d e s := rfl
theorem exec_sstat (d : GReg) (e : Engine) (s : State) : exec (.sstat d e) s = execSstat d e s := rfl
theorem exec_wdrive (a : GReg) (off : BitVec 32) (s : State) : exec (.wdrive a off) s = execWdrive a off s := rfl
theorem exec_wbMma (hdr : BitVec 512) (s : State) : exec (.wbMma hdr) s = execWbMma hdr s := rfl
theorem exec_wbAdd (hdr : BitVec 512) (s : State) : exec (.wbAdd hdr) s = execWbAdd hdr s := rfl
theorem exec_wbScale (hdr : BitVec 512) (s : State) : exec (.wbScale hdr) s = execWbScale hdr s := rfl
theorem exec_wbAct (hdr : BitVec 512) (s : State) : exec (.wbAct hdr) s = execWbAct hdr s := rfl
theorem exec_wbDrain (hdr : BitVec 512) (s : State) : exec (.wbDrain hdr) s = execWbDrain hdr s := rfl
theorem exec_wbBranch (hdr : BitVec 512) (s : State) : exec (.wbBranch hdr) s = execWbBranch hdr s := rfl
theorem exec_wbCall (hdr : BitVec 512) (s : State) : exec (.wbCall hdr) s = execWbCall hdr s := rfl
theorem exec_wbRet (hdr : BitVec 512) (s : State) : exec (.wbRet hdr) s = execWbRet hdr s := rfl
theorem exec_wbSync (hdr : BitVec 512) (s : State) : exec (.wbSync hdr) s = execWbSync hdr s := rfl
theorem exec_wbNop (hdr : BitVec 512) (s : State) : exec (.wbNop hdr) s = execWbNop hdr s := rfl
theorem exec_wbExit (hdr : BitVec 512) (s : State) : exec (.wbExit hdr) s = execWbExit hdr s := rfl
theorem exec_weightBlockPost (s : State) : exec (.weightBlockPost) s = execWeightBlockPost s := rfl
theorem exec_interruptEntry (s : State) : exec (.interruptEntry) s = execInterruptEntry s := rfl
theorem exec_userLevelInterrupt (s : State) : exec (.userLevelInterrupt) s = execUserLevelInterrupt s := rfl
theorem exec_scountZero (s : State) : exec (.scountZero) s = execScountZero s := rfl
theorem exec_safePointDistanceFault (s : State) : exec (.safePointDistanceFault) s = execSafePointDistanceFault s := rfl
theorem exec_wfeTimeLimit (s : State) : exec (.wfeTimeLimit) s = execWfeTimeLimit s := rfl
theorem exec_ctxidWrite (s : State) : exec (.ctxidWrite) s = execCtxidWrite s := rfl
theorem exec_vlWrite (s : State) : exec (.vlWrite) s = execVlWrite s := rfl
theorem exec_vtypeWrite (s : State) : exec (.vtypeWrite) s = execVtypeWrite s := rfl
theorem exec_vlpWrite (s : State) : exec (.vlpWrite) s = execVlpWrite s := rfl
theorem exec_fflagsWrite (s : State) : exec (.fflagsWrite) s = execFflagsWrite s := rfl
theorem exec_vesWrite (s : State) : exec (.vesWrite) s = execVesWrite s := rfl
theorem exec_validityFieldWrite (s : State) : exec (.validityFieldWrite) s = execValidityFieldWrite s := rfl
theorem exec_registerWrite (s : State) : exec (.registerWrite) s = execRegisterWrite s := rfl
theorem exec_pinfo (s : State) : exec (.pinfo) s = execPinfo s := rfl
theorem exec_logread (s : State) : exec (.logread) s = execLogread s := rfl
theorem exec_peerreg (s : State) : exec (.peerreg) s = execPeerreg s := rfl
theorem exec_fabesc (s : State) : exec (.fabesc) s = execFabesc s := rfl
theorem exec_attest (s : State) : exec (.attest) s = execAttest s := rfl
theorem exec_qpopen (s : State) : exec (.qpopen) s = execQpopen s := rfl
theorem exec_qpclose (s : State) : exec (.qpclose) s = execQpclose s := rfl
theorem exec_workQueueDoorbell (s : State) : exec (.workQueueDoorbell) s = execWorkQueueDoorbell s := rfl
theorem exec_packetTake (s : State) : exec (.packetTake) s = execPacketTake s := rfl
theorem exec_hartPlacement (s : State) : exec (.hartPlacement) s = execHartPlacement s := rfl
theorem exec_farmCompletion (s : State) : exec (.farmCompletion) s = execFarmCompletion s := rfl
theorem exec_killNotice (s : State) : exec (.killNotice) s = execKillNotice s := rfl
theorem exec_killAcknowledgement (s : State) : exec (.killAcknowledgement) s = execKillAcknowledgement s := rfl
theorem exec_killAcknowledgementTimeout (s : State) : exec (.killAcknowledgementTimeout) s = execKillAcknowledgementTimeout s := rfl
theorem exec_fillRequest (s : State) : exec (.fillRequest) s = execFillRequest s := rfl
theorem exec_writeRequest (s : State) : exec (.writeRequest) s = execWriteRequest s := rfl
theorem exec_evictionNotice (s : State) : exec (.evictionNotice) s = execEvictionNotice s := rfl
theorem exec_invalidation (s : State) : exec (.invalidation) s = execInvalidation s := rfl
theorem exec_invalidationAcknowledgement (s : State) : exec (.invalidationAcknowledgement) s = execInvalidationAcknowledgement s := rfl
theorem exec_fillResponse (s : State) : exec (.fillResponse) s = execFillResponse s := rfl
theorem exec_writeAcknowledgement (s : State) : exec (.writeAcknowledgement) s = execWriteAcknowledgement s := rfl
theorem exec_holdAcknowledgement (s : State) : exec (.holdAcknowledgement) s = execHoldAcknowledgement s := rfl
theorem exec_requestRefusal (s : State) : exec (.requestRefusal) s = execRequestRefusal s := rfl
theorem exec_retryBackoffExpiry (s : State) : exec (.retryBackoffExpiry) s = execRetryBackoffExpiry s := rfl
theorem exec_hostRequest (s : State) : exec (.hostRequest) s = execHostRequest s := rfl
theorem exec_backInvalidateResponse (s : State) : exec (.backInvalidateResponse) s = execBackInvalidateResponse s := rfl
theorem exec_hostSnoop (s : State) : exec (.hostSnoop) s = execHostSnoop s := rfl
theorem exec_writeCombineFlush (s : State) : exec (.writeCombineFlush) s = execWriteCombineFlush s := rfl
theorem exec_reservationRegistration (s : State) : exec (.reservationRegistration) s = execReservationRegistration s := rfl
theorem exec_cutNotice (s : State) : exec (.cutNotice) s = execCutNotice s := rfl
theorem exec_reservationFree (s : State) : exec (.reservationFree) s = execReservationFree s := rfl
theorem exec_subBatchArrival (s : State) : exec (.subBatchArrival) s = execSubBatchArrival s := rfl
theorem exec_remoteReply (s : State) : exec (.remoteReply) s = execRemoteReply s := rfl
theorem exec_batchCompletion (s : State) : exec (.batchCompletion) s = execBatchCompletion s := rfl
theorem exec_barrierArrival (s : State) : exec (.barrierArrival) s = execBarrierArrival s := rfl
theorem exec_streamReadElement (s : State) : exec (.streamReadElement) s = execStreamReadElement s := rfl
theorem exec_streamWriteElement (s : State) : exec (.streamWriteElement) s = execStreamWriteElement s := rfl
theorem exec_peFire (s : State) : exec (.peFire) s = execPeFire s := rfl
theorem exec_tokenTransfer (s : State) : exec (.tokenTransfer) s = execTokenTransfer s := rfl
theorem exec_fabricFaultDelivery (s : State) : exec (.fabricFaultDelivery) s = execFabricFaultDelivery s := rfl
theorem exec_peQuiescence (s : State) : exec (.peQuiescence) s = execPeQuiescence s := rfl
theorem exec_regionDrained (s : State) : exec (.regionDrained) s = execRegionDrained s := rfl
theorem exec_stagingComplete (s : State) : exec (.stagingComplete) s = execStagingComplete s := rfl
theorem exec_swapComplete (s : State) : exec (.swapComplete) s = execSwapComplete s := rfl
theorem exec_clusterRetirement (s : State) : exec (.clusterRetirement) s = execClusterRetirement s := rfl
theorem exec_guardBandRaise (s : State) : exec (.guardBandRaise) s = execGuardBandRaise s := rfl
theorem exec_tileDeconfiguration (s : State) : exec (.tileDeconfiguration) s = execTileDeconfiguration s := rfl
theorem exec_thermalStop (s : State) : exec (.thermalStop) s = execThermalStop s := rfl
theorem exec_healthMonitorSample (s : State) : exec (.healthMonitorSample) s = execHealthMonitorSample s := rfl
theorem exec_healthMonitorClear (s : State) : exec (.healthMonitorClear) s = execHealthMonitorClear s := rfl
theorem exec_powerOn (s : State) : exec (.powerOn) s = execPowerOn s := rfl
theorem exec_sendQueueDoorbell (s : State) : exec (.sendQueueDoorbell) s = execSendQueueDoorbell s := rfl
theorem exec_receiveQueueDoorbell (s : State) : exec (.receiveQueueDoorbell) s = execReceiveQueueDoorbell s := rfl
theorem exec_completionQueueDoorbell (s : State) : exec (.completionQueueDoorbell) s = execCompletionQueueDoorbell s := rfl
theorem exec_send (s : State) : exec (.send) s = execSend s := rfl
theorem exec_sendWithImmediate (s : State) : exec (.sendWithImmediate) s = execSendWithImmediate s := rfl
theorem exec_rdmaWrite (s : State) : exec (.rdmaWrite) s = execRdmaWrite s := rfl
theorem exec_rdmaWriteWithImmediate (s : State) : exec (.rdmaWriteWithImmediate) s = execRdmaWriteWithImmediate s := rfl
theorem exec_rdmaRead (s : State) : exec (.rdmaRead) s = execRdmaRead s := rfl
theorem exec_incomingSend (s : State) : exec (.incomingSend) s = execIncomingSend s := rfl
theorem exec_incomingRdmaWrite (s : State) : exec (.incomingRdmaWrite) s = execIncomingRdmaWrite s := rfl
theorem exec_incomingRdmaRead (s : State) : exec (.incomingRdmaRead) s = execIncomingRdmaRead s := rfl
theorem exec_ack (s : State) : exec (.ack) s = execAck s := rfl
theorem exec_sequenceErrorNak (s : State) : exec (.sequenceErrorNak) s = execSequenceErrorNak s := rfl
theorem exec_receiverNotReadyNak (s : State) : exec (.receiverNotReadyNak) s = execReceiverNotReadyNak s := rfl
theorem exec_remoteAccessNak (s : State) : exec (.remoteAccessNak) s = execRemoteAccessNak s := rfl
theorem exec_ackTimeout (s : State) : exec (.ackTimeout) s = execAckTimeout s := rfl
theorem exec_rnrWaitExpiry (s : State) : exec (.rnrWaitExpiry) s = execRnrWaitExpiry s := rfl
theorem exec_congestionNotificationPacket (s : State) : exec (.congestionNotificationPacket) s = execCongestionNotificationPacket s := rfl
theorem exec_ceMarkedPacket (s : State) : exec (.ceMarkedPacket) s = execCeMarkedPacket s := rfl
theorem exec_rateRecovery (s : State) : exec (.rateRecovery) s = execRateRecovery s := rfl
theorem exec_priorityFlowControl (s : State) : exec (.priorityFlowControl) s = execPriorityFlowControl s := rfl
theorem exec_vectorInstructionRetirement (s : State) : exec (.vectorInstructionRetirement) s = execVectorInstructionRetirement s := rfl
theorem exec_peerUnreachable (s : State) : exec (.peerUnreachable) s = execPeerUnreachable s := rfl
theorem exec_powerLoss (s : State) : exec (.powerLoss) s = execPowerLoss s := rfl
theorem exec_rdmaReadResponse (s : State) : exec (.rdmaReadResponse) s = execRdmaReadResponse s := rfl
theorem exec_remoteOperationNak (s : State) : exec (.remoteOperationNak) s = execRemoteOperationNak s := rfl
theorem exec_hostLinkTraining (s : State) : exec (.hostLinkTraining) s = execHostLinkTraining s := rfl
theorem exec_cxlCacheResponse (s : State) : exec (.cxlCacheResponse) s = execCxlCacheResponse s := rfl

end Sys2Proof.Machine
end

