-- ==== Sys2Proof/Laws/State.lean ====
section
/-! SUPPORT. One lemma per field per update of the state, and the laws of the maps by number, of tiles, of harts and of registers. -/

namespace Sys2Proof.Machine

theorem alGet_alSet {α : Type} (l : List (Nat × α)) (a b : Nat) (x : α) :
    alGet (alSet l a x) b = if b = a then some x else alGet l b := by
  induction l with
  | nil =>
    by_cases h : b = a
    · simp [alSet, alGet, h]
    · simp [alSet, alGet, h, Ne.symm h]
  | cons e t ih =>
    obtain ⟨k, y⟩ := e
    by_cases h1 : k < a
    · simp only [alSet, h1, if_true, alGet]
      by_cases h2 : k = b
      · subst h2
        have : ¬ k = a := by omega
        simp [this]
      · simp only [h2, if_false]
        by_cases h3 : b < k
        · have : ¬ b = a := by omega
          simp [h3, this]
        · simp [h3, ih]
    · by_cases h2 : k = a
      · subst h2
        by_cases h3 : k = b
        · simp [alSet, alGet, h3]
        · simp [alSet, alGet, h3, Ne.symm h3]
      · have h4 : a < k := by omega
        simp only [alSet, h1, h2, if_false, alGet]
        by_cases h3 : a = b
        · simp [h3]
        · have h5 : ¬ b = a := fun h => h3 h.symm
          simp only [h3, h5, if_false]
          by_cases h6 : b < a
          · have h7 : ¬ k = b := by omega
            have h8 : b < k := by omega
            simp [h6, h7, h8]
          · simp [h6]

@[simp] theorem alGet_alSet_same {α : Type} (l : List (Nat × α)) (a : Nat) (x : α) : alGet (alSet l a x) a = some x := by
  simp [alGet_alSet]

@[simp] theorem tileAt_setTile_same (s : State) (t : Nat) (x : Tile) : tileAt (setTile s t x) t = x := by
  simp [tileAt, setTile]

theorem tileAt_setTile_ne (s : State) (t u : Nat) (x : Tile) (h : u ≠ t) : tileAt (setTile s t x) u = tileAt s u := by
  simp [tileAt, setTile, alGet_alSet, h]

@[simp] theorem Tile.hart_setHart_same (x : Tile) (b : Bool) (h : Hart) : (x.setHart b h).hart b = h := by
  cases b <;> rfl

@[simp] theorem Tile.hart_setHart_not (x : Tile) (b : Bool) (h : Hart) : (x.setHart b h).hart (!b) = x.hart (!b) := by
  cases b <;> rfl

@[simp] theorem getHart_putHart_same (s : State) (i : HartId) (h : Hart) : getHart (putHart s i h) i = h := by
  simp [getHart, putHart, modTile]

theorem getHart_putHart_ne (s : State) (i j : HartId) (h : Hart) (hne : j ≠ i) : getHart (putHart s i h) j = getHart s j := by
  obtain ⟨ti, bi⟩ := i
  obtain ⟨tj, bj⟩ := j
  by_cases ht : tj = ti
  · subst ht
    have hb : bj = !bi := by cases bi <;> cases bj <;> simp_all
    subst hb
    simp [getHart, putHart, modTile]
  · simp [getHart, putHart, modTile, tileAt_setTile_ne _ _ _ _ ht]

@[simp] theorem State.hart_putHart_cur (s : State) (h : Hart) : (putHart s s.cur h).hart = h := getHart_putHart_same s s.cur h

@[simp] theorem State.hart_setHart (s : State) (h : Hart) : (s.setHart h).hart = h := getHart_putHart_same s s.cur h

@[simp] theorem State.hart_modHart (s : State) (f : Hart → Hart) : (s.modHart f).hart = f s.hart :=
  getHart_putHart_same s s.cur _

theorem State.getHart_setHart_ne (s : State) (h : Hart) (i : HartId) (hne : i ≠ s.cur) : getHart (s.setHart h) i = getHart s i :=
  getHart_putHart_ne s s.cur i h hne

theorem State.modHart_eq (s : State) (f : Hart → Hart) : s.modHart f = s.setHart (f s.hart) := rfl

theorem alSet_alSet {α : Type} (l : List (Nat × α)) (a : Nat) (x y : α) : alSet (alSet l a x) a y = alSet l a y := by
  induction l with
  | nil => simp [alSet]
  | cons e t ih =>
    obtain ⟨k, z⟩ := e
    by_cases h1 : k < a
    · simp [alSet, h1, ih]
    · by_cases h2 : k = a
      · simp [alSet, h2]
      · simp [alSet, h1, h2]

@[simp] theorem setTile_setTile (s : State) (t : Nat) (x y : Tile) : setTile (setTile s t x) t y = setTile s t y := by
  simp [setTile, alSet_alSet]

@[simp] theorem Tile.setHart_setHart (x : Tile) (b : Bool) (h k : Hart) : (x.setHart b h).setHart b k = x.setHart b k := by
  cases b <;> rfl

@[simp] theorem putHart_putHart (s : State) (i : HartId) (h k : Hart) : putHart (putHart s i h) i k = putHart s i k := by
  simp [putHart, modTile]

@[simp] theorem State.setHart_setHart (s : State) (h k : Hart) : (s.setHart h).setHart k = s.setHart k := by
  show putHart (putHart s s.cur h) s.cur k = _
  simp [State.setHart]

@[simp] theorem Hart.rg_zero (h : Hart) : h.rg 0 = 0 := rfl

theorem Hart.shadowed_wg (h : Hart) (d r : GReg) (x : Word) : (h.wg d x).shadowed r = h.shadowed r := by
  unfold Hart.wg
  split
  · rfl
  · split <;> rfl

/-- What a write of a general register does to a read of one (02 R35, R51). -/
theorem Hart.rg_wg (h : Hart) (d r : GReg) (x : Word) :
    (h.wg d x).rg r = if r = 0 then 0 else if r = d then x else h.rg r := by
  by_cases hr : r = 0
  · subst hr; rfl
  have hs := Hart.shadowed_wg h d r x
  by_cases hd : d = 0
  · subst hd; simp only [hr, if_false]; rfl
  have hr32 := r.isLt
  have hd32 := d.isLt
  by_cases hrd : r = d
  · subst hrd
    simp only [Hart.rg, hr, if_false, if_true, hs]
    by_cases hsr : h.shadowed r = true
    · have h24 : 24 ≤ r.toNat := by simp [Hart.shadowed] at hsr; exact hsr.2
      have h8 : r.toNat - 24 < 8 := by omega
      simp only [Hart.wg, hr, hsr, if_true, if_false]
      simp [List.getD, h8]
    · simp only [hsr, Hart.wg, hr, if_false]
      exact Vector.getElem_set_self _
  · have hne : d.toNat ≠ r.toNat := fun he => hrd (BitVec.eq_of_toNat_eq he.symm)
    simp only [Hart.rg, hr, if_false, hrd, hs]
    by_cases hsr : h.shadowed r = true
    · have h24r : 24 ≤ r.toNat := by simp [Hart.shadowed] at hsr; exact hsr.2
      simp only [hsr, if_true, Hart.wg, hd, if_false]
      by_cases hsd : h.shadowed d = true
      · have h24d : 24 ≤ d.toNat := by simp [Hart.shadowed] at hsd; exact hsd.2
        have hne' : d.toNat - 24 ≠ r.toNat - 24 := by omega
        simp [hsd, List.getD, hne']
      · simp [hsd]
    · simp only [hsr, Hart.wg, hd, if_false]
      by_cases hsd : h.shadowed d = true
      · simp [hsd]
      · simp only [hsd]
        exact Vector.getElem_set_ne d.isLt r.isLt hne

@[simp] theorem setTile_power (s : State) (t : Nat) (x : Tile) : (setTile s t x).power = s.power := rfl
@[simp] theorem putHart_power (s : State) (i : HartId) (h : Hart) : (putHart s i h).power = s.power := rfl
@[simp] theorem State.setHart_power (s : State) (h : Hart) : (s.setHart h).power = s.power := rfl
@[simp] theorem State.modHart_power (s : State) (f : Hart → Hart) : (s.modHart f).power = s.power := rfl
@[simp] theorem setTile_ready (s : State) (t : Nat) (x : Tile) : (setTile s t x).ready = s.ready := rfl
@[simp] theorem putHart_ready (s : State) (i : HartId) (h : Hart) : (putHart s i h).ready = s.ready := rfl
@[simp] theorem State.setHart_ready (s : State) (h : Hart) : (s.setHart h).ready = s.ready := rfl
@[simp] theorem State.modHart_ready (s : State) (f : Hart → Hart) : (s.modHart f).ready = s.ready := rfl
@[simp] theorem setTile_stage (s : State) (t : Nat) (x : Tile) : (setTile s t x).stage = s.stage := rfl
@[simp] theorem putHart_stage (s : State) (i : HartId) (h : Hart) : (putHart s i h).stage = s.stage := rfl
@[simp] theorem State.setHart_stage (s : State) (h : Hart) : (s.setHart h).stage = s.stage := rfl
@[simp] theorem State.modHart_stage (s : State) (f : Hart → Hart) : (s.modHart f).stage = s.stage := rfl
@[simp] theorem setTile_errCode (s : State) (t : Nat) (x : Tile) : (setTile s t x).errCode = s.errCode := rfl
@[simp] theorem putHart_errCode (s : State) (i : HartId) (h : Hart) : (putHart s i h).errCode = s.errCode := rfl
@[simp] theorem State.setHart_errCode (s : State) (h : Hart) : (s.setHart h).errCode = s.errCode := rfl
@[simp] theorem State.modHart_errCode (s : State) (f : Hart → Hart) : (s.modHart f).errCode = s.errCode := rfl
@[simp] theorem setTile_fwver (s : State) (t : Nat) (x : Tile) : (setTile s t x).fwver = s.fwver := rfl
@[simp] theorem putHart_fwver (s : State) (i : HartId) (h : Hart) : (putHart s i h).fwver = s.fwver := rfl
@[simp] theorem State.setHart_fwver (s : State) (h : Hart) : (s.setHart h).fwver = s.fwver := rfl
@[simp] theorem State.modHart_fwver (s : State) (f : Hart → Hart) : (s.modHart f).fwver = s.fwver := rfl
@[simp] theorem setTile_serial (s : State) (t : Nat) (x : Tile) : (setTile s t x).serial = s.serial := rfl
@[simp] theorem putHart_serial (s : State) (i : HartId) (h : Hart) : (putHart s i h).serial = s.serial := rfl
@[simp] theorem State.setHart_serial (s : State) (h : Hart) : (s.setHart h).serial = s.serial := rfl
@[simp] theorem State.modHart_serial (s : State) (f : Hart → Hart) : (s.modHart f).serial = s.serial := rfl
@[simp] theorem setTile_link (s : State) (t : Nat) (x : Tile) : (setTile s t x).link = s.link := rfl
@[simp] theorem putHart_link (s : State) (i : HartId) (h : Hart) : (putHart s i h).link = s.link := rfl
@[simp] theorem State.setHart_link (s : State) (h : Hart) : (s.setHart h).link = s.link := rfl
@[simp] theorem State.modHart_link (s : State) (f : Hart → Hart) : (s.modHart f).link = s.link := rfl
@[simp] theorem setTile_flash (s : State) (t : Nat) (x : Tile) : (setTile s t x).flash = s.flash := rfl
@[simp] theorem putHart_flash (s : State) (i : HartId) (h : Hart) : (putHart s i h).flash = s.flash := rfl
@[simp] theorem State.setHart_flash (s : State) (h : Hart) : (s.setHart h).flash = s.flash := rfl
@[simp] theorem State.modHart_flash (s : State) (f : Hart → Hart) : (s.modHart f).flash = s.flash := rfl
@[simp] theorem setTile_applied (s : State) (t : Nat) (x : Tile) : (setTile s t x).applied = s.applied := rfl
@[simp] theorem putHart_applied (s : State) (i : HartId) (h : Hart) : (putHart s i h).applied = s.applied := rfl
@[simp] theorem State.setHart_applied (s : State) (h : Hart) : (s.setHart h).applied = s.applied := rfl
@[simp] theorem State.modHart_applied (s : State) (f : Hart → Hart) : (s.modHart f).applied = s.applied := rfl
@[simp] theorem setTile_cur (s : State) (t : Nat) (x : Tile) : (setTile s t x).cur = s.cur := rfl
@[simp] theorem putHart_cur (s : State) (i : HartId) (h : Hart) : (putHart s i h).cur = s.cur := rfl
@[simp] theorem State.setHart_cur (s : State) (h : Hart) : (s.setHart h).cur = s.cur := rfl
@[simp] theorem State.modHart_cur (s : State) (f : Hart → Hart) : (s.modHart f).cur = s.cur := rfl
@[simp] theorem setTile_self (s : State) (t : Nat) (x : Tile) : (setTile s t x).self = s.self := rfl
@[simp] theorem putHart_self (s : State) (i : HartId) (h : Hart) : (putHart s i h).self = s.self := rfl
@[simp] theorem State.setHart_self (s : State) (h : Hart) : (s.setHart h).self = s.self := rfl
@[simp] theorem State.modHart_self (s : State) (f : Hart → Hart) : (s.modHart f).self = s.self := rfl
@[simp] theorem setTile_mem (s : State) (t : Nat) (x : Tile) : (setTile s t x).mem = s.mem := rfl
@[simp] theorem putHart_mem (s : State) (i : HartId) (h : Hart) : (putHart s i h).mem = s.mem := rfl
@[simp] theorem State.setHart_mem (s : State) (h : Hart) : (s.setHart h).mem = s.mem := rfl
@[simp] theorem State.modHart_mem (s : State) (f : Hart → Hart) : (s.modHart f).mem = s.mem := rfl
@[simp] theorem setTile_bad (s : State) (t : Nat) (x : Tile) : (setTile s t x).bad = s.bad := rfl
@[simp] theorem putHart_bad (s : State) (i : HartId) (h : Hart) : (putHart s i h).bad = s.bad := rfl
@[simp] theorem State.setHart_bad (s : State) (h : Hart) : (s.setHart h).bad = s.bad := rfl
@[simp] theorem State.modHart_bad (s : State) (f : Hart → Hart) : (s.modHart f).bad = s.bad := rfl
@[simp] theorem setTile_dir (s : State) (t : Nat) (x : Tile) : (setTile s t x).dir = s.dir := rfl
@[simp] theorem putHart_dir (s : State) (i : HartId) (h : Hart) : (putHart s i h).dir = s.dir := rfl
@[simp] theorem State.setHart_dir (s : State) (h : Hart) : (s.setHart h).dir = s.dir := rfl
@[simp] theorem State.modHart_dir (s : State) (f : Hart → Hart) : (s.modHart f).dir = s.dir := rfl
@[simp] theorem setTile_bridge (s : State) (t : Nat) (x : Tile) : (setTile s t x).bridge = s.bridge := rfl
@[simp] theorem putHart_bridge (s : State) (i : HartId) (h : Hart) : (putHart s i h).bridge = s.bridge := rfl
@[simp] theorem State.setHart_bridge (s : State) (h : Hart) : (s.setHart h).bridge = s.bridge := rfl
@[simp] theorem State.modHart_bridge (s : State) (f : Hart → Hart) : (s.modHart f).bridge = s.bridge := rfl
@[simp] theorem setTile_backoffs (s : State) (t : Nat) (x : Tile) : (setTile s t x).backoffs = s.backoffs := rfl
@[simp] theorem putHart_backoffs (s : State) (i : HartId) (h : Hart) : (putHart s i h).backoffs = s.backoffs := rfl
@[simp] theorem State.setHart_backoffs (s : State) (h : Hart) : (s.setHart h).backoffs = s.backoffs := rfl
@[simp] theorem State.modHart_backoffs (s : State) (f : Hart → Hart) : (s.modHart f).backoffs = s.backoffs := rfl
@[simp] theorem setTile_refused (s : State) (t : Nat) (x : Tile) : (setTile s t x).refused = s.refused := rfl
@[simp] theorem putHart_refused (s : State) (i : HartId) (h : Hart) : (putHart s i h).refused = s.refused := rfl
@[simp] theorem State.setHart_refused (s : State) (h : Hart) : (s.setHart h).refused = s.refused := rfl
@[simp] theorem State.modHart_refused (s : State) (f : Hart → Hart) : (s.modHart f).refused = s.refused := rfl
@[simp] theorem setTile_resvs (s : State) (t : Nat) (x : Tile) : (setTile s t x).resvs = s.resvs := rfl
@[simp] theorem putHart_resvs (s : State) (i : HartId) (h : Hart) : (putHart s i h).resvs = s.resvs := rfl
@[simp] theorem State.setHart_resvs (s : State) (h : Hart) : (s.setHart h).resvs = s.resvs := rfl
@[simp] theorem State.modHart_resvs (s : State) (f : Hart → Hart) : (s.modHart f).resvs = s.resvs := rfl
@[simp] theorem setTile_held (s : State) (t : Nat) (x : Tile) : (setTile s t x).held = s.held := rfl
@[simp] theorem putHart_held (s : State) (i : HartId) (h : Hart) : (putHart s i h).held = s.held := rfl
@[simp] theorem State.setHart_held (s : State) (h : Hart) : (s.setHart h).held = s.held := rfl
@[simp] theorem State.modHart_held (s : State) (f : Hart → Hart) : (s.modHart f).held = s.held := rfl
@[simp] theorem setTile_heldBatches (s : State) (t : Nat) (x : Tile) : (setTile s t x).heldBatches = s.heldBatches := rfl
@[simp] theorem putHart_heldBatches (s : State) (i : HartId) (h : Hart) : (putHart s i h).heldBatches = s.heldBatches := rfl
@[simp] theorem State.setHart_heldBatches (s : State) (h : Hart) : (s.setHart h).heldBatches = s.heldBatches := rfl
@[simp] theorem State.modHart_heldBatches (s : State) (f : Hart → Hart) : (s.modHart f).heldBatches = s.heldBatches := rfl
@[simp] theorem setTile_ticket (s : State) (t : Nat) (x : Tile) : (setTile s t x).ticket = s.ticket := rfl
@[simp] theorem putHart_ticket (s : State) (i : HartId) (h : Hart) : (putHart s i h).ticket = s.ticket := rfl
@[simp] theorem State.setHart_ticket (s : State) (h : Hart) : (s.setHart h).ticket = s.ticket := rfl
@[simp] theorem State.modHart_ticket (s : State) (f : Hart → Hart) : (s.modHart f).ticket = s.ticket := rfl
@[simp] theorem setTile_tlb (s : State) (t : Nat) (x : Tile) : (setTile s t x).tlb = s.tlb := rfl
@[simp] theorem putHart_tlb (s : State) (i : HartId) (h : Hart) : (putHart s i h).tlb = s.tlb := rfl
@[simp] theorem State.setHart_tlb (s : State) (h : Hart) : (s.setHart h).tlb = s.tlb := rfl
@[simp] theorem State.modHart_tlb (s : State) (f : Hart → Hart) : (s.modHart f).tlb = s.tlb := rfl
@[simp] theorem setTile_farms (s : State) (t : Nat) (x : Tile) : (setTile s t x).farms = s.farms := rfl
@[simp] theorem putHart_farms (s : State) (i : HartId) (h : Hart) : (putHart s i h).farms = s.farms := rfl
@[simp] theorem State.setHart_farms (s : State) (h : Hart) : (s.setHart h).farms = s.farms := rfl
@[simp] theorem State.modHart_farms (s : State) (f : Hart → Hart) : (s.modHart f).farms = s.farms := rfl
@[simp] theorem setTile_nextFarm (s : State) (t : Nat) (x : Tile) : (setTile s t x).nextFarm = s.nextFarm := rfl
@[simp] theorem putHart_nextFarm (s : State) (i : HartId) (h : Hart) : (putHart s i h).nextFarm = s.nextFarm := rfl
@[simp] theorem State.setHart_nextFarm (s : State) (h : Hart) : (s.setHart h).nextFarm = s.nextFarm := rfl
@[simp] theorem State.modHart_nextFarm (s : State) (f : Hart → Hart) : (s.modHart f).nextFarm = s.nextFarm := rfl
@[simp] theorem setTile_ended (s : State) (t : Nat) (x : Tile) : (setTile s t x).ended = s.ended := rfl
@[simp] theorem putHart_ended (s : State) (i : HartId) (h : Hart) : (putHart s i h).ended = s.ended := rfl
@[simp] theorem State.setHart_ended (s : State) (h : Hart) : (s.setHart h).ended = s.ended := rfl
@[simp] theorem State.modHart_ended (s : State) (f : Hart → Hart) : (s.modHart f).ended = s.ended := rfl
@[simp] theorem setTile_queues (s : State) (t : Nat) (x : Tile) : (setTile s t x).queues = s.queues := rfl
@[simp] theorem putHart_queues (s : State) (i : HartId) (h : Hart) : (putHart s i h).queues = s.queues := rfl
@[simp] theorem State.setHart_queues (s : State) (h : Hart) : (s.setHart h).queues = s.queues := rfl
@[simp] theorem State.modHart_queues (s : State) (f : Hart → Hart) : (s.modHart f).queues = s.queues := rfl
@[simp] theorem setTile_rounds (s : State) (t : Nat) (x : Tile) : (setTile s t x).rounds = s.rounds := rfl
@[simp] theorem putHart_rounds (s : State) (i : HartId) (h : Hart) : (putHart s i h).rounds = s.rounds := rfl
@[simp] theorem State.setHart_rounds (s : State) (h : Hart) : (s.setHart h).rounds = s.rounds := rfl
@[simp] theorem State.modHart_rounds (s : State) (f : Hart → Hart) : (s.modHart f).rounds = s.rounds := rfl
@[simp] theorem setTile_parts (s : State) (t : Nat) (x : Tile) : (setTile s t x).parts = s.parts := rfl
@[simp] theorem putHart_parts (s : State) (i : HartId) (h : Hart) : (putHart s i h).parts = s.parts := rfl
@[simp] theorem State.setHart_parts (s : State) (h : Hart) : (s.setHart h).parts = s.parts := rfl
@[simp] theorem State.modHart_parts (s : State) (f : Hart → Hart) : (s.modHart f).parts = s.parts := rfl
@[simp] theorem setTile_peerTables (s : State) (t : Nat) (x : Tile) : (setTile s t x).peerTables = s.peerTables := rfl
@[simp] theorem putHart_peerTables (s : State) (i : HartId) (h : Hart) : (putHart s i h).peerTables = s.peerTables := rfl
@[simp] theorem State.setHart_peerTables (s : State) (h : Hart) : (s.setHart h).peerTables = s.peerTables := rfl
@[simp] theorem State.modHart_peerTables (s : State) (f : Hart → Hart) : (s.modHart f).peerTables = s.peerTables := rfl
@[simp] theorem setTile_deadCtxs (s : State) (t : Nat) (x : Tile) : (setTile s t x).deadCtxs = s.deadCtxs := rfl
@[simp] theorem putHart_deadCtxs (s : State) (i : HartId) (h : Hart) : (putHart s i h).deadCtxs = s.deadCtxs := rfl
@[simp] theorem State.setHart_deadCtxs (s : State) (h : Hart) : (s.setHart h).deadCtxs = s.deadCtxs := rfl
@[simp] theorem State.modHart_deadCtxs (s : State) (f : Hart → Hart) : (s.modHart f).deadCtxs = s.deadCtxs := rfl
@[simp] theorem setTile_deadPairs (s : State) (t : Nat) (x : Tile) : (setTile s t x).deadPairs = s.deadPairs := rfl
@[simp] theorem putHart_deadPairs (s : State) (i : HartId) (h : Hart) : (putHart s i h).deadPairs = s.deadPairs := rfl
@[simp] theorem State.setHart_deadPairs (s : State) (h : Hart) : (s.setHart h).deadPairs = s.deadPairs := rfl
@[simp] theorem State.modHart_deadPairs (s : State) (f : Hart → Hart) : (s.modHart f).deadPairs = s.deadPairs := rfl
@[simp] theorem setTile_kills (s : State) (t : Nat) (x : Tile) : (setTile s t x).kills = s.kills := rfl
@[simp] theorem putHart_kills (s : State) (i : HartId) (h : Hart) : (putHart s i h).kills = s.kills := rfl
@[simp] theorem State.setHart_kills (s : State) (h : Hart) : (s.setHart h).kills = s.kills := rfl
@[simp] theorem State.modHart_kills (s : State) (f : Hart → Hart) : (s.modHart f).kills = s.kills := rfl
@[simp] theorem setTile_log (s : State) (t : Nat) (x : Tile) : (setTile s t x).log = s.log := rfl
@[simp] theorem putHart_log (s : State) (i : HartId) (h : Hart) : (putHart s i h).log = s.log := rfl
@[simp] theorem State.setHart_log (s : State) (h : Hart) : (s.setHart h).log = s.log := rfl
@[simp] theorem State.modHart_log (s : State) (f : Hart → Hart) : (s.modHart f).log = s.log := rfl
@[simp] theorem setTile_logSeq (s : State) (t : Nat) (x : Tile) : (setTile s t x).logSeq = s.logSeq := rfl
@[simp] theorem putHart_logSeq (s : State) (i : HartId) (h : Hart) : (putHart s i h).logSeq = s.logSeq := rfl
@[simp] theorem State.setHart_logSeq (s : State) (h : Hart) : (s.setHart h).logSeq = s.logSeq := rfl
@[simp] theorem State.modHart_logSeq (s : State) (f : Hart → Hart) : (s.modHart f).logSeq = s.logSeq := rfl
@[simp] theorem setTile_calls (s : State) (t : Nat) (x : Tile) : (setTile s t x).calls = s.calls := rfl
@[simp] theorem putHart_calls (s : State) (i : HartId) (h : Hart) : (putHart s i h).calls = s.calls := rfl
@[simp] theorem State.setHart_calls (s : State) (h : Hart) : (s.setHart h).calls = s.calls := rfl
@[simp] theorem State.modHart_calls (s : State) (f : Hart → Hart) : (s.modHart f).calls = s.calls := rfl
@[simp] theorem setTile_gb (s : State) (t : Nat) (x : Tile) : (setTile s t x).gb = s.gb := rfl
@[simp] theorem putHart_gb (s : State) (i : HartId) (h : Hart) : (putHart s i h).gb = s.gb := rfl
@[simp] theorem State.setHart_gb (s : State) (h : Hart) : (s.setHart h).gb = s.gb := rfl
@[simp] theorem State.modHart_gb (s : State) (f : Hart → Hart) : (s.modHart f).gb = s.gb := rfl
@[simp] theorem setTile_gen (s : State) (t : Nat) (x : Tile) : (setTile s t x).gen = s.gen := rfl
@[simp] theorem putHart_gen (s : State) (i : HartId) (h : Hart) : (putHart s i h).gen = s.gen := rfl
@[simp] theorem State.setHart_gen (s : State) (h : Hart) : (s.setHart h).gen = s.gen := rfl
@[simp] theorem State.modHart_gen (s : State) (f : Hart → Hart) : (s.modHart f).gen = s.gen := rfl
@[simp] theorem setTile_qps (s : State) (t : Nat) (x : Tile) : (setTile s t x).qps = s.qps := rfl
@[simp] theorem putHart_qps (s : State) (i : HartId) (h : Hart) : (putHart s i h).qps = s.qps := rfl
@[simp] theorem State.setHart_qps (s : State) (h : Hart) : (s.setHart h).qps = s.qps := rfl
@[simp] theorem State.modHart_qps (s : State) (f : Hart → Hart) : (s.modHart f).qps = s.qps := rfl
@[simp] theorem setTile_paused (s : State) (t : Nat) (x : Tile) : (setTile s t x).paused = s.paused := rfl
@[simp] theorem putHart_paused (s : State) (i : HartId) (h : Hart) : (putHart s i h).paused = s.paused := rfl
@[simp] theorem State.setHart_paused (s : State) (h : Hart) : (s.setHart h).paused = s.paused := rfl
@[simp] theorem State.modHart_paused (s : State) (f : Hart → Hart) : (s.modHart f).paused = s.paused := rfl
@[simp] theorem setTile_peerOut (s : State) (t : Nat) (x : Tile) : (setTile s t x).peerOut = s.peerOut := rfl
@[simp] theorem putHart_peerOut (s : State) (i : HartId) (h : Hart) : (putHart s i h).peerOut = s.peerOut := rfl
@[simp] theorem State.setHart_peerOut (s : State) (h : Hart) : (s.setHart h).peerOut = s.peerOut := rfl
@[simp] theorem State.modHart_peerOut (s : State) (f : Hart → Hart) : (s.modHart f).peerOut = s.peerOut := rfl
@[simp] theorem setTile_hostOut (s : State) (t : Nat) (x : Tile) : (setTile s t x).hostOut = s.hostOut := rfl
@[simp] theorem putHart_hostOut (s : State) (i : HartId) (h : Hart) : (putHart s i h).hostOut = s.hostOut := rfl
@[simp] theorem State.setHart_hostOut (s : State) (h : Hart) : (s.setHart h).hostOut = s.hostOut := rfl
@[simp] theorem State.modHart_hostOut (s : State) (f : Hart → Hart) : (s.modHart f).hostOut = s.hostOut := rfl
@[simp] theorem setTile_ethOut (s : State) (t : Nat) (x : Tile) : (setTile s t x).ethOut = s.ethOut := rfl
@[simp] theorem putHart_ethOut (s : State) (i : HartId) (h : Hart) : (putHart s i h).ethOut = s.ethOut := rfl
@[simp] theorem State.setHart_ethOut (s : State) (h : Hart) : (s.setHart h).ethOut = s.ethOut := rfl
@[simp] theorem State.modHart_ethOut (s : State) (f : Hart → Hart) : (s.modHart f).ethOut = s.ethOut := rfl
@[simp] theorem setTile_hostWrites (s : State) (t : Nat) (x : Tile) : (setTile s t x).hostWrites = s.hostWrites := rfl
@[simp] theorem putHart_hostWrites (s : State) (i : HartId) (h : Hart) : (putHart s i h).hostWrites = s.hostWrites := rfl
@[simp] theorem State.setHart_hostWrites (s : State) (h : Hart) : (s.setHart h).hostWrites = s.hostWrites := rfl
@[simp] theorem State.modHart_hostWrites (s : State) (f : Hart → Hart) : (s.modHart f).hostWrites = s.hostWrites := rfl
@[simp] theorem setTile_nextHostWrite (s : State) (t : Nat) (x : Tile) : (setTile s t x).nextHostWrite = s.nextHostWrite := rfl
@[simp] theorem putHart_nextHostWrite (s : State) (i : HartId) (h : Hart) : (putHart s i h).nextHostWrite = s.nextHostWrite := rfl
@[simp] theorem State.setHart_nextHostWrite (s : State) (h : Hart) : (s.setHart h).nextHostWrite = s.nextHostWrite := rfl
@[simp] theorem State.modHart_nextHostWrite (s : State) (f : Hart → Hart) : (s.modHart f).nextHostWrite = s.nextHostWrite := rfl
@[simp] theorem setTile_events (s : State) (t : Nat) (x : Tile) : (setTile s t x).events = s.events := rfl
@[simp] theorem putHart_events (s : State) (i : HartId) (h : Hart) : (putHart s i h).events = s.events := rfl
@[simp] theorem State.setHart_events (s : State) (h : Hart) : (s.setHart h).events = s.events := rfl
@[simp] theorem State.modHart_events (s : State) (f : Hart → Hart) : (s.modHart f).events = s.events := rfl
@[simp] theorem setTile_waiting (s : State) (t : Nat) (x : Tile) : (setTile s t x).waiting = s.waiting := rfl
@[simp] theorem putHart_waiting (s : State) (i : HartId) (h : Hart) : (putHart s i h).waiting = s.waiting := rfl
@[simp] theorem State.setHart_waiting (s : State) (h : Hart) : (s.setHart h).waiting = s.waiting := rfl
@[simp] theorem State.modHart_waiting (s : State) (f : Hart → Hart) : (s.modHart f).waiting = s.waiting := rfl
@[simp] theorem setTile_await (s : State) (t : Nat) (x : Tile) : (setTile s t x).await = s.await := rfl
@[simp] theorem putHart_await (s : State) (i : HartId) (h : Hart) : (putHart s i h).await = s.await := rfl
@[simp] theorem State.setHart_await (s : State) (h : Hart) : (s.setHart h).await = s.await := rfl
@[simp] theorem State.modHart_await (s : State) (f : Hart → Hart) : (s.modHart f).await = s.await := rfl
@[simp] theorem setTile_relaxed (s : State) (t : Nat) (x : Tile) : (setTile s t x).relaxed = s.relaxed := rfl
@[simp] theorem putHart_relaxed (s : State) (i : HartId) (h : Hart) : (putHart s i h).relaxed = s.relaxed := rfl
@[simp] theorem State.setHart_relaxed (s : State) (h : Hart) : (s.setHart h).relaxed = s.relaxed := rfl
@[simp] theorem State.modHart_relaxed (s : State) (f : Hart → Hart) : (s.modHart f).relaxed = s.relaxed := rfl
@[simp] theorem setTile_draws (s : State) (t : Nat) (x : Tile) : (setTile s t x).draws = s.draws := rfl
@[simp] theorem putHart_draws (s : State) (i : HartId) (h : Hart) : (putHart s i h).draws = s.draws := rfl
@[simp] theorem State.setHart_draws (s : State) (h : Hart) : (s.setHart h).draws = s.draws := rfl
@[simp] theorem State.modHart_draws (s : State) (f : Hart → Hart) : (s.modHart f).draws = s.draws := rfl
@[simp] theorem schedule_power (s : State) (es : List Event) : (schedule s es).power = s.power := rfl
@[simp] theorem schedule_ready (s : State) (es : List Event) : (schedule s es).ready = s.ready := rfl
@[simp] theorem schedule_stage (s : State) (es : List Event) : (schedule s es).stage = s.stage := rfl
@[simp] theorem schedule_errCode (s : State) (es : List Event) : (schedule s es).errCode = s.errCode := rfl
@[simp] theorem schedule_fwver (s : State) (es : List Event) : (schedule s es).fwver = s.fwver := rfl
@[simp] theorem schedule_serial (s : State) (es : List Event) : (schedule s es).serial = s.serial := rfl
@[simp] theorem schedule_link (s : State) (es : List Event) : (schedule s es).link = s.link := rfl
@[simp] theorem schedule_flash (s : State) (es : List Event) : (schedule s es).flash = s.flash := rfl
@[simp] theorem schedule_applied (s : State) (es : List Event) : (schedule s es).applied = s.applied := rfl
@[simp] theorem schedule_cur (s : State) (es : List Event) : (schedule s es).cur = s.cur := rfl
@[simp] theorem schedule_tiles (s : State) (es : List Event) : (schedule s es).tiles = s.tiles := rfl
@[simp] theorem schedule_self (s : State) (es : List Event) : (schedule s es).self = s.self := rfl
@[simp] theorem schedule_mem (s : State) (es : List Event) : (schedule s es).mem = s.mem := rfl
@[simp] theorem schedule_bad (s : State) (es : List Event) : (schedule s es).bad = s.bad := rfl
@[simp] theorem schedule_dir (s : State) (es : List Event) : (schedule s es).dir = s.dir := rfl
@[simp] theorem schedule_bridge (s : State) (es : List Event) : (schedule s es).bridge = s.bridge := rfl
@[simp] theorem schedule_backoffs (s : State) (es : List Event) : (schedule s es).backoffs = s.backoffs := rfl
@[simp] theorem schedule_refused (s : State) (es : List Event) : (schedule s es).refused = s.refused := rfl
@[simp] theorem schedule_resvs (s : State) (es : List Event) : (schedule s es).resvs = s.resvs := rfl
@[simp] theorem schedule_held (s : State) (es : List Event) : (schedule s es).held = s.held := rfl
@[simp] theorem schedule_heldBatches (s : State) (es : List Event) : (schedule s es).heldBatches = s.heldBatches := rfl
@[simp] theorem schedule_ticket (s : State) (es : List Event) : (schedule s es).ticket = s.ticket := rfl
@[simp] theorem schedule_tlb (s : State) (es : List Event) : (schedule s es).tlb = s.tlb := rfl
@[simp] theorem schedule_farms (s : State) (es : List Event) : (schedule s es).farms = s.farms := rfl
@[simp] theorem schedule_nextFarm (s : State) (es : List Event) : (schedule s es).nextFarm = s.nextFarm := rfl
@[simp] theorem schedule_ended (s : State) (es : List Event) : (schedule s es).ended = s.ended := rfl
@[simp] theorem schedule_queues (s : State) (es : List Event) : (schedule s es).queues = s.queues := rfl
@[simp] theorem schedule_rounds (s : State) (es : List Event) : (schedule s es).rounds = s.rounds := rfl
@[simp] theorem schedule_parts (s : State) (es : List Event) : (schedule s es).parts = s.parts := rfl
@[simp] theorem schedule_peerTables (s : State) (es : List Event) : (schedule s es).peerTables = s.peerTables := rfl
@[simp] theorem schedule_deadCtxs (s : State) (es : List Event) : (schedule s es).deadCtxs = s.deadCtxs := rfl
@[simp] theorem schedule_deadPairs (s : State) (es : List Event) : (schedule s es).deadPairs = s.deadPairs := rfl
@[simp] theorem schedule_kills (s : State) (es : List Event) : (schedule s es).kills = s.kills := rfl
@[simp] theorem schedule_log (s : State) (es : List Event) : (schedule s es).log = s.log := rfl
@[simp] theorem schedule_logSeq (s : State) (es : List Event) : (schedule s es).logSeq = s.logSeq := rfl
@[simp] theorem schedule_calls (s : State) (es : List Event) : (schedule s es).calls = s.calls := rfl
@[simp] theorem schedule_gb (s : State) (es : List Event) : (schedule s es).gb = s.gb := rfl
@[simp] theorem schedule_gen (s : State) (es : List Event) : (schedule s es).gen = s.gen := rfl
@[simp] theorem schedule_qps (s : State) (es : List Event) : (schedule s es).qps = s.qps := rfl
@[simp] theorem schedule_paused (s : State) (es : List Event) : (schedule s es).paused = s.paused := rfl
@[simp] theorem schedule_peerOut (s : State) (es : List Event) : (schedule s es).peerOut = s.peerOut := rfl
@[simp] theorem schedule_hostOut (s : State) (es : List Event) : (schedule s es).hostOut = s.hostOut := rfl
@[simp] theorem schedule_ethOut (s : State) (es : List Event) : (schedule s es).ethOut = s.ethOut := rfl
@[simp] theorem schedule_hostWrites (s : State) (es : List Event) : (schedule s es).hostWrites = s.hostWrites := rfl
@[simp] theorem schedule_nextHostWrite (s : State) (es : List Event) : (schedule s es).nextHostWrite = s.nextHostWrite := rfl
@[simp] theorem schedule_waiting (s : State) (es : List Event) : (schedule s es).waiting = s.waiting := rfl
@[simp] theorem schedule_await (s : State) (es : List Event) : (schedule s es).await = s.await := rfl
@[simp] theorem schedule_relaxed (s : State) (es : List Event) : (schedule s es).relaxed = s.relaxed := rfl
@[simp] theorem schedule_draws (s : State) (es : List Event) : (schedule s es).draws = s.draws := rfl
@[simp] theorem physWrite_power (s : State) (n a x : Nat) : (physWrite s n a x).power = s.power := rfl
@[simp] theorem physWrite_ready (s : State) (n a x : Nat) : (physWrite s n a x).ready = s.ready := rfl
@[simp] theorem physWrite_stage (s : State) (n a x : Nat) : (physWrite s n a x).stage = s.stage := rfl
@[simp] theorem physWrite_errCode (s : State) (n a x : Nat) : (physWrite s n a x).errCode = s.errCode := rfl
@[simp] theorem physWrite_fwver (s : State) (n a x : Nat) : (physWrite s n a x).fwver = s.fwver := rfl
@[simp] theorem physWrite_serial (s : State) (n a x : Nat) : (physWrite s n a x).serial = s.serial := rfl
@[simp] theorem physWrite_link (s : State) (n a x : Nat) : (physWrite s n a x).link = s.link := rfl
@[simp] theorem physWrite_flash (s : State) (n a x : Nat) : (physWrite s n a x).flash = s.flash := rfl
@[simp] theorem physWrite_applied (s : State) (n a x : Nat) : (physWrite s n a x).applied = s.applied := rfl
@[simp] theorem physWrite_cur (s : State) (n a x : Nat) : (physWrite s n a x).cur = s.cur := rfl
@[simp] theorem physWrite_tiles (s : State) (n a x : Nat) : (physWrite s n a x).tiles = s.tiles := rfl
@[simp] theorem physWrite_self (s : State) (n a x : Nat) : (physWrite s n a x).self = s.self := rfl
@[simp] theorem physWrite_bad (s : State) (n a x : Nat) : (physWrite s n a x).bad = s.bad := rfl
@[simp] theorem physWrite_dir (s : State) (n a x : Nat) : (physWrite s n a x).dir = s.dir := rfl
@[simp] theorem physWrite_bridge (s : State) (n a x : Nat) : (physWrite s n a x).bridge = s.bridge := rfl
@[simp] theorem physWrite_backoffs (s : State) (n a x : Nat) : (physWrite s n a x).backoffs = s.backoffs := rfl
@[simp] theorem physWrite_refused (s : State) (n a x : Nat) : (physWrite s n a x).refused = s.refused := rfl
@[simp] theorem physWrite_resvs (s : State) (n a x : Nat) : (physWrite s n a x).resvs = s.resvs := rfl
@[simp] theorem physWrite_held (s : State) (n a x : Nat) : (physWrite s n a x).held = s.held := rfl
@[simp] theorem physWrite_heldBatches (s : State) (n a x : Nat) : (physWrite s n a x).heldBatches = s.heldBatches := rfl
@[simp] theorem physWrite_ticket (s : State) (n a x : Nat) : (physWrite s n a x).ticket = s.ticket := rfl
@[simp] theorem physWrite_tlb (s : State) (n a x : Nat) : (physWrite s n a x).tlb = s.tlb := rfl
@[simp] theorem physWrite_farms (s : State) (n a x : Nat) : (physWrite s n a x).farms = s.farms := rfl
@[simp] theorem physWrite_nextFarm (s : State) (n a x : Nat) : (physWrite s n a x).nextFarm = s.nextFarm := rfl
@[simp] theorem physWrite_ended (s : State) (n a x : Nat) : (physWrite s n a x).ended = s.ended := rfl
@[simp] theorem physWrite_queues (s : State) (n a x : Nat) : (physWrite s n a x).queues = s.queues := rfl
@[simp] theorem physWrite_rounds (s : State) (n a x : Nat) : (physWrite s n a x).rounds = s.rounds := rfl
@[simp] theorem physWrite_parts (s : State) (n a x : Nat) : (physWrite s n a x).parts = s.parts := rfl
@[simp] theorem physWrite_peerTables (s : State) (n a x : Nat) : (physWrite s n a x).peerTables = s.peerTables := rfl
@[simp] theorem physWrite_deadCtxs (s : State) (n a x : Nat) : (physWrite s n a x).deadCtxs = s.deadCtxs := rfl
@[simp] theorem physWrite_deadPairs (s : State) (n a x : Nat) : (physWrite s n a x).deadPairs = s.deadPairs := rfl
@[simp] theorem physWrite_kills (s : State) (n a x : Nat) : (physWrite s n a x).kills = s.kills := rfl
@[simp] theorem physWrite_log (s : State) (n a x : Nat) : (physWrite s n a x).log = s.log := rfl
@[simp] theorem physWrite_logSeq (s : State) (n a x : Nat) : (physWrite s n a x).logSeq = s.logSeq := rfl
@[simp] theorem physWrite_calls (s : State) (n a x : Nat) : (physWrite s n a x).calls = s.calls := rfl
@[simp] theorem physWrite_gb (s : State) (n a x : Nat) : (physWrite s n a x).gb = s.gb := rfl
@[simp] theorem physWrite_gen (s : State) (n a x : Nat) : (physWrite s n a x).gen = s.gen := rfl
@[simp] theorem physWrite_qps (s : State) (n a x : Nat) : (physWrite s n a x).qps = s.qps := rfl
@[simp] theorem physWrite_paused (s : State) (n a x : Nat) : (physWrite s n a x).paused = s.paused := rfl
@[simp] theorem physWrite_peerOut (s : State) (n a x : Nat) : (physWrite s n a x).peerOut = s.peerOut := rfl
@[simp] theorem physWrite_hostOut (s : State) (n a x : Nat) : (physWrite s n a x).hostOut = s.hostOut := rfl
@[simp] theorem physWrite_ethOut (s : State) (n a x : Nat) : (physWrite s n a x).ethOut = s.ethOut := rfl
@[simp] theorem physWrite_hostWrites (s : State) (n a x : Nat) : (physWrite s n a x).hostWrites = s.hostWrites := rfl
@[simp] theorem physWrite_nextHostWrite (s : State) (n a x : Nat) : (physWrite s n a x).nextHostWrite = s.nextHostWrite := rfl
@[simp] theorem physWrite_events (s : State) (n a x : Nat) : (physWrite s n a x).events = s.events := rfl
@[simp] theorem physWrite_waiting (s : State) (n a x : Nat) : (physWrite s n a x).waiting = s.waiting := rfl
@[simp] theorem physWrite_await (s : State) (n a x : Nat) : (physWrite s n a x).await = s.await := rfl
@[simp] theorem physWrite_relaxed (s : State) (n a x : Nat) : (physWrite s n a x).relaxed = s.relaxed := rfl
@[simp] theorem physWrite_draws (s : State) (n a x : Nat) : (physWrite s n a x).draws = s.draws := rfl

@[simp] theorem tileAt_schedule (s : State) (es : List Event) (t : Nat) : tileAt (schedule s es) t = tileAt s t := rfl
@[simp] theorem getHart_schedule (s : State) (es : List Event) (i : HartId) : getHart (schedule s es) i = getHart s i := rfl
@[simp] theorem State.hart_schedule (s : State) (es : List Event) : (schedule s es).hart = s.hart := rfl
@[simp] theorem tileAt_physWrite (s : State) (n a x t : Nat) : tileAt (physWrite s n a x) t = tileAt s t := rfl
@[simp] theorem getHart_physWrite (s : State) (n a x : Nat) (i : HartId) : getHart (physWrite s n a x) i = getHart s i := rfl
@[simp] theorem State.hart_physWrite (s : State) (n a x : Nat) : (physWrite s n a x).hart = s.hart := rfl
@[simp] theorem schedule_nil (s : State) : schedule s [] = s := by simp [schedule]

@[simp] theorem Hart.advance_level (h : Hart) (n : Nat) : (h.advance n).level = h.level := rfl
@[simp] theorem Hart.advance_run (h : Hart) (n : Nat) : (h.advance n).run = h.run := rfl
@[simp] theorem Hart.advance_g (h : Hart) (n : Nat) : (h.advance n).g = h.g := rfl
@[simp] theorem Hart.advance_shd (h : Hart) (n : Nat) : (h.advance n).shd = h.shd := rfl
@[simp] theorem Hart.advance_frm (h : Hart) (n : Nat) : (h.advance n).frm = h.frm := rfl
@[simp] theorem Hart.advance_fflags (h : Hart) (n : Nat) : (h.advance n).fflags = h.fflags := rfl
@[simp] theorem Hart.advance_vmf (h : Hart) (n : Nat) : (h.advance n).vmf = h.vmf := rfl
@[simp] theorem Hart.advance_vmfs (h : Hart) (n : Nat) : (h.advance n).vmfs = h.vmfs := rfl
@[simp] theorem Hart.advance_vsreg (h : Hart) (n : Nat) : (h.advance n).vsreg = h.vsreg := rfl
@[simp] theorem Hart.advance_ves (h : Hart) (n : Nat) : (h.advance n).ves = h.ves := rfl
@[simp] theorem Hart.advance_ulivec (h : Hart) (n : Nat) : (h.advance n).ulivec = h.ulivec := rfl
@[simp] theorem Hart.advance_uliepc (h : Hart) (n : Nat) : (h.advance n).uliepc = h.uliepc := rfl
@[simp] theorem Hart.advance_ulipend (h : Hart) (n : Nat) : (h.advance n).ulipend = h.ulipend := rfl
@[simp] theorem Hart.advance_uliActive (h : Hart) (n : Nat) : (h.advance n).uliActive = h.uliActive := rfl
@[simp] theorem Hart.advance_uliEvent (h : Hart) (n : Nat) : (h.advance n).uliEvent = h.uliEvent := rfl
@[simp] theorem Hart.advance_vl (h : Hart) (n : Nat) : (h.advance n).vl = h.vl := rfl
@[simp] theorem Hart.advance_ill (h : Hart) (n : Nat) : (h.advance n).ill = h.ill := rfl
@[simp] theorem Hart.advance_vtype (h : Hart) (n : Nat) : (h.advance n).vtype = h.vtype := rfl
@[simp] theorem Hart.advance_vlmax (h : Hart) (n : Nat) : (h.advance n).vlmax = h.vlmax := rfl
@[simp] theorem Hart.advance_shbase (h : Hart) (n : Nat) : (h.advance n).shbase = h.shbase := rfl
@[simp] theorem Hart.advance_cyc (h : Hart) (n : Nat) : (h.advance n).cyc = h.cyc := rfl
@[simp] theorem Hart.advance_tvec (h : Hart) (n : Nat) : (h.advance n).tvec = h.tvec := rfl
@[simp] theorem Hart.advance_tcause (h : Hart) (n : Nat) : (h.advance n).tcause = h.tcause := rfl
@[simp] theorem Hart.advance_tval (h : Hart) (n : Nat) : (h.advance n).tval = h.tval := rfl
@[simp] theorem Hart.advance_tepc (h : Hart) (n : Nat) : (h.advance n).tepc = h.tepc := rfl
@[simp] theorem Hart.advance_unres (h : Hart) (n : Nat) : (h.advance n).unres = h.unres := rfl
@[simp] theorem Hart.advance_fresh (h : Hart) (n : Nat) : (h.advance n).fresh = h.fresh := rfl
@[simp] theorem Hart.advance_unset (h : Hart) (n : Nat) : (h.advance n).unset = h.unset := rfl
@[simp] theorem Hart.advance_full (h : Hart) (n : Nat) : (h.advance n).full = h.full := rfl
@[simp] theorem Hart.advance_spf (h : Hart) (n : Nat) : (h.advance n).spf = h.spf := rfl
@[simp] theorem Hart.advance_tip (h : Hart) (n : Nat) : (h.advance n).tip = h.tip := rfl
@[simp] theorem Hart.advance_pp (h : Hart) (n : Nat) : (h.advance n).pp = h.pp := rfl
@[simp] theorem Hart.advance_pie (h : Hart) (n : Nat) : (h.advance n).pie = h.pie := rfl
@[simp] theorem Hart.advance_ie (h : Hart) (n : Nat) : (h.advance n).ie = h.ie := rfl
@[simp] theorem Hart.advance_tscratch (h : Hart) (n : Nat) : (h.advance n).tscratch = h.tscratch := rfl
@[simp] theorem Hart.advance_sip (h : Hart) (n : Nat) : (h.advance n).sip = h.sip := rfl
@[simp] theorem Hart.advance_noticeSeq (h : Hart) (n : Nat) : (h.advance n).noticeSeq = h.noticeSeq := rfl
@[simp] theorem Hart.advance_scount (h : Hart) (n : Nat) : (h.advance n).scount = h.scount := rfl
@[simp] theorem Hart.advance_ctxid (h : Hart) (n : Nat) : (h.advance n).ctxid = h.ctxid := rfl
@[simp] theorem Hart.advance_translated (h : Hart) (n : Nat) : (h.advance n).translated = h.translated := rfl
@[simp] theorem Hart.advance_root (h : Hart) (n : Nat) : (h.advance n).root = h.root := rfl
@[simp] theorem Hart.advance_asid (h : Hart) (n : Nat) : (h.advance n).asid = h.asid := rfl
@[simp] theorem Hart.advance_vownV (h : Hart) (n : Nat) : (h.advance n).vownV = h.vownV := rfl
@[simp] theorem Hart.advance_vownId (h : Hart) (n : Nat) : (h.advance n).vownId = h.vownId := rfl
@[simp] theorem Hart.advance_vdirty (h : Hart) (n : Nat) : (h.advance n).vdirty = h.vdirty := rfl
@[simp] theorem Hart.advance_sptb (h : Hart) (n : Nat) : (h.advance n).sptb = h.sptb := rfl
@[simp] theorem Hart.advance_spdist (h : Hart) (n : Nat) : (h.advance n).spdist = h.spdist := rfl
@[simp] theorem Hart.advance_spcnt (h : Hart) (n : Nat) : (h.advance n).spcnt = h.spcnt := rfl
@[simp] theorem Hart.advance_spe0 (h : Hart) (n : Nat) : (h.advance n).spe0 = h.spe0 := rfl
@[simp] theorem Hart.advance_spe1 (h : Hart) (n : Nat) : (h.advance n).spe1 = h.spe1 := rfl
@[simp] theorem Hart.advance_vvsel (h : Hart) (n : Nat) : (h.advance n).vvsel = h.vvsel := rfl
@[simp] theorem Hart.advance_wbaRes (h : Hart) (n : Nat) : (h.advance n).wbaRes = h.wbaRes := rfl
@[simp] theorem Hart.advance_wbaAddr (h : Hart) (n : Nat) : (h.advance n).wbaAddr = h.wbaAddr := rfl
@[simp] theorem Hart.advance_wbesDone (h : Hart) (n : Nat) : (h.advance n).wbesDone = h.wbesDone := rfl
@[simp] theorem Hart.advance_wbesArr (h : Hart) (n : Nat) : (h.advance n).wbesArr = h.wbesArr := rfl
@[simp] theorem Hart.advance_wbesTkn (h : Hart) (n : Nat) : (h.advance n).wbesTkn = h.wbesTkn := rfl
@[simp] theorem Hart.advance_wbesIdx (h : Hart) (n : Nat) : (h.advance n).wbesIdx = h.wbesIdx := rfl
@[simp] theorem Hart.advance_wbResume (h : Hart) (n : Nat) : (h.advance n).wbResume = h.wbResume := rfl
@[simp] theorem Hart.advance_wdriveEnc (h : Hart) (n : Nat) : (h.advance n).wdriveEnc = h.wdriveEnc := rfl
@[simp] theorem Hart.advance_wbCtab (h : Hart) (n : Nat) : (h.advance n).wbCtab = h.wbCtab := rfl
@[simp] theorem Hart.advance_wbBlock (h : Hart) (n : Nat) : (h.advance n).wbBlock = h.wbBlock := rfl
@[simp] theorem Hart.advance_wls (h : Hart) (n : Nat) : (h.advance n).wls = h.wls := rfl
@[simp] theorem Hart.advance_wle (h : Hart) (n : Nat) : (h.advance n).wle = h.wle := rfl
@[simp] theorem Hart.advance_v (h : Hart) (n : Nat) : (h.advance n).v = h.v := rfl
@[simp] theorem Hart.advance_val (h : Hart) (n : Nat) : (h.advance n).val = h.val := rfl
@[simp] theorem Hart.advance_k (h : Hart) (n : Nat) : (h.advance n).k = h.k := rfl
@[simp] theorem Hart.advance_q (h : Hart) (n : Nat) : (h.advance n).q = h.q := rfl
@[simp] theorem Hart.advance_eff (h : Hart) (n : Nat) : (h.advance n).eff = h.eff := rfl
@[simp] theorem Hart.advance_clusters (h : Hart) (n : Nat) : (h.advance n).clusters = h.clusters := rfl
@[simp] theorem Hart.advance_want (h : Hart) (n : Nat) : (h.advance n).want = h.want := rfl
@[simp] theorem Hart.advance_prot (h : Hart) (n : Nat) : (h.advance n).prot = h.prot := rfl
@[simp] theorem Hart.advance_member (h : Hart) (n : Nat) : (h.advance n).member = h.member := rfl
@[simp] theorem Hart.advance_vq (h : Hart) (n : Nat) : (h.advance n).vq = h.vq := rfl
@[simp] theorem Hart.advance_capp (h : Hart) (n : Nat) : (h.advance n).capp = h.capp := rfl
@[simp] theorem Hart.advance_wcb (h : Hart) (n : Nat) : (h.advance n).wcb = h.wcb := rfl
@[simp] theorem Hart.advance_sentLines (h : Hart) (n : Nat) : (h.advance n).sentLines = h.sentLines := rfl
@[simp] theorem Hart.advance_heldWrites (h : Hart) (n : Nat) : (h.advance n).heldWrites = h.heldWrites := rfl
@[simp] theorem Hart.advance_answers (h : Hart) (n : Nat) : (h.advance n).answers = h.answers := rfl
@[simp] theorem Hart.advance_openBatch (h : Hart) (n : Nat) : (h.advance n).openBatch = h.openBatch := rfl
@[simp] theorem Hart.advance_outstanding (h : Hart) (n : Nat) : (h.advance n).outstanding = h.outstanding := rfl
@[simp] theorem Hart.advance_failures (h : Hart) (n : Nat) : (h.advance n).failures = h.failures := rfl
@[simp] theorem Hart.advance_batchWait (h : Hart) (n : Nat) : (h.advance n).batchWait = h.batchWait := rfl
@[simp] theorem Hart.advance_sync (h : Hart) (n : Nat) : (h.advance n).sync = h.sync := rfl
@[simp] theorem Hart.advance_bwait (h : Hart) (n : Nat) : (h.advance n).bwait = h.bwait := rfl
@[simp] theorem Hart.advance_inProgress (h : Hart) (n : Nat) : (h.advance n).inProgress = h.inProgress := rfl
@[simp] theorem Hart.advance_trapWait (h : Hart) (n : Nat) : (h.advance n).trapWait = h.trapWait := rfl
@[simp] theorem Hart.advance_fabricEvents (h : Hart) (n : Nat) : (h.advance n).fabricEvents = h.fabricEvents := rfl
@[simp] theorem Hart.advance_badStore (h : Hart) (n : Nat) : (h.advance n).badStore = h.badStore := rfl
@[simp] theorem Hart.advance_replay (h : Hart) (n : Nat) : (h.advance n).replay = h.replay := rfl
@[simp] theorem Hart.advance_replayed (h : Hart) (n : Nat) : (h.advance n).replayed = h.replayed := rfl
@[simp] theorem Hart.advance_nextBatch (h : Hart) (n : Nat) : (h.advance n).nextBatch = h.nextBatch := rfl
@[simp] theorem Hart.advance_openTail (h : Hart) (n : Nat) : (h.advance n).openTail = h.openTail := rfl
@[simp] theorem Hart.advance_pages (h : Hart) (n : Nat) : (h.advance n).pages = h.pages := rfl
@[simp] theorem Hart.advance_pc (h : Hart) (n : Nat) : (h.advance n).pc = h.pc + BitVec.ofNat 64 n := rfl
@[simp] theorem Hart.rg_advance (h : Hart) (n : Nat) (r : GReg) : (h.advance n).rg r = h.rg r := rfl
@[simp] theorem Hart.wg_pc (h : Hart) (d : GReg) (x : Word) : (h.wg d x).pc = h.pc := by rw [Hart.wg]; split; rfl; split <;> rfl
@[simp] theorem Hart.wg_level (h : Hart) (d : GReg) (x : Word) : (h.wg d x).level = h.level := by rw [Hart.wg]; split; rfl; split <;> rfl
@[simp] theorem Hart.wg_run (h : Hart) (d : GReg) (x : Word) : (h.wg d x).run = h.run := by rw [Hart.wg]; split; rfl; split <;> rfl
@[simp] theorem Hart.wg_frm (h : Hart) (d : GReg) (x : Word) : (h.wg d x).frm = h.frm := by rw [Hart.wg]; split; rfl; split <;> rfl
@[simp] theorem Hart.wg_fflags (h : Hart) (d : GReg) (x : Word) : (h.wg d x).fflags = h.fflags := by rw [Hart.wg]; split; rfl; split <;> rfl
@[simp] theorem Hart.wg_vmf (h : Hart) (d : GReg) (x : Word) : (h.wg d x).vmf = h.vmf := by rw [Hart.wg]; split; rfl; split <;> rfl
@[simp] theorem Hart.wg_vmfs (h : Hart) (d : GReg) (x : Word) : (h.wg d x).vmfs = h.vmfs := by rw [Hart.wg]; split; rfl; split <;> rfl
@[simp] theorem Hart.wg_vsreg (h : Hart) (d : GReg) (x : Word) : (h.wg d x).vsreg = h.vsreg := by rw [Hart.wg]; split; rfl; split <;> rfl
@[simp] theorem Hart.wg_ves (h : Hart) (d : GReg) (x : Word) : (h.wg d x).ves = h.ves := by rw [Hart.wg]; split; rfl; split <;> rfl
@[simp] theorem Hart.wg_ulivec (h : Hart) (d : GReg) (x : Word) : (h.wg d x).ulivec = h.ulivec := by rw [Hart.wg]; split; rfl; split <;> rfl
@[simp] theorem Hart.wg_uliepc (h : Hart) (d : GReg) (x : Word) : (h.wg d x).uliepc = h.uliepc := by rw [Hart.wg]; split; rfl; split <;> rfl
@[simp] theorem Hart.wg_ulipend (h : Hart) (d : GReg) (x : Word) : (h.wg d x).ulipend = h.ulipend := by rw [Hart.wg]; split; rfl; split <;> rfl
@[simp] theorem Hart.wg_uliActive (h : Hart) (d : GReg) (x : Word) : (h.wg d x).uliActive = h.uliActive := by rw [Hart.wg]; split; rfl; split <;> rfl
@[simp] theorem Hart.wg_uliEvent (h : Hart) (d : GReg) (x : Word) : (h.wg d x).uliEvent = h.uliEvent := by rw [Hart.wg]; split; rfl; split <;> rfl
@[simp] theorem Hart.wg_vl (h : Hart) (d : GReg) (x : Word) : (h.wg d x).vl = h.vl := by rw [Hart.wg]; split; rfl; split <;> rfl
@[simp] theorem Hart.wg_ill (h : Hart) (d : GReg) (x : Word) : (h.wg d x).ill = h.ill := by rw [Hart.wg]; split; rfl; split <;> rfl
@[simp] theorem Hart.wg_vtype (h : Hart) (d : GReg) (x : Word) : (h.wg d x).vtype = h.vtype := by rw [Hart.wg]; split; rfl; split <;> rfl
@[simp] theorem Hart.wg_vlmax (h : Hart) (d : GReg) (x : Word) : (h.wg d x).vlmax = h.vlmax := by rw [Hart.wg]; split; rfl; split <;> rfl
@[simp] theorem Hart.wg_shbase (h : Hart) (d : GReg) (x : Word) : (h.wg d x).shbase = h.shbase := by rw [Hart.wg]; split; rfl; split <;> rfl
@[simp] theorem Hart.wg_cyc (h : Hart) (d : GReg) (x : Word) : (h.wg d x).cyc = h.cyc := by rw [Hart.wg]; split; rfl; split <;> rfl
@[simp] theorem Hart.wg_tvec (h : Hart) (d : GReg) (x : Word) : (h.wg d x).tvec = h.tvec := by rw [Hart.wg]; split; rfl; split <;> rfl
@[simp] theorem Hart.wg_tcause (h : Hart) (d : GReg) (x : Word) : (h.wg d x).tcause = h.tcause := by rw [Hart.wg]; split; rfl; split <;> rfl
@[simp] theorem Hart.wg_tval (h : Hart) (d : GReg) (x : Word) : (h.wg d x).tval = h.tval := by rw [Hart.wg]; split; rfl; split <;> rfl
@[simp] theorem Hart.wg_tepc (h : Hart) (d : GReg) (x : Word) : (h.wg d x).tepc = h.tepc := by rw [Hart.wg]; split; rfl; split <;> rfl
@[simp] theorem Hart.wg_unres (h : Hart) (d : GReg) (x : Word) : (h.wg d x).unres = h.unres := by rw [Hart.wg]; split; rfl; split <;> rfl
@[simp] theorem Hart.wg_fresh (h : Hart) (d : GReg) (x : Word) : (h.wg d x).fresh = h.fresh := by rw [Hart.wg]; split; rfl; split <;> rfl
@[simp] theorem Hart.wg_unset (h : Hart) (d : GReg) (x : Word) : (h.wg d x).unset = h.unset := by rw [Hart.wg]; split; rfl; split <;> rfl
@[simp] theorem Hart.wg_full (h : Hart) (d : GReg) (x : Word) : (h.wg d x).full = h.full := by rw [Hart.wg]; split; rfl; split <;> rfl
@[simp] theorem Hart.wg_spf (h : Hart) (d : GReg) (x : Word) : (h.wg d x).spf = h.spf := by rw [Hart.wg]; split; rfl; split <;> rfl
@[simp] theorem Hart.wg_tip (h : Hart) (d : GReg) (x : Word) : (h.wg d x).tip = h.tip := by rw [Hart.wg]; split; rfl; split <;> rfl
@[simp] theorem Hart.wg_pp (h : Hart) (d : GReg) (x : Word) : (h.wg d x).pp = h.pp := by rw [Hart.wg]; split; rfl; split <;> rfl
@[simp] theorem Hart.wg_pie (h : Hart) (d : GReg) (x : Word) : (h.wg d x).pie = h.pie := by rw [Hart.wg]; split; rfl; split <;> rfl
@[simp] theorem Hart.wg_ie (h : Hart) (d : GReg) (x : Word) : (h.wg d x).ie = h.ie := by rw [Hart.wg]; split; rfl; split <;> rfl
@[simp] theorem Hart.wg_tscratch (h : Hart) (d : GReg) (x : Word) : (h.wg d x).tscratch = h.tscratch := by rw [Hart.wg]; split; rfl; split <;> rfl
@[simp] theorem Hart.wg_sip (h : Hart) (d : GReg) (x : Word) : (h.wg d x).sip = h.sip := by rw [Hart.wg]; split; rfl; split <;> rfl
@[simp] theorem Hart.wg_noticeSeq (h : Hart) (d : GReg) (x : Word) : (h.wg d x).noticeSeq = h.noticeSeq := by rw [Hart.wg]; split; rfl; split <;> rfl
@[simp] theorem Hart.wg_scount (h : Hart) (d : GReg) (x : Word) : (h.wg d x).scount = h.scount := by rw [Hart.wg]; split; rfl; split <;> rfl
@[simp] theorem Hart.wg_ctxid (h : Hart) (d : GReg) (x : Word) : (h.wg d x).ctxid = h.ctxid := by rw [Hart.wg]; split; rfl; split <;> rfl
@[simp] theorem Hart.wg_translated (h : Hart) (d : GReg) (x : Word) : (h.wg d x).translated = h.translated := by rw [Hart.wg]; split; rfl; split <;> rfl
@[simp] theorem Hart.wg_root (h : Hart) (d : GReg) (x : Word) : (h.wg d x).root = h.root := by rw [Hart.wg]; split; rfl; split <;> rfl
@[simp] theorem Hart.wg_asid (h : Hart) (d : GReg) (x : Word) : (h.wg d x).asid = h.asid := by rw [Hart.wg]; split; rfl; split <;> rfl
@[simp] theorem Hart.wg_vownV (h : Hart) (d : GReg) (x : Word) : (h.wg d x).vownV = h.vownV := by rw [Hart.wg]; split; rfl; split <;> rfl
@[simp] theorem Hart.wg_vownId (h : Hart) (d : GReg) (x : Word) : (h.wg d x).vownId = h.vownId := by rw [Hart.wg]; split; rfl; split <;> rfl
@[simp] theorem Hart.wg_vdirty (h : Hart) (d : GReg) (x : Word) : (h.wg d x).vdirty = h.vdirty := by rw [Hart.wg]; split; rfl; split <;> rfl
@[simp] theorem Hart.wg_sptb (h : Hart) (d : GReg) (x : Word) : (h.wg d x).sptb = h.sptb := by rw [Hart.wg]; split; rfl; split <;> rfl
@[simp] theorem Hart.wg_spdist (h : Hart) (d : GReg) (x : Word) : (h.wg d x).spdist = h.spdist := by rw [Hart.wg]; split; rfl; split <;> rfl
@[simp] theorem Hart.wg_spcnt (h : Hart) (d : GReg) (x : Word) : (h.wg d x).spcnt = h.spcnt := by rw [Hart.wg]; split; rfl; split <;> rfl
@[simp] theorem Hart.wg_spe0 (h : Hart) (d : GReg) (x : Word) : (h.wg d x).spe0 = h.spe0 := by rw [Hart.wg]; split; rfl; split <;> rfl
@[simp] theorem Hart.wg_spe1 (h : Hart) (d : GReg) (x : Word) : (h.wg d x).spe1 = h.spe1 := by rw [Hart.wg]; split; rfl; split <;> rfl
@[simp] theorem Hart.wg_vvsel (h : Hart) (d : GReg) (x : Word) : (h.wg d x).vvsel = h.vvsel := by rw [Hart.wg]; split; rfl; split <;> rfl
@[simp] theorem Hart.wg_wbaRes (h : Hart) (d : GReg) (x : Word) : (h.wg d x).wbaRes = h.wbaRes := by rw [Hart.wg]; split; rfl; split <;> rfl
@[simp] theorem Hart.wg_wbaAddr (h : Hart) (d : GReg) (x : Word) : (h.wg d x).wbaAddr = h.wbaAddr := by rw [Hart.wg]; split; rfl; split <;> rfl
@[simp] theorem Hart.wg_wbesDone (h : Hart) (d : GReg) (x : Word) : (h.wg d x).wbesDone = h.wbesDone := by rw [Hart.wg]; split; rfl; split <;> rfl
@[simp] theorem Hart.wg_wbesArr (h : Hart) (d : GReg) (x : Word) : (h.wg d x).wbesArr = h.wbesArr := by rw [Hart.wg]; split; rfl; split <;> rfl
@[simp] theorem Hart.wg_wbesTkn (h : Hart) (d : GReg) (x : Word) : (h.wg d x).wbesTkn = h.wbesTkn := by rw [Hart.wg]; split; rfl; split <;> rfl
@[simp] theorem Hart.wg_wbesIdx (h : Hart) (d : GReg) (x : Word) : (h.wg d x).wbesIdx = h.wbesIdx := by rw [Hart.wg]; split; rfl; split <;> rfl
@[simp] theorem Hart.wg_wbResume (h : Hart) (d : GReg) (x : Word) : (h.wg d x).wbResume = h.wbResume := by rw [Hart.wg]; split; rfl; split <;> rfl
@[simp] theorem Hart.wg_wdriveEnc (h : Hart) (d : GReg) (x : Word) : (h.wg d x).wdriveEnc = h.wdriveEnc := by rw [Hart.wg]; split; rfl; split <;> rfl
@[simp] theorem Hart.wg_wbCtab (h : Hart) (d : GReg) (x : Word) : (h.wg d x).wbCtab = h.wbCtab := by rw [Hart.wg]; split; rfl; split <;> rfl
@[simp] theorem Hart.wg_wbBlock (h : Hart) (d : GReg) (x : Word) : (h.wg d x).wbBlock = h.wbBlock := by rw [Hart.wg]; split; rfl; split <;> rfl
@[simp] theorem Hart.wg_wls (h : Hart) (d : GReg) (x : Word) : (h.wg d x).wls = h.wls := by rw [Hart.wg]; split; rfl; split <;> rfl
@[simp] theorem Hart.wg_wle (h : Hart) (d : GReg) (x : Word) : (h.wg d x).wle = h.wle := by rw [Hart.wg]; split; rfl; split <;> rfl
@[simp] theorem Hart.wg_v (h : Hart) (d : GReg) (x : Word) : (h.wg d x).v = h.v := by rw [Hart.wg]; split; rfl; split <;> rfl
@[simp] theorem Hart.wg_val (h : Hart) (d : GReg) (x : Word) : (h.wg d x).val = h.val := by rw [Hart.wg]; split; rfl; split <;> rfl
@[simp] theorem Hart.wg_k (h : Hart) (d : GReg) (x : Word) : (h.wg d x).k = h.k := by rw [Hart.wg]; split; rfl; split <;> rfl
@[simp] theorem Hart.wg_q (h : Hart) (d : GReg) (x : Word) : (h.wg d x).q = h.q := by rw [Hart.wg]; split; rfl; split <;> rfl
@[simp] theorem Hart.wg_eff (h : Hart) (d : GReg) (x : Word) : (h.wg d x).eff = h.eff := by rw [Hart.wg]; split; rfl; split <;> rfl
@[simp] theorem Hart.wg_clusters (h : Hart) (d : GReg) (x : Word) : (h.wg d x).clusters = h.clusters := by rw [Hart.wg]; split; rfl; split <;> rfl
@[simp] theorem Hart.wg_want (h : Hart) (d : GReg) (x : Word) : (h.wg d x).want = h.want := by rw [Hart.wg]; split; rfl; split <;> rfl
@[simp] theorem Hart.wg_prot (h : Hart) (d : GReg) (x : Word) : (h.wg d x).prot = h.prot := by rw [Hart.wg]; split; rfl; split <;> rfl
@[simp] theorem Hart.wg_member (h : Hart) (d : GReg) (x : Word) : (h.wg d x).member = h.member := by rw [Hart.wg]; split; rfl; split <;> rfl
@[simp] theorem Hart.wg_vq (h : Hart) (d : GReg) (x : Word) : (h.wg d x).vq = h.vq := by rw [Hart.wg]; split; rfl; split <;> rfl
@[simp] theorem Hart.wg_capp (h : Hart) (d : GReg) (x : Word) : (h.wg d x).capp = h.capp := by rw [Hart.wg]; split; rfl; split <;> rfl
@[simp] theorem Hart.wg_wcb (h : Hart) (d : GReg) (x : Word) : (h.wg d x).wcb = h.wcb := by rw [Hart.wg]; split; rfl; split <;> rfl
@[simp] theorem Hart.wg_sentLines (h : Hart) (d : GReg) (x : Word) : (h.wg d x).sentLines = h.sentLines := by rw [Hart.wg]; split; rfl; split <;> rfl
@[simp] theorem Hart.wg_heldWrites (h : Hart) (d : GReg) (x : Word) : (h.wg d x).heldWrites = h.heldWrites := by rw [Hart.wg]; split; rfl; split <;> rfl
@[simp] theorem Hart.wg_answers (h : Hart) (d : GReg) (x : Word) : (h.wg d x).answers = h.answers := by rw [Hart.wg]; split; rfl; split <;> rfl
@[simp] theorem Hart.wg_openBatch (h : Hart) (d : GReg) (x : Word) : (h.wg d x).openBatch = h.openBatch := by rw [Hart.wg]; split; rfl; split <;> rfl
@[simp] theorem Hart.wg_outstanding (h : Hart) (d : GReg) (x : Word) : (h.wg d x).outstanding = h.outstanding := by rw [Hart.wg]; split; rfl; split <;> rfl
@[simp] theorem Hart.wg_failures (h : Hart) (d : GReg) (x : Word) : (h.wg d x).failures = h.failures := by rw [Hart.wg]; split; rfl; split <;> rfl
@[simp] theorem Hart.wg_batchWait (h : Hart) (d : GReg) (x : Word) : (h.wg d x).batchWait = h.batchWait := by rw [Hart.wg]; split; rfl; split <;> rfl
@[simp] theorem Hart.wg_sync (h : Hart) (d : GReg) (x : Word) : (h.wg d x).sync = h.sync := by rw [Hart.wg]; split; rfl; split <;> rfl
@[simp] theorem Hart.wg_bwait (h : Hart) (d : GReg) (x : Word) : (h.wg d x).bwait = h.bwait := by rw [Hart.wg]; split; rfl; split <;> rfl
@[simp] theorem Hart.wg_inProgress (h : Hart) (d : GReg) (x : Word) : (h.wg d x).inProgress = h.inProgress := by rw [Hart.wg]; split; rfl; split <;> rfl
@[simp] theorem Hart.wg_trapWait (h : Hart) (d : GReg) (x : Word) : (h.wg d x).trapWait = h.trapWait := by rw [Hart.wg]; split; rfl; split <;> rfl
@[simp] theorem Hart.wg_fabricEvents (h : Hart) (d : GReg) (x : Word) : (h.wg d x).fabricEvents = h.fabricEvents := by rw [Hart.wg]; split; rfl; split <;> rfl
@[simp] theorem Hart.wg_badStore (h : Hart) (d : GReg) (x : Word) : (h.wg d x).badStore = h.badStore := by rw [Hart.wg]; split; rfl; split <;> rfl
@[simp] theorem Hart.wg_replay (h : Hart) (d : GReg) (x : Word) : (h.wg d x).replay = h.replay := by rw [Hart.wg]; split; rfl; split <;> rfl
@[simp] theorem Hart.wg_replayed (h : Hart) (d : GReg) (x : Word) : (h.wg d x).replayed = h.replayed := by rw [Hart.wg]; split; rfl; split <;> rfl
@[simp] theorem Hart.wg_nextBatch (h : Hart) (d : GReg) (x : Word) : (h.wg d x).nextBatch = h.nextBatch := by rw [Hart.wg]; split; rfl; split <;> rfl
@[simp] theorem Hart.wg_openTail (h : Hart) (d : GReg) (x : Word) : (h.wg d x).openTail = h.openTail := by rw [Hart.wg]; split; rfl; split <;> rfl
@[simp] theorem Hart.wg_pages (h : Hart) (d : GReg) (x : Word) : (h.wg d x).pages = h.pages := by rw [Hart.wg]; split; rfl; split <;> rfl

/-- A hart with a general register written is the hart with other register contents and nothing else. -/
theorem Hart.wg_eq (h : Hart) (d : GReg) (x : Word) :
    h.wg d x = { h with g := (h.wg d x).g, shd := (h.wg d x).shd } := by
  unfold Hart.wg
  split
  · rfl
  · split <;> rfl

end Sys2Proof.Machine
end

