-- ==== Sys2Proof/Laws/Memory.lean ====
section
/-! SUPPORT. The laws of the byte memory: a read after a write, and the canonical form, which every memory operation keeps. -/

namespace Sys2Proof.Machine

theorem Memory.wfFrom_mono (m : List Host.Cell) (lo lo' : Nat) (h : lo' ≤ lo) (hw : Memory.wfFrom lo m = true) :
    Memory.wfFrom lo' m = true := by
  cases m with
  | nil => rfl
  | cons e t =>
    obtain ⟨k, b⟩ := e
    simp only [Memory.wfFrom, Bool.and_eq_true, decide_eq_true_eq] at hw ⊢
    exact ⟨⟨by omega, hw.1.2⟩, hw.2⟩

/-- Below the first listed address every byte is zero. -/
theorem memGet_below (m : List Host.Cell) (lo a : Nat) (hw : Memory.wfFrom lo m = true) (h : a < lo) : memGet m a = 0 := by
  cases m with
  | nil => rfl
  | cons e t =>
    obtain ⟨k, b⟩ := e
    simp only [Memory.wfFrom, Bool.and_eq_true, decide_eq_true_eq] at hw
    have h1 : ¬ k = a := by omega
    have h2 : a < k := by omega
    simp [memGet, h1, h2]

theorem memSet_wfFrom (m : List Host.Cell) (lo a : Nat) (b : Byte) (h : lo ≤ a) (hw : Memory.wfFrom lo m = true) :
    Memory.wfFrom lo (memSet m a b) = true := by
  induction m generalizing lo with
  | nil =>
    simp only [memSet]
    split
    · rfl
    · simp_all [Memory.wfFrom]
  | cons e t ih =>
    obtain ⟨k, x⟩ := e
    simp only [Memory.wfFrom, Bool.and_eq_true, decide_eq_true_eq] at hw
    obtain ⟨⟨h1, h2⟩, h3⟩ := hw
    simp only [memSet]
    by_cases hk : k < a
    · simp only [hk, if_true, Memory.wfFrom, Bool.and_eq_true, decide_eq_true_eq]
      exact ⟨⟨h1, h2⟩, ih (k + 1) (by omega) h3⟩
    · by_cases hka : k = a
      · simp only [hka, Nat.lt_irrefl, if_true, if_false]
        split
        · exact Memory.wfFrom_mono t (k + 1) lo (by omega) h3
        · rename_i hb
          simp only [Memory.wfFrom, Bool.and_eq_true, decide_eq_true_eq]
          exact ⟨⟨h, hb⟩, hka ▸ h3⟩
      · simp only [hk, hka, if_false]
        split
        · simp only [Memory.wfFrom, Bool.and_eq_true, decide_eq_true_eq]
          exact ⟨⟨h1, h2⟩, h3⟩
        · rename_i hb
          simp only [Memory.wfFrom, Bool.and_eq_true, decide_eq_true_eq]
          exact ⟨⟨h, hb⟩, ⟨by omega, h2⟩, h3⟩

theorem memGet_memSet_from (m : List Host.Cell) (lo a c : Nat) (b : Byte) (hw : Memory.wfFrom lo m = true) :
    memGet (memSet m a b) c = if c = a then b else memGet m c := by
  induction m generalizing lo with
  | nil =>
    by_cases hb : b = 0#8
    · simp [memSet, memGet, hb]
    · by_cases hc : c = a
      · simp [memSet, memGet, hb, hc]
      · simp [memSet, memGet, hb, hc, Ne.symm hc]
  | cons e t ih =>
    obtain ⟨k, x⟩ := e
    simp only [Memory.wfFrom, Bool.and_eq_true, decide_eq_true_eq] at hw
    obtain ⟨⟨h1, h2⟩, h3⟩ := hw
    simp only [memSet]
    by_cases hk : k < a
    · simp only [hk, if_true, memGet]
      by_cases hkc : k = c
      · have : ¬ c = a := by omega
        simp [hkc, this]
      · simp only [hkc, if_false]
        by_cases hck : c < k
        · have : ¬ c = a := by omega
          simp [hck, this]
        · simp only [hck, if_false]
          exact ih (k + 1) h3
    · by_cases hka : k = a
      · subst hka
        have hz : c < k + 1 → memGet t c = 0 := memGet_below t (k + 1) c h3
        by_cases hb : b = 0#8
        · by_cases hc : c = k
          · have h0 := hz (by omega)
            rw [hc] at h0
            simp [hb, hc, h0]
          · by_cases hck : c < k
            · have h0 := hz (by omega)
              simp [hb, hc, h0, memGet, Ne.symm hc, hck]
            · simp [hb, hc, memGet, Ne.symm hc, hck]
        · by_cases hc : c = k
          · simp [hb, hc, memGet]
          · simp [hb, hc, memGet, Ne.symm hc]
      · have hak : a < k := by omega
        by_cases hb : b = 0#8
        · by_cases hc : c = a
          · have hkc : ¬ k = c := by omega
            have hck : c < k := by omega
            simp [hk, hka, hb, hc, memGet, hak]
          · simp [hk, hka, hb, hc]
        · by_cases hc : c = a
          · simp [hk, hka, hb, hc, memGet]
          · have hac : ¬ a = c := fun h => hc h.symm
            by_cases hca : c < a
            · have hkc : ¬ k = c := by omega
              have hck : c < k := by omega
              simp [hk, hka, hb, hc, memGet, hac, hca, hkc, hck]
            · simp [hk, hka, hb, hc, memGet, hac, hca]

/-- A read of a byte after a write of one. -/
theorem memGet_memSet (m : List Host.Cell) (a c : Nat) (b : Byte) (hw : Memory.wf m = true) :
    memGet (memSet m a b) c = if c = a then b else memGet m c := memGet_memSet_from m 0 a c b hw

theorem memSet_wf (m : List Host.Cell) (a : Nat) (b : Byte) (hw : Memory.wf m = true) : Memory.wf (memSet m a b) = true :=
  memSet_wfFrom m 0 a b (Nat.zero_le a) hw

theorem memPut_wf (cells m : List Host.Cell) (hw : Memory.wf m = true) : Memory.wf (memPut m cells) = true := by
  induction cells generalizing m with
  | nil => exact hw
  | cons e t ih => exact ih _ (memSet_wf m e.1 e.2 hw)

theorem memWrite_wf (n a x : Nat) (m : List Host.Cell) (hw : Memory.wf m = true) : Memory.wf (memWrite m n a x) = true := by
  induction n generalizing m a x with
  | zero => exact hw
  | succ n ih => exact ih _ _ _ (memSet_wf m a _ hw)

theorem physWrite_wf (s : State) (n a x : Nat) (hw : Memory.wf s.mem = true) : Memory.wf (physWrite s n a x).mem = true :=
  memWrite_wf n a x s.mem hw

/-- A write of cells is the write of their bytes one after another. -/
theorem memPut_cellsOf (n a x : Nat) (m : List Host.Cell) : memPut m (cellsOf n a x) = memWrite m n a x := by
  induction n generalizing m a x with
  | zero => rfl
  | succ n ih => exact ih _ _ _

/-- A write of n bytes leaves every byte outside them alone. -/
theorem memGet_memWrite_ne (n a x c : Nat) (m : List Host.Cell) (hw : Memory.wf m = true) (h : c < a ∨ a + n ≤ c) :
    memGet (memWrite m n a x) c = memGet m c := by
  induction n generalizing m a x with
  | zero => rfl
  | succ n ih =>
    have h1 : ¬ c = a := by omega
    show memGet (memWrite (memSet m a _) n (a + 1) _) c = _
    rw [ih _ _ _ (memSet_wf m a _ hw) (by omega), memGet_memSet m a c _ hw]
    simp [h1]

/-- A byte that a write of n bytes covers. -/
theorem memGet_memWrite_at (n a x i : Nat) (m : List Host.Cell) (hw : Memory.wf m = true) (h : i < n) :
    memGet (memWrite m n a x) (a + i) = BitVec.ofNat 8 (x / 2 ^ (8 * i)) := by
  induction n generalizing m a x i with
  | zero => omega
  | succ n ih =>
    show memGet (memWrite (memSet m a _) n (a + 1) _) (a + i) = _
    cases i with
    | zero =>
      rw [memGet_memWrite_ne _ _ _ _ _ (memSet_wf m a _ hw) (by omega), memGet_memSet m a _ _ hw]
      simp
    | succ i =>
      have hs : a + (i + 1) = (a + 1) + i := by omega
      rw [hs, ih _ _ _ _ (memSet_wf m a _ hw) (by omega)]
      have he : x / 2 ^ 8 / 2 ^ (8 * i) = x / 2 ^ (8 * (i + 1)) := by
        rw [Nat.div_div_eq_div_mul, ← Nat.pow_add]
        congr 2
        omega
      rw [he]

/-- A read of n bytes after a write of them, and a read outside them. -/
theorem memRead_memWrite (n a x : Nat) (m : List Host.Cell) (hw : Memory.wf m = true) :
    memRead (memWrite m n a x) n a = x % 2 ^ (8 * n) := by
  induction n generalizing m a x with
  | zero => simp [memRead, Nat.mod_one]
  | succ n ih =>
    have h0 : memGet (memWrite m (n + 1) a x) a = BitVec.ofNat 8 x := by
      have := memGet_memWrite_at (n + 1) a x 0 m hw (by omega)
      simpa using this
    show (memGet (memWrite m (n + 1) a x) a).toNat + 2 ^ 8 * memRead (memWrite (memSet m a _) n (a + 1) (x / 2 ^ 8)) n (a + 1) = _
    rw [h0, ih _ _ _ (memSet_wf m a _ hw)]
    have he : 2 ^ (8 * (n + 1)) = 2 ^ 8 * 2 ^ (8 * n) := by rw [← Nat.pow_add]; congr 1; omega
    rw [he, Nat.mod_mul]
    simp [BitVec.toNat_ofNat]

theorem memRead_congr (m m' : List Host.Cell) (n a : Nat) (h : ∀ c, a ≤ c → c < a + n → memGet m c = memGet m' c) :
    memRead m n a = memRead m' n a := by
  induction n generalizing a with
  | zero => rfl
  | succ n ih =>
    show (memGet m a).toNat + 2 ^ 8 * memRead m n (a + 1) = (memGet m' a).toNat + 2 ^ 8 * memRead m' n (a + 1)
    rw [h a (by omega) (by omega), ih (a + 1) fun c h1 h2 => h c (by omega) (by omega)]

theorem memRead_memWrite_ne (n a x k b : Nat) (m : List Host.Cell) (hw : Memory.wf m = true) (h : b + k ≤ a ∨ a + n ≤ b) :
    memRead (memWrite m n a x) k b = memRead m k b :=
  memRead_congr _ _ k b fun c h1 h2 => memGet_memWrite_ne n a x c m hw (by omega)

theorem memRead_lt (m : List Host.Cell) (n a : Nat) : memRead m n a < 2 ^ (8 * n) := by
  induction n generalizing a with
  | zero => simp [memRead]
  | succ n ih =>
    have h1 := (memGet m a).isLt
    have h2 := ih (a + 1)
    have he : 2 ^ (8 * (n + 1)) = 2 ^ 8 * 2 ^ (8 * n) := by rw [← Nat.pow_add]; congr 1; omega
    show (memGet m a).toNat + 2 ^ 8 * memRead m n (a + 1) < _
    rw [he]
    omega

theorem mem_upTo (a n x : Nat) : x ∈ upTo a n ↔ a ≤ x ∧ x < a + n := by
  induction n generalizing a with
  | zero => simp [upTo]
  | succ n ih => simp only [upTo, List.mem_cons, ih]; omega

theorem cellsOf_fst (n a x : Nat) : (cellsOf n a x).map (fun c => c.1) = upTo a n := by
  induction n generalizing a x with
  | zero => rfl
  | succ n ih => simp only [cellsOf, upTo, List.map_cons, ih]

/-- Every function applied in a fold that keeps a property of the state keeps it to the end. -/
theorem foldl_keeps {α : Type} (P : State → Prop) (f : State → α → State) (l : List α) (s : State)
    (hf : ∀ s x, P s → P (f s x)) (h : P s) : P (l.foldl f s) := by
  induction l generalizing s with
  | nil => exact h
  | cons x t ih => exact ih _ (hf s x h)

@[simp] theorem setDir_mem (s : State) (l : Nat) (d : DirEntry) : (setDir s l d).mem = s.mem := rfl

@[simp] theorem dropLine_mem (s : State) (t l : Nat) : (dropLine s t l).mem = s.mem := by
  unfold dropLine
  split <;> rfl

@[simp] theorem dropCopy_mem (s : State) (t l : Nat) : (dropCopy s t l).mem = s.mem := by
  unfold dropCopy
  dsimp only
  split
  · exact dropLine_mem s t l
  · exact dropLine_mem s t l

@[simp] theorem awaitOn_mem (s : State) (a : Await) : (awaitOn s a).mem = s.mem := by
  unfold awaitOn
  split <;> rfl

@[simp] theorem awaitLine_mem (s : State) (l : Nat) : (awaitLine s l).mem = s.mem := awaitOn_mem s _

theorem invalidateOthers_mem (s : State) (w : Option Nat) (l : Nat) : (invalidateOthers s w l).mem = s.mem := by
  unfold invalidateOthers
  split
  · rfl
  · split
    · exact awaitOn_mem ..
    · split
      · rfl
      · exact awaitOn_mem ..

/-- The memory that a performed write leaves. -/
theorem performWrite_mem (s : State) (w : Option Nat) (cells : List Host.Cell) :
    (performWrite s w cells).mem = memPut s.mem cells := by
  simp only [performWrite]
  generalize (if s.dir.isEmpty = true then [] else nubNat (cells.map fun c => lineOf c.1)) = ls
  have h1 : ∀ t : State, t.mem = memPut s.mem cells →
      (ls.foldl (fun s l => invalidateOthers s w l) t).mem = memPut s.mem cells := by
    intro t ht
    exact foldl_keeps (fun t => t.mem = memPut s.mem cells) _ _ t
      (fun s' x h => by rw [invalidateOthers_mem]; exact h) ht
  have h2 : ∀ t : State, t.mem = memPut s.mem cells →
      (ls.foldl (fun s l =>
        if ((dirAt s l).poison && (upTo (128 * l) 128).all fun a => cells.any fun c => c.1 == a) = true then
          setDir s l { dirAt s l with poison := false } else s) t).mem = memPut s.mem cells := by
    intro t ht
    refine foldl_keeps (fun t => t.mem = memPut s.mem cells) _ _ t ?_ ht
    intro s' x h
    dsimp only
    split <;> simpa using h
  have h3 := h2 _ (h1 { s with mem := memPut s.mem cells } rfl)
  split
  · exact h3
  · exact h3

theorem performWrite_wf (s : State) (w : Option Nat) (cells : List Host.Cell) (hw : Memory.wf s.mem = true) :
    Memory.wf (performWrite s w cells).mem = true := by
  rw [performWrite_mem]
  exact memPut_wf cells s.mem hw

/-- With an empty directory and no bad codeword, a performed write changes memory and nothing else. -/
theorem performWrite_calm (s : State) (w : Option Nat) (cells : List Host.Cell) (hd : s.dir = []) (hb : s.bad = []) :
    performWrite s w cells = { s with mem := memPut s.mem cells } := by
  simp [performWrite, hd, hb]

theorem badIn_calm (s : State) (a n : Nat) (hd : s.dir = []) (hb : s.bad = []) : badIn s a n = none := by
  simp [badIn, hd, hb]

theorem conflict_calm (s : State) (who : Accessor) (ls : List Nat) (w : Bool) (hr : s.resvs = []) :
    conflict s who ls w = .serve [] := by
  simp [conflict, hr]

@[simp] theorem cutResvs_nil (s : State) : cutResvs s [] = s := by
  simp [cutResvs]

end Sys2Proof.Machine
end

