-- ==== Sys2Proof/Laws/Scalar.lean ====
section
/-! SUPPORT. What the shared operations of the scalar instructions do: one lemma for each, which statements about the instructions
cite. -/

namespace Sys2Proof.Machine

theorem wroteG_jump (s : State) (pc : Word) (d : GReg) (x : Word) :
    WroteG s (s.modHart fun h => { h.wg d x with pc := pc }) pc d x := by
  constructor
  · simp
  · intro r
    simp only [State.hart_modHart]
    exact Hart.rg_wg s.hart d r x
  · intro h
    simp only [State.hart_modHart]
    unfold Hart.wg
    split
    · rfl
    · rfl
  · intro h
    simp only [State.hart_modHart]
    unfold Hart.wg
    split
    · rfl
    · simp [h]
  · simp only [State.hart_modHart]
    rw [Hart.wg_eq]

theorem wroteG_modHart (s : State) (n : Nat) (d : GReg) (x : Word) :
    WroteG s (s.modHart fun h => (h.wg d x).advance n) (s.hart.pc + BitVec.ofNat 64 n) d x := by
  have h : (s.modHart fun h => (h.wg d x).advance n) =
      s.modHart fun h => { h.wg d x with pc := s.hart.pc + BitVec.ofNat 64 n } := by
    simp only [State.modHart, Hart.advance, Hart.wg_pc]
  rw [h]
  exact wroteG_jump s _ d x

theorem onlyHart_modHart (s : State) (f : Hart → Hart) : OnlyHart s (s.modHart f) := by
  simp [OnlyHart, State.modHart]

theorem regOp_gives (f : Word → Word → Word) (d a b : GReg) (s : State) (v : Word) (h : f (s.hart.rg a) (s.hart.rg b) = v) :
    ∃ t, regOp f d a b s = .next t ∧ WroteG s t (s.hart.pc + 4) d v ∧ OnlyHart s t := by
  subst h
  exact ⟨_, rfl, wroteG_modHart .., onlyHart_modHart ..⟩

theorem immOp_gives (f : Word → Word → Word) (d a : GReg) (c : BitVec 15) (s : State) (v : Word)
    (h : f (s.hart.rg a) (c.signExtend 64) = v) :
    ∃ t, immOp f d a c s = .next t ∧ WroteG s t (s.hart.pc + 4) d v ∧ OnlyHart s t := by
  subst h
  exact ⟨_, rfl, wroteG_modHart .., onlyHart_modHart ..⟩

theorem setG_gives (n : Nat) (f : Hart → Word) (d : GReg) (s : State) (v : Word) (h : f s.hart = v) :
    ∃ t, setG n d f s = .next t ∧ WroteG s t (s.hart.pc + BitVec.ofNat 64 n) d v ∧ OnlyHart s t := by
  subst h
  exact ⟨_, rfl, wroteG_modHart .., onlyHart_modHart ..⟩

/-- A displacement counted in units of 2^k bytes. -/
theorem signExtend_shift {n : Nat} (x : BitVec n) (k : Nat) :
    x.signExtend 64 <<< k = BitVec.ofInt 64 (2 ^ k * x.toInt) := by
  have h1 : BitVec.twoPow 64 k = BitVec.ofInt 64 (2 ^ k) := by
    apply BitVec.eq_of_toInt_eq
    rw [BitVec.toInt_ofInt, BitVec.toInt_eq_toNat_bmod, BitVec.toNat_twoPow]
    simp
    exact Int.emod_bmod (2 ^ k) 18446744073709551616
  rw [BitVec.shiftLeft_eq_mul_twoPow, h1, BitVec.ofInt_mul, BitVec.mul_comm]
  rfl

theorem branch_gives (c : Word → Word → Bool) (a b : GReg) (off : BitVec 10) (s : State) (p : Prop)
    (h : c (s.hart.rg a) (s.hart.rg b) = true ↔ p) :
    (p → ∃ t, branch c a b off s = .next t ∧
      t.hart = { s.hart with pc := s.hart.pc + BitVec.ofInt 64 (4 * off.toInt) } ∧ OnlyHart s t) ∧
    (¬p → ∃ t, branch c a b off s = .next t ∧ t.hart = { s.hart with pc := s.hart.pc + 4 } ∧ OnlyHart s t) := by
  constructor
  · intro hp
    refine ⟨_, rfl, ?_, onlyHart_modHart ..⟩
    simp only [State.hart_modHart, h.mpr hp, if_true, signExtend_shift off 2]
    rfl
  · intro hp
    refine ⟨_, rfl, ?_, onlyHart_modHart ..⟩
    have : c (s.hart.rg a) (s.hart.rg b) = false := by simpa using mt h.mp hp
    simp [this, Hart.advance]

theorem wroteG_of_hart {s t : State} {n : Nat} {d : GReg} {x : Word} (h : t.hart = (s.hart.wg d x).advance n) :
    WroteG s t (s.hart.pc + BitVec.ofNat 64 n) d x := by
  obtain ⟨h1, h2, h3, h4, h5⟩ := wroteG_modHart s n d x
  simp only [State.hart_modHart] at h1 h2 h3 h4 h5
  rw [← h] at h1 h2 h3 h4 h5
  exact ⟨h1, h2, h3, h4, h5⟩

theorem Hart.raise_wg (h : Hart) (d : GReg) (x : Word) (fl : BitVec 6) : (h.wg d x).raise fl = (h.raise fl).wg d x := by
  unfold Hart.wg Hart.raise
  split
  · rfl
  · have : Hart.shadowed { h with fflags := h.fflags ||| fl } d = h.shadowed d := rfl
    rw [this]
    split <;> rfl

theorem fpResult_gives (d : GReg) (g : Hart → FOut) (s : State) (x : Word) (fl : BitVec 6) (h1 : BitVec.ofNat 64 (g s.hart).bits = x)
   (h2 : (g s.hart).flags = fl) :
   ∃ u, fpResult d g s = .next u ∧ WroteG (s.modHart fun h => { h with fflags := h.fflags ||| fl }) u (s.hart.pc + 4) d x ∧ OnlyHart s u := by
  subst h1 h2
  refine ⟨_, rfl, ?_, onlyHart_modHart ..⟩
  have := wroteG_of_hart (s := s.modHart fun h => { h with fflags := h.fflags ||| (g s.hart).flags })
    (t := s.modHart fun h => (((h.wg d (BitVec.ofNat 64 (g h).bits)).raise (g h).flags).advance 4)) (n := 4) (d := d)
    (x := BitVec.ofNat 64 (g s.hart).bits) (by
      simp only [State.hart_modHart]
      rw [Hart.raise_wg]; rfl)
  simp only [State.hart_modHart] at this
  exact this

theorem sint_eq (w x : Nat) (h : 0 < w) : sint w x = (BitVec.ofNat w x).toInt := by
  rw [BitVec.toInt_eq_toNat_cond, BitVec.toNat_ofNat]
  unfold sint
  have : 2 ^ w = 2 * 2 ^ (w - 1) := by rw [← Nat.pow_succ']; congr 1; omega
  split <;> split <;> omega

theorem wroteFrom_gives {s u : State} {h : Hart} {n : Nat} {d : GReg} {x : Word} (hu : u = s.setHart h) (hp : h.pc = s.hart.pc) :
   OnlyHart s (u.modHart fun h => (h.wg d x).advance n) ∧ WroteFrom s h (u.modHart fun h => (h.wg d x).advance n) (s.hart.pc + BitVec.ofNat 64 n) d x := by
  subst hu
  constructor
  · simp [OnlyHart, State.modHart, State.setHart_setHart]
  · have := wroteG_modHart (s.setHart h) n d x
    simp only [State.hart_setHart, hp] at this
    exact this

end Sys2Proof.Machine
end

