-- ==== Sys2Proof/Laws/Access.lean ====
section
/-! SUPPORT. What the shared operations of memory accesses do once an access reaches memory. -/

namespace Sys2Proof.Machine

/-- A tile with other copies of lines. -/
theorem SameButLines.tile (s : State) (t : Nat) (l f : List Nat) :
    SameButLines s (setTile s t { tileAt s t with lines := l, staleFills := f }) := by
  refine ⟨rfl, fun n => ?_⟩
  by_cases h : n = t
  · subst h
    rw [tileAt_setTile_same]
  · rw [tileAt_setTile_ne _ _ _ _ h]

theorem SameButLines.refl (s : State) : SameButLines s s := ⟨rfl, fun _ => rfl⟩

theorem SameButLines.trans {s t u : State} (h : SameButLines s t) (k : SameButLines t u) : SameButLines s u := by
  refine ⟨?_, fun n => ?_⟩
  · have h1 := h.1
    have k1 := k.1
    rw [h1] at k1
    exact k1
  · have h2 := h.2 n
    have k2 := k.2 n
    rw [h2] at k2
    exact k2

/-- A change of the fields that hold no tile. -/
theorem SameButLines.fields (s : State) (m : List Host.Cell) (d : List (Nat × DirEntry)) (b : List Nat) (tl : List TlbEntry) (es : List Move)
    (r : List Resv) (f : List (Nat × Nat × Nat)) (w : List Await) :
    SameButLines s { s with mem := m, dir := d, bad := b, tlb := tl, events := es, resvs := r, refused := f, await := w } :=
  ⟨rfl, fun _ => rfl⟩

theorem SameButLines.tileAt_hart {s t : State} (h : SameButLines s t) (n : Nat) (b : Bool) :
    (tileAt t n).hart b = (tileAt s n).hart b := by
  rw [h.2 n]
  cases b <;> rfl

theorem SameButLines.getHart {s t : State} (h : SameButLines s t) (i : HartId) : getHart t i = getHart s i :=
  h.tileAt_hart i.tile i.h1

theorem SameButLines.cur {s t : State} (h : SameButLines s t) : t.cur = s.cur := by rw [h.1]

theorem SameButLines.hart {s t : State} (h : SameButLines s t) : t.hart = s.hart := by
  show Machine.getHart t t.cur = Machine.getHart s s.cur
  rw [h.cur, h.getHart]

theorem SameButLines.relaxed {s t : State} (h : SameButLines s t) : t.relaxed = s.relaxed := by rw [h.1]

/-- A fold of functions each of which leaves all but lines alone does so. -/
theorem SameButLines.foldl {α : Type} (f : State → α → State) (l : List α) (s : State) (h : ∀ u x, SameButLines u (f u x)) :
    SameButLines s (l.foldl f s) :=
  foldl_keeps (fun t => SameButLines s t) f l s (fun u x hu => hu.trans (h u x)) (.refl s)

theorem awaitOn_lines (s : State) (a : Await) : SameButLines s (awaitOn s a) := by
  unfold awaitOn
  split
  · exact .refl s
  · exact .fields s s.mem s.dir s.bad s.tlb s.events s.resvs s.refused _

theorem dropCopy_lines (s : State) (t l : Nat) : SameButLines s (dropCopy s t l) := by
  have h1 : SameButLines s (dropLine s t l) := by
    unfold dropLine
    split
    · exact .tile s t _ _
    · exact .refl s
  unfold dropCopy
  dsimp only
  split
  · exact h1.trans (.tile _ t _ _)
  · exact h1

theorem invalidateOthers_lines (s : State) (w : Option Nat) (l : Nat) : SameButLines s (invalidateOthers s w l) := by
  unfold invalidateOthers
  split
  · exact .refl s
  · split
    · exact awaitOn_lines ..
    · split
      · exact .refl s
      · exact awaitOn_lines ..

/-- What a performed write leaves alone. -/
theorem performWrite_lines (s : State) (w : Option Nat) (cells : List Host.Cell) : SameButLines s (performWrite s w cells) := by
  simp only [performWrite]
  generalize (if s.dir.isEmpty = true then [] else nubNat (cells.map fun c => lineOf c.1)) = ls
  have h0 : SameButLines s { s with mem := memPut s.mem cells } := ⟨rfl, fun _ => rfl⟩
  have h1 := h0.trans (.foldl (fun s l => invalidateOthers s w l) ls _ fun u x => invalidateOthers_lines u w x)
  have h2 := h1.trans (.foldl (fun s l =>
        if ((dirAt s l).poison && (upTo (128 * l) 128).all fun a => cells.any fun c => c.1 == a) = true then
          setDir s l { dirAt s l with poison := false } else s) ls _ fun u x => by
    dsimp only
    split
    · exact .fields _ _ _ _ _ _ _ _ _
    · exact .refl _)
  split
  · exact h2
  · exact h2.trans (.fields _ _ _ _ _ _ _ _ _)

/-- A change that touches no byte of memory. -/
structure OnLines (s t : State) : Prop where
  lines : SameButLines s t
  mem : t.mem = s.mem

theorem OnLines.refl (s : State) : OnLines s s := ⟨.refl s, rfl⟩
theorem OnLines.trans {s t u : State} (h : OnLines s t) (k : OnLines t u) : OnLines s u := ⟨h.lines.trans k.lines, k.mem.trans h.mem⟩

theorem OnLines.foldl {α : Type} (f : State → α → State) (l : List α) (s : State) (h : ∀ u x, OnLines u (f u x)) :
    OnLines s (l.foldl f s) :=
  foldl_keeps (fun t => OnLines s t) f l s (fun u x hu => hu.trans (h u x)) (.refl s)

theorem awaitOn_on (s : State) (a : Await) : OnLines s (awaitOn s a) := ⟨awaitOn_lines s a, awaitOn_mem s a⟩

theorem cutResvs_on (s : State) (c : List (Nat × Engine)) : OnLines s (cutResvs s c) := by
  unfold cutResvs
  split
  · exact .refl s
  · exact ⟨.fields _ _ _ _ _ _ _ _ _, rfl⟩

theorem completeLines_on (s : State) (id : Nat) (ls : List Nat) : OnLines s (completeLines s id ls) := by
  unfold completeLines
  split
  · exact .refl s
  · refine .foldl _ _ _ fun u x => ?_
    dsimp only
    split
    · exact .refl u
    · exact ⟨.fields _ _ _ _ _ _ _ _ _, rfl⟩

/-- What an access of hardware meets changes no byte of memory and no cache. -/
theorem meet_on (s : State) (who : Accessor) (ls : List Nat) (w : Bool) : OnLines s (meet s who ls w) := by
  unfold meet meetAt
  split
  · exact .refl s
  · exact (cutResvs_on ..).trans (.foldl _ _ _ fun u l => awaitOn_on u _)
  · dsimp only
    split
    · exact (cutResvs_on ..).trans (completeLines_on ..)
    · exact (cutResvs_on ..).trans (.foldl _ _ _ fun u l => awaitOn_on u _)

theorem meetWalk_on (s : State) (sp : Space) (k : AccKind) (va : Nat) : OnLines s (meetWalk s sp k va) := by
  have h : ∀ u : State, OnLines u (match sp.table with
      | none => u
      | some (root, asid) =>
        if (pinnedTrans sp k va).isSome || (cachedTrans u sp k asid va).isSome || decide (2 ^ 52 ≤ va) then u
        else meet u sp.who (nubNat ((walkReads u sp.part va 4 0 root.toNat).map lineOf)) false) := by
    intro u
    split
    · exact .refl u
    · split
      · exact .refl u
      · exact meet_on ..
  unfold meetWalk
  split
  · exact .refl s
  · dsimp only
    cases sp.ctxLine with
    | none => exact h s
    | some l => exact (meet_on ..).trans (h _)

theorem wantFill_on (a : Actor) (ty pa : Nat) (s : State) : OnLines s (wantFill a ty pa s) := by
  unfold wantFill
  split
  · split
    · exact ⟨.fields _ _ _ _ _ _ _ _ _, rfl⟩
    · exact .refl s
  · exact .refl s

/-- With no reservation and an empty directory an access of hardware meets nothing. -/
theorem meet_alone (s : State) (who : Accessor) (ls : List Nat) (w : Bool) (hd : s.dir = []) (hr : s.resvs = []) (hf : s.refused = []) :
    meet s who ls w = s := by
  have hb : ls.filter (fun l => lineDenied s who.id l) = [] := List.filter_eq_nil_iff.2 fun l _ => by simp [lineDenied, hd, alGet]
  simp [meet, meetAt, conflict, hr, hb, completeLines, hf]

theorem meetWalk_alone (s : State) (sp : Space) (k : AccKind) (va : Nat) (hd : s.dir = []) (hr : s.resvs = []) : meetWalk s sp k va = s := by
  simp [meetWalk, hd, hr]

/-- What the A and D bits of a leaf leave alone. -/
theorem markLeaf_frame (s : State) (sp : Space) (k : AccKind) (va : Nat) (e : Option (Nat × Nat × Nat)) :
    SameButLines s (markLeaf s sp k va e) ∧
    (s.memoryForm → (markLeaf s sp k va e).memoryForm ∧
      ∀ c, ¬entryBytes e c → memGet (markLeaf s sp k va e).mem c = memGet s.mem c) ∧
    (Alone s → markLeaf s sp k va e = { s with mem := (markLeaf s sp k va e).mem }) := by
  cases e with
  | none => exact ⟨.refl s, fun h => ⟨h, fun _ _ => rfl⟩, fun _ => rfl⟩
  | some x =>
    obtain ⟨entry, e, bits⟩ := x
    simp only [markLeaf]
    have hw := meetWalk_on s sp k va
    have hwa : Alone s → meetWalk s sp k va = s := fun h => meetWalk_alone s sp k va h.dir h.resvs
    generalize meetWalk s sp k va = w at hw hwa
    -- the state after the entry has been written, or not
    have key : ∀ u : State, (u = w ∨ ∃ x, u = performWrite (meet w sp.who [lineOf entry] true) sp.who.tile (cellsOf 8 entry x)) →
        SameButLines s u ∧
        (s.memoryForm → u.memoryForm ∧ ∀ c, ¬entryBytes (some (entry, e, bits)) c → memGet u.mem c = memGet s.mem c) ∧
        (Alone s → u = { s with mem := u.mem }) := by
      intro u hu
      rcases hu with hu | ⟨x, hu⟩
      · subst hu
        refine ⟨hw.lines, fun h => ⟨?_, fun c _ => by rw [hw.mem]⟩, fun h => by rw [hwa h]⟩
        show Memory.wf u.mem = true
        rw [hw.mem]; exact h
      · have hm := meet_on w sp.who [lineOf entry] true
        have um : u.mem = memWrite s.mem 8 entry x := by
          rw [hu, performWrite_mem, memPut_cellsOf, hm.mem, hw.mem]
        refine ⟨?_, fun h => ⟨?_, fun c hc => ?_⟩, fun h => ?_⟩
        · rw [hu]
          exact (hw.lines.trans hm.lines).trans (performWrite_lines ..)
        · show Memory.wf u.mem = true
          rw [um]; exact memWrite_wf 8 entry x s.mem h
        · rw [um]
          refine memGet_memWrite_ne 8 entry _ c s.mem h ?_
          simp only [entryBytes] at hc
          omega
        · have hws := hwa h
          subst hws
          rw [meet_alone _ _ _ _ h.dir h.resvs h.refused, performWrite_calm _ _ _ h.dir h.bad] at hu
          rw [hu]
    generalize ((fld (physRead w 8 entry) 0 1 == 1 && fld (physRead w 8 entry) 1 4 != 0 &&
      match leafTrans sp k va entry (physRead w 8 entry) bits with | .ok _ _ _ => true | .trap _ => false) : Bool) = grants
    have hk := key (if e &&& markBits k = markBits k then w
        else if (!grants || refuses w sp.who [lineOf entry] true) = true then w
        else performWrite (meet w sp.who [lineOf entry] true) sp.who.tile (cellsOf 8 entry (physRead w 8 entry ||| markBits k))) (by
      split
      · exact .inl rfl
      · split
        · exact .inl rfl
        · exact .inr ⟨_, rfl⟩)
    generalize (if e &&& markBits k = markBits k then w
        else if (!grants || refuses w sp.who [lineOf entry] true) = true then w
        else performWrite (meet w sp.who [lineOf entry] true) sp.who.tile (cellsOf 8 entry (physRead w 8 entry ||| markBits k))) = u at hk
    obtain ⟨h1, h2, h3⟩ := hk
    cases sp.table with
    | none => exact ⟨h1, h2, h3⟩
    | some x =>
      obtain ⟨root, asid⟩ := x
      by_cases hr : u.relaxed = true
      · have hf : (!u.relaxed) = false := by simp [hr]
        have hd : SameButLines u (dropTrans u sp va) ∧ (dropTrans u sp va).mem = u.mem := by
          unfold dropTrans
          split
          · exact ⟨.refl u, rfl⟩
          · split
            · exact ⟨.refl u, rfl⟩
            · exact ⟨.fields _ _ _ _ _ _ _ _ _, rfl⟩
        rw [hf]
        obtain ⟨d1, d2⟩ := hd
        refine ⟨(h1.trans d1).trans (.fields (dropTrans u sp va) _ _ _ _ _ _ _ _), fun h => ?_, fun h => ?_⟩
        · have := h2 h
          refine ⟨?_, fun c hc => ?_⟩
          · show Memory.wf (dropTrans u _ va).mem = true
            rw [d2]; exact this.1
          · show memGet (dropTrans u _ va).mem c = _
            rw [d2]; exact this.2 c hc
        · rw [h1.relaxed, h.prompt] at hr
          exact absurd hr (by decide)
      · have hf : (!u.relaxed) = true := by simp [hr]
        simp only [hf, if_true]
        exact ⟨h1, h2, h3⟩

theorem completeLines_fresh (s : State) (id : Nat) (ls : List Nat) (h : ∀ l ∈ ls, ageOf s id l = 0) : completeLines s id ls = s := by
  unfold completeLines
  split
  · rfl
  · induction ls with
    | nil => rfl
    | cons l t ih =>
      simp only [List.foldl_cons, h l List.mem_cons_self, if_true]
      exact ih fun x hx => h x (List.mem_cons_of_mem l hx)

theorem Actor.trans_ok {s : State} {a : Actor} {k : AccKind} {va : Word} {pa ty : Nat} {e : Option (Nat × Nat × Nat)}
    (h : translate s a.sp k va = .ok pa ty e) (hp : ty ≠ 3) : a.trans s k va = .ok pa ty e := by
  unfold Actor.trans
  split
  · unfold agentTrans
    rw [h]
    split
    · rename_i he
      cases he
      exact absurd rfl hp
    · rfl
  · exact h

/-- A load that reaches memory. -/
theorem loadAs_reaches {s : State} {a : Actor} {n : Nat} {va : Word} {pa ty : Nat} {e : Option (Nat × Nat × Nat)}
    (h : Reaches s a .load n va pa ty e) :
    loadAs a .load n va s = .ok (readOwn s a.hart n pa) (wantFill a ty pa (markLeaf s a.sp .load va.toNat e)) := by
  have h3 : (ty == 3) = false := by simpa using h.plain
  have hs : conflict s a.who (lineList pa n) false = .serve [] := h.served
  unfold loadAs
  rw [h.unanswered, Actor.trans_ok h.trans h.plain]
  simp only [h3, h.notHeld, hs, h.free, cutResvs_nil, completeLines_fresh _ _ _ h.unrefused, h.good]
  rfl

/-- The lines of n bytes that lie in one are that one. -/
theorem linesOf_one (pa n : Nat) (h : 0 < n) (hl : lineOf pa = lineOf (pa + n - 1)) : linesOf pa n = [lineOf pa] := by
  have key : ∀ (l : List Nat), (∀ x ∈ l, x = lineOf pa) → l ≠ [] → nubNat l = [lineOf pa] := by
    intro l
    induction l with
    | nil => intro _ h; exact absurd rfl h
    | cons a t ih =>
      intro hx _
      have ha := hx a List.mem_cons_self
      subst ha
      by_cases ht : t = []
      · subst ht; rfl
      · have := ih (fun x hm => hx x (List.mem_cons_of_mem _ hm)) ht
        simp [nubNat, this]
  unfold linesOf
  refine key _ ?_ ?_
  · intro x hx
    simp only [List.mem_map] at hx
    obtain ⟨y, hy, rfl⟩ := hx
    have := (mem_upTo pa n y).1 hy
    unfold lineOf at hl ⊢
    omega
  · cases n with
    | zero => omega
    | succ n => simp [upTo]

/-- The lines of the cells of a write are those of its access. -/
theorem cells_lines (n pa x : Nat) (h : 0 < n) : nubNat ((cellsOf n pa x).map fun c => lineOf c.1) = lineList pa n := by
  have e : (cellsOf n pa x).map (fun c => lineOf c.1) = (upTo pa n).map lineOf := by
    rw [← cellsOf_fst n pa x, List.map_map]
    rfl
  rw [e]
  unfold lineList
  split
  · exact linesOf_one pa n h ‹_›
  · rfl

theorem SameButLines.ownOnWay {s t : State} (h : SameButLines s t) (who : Option HartId) (ls : List Nat) :
    ownOnWay t who ls = ownOnWay s who ls := by
  have hh : t.hostWrites = s.hostWrites := by rw [h.1]
  unfold Machine.ownOnWay hostPending
  rw [hh]
  cases who with
  | none => rfl
  | some i => simp only [h.getHart]

theorem SameButLines.ownHeldAt {s t : State} (h : SameButLines s t) (who : Option HartId) (ls : List Nat) :
    ownHeldAt t who ls = ownHeldAt s who ls := by
  have hh : t.held = s.held := by rw [h.1]
  unfold Machine.ownHeldAt
  rw [hh]

/-- A store that reaches memory while effects do not lag. -/
theorem storeAs_reaches {s : State} {a : Actor} {n : Nat} {va : Word} {pa ty : Nat} {e : Option (Nat × Nat × Nat)} (x : Nat)
    (h : Reaches s a .store n va pa ty e) (hr : s.relaxed = false) (hn : 0 < n) :
    storeAs a n va x s =
      .ok () (performWrite (markLeaf s a.sp .store va.toNat e) (a.hart.map HartId.tile) (cellsOf n pa x)) := by
  have h3 : (ty == 3) = false := by simpa using h.plain
  have hs : conflict s a.who (lineList pa n) true = .serve [] := h.served
  have hm : (markLeaf s a.sp .store va.toNat e).relaxed = false := by
    rw [(markLeaf_frame s a.sp .store va.toNat e).1.relaxed]
    exact hr
  have hp : storeProbe a n va s = .ok { pa := pa, ty := ty, hold := none } (markLeaf s a.sp .store va.toNat e) := by
    unfold storeProbe
    rw [Actor.trans_ok h.trans h.plain]
    simp only [h3, hs, h.free, cutResvs_nil, completeLines_fresh _ _ _ h.unrefused, Bool.and_false]
    rfl
  unfold storeAs
  rw [hp]
  have hl := (markLeaf_frame s a.sp .store va.toNat e).1
  have hf := h.first rfl
  have ho := (hl.ownOnWay a.hart (lineList pa n)).trans hf.1
  have hd := (hl.ownHeldAt a.hart (lineList pa n)).trans hf.2
  simp only [Access.bind, h3, storeTo, acceptWrite, cells_lines n pa x hn]
  cases ha : a.hart with
  | none => rfl
  | some i =>
    rw [ha] at ho hd
    simp [hm, ho, hd]

/-- An atomic that reaches memory while its hart holds no pending write. -/
theorem atomicAs_reaches {s : State} {a : Actor} {n : Nat} {va : Word} {pa ty : Nat} {e : Option (Nat × Nat × Nat)}
    (f : Rmw) (h : Reaches s a .store n va pa ty e) (hw : ∀ i, a.hart = some i → (getHart s i).wcb = []) :
    atomicAs a n va f s =
      .ok (physRead (markLeaf s a.sp .store va.toNat e) n pa)
        (match f.new n (physRead (markLeaf s a.sp .store va.toNat e) n pa) with
         | none => markLeaf s a.sp .store va.toNat e
         | some x => performWrite (markLeaf s a.sp .store va.toNat e) (a.hart.map HartId.tile) (cellsOf n pa x)) := by
  have h3 : (ty == 3) = false := by simpa using h.plain
  have hs : conflict s a.who (lineList pa n) true = .serve [] := h.served
  have hf := h.free
  have hc := completeLines_fresh _ _ _ h.unrefused
  have ho := (h.first rfl).1
  have hd := (h.first rfl).2
  have hh : hostPending s a.hart (lineList pa n) = false := by
    unfold ownOnWay at ho
    exact (Bool.or_eq_false_iff.1 ho).1
  unfold atomicAs
  rw [h.unanswered, Actor.trans_ok h.trans h.plain]
  simp only [h3, h.notHeld, hs, h.free, hh, hd, cutResvs_nil, hc, Option.isSome_none, Bool.or_false]
  cases ha : a.hart with
  | none =>
    simp only [h.good]
    cases f.new n (physRead (markLeaf s a.sp .store va.toNat e) n pa) <;> rfl
  | some i =>
    have hl : flushLine s i (lineOf pa) = s := by simp [flushLine, hw i ha]
    simp only [hl, h.good]
    cases f.new n (physRead (markLeaf s a.sp .store va.toNat e) n pa) <;> rfl

theorem extendBytes_eq (n : Nat) (hn : n = 1 ∨ n = 2 ∨ n = 4 ∨ n = 8) (z : Bool) (x : Nat) :
    extendBytes n z x = if z then BitVec.ofNat 64 x else (BitVec.ofNat (8 * n) x).signExtend 64 := by
  cases z with
  | true => rfl
  | false =>
    show BitVec.ofInt 64 (sint (8 * n) x) = BitVec.ofInt 64 (BitVec.ofNat (8 * n) x).toInt
    congr 1
    rw [BitVec.toInt_eq_toNat_cond, BitVec.toNat_ofNat]
    unfold sint
    rcases hn with h | h | h | h <;> subst h <;> simp only [Nat.reduceMul, Nat.reducePow, Nat.reduceSub] <;> split <;> split <;> omega

theorem loadG_gives (s : State) (n : Nat) (hn : n = 1 ∨ n = 2 ∨ n = 4 ∨ n = 8) (z : Bool) (d : GReg) (va : Word) (pa ty : Nat) (e : Option (Nat × Nat × Nat))
   (h : Reaches s (scalarActor s s.cur) .load n va pa ty e) :
   ∃ t, loadG n z d va s = .next t ∧ ReadFrame s t e ∧ WroteG s t (s.hart.pc + 4) d
          (if z then BitVec.ofNat 64 (readOwn s (some s.cur) n pa)
           else (BitVec.ofNat (8 * n) (readOwn s (some s.cur) n pa)).signExtend 64) := by
  have hl := loadAs_reaches h
  simp only [loadG, aligned, h.aligned, if_true, hl, Access.finish]
  have w := wantFill_on (scalarActor s s.cur) ty pa (markLeaf s (scalarActor s s.cur).sp .load va.toNat e)
  have wa : ∀ u : State, u.relaxed = false → wantFill (scalarActor s s.cur) ty pa u = u := by
    intro u hu
    simp [wantFill, scalarActor, hu]
  obtain ⟨m1, m2, m3⟩ := markLeaf_frame s (scalarActor s s.cur).sp .load va.toNat e
  generalize markLeaf s (scalarActor s s.cur).sp .load va.toNat e = m at *
  have wm := wa m
  generalize wantFill (scalarActor s s.cur) ty pa m = u at *
  have su := m1.trans w.lines
  have hh : u.hart = s.hart := su.hart
  refine ⟨_, rfl, ⟨⟨u, su, ?_⟩, ?_, ?_⟩, ?_⟩
  · rw [State.hart_modHart, State.modHart_eq]
  · intro hw c hc
    rw [State.modHart_mem, w.mem]
    exact (m2 hw).2 c hc
  · intro ha
    have hu : u = m := wm (by rw [m1.relaxed]; exact ha.prompt)
    rw [State.hart_modHart, State.modHart_mem, State.modHart_eq, hh, hu]
    have hm := m3 ha
    rw [hm]
    rfl
  · have := wroteG_modHart u 4 d (extendBytes n z (readOwn s (some s.cur) n pa))
    rw [extendBytes_eq n hn] at this ⊢
    obtain ⟨a1, a2, a3, a4, a5⟩ := this
    rw [hh] at a1 a2 a3 a4 a5
    exact ⟨a1, a2, a3, a4, a5⟩

theorem writeFrame_store (s : State) (a : Actor) (n x pa : Nat) (va : Word) (e : Option (Nat × Nat × Nat)) (w : Option Nat) (f : Hart → Hart)
   (t : State) (htt : t = (performWrite (markLeaf s a.sp .store va.toNat e) w (cellsOf n pa x)).modHart f) :
   t.hart = f s.hart ∧ WriteFrame s t pa n x e := by
  obtain ⟨m1, m2, m3⟩ := markLeaf_frame s a.sp .store va.toNat e
  have p1 := performWrite_lines (markLeaf s a.sp .store va.toNat e) w (cellsOf n pa x)
  have pm := performWrite_mem (markLeaf s a.sp .store va.toNat e) w (cellsOf n pa x)
  have pc := performWrite_calm (markLeaf s a.sp .store va.toNat e) w (cellsOf n pa x)
  generalize markLeaf s a.sp .store va.toNat e = m at *
  generalize performWrite m w (cellsOf n pa x) = u at *
  have su := m1.trans p1
  have hh : u.hart = s.hart := su.hart
  have ht : t.hart = f s.hart := by rw [htt, State.hart_modHart, hh]
  have htm : t.mem = memWrite m.mem n pa x := by rw [htt, State.modHart_mem, pm, memPut_cellsOf]
  refine ⟨ht, ?_, ?_, ⟨u, su, ?_⟩, ?_⟩
  · intro hw j hj
    rw [htm]
    exact memGet_memWrite_at n pa x j m.mem (m2 hw).1 hj
  · intro hw c hc hp
    rw [htm, memGet_memWrite_ne n pa x c m.mem (m2 hw).1 hp]
    exact (m2 hw).2 c hc
  · rw [ht, htt, State.modHart_eq, hh]
  · intro ha
    have hm := m3 ha
    have := pc (by rw [hm]; exact ha.dir) (by rw [hm]; exact ha.bad)
    rw [ht, htm, htt, State.modHart_eq, hh, this, hm, memPut_cellsOf]
    rfl

theorem memRead_byte (m : List Host.Cell) (n a j : Nat) (h : j < n) : BitVec.ofNat 8 (memRead m n a / 2 ^ (8 * j)) = memGet m (a + j) := by
  induction n generalizing a j with
  | zero => omega
  | succ n ih =>
    show BitVec.ofNat 8 (((memGet m a).toNat + 2 ^ 8 * memRead m n (a + 1)) / 2 ^ (8 * j)) = _
    cases j with
    | zero =>
      apply BitVec.eq_of_toNat_eq
      have h3 := (memGet m a).isLt
      simp
      exact h3
    | succ j =>
      have h1 : 2 ^ (8 * (j + 1)) = 2 ^ 8 * 2 ^ (8 * j) := by rw [← Nat.pow_add]; congr 1; omega
      have h2 : ((memGet m a).toNat + 2 ^ 8 * memRead m n (a + 1)) / 2 ^ 8 = memRead m n (a + 1) := by
        have := (memGet m a).isLt
        omega
      rw [h1, ← Nat.div_div_eq_div_mul, h2, ih (a + 1) j (by omega)]
      congr 1
      omega

theorem writeFrame_mark (s : State) (a : Actor) (n pa : Nat) (va : Word) (e : Option (Nat × Nat × Nat)) (x : Nat) (hx : physRead (markLeaf s a.sp .store va.toNat e) n pa = x) (f : Hart → Hart)
   (t : State) (htt : t = (markLeaf s a.sp .store va.toNat e).modHart f) :
   t.hart = f s.hart ∧ WriteFrame s t pa n x e := by
  obtain ⟨m1, m2, m3⟩ := markLeaf_frame s a.sp .store va.toNat e
  generalize markLeaf s a.sp .store va.toNat e = m at *
  have hh : m.hart = s.hart := m1.hart
  have ht : t.hart = f s.hart := by rw [htt, State.hart_modHart, hh]
  have htm : t.mem = m.mem := by rw [htt, State.modHart_mem]
  refine ⟨ht, ?_, ?_, ⟨m, m1, ?_⟩, ?_⟩
  · intro hw j hj
    rw [htm, ← hx]
    exact (memRead_byte m.mem n pa j hj).symm
  · intro hw c hc hp
    rw [htm]
    exact (m2 hw).2 c hc
  · rw [ht, htt, State.modHart_eq, hh]
  · intro ha
    have hm := m3 ha
    rw [ht, htm, htt, State.modHart_eq, hh, hm]
    rfl

theorem storeG_gives (s : State) (n : Nat) (hn : 0 < n) (d : GReg) (va : Word) (pa ty : Nat) (e : Option (Nat × Nat × Nat)) (hr : s.relaxed = false)
   (h : Reaches s (scalarActor s s.cur) .store n va pa ty e) :
   ∃ t, storeG n d va s = .next t ∧ t.hart = { s.hart with pc := s.hart.pc + 4 } ∧
        WriteFrame s t pa n ((s.hart.rg d).toNat % 2 ^ (8 * n)) e := by
  simp only [storeG, aligned, h.aligned, if_true, storeAs_reaches _ h hr hn, Access.finish]
  exact ⟨_, rfl, writeFrame_store s (scalarActor s s.cur) n _ pa va e _ _ _ rfl⟩

theorem amoG_gives (op : AmoOp) (s : State) (d a b : GReg) (sz : WSize) (z : Bool) (pa ty : Nat) (e : Option (Nat × Nat × Nat)) (hw : s.hart.wcb = [])
   (h : Reaches s (scalarActor s s.cur) .store (wsizeBytes sz) (s.hart.rg a) pa ty e) (new : Nat)
   (hnew : (amoNew op z (8 * wsizeBytes sz) (physRead (markLeaf s (scalarActor s s.cur).sp .store (s.hart.rg a).toNat e) (wsizeBytes sz) pa)
       ((s.hart.rg b).toNat % 2 ^ (8 * wsizeBytes sz)) ((s.hart.rg d).toNat % 2 ^ (8 * wsizeBytes sz))).getD
         (physRead (markLeaf s (scalarActor s s.cur).sp .store (s.hart.rg a).toNat e) (wsizeBytes sz) pa) = new) :
   ∃ t, amoG op d a b sz z s = .next t ∧ WriteFrame s t pa (wsizeBytes sz) new e ∧
     WroteG s t (s.hart.pc + 4) d (if z then BitVec.ofNat 64 (physRead (markLeaf s (scalarActor s s.cur).sp .store (s.hart.rg a).toNat e) (wsizeBytes sz) pa)
       else (BitVec.ofNat (8 * wsizeBytes sz) (physRead (markLeaf s (scalarActor s s.cur).sp .store (s.hart.rg a).toNat e) (wsizeBytes sz) pa)).signExtend 64) := by
  have hi : ∀ i, (scalarActor s s.cur).hart = some i → (getHart s i).wcb = [] := by
    intro i h; cases h; exact hw
  simp only [amoG, aligned, h.aligned, if_true, atomicAs_reaches _ h hi, Access.finish, Rmw.new]
  have hn : wsizeBytes sz = 1 ∨ wsizeBytes sz = 2 ∨ wsizeBytes sz = 4 ∨ wsizeBytes sz = 8 := by cases sz <;> decide
  have wr : ∀ u : State, u.hart = s.hart → ∀ x, WroteG s (u.modHart fun h => (h.wg d x).advance 4) (s.hart.pc + 4) d x := by
    intro u hu x
    have := wroteG_modHart u 4 d x
    obtain ⟨a1, a2, a3, a4, a5⟩ := this
    rw [hu] at a1 a2 a3 a4 a5
    exact ⟨a1, a2, a3, a4, a5⟩
  generalize hold : physRead (markLeaf s (scalarActor s s.cur).sp .store (s.hart.rg a).toNat e) (wsizeBytes sz) pa = old at *
  cases hc : amoNew op z (8 * wsizeBytes sz) old ((s.hart.rg b).toNat % 2 ^ (8 * wsizeBytes sz)) ((s.hart.rg d).toNat % 2 ^ (8 * wsizeBytes sz)) with
  | some x =>
    rw [hc] at hnew
    simp only [Option.getD_some] at hnew
    subst hnew
    have sf := writeFrame_store s (scalarActor s s.cur) (wsizeBytes sz) x pa (s.hart.rg a) e ((scalarActor s s.cur).hart.map HartId.tile) (fun h => (h.wg d (extendBytes (wsizeBytes sz) z old)).advance 4) _ rfl
    have sg := writeFrame_store s (scalarActor s s.cur) (wsizeBytes sz) x pa (s.hart.rg a) e ((scalarActor s s.cur).hart.map HartId.tile) id _ rfl
    refine ⟨_, rfl, sf.2, ?_⟩
    rw [← extendBytes_eq _ hn]
    apply wr
    have := sg.1
    simpa [State.modHart] using this
  | none =>
    rw [hc] at hnew
    simp only [Option.getD_none] at hnew
    subst hnew
    have m1 := (markLeaf_frame s (scalarActor s s.cur).sp .store (s.hart.rg a).toNat e).1
    refine ⟨_, rfl, ?_, ?_⟩
    · exact (writeFrame_mark s _ _ _ _ _ old hold _ _ rfl).2
    · rw [← extendBytes_eq _ hn]
      apply wr
      exact m1.hart

end Sys2Proof.Machine
end

