-- ==== Sys2Proof/Laws/Queue.lean ====
section
/-! SUPPORT. The vector instruction queue: what waits for a queued instruction, and what its retirement gives the access side. -/

namespace Sys2Proof.Machine

/-- Nothing waits for an empty queue (01 R19, 04 R88). -/
@[simp] theorem awaitsQueued_empty (i : Instr) (s : State) (h : s.hart.vq = []) : awaitsQueued i s = false := by
  simp [awaitsQueued, behindSc, Hart.awaitsExfp8, h]

/-- An instruction waits for a VLDZ or VSTZ only where one is queued (01 R19). -/
theorem awaitsExfp8_false (h : Hart) (acc : Vector AccTile 4) (i : Instr) (none' : ∀ x ∈ h.vq, exfp8Reg x.instr = none) :
    h.awaitsExfp8 acc i = false := by
  simp only [Hart.awaitsExfp8, List.any_eq_false]
  intro x hx
  simp [none' x hx]

/-- An instruction that is neither VLDZ nor VSTZ gives the access side no register (01 R18). -/
theorem deliver_other (x : Queued) (done h : Hart) (e : exfp8Reg x.instr = none) : x.deliver done h = h := by
  simp [Queued.deliver, e]

/-- What a VLDZ or VSTZ gives it: its g register and, unless a SETVL has replaced it, VL (08 R201, R202). -/
theorem deliver_exfp8 (x : Queued) (done h : Hart) (p : GReg) (e : exfp8Reg x.instr = some p) :
    x.deliver done h = { h.wg p (done.rg p) with vl := if x.setsVl then done.vl else h.vl } := by
  simp [Queued.deliver, e]

/-- The queue of the hart, and the turn, after a queued instruction has executed (01 R18). -/
@[simp] theorem unstaged_cur (old t : State) (i : HartId) (l : List Queued) : (unstaged old i l t).cur = old.cur := rfl
@[simp] theorem unstaged_mem (old t : State) (i : HartId) (l : List Queued) : (unstaged old i l t).mem = t.mem := rfl

end Sys2Proof.Machine
end

