-- ==== Sys2Proof/Laws/Vector.lean ====
section
/-! SUPPORT. What the shared operations of the vector instructions do: elements written, flags gathered, and the operation and
operand form of each instruction. -/

namespace Sys2Proof.Machine

theorem fld_lt (x lo n : Nat) : fld x lo n < 2 ^ n := Nat.mod_lt _ (Nat.two_pow_pos n)

theorem testBit_fld (x lo n b : Nat) : (fld x lo n).testBit b = (decide (b < n) && x.testBit (lo + b)) := by
  simp [fld, Nat.testBit_mod_two_pow, Nat.testBit_div_two_pow, Nat.add_comm]

theorem testBit_putBits (x lo n y b : Nat) :
    (putBits x lo n y).testBit b = if lo ≤ b ∧ b < lo + n then y.testBit (b - lo) else x.testBit b := by
  have hx : x = 2 ^ lo * (2 ^ n * (x / 2 ^ lo / 2 ^ n) + fld x lo n) + x % 2 ^ lo := by
    rw [fld, Nat.div_add_mod, Nat.div_add_mod]
  have hL : x % 2 ^ lo < 2 ^ lo := Nat.mod_lt _ (Nat.two_pow_pos lo)
  have hF := fld_lt x lo n
  have hY : y % 2 ^ n < 2 ^ n := Nat.mod_lt _ (Nat.two_pow_pos n)
  have hp : putBits x lo n y = 2 ^ lo * (2 ^ n * (x / 2 ^ lo / 2 ^ n) + y % 2 ^ n) + x % 2 ^ lo := by
    unfold putBits
    conv => lhs; arg 1; arg 1; rw [hx]
    rw [Nat.mul_add, Nat.mul_add, Nat.mul_comm (fld x lo n), Nat.mul_comm (y % 2 ^ n)]
    omega
  have hxb : x.testBit b = if b < lo then (x % 2 ^ lo).testBit b
      else (2 ^ n * (x / 2 ^ lo / 2 ^ n) + fld x lo n).testBit (b - lo) := by
    conv => lhs; rw [hx]
    rw [Nat.testBit_two_pow_mul_add _ hL]
  rw [hp, Nat.testBit_two_pow_mul_add _ hL, hxb]
  by_cases h1 : b < lo
  · have : ¬(lo ≤ b ∧ b < lo + n) := by omega
    simp [h1, this]
  · simp only [h1, if_false]
    rw [Nat.testBit_two_pow_mul_add _ hY, Nat.testBit_two_pow_mul_add _ hF]
    by_cases h2 : b - lo < n
    · have : lo ≤ b ∧ b < lo + n := by omega
      simp [h2, this, Nat.testBit_mod_two_pow]
    · have : ¬(lo ≤ b ∧ b < lo + n) := by omega
      simp [h2, this]

theorem fld_putBits_same (x lo n y : Nat) : fld (putBits x lo n y) lo n = y % 2 ^ n := by
  apply Nat.eq_of_testBit_eq
  intro b
  rw [testBit_fld, testBit_putBits, Nat.testBit_mod_two_pow]
  by_cases h : b < n
  · have : lo ≤ lo + b ∧ lo + b < lo + n := by omega
    simp [h]
  · simp [h]

theorem fld_putBits_ne (x lo n y lo' n' : Nat) (h : lo' + n' ≤ lo ∨ lo + n ≤ lo') : fld (putBits x lo n y) lo' n' = fld x lo' n' := by
  apply Nat.eq_of_testBit_eq
  intro b
  rw [testBit_fld, testBit_fld, testBit_putBits]
  by_cases hb : b < n'
  · have : ¬(lo ≤ lo' + b ∧ lo' + b < lo + n) := by omega
    simp [this]
  · simp [hb]

theorem putBits_lt (x lo n y k : Nat) (hx : x < 2 ^ k) (h : lo + n ≤ k) : putBits x lo n y < 2 ^ k := by
  apply Nat.lt_pow_two_of_testBit
  intro b hb
  rw [testBit_putBits]
  have : ¬(lo ≤ b ∧ b < lo + n) := by omega
  simp only [this, if_false]
  exact Nat.testBit_lt_two_pow (Nat.lt_of_lt_of_le hx (Nat.pow_le_pow_right (by decide) hb))

theorem slot_le (e w m : Nat) (h : m < e) : m * w + w ≤ e * w := by
  rw [← Nat.succ_mul]; exact Nat.mul_le_mul_right w h

theorem slots_apart (w m n : Nat) (h : m ≠ n) : m * w + w ≤ n * w ∨ n * w + w ≤ m * w := by
  rcases Nat.lt_or_gt_of_ne h with h | h
  · left; exact slot_le n w m h
  · right; exact slot_le m w n h

/-- The number that writeReg builds. -/
def regNat (w e j : Nat) (ws : List VWrite) (x : Nat) : Nat :=
  ws.foldl (fun x v => if v.i / e = j then putBits x (v.i % e * w) w v.x else x) x

theorem regNat_lt (w e j : Nat) (ws : List VWrite) (x k : Nat) (he : 0 < e) (hk : e * w ≤ k) (hx : x < 2 ^ k) :
    regNat w e j ws x < 2 ^ k := by
  induction ws generalizing x with
  | nil => exact hx
  | cons v t ih =>
    apply ih
    dsimp only
    split
    · apply putBits_lt _ _ _ _ _ hx
      exact Nat.le_trans (slot_le e w _ (Nat.mod_lt _ he)) hk
    · exact hx

theorem fld_regNat_kept (w e j m : Nat) (ws : List VWrite) (x : Nat) (h : ∀ v ∈ ws, v.i / e = j → v.i % e ≠ m) :
    fld (regNat w e j ws x) (m * w) w = fld x (m * w) w := by
  induction ws generalizing x with
  | nil => rfl
  | cons v t ih =>
    show fld (regNat w e j t _) (m * w) w = _
    rw [ih _ (fun u hu => h u (by simp [hu]))]
    dsimp only
    split
    · next hj =>
      rw [fld_putBits_ne]
      exact slots_apart w m _ (Ne.symm (h v (by simp) hj))
    · rfl

theorem fld_regNat_hit (w e j m : Nat) (ws : List VWrite) (x : Nat) (v : VWrite) (hv : v ∈ ws) (hj : v.i / e = j) (hm : v.i % e = m)
    (hd : ws.Pairwise fun a b => a.i ≠ b.i) : fld (regNat w e j ws x) (m * w) w = v.x % 2 ^ w := by
  induction ws generalizing x with
  | nil => simp at hv
  | cons u t ih =>
    show fld (regNat w e j t _) (m * w) w = _
    rw [List.pairwise_cons] at hd
    rcases List.mem_cons.mp hv with h | h
    · subst h
      rw [fld_regNat_kept]
      · dsimp only
        rw [if_pos hj, hm, fld_putBits_same]
      intro b hb h1 h2
      apply hd.1 b hb
      rw [← Nat.div_add_mod v.i e, ← Nat.div_add_mod b.i e, hj, hm, h1, h2]
    · exact ih _ h hd.2

theorem testBit_regNat_above (w e j b : Nat) (ws : List VWrite) (x : Nat) (he : 0 < e) (hb : e * w ≤ b) :
    (regNat w e j ws x).testBit b = x.testBit b := by
  induction ws generalizing x with
  | nil => rfl
  | cons v t ih =>
    show (regNat w e j t _).testBit b = _
    rw [ih]
    dsimp only
    split
    · rw [testBit_putBits]
      have := slot_le e w (v.i % e) (Nat.mod_lt _ he)
      have : ¬(v.i % e * w ≤ b ∧ b < v.i % e * w + w) := by omega
      simp only [this, if_false]
    · rfl

theorem writeReg_eq (w e j : Nat) (ws : List VWrite) (old : VWord) : writeReg w e j ws old = BitVec.ofNat 16384 (regNat w e j ws old.toNat) := rfl


theorem getLsbD_or_one (x : Validity) (n b : Nat) : (x ||| (1#128 <<< n)).getLsbD b = (x.getLsbD b || (decide (b = n) && decide (b < 128))) := by
  rw [BitVec.getLsbD_or, BitVec.getLsbD_shiftLeft, BitVec.getLsbD_one]
  by_cases h : b = n
  · subst h; by_cases h2 : b < 128 <;> simp [h2]
  · simp [h]; intro _ _; omega

theorem getLsbD_setBlocks (e c : Nat) (hc : c < 128) (l : List VWrite) (x : Validity) :
    (l.foldl (fun x v => x ||| (1#128 <<< (v.i % e / 32))) x).getLsbD c = (x.getLsbD c || l.any fun v => decide (v.i % e / 32 = c)) := by
  induction l generalizing x with
  | nil => simp
  | cons v t ih =>
    rw [List.foldl_cons, ih, getLsbD_or_one, List.any_cons]
    by_cases h : c = v.i % e / 32
    · subst h; simp [hc]
    · simp [h, Ne.symm h]

theorem getLsbD_clearBlocks (e c : Nat) (hc : c < 128) (l : List VWrite) (x : Validity) :
    (l.foldl (fun x v => if v.ok then x else x &&& ~~~(1#128 <<< (v.i % e / 32))) x).getLsbD c =
      (x.getLsbD c && l.all fun v => v.ok || !decide (v.i % e / 32 = c)) := by
  induction l generalizing x with
  | nil => simp
  | cons v t ih =>
    rw [List.foldl_cons, ih, List.all_cons]
    cases hv : v.ok
    · simp only [Bool.false_eq_true, if_false, BitVec.getLsbD_and, BitVec.getLsbD_not, BitVec.getLsbD_shiftLeft, BitVec.getLsbD_one, hc, decide_true,
        Bool.true_and, Bool.false_or]
      by_cases h : v.i % e / 32 = c
      · subst h; simp
      · have : ¬(c < v.i % e / 32) → c - v.i % e / 32 ≠ 0 := by omega
        by_cases h2 : c < v.i % e / 32
        · simp [h, h2]
        · simp [h, h2, this h2]
    · simp

/-- The bit of a block after writeVal, where written elements lie in it. -/
theorem writeVal_hit (e j c : Nat) (ws : List VWrite) (old : Validity) (hc : c < 128) (h : ∃ v ∈ ws, v.i / e = j ∧ v.i % e / 32 = c) :
    (writeVal e j ws old).getLsbD c = true ↔ ∀ v ∈ ws, v.i / e = j → v.i % e / 32 = c → v.ok = true := by
  unfold writeVal
  dsimp only
  rw [getLsbD_clearBlocks e c hc, getLsbD_setBlocks e c hc]
  obtain ⟨v, h1, h2, h3⟩ := h
  have ha : ((ws.filter fun v => v.i / e == j).any fun v => decide (v.i % e / 32 = c)) = true := by
    rw [List.any_eq_true]
    exact ⟨v, by simp [h1, h2], by simp [h3]⟩
  rw [ha, Bool.or_true, Bool.true_and, List.all_eq_true]
  constructor
  · intro h u hu h4 h5
    have := h u (by simp [hu, h4])
    simpa [h5] using this
  · intro h u hu
    simp only [List.mem_filter, beq_iff_eq] at hu
    by_cases h5 : u.i % e / 32 = c
    · simp [h u hu.1 hu.2 h5]
    · simp [h5]

/-- A block without a written element keeps its bit. -/
theorem writeVal_kept (e j c : Nat) (ws : List VWrite) (old : Validity) (hc : c < 128) (h : ∀ v ∈ ws, v.i / e = j → v.i % e / 32 ≠ c) :
    (writeVal e j ws old).getLsbD c = old.getLsbD c := by
  unfold writeVal
  dsimp only
  rw [getLsbD_clearBlocks e c hc, getLsbD_setBlocks e c hc]
  have ha : ((ws.filter fun v => v.i / e == j).any fun v => decide (v.i % e / 32 = c)) = false := by
    rw [List.any_eq_false]
    intro v hv
    simp only [List.mem_filter, beq_iff_eq] at hv
    simpa using h v hv.1 hv.2
  have hb : ((ws.filter fun v => v.i / e == j).all fun v => v.ok || !decide (v.i % e / 32 = c)) = true := by
    rw [List.all_eq_true]
    intro v hv
    simp only [List.mem_filter, beq_iff_eq] at hv
    simp [h v hv.1 hv.2]
  rw [ha, hb, Bool.or_false, Bool.and_true]

theorem regPlus_inj (d : VReg) (i j : Nat) (hi : i < 32) (hj : j < 32) (h : regPlus d i = regPlus d j) : i = j := by
  have := congrArg BitVec.toNat h
  simp only [regPlus, BitVec.toNat_add, BitVec.toNat_ofNat] at this
  have := d.isLt
  omega


theorem vector_get_set {α : Type} {n : Nat} (v : Vector α n) (i : Nat) (x : α) (hi : i < n) (j : Fin n) :
    (v.set i x hi).get j = if i = j.val then x else v.get j := by
  show (v.set i x hi)[j.val] = if i = j.val then x else v[j.val]
  rw [Vector.getElem_set]

/-- What setReg does to one register. -/
theorem Hart.setReg_eq (h : Hart) (r : VReg) (x : VWord) (v : Validity) :
    h.setReg r x v = { h with v := h.v.set r.toNat x r.isLt, val := h.val.set r.toNat v r.isLt,
                              vdirty := if h.level = .u then h.vdirty ||| (1#41 <<< r.toNat) else h.vdirty } := by
  unfold Hart.setReg Hart.dirtyV
  split <;> simp_all

theorem getLsbD_dirty (x : BitVec 41) (n b : Nat) (hn : n < 32) : (x ||| (1#41 <<< n)).getLsbD b = (x.getLsbD b || decide (b = n)) := by
  rw [BitVec.getLsbD_or, BitVec.getLsbD_shiftLeft, BitVec.getLsbD_one]
  by_cases h : b = n
  · subst h; simp; omega
  · simp [h]; intro _ _; omega

/-- The registers after the groups of a list of group members were written, each from what it held. -/
structure RegsWritten (h h' : Hart) (d : VReg) (L : List Nat) (f : Nat → VWord → VWord) (g : Nat → Validity → Validity) : Prop where
  rest : h' = { h with v := h'.v, val := h'.val, vdirty := h'.vdirty }
  hit : ∀ j ∈ L, h'.rv (regPlus d j) = f j (h.rv (regPlus d j)) ∧
    h'.val.get (regPlus d j).toFin = g j (h.val.get (regPlus d j).toFin)
  kept : ∀ r, (∀ j ∈ L, r ≠ regPlus d j) → h'.rv r = h.rv r ∧ h'.val.get r.toFin = h.val.get r.toFin
  dirty : ∀ b, h'.vdirty.getLsbD b = (h.vdirty.getLsbD b || (decide (h.level = .u) && L.any fun j => decide (b = (regPlus d j).toNat)))

theorem regsWritten_fold (d : VReg) (f : Nat → VWord → VWord) (g : Nat → Validity → Validity) (L : List Nat) (hL : ∀ j ∈ L, j < 32)
    (hd : L.Nodup) (h : Hart) :
    RegsWritten h (L.foldl (fun h j => h.setReg (regPlus d j) (f j (h.rv (regPlus d j)))
      (g j (h.val.get ⟨(regPlus d j).toNat, (regPlus d j).isLt⟩))) h) d L f g := by
  induction L generalizing h with
  | nil => exact ⟨rfl, by simp, by simp, by simp⟩
  | cons j t ih =>
    rw [List.foldl_cons]
    rw [List.nodup_cons] at hd
    have hj := hL j (by simp)
    obtain ⟨a1, a2, a3, a4⟩ := ih (fun i hi => hL i (by simp [hi])) hd.2
      (h.setReg (regPlus d j) (f j (h.rv (regPlus d j))) (g j (h.val.get ⟨(regPlus d j).toNat, (regPlus d j).isLt⟩)))
    generalize (List.foldl _ _ t) = h' at *
    generalize hm : h.setReg (regPlus d j) (f j (h.rv (regPlus d j))) (g j (h.val.get ⟨(regPlus d j).toNat, (regPlus d j).isLt⟩)) = m at *
    rw [Hart.setReg_eq] at hm
    have hv : ∀ r : VReg, m.rv r = if r = regPlus d j then f j (h.rv (regPlus d j)) else h.rv r := by
      intro r
      rw [← hm]
      simp only [Hart.rv, vector_get_set]
      by_cases h : regPlus d j = r
      · subst h; simp
      · have : (regPlus d j).toNat ≠ r.toNat := fun h2 => h (BitVec.eq_of_toNat_eq h2)
        simp [this, Ne.symm h]
    have hw : ∀ r : VReg, m.val.get r.toFin = if r = regPlus d j then g j (h.val.get (regPlus d j).toFin) else h.val.get r.toFin := by
      intro r
      rw [← hm]
      simp only [vector_get_set]
      by_cases h : regPlus d j = r
      · subst h; simp
      · have : (regPlus d j).toNat ≠ r.toNat := fun h2 => h (BitVec.eq_of_toNat_eq h2)
        simp [this, Ne.symm h]
    refine ⟨?_, ?_, ?_, ?_⟩
    · rw [a1, ← hm]
    · intro i hi
      rcases List.mem_cons.mp hi with e | e
      · subst e
        have hn : ∀ k ∈ t, regPlus d i ≠ regPlus d k := by
          intro k hk e2
          have := regPlus_inj d i k hj (hL k (by simp [hk])) e2
          subst this
          exact hd.1 hk
        obtain ⟨b1, b2⟩ := a3 _ hn
        rw [b1, b2, hv, hw]
        simp
      · have hne : regPlus d i ≠ regPlus d j := by
          intro e2
          have := regPlus_inj d i j (hL i hi) hj e2
          subst this
          exact hd.1 e
        obtain ⟨b1, b2⟩ := a2 i e
        rw [b1, b2, hv, hw, if_neg hne, if_neg hne]
        exact ⟨rfl, rfl⟩
    · intro r hr
      obtain ⟨b1, b2⟩ := a3 r (fun k hk => hr k (by simp [hk]))
      have hne := hr j (by simp)
      rw [b1, b2, hv, hw, if_neg hne, if_neg hne]
      exact ⟨rfl, rfl⟩
    · intro b
      have hlev : m.level = h.level := by rw [← hm]
      have hdir : m.vdirty.getLsbD b = (h.vdirty.getLsbD b || (decide (h.level = .u) && decide (b = (regPlus d j).toNat))) := by
        rw [← hm]
        dsimp only
        split
        · next hl => rw [getLsbD_dirty _ _ _ (regPlus d j).isLt]; simp [hl]
        · next hl => simp [hl]
      rw [a4, hlev, hdir, List.any_cons]
      cases decide (h.level = .u) <;> simp [Bool.or_assoc]

theorem mem_nubNat (l : List Nat) (x : Nat) : x ∈ nubNat l ↔ x ∈ l := by
  induction l with
  | nil => simp [nubNat]
  | cons y t ih =>
    simp only [nubNat, List.mem_cons, List.mem_filter, ih]
    by_cases h : x = y
    · simp [h]
    · simp [h]

theorem nodup_nubNat (l : List Nat) : (nubNat l).Nodup := by
  induction l with
  | nil => simp [nubNat]
  | cons y t ih =>
    rw [nubNat, List.nodup_cons]
    exact ⟨by simp, ih.filter _⟩


/-- What a well-formed shape gives: elements fit their register, VLMAX fills the group. -/
structure Fits (h : Hart) : Prop where
  width : 0 < h.shape.w
  whole : h.shape.e * h.shape.w ≤ 16384
  per : h.shape.e ≤ 4096
  full : h.shape.vlmax = h.shape.e * h.shape.g
  group : h.shape.g ≤ 8
  inVl : h.vl.toNat ≤ h.shape.vlmax

theorem fits_of_shaped (h : Hart) (hs : h.shaped) (hi : h.ill = false) : Fits h := by
  obtain ⟨h1, h2, c, hc, h3⟩ := hs.2 hi
  have hg : vtG h.vtype = 1 ∨ vtG h.vtype = 2 ∨ vtG h.vtype = 4 ∨ vtG h.vtype = 8 := by
    simp only [vtypeOk, Bool.and_eq_true, decide_eq_true_eq] at h1
    have : fld h.vtype.toNat 4 3 = 0 ∨ fld h.vtype.toNat 4 3 = 1 ∨ fld h.vtype.toNat 4 3 = 2 ∨ fld h.vtype.toNat 4 3 = 3 := by omega
    rcases this with h | h | h | h <;> simp [vtG, h]
  have hw : elemWidth (vtFmt h.vtype) = 4 ∨ elemWidth (vtFmt h.vtype) = 8 ∨ elemWidth (vtFmt h.vtype) = 16 ∨ elemWidth (vtFmt h.vtype) = 32 ∨
      elemWidth (vtFmt h.vtype) = 64 := by cases vtFmt h.vtype <;> decide
  have he : h.shape.e = c * 2048 / elemWidth (vtFmt h.vtype) := by
    show h.vlmax.toNat / vtG h.vtype = _
    rw [h3, Nat.mul_div_cancel]
    omega
  have hp : h.shape.e * elemWidth (vtFmt h.vtype) ≤ c * 2048 := by
    rw [he]; exact Nat.div_mul_le_self _ _
  refine ⟨?_, ?_, ?_, ?_, ?_, h2⟩
  · show 0 < elemWidth (vtFmt h.vtype); omega
  · exact Nat.le_trans hp (by omega)
  · rw [he]; rcases hw with h | h | h | h | h <;> rw [h] <;> omega
  · show h.vlmax.toNat = _; rw [he, h3]; rfl
  · show vtG h.vtype ≤ 8; omega

/-- A list of element writes that stands for f on the elements of p. -/
structure Stands (h : Hart) (ws : List VWrite) (p : Nat → Prop) (f : Nat → Nat) (ok : Nat → Prop) : Prop where
  inside : ∀ v ∈ ws, v.i < h.shape.vlmax
  apart : ws.Pairwise fun a b => a.i ≠ b.i
  covers : ∀ i, i < h.shape.vlmax → (p i ↔ ∃ v ∈ ws, v.i = i)
  value : ∀ v ∈ ws, v.x % 2 ^ h.shape.w = f v.i % 2 ^ h.shape.w
  okay : ∀ v ∈ ws, v.ok = true ↔ ok v.i

theorem writeElems_written (h : Hart) (hf : Fits h) (d : VReg) (ws : List VWrite) (p : Nat → Prop) (f : Nat → Nat) (ok : Nat → Prop)
    (hw : Stands h ws p f ok) :
    ∀ h', h' = h.writeElems d h.shape.w h.shape.e ws →
      h' = { h with v := h'.v, val := h'.val, vdirty := h'.vdirty } ∧ ElemsWritten h h' d p f ok := by
  intro h' hdef
  generalize hE : h.shape.e = e at *
  generalize hW : h.shape.w = w at *
  have hfull := hf.full
  have hgrp := hf.group
  have hwhole := hf.whole
  have hper := hf.per
  rw [hE] at hfull hwhole hper
  rw [hW] at hwhole
  have hdiv : ∀ i, i < h.shape.vlmax → i / e < 8 ∧ 0 < e := by
    intro i hi
    have : 0 < e := by rcases Nat.eq_zero_or_pos e with h0 | h0; · subst h0; omega
                       · exact h0
    refine ⟨?_, this⟩
    rw [Nat.div_lt_iff_lt_mul this]
    calc i < e * h.shape.g := by omega
      _ ≤ e * 8 := Nat.mul_le_mul_left _ hgrp
      _ = 8 * e := Nat.mul_comm _ _
  have hL : ∀ j ∈ nubNat (ws.map fun v => v.i / e), j < 32 := by
    intro j hj
    rw [mem_nubNat, List.mem_map] at hj
    obtain ⟨v, hv, rfl⟩ := hj
    have := (hdiv v.i (hw.inside v hv)).1
    omega
  have hr : RegsWritten h h' d (nubNat (ws.map fun v => v.i / e)) (fun j => writeReg w e j ws) (fun j => writeVal e j ws) := by
    rw [hdef]
    exact regsWritten_fold d (fun j => writeReg w e j ws) (fun j => writeVal e j ws) _ hL (nodup_nubNat _) h
  obtain ⟨r1, r2, r3, r4⟩ := hr
  clear hdef
  have memL : ∀ v ∈ ws, v.i / e ∈ nubNat (ws.map fun v => v.i / e) := fun v hv => by
    rw [mem_nubNat, List.mem_map]; exact ⟨v, hv, rfl⟩
  have outL : ∀ i, i < h.shape.vlmax → i / e ∉ nubNat (ws.map fun v => v.i / e) →
      ∀ j ∈ nubNat (ws.map fun v => v.i / e), regPlus d (i / e) ≠ regPlus d j := by
    intro i hi hn j hj heq
    have := regPlus_inj d _ _ (by have := (hdiv i hi).1; omega) (hL j hj) heq
    exact hn (this ▸ hj)
  have elemEq : ∀ i, i < h.shape.vlmax → i / e ∈ nubNat (ws.map fun v => v.i / e) →
      h'.elem d w e i = fld (regNat w e (i / e) ws (h.rv (regPlus d (i / e))).toNat) (i % e * w) w := by
    intro i hi hm
    show fld (h'.rv (regPlus d (i / e))).toNat (i % e * w) w = _
    rw [(r2 _ hm).1, writeReg_eq, BitVec.toNat_ofNat, Nat.mod_eq_of_lt]
    exact regNat_lt _ _ _ _ _ _ (hdiv i hi).2 hwhole (h.rv _).isLt
  refine ⟨r1, ?_, ?_, ?_, ?_, ?_, ?_, ?_, ?_⟩
  · intro i hi hp
    rw [hW, hE]
    obtain ⟨v, hv, rfl⟩ := (hw.covers i hi).mp hp
    rw [elemEq _ hi (memL v hv), fld_regNat_hit w e _ _ ws _ v hv rfl rfl hw.apart]
    have := hw.value v hv
    rwa [hW] at this
  · intro i hi hp
    rw [hW, hE]
    have hno : ∀ v ∈ ws, v.i ≠ i := fun v hv hvi => hp ((hw.covers i hi).mpr ⟨v, hv, hvi⟩)
    by_cases hm : i / e ∈ nubNat (ws.map fun v => v.i / e)
    · rw [elemEq i hi hm, fld_regNat_kept]
      · rfl
      · intro v hv h1 h2
        apply hno v hv
        rw [← Nat.div_add_mod v.i e, ← Nat.div_add_mod i e, h1, h2]
    · show fld (h'.rv (regPlus d (i / e))).toNat (i % e * w) w = fld (h.rv (regPlus d (i / e))).toNat (i % e * w) w
      rw [(r3 _ (outL i hi hm)).1]
  · intro r b hb
    rw [hW, hE] at hb
    by_cases hr : ∃ j ∈ nubNat (ws.map fun v => v.i / e), r = regPlus d j
    · obtain ⟨j, hj, rfl⟩ := hr
      have hj' := hj
      rw [mem_nubNat, List.mem_map] at hj'
      obtain ⟨v, hv, hvj⟩ := hj'
      have he := (hdiv v.i (hw.inside v hv)).2
      rw [(r2 _ hj).1, writeReg_eq, BitVec.getLsbD_ofNat, testBit_regNat_above w e j b ws _ he hb]
      show (decide (b < 16384) && (h.rv (regPlus d j)).getLsbD b) = (h.rv (regPlus d j)).getLsbD b
      by_cases hb2 : b < 16384
      · simp [hb2]
      · simp [hb2, BitVec.getLsbD_of_ge _ b (by omega : 16384 ≤ b)]
    · rw [(r3 r (fun j hj hr2 => hr ⟨j, hj, hr2⟩)).1]
  · intro r hr
    rw [hE] at hr
    have hn : ∀ j ∈ nubNat (ws.map fun v => v.i / e), r ≠ regPlus d j := by
      intro j hj
      rw [mem_nubNat, List.mem_map] at hj
      obtain ⟨v, hv, rfl⟩ := hj
      have hin := hw.inside v hv
      exact hr v.i hin ((hw.covers _ hin).mpr ⟨v, hv, rfl⟩)
    obtain ⟨a1, a2⟩ := r3 r hn
    refine ⟨a1, a2, ?_⟩
    rw [r4]
    have : ((nubNat (ws.map fun v => v.i / e)).any fun j => decide (r.toNat = (regPlus d j).toNat)) = false := by
      rw [List.any_eq_false]
      intro j hj
      simp only [decide_eq_true_eq]
      exact fun h2 => hn j hj (BitVec.eq_of_toNat_eq h2)
    rw [this]; simp
  · intro i hi hex
    rw [hE] at hex ⊢
    obtain ⟨j, hj, hpj, hj1, hj2⟩ := hex
    obtain ⟨v, hv, rfl⟩ := (hw.covers j hj).mp hpj
    have hm : i / e ∈ nubNat (ws.map fun v => v.i / e) := hj1 ▸ memL v hv
    have hc : i % e / 32 < 128 := by
      have := Nat.mod_lt i (hdiv i hi).2
      omega
    show (h'.val.get (regPlus d (i / e)).toFin).getLsbD (i % e / 32) = true ↔ _
    rw [(r2 _ hm).2, writeVal_hit e _ _ ws _ hc ⟨v, hv, hj1, hj2⟩]
    constructor
    · intro ha j hj hpj hs
      obtain ⟨u, hu, rfl⟩ := (hw.covers j hj).mp hpj
      exact (hw.okay u hu).mp (ha u hu hs.1 hs.2)
    · intro ha u hu h1 h2
      exact (hw.okay u hu).mpr (ha u.i (hw.inside u hu) ((hw.covers _ (hw.inside u hu)).mpr ⟨u, hu, rfl⟩) ⟨h1, h2⟩)
  · intro i hi hno
    rw [hE] at hno ⊢
    have hc : i % e / 32 < 128 := by
      have := Nat.mod_lt i (hdiv i hi).2
      omega
    show (h'.val.get (regPlus d (i / e)).toFin).getLsbD (i % e / 32) = (h.val.get (regPlus d (i / e)).toFin).getLsbD (i % e / 32)
    by_cases hm : i / e ∈ nubNat (ws.map fun v => v.i / e)
    · rw [(r2 _ hm).2, writeVal_kept e _ _ ws _ hc]
      intro v hv h1 h2
      exact hno v.i (hw.inside v hv) ((hw.covers _ (hw.inside v hv)).mpr ⟨v, hv, rfl⟩) ⟨h1, h2⟩
    · rw [(r3 _ (outL i hi hm)).2]
  · intro i hi hp
    rw [hE]
    obtain ⟨v, hv, rfl⟩ := (hw.covers i hi).mp hp
    have : ((nubNat (ws.map fun v => v.i / e)).any fun j => decide ((regPlus d (v.i / e)).toNat = (regPlus d j).toNat)) = true := by
      rw [List.any_eq_true]
      exact ⟨_, memL v hv, by simp⟩
    rw [r4, this]
    simp [or_comm]
  · intro b hb
    rw [r4]
    have : ((nubNat (ws.map fun v => v.i / e)).any fun j => decide (b = (regPlus d j).toNat)) = false := by
      rw [List.any_eq_false]
      intro j hj
      have := (regPlus d j).isLt
      simp only [decide_eq_true_eq]
      omega
    rw [this]; simp


theorem pairwise_upTo (a n : Nat) : (upTo a n).Pairwise (· ≠ ·) := by
  induction n generalizing a with
  | zero => simp [upTo]
  | succ n ih =>
    rw [upTo, List.pairwise_cons]
    refine ⟨fun x hx => ?_, ih _⟩
    rw [mem_upTo] at hx
    omega

theorem mem_active (h : Hart) (k : KReg) (i : Nat) : i ∈ h.active k 0 ↔ h.acts k i := by
  simp [Hart.active, mem_upTo, Hart.acts, Hart.maskOn]

theorem pairwise_active (h : Hart) (k : KReg) : (h.active k 0).Pairwise (· ≠ ·) := (pairwise_upTo _ _).filter _

/-- The writes of the active elements, one for each. -/
theorem stands_active (h : Hart) (hf : Fits h) (k : KReg) (F : Nat → VWrite) (f : Nat → Nat) (ok : Nat → Prop)
    (hi : ∀ i, (F i).i = i) (hx : ∀ i, (F i).x % 2 ^ h.shape.w = f i % 2 ^ h.shape.w) (ho : ∀ i, (F i).ok = true ↔ ok i) :
    Stands h ((h.active k 0).map F) (h.acts k) f ok := by
  refine ⟨?_, ?_, ?_, ?_, ?_⟩
  · intro v hv
    obtain ⟨i, hm, rfl⟩ := List.mem_map.mp hv
    rw [hi]
    exact Nat.lt_of_lt_of_le ((mem_active h k i).mp hm).1 hf.inVl
  · rw [List.pairwise_map]
    exact (pairwise_active h k).imp fun hne => by rwa [hi, hi]
  · intro i _
    rw [← mem_active]
    constructor
    · intro hm; exact ⟨F i, List.mem_map.mpr ⟨i, hm, rfl⟩, hi i⟩
    · rintro ⟨v, hv, rfl⟩
      obtain ⟨j, hm, rfl⟩ := List.mem_map.mp hv
      rwa [hi]
  · intro v hv
    obtain ⟨i, _, rfl⟩ := List.mem_map.mp hv
    rw [hx, hi]
  · intro v hv
    obtain ⟨i, _, rfl⟩ := List.mem_map.mp hv
    rw [ho, hi]

/-- Entries taken from a stream engine's buffer change that engine alone. -/
theorem takeBound_engine {s u : State} {e : Engine} {x : EngineState} {g : Nat} {l : List (VWord × BitVec 6)}
    (h : takeBound s e x g = .ok (l, u)) : ∃ y, u = setEngine s s.cur.tile e (some y) := by
  unfold takeBound at h
  dsimp only at h
  split at h
  · cases h
  · cases h
    exact ⟨_, rfl⟩

theorem consume_relaxed {s u : State} {b : Option (BitVec 2)} {qv : List VWord} (h : consume s b = .ok (qv, u)) : u.relaxed = s.relaxed := by
  unfold consume at h
  split at h
  · cases h; rfl
  · dsimp only at h
    split at h
    · cases h; rfl
    · cases ht : takeBound s _ _ (vtG s.hart.vtype) with
      | error z => rw [ht] at h; cases h
      | ok r =>
        obtain ⟨y, hy⟩ := takeBound_engine (l := r.1) (u := r.2) ht
        rw [ht] at h
        cases h
        rw [hy]
        rfl

/-- A vector instruction on registers that runs at once does what vecCore says to the hart. -/
theorem vecRun_ready {i : Instr} {s u : State} {qv : List VWord} (h : VecReady i s qv u) :
    vecRun i s = .next (u.modHart fun h => { vecCore i h qv with ves := 0 }.advance 4) := by
  unfold vecRun
  simp [h.checks, h.prompt, h.idle, h.takes]

/-- An element of a computing instruction: its operands with those of invalid blocks as zero, its flags (03 R64, 07 R162). -/
theorem elemResult_compute (sc : Bool) (nan : Nat → Bool) (i : Nat) (x y o : Nat × Bool) (op : Nat → Nat → Nat → FOut) :
    let z (p : Nat × Bool) : Nat := if sc = true ∧ p.2 = false then 0 else p.1
    let bad : Bool := sc && !(x.2 && y.2 && o.2)
    let n (p : Nat × Bool) : Nat := if p.2 && nan p.1 then p.1 else 0
    let r := op (z x) (z y) (z o)
    elemResult sc .compute nan i x y o op =
      { i := i, x := r.bits, ok := !bad,
        fl := if bad then (if x.2 && y.2 then r.flags
            else if nan (n x) || nan (n y) || nan (n o) then (op (n x) (n y) (n o)).flags else 0) ||| flagVINV
          else r.flags } := by
  obtain ⟨x, a⟩ := x
  obtain ⟨y, b⟩ := y
  obtain ⟨o, c⟩ := o
  cases sc <;> cases a <;> cases b <;> cases c <;> simp [elemResult]

/-- The flags of a list of writes: those that one of them raises. -/
theorem flagsOf_bit (ws : List VWrite) (b : Nat) : (flagsOf ws).getLsbD b = ws.any fun v => v.fl.getLsbD b := by
  have : ∀ (f : BitVec 6), (ws.foldl (fun f v => f ||| v.fl) f).getLsbD b = (f.getLsbD b || ws.any fun v => v.fl.getLsbD b) := by
    induction ws with
    | nil => simp
    | cons v t ih => intro f; rw [List.foldl_cons, ih, BitVec.getLsbD_or, List.any_cons, Bool.or_assoc]
  rw [flagsOf, this]
  simp

theorem consume_hart {s u : State} {b : Option (BitVec 2)} {qv : List VWord} (h : consume s b = .ok (qv, u)) :
    u.cur = s.cur ∧ u.hart = { s.hart with q := u.hart.q, fflags := u.hart.fflags } := by
  unfold consume at h
  split at h
  · cases h; exact ⟨rfl, rfl⟩
  · dsimp only at h
    split at h
    · cases h; refine ⟨rfl, ?_⟩; simp [Hart.setQueue]
    · cases ht : takeBound s _ _ (vtG s.hart.vtype) with
      | error z => rw [ht] at h; cases h
      | ok r =>
        obtain ⟨y, hy⟩ := takeBound_engine (l := r.1) (u := r.2) ht
        rw [ht] at h
        cases h
        rw [hy]
        refine ⟨rfl, ?_⟩
        rw [State.hart_modHart]
        have hh : ∀ x : Option EngineState, ∀ e, (setEngine s s.cur.tile e x).hart = s.hart := by
          intro x e
          show Tile.hart (tileAt (setTile s s.cur.tile _) s.cur.tile) s.cur.h1 = _
          rw [tileAt_setTile_same]
          show (match s.cur.h1 with | _ => _) = _
          rfl
        rw [hh]
        rfl

/-- A form that names a type passes its checks only with a well-formed one. -/
theorem vecTrap_ill {i : Instr} {s : State} (h : vecTrap i s = none) {f : VecForm} (hf : vecForm i = some f) (hv : f.vtype = true) :
    s.hart.ill = false := by
  unfold vecTrap at h
  rw [hf] at h
  dsimp only at h
  split at h
  · cases h
  · split at h
    · cases h
    · next h2 => cases hi : s.hart.ill <;> simp_all


/-- The shape that a vector instruction meets after its queue operand is consumed. -/
theorem ready_fits {i : Instr} {s u : State} {qv : List VWord} (h : VecReady i s qv u) (hs : s.hart.shaped) {f : VecForm}
    (hf : vecForm i = some f) (hv : f.vtype = true) : Fits u.hart := by
  have hi := vecTrap_ill h.checks hf hv
  have h2 := (consume_hart h.takes).2
  apply fits_of_shaped
  · rw [h2]; exact hs
  · rw [h2]; exact hi

/-- What a hart is after writes of elements and flags, VES cleared and the pc advanced. -/
theorem vectorFrame_of {h g : Hart} {fl : BitVec 6} (hg : g = { h with v := g.v, val := g.val, vdirty := g.vdirty }) :
    VectorFrame h ({ g.raise fl with ves := 0 }.advance 4) fl := by
  rw [VectorFrame, hg]
  rfl

theorem elemsWritten_of {h g : Hart} {d : VReg} {p : Nat → Prop} {f : Nat → Nat} {ok : Nat → Prop} {fl : BitVec 6}
    (hg : ElemsWritten h g d p f ok) : ElemsWritten h ({ g.raise fl with ves := 0 }.advance 4) d p f ok := by
  obtain ⟨h1, h2, h3, h4, h5, h6, h7, h8⟩ := hg
  exact ⟨h1, h2, h3, h4, h5, h6, h7, h8⟩

/-- An element-wise instruction of 07 R161: F is the write of one element. -/
theorem elements_give {i : Instr} {s u : State} {qv : List VWord} (hr : VecReady i s qv u) (hs : s.hart.shaped) {fm : VecForm}
    (hf : vecForm i = some fm) (hv : fm.vtype = true) (d : VReg) (ws : List VWrite) (fl : BitVec 6)
    (hc : vecCore i u.hart qv = (u.hart.writeElems d u.hart.shape.w u.hart.shape.e ws).raise fl)
    (p : Nat → Prop) (f : Nat → Nat) (ok : Nat → Prop) (hst : Stands u.hart ws p f ok) :
    ∃ t, vecRun i s = .next t ∧ OnlyHart u t ∧ VectorFrame u.hart t.hart fl ∧ ElemsWritten u.hart t.hart d p f ok := by
  refine ⟨_, vecRun_ready hr, onlyHart_modHart .., ?_⟩
  rw [State.hart_modHart, hc]
  obtain ⟨h1, h2⟩ := writeElems_written u.hart (ready_fits hr hs hf hv) d ws p f ok hst _ rfl
  exact ⟨vectorFrame_of h1, elemsWritten_of h2⟩

theorem Hart.raise_zero (h : Hart) : h.raise 0 = h := by simp [Hart.raise]

theorem flagsOf_zero (ws : List VWrite) (h : ∀ v ∈ ws, v.fl = 0) : flagsOf ws = 0 := by
  apply BitVec.eq_of_getLsbD_eq
  intro b _
  rw [flagsOf_bit]
  show _ = (0#6).getLsbD b
  rw [BitVec.getLsbD_zero, List.any_eq_false]
  intro v hv
  rw [h v hv]
  show ¬(0#6).getLsbD b = true
  rw [BitVec.getLsbD_zero]
  exact Bool.false_ne_true

theorem int_class {i : Instr} {s : State} (h : vecTrap i s = none) {f : VecForm} (hf : vecForm i = some f) (hv : f.vtype = true) (hc : f.cls = .int) :
    elemForm (vtFmt s.hart.vtype) = none := by
  unfold vecTrap at h
  rw [hf] at h
  dsimp only at h
  split at h
  · cases h
  · split at h
    · cases h
    · split at h
      · cases h
      · next h3 =>
        rw [hv] at h3
        simp only [Bool.true_and, Bool.not_eq_true', Bool.not_eq_false, step6, Bool.and_eq_true, hc] at h3
        simp only [TypeClass.has] at h3
        have := h3.1.1.1.1
        simpa using this

theorem int_gives (s u : State) (qv : List VWord) (hs : s.hart.shaped) (i : Instr) (old : Bool) (d a : VReg) (b : Src) (k : KReg) (op : Shape → Nat → Nat → Nat → FOut)
   (fm : VecForm) (hf : vecForm i = some fm) (hv : fm.vtype = true) (hcl : fm.cls = .int)
   (hc : vecCore i = elementwise .compute old d (some a) b k op) (hfl : ∀ sh x y o, (op sh x y o).flags = 0)
   (f : Nat → BitVec (elemWidth (vtFmt u.hart.vtype)))
   (hx : ∀ j, (op u.hart.shape (operandA u.hart a j) (operandB u.hart b qv j) (if old then operandA u.hart d j else 0)).bits % 2 ^ elemWidth (vtFmt u.hart.vtype) = (f j).toNat)
   (hr : VecReady i s qv u) : ∃ t, vecRun i s = .next t ∧ OnlyHart u t ∧ VectorFrame u.hart t.hart 0 ∧
        ElemsWritten u.hart t.hart d (u.hart.acts k) (fun i => (f i).toNat) (fun _ => True) := by
  have hcls := int_class hr.checks hf hv hcl
  have hill := vecTrap_ill hr.checks hf hv
  have hu := (consume_hart hr.takes).2
  have hsc : u.hart.shape.sc = false := by
    have h1 := (hs.2 hill).1
    show vtSc u.hart.vtype = false
    rw [show u.hart.vtype = s.hart.vtype by rw [hu]]
    simp only [vtypeOk, Bool.and_eq_true, Bool.or_eq_true, Bool.not_eq_true'] at h1
    rcases h1.1.2 with h | h
    · exact h
    · exfalso; revert hcls h; cases vtFmt s.hart.vtype <;> simp [elemForm]
  refine elements_give hr hs hf hv d ((u.hart.active k 0).map fun i =>
     elemResult u.hart.shape.sc .compute (nanCode u.hart.shape.fmt) i (u.hart.elem a u.hart.shape.w u.hart.shape.e i, u.hart.valid a u.hart.shape.e i)
      (u.hart.srcElem b qv u.hart.shape.fmt u.hart.shape.w u.hart.shape.e i, u.hart.srcValid b u.hart.shape.e i)
      (if old then (u.hart.elem d u.hart.shape.w u.hart.shape.e i, u.hart.valid d u.hart.shape.e i) else (0, true)) (op u.hart.shape)) 0 ?_ _ _ _ ?_
  · rw [hc]
    unfold elementwise
    dsimp only
    rw [flagsOf_zero]
    intro v hv
    obtain ⟨j, _, rfl⟩ := List.mem_map.mp hv
    rw [elemResult_compute, hsc]
    simp [hfl]
  · apply stands_active _ (ready_fits hr hs hf hv)
    · intro j; rw [elemResult_compute]
    · intro j
      rw [elemResult_compute, hsc]
      have := hx j
      rw [← this]
      show _ % 2 ^ elemWidth (vtFmt u.hart.vtype) = _ % 2 ^ elemWidth (vtFmt u.hart.vtype)
      rw [Nat.mod_mod]
      simp only [operandA, operandB, hsc]
      cases old <;> rfl
    · intro j; rw [elemResult_compute, hsc]; simp

theorem operandA_lt (h : Hart) (r : VReg) (i : Nat) : operandA h r i < 2 ^ elemWidth (vtFmt h.vtype) := by
  unfold operandA
  split
  · exact Nat.two_pow_pos _
  · exact fld_lt _ _ _

theorem operandB_lt (h : Hart) (hn : elemForm (vtFmt h.vtype) = none) (b : Src) (qv : List VWord) (i : Nat) : operandB h b qv i < 2 ^ elemWidth (vtFmt h.vtype) := by
  unfold operandB
  split
  · exact Nat.two_pow_pos _
  · show h.srcElem b qv (vtFmt h.vtype) (elemWidth (vtFmt h.vtype)) h.shape.e i < _
    cases b with
    | v r => exact fld_lt _ _ _
    | g r => exact Nat.mod_lt _ (Nat.two_pow_pos _)
    | q n => exact fld_lt _ _ _
    | imm c =>
      simp only [Hart.srcElem, immElem, hn, wrap]
      have : (0:Int) < 2 ^ elemWidth (vtFmt h.vtype) := by have := Nat.two_pow_pos (elemWidth (vtFmt h.vtype)); exact_mod_cast this
      have h1 := Int.emod_lt_of_pos c.toInt this
      have h2 := Int.emod_nonneg c.toInt (by omega : (2:Int) ^ elemWidth (vtFmt h.vtype) ≠ 0)
      have : ((2 ^ elemWidth (vtFmt h.vtype) : Nat) : Int) = 2 ^ elemWidth (vtFmt h.vtype) := by simp
      omega

theorem vecCore_vadd (d a : VReg) (b : Src) (k : KReg) :
    vecCore (.vadd d a b k) = intOp d a b k (fun _ x y => x + y) := rfl

theorem vecCore_vsub (d a : VReg) (b : Src) (k : KReg) :
    vecCore (.vsub d a b k) = intOp d a b k (fun t x y => x + 2 ^ elemWidth t - y) := rfl

theorem vecCore_vmul (d a : VReg) (b : Src) (k : KReg) :
    vecCore (.vmul d a b k) = intOp d a b k (fun _ x y => x * y) := rfl

theorem vecCore_vmulh (d a : VReg) (b : Src) (k : KReg) :
    vecCore (.vmulh d a b k) = intOp d a b k (fun t x y => wrap (elemWidth t) (elemInt t x * elemInt t y / (2 ^ elemWidth t : Nat))) := rfl

theorem vecCore_vsll (d a : VReg) (b : Src) (k : KReg) :
    vecCore (.vsll d a b k) = intOp d a b k (fun t x y => x * 2 ^ elemShift t y) := rfl

theorem vecCore_vsrl (d a : VReg) (b : Src) (k : KReg) :
    vecCore (.vsrl d a b k) = intOp d a b k (fun t x y => x / 2 ^ elemShift t y) := rfl

theorem vecCore_vsra (d a : VReg) (b : Src) (k : KReg) :
    vecCore (.vsra d a b k) = intOp d a b k (fun t x y => wrap (elemWidth t) (sint (elemWidth t) x / (2 ^ elemShift t y : Nat))) := rfl

theorem vecCore_vmin (d a : VReg) (b : Src) (k : KReg) :
    vecCore (.vmin d a b k) = intOp d a b k (fun t x y => minElem true t x y) := rfl

theorem vecCore_vmax (d a : VReg) (b : Src) (k : KReg) :
    vecCore (.vmax d a b k) = intOp d a b k (fun t x y => maxElem true t x y) := rfl

theorem vecCore_vminn (d a : VReg) (b : Src) (k : KReg) :
    vecCore (.vminn d a b k) = intOp d a b k (fun t x y => minElem false t x y) := rfl

theorem vecCore_vmaxn (d a : VReg) (b : Src) (k : KReg) :
    vecCore (.vmaxn d a b k) = intOp d a b k (fun t x y => maxElem false t x y) := rfl

theorem vecCore_vsadd (d a : VReg) (b : Src) (k : KReg) :
    vecCore (.vsadd d a b k) = intOp d a b k (fun t x y => clampTo t (elemInt t x + elemInt t y)) := rfl

theorem vecCore_vssub (d a : VReg) (b : Src) (k : KReg) :
    vecCore (.vssub d a b k) = intOp d a b k (fun t x y => clampTo t (elemInt t x - elemInt t y)) := rfl

theorem vecCore_vmadd (d a : VReg) (b : Src) (k : KReg) :
    vecCore (.vmadd d a b k) = elementwise .compute true d (some a) b k fun sh x y o => { bits := (x * y + o) % 2 ^ sh.w, flags := 0 } := rfl

theorem vecCore_vand (d a : VReg) (b : Src) (k : KReg) :
    vecCore (.vand d a b k) = bitOp d a b k (fun x y => x &&& y) := rfl

theorem vecCore_vor (d a : VReg) (b : Src) (k : KReg) :
    vecCore (.vor d a b k) = bitOp d a b k (fun x y => x ||| y) := rfl

theorem vecCore_vxor (d a : VReg) (b : Src) (k : KReg) :
    vecCore (.vxor d a b k) = bitOp d a b k (fun x y => x ^^^ y) := rfl

theorem vecCore_vcmpEq (d : KReg) (a : VReg) (b : Src) (k : KReg) :
    vecCore (.vcmpEq d a b k) = compareOp d a b k (fun _ x y => (decide (x = y), 0)) := rfl

theorem vecCore_vcmpNe (d : KReg) (a : VReg) (b : Src) (k : KReg) :
    vecCore (.vcmpNe d a b k) = compareOp d a b k (fun _ x y => (decide (x ≠ y), 0)) := rfl

theorem vecCore_vcmpLt (d : KReg) (a : VReg) (b : Src) (k : KReg) :
    vecCore (.vcmpLt d a b k) = compareOp d a b k (fun t x y => (decide (sint (elemWidth t) x < sint (elemWidth t) y), 0)) := rfl

theorem vecCore_vcmpGe (d : KReg) (a : VReg) (b : Src) (k : KReg) :
    vecCore (.vcmpGe d a b k) = compareOp d a b k (fun t x y => (!decide (sint (elemWidth t) x < sint (elemWidth t) y), 0)) := rfl

theorem vecCore_vcmpLtn (d : KReg) (a : VReg) (b : Src) (k : KReg) :
    vecCore (.vcmpLtn d a b k) = compareOp d a b k (fun _ x y => (decide (x < y), 0)) := rfl

theorem vecCore_vcmpGen (d : KReg) (a : VReg) (b : Src) (k : KReg) :
    vecCore (.vcmpGen d a b k) = compareOp d a b k (fun _ x y => (!decide (x < y), 0)) := rfl

theorem vecCore_vmerge (d a : VReg) (b : Src) (k : KReg) :
    vecCore (.vmerge d a b k) = fun h qv => placeElems d ((upTo 0 h.vl.toNat).map fun i => (i, if (h.rk k).getLsbD i then h.srcAt b qv i else h.elemAt a i)) h := rfl

theorem vecCore_vmv (d : VReg) (b : Src) (k : KReg) :
    vecCore (.vmv d b k) = fun h qv => placeElems d ((h.active k 0).map fun i => (i, h.srcAt b qv i)) h := rfl

theorem vecCore_vfadd (d a : VReg) (b : Src) (k : KReg) :
    vecCore (.vfadd d a b k) = fpOp d a b k (fun f m x y => f.addV m (f.decode x) (f.decode y)) := rfl

theorem vecCore_vfsub (d a : VReg) (b : Src) (k : KReg) :
    vecCore (.vfsub d a b k) = fpOp d a b k (fun f m x y => f.addV m (f.decode x) (f.decode y).neg) := rfl

theorem vecCore_vfmul (d a : VReg) (b : Src) (k : KReg) :
    vecCore (.vfmul d a b k) = fpOp d a b k (fun f m x y => f.mulV m (f.decode x) (f.decode y)) := rfl

theorem vecCore_vfmin (d a : VReg) (b : Src) (k : KReg) :
    vecCore (.vfmin d a b k) = fpOp d a b k (fun f _ x y => f.minmax false x y) := rfl

theorem vecCore_vfmax (d a : VReg) (b : Src) (k : KReg) :
    vecCore (.vfmax d a b k) = fpOp d a b k (fun f _ x y => f.minmax true x y) := rfl

theorem vecCore_vfdiv (d a : VReg) (b : Src) (k : KReg) :
    vecCore (.vfdiv d a b k) = fpOp d a b k (fun f m x y => f.divV m (f.decode x) (f.decode y)) := rfl

theorem vecCore_vfsqrt (d : VReg) (b : Src) (k : KReg) :
    vecCore (.vfsqrt d b k) = fpOne d b k (fun f m y => f.sqrtV m (f.decode y)) := rfl

theorem vecCore_vfcmpEq (d : KReg) (a : VReg) (b : Src) (k : KReg) :
    vecCore (.vfcmpEq d a b k) = fcompareOp .eq d a b k := rfl

theorem vecCore_vfcmpNe (d : KReg) (a : VReg) (b : Src) (k : KReg) :
    vecCore (.vfcmpNe d a b k) = fcompareOp .ne d a b k := rfl

theorem vecCore_vfcmpLt (d : KReg) (a : VReg) (b : Src) (k : KReg) :
    vecCore (.vfcmpLt d a b k) = fcompareOp .lt d a b k := rfl

theorem vecCore_vfcmpLe (d : KReg) (a : VReg) (b : Src) (k : KReg) :
    vecCore (.vfcmpLe d a b k) = fcompareOp .le d a b k := rfl

theorem vecCore_vfexp2 (d : VReg) (b : Src) (k : KReg) :
    vecCore (.vfexp2 d b k) = fpOne d b k (fun f m y => f.exp2V m y) := rfl

theorem vecCore_vfrcp (d : VReg) (b : Src) (k : KReg) :
    vecCore (.vfrcp d b k) = fpOne d b k (fun f m y => f.rcpV m y) := rfl

theorem vecCore_vfrsq (d : VReg) (b : Src) (k : KReg) :
    vecCore (.vfrsq d b k) = fpOne d b k (fun f m y => f.rsqV m y) := rfl

theorem vecCore_vfma (d a : VReg) (b : Src) (k : KReg) :
    vecCore (.vfma d a b k) = fmaOp false d a b k := rfl

theorem vecCore_vfnma (d a : VReg) (b : Src) (k : KReg) :
    vecCore (.vfnma d a b k) = fmaOp true d a b k := rfl

theorem vecCore_vfcvt (d : VReg) (src : ElemTy) (b : Src) (k : KReg) :
    vecCore (.vfcvt d src b k) = cvtOp d src b k := rfl

theorem vecCore_kand (d a b : KReg) :
    vecCore (.kand d a b) = fun h _ => maskOp d (fun _ => h.rk a &&& h.rk b) h := rfl

theorem vecCore_kor (d a b : KReg) :
    vecCore (.kor d a b) = fun h _ => maskOp d (fun _ => h.rk a ||| h.rk b) h := rfl

theorem vecCore_kxor (d a b : KReg) :
    vecCore (.kxor d a b) = fun h _ => maskOp d (fun _ => h.rk a ^^^ h.rk b) h := rfl

theorem vecCore_knot (d b : KReg) :
    vecCore (.knot d b) = fun h _ => maskOp d (fun _ => ~~~(h.rk b)) h := rfl

theorem vecCore_kpopc (d : GReg) (a b : KReg) :
    vecCore (.kpopc d a b) = fun h _ => h.wg d (BitVec.ofNat 64 (h.both a b).length) := rfl

theorem vecCore_kfirst (d : GReg) (a b : KReg) :
    vecCore (.kfirst d a b) = fun h _ => h.wg d (match h.both a b with | j :: _ => BitVec.ofNat 64 j | [] => BitVec.allOnes 64) := rfl

theorem vecCore_kmov (d b : KReg) :
    vecCore (.kmov d b) = fun h _ => maskOp d (fun _ => h.rk b) h := rfl

theorem vecCore_vredsum (d a : GReg) (b : Src) (k : KReg) :
    vecCore (.vredsum d a b k) = reduceInt d a b k (fun t x y => (x + y) % 2 ^ elemWidth t) := rfl

theorem vecCore_vredmax (d a : GReg) (b : Src) (k : KReg) :
    vecCore (.vredmax d a b k) = reduceInt d a b k (fun t x y => maxElem (elemSigned t) t x y) := rfl

theorem vecCore_vredmin (d a : GReg) (b : Src) (k : KReg) :
    vecCore (.vredmin d a b k) = reduceInt d a b k (fun t x y => minElem (elemSigned t) t x y) := rfl

theorem vecCore_vfredsum (d a : GReg) (b : Src) (k : KReg) :
    vecCore (.vfredsum d a b k) = reduceTree d a b k := rfl

theorem vecCore_vfredo (d a : GReg) (b : Src) (k : KReg) :
    vecCore (.vfredo d a b k) = reduceChain d a b k := rfl

theorem vecCore_vslideup (d a : VReg) (b : Src) (k : KReg) :
    vecCore (.vslideup d a b k) = fun h _ => slideUp d a b k h := rfl

theorem vecCore_vslidedn (d a : VReg) (b : Src) (k : KReg) :
    vecCore (.vslidedn d a b k) = fun h _ => slideDown d a b k h := rfl

theorem vecCore_vperm (d a : VReg) (b : Src) (k : KReg) :
    vecCore (.vperm d a b k) = permOp d a b k := rfl

theorem vecCore_vcompress (d : VReg) (b : Src) (k : KReg) :
    vecCore (.vcompress d b k) = compressOp d b k := rfl

theorem vecCore_vexpand (d : VReg) (b : Src) (k : KReg) :
    vecCore (.vexpand d b k) = expandOp d b k := rfl

theorem vecCore_viota (d : VReg) (b k : KReg) :
    vecCore (.viota d b k) = fun h _ => iotaOp d b k h := rfl

theorem vecCore_vbcast (d : VReg) (b : Src) (k : KReg) :
    vecCore (.vbcast d b k) = fun h qv => placeElems d ((h.active k 0).map fun i => (i, h.srcAt b qv 0)) h := rfl

theorem vecCore_vextr (d : GReg) (a : VReg) (b : Src) :
    vecCore (.vextr d a b) = fun h _ => h.wg d (if h.indexOf b < h.vlmax.toNat then extendElem h.shape.fmt (h.elemAt a (h.indexOf b)).1 else 0) := rfl

theorem vecCore_vins (d : VReg) (a : GReg) (b : Src) (k : KReg) :
    vecCore (.vins d a b k) = fun h _ => placeElems d (if h.indexOf b < h.vl.toNat ∧ h.maskOn k (h.indexOf b) then [(h.indexOf b, (h.rg a).toNat % 2 ^ h.shape.w, true)] else []) h := rfl

theorem vecForm_setvl (d a b : GReg) :
    vecForm (.setvl d a b) = some { vtype := false } := rfl

theorem vecForm_setvli (d a : GReg) (fmt : ElemTy) (grp : BitVec 3) (sc : Bool) :
    vecForm (.setvli d a fmt grp sc) = some { vtype := false } := rfl

theorem vecForm_vadd (d a : VReg) (b : Src) (k : KReg) :
    vecForm (.vadd d a b k) = opForm .int [d, a] b := rfl

theorem vecForm_vsub (d a : VReg) (b : Src) (k : KReg) :
    vecForm (.vsub d a b k) = opForm .int [d, a] b := rfl

theorem vecForm_vmul (d a : VReg) (b : Src) (k : KReg) :
    vecForm (.vmul d a b k) = opForm .int [d, a] b := rfl

theorem vecForm_vmulh (d a : VReg) (b : Src) (k : KReg) :
    vecForm (.vmulh d a b k) = opForm .int [d, a] b := rfl

theorem vecForm_vmadd (d a : VReg) (b : Src) (k : KReg) :
    vecForm (.vmadd d a b k) = opForm .int [d, a] b := rfl

theorem vecForm_vsll (d a : VReg) (b : Src) (k : KReg) :
    vecForm (.vsll d a b k) = opForm .int [d, a] b := rfl

theorem vecForm_vsrl (d a : VReg) (b : Src) (k : KReg) :
    vecForm (.vsrl d a b k) = opForm .int [d, a] b := rfl

theorem vecForm_vsra (d a : VReg) (b : Src) (k : KReg) :
    vecForm (.vsra d a b k) = opForm .int [d, a] b := rfl

theorem vecForm_vmin (d a : VReg) (b : Src) (k : KReg) :
    vecForm (.vmin d a b k) = opForm .int [d, a] b := rfl

theorem vecForm_vmax (d a : VReg) (b : Src) (k : KReg) :
    vecForm (.vmax d a b k) = opForm .int [d, a] b := rfl

theorem vecForm_vminn (d a : VReg) (b : Src) (k : KReg) :
    vecForm (.vminn d a b k) = opForm .int [d, a] b := rfl

theorem vecForm_vmaxn (d a : VReg) (b : Src) (k : KReg) :
    vecForm (.vmaxn d a b k) = opForm .int [d, a] b := rfl

theorem vecForm_vsadd (d a : VReg) (b : Src) (k : KReg) :
    vecForm (.vsadd d a b k) = opForm .int [d, a] b := rfl

theorem vecForm_vssub (d a : VReg) (b : Src) (k : KReg) :
    vecForm (.vssub d a b k) = opForm .int [d, a] b := rfl

theorem vecForm_vand (d a : VReg) (b : Src) (k : KReg) :
    vecForm (.vand d a b k) = opForm .any [d, a] b := rfl

theorem vecForm_vor (d a : VReg) (b : Src) (k : KReg) :
    vecForm (.vor d a b k) = opForm .any [d, a] b := rfl

theorem vecForm_vxor (d a : VReg) (b : Src) (k : KReg) :
    vecForm (.vxor d a b k) = opForm .any [d, a] b := rfl

theorem vecForm_vmerge (d a : VReg) (b : Src) (k : KReg) :
    vecForm (.vmerge d a b k) = opForm .any [d, a] b := rfl

theorem vecForm_vslideup (d a : VReg) (b : Src) (k : KReg) :
    vecForm (.vslideup d a b k) = opForm .any [d, a] b := rfl

theorem vecForm_vslidedn (d a : VReg) (b : Src) (k : KReg) :
    vecForm (.vslidedn d a b k) = opForm .any [d, a] b := rfl

theorem vecForm_vperm (d a : VReg) (b : Src) (k : KReg) :
    vecForm (.vperm d a b k) = opForm .any [d, a] b := rfl

theorem vecForm_vcmpEq (d : KReg) (a : VReg) (b : Src) (k : KReg) :
    vecForm (.vcmpEq d a b k) = opForm .int [a] b := rfl

theorem vecForm_vcmpNe (d : KReg) (a : VReg) (b : Src) (k : KReg) :
    vecForm (.vcmpNe d a b k) = opForm .int [a] b := rfl

theorem vecForm_vcmpLt (d : KReg) (a : VReg) (b : Src) (k : KReg) :
    vecForm (.vcmpLt d a b k) = opForm .int [a] b := rfl

theorem vecForm_vcmpGe (d : KReg) (a : VReg) (b : Src) (k : KReg) :
    vecForm (.vcmpGe d a b k) = opForm .int [a] b := rfl

theorem vecForm_vcmpLtn (d : KReg) (a : VReg) (b : Src) (k : KReg) :
    vecForm (.vcmpLtn d a b k) = opForm .int [a] b := rfl

theorem vecForm_vcmpGen (d : KReg) (a : VReg) (b : Src) (k : KReg) :
    vecForm (.vcmpGen d a b k) = opForm .int [a] b := rfl

theorem vecForm_vmv (d : VReg) (b : Src) (k : KReg) :
    vecForm (.vmv d b k) = opForm .any [d] b := rfl

theorem vecForm_vcompress (d : VReg) (b : Src) (k : KReg) :
    vecForm (.vcompress d b k) = opForm .any [d] b := rfl

theorem vecForm_vexpand (d : VReg) (b : Src) (k : KReg) :
    vecForm (.vexpand d b k) = opForm .any [d] b := rfl

theorem vecForm_vbcast (d : VReg) (b : Src) (k : KReg) :
    vecForm (.vbcast d b k) = opForm .any [d] b := rfl

theorem vecForm_vfadd (d a : VReg) (b : Src) (k : KReg) :
    vecForm (.vfadd d a b k) = opForm .floatNarrow [d, a] b := rfl

theorem vecForm_vfsub (d a : VReg) (b : Src) (k : KReg) :
    vecForm (.vfsub d a b k) = opForm .floatNarrow [d, a] b := rfl

theorem vecForm_vfmul (d a : VReg) (b : Src) (k : KReg) :
    vecForm (.vfmul d a b k) = opForm .floatNarrow [d, a] b := rfl

theorem vecForm_vfdiv (d a : VReg) (b : Src) (k : KReg) :
    vecForm (.vfdiv d a b k) = opForm .floatNarrow [d, a] b := rfl

theorem vecForm_vfmin (d a : VReg) (b : Src) (k : KReg) :
    vecForm (.vfmin d a b k) = opForm .floatNarrow [d, a] b := rfl

theorem vecForm_vfmax (d a : VReg) (b : Src) (k : KReg) :
    vecForm (.vfmax d a b k) = opForm .floatNarrow [d, a] b := rfl

theorem vecForm_vfma (d a : VReg) (b : Src) (k : KReg) :
    vecForm (.vfma d a b k) = opForm .floatNarrow [d, a] b := rfl

theorem vecForm_vfnma (d a : VReg) (b : Src) (k : KReg) :
    vecForm (.vfnma d a b k) = opForm .floatNarrow [d, a] b := rfl

theorem vecForm_vfsqrt (d : VReg) (b : Src) (k : KReg) :
    vecForm (.vfsqrt d b k) = opForm .floatNarrow [d] b := rfl

theorem vecForm_vfexp2 (d : VReg) (b : Src) (k : KReg) :
    vecForm (.vfexp2 d b k) = opForm .floatNarrow [d] b := rfl

theorem vecForm_vfrcp (d : VReg) (b : Src) (k : KReg) :
    vecForm (.vfrcp d b k) = opForm .floatNarrow [d] b := rfl

theorem vecForm_vfrsq (d : VReg) (b : Src) (k : KReg) :
    vecForm (.vfrsq d b k) = opForm .floatNarrow [d] b := rfl

theorem vecForm_vfcmpEq (d : KReg) (a : VReg) (b : Src) (k : KReg) :
    vecForm (.vfcmpEq d a b k) = opForm .floatNarrow [a] b := rfl

theorem vecForm_vfcmpNe (d : KReg) (a : VReg) (b : Src) (k : KReg) :
    vecForm (.vfcmpNe d a b k) = opForm .floatNarrow [a] b := rfl

theorem vecForm_vfcmpLt (d : KReg) (a : VReg) (b : Src) (k : KReg) :
    vecForm (.vfcmpLt d a b k) = opForm .floatNarrow [a] b := rfl

theorem vecForm_vfcmpLe (d : KReg) (a : VReg) (b : Src) (k : KReg) :
    vecForm (.vfcmpLe d a b k) = opForm .floatNarrow [a] b := rfl

theorem vecForm_vfcvt (d : VReg) (src : ElemTy) (b : Src) (k : KReg) :
    vecForm (.vfcvt d src b k) = some { groups := [d], queue := srcQueue b } := rfl

theorem vecForm_kand (d a b : KReg) :
    vecForm (.kand d a b) = some {} := rfl

theorem vecForm_kor (d a b : KReg) :
    vecForm (.kor d a b) = some {} := rfl

theorem vecForm_kxor (d a b : KReg) :
    vecForm (.kxor d a b) = some {} := rfl

theorem vecForm_knot (d b : KReg) :
    vecForm (.knot d b) = some {} := rfl

theorem vecForm_kpopc (d : GReg) (a b : KReg) :
    vecForm (.kpopc d a b) = some {} := rfl

theorem vecForm_kfirst (d : GReg) (a b : KReg) :
    vecForm (.kfirst d a b) = some {} := rfl

theorem vecForm_kmov (d b : KReg) :
    vecForm (.kmov d b) = some {} := rfl

theorem vecForm_vredsum (d a : GReg) (b : Src) (k : KReg) :
    vecForm (.vredsum d a b k) = opForm .int [] b := rfl

theorem vecForm_vredmax (d a : GReg) (b : Src) (k : KReg) :
    vecForm (.vredmax d a b k) = opForm .int [] b := rfl

theorem vecForm_vredmin (d a : GReg) (b : Src) (k : KReg) :
    vecForm (.vredmin d a b k) = opForm .int [] b := rfl

theorem vecForm_vfredsum (d a : GReg) (b : Src) (k : KReg) :
    vecForm (.vfredsum d a b k) = opForm .float [] b := rfl

theorem vecForm_vfredo (d a : GReg) (b : Src) (k : KReg) :
    vecForm (.vfredo d a b k) = opForm .float [] b := rfl

theorem vecForm_viota (d : VReg) (b k : KReg) :
    vecForm (.viota d b k) = some { cls := .int, groups := [d] } := rfl

theorem vecForm_vextr (d : GReg) (a : VReg) (b : Src) :
    vecForm (.vextr d a b) = some { groups := [a] } := rfl

theorem vecForm_vins (d : VReg) (a : GReg) (b : Src) (k : KReg) :
    vecForm (.vins d a b k) = some { groups := [d] } := rfl

theorem vecForm_vld (d : VReg) (a : GReg) (off : BitVec 5) (k : KReg) :
    vecForm (.vld d a off k) = memForm [d] [] := rfl

theorem vecForm_vldSc (d : VReg) (a : GReg) (off : BitVec 5) (k : KReg) :
    vecForm (.vldSc d a off k) = memForm [d] [] := rfl

theorem vecForm_vlds (d : VReg) (a b : GReg) (k : KReg) :
    vecForm (.vlds d a b k) = memForm [d] [] := rfl

theorem vecForm_vst (d : VReg) (a : GReg) (off : BitVec 5) (k : KReg) :
    vecForm (.vst d a off k) = memForm [d] [] := rfl

theorem vecForm_vstSc (d : VReg) (a : GReg) (off : BitVec 5) (k : KReg) :
    vecForm (.vstSc d a off k) = memForm [d] [] := rfl

theorem vecForm_vsts (d : VReg) (a b : GReg) (k : KReg) :
    vecForm (.vsts d a b k) = memForm [d] [] := rfl

theorem vecForm_vldsImmediate (d : VReg) (a : GReg) (k : KReg) (stride : BitVec 32) :
    vecForm (.vldsImmediate d a k stride) = memForm [d] [] := rfl

theorem vecForm_vstsImmediate (d : VReg) (a : GReg) (k : KReg) (stride : BitVec 32) :
    vecForm (.vstsImmediate d a k stride) = memForm [d] [] := rfl

theorem vecForm_vldz (d : VReg) (a p : GReg) (k : KReg) (off : BitVec 32) :
    vecForm (.vldz d a p k off) = memForm [d] [] := rfl

theorem vecForm_vstz (d : VReg) (a p : GReg) (k : KReg) (off : BitVec 32) :
    vecForm (.vstz d a p k off) = memForm [d] [] := rfl

theorem vecForm_vldx (d : VReg) (a : GReg) (b : VReg) (k : KReg) :
    vecForm (.vldx d a b k) = memForm [d] [b] := rfl

theorem vecForm_vstx (d : VReg) (a : GReg) (b : VReg) (k : KReg) :
    vecForm (.vstx d a b k) = memForm [d] [b] := rfl

theorem vecForm_vldq (q : BitVec 2) (a : GReg) (off : BitVec 5) (k : KReg) :
    vecForm (.vldq q a off k) = memForm [] [] := rfl

theorem vecForm_vldqStrided (q : BitVec 2) (a b : GReg) (k : KReg) :
    vecForm (.vldqStrided q a b k) = memForm [] [] := rfl

theorem vecForm_vldqIndexed (q : BitVec 2) (a : GReg) (b : VReg) (k : KReg) :
    vecForm (.vldqIndexed q a b k) = memForm [] [b] := rfl

theorem vecForm_vamoadd (d : VReg) (a : GReg) (b : VAddr) (k : KReg) :
    vecForm (.vamoadd d a b k) = amoForm d b := rfl

theorem vecForm_vamoand (d : VReg) (a : GReg) (b : VAddr) (k : KReg) :
    vecForm (.vamoand d a b k) = amoForm d b := rfl

theorem vecForm_vamoor (d : VReg) (a : GReg) (b : VAddr) (k : KReg) :
    vecForm (.vamoor d a b k) = amoForm d b := rfl

theorem vecForm_vamoxor (d : VReg) (a : GReg) (b : VAddr) (k : KReg) :
    vecForm (.vamoxor d a b k) = amoForm d b := rfl

theorem vecForm_vamomin (d : VReg) (a : GReg) (b : VAddr) (k : KReg) :
    vecForm (.vamomin d a b k) = amoForm d b := rfl

theorem vecForm_vamomax (d : VReg) (a : GReg) (b : VAddr) (k : KReg) :
    vecForm (.vamomax d a b k) = amoForm d b := rfl

theorem vecForm_vamoswp (d : VReg) (a : GReg) (b : VAddr) (k : KReg) :
    vecForm (.vamoswp d a b k) = amoForm d b := rfl

theorem vecForm_vpostadd (a : GReg) (b : VAddr) (k : KReg) :
    vecForm (.vpostadd a b k) = amoForm 0 b := rfl

theorem vecForm_vpostand (a : GReg) (b : VAddr) (k : KReg) :
    vecForm (.vpostand a b k) = amoForm 0 b := rfl

theorem vecForm_vpostor (a : GReg) (b : VAddr) (k : KReg) :
    vecForm (.vpostor a b k) = amoForm 0 b := rfl

theorem vecForm_vpostxor (a : GReg) (b : VAddr) (k : KReg) :
    vecForm (.vpostxor a b k) = amoForm 0 b := rfl

theorem vecForm_vpostmin (a : GReg) (b : VAddr) (k : KReg) :
    vecForm (.vpostmin a b k) = amoForm 0 b := rfl

theorem vecForm_vpostmax (a : GReg) (b : VAddr) (k : KReg) :
    vecForm (.vpostmax a b k) = amoForm 0 b := rfl

theorem vecForm_vpostswp (a : GReg) (b : VAddr) (k : KReg) :
    vecForm (.vpostswp a b k) = amoForm 0 b := rfl

theorem vecForm_vcapp (a : GReg) (k : KReg) :
    vecForm (.vcapp a k) = some {} := rfl

theorem vecForm_vcopy (d a : GReg) (k : KReg) :
    vecForm (.vcopy d a k) = some {} := rfl

theorem vecForm_vfill (d p : GReg) (k : KReg) :
    vecForm (.vfill d p k) = some {} := rfl

theorem vecForm_mcfg (tiles : BitVec 4) (fmt : ElemTy) (sc int32 : Bool) (m n : BitVec 7) :
    vecForm (.mcfg tiles fmt sc int32 m n) = some { vtype := false } := rfl

theorem vecForm_mzero (c : Acc) :
    vecForm (.mzero c) = some { vtype := false } := rfl

theorem vecForm_mrel (c : Acc) :
    vecForm (.mrel c) = some { vtype := false } := rfl

theorem vecForm_mma (c : Acc) (a b : VReg) :
    vecForm (.mma c a b) = some { groups := [a, b] } := rfl

theorem vecForm_mdrain (c : Acc) (a p : GReg) (row : BitVec 6) (rows : BitVec 7) (k : KReg) :
    vecForm (.mdrain c a p row rows k) = some { vmf := true } := rfl

theorem vecForm_mdrainx (c : Acc) (a : GReg) (p : VReg) (row : BitVec 6) (rows : BitVec 7) (k : KReg) :
    vecForm (.mdrainx c a p row rows k) = some { vmf := true } := rfl

theorem vecForm_mldacc (c : Acc) (a p : GReg) (row : BitVec 6) (rows : BitVec 7) :
    vecForm (.mldacc c a p row rows) = some {} := rfl

theorem vecForm_rldx (d a p : VReg) (k : KReg) (s : KStatus) :
    vecForm (.rldx d a p k s) = some { groups := [d], index := [a, p] } := rfl

theorem vecForm_rstx (d a p : VReg) (k : KReg) (s : KStatus) :
    vecForm (.rstx d a p k s) = some { groups := [d], index := [a, p] } := rfl

theorem vecForm_rapp (d : VReg) (a : GReg) (p : VReg) (k : KReg) (s : KStatus) :
    vecForm (.rapp d a p k s) = some { groups := [d], index := [p] } := rfl

theorem vecForm_wdrive (a : GReg) (off : BitVec 32) :
    vecForm (.wdrive a off) = some { vmf := true } := rfl

end Sys2Proof.Machine
end

