-- ==== Sys2Proof/Tests/Slice0.lean ====
section
/-! SUPPORT. Our own tests. First, ill-formed terms, each refused by one check of WellFormed; words written out bit by bit from
the encoding tables of spec 05, one or more for each family; single steps, with values worked out from the spec's rules. Then, for the
statements with hypotheses, a state and operands that meet them together. -/

open Sys2Proof
open Sys2Proof.Machine

set_option maxRecDepth 10000
set_option Elab.async false

-- WellFormed: 05 R104 (an ill-formed term for each check)

theorem test_wf_ldaq : (Instr.ldaq 1 2 true .d .pkg).wellFormed = false := by decide
theorem test_wf_fcvt : (Instr.fcvtToFloat 1 2 .fp32 (.float .fp32)).wellFormed = false := by decide
theorem test_wf_fence : (Instr.fence .rlx .pkg).wellFormed = false := by decide
theorem test_wf_vmerge : (Instr.vmerge 1 2 (.v 3) 0).wellFormed = false := by decide
theorem test_wf_vfcvt : (Instr.vfcvt 1 .fp32 (.imm 3) 0).wellFormed = false := by decide
theorem test_wf_reductions : ((Instr.vredsum 1 2 (.g 3) 0).wellFormed || (Instr.vredmax 1 2 (.imm 3) 0).wellFormed ||
  (Instr.vredmin 1 2 (.g 3) 0).wellFormed || (Instr.vfredsum 1 2 (.imm 3) 0).wellFormed || (Instr.vfredo 1 2 (.g 3) 0).wellFormed) = false := by decide
theorem test_wf_permutes : ((Instr.vperm 1 2 (.g 3) 0).wellFormed || (Instr.vcompress 1 (.imm 3) 0).wellFormed ||
  (Instr.vexpand 1 (.g 3) 0).wellFormed) = false := by decide
theorem test_wf_indexes : ((Instr.vslideup 1 2 (.v 3) 0).wellFormed || (Instr.vslidedn 1 2 (.imm (-1)) 0).wellFormed ||
  (Instr.vextr 1 2 (.q 3)).wellFormed || (Instr.vins 1 2 (.imm 16) 0).wellFormed) = false := by decide
theorem test_wf_vbcast : (Instr.vbcast 1 (.q 0) 0).wellFormed = false := by decide
theorem test_wf_allowed : ((Instr.ldaq 1 2 true .w .pkg).wellFormed && (Instr.fcvtToFloat 1 2 .fp32 (.float .fp64)).wellFormed &&
  (Instr.fence .ar .sys).wellFormed && (Instr.vmerge 1 2 (.v 3) 1).wellFormed && (Instr.vredsum 1 2 (.q 3) 0).wellFormed &&
  (Instr.vslideup 1 2 (.imm 15) 0).wellFormed && (Instr.vbcast 1 (.g 0) 0).wellFormed) = true := by decide

-- Words written out from the encodings (05 R103 to R116). The assembly and the word of each stand in the spec.

/-- The word or words stand for the instruction. -/
def reads (w0 w1 : Nat) (i : Instr) : Prop := decode w0 w1 = .instr i

-- 05 R117: add g3, g4, g5; addi g0, g0, 0; slli g13, g1, 2; limm g10, 0x12345678
theorem test_word_integer : reads 0x000A4182 0 (.add 3 4 5) ∧ reads 0x00000004 0 (.addi 0 0 0) ∧ reads 0x00041690 0 (.slli 13 1 2) ∧
  reads 0x00000503 0x12345678 (.limm 10 0x12345678) := by unfold reads; decide
-- 05 R117: beq g2, g0, 13 words on; 13: strel.d.sys [g28], g5; 06 R136: the two words of its lock
theorem test_word_control : reads 0x0340201C 0 (.beq 2 0 13) ∧ reads 0x0000309E 0 (.jal 1 3) := by unfold reads; decide
theorem test_word_memory : reads 0x5809C298 0 (.strel 5 28 .d .sys) ∧ reads 0x5006A018 0 (.strel 0 10 .w .pkg) ∧ reads 0x18026296 0 (.ldd 5 6 1) ∧ reads 0x0FFE6298 0 (.sth 5 6 (-1)) ∧
  reads 0xEB28AA9A 0 (.amocas 21 10 20 .acq .pkg .w) := by unfold reads; decide
theorem test_word_float : reads 0x020E62A2 0 (.fadd 5 6 7 .fp32) ∧ reads 0x120E62A4 0 (.fma 5 6 7 8 .fp16) := by unfold reads; decide
-- 06 R147: the table of system instructions; R149 to R154
theorem test_word_system : reads 0x80000026 0 .ecall ∧ reads 0x80020026 0 .ebrk ∧ reads 0x80040026 0 .trapret ∧ reads 0x80060026 0 .uret ∧
  reads 0x80080026 0 .wfe ∧ reads 0x800A0026 0 .halt ∧ reads 0x800CA5A6 0 (.tlbinv 11 10) ∧ reads 0x03C00028 0 (.fence .ar .pkg) ∧
  reads 0x0000502A 0 (.safept 5) := by unfold reads; decide
-- 05 R117, 13: setvli g9, g2, fp32; lpreq g21, g20
theorem test_word_config : reads 0x201224B0 0 (.setvli 9 2 .fp32 0 false) ∧ reads 0x40014AB0 0 (.lpreq 21 20) := by unfold reads; decide
-- 07 R185: vsadd v8, v8, -3 ?k2; vcmp.lt k3, v8, 0; vcompress v9, v8 ?k3; kpopc g7, k3, k3; 13: vcmp.lt k1, v4, v2; vadd v1, v1, 1 ?k1; vmv v4, q0
theorem test_word_vector : reads 0x7EBA8432 0 (.vsadd 8 8 (.imm (-3)) 2) ∧ reads 0x160081B4 0 (.vcmpLt 3 8 (.imm 0) 0) ∧
  reads 0x40D004BE 0 (.vcompress 9 (.v 8) 3) ∧ reads 0x200633BC 0 (.kpopc 7 3 3) ∧ reads 0x100440B4 0 (.vcmpLt 1 4 (.v 2) 0) ∧
  reads 0x064210B2 0 (.vadd 1 1 (.imm 1) 1) ∧ reads 0x4C000234 0 (.vmv 4 (.q 0) 0) ∧ reads 0x04404236 0 (.vfadd 4 4 (.q 0) 1) := by
  unfold reads; decide
-- 08 R186 to R208: the words of its tables and examples
theorem test_word_vectorMemory : reads 0x0600A0C0 0 (.vld 1 10 0 0) ∧ reads 0x0E00A0C0 0 (.vldSc 1 10 0 0) ∧ reads 0x0216A140 0 (.vlds 2 10 11 0) ∧
  reads 0x008CA240 0 (.vldx 4 10 6 2) ∧ reads 0x0600C1C2 0 (.vst 3 12 0 0) ∧ reads 0x0602A0C4 0 (.vldq 1 10 1 0) ∧
  reads 0x0800A10B 0x1000 (.vldsImmediate 2 10 0 4096) ∧ reads 0x0016A40B 0 (.vldz 8 10 11 0 0) ∧ reads 0x0216A40B 0 (.vstz 8 10 11 0 0) ∧
  reads 0x0400A60B 0 (.vcopy 12 10 0) ∧ reads 0x061A060B 0 (.vfill 12 13 0) := by unfold reads; decide
theorem test_word_vectorAtomic : reads 0x004CA246 0 (.vamoadd 4 10 (.indexed 6) 1) ∧ reads 0x400CA046 0 (.vpostadd 10 (.indexed 6) 0) ∧
  reads 0x80C0A046 0 (.vcapp 10 3) := by unfold reads; decide
-- 09 R217 to R221
theorem test_word_matrix : reads 0x0000000D 0x010200A3 (.mcfg 3 .bf16 false false 64 64) ∧ reads 0x0000000D 0x004080A1 (.mcfg 1 .bf16 false false 16 16) ∧
  reads 0x0018804C 0 (.mma 0 8 12) ∧ reads 0x0040004C 0 (.mzero 0) ∧ reads 0x0080004C 0 (.mrel 0) ∧
  reads 0x0056A00D 0x80 (.mdrain 0 10 11 0 2 0) := by unfold reads; decide
-- 10 R233 to R246
theorem test_word_remote : reads 0x180EC005 0x85800080 (.rld 0 12 7 .d (some 11) 128) ∧ reads 0x350EC005 8 (.rst 20 12 7 .w none 8) ∧
  reads 0x5D0ECA85 0 (.ramoadd 21 20 12 7 .d none 0) ∧ reads 0x00189407 0xA5000000 (.rapp 8 9 12 2 (some 4)) ∧ reads 0x60000005 0 .rfence := by
  unfold reads; decide
theorem test_word_work : reads 0x0000A04E 0 (.barrive 10) ∧ reads 0x0040A5CE 0 (.bwait 11 10) ∧ reads 0x0080004E 0 .rbatch ∧
  reads 0x0100004E 0 .trigger ∧ reads 0x0140004E 0 .nexts ∧ reads 0x0000A291 0x11 (.launch 5 10 17) ∧ reads 0x0040A291 0 (.crec 5 10) := by
  unfold reads; decide
-- 11 R253 to R277
theorem test_word_fabric : reads 0x0000A00F 0 (.fload 10 0) ∧ reads 0x0000004A 0 (.fswap 0) ∧ reads 0x0000A04A 0 (.fswap 10) ∧
  reads 0x0040004A 0 (.fdrain 0) ∧ reads 0x008003CA 0 (.fstat 7) ∧ reads 0x00D6A04A 0 (.fpush 10 11) ∧ reads 0x0100A64A 0 (.fpop 12 10) := by
  unfold reads; decide
theorem test_word_streams : reads 0x0000BA09 0 (.sopen 20 11 0 false .wait) ∧ reads 0x0000A289 0x15 (.sopen 5 10 1 true .trap) ∧
  reads 0x00400B89 0x0801 (.sbind 23 1 (.fin 0 1)) ∧ reads 0x00400B89 0x8 (.sbind 23 0 (.queue 0)) ∧ reads 0x00800B09 2 (.sclose 22 2) ∧
  reads 0x00C00309 1 (.sstat 6 1) := by unfold reads; decide
-- 12 R281
theorem test_word_weights : reads 0x0000A013 0 (.wdrive 10 0) := by unfold reads; decide
-- 05 R104: word 0, major 0x16, a reserved system function
theorem test_word_reserved : (∃ r, decode 0x00000000 0 = .reserved r) ∧ (∃ r, decode 0x0000002C 0 = .reserved r) ∧
  ∃ r, decode 0x80000826 0 = .reserved r := ⟨⟨_, rfl⟩, ⟨_, rfl⟩, ⟨_, rfl⟩⟩
theorem test_word_table : decodeTableWord 32 0x000A4182 = some (.add 3 4 5) ∧
  decodeTableWord 64 0x1234567800000503 = some (.limm 10 0x12345678) := by decide

-- States for tests

/-- The package at reset with its first boot hart and its memory replaced. -/
def tState (h : Hart) (mem : List Host.Cell) : State := { State.reset with tiles := [(0, { Tile.reset with h0 := h })], mem := mem }

/-- The boot hart at U at 0x1000, with g1 to g4 set. -/
def tHart : Hart := { Hart.boot 0x1000 with level := .u, g := ((((Vector.replicate 32 0).set 1 0x2000).set 2 7).set 3 (-7)).set 4 0x8000000000000000 }

/-- A state at U and one at S. -/
def tU : State := tState tHart [⟨0x2000, 0x34⟩, ⟨0x2001, 0x92⟩]
def tS : State := tState { tHart with level := .s } []

/-- The current hart of the state that an outcome leaves. -/
def hartAfter (o : Host.Outcome State Fault Refusal) : Hart := match o with | .next t => t.hart | _ => Hart.free

-- 06 R127: the sum of -7 and 7 is 0; g0 discards its write. R128: -7 ÷ 7 is -1, with remainder 0; a divisor of zero gives all ones and the dividend
theorem test_add : (hartAfter (exec (.add 6 2 3) tU)).rg 6 = 0 ∧ (hartAfter (exec (.add 0 2 2) tU)).rg 0 = 0 := by decide +kernel
theorem test_div : (hartAfter (exec (.div 6 3 2) tU)).rg 6 = -1 ∧ (hartAfter (exec (.div 6 3 0) tU)).rg 6 = -1 ∧
  (hartAfter (exec (.remn 6 2 0) tU)).rg 6 = 7 := by decide +kernel
-- 06 R132: a half word is sign-extended, or zero-extended in its N form
theorem test_load_half : (hartAfter (exec (.ldh 6 1 0) tU)).rg 6 = 0xFFFFFFFFFFFF9234 ∧ (hartAfter (exec (.ldhN 6 1 0) tU)).rg 6 = 0x9234 := by
  decide +kernel
-- 06 R144: its example of class codes in FP32
theorem test_fclass : (hartAfter (exec (.fclass 6 5 .fp32) (tState { tHart with g := tHart.g.set 5 0x80000000 } []))).rg 6 = 0x08 ∧
  (hartAfter (exec (.fclass 6 5 .fp32) (tState { tHart with g := tHart.g.set 5 0x00000001 } []))).rg 6 = 0x01 ∧
  (hartAfter (exec (.fclass 6 5 .fp32) (tState { tHart with g := tHart.g.set 5 0x7FC00000 } []))).rg 6 = 0x14 ∧
  (hartAfter (exec (.fclass 6 5 .fp32) (tState { tHart with g := tHart.g.set 5 0xFFC00000 } []))).rg 6 = 0x0C := by decide +kernel

-- Division: a divisor of zero, one that is not, the one overflow
theorem test_meets_division : tU.hart.rg 0 = 0 ∧ tU.hart.rg 2 ≠ 0 ∧ tU.hart.rg 4 = BitVec.intMin 64 ∧
  (tState { tHart with g := tHart.g.set 5 (-1) } []).hart.rg 5 = BitVec.allOnes 64 := by decide +kernel

-- BranchesAndJumps: a target at a multiple of 4
theorem test_meets_jump : (tU.hart.rg 1 + (4 : BitVec 15).signExtend 64).toNat % 4 = 0 := by decide +kernel

-- ScalarLoads, ScalarStores, ScalarAtomics: accesses of each size that reach memory, untranslated and translated

/-- Page tables at 0x40000 that map the first two pages of 64 KiB to themselves for every access: A and D are set in the first leaf, clear in the
second (16 R330, R331). -/
def tPages : List Host.Cell :=
  [⟨0x40000, 0x01⟩, ⟨0x40001, 0x10⟩, ⟨0x40002, 0x04⟩, ⟨0x41000, 0x01⟩, ⟨0x41001, 0x20⟩, ⟨0x41002, 0x04⟩,
   ⟨0x42000, 0x01⟩, ⟨0x42001, 0x30⟩, ⟨0x42002, 0x04⟩, ⟨0x43000, 0xFF⟩, ⟨0x43008, 0x3F⟩, ⟨0x4300A, 0x01⟩]

/-- The hart of context 1, translated through those tables. -/
def tMappedHart : Hart := { tHart with ctxid := 1, translated := true, root := 0x40000, asid := 1 }
def tM : State := tState tMappedHart tPages

/-- Decides whether an access reaches memory. -/
def reachesAt (s : State) (a : Actor) (k : AccKind) (n : Nat) (va : Word) (pa ty : Nat) (e : Option (Nat × Nat × Nat)) : Bool :=
  decide (va.toNat % n = 0) && decide (translate s a.sp k va = .ok pa ty e) && decide (ty ≠ 3) &&
  decide (conflict s a.who (lineList pa n) (k == .store) = .serve []) && decide (mustRetry s a.hart (lineList pa n) = false) &&
  decide (∀ l ∈ lineList pa n, ageOf s (askerId a.hart) l = 0) && decide (answerOf s a.hart va n = none) && decide (badIn s pa n = none) &&
  decide (heldAt s a.hart va n = false) && decide (ownOnWay s a.hart (lineList pa n) = false) && decide (ownHeldAt s a.hart (lineList pa n) = none)

theorem reaches_of {s : State} {a : Actor} {k : AccKind} {n : Nat} {va : Word} {pa ty : Nat} {e : Option (Nat × Nat × Nat)}
    (h : reachesAt s a k n va pa ty e = true) : Reaches s a k n va pa ty e := by
  simp only [reachesAt, Bool.and_eq_true, decide_eq_true_eq] at h
  obtain ⟨⟨⟨⟨⟨⟨⟨⟨⟨⟨h1, h2⟩, h3⟩, h4⟩, h5⟩, h6⟩, h7⟩, h8⟩, h9⟩, h10⟩, h11⟩ := h
  exact ⟨h1, h2, h3, h4, h5, h6, h7, h9, fun _ => ⟨h10, h11⟩, h8⟩

theorem test_meets_load : (∀ n ∈ [1, 2, 4, 8], Reaches tU (scalarActor tU tU.cur) .load n 0x2000 0x2000 0 none) ∧
    ∀ n ∈ [1, 2, 4, 8], Reaches tM (scalarActor tM tM.cur) .load n 0x10000 0x10000 0 (some (0x43008, 0x1003F, 16)) :=
  ⟨fun n h => reaches_of ((by decide +kernel : ∀ n ∈ [1, 2, 4, 8], reachesAt tU (scalarActor tU tU.cur) .load n 0x2000 0x2000 0 none = true) n h),
   fun n h => reaches_of ((by decide +kernel : ∀ n ∈ [1, 2, 4, 8],
     reachesAt tM (scalarActor tM tM.cur) .load n 0x10000 0x10000 0 (some (0x43008, 0x1003F, 16)) = true) n h)⟩
theorem test_meets_store : tM.relaxed = false ∧ Settled tM ∧ tM.hart.wcb = [] ∧
    ∀ n ∈ [1, 2, 4, 8], Reaches tM (scalarActor tM tM.cur) .store n 0x10000 0x10000 0 (some (0x43008, 0x1003F, 16)) :=
  ⟨rfl, ⟨rfl, by decide +kernel⟩, by decide +kernel, fun n h => reaches_of ((by decide +kernel : ∀ n ∈ [1, 2, 4, 8],
     reachesAt tM (scalarActor tM tM.cur) .store n 0x10000 0x10000 0 (some (0x43008, 0x1003F, 16)) = true) n h)⟩
-- A store that lags: into the write-combining buffer, and to uncached host memory (TYPE 1), which page tables map
def tHostPages : List Host.Cell :=
  [⟨0x40000, 0x01⟩, ⟨0x40001, 0x10⟩, ⟨0x40002, 0x04⟩, ⟨0x41000, 0x01⟩, ⟨0x41001, 0x20⟩, ⟨0x41002, 0x04⟩,
   ⟨0x42000, 0x01⟩, ⟨0x42001, 0x30⟩, ⟨0x42002, 0x04⟩, ⟨0x43000, 0xFF⟩, ⟨0x43006, 0x08⟩, ⟨0x43007, 0x01⟩]
def tLag : State := { tU with relaxed := true }
def tLagHost : State := { tState tMappedHart tHostPages with relaxed := true }
theorem test_meets_storeLags : tLag.resvs = [] ∧ Memory.wf tLag.mem = true ∧
    (∀ n ∈ [1, 2, 4, 8], (0x2000 : Word).toNat % n = 0) ∧ translate tLag (hartSpace tLag tLag.cur) .store 0x2000 = .ok 0x2000 0 none ∧
    tLagHost.resvs = [] ∧ Memory.wf tLagHost.mem = true ∧
    translate tLagHost (hartSpace tLagHost tLagHost.cur) .store 0x2000 = .ok 0x8000000002000 1 (some (0x43000, 0x01080000000000FF, 16)) := by
  decide +kernel
-- An access that is misaligned, and one whose page is not mapped: va = 0x20000
theorem test_meets_accessTraps : (∀ n ∈ [2, 4, 8], (0x10001 : Word).toNat % n ≠ 0) ∧ (0x20000 : Word).toNat % 8 = 0 ∧
    (∀ k ∈ [AccKind.load, .store], translate tM (hartSpace tM tM.cur) k 0x20000 = .trap (trapOf k.pageFault 0x20000) ∧
      (trapOf k.pageFault 0x20000).code ≠ 0x0E) ∧ tM.resvs = [] ∧ tM.dir = [] ∧ tM.held = [] ∧ tM.hart.answers = [] := by decide +kernel

-- FloatRounding: w = 1 and above; a finite code
theorem test_meets_rounding : (0 : Nat) < 1 ∧ (1 : Nat) < 2 ^ fp32Form.width ∧ fp32Form.decode 1 = .fin false 1 (-149) ∧
    fp32Form ∈ [fp64Form, fp32Form, bf16Form, fp16Form, e4m3Form, e5m2Form, e2m1Form] :=
  ⟨by decide, by decide, by decide, .tail _ (.head _)⟩

-- values between neighbours of E2M1: below its least, between its greatest, 6, and 8, at 8; exact and inexact quotients and roots of BF16
/-- The value of a code in units of 2^K (03 R54). -/
def tValue (f : FForm) (K : Int) (x : Nat) : Nat :=
  if x < 2 ^ f.fbits then x * 2 ^ (1 - f.bias - f.fbits - K).toNat
  else (2 ^ f.fbits + x % 2 ^ f.fbits) * 2 ^ ((x / 2 ^ f.fbits : Nat) - f.bias - f.fbits - K).toNat
theorem test_meets_neighbours : (let f := e2m1Form
      let K : Int := -3
      let v (n : Nat) (e : Int) : Nat := n * 2 ^ (e - K).toNat
      let top : Nat := (2 ^ f.ebits - if f.narrow then 0 else 1) * 2 ^ f.fbits - 1
      K ≤ 1 - f.bias - f.fbits - 2 ∧ 0 < top ∧ tValue f K 0 < v 1 (-3) ∧ v 1 (-3) < tValue f K 1 ∧
      tValue f K top < v 50 (-3) ∧ v 50 (-3) < tValue f K (top + 1) ∧ ¬tValue f K top + tValue f K (top + 1) ≤ 2 * v 50 (-3) ∧
      tValue f K top + tValue f K (top + 1) < 2 * v 60 (-3) ∧ tValue f K (top + 1) ≤ v 1 3) ∧
    (let f := bf16Form
     6 * 2 ^ 4 = 32 * 3 ∧ 341 * 3 < 1 * 2 ^ 10 ∧ 1 * 2 ^ 10 < (341 + 1) * 3 ∧ 682 * 3 < 1 * 2 ^ 11 ∧ 1 * 2 ^ 11 < (682 + 1) * 3 ∧ 2 ^ (f.fbits + 2) ≤ 682 ∧
     4 * 2 ^ 2 = 4 * 4 ∧ (0 : Int) - 2 = 2 * (-1) ∧ 724 * 724 < 2 * 2 ^ 18 ∧ 2 * 2 ^ 18 < (724 + 1) * (724 + 1) ∧ 2 ^ (f.fbits + 2) ≤ 724) := by decide
-- ControlRegisterReads and Writes: at S with nothing queued; the first and last numbers of each range that traps
theorem test_meets_controlRegisters : tS.hart.vq = [] ∧ tS.hart.level = .s ∧ tU.hart.level = .u ∧
    ([(0x100 : BitVec 12), 0x106, 0x1FF].all fun n => 0x100 ≤ n.toNat ∧ n.toNat < 0x200) = true ∧
    ([(9 : BitVec 12), 0xFF, 0x107, 0x1FF, 0x200, 0x3FF, 0x400, 0xFFF].all fun n =>
      0x200 ≤ n.toNat ∨ 0x400 ≤ n.toNat ∨ (9 ≤ n.toNat ∧ n.toNat < 0x100) ∨ (0x107 ≤ n.toNat ∧ n.toNat < 0x200)) = true := by decide +kernel

-- SupervisorWrites: an ill type by bit 63, an ill type by its group, a good one; contexts of the partition
/-- Entry 1 of the context table at 0x100000: valid, ROOT 0x40000, ASID 1 (16 R328). -/
def tContext : List Host.Cell := [⟨0x100010, 0x01⟩, ⟨0x100012, 0x04⟩, ⟨0x100018, 0x01⟩]
theorem test_meets_vectorRegisters : tS.hart.level = .s ∧ (0x8000000000000000 : Word).getLsbD 63 = true ∧ (0x49 : Word).getLsbD 63 = false ∧
    ¬((0x49 : Nat) / 16 % 8 ≤ 3 ∧ (128 ≤ (0x49 : Nat) → False) ∧ 16384 / elemWidth (elemOf (0x49 % 16)) * 2 ^ (0x49 / 16 % 8) ≤ 4096) ∧
    (0x39 : Nat) / 16 % 8 ≤ 3 ∧ 16384 / elemWidth (elemOf (0x39 % 16)) * 2 ^ (0x39 / 16 % 8) ≤ 4096 := by decide +kernel
def tCtx : State := tState { tHart with level := .s, translated := true, ctxid := 1, root := 0x40000, asid := 1, member := some ⟨0, 0⟩ } tContext
theorem test_meets_contextWrite : tCtx.hart.level = .s ∧ partOf tCtx tCtx.cur.tile = some Partition.whole ∧
    ctxEntry tCtx Partition.whole 7 = none ∧ ctxEntry tCtx Partition.whole 1 = some (0x40000, 1) ∧ tCtx.hart.ctxid = 1 ∧
    tCtx.hart.translated = true ∧ tCtx.hart.member = some ⟨0, 0⟩ := by decide +kernel
theorem test_meets_contextZero : ctxEntry (tState tHart [⟨0x100000, 1⟩]) Partition.whole 0 = some (0, 0) ∧ tCtx.hart.ctxid ≠ 0 := by decide +kernel

-- TrapEntryAndEscalation: a trap that does not escalate, at U and at S, at rest and with an instruction queued; one that does
def tQueued : Queued :=
  { instr := .vadd 1 2 (.v 3) 0, pc := 0, g := Vector.replicate 32 0, level := .u, vl := 4, ill := false, vtype := 0x04, vlmax := 512, frm := 0, vmf := 0,
    vmfs := 0, vsreg := 0, ctxid := 0, translated := false, root := 0, asid := 0, takes := none, bound := none, adds := none,
    acc := Vector.replicate 4 AccTile.free, seq := 0 }
theorem test_meets_trapEntry : ¬(tU.hart.level = .s ∧ tU.hart.tip = true) ∧ ¬(tS.hart.level = .s ∧ tS.hart.tip = true) ∧ tU.hart.vq = [] ∧
    tS.hart.vq = [] ∧ (tState { tHart with vq := [tQueued] } []).hart.vq ≠ [] ∧ tS.hart.ctxid = 0 ∧
    (tState { tHart with level := .s, tip := true } []).hart.tip = true := by decide +kernel

-- EnvironmentCalls: functions 0 and 6, and the first unknown one
theorem test_meets_calls : (tState { tHart with level := .s, g := tHart.g.set 10 0 } []).hart.g.get 10 = BitVec.ofNat 64 (0 : Fin 7) ∧
    (tState { tHart with level := .s, g := tHart.g.set 10 6 } []).hart.g.get 10 = BitVec.ofNat 64 (6 : Fin 7) ∧
    7 ≤ ((tState { tHart with level := .s, g := tHart.g.set 10 7 } []).hart.g.get 10).toNat := by decide +kernel

-- Returns: each side of the checks of TRAPRET and URET, settled and not
theorem test_meets_returns : tU.hart.level = .u ∧ (tState { tHart with level := .s, unres := true } []).hart.pp = .u ∧
    ¬(tS.hart.pp = .u ∧ tS.hart.unres = true) ∧ Settled tS ∧ ¬Settled (tState { tHart with level := .s, vq := [tQueued] } []) ∧
    tU.hart.uliActive = false ∧ (tState { tHart with uliActive := true } []).hart.uliActive = true := by
  unfold Settled; decide +kernel

-- WaitsAndInvalidations: a translation that TLBINV drops and lines that CINV drops, at the bounds of its count
theorem test_meets_cinv : Settled tU ∧ (tState { tHart with g := tHart.g.set 5 65535 } []).hart.rg 5 ≠ 0 ∧
    ((tState { tHart with g := tHart.g.set 5 65535 } []).hart.rg 5).toNat < 65536 ∧ (tU.hart.rg 1).toNat + 65534 < 2 ^ 64 ∧
    translate tU (hartSpace tU tU.cur) .fetch (BitVec.ofNat 64 (((tU.hart.rg 1).toNat + 0) / 128 * 128)) = .ok 0x2000 0 none := by
  unfold Settled; decide +kernel

/-- Every hart of a state with tile 0 alone is one of its two or free. -/
theorem harts_of {s : State} {x : Tile} (e : s.tiles = [(0, x)]) (i : HartId) : getHart s i = x.h0 ∨ getHart s i = x.h1 ∨ getHart s i = Hart.free := by
  cases i with
  | mk n b =>
    by_cases hn : n = 0
    · subst hn; cases b
      · exact .inl (by simp [getHart, tileAt, e, alGet, Tile.hart])
      · exact .inr (.inl (by simp [getHart, tileAt, e, alGet, Tile.hart]))
    · have g : alGet s.tiles n = none := by
        rw [e]
        simp only [alGet]
        simp [Ne.symm hn]
      cases b <;> simp [getHart, tileAt, g, Tile.reset, Tile.hart]
-- a cached translation of the page at 0x10000, without and with a write of the hart to it on its way
def tCached : TlbEntry := { asid := 1, glob := false, vpage := 1, bits := 16, leaf := 0x100FF, ppage := 1 }
theorem test_meets_invalidation : (∀ i, (getHart tS i).wcb = [] ∧ (getHart tS i).sentLines = [] ∧ (getHart tS i).vq = []) ∧ tS.hostWrites = [] ∧
    (let s : State := { tState { tMappedHart with level := .s, wcb := [⟨0x10008, 7⟩] } tPages with tlb := [tCached] }
     s.hart.level = .s ∧ tCached ∈ s.tlb ∧ ¬(((0 : GReg) ≠ 0 ∧ (s.hart.rg 0).toNat / 2 ^ tCached.bits ≠ tCached.vpage) ∨ ((0 : GReg) ≠ 0 ∧ tCached.glob = true)) ∧
     (⟨0x10008, 7⟩ : Host.Cell) ∈ (getHart s ⟨0, false⟩).wcb ∧ (0x10008 : Nat) / 2 ^ tCached.bits = tCached.leaf.toNat / 2 ^ 12 % 2 ^ 40 * 4096 / 2 ^ tCached.bits) :=
  ⟨fun i => by rcases harts_of (s := tS) rfl i with h | h | h <;> rw [h] <;> decide +kernel, rfl, by decide +kernel⟩

-- SafePointsAndHalt: a quiet hart at U without and with a request, at S, with a queue that holds an entry; a member of a farm
theorem tU_quiet : Quiet tU := ⟨⟨rfl, by decide +kernel⟩, rfl, rfl, rfl⟩
theorem test_meets_safePoint : Quiet tU ∧ queuesEmpty tU tU.cur = true ∧ tU.hart.sip.getLsbD 0 = false ∧ tU.hart.sptb = 0 ∧
    tU.tile.fabric.owner = none ∧ tU.tile.seqr ≠ some tU.cur.h1 := ⟨tU_quiet, by decide +kernel⟩
theorem test_meets_safePointRequest : Quiet (tState { tHart with sip := 1 } []) ∧ (tState { tHart with sip := 1 } []).hart.sip.getLsbD 0 = true ∧
    queuesEmpty (tState { tHart with sip := 1 } []) ⟨0, false⟩ = true := ⟨⟨⟨rfl, by decide +kernel⟩, rfl, rfl, rfl⟩, by decide +kernel⟩
theorem test_meets_safePointQueue : Quiet (tState { tHart with q := tHart.q.set 3 [0] } []) ∧
    queuesEmpty (tState { tHart with q := tHart.q.set 3 [0] } []) ⟨0, false⟩ = false := ⟨⟨⟨rfl, by decide +kernel⟩, rfl, rfl, rfl⟩, by decide +kernel⟩
def tFarmHart : FarmHart := { start := 0, cnt := 1, placed := true, place := some ⟨0, false⟩, exited := false, triggered := false, arrivals := 0 }
def tPacket : Packet := { entry := 0x1000, n := 1, s := 1, crec := 0, harts := 1, gang := false, prot := false, place := 2, tge := 0xFFFF, args := Vector.replicate 10 0 }
def tFarm : Farm := { id := 0, part := 0, queue := 0, cls := 0, ctx := 1, shb := 0, packet := tPacket, waitsGraph := false, nextStrip := 1, harts := [tFarmHart], tiles := [0], verdict := .clean, firstKind := 0, triggered := false, killed := false, bittern := 0, victim := none, since := 0 }
/-- A state with a farm whose index 0 the current hart runs. -/
def tPlaced (h : Hart) (mem : List Host.Cell) : State := { tState { h with member := some ⟨0, 0⟩ } mem with farms := [tFarm], nextFarm := 1 }
theorem test_meets_halt : Quiet (tPlaced tHart []) ∧ (tPlaced tHart []).tile.fabric.owner = none ∧ (∀ e ∈ (tPlaced tHart []).tile.engines.toList, e = none) ∧
    (∀ x ∈ (tPlaced tHart []).tile.acc.toList, x.owner ≠ some (tPlaced tHart []).cur.h1) ∧ (tPlaced tHart []).hart.member = some ⟨0, 0⟩ ∧
    tU.hart.member = none ∧ tS.hart.level = .s := ⟨⟨⟨rfl, by decide +kernel⟩, rfl, rfl, rfl⟩, by decide +kernel⟩

-- Vector instructions: a hart of context 0 that owns eight clusters, with a type of width w and VL 4

/-- The hart with an element type. -/
def tVecHart (ty : BitVec 8) (w : Nat) : Hart :=
  { tHart with vtype := ty, ill := false, vlmax := BitVec.ofNat 16 (16384 / w), vl := 4, eff := 0xFF, clusters := 8, vownV := true,
               k := (Vector.replicate 8 0).set 1 5 }
def tVec (ty : BitVec 8) (w : Nat) : State := tState (tVecHart ty w) []
/-- A load-data queue 0 that holds one entry. -/
def tVecQueue (ty : BitVec 8) (w : Nat) : State := tState { tVecHart ty w with q := tHart.q.set 0 [5] } []

theorem ready_of {i : Instr} {s : State} (h : (vecTrap i s = none ∧ ((vecForm i).bind fun f => f.queue) = none) ∧ s.relaxed = false ∧ s.hart.vq = []) :
    VecReady i s [] s := ⟨h.1.1, h.2.1, h.2.2, by rw [h.1.2]; rfl⟩

theorem ok_of {α β : Type} {e : Except α β} {x : β} (h : e.toOption = some x) : e = .ok x := by
  cases e with
  | error _ => cases h
  | ok _ => cases h; rfl

/-- Decides whether an instruction without a queue operand runs at once. -/
def readyAt (s : State) (i : Instr) : Bool :=
  decide (vecTrap i s = none) && ((vecForm i).bind fun f => f.queue).isNone && !s.relaxed && s.hart.vq.isEmpty

theorem readyAt_iff {s : State} {i : Instr} (h : readyAt s i = true) : VecReady i s [] s := by
  simp only [readyAt, Bool.and_eq_true, decide_eq_true_eq, Bool.not_eq_true', List.isEmpty_iff, Option.isNone_iff_eq_none] at h
  exact ready_of ⟨⟨h.1.1.1, h.1.1.2⟩, h.1.2, h.2⟩

theorem readyAll {s : State} {l : List Instr} (h : (l.all (readyAt s)) = true) : ∀ i ∈ l, VecReady i s [] s :=
  fun i hi => readyAt_iff (List.all_eq_true.mp h i hi)

-- 07 R170: the sum of 7 and 7 wraps in 32 bits; at U the register becomes dirty (15 R320)
theorem test_vadd : (hartAfter (exec (.vadd 1 2 (.g 3) 0) (tState { tVecHart 0x04 32 with v := tHart.v.set 2 7 } []))).elem 1 32 512 0 = 0 ∧
    (hartAfter (exec (.vadd 1 2 (.g 3) 0) (tState { tVecHart 0x04 32 with v := tHart.v.set 2 7 } []))).vdirty = 2 := by decide +kernel

-- SetVl: a hart that owns its vector unit, at U and at S, with a type in a register below and above 255, a fresh one, with and without entries
theorem test_meets_setVl : (tVec 0x04 32).hart.vq = [] ∧ (tVec 0x04 32).hart.vownV = true ∧ (tVec 0x04 32).hart.vownId = (tVec 0x04 32).hart.ctxid ∧
    (tVec 0x04 32).hart.level = .u ∧ (tVec 0x04 32).hart.fresh = true ∧ queuesEmpty (tVec 0x04 32) ⟨0, false⟩ = true ∧
    queuesEmpty (tVecQueue 0x04 32) ⟨0, false⟩ = false ∧ tS.hart.level = .s ∧ ((tVec 0x04 32).hart.rg 2).toNat < 256 ∧
    ¬((tVec 0x04 32).hart.rg 1).toNat < 256 := by decide +kernel

-- VectorInteger
theorem test_meets_vectorInteger : (tVec 0x04 32).hart.shaped ∧ ∀ i ∈ [Instr.vadd 1 2 (.v 3) 0, .vsub 1 2 (.g 3) 1, .vmul 1 2 (.imm 3) 0,
      .vmulh 1 2 (.v 3) 0, .vmadd 1 2 (.v 3) 0, .vsll 1 2 (.v 3) 0, .vsrl 1 2 (.v 3) 0, .vsra 1 2 (.v 3) 0, .vmin 1 2 (.v 3) 0, .vmax 1 2 (.v 3) 0,
      .vminn 1 2 (.v 3) 0, .vmaxn 1 2 (.v 3) 0, .vsadd 1 2 (.v 3) 0, .vssub 1 2 (.v 3) 0, .vand 1 2 (.v 3) 0, .vor 1 2 (.v 3) 0, .vxor 1 2 (.v 3) 0,
      .vmerge 1 2 (.v 3) 1, .vmv 1 (.v 3) 0, .vbcast 1 (.v 3) 0, .vins 1 2 (.g 3) 0, .vins 1 2 (.imm 0) 0], VecReady i (tVec 0x04 32) [] (tVec 0x04 32) :=
  ⟨⟨by decide +kernel, fun _ => ⟨by decide +kernel, by decide +kernel, 8, by decide, by decide +kernel⟩⟩, readyAll (by decide +kernel)⟩
theorem test_meets_vectorQueueOperand : (tVecQueue 0x04 32).hart.shaped ∧ VecReady (.vadd 1 2 (.q 0) 1) (tVecQueue 0x04 32) [5] (tVec 0x04 32) :=
  ⟨⟨by decide +kernel, fun _ => ⟨by decide +kernel, by decide +kernel, 8, by decide, by decide +kernel⟩⟩,
   ⟨by decide +kernel, rfl, rfl, ok_of (by decide +kernel)⟩⟩

theorem test_meets_vectorScaled : (tVec 0x8C 8).hart.shaped ∧ vtSc (tVec 0x8C 8).hart.vtype = true ∧
    ∀ i ∈ [Instr.vand 1 2 (.v 3) 0, .vmerge 1 2 (.v 3) 1, .vmv 1 (.v 3) 0, .vfadd 1 2 (.v 3) 0, .vfdiv 1 2 (.v 3) 0, .vfcmpEq 1 2 (.v 3) 0,
      .vfcvt 1 .fp32 (.v 4) 0], VecReady i (tVec 0x8C 8) [] (tVec 0x8C 8) :=
  ⟨⟨by decide +kernel, fun _ => ⟨by decide +kernel, by decide +kernel, 8, by decide, by decide +kernel⟩⟩, by decide +kernel, readyAll (by decide +kernel)⟩

-- VectorComparesAndMasks
theorem test_meets_vectorCompares : (∀ i ∈ [Instr.vcmpEq 1 2 (.v 3) 0, .vcmpNe 1 2 (.g 3) 1, .vcmpLt 1 2 (.imm 3) 0, .vcmpGe 1 2 (.v 3) 0,
      .vcmpLtn 1 2 (.v 3) 0, .vcmpGen 1 2 (.v 3) 0, .kand 1 2 3, .kor 1 2 3, .kxor 1 2 3, .knot 1 2, .kmov 1 2, .kpopc 1 2 3, .kfirst 1 2 3],
      VecReady i (tVec 0x04 32) [] (tVec 0x04 32)) ∧
    ∀ i ∈ [Instr.vfcmpEq 1 2 (.v 3) 0, .vfcmpNe 1 2 (.v 3) 0, .vfcmpLt 1 2 (.v 3) 0, .vfcmpLe 1 2 (.v 3) 0],
      VecReady i (tVec 0x09 32) [] (tVec 0x09 32) := ⟨readyAll (by decide +kernel), readyAll (by decide +kernel)⟩

-- VectorFloat, VectorConvert
theorem tVecFloat_shaped : (tVec 0x09 32).hart.shaped :=
  ⟨by decide +kernel, fun _ => ⟨by decide +kernel, by decide +kernel, 8, by decide, by decide +kernel⟩⟩
theorem test_meets_vectorFloat : (tVec 0x09 32).hart.shaped ∧ ∀ i ∈ [Instr.vfadd 1 2 (.v 3) 0, .vfsub 1 2 (.v 3) 1, .vfmul 1 2 (.v 3) 0, .vfdiv 1 2 (.v 3) 0,
      .vfsqrt 1 (.v 3) 0, .vfmin 1 2 (.v 3) 0, .vfmax 1 2 (.v 3) 0, .vfma 1 2 (.v 3) 0, .vfnma 1 2 (.v 3) 0, .vfexp2 1 (.v 3) 0, .vfrcp 1 (.v 3) 0,
      .vfrsq 1 (.v 3) 0], VecReady i (tVec 0x09 32) [] (tVec 0x09 32) := ⟨tVecFloat_shaped, readyAll (by decide +kernel)⟩
theorem test_meets_vectorConvert : ∀ i ∈ [Instr.vfcvt 1 .i32 (.v 3) 0, .vfcvt 1 .fp32 (.v 3) 0, .vfcvt 2 .bf16 (.v 4) 1],
    VecReady i (tVec 0x09 32) [] (tVec 0x09 32) := readyAll (by decide +kernel)

-- VectorPermutesAndReductions; of VFREDSUM also no, one, three and four active elements
theorem test_meets_permutes : ∀ i ∈ [Instr.vslideup 1 2 (.g 2) 0, .vslidedn 1 2 (.imm 3) 0, .vperm 1 2 (.v 3) 0, .vcompress 1 (.v 3) 1,
      .vexpand 1 (.v 3) 1, .viota 1 2 0, .vextr 1 2 (.imm 3), .vredsum 1 2 (.v 3) 0, .vredmax 1 2 (.v 3) 0, .vredmin 1 2 (.v 3) 0],
    VecReady i (tVec 0x04 32) [] (tVec 0x04 32) := readyAll (by decide +kernel)
theorem test_meets_reductions : (∀ i ∈ [Instr.vfredsum 1 2 (.v 3) 0, .vfredo 1 2 (.v 3) 0], VecReady i (tVec 0x09 32) [] (tVec 0x09 32)) ∧
    (tVec 0x09 32).hart.vl.toNat = 4 ∧ VecReady (.vfredsum 1 2 (.v 3) 0) (tState { tVecHart 0x09 32 with vl := 3 } []) [] (tState { tVecHart 0x09 32 with vl := 3 } []) ∧
    VecReady (.vfredsum 1 2 (.v 3) 2) (tVec 0x09 32) [] (tVec 0x09 32) ∧ ((List.range 4).filter ((tVec 0x09 32).hart.maskOn 2)) = [] ∧
    ((List.range 1).filter ((tVec 0x09 32).hart.maskOn 1)) = [0] :=
  ⟨readyAll (by decide +kernel), by decide +kernel, readyAt_iff (by decide +kernel), readyAt_iff (by decide +kernel), by decide +kernel, by decide +kernel⟩

/-- The nodes of the tree over some leaves, level by level (03 R70). -/
def tNode {α : Type} (leaf : Nat → Option α) (add : α → α → α) : Nat → Nat → Option α
  | 0, i => leaf i
  | l + 1, i => match tNode leaf add l (2 * i), tNode leaf add l (2 * i + 1) with
    | some p, some q => some (add p q) | some p, none => some p | none, q => q
theorem test_meets_tree (leaf : Nat → Option FOut) (add : FOut → FOut → FOut) : (∃ node : Nat → Nat → Option FOut, (∀ i, node 0 i = leaf i) ∧
      ∀ l i, node (l + 1) i = match node l (2 * i), node l (2 * i + 1) with
        | some p, some q => some (add p q) | some p, none => some p | none, q => q) ∧ (tVec 0x09 32).hart.vl.toNat ≤ 2 ^ 2 :=
  ⟨⟨tNode leaf add, fun _ => rfl, fun l i => by
     cases h : tNode leaf add l (2 * i) <;> cases h' : tNode leaf add l (2 * i + 1) <;> simp [tNode, h, h']⟩, by decide +kernel⟩

-- VectorQueues: a queue no engine binds, with an entry and without; a bound queue with too few entries, and one that has ended; effects that lag
def tDesc : StreamDesc := { base := 0x2000, icnt := 4, ocnt := 1, istr := 4, ostr := 0, esize := 4, enc := 0, tagm := 0, rsv := false, bytes := 0, sbar := 0 }
def tEngine : EngineState := { h1 := false, ctx := 0, phase := .inUse, wr := false, policy := .wait, desc := tDesc, root := none, part := 0, bind := .queue 1, shape := some { fmt := .i32, width := 32, perEntry := 512, frm := 0 }, count := 0, pos := 0, bytePos := 0, pending := [], half := none, partElems := 0, partBits := 0, entries := [], entryFlags := [], partFlags := 0, done := false, err := false, cause := 0, swf := false, discarding := false, drained := false, pages := [], registering := [] }
/-- The current tile with engine 1 held. -/
def tEngineState (h : Hart) (x : EngineState) (mem : List Host.Cell) : State :=
  { State.reset with tiles := [(0, { Tile.reset with h0 := h, engines := (Vector.replicate 4 none).set 1 (some x) })], mem := mem }
theorem test_meets_queues : boundEngine (tVec 0x04 32) ⟨0, false⟩ 3 = none ∧ ((tVec 0x04 32).hart.q.get 3).length < 1 ∧
    (tVec 0x04 32).hart.ill = false ∧
    boundEngine (tEngineState (tVecHart 0x04 32) tEngine []) ⟨0, false⟩ 1 = some (1, tEngine) ∧ tEngine.entries.length < vtG 0x04 ∧ tEngine.done = false ∧
    boundEngine (tEngineState (tVecHart 0x04 32) { tEngine with done := true } []) ⟨0, false⟩ 1 = some (1, { tEngine with done := true }) ∧
    vtG 0x04 ≤ ({ tEngine with entries := [7] }).entries.length := by decide +kernel
theorem test_meets_queueRoom : vtG 0x34 = 8 ∧ (let x : EngineState := { tEngine with entries := [1, 2, 3], entryFlags := [0, 0, 0] }
      let y : EngineState := { x with taken := [(5, 0), (6, 0), (7, 8), (8, 0)], entries := [1, 2, 3, 4], entryFlags := [0, 0, 0, 2] }
      boundEngine (tEngineState (tVecHart 0x34 32) x []) ⟨0, false⟩ 1 = some (1, x) ∧ (x.taken ++ x.entries.zip x.entryFlags).length < 8 ∧ x.done = false ∧
      boundEngine (tEngineState (tVecHart 0x34 32) y []) ⟨0, false⟩ 1 = some (1, y) ∧ 8 ≤ (y.taken ++ y.entries.zip y.entryFlags).length ∧
      ((match consume (tEngineState (tVecHart 0x34 32) y []) (some 1) with | .ok (l, t) => (l, t.hart.fflags) | .error _ => ([], 0)) =
        ([5, 6, 7, 8, 1, 2, 3, 4], 10))) := by decide +kernel
theorem test_meets_vectorLag : ({ tVec 0x04 32 with relaxed := true }).hart.vq.length < 64 ∧
    vecTrap (.vadd 1 2 (.g 3) 1) { tVec 0x04 32 with relaxed := true } = none ∧
    (getHart { tState { tVecHart 0x04 32 with vq := [tQueued] } [] with events := [.event (.vectorInstructionRetirement ⟨0, false⟩)] } ⟨0, false⟩).vq = tQueued :: [] ∧
    (tVecHart 0x04 32).badStore = [] ∧ (tVecHart 0x04 32).replay = none := by
  decide +kernel

-- Vector memory: g1 = 0x2000; g5 a stride; v6 the byte offsets 0, 4, 8 and 12

def tOffsets : VWord := 0x0000000C000000080000000400000000
def tMemHart (ty : BitVec 8) (w : Nat) (vmf : BitVec 12) : Hart :=
  { tVecHart ty w with vmf := vmf, g := (tHart.g.set 5 8).set 7 0x20000, v := tHart.v.set 6 tOffsets }
def tMem (ty : BitVec 8) (w : Nat) (vmf : BitVec 12) (mem : List Host.Cell) : State := tState (tMemHart ty w vmf) mem

theorem calm_of {s : State} (h : s.relaxed = false ∧ s.resvs = [] ∧ s.dir = [] ∧ s.bad = [] ∧ s.held = [] ∧ s.hart.answers = [] ∧
    s.hart.wcb = [] ∧ s.hart.heldWrites = 0 ∧ (s.hostWrites = [] ∧ s.hart.sentLines = []) ∧ s.refused = [] ∧ Memory.wf s.mem = true) : Calm s := by
  obtain ⟨h1, h2, h3, h4, h5, h6, h7, h8, h9, h10, h11⟩ := h
  exact ⟨h1, h2, h3, h4, ⟨h5, h6⟩, ⟨h7, h8, h9⟩, h10, h11⟩

/-- An untranslated access. -/
theorem plain_of {s : State} {k : AccKind} {n : Nat} {va : Word} {pa : Nat}
    (h : va.toNat % n = 0 ∧ translate s (hartSpace s s.cur) k va = .ok pa 0 none) : Plain s k n va pa := ⟨h.1, 0, none, h.2, by decide, rfl⟩

/-- A list of untranslated accesses. -/
def plainAll (s : State) (k : AccKind) (n m : Nat) (va : Nat → Word) (pa : Nat → Nat) : Bool :=
  (List.range m).all fun j => decide ((va j).toNat % n = 0) && decide (translate s (hartSpace s s.cur) k (va j) = .ok (pa j) 0 none)

theorem plainAll_iff {s : State} {k : AccKind} {n m : Nat} {va : Nat → Word} {pa : Nat → Nat} (h : plainAll s k n m va pa = true) :
    ∀ j, j < m → Plain s k n (va j) (pa j) := by
  intro j hj
  have := List.all_eq_true.mp h j (List.mem_range.mpr hj)
  simp only [Bool.and_eq_true, decide_eq_true_eq] at this
  exact plain_of this

/-- The same whatever memory holds, since nothing is translated. -/
theorem plain_any {s : State} {k : AccKind} {n m : Nat} {va : Nat → Word} {pa : Nat → Nat} (u : (hartSpace s s.cur).table = none)
    (h : plainAll s k n m va pa = true) (c : List Host.Cell) : ∀ j, j < m → Plain { s with mem := c } k n (va j) (pa j) := by
  intro j hj
  have := List.all_eq_true.mp h j (List.mem_range.mpr hj)
  simp only [Bool.and_eq_true, decide_eq_true_eq] at this
  refine plain_of ⟨this.1, Eq.trans ?_ this.2⟩
  show translate { s with mem := c } (hartSpace s s.cur) k (va j) = _
  simp [Sys2Proof.Machine.translate, u]

theorem below_of {h : Hart} {k : KReg} {i : Nat} (p : h.performs k i) : i < h.vl.toNat := p.1.1

-- VectorLoads: every form reaches its elements; a translated access; the elements at which a strided load stops
theorem tMem_shaped : (tMem 0x04 32 0x1F []).hart.shaped :=
  ⟨by decide +kernel, fun _ => ⟨by decide +kernel, by decide +kernel, 8, by decide, by decide +kernel⟩⟩
theorem tMem_calm : Calm (tMem 0x04 32 0x1F []) := calm_of (by decide +kernel)
theorem test_meets_vectorLoads : Calm (tMem 0x04 32 0x1F []) ∧ (tMem 0x04 32 0x1F []).hart.shaped ∧ packedType (vmfEnc (tMem 0x04 32 0x1F []).hart.vmf) = none ∧
    (∀ i ∈ [Instr.vld 1 1 0 0, .vldSc 1 1 0 0, .vlds 1 1 5 0, .vldx 1 1 6 0, .vldsImmediate 1 1 0 8, .vldq 0 1 0 0, .vldqStrided 0 1 5 0, .vldqIndexed 0 1 6 0],
      vecTrap i (tMem 0x04 32 0x1F []) = none) ∧
    (∀ j, (tMem 0x04 32 0x1F []).hart.performs 0 j → Plain (tMem 0x04 32 0x1F []) .load 4 (0x2000 + 0 * 128 + BitVec.ofNat 64 (j * 32 / 8)) (0x2000 + 4 * j)) ∧
    (∀ j, (tMem 0x04 32 0x1F []).hart.performs 0 j → Plain (tMem 0x04 32 0x1F []) .load 4 (0x2000 + BitVec.ofNat 64 j * 8) (0x2000 + 8 * j)) ∧
    (∀ j, (tMem 0x04 32 0x1F []).hart.performs 0 j →
      Plain (tMem 0x04 32 0x1F []) .load 4 (0x2000 + BitVec.ofNat 64 ((tMem 0x04 32 0x1F []).hart.indexElem 6 j)) (0x2000 + 4 * j)) ∧
    (tMem 0x04 32 0x1F []).hart.ves = 0 ∧ Settled (tMem 0x04 32 0x1F []) :=
  ⟨tMem_calm, tMem_shaped, by decide +kernel, by decide +kernel,
   fun j h => plainAll_iff (m := 4) (va := fun j => 0x2000 + 0 * 128 + BitVec.ofNat 64 (j * 32 / 8)) (pa := fun j => 0x2000 + 4 * j) (by decide +kernel) j (below_of h),
   fun j h => plainAll_iff (m := 4) (va := fun j => 0x2000 + BitVec.ofNat 64 j * 8) (pa := fun j => 0x2000 + 8 * j) (by decide +kernel) j (below_of h),
   fun j h => plainAll_iff (m := 4) (va := fun j => 0x2000 + BitVec.ofNat 64 ((tMem 0x04 32 0x1F []).hart.indexElem 6 j)) (pa := fun j => 0x2000 + 4 * j)
     (by decide +kernel) j (below_of h),
   by decide +kernel, ⟨rfl, by decide +kernel⟩⟩
/-- The same hart translated: the first page may be read and written, and its leaf entry is marked; the page at 0x20000 is not mapped. -/
def tMapped : State := tState { tMemHart 0x04 32 0x1F with ctxid := 1, vownId := 1, translated := true, root := 0x40000, asid := 1 } tPages
theorem test_meets_plainTranslated : Plain tMapped .store 4 0x2000 0x2000 :=
  ⟨by decide, 0, some (0x43000, 0xFF, 16), by decide +kernel, by decide, rfl⟩
theorem test_meets_loadStops : vecTrap (.vlds 1 1 7 0) tMapped = none ∧ ¬(tMapped.hart.level = .s ∧ tMapped.hart.tip = true) ∧ tMapped.hart.performs 0 1 ∧
    (∀ i, tMapped.hart.performs 0 i → i < 1 → Plain tMapped .load 4 (0x2000 + BitVec.ofNat 64 i * 0x20000) 0x2000) ∧
    ((0x2000 + BitVec.ofNat 64 1 * 0x20000 : Word).toNat % 4 = 0 ∧
      translate tMapped (hartSpace tMapped tMapped.cur) .load 0x22000 = .trap (trapOf 0x06 0x22000) ∧ (trapOf 0x06 0x22000).code ≠ 0x0E) ∧
    (0x2000 + BitVec.ofNat 64 1 * 2 : Word).toNat % 4 ≠ 0 :=
  ⟨by decide +kernel, by decide +kernel, ⟨⟨by decide +kernel, .inl rfl⟩, by decide +kernel⟩,
   fun i _ hi => by
     have : i = 0 := by omega
     subst this
     exact ⟨by decide, 0, some (0x43000, 0xFF, 16), by decide +kernel, by decide, rfl⟩,
   by decide +kernel, by decide⟩

/-- A hart at the edge of the one page that is mapped, which starts at 0: of four elements at 0xFFF8 two are reached, and the first of those whose
offsets or multiples pass 0x10000. -/
def tEdge : State := tState { tMapped.hart with g := (tMapped.hart.g.set 8 0xFFF8).set 7 0x10000, v := tHart.v.set 6 0x000200000002000000000000 } (tPages.take 10)
def edgeAll (m : Nat) (va : Nat → Word) (pa : Nat → Nat) : Bool :=
  (List.range m).all fun i => [AccKind.load, .store].all fun k =>
    decide ((va i).toNat % 4 = 0) && decide (translate tEdge (hartSpace tEdge tEdge.cur) k (va i) = .ok (pa i) 0 (some (0x43000, 0xFF, 16)))
theorem edge_plain {k : AccKind} (h : k = .load ∨ k = .store) (m : Nat) (va : Nat → Word) (pa : Nat → Nat) (g : edgeAll m va pa = true) :
    ∀ i, i < m → Plain tEdge k 4 (va i) (pa i) := by
  intro i hi
  have := List.all_eq_true.mp g i (List.mem_range.mpr hi)
  simp only [List.all_cons, List.all_nil, Bool.and_true, Bool.and_eq_true, decide_eq_true_eq] at this
  rcases h with rfl | rfl
  · exact ⟨this.1.1, 0, _, this.1.2, by decide, rfl⟩
  · exact ⟨this.2.1, 0, _, this.2.2, by decide, rfl⟩
theorem test_meets_stops : (∀ i ∈ [Instr.vld 1 8 0 0, .vldSc 1 8 0 0, .vlds 1 1 7 0, .vldx 1 1 6 0, .vldsImmediate 1 1 0 0x10000, .vldq 0 8 0 0,
      .vldqStrided 0 1 7 0, .vldqIndexed 0 1 6 0, .vst 1 8 0 0, .vsts 1 1 7 0, .vstx 1 1 6 0, .vstsImmediate 1 1 0 0x10000], vecTrap i tEdge = none) ∧
    tEdge.hart.ves = 0 ∧ tEdge.hart.openTail = none ∧ tEdge.hart.performs 0 2 ∧ tEdge.hart.performs 0 1 ∧
    (∀ k, k = AccKind.load ∨ k = .store →
      (∀ i, i < 2 → Plain tEdge k 4 (0xFFF8 + (0 : BitVec 5).signExtend 64 * 128 + BitVec.ofNat 64 (i * 32 / 8)) (0xFFF8 + 4 * i)) ∧
      (∀ i, i < 1 → Plain tEdge k 4 (0x2000 + BitVec.ofNat 64 i * 0x10000) 0x2000) ∧
      (∀ i, i < 1 → Plain tEdge k 4 (0x2000 + BitVec.ofNat 64 (tEdge.hart.indexElem 6 i)) 0x2000)) ∧
    ([AccKind.load, .store].all fun k => [(0x10000 : Word), 0x12000, 0x22000].all fun va => decide (va.toNat % 4 = 0) &&
      decide (translate tEdge (hartSpace tEdge tEdge.cur) k va = .trap (trapOf k.pageFault va)) && decide ((trapOf k.pageFault va).code ≠ 0x0E)) = true ∧
    (0xFFF8 + (0 : BitVec 5).signExtend 64 * 128 + BitVec.ofNat 64 (2 * 32 / 8) : Word) = 0x10000 ∧
    (0x2000 + BitVec.ofNat 64 1 * 0x10000 : Word) = 0x12000 ∧ (0x2000 + BitVec.ofNat 64 (tEdge.hart.indexElem 6 1) : Word) = 0x22000 :=
  ⟨by decide +kernel, by decide +kernel, by decide +kernel, ⟨⟨by decide +kernel, .inl rfl⟩, by decide +kernel⟩, ⟨⟨by decide +kernel, .inl rfl⟩, by decide +kernel⟩,
   fun _ h => ⟨edge_plain h 2 (fun i => 0xFFF8 + (0 : BitVec 5).signExtend 64 * 128 + BitVec.ofNat 64 (i * 32 / 8)) (fun i => 0xFFF8 + 4 * i) (by decide +kernel),
     edge_plain h 1 (fun i => 0x2000 + BitVec.ofNat 64 i * 0x10000) (fun _ => 0x2000) (by decide +kernel),
     edge_plain h 1 (fun i => 0x2000 + BitVec.ofNat 64 (tEdge.hart.indexElem 6 i)) (fun _ => 0x2000) (by decide +kernel)⟩,
   by decide +kernel, by decide, by decide, by decide +kernel⟩

-- VectorStores: every form; elements apart; copies and fills; 4-bit elements
theorem apart_of {s : State} {w : Nat} (hw : w ≠ 4) {k : KReg} {pa : Nat → Nat} {m : Nat} (hv : s.hart.vl.toNat ≤ m)
    (h : ∀ i, i < m → ∀ j, j < m → i ≠ j → pa i + elemBytes w ≤ pa j ∨ pa j + elemBytes w ≤ pa i) : Apart w (s.hart.performs k) pa :=
  ⟨fun _ i j hi hj hn => h i (by have := below_of hi; omega) j (by have := below_of hj; omega) hn, fun e => absurd e hw⟩
theorem test_meets_vectorStores : (∀ i ∈ [Instr.vst 1 1 0 0, .vstSc 1 1 0 0, .vsts 1 1 5 0, .vstx 1 1 6 0, .vstsImmediate 1 1 0 8, .vcopy 1 5 0, .vfill 1 2 0],
      vecTrap i (tMem 0x04 32 0x1F []) = none) ∧
    (∀ j, (tMem 0x04 32 0x1F []).hart.performs 0 j → Plain (tMem 0x04 32 0x1F []) .store 4 (0x2000 + 0 * 128 + BitVec.ofNat 64 (j * 32 / 8)) (0x2000 + 4 * j)) ∧
    (∀ j, (tMem 0x04 32 0x1F []).hart.performs 0 j → Plain (tMem 0x04 32 0x1F []) .load 4 (8 + BitVec.ofNat 64 (j * 32 / 8)) (8 + 4 * j)) ∧
    Apart 32 ((tMem 0x04 32 0x1F []).hart.performs 0) (fun j => 0x2000 + 4 * j) :=
  ⟨by decide +kernel,
   fun j h => plainAll_iff (m := 4) (va := fun j => 0x2000 + 0 * 128 + BitVec.ofNat 64 (j * 32 / 8)) (pa := fun j => 0x2000 + 4 * j) (by decide +kernel) j (below_of h),
   fun j h => plainAll_iff (m := 4) (va := fun j => 8 + BitVec.ofNat 64 (j * 32 / 8)) (pa := fun j => 8 + 4 * j) (by decide +kernel) j (below_of h),
   apart_of (m := 4) (by decide) (by decide +kernel) (by decide)⟩
-- VST.sc: the accesses are plain whatever memory holds, since nothing is translated
theorem test_meets_storeSc : ∀ m, Memory.wf m = true → ∀ j, (tMem 0x04 32 0x1F []).hart.performs 0 j →
    Plain { tMem 0x04 32 0x1F [] with mem := m } .store 4 (0x2000 + BitVec.ofNat 64 (j * 32 / 8)) (0x2000 + 4 * j) :=
  fun c _ j h => plain_any (m := 4) (va := fun j => 0x2000 + BitVec.ofNat 64 (j * 32 / 8)) (pa := fun j => 0x2000 + 4 * j) (by decide +kernel)
    (by decide +kernel) c j (below_of h)
-- VST.sc that stops: two elements below the end of memory at 2^40, where no window is, whatever memory holds
def tShore : State := tState { tMemHart 0x04 32 0x1F with g := tHart.g.set 8 0xFFFFFFFFF8 } []
theorem test_meets_stopsSc : vecTrap (.vstSc 1 8 0 0) tShore = none ∧ tShore.hart.performs 0 2 ∧
    (translate tShore (hartSpace tShore tShore.cur) .store 0x10000000000 = .trap { code := 0x08, sub := 1, tval := 0x10000000000, unres := false } ∧
      (0x10000000000 : Word).toNat % 4 = 0) ∧
    ∀ m, Memory.wf m = true → (∀ i, tShore.hart.performs 0 i → i < 2 →
        Plain { tShore with mem := m } .store 4 (0xFFFFFFFFF8 + (0 : BitVec 5).signExtend 64 * 128 + BitVec.ofNat 64 (i * 32 / 8)) (0xFFFFFFFFF8 + 4 * i)) ∧
      translate { tShore with mem := m } (hartSpace tShore tShore.cur) .store 0x10000000000 = translate tShore (hartSpace tShore tShore.cur) .store 0x10000000000 :=
  ⟨by decide +kernel, ⟨⟨by decide +kernel, .inl rfl⟩, by decide +kernel⟩, by decide +kernel, fun c _ =>
    ⟨fun i _ hi => plain_any (m := 2) (va := fun i => 0xFFFFFFFFF8 + (0 : BitVec 5).signExtend 64 * 128 + BitVec.ofNat 64 (i * 32 / 8))
        (pa := fun i => 0xFFFFFFFFF8 + 4 * i) (by decide +kernel) (by decide +kernel) c i hi,
     by have u : (hartSpace tShore tShore.cur).table = none := by decide +kernel
        simp [Sys2Proof.Machine.translate, u]⟩⟩
-- 4-bit elements (E2M1, unscaled): two to a byte
theorem test_meets_storeHalves : (tMem 0x0E 4 0x1F []).hart.storedWidth = 4 ∧ vecTrap (.vst 1 1 0 0) (tMem 0x0E 4 0x1F []) = none ∧
    Apart 4 ((tMem 0x0E 4 0x1F []).hart.performs 0) (fun j => 0x2000 + j / 2) :=
  ⟨by decide +kernel, by decide +kernel, ⟨fun h => absurd rfl h, fun _ j l _ _ => by show 0x2000 + j / 2 = 0x2000 + l / 2 ↔ _; omega⟩⟩

-- FormatsAndPackedLoads: ENC 0x1F, a conversion, SAT on integers, SMODE 1 on finite values, packed MX records for a scaled and an unscaled type
theorem test_meets_formats : vmfEnc (tMemHart 0x09 32 0x1F).vmf = 0x1F ∧ vmfEnc (tMemHart 0x09 32 0x0F).vmf ≤ 0x0F ∧ vmfSmode (tMemHart 0x09 32 0x0F).vmf = 0 ∧
    vtSc (tMemHart 0x09 32 0x0F).vtype = false ∧ vmfSat (tMemHart 0x09 32 0x0F).vmf = false ∧ vmfSat (tMemHart 0x04 32 0x800).vmf = true ∧
    elemForm (vtFmt (tMemHart 0x04 32 0x800).vtype) = none ∧ elemForm (elemOf 0) = none ∧ elemWidth (elemOf 0) ≤ elemWidth (vtFmt 0x04) ∧
    vmfSmode (tMemHart 0x09 32 0x2A).vmf = 1 ∧ elemForm (elemOf (vmfEnc (tMemHart 0x09 32 0x2A).vmf)) = some bf16Form ∧ elemForm (vtFmt 0x09) = some fp32Form ∧
    fp32Form.decode (tMemHart 0x09 32 0x2A).vmfs.toNat = .fin false (2 ^ 23) (-23) ∧ bf16Form.decode 0x3F80 = .fin false (2 ^ 7) (-7) ∧
    fp32Form.decode 0x3F800000 = .fin false (2 ^ 23) (-23) := by decide +kernel
theorem packed_plain {s : State} (h : ((List.range 4).all fun i =>
      plainAll s .load 1 1 (fun _ => 0x2000 + BitVec.ofNat 64 0) (fun _ => 0x2000) &&
      plainAll s .load 1 1 (fun _ => 0x2001 + BitVec.ofNat 64 i) (fun _ => 0x2001 + i)) = true) :
    ∀ i, i < 4 → Plain s .load 1 (0x2000 + BitVec.ofNat 64 0) 0x2000 ∧ Plain s .load 1 (0x2001 + BitVec.ofNat 64 i) (0x2001 + i) := by
  intro i hi
  have := List.all_eq_true.mp h i (List.mem_range.mpr hi)
  simp only [Bool.and_eq_true] at this
  exact ⟨plainAll_iff this.1 0 (by decide), plainAll_iff this.2 0 (by decide)⟩
theorem test_meets_packed : packedType (vmfEnc (tMem 0x8C 8 0x51 []).hart.vmf) = some (.e4m3, 33) ∧ vecTrap (.vld 1 1 0 0) (tMem 0x8C 8 0x51 []) = none ∧
    vtSc (tMem 0x8C 8 0x51 []).hart.vtype = true ∧ vecTrap (.vld 1 1 0 0) (tMem 0x09 32 0x51 []) = none ∧ vtSc (tMem 0x09 32 0x51 []).hart.vtype = false ∧
    (∀ i, (tMem 0x8C 8 0x51 []).hart.performs 0 i →
      Plain (tMem 0x8C 8 0x51 []) .load 1 (0x2000 + BitVec.ofNat 64 0) 0x2000 ∧ Plain (tMem 0x8C 8 0x51 []) .load 1 (0x2001 + BitVec.ofNat 64 i) (0x2001 + i)) ∧
    ∀ i, (tMem 0x09 32 0x51 []).hart.performs 0 i →
      Plain (tMem 0x09 32 0x51 []) .load 1 (0x2000 + BitVec.ofNat 64 0) 0x2000 ∧ Plain (tMem 0x09 32 0x51 []) .load 1 (0x2001 + BitVec.ofNat 64 i) (0x2001 + i) :=
  ⟨by decide +kernel, by decide +kernel, by decide +kernel, by decide +kernel, by decide +kernel,
   fun i h => packed_plain (by decide +kernel) i (below_of h), fun i h => packed_plain (by decide +kernel) i (below_of h)⟩

-- SAT: 3.4E38 overflows BF16, 1.0 does not, E4M3 has no infinity; packed stores of four elements, of bytes and of halves
theorem test_meets_saturation : vmfEnc (tMemHart 0x09 32 0x80A).vmf ≤ 0x0F ∧ vmfSmode (tMemHart 0x09 32 0x80A).vmf = 0 ∧ vmfSat (tMemHart 0x09 32 0x80A).vmf = true ∧
    elemForm (elemOf (vmfEnc (tMemHart 0x09 32 0x80A).vmf)) = some bf16Form ∧ bf16Form.narrow = false ∧
    (convElem (modeOf (vmfRnd (tMemHart 0x09 32 0x80A).vmf)) (vtFmt 0x09) .bf16 0x7F7FFFFF).flags.getLsbD 1 = true ∧
    (convElem (modeOf (vmfRnd (tMemHart 0x09 32 0x80A).vmf)) (vtFmt 0x09) .bf16 0x3F800000).flags.getLsbD 1 = false ∧ e4m3Form.narrow = true ∧
    elemForm .e4m3 = some e4m3Form := by decide +kernel
theorem packed_apart {s : State} (h : ((List.range 4).all fun i =>
      plainAll s .store 1 1 (fun _ => 0x2000 + BitVec.ofNat 64 0) (fun _ => 0x2000) &&
      plainAll s .store 1 1 (fun _ => 0x2001 + BitVec.ofNat 64 i) (fun _ => 0x2001 + i)) = true) :
    ∀ i, i < 4 → Plain s .store 1 (0x2000 + BitVec.ofNat 64 0) 0x2000 ∧ Plain s .store 1 (0x2001 + BitVec.ofNat 64 i) (0x2001 + i) := by
  intro i hi
  have := List.all_eq_true.mp h i (List.mem_range.mpr hi)
  simp only [Bool.and_eq_true] at this
  exact ⟨plainAll_iff this.1 0 (by decide), plainAll_iff this.2 0 (by decide)⟩
theorem test_meets_packedStore : packedType (vmfEnc (tMem 0x8C 8 0x51 []).hart.vmf) = some (.e4m3, 33) ∧ vecTrap (.vst 1 1 0 0) (tMem 0x8C 8 0x51 []) = none ∧
    vtSc (tMem 0x8C 8 0x51 []).hart.vtype = true ∧ packedType (vmfEnc (tMem 0x09 32 0x53 []).hart.vmf) = some (.e2m1, 17) ∧
    vecTrap (.vst 1 1 0 0) (tMem 0x09 32 0x53 []) = none ∧ vtSc (tMem 0x09 32 0x53 []).hart.vtype = false ∧
    (∀ i, (tMem 0x8C 8 0x51 []).hart.performs 0 i →
      Plain (tMem 0x8C 8 0x51 []) .store 1 (0x2000 + BitVec.ofNat 64 0) 0x2000 ∧ Plain (tMem 0x8C 8 0x51 []) .store 1 (0x2001 + BitVec.ofNat 64 i) (0x2001 + i)) ∧
    (∀ i, (tMem 0x09 32 0x53 []).hart.performs 0 i → Plain (tMem 0x09 32 0x53 []) .store 1 (0x2001 + BitVec.ofNat 64 (i / 2)) (0x2001 + i / 2)) ∧
    (∀ i, i < 4 → ∀ j, j < 4 → 0x2000 ≠ 0x2001 + j ∧ i / 32 = j / 32 ∧ (0x2001 + i = 0x2001 + j ↔ i = j) ∧ (0x2001 + i / 2 = 0x2001 + j / 2 ↔ i / 2 = j / 2)) :=
  ⟨by decide +kernel, by decide +kernel, by decide +kernel, by decide +kernel, by decide +kernel, by decide +kernel,
   fun i h => packed_apart (by decide +kernel) i (below_of h),
   fun i h => (packed_apart (s := tMem 0x09 32 0x53 []) (by decide +kernel) (i / 2) (by
     have : i < 4 := below_of h
     omega)).2, by omega⟩
/-- Four elements of FP32 all of one value, to be stored in E4M3. -/
def tEven (x : VWord) : Hart := { tMemHart 0x09 32 0x51 with v := tHart.v.set 1 (x * 0x00000001000000010000000100000001) }
theorem test_meets_packedScale : ∀ x ∈ [((0 : VWord), FVal.fin false 0 (-149), (127 : Nat)), (0x3F800000, .fin false (2 ^ 23) (-23), 119), (0x7FC00000, .nan false, 0xFF)],
    let h := tEven x.1
    let mine (b i : Nat) : Prop := h.acts 0 i ∧ i / 32 = b
    let odd (b : Nat) : Prop := ∃ i, mine b i ∧ ∀ n m e, fp32Form.decode (h.elemAt 1 i).1 ≠ .fin n m e
    (∀ i, i < 4 → fp32Form.decode (h.elemAt 1 i).1 = x.2.1) ∧ (odd 0 → x.2.2 = 0xFF) ∧
    (¬odd 0 → (∀ j, mine 0 j → ∃ n e, fp32Form.decode (h.elemAt 1 j).1 = .fin n 0 e) → x.2.2 = 127) ∧
    (∀ top : Int, ¬odd 0 → (∃ j n m e, mine 0 j ∧ fp32Form.decode (h.elemAt 1 j).1 = .fin n m e ∧ 0 < m ∧ e + Nat.log2 m = top) →
      x.2.2 = (max 0 (min 254 (top - 8 + 127))).toNat) := by
  intro x hx
  have e : ∀ i, i < 4 → fp32Form.decode ((tEven x.1).elemAt 1 i).1 = x.2.1 := by
    revert x hx; decide +kernel
  have l (i : Nat) (h : (tEven x.1).acts 0 i) : i < 4 := h.1
  have a (i : Nat) (h : i < 4) : (tEven x.1).acts 0 i := ⟨h, .inl rfl⟩
  simp only [List.mem_cons, List.not_mem_nil, or_false] at hx
  refine ⟨e, fun ⟨i, hi, ho⟩ => ?_, fun ho hz => ?_, fun top ho ⟨j, n, m, c, hj, hd, hm, ht⟩ => ?_⟩
  · rcases hx with rfl | rfl | rfl
    · exact absurd (e i (l i hi.1)) (ho _ _ _)
    · exact absurd (e i (l i hi.1)) (ho _ _ _)
    · rfl
  · obtain ⟨n, c, hc⟩ := hz 0 ⟨a 0 (by decide), rfl⟩
    rw [e 0 (by decide)] at hc
    rcases hx with rfl | rfl | rfl
    · rfl
    · cases hc
    · cases hc
  · rw [e j (l j hj.1)] at hd
    rcases hx with rfl | rfl | rfl
    · cases hd; omega
    · cases hd; rw [← ht]; decide
    · cases hd

-- VectorAtomics: elements that share no byte, reached whatever the stored bytes hold
theorem test_meets_vectorAtomics : (∀ i ∈ [Instr.vamoadd 1 1 (.unit 0) 0, .vpostadd 1 (.unit 0) 0, .vamoand 1 1 (.strided 5) 0, .vpostand 1 (.indexed 6) 0,
      .vamoor 1 1 (.unit 0) 0, .vpostor 1 (.unit 0) 0, .vamoxor 1 1 (.unit 0) 0, .vpostxor 1 (.unit 0) 0, .vamomin 1 1 (.unit 0) 0, .vpostmin 1 (.unit 0) 0,
      .vamomax 1 1 (.unit 0) 0, .vpostmax 1 (.unit 0) 0, .vamoswp 1 1 (.unit 0) 0, .vpostswp 1 (.unit 0) 0], vecTrap i (tMem 0x04 32 0x1F []) = none) ∧
    Disjoint' ((tMem 0x04 32 0x1F []).hart.performs 0) 4 (fun j => 0x2000 + 4 * j) ∧
    ∀ m, Memory.wf m = true → ∀ j, (tMem 0x04 32 0x1F []).hart.performs 0 j →
      Plain { tMem 0x04 32 0x1F [] with mem := m } .store 4 (0x2000 + BitVec.ofNat 64 (j * 32 / 8)) (0x2000 + 4 * j) :=
  ⟨by decide +kernel, fun i j _ _ h => by show 0x2000 + 4 * i + 4 ≤ 0x2000 + 4 * j ∨ 0x2000 + 4 * j + 4 ≤ 0x2000 + 4 * i; omega, test_meets_storeSc⟩

-- CompressedMemory: VCAPP at an empty queue object of capacity 4, at one of capacity 3, without active elements, misaligned, in a page that is not
-- mapped, beyond its page; the example under 08 R203 for VLDZ
def tQueueObject (cap : Byte) : State := tMem 0x04 32 0x1F [⟨0x2010, cap⟩]
theorem test_meets_append : Calm (tQueueObject 4) ∧ (tQueueObject 4).hart.capp = none ∧ vecTrap (.vcapp 1 0) (tQueueObject 4) = none ∧
    (List.range (tQueueObject 4).hart.vl.toNat).filter ((tQueueObject 4).hart.maskOn 0) = [0, 1, 2, 3] ∧ (0x2000 : Word).toNat % 128 = 0 ∧
    translate (tQueueObject 4) { hartSpace (tQueueObject 4) ⟨0, false⟩ with level := .u } .store 0x2000 = .ok 0x2000 0 none ∧ memRead (tQueueObject 4).mem 8 0x2010 = 2 ^ 2 ∧
    (∀ j, j ≤ 28 → memRead (tQueueObject 3).mem 8 0x2010 ≠ 2 ^ j) ∧
    (windowOf 0x2000 = windowOf (0x2000 + 127 + 4 * 4) ∧ rangeOf (some Partition.whole) 0x2000 = rangeOf (some Partition.whole) (0x2000 + 127 + 4 * 4)) ∧
    (0x2004 : Word).toNat % 128 ≠ 0 ∧
    translate tMapped { hartSpace tMapped tMapped.cur with level := .u } .store 0x20000 = .trap (trapOf 0x07 0x20000) ∧ (trapOf 0x07 0x20000).code ≠ 0x0E ∧
    translate tMapped { hartSpace tMapped tMapped.cur with level := .u } .store 0xFF80 = .ok 0xFF80 0 (some (0x43000, 0xFF, 16)) ∧
    ¬((0xFF80 : Nat) % 2 ^ 16 + (128 + 4 * 4) ≤ 2 ^ 16) ∧
    memRead (tQueueObject 4).mem 8 0x2008 = memRead (tQueueObject 4).mem 8 0x2000 ∧ 4 ≤ memRead (tQueueObject 4).mem 8 0x2010 ∧
    (List.range (tQueueObject 4).hart.vl.toNat).filter ((tQueueObject 4).hart.maskOn 2) = [] :=
  ⟨calm_of (by decide +kernel), by decide +kernel, by decide +kernel, by decide +kernel, by decide, by decide +kernel, by decide +kernel, fun j hj => by
     have g : ∀ j, j < 29 → memRead (tQueueObject 3).mem 8 0x2010 ≠ 2 ^ j := by decide +kernel
     exact g j (by omega),
   by decide +kernel⟩

/-- The 22 bytes of the block of 03 R68, its codes, and the state of the example under 08 R203. -/
def tBlock : List Byte := [0, 0, 0xC0] ++ List.replicate 14 0 ++ [0x1A, 0, 0, 0, 0]
def tCodes : List Nat := [0x38, 0x40, 0x30, 0xBC] ++ List.replicate 28 0x38
def tExpandHart (bound : Word) : Hart :=
  { tVecHart 0x0A 16 with vmf := 0x10, vl := 64, g := tHart.g.set 11 bound }
def tExpand (bound : Word) : State :=
  { State.reset with tiles := [(0, { Tile.reset with h0 := tExpandHart bound, ctab := Vector.replicate 4 0x0000004213000000 })],
                     mem := [⟨0x2002, 0xC0⟩, ⟨0x2011, 0x1A⟩] }
theorem test_vldz : (hartAfter (exec (.vldz 8 1 11 0 0) (tExpand 22))).vl = 32 ∧ (hartAfter (exec (.vldz 8 1 11 0 0) (tExpand 22))).rg 11 = 22 ∧
    ([0, 1, 2, 3, 31].map fun i => (hartAfter (exec (.vldz 8 1 11 0 0) (tExpand 22))).elem 8 16 1024 i) = [0x3F80, 0x4000, 0x3F00, 0xBFC0, 0x3F80] := by
  decide +kernel
theorem test_vldz_bound : (hartAfter (exec (.vldz 8 1 11 0 0) (tExpand 21))).vl = 0 ∧
    (hartAfter (exec (.vldz 8 1 11 0 0) (tExpand 21))).rg 11 = 0x8000000000000000 := by decide +kernel
theorem test_meets_expand : Calm (tExpand 22) ∧ vecTrap (.vldz 8 1 11 0 0) (tExpand 22) = none ∧ tBlock.length ≤ ((tExpand 22).hart.rg 11).toNat ∧
    tBlock.length ≤ 49 ∧ readBlock (tExpand 22).tile.ctab tBlock = .codes tCodes ∧ tCodes.length = 32 ∧
    (∀ m, m < 22 → readBlock (tExpand 22).tile.ctab (tBlock.take m) = .more) ∧
    (∀ j, j < 22 → Plain (tExpand 22) .load 1 (0x2000 + BitVec.ofNat 64 j) (0x2000 + j)) ∧
    (∀ j, j < 22 → tBlock[j]? = some (memGet (tExpand 22).mem (0x2000 + j))) ∧
    32 * 1 ≤ (tExpand 22).hart.vl.toNat ∧ tBlock.length = ((tExpand 22).hart.rg 11).toNat :=
  ⟨calm_of (by decide +kernel), by decide +kernel, by decide +kernel, by decide +kernel, by decide +kernel, by decide +kernel, by decide +kernel,
   plainAll_iff (by decide +kernel), by decide +kernel, by decide +kernel, by decide +kernel⟩
/-- The example while vector instructions may lag. -/
def tExpandLag : State := { (tExpand 22).setHart { tExpandHart 22 with fresh := false, unset := false } with relaxed := true }
/-- The state after an instruction, or the first. -/
def tThen (s : State) (o : Out) : State := match o with | .next t => t | _ => s
-- 01 R18, R19, 08 R201: a VLDZ is queued; the access side goes on, but for what uses VL or names g11, until it retires
def tExpandQueued : State := tThen tExpandLag (exec (.vldz 8 1 11 0 0) tExpandLag)
theorem test_vldzLags : let h := tExpandQueued.hart
    (h.vq.map Queued.setsVl, h.vl, h.rg 11) = ([true], 64, 22) ∧
    [Instr.add 3 11 4, .add 11 3 4, .vadd 1 2 (.g 3) 0, .crr 3 0x300, .add 3 4 5, .setvl 3 4 5, .vadd 1 2 (.g 3) 0].map (fun i => awaitsQueued i tExpandQueued) =
      [true, true, true, true, false, false, true] := by decide +kernel
def tRetire (s : State) : State := { s with events := [.event (.vectorInstructionRetirement ⟨0, false⟩)] }
theorem test_vldzRetires : ([tExpandQueued, tThen tExpandQueued (exec (.setvl 0 0 0) tExpandQueued)].map fun s =>
      let t := tThen s (exec .vectorInstructionRetirement (tRetire s))
      (t.hart.vq.length, t.hart.vl, t.hart.rg 11, t.hart.elem 8 16 1024 1, t.hart.pc - s.hart.pc)) = [(0, 32, 22, 0x4000, 0), (0, 0, 22, 0x4000, 0)] ∧
    (tThen tExpandQueued (exec (.setvl 0 0 0) tExpandQueued)).hart.vq.map Queued.setsVl = [false] := by decide +kernel
theorem test_meets_exfp8Queued : ∃ x, tExpandQueued.hart.vq = [x] ∧ x.instr = .vldz 8 1 11 0 0 ∧ (coreOf x.instr).isSome = true ∧ tExpandQueued.hart.badStore = [] ∧
    tExpandQueued.hart.replay = none ∧ tExpandQueued.hart.replayed = none ∧ (3 : GReg) ≠ 11 :=
  ⟨tExpandQueued.hart.vq.headD tQueued, by decide +kernel, by decide +kernel, by decide +kernel, by decide +kernel, by decide +kernel, by decide +kernel, by decide⟩
-- a block that does not decode: its first byte holds 4
theorem test_meets_expandStops : vecTrap (.vldz 8 1 11 0 0) (tState (tExpandHart 22) [⟨0x2000, 4⟩]) = none ∧ 32 ≤ (tExpandHart 22).vl.toNat ∧
    4 ≤ (memGet (tState (tExpandHart 22) [⟨0x2000, 4⟩]).mem 0x2000).toNat ∧ Plain (tState (tExpandHart 22) [⟨0x2000, 4⟩]) .load 1 0x2000 0x2000 :=
  ⟨by decide +kernel, by decide +kernel, by decide +kernel, plain_of (by decide +kernel)⟩
/-- The codes of the example's table: of exponent symbols 7, 8, 6 and 9. -/
def tCode : Nat → Nat | 8 => 2 | 6 => 6 | 9 => 14 | _ => 0
def tTable : Word := 0x0000004213000000
def tSym (i : Nat) : Nat := tCodes.getD i 0 / 8 % 16
def tNib (i : Nat) : Nat := tCodes.getD i 0 / 128 * 8 + tCodes.getD i 0 % 8
theorem tTable_valid : ValidTable tTable := by unfold ValidTable; decide +kernel
/-- Decides what CanonicalCodes says of successive codes. -/
def nextCodes (ct : Word) (code : Nat → Nat) : Bool :=
  (List.range 16).all fun s => (List.range 16).all fun t => decide (symbolLen ct s = 0) || decide (symbolLen ct t = 0) ||
    decide (¬(symbolLen ct s < symbolLen ct t ∨ (symbolLen ct s = symbolLen ct t ∧ s < t))) ||
    !((List.range 16).all fun u => decide (symbolLen ct u = 0) ||
      decide ((symbolLen ct u < symbolLen ct s ∨ (symbolLen ct u = symbolLen ct s ∧ u ≤ s)) ∨
        (symbolLen ct t < symbolLen ct u ∨ (symbolLen ct t = symbolLen ct u ∧ t ≤ u)))) ||
    decide (code t = (code s + 1) * 2 ^ (symbolLen ct t - symbolLen ct s))
theorem tTable_codes : CanonicalCodes tTable tCode :=
  ⟨by decide +kernel, fun s t hs ht s0 t0 st hu => by
    have g : nextCodes tTable tCode = true := by decide +kernel
    have := List.all_eq_true.mp (List.all_eq_true.mp g s (List.mem_range.mpr hs)) t (List.mem_range.mpr ht)
    have m : ((List.range 16).all fun u => decide (symbolLen tTable u = 0) ||
        decide ((symbolLen tTable u < symbolLen tTable s ∨ (symbolLen tTable u = symbolLen tTable s ∧ u ≤ s)) ∨
          (symbolLen tTable t < symbolLen tTable u ∨ (symbolLen tTable t = symbolLen tTable u ∧ t ≤ u)))) = true := by
      refine List.all_eq_true.mpr fun u h => ?_
      by_cases z : symbolLen tTable u = 0
      · simp [z]
      · rw [Bool.or_eq_true, decide_eq_true_eq, decide_eq_true_eq]
        exact .inr (hu u (List.mem_range.mp h) z)
    rw [m] at this
    simpa [s0, t0, st] using this⟩
theorem test_meets_block : BlockIs tTable 0 tCode tSym tNib tBlock ∧ ∀ i, i < 32 → tNib i < 16 ∧ tSym i < 16 ∧ symbolLen tTable (tSym i) ≠ 0 :=
  ⟨⟨by decide +kernel, by decide +kernel, by decide +kernel, by decide +kernel, fun n h hn => by
     have g : ∀ n, n < 40 → tokenStart tTable tSym 32 ≤ n → tokenBit tBlock n = false := by decide +kernel
     exact g n hn h⟩, by decide +kernel⟩
-- a reserved bit of the header, tables with a length of 9 and with too many codes, a token of ones, which begins no code, a padding bit of 1
theorem test_meets_blockErrors : 4 ≤ (4 : Byte).toNat ∧ ¬ValidTable 9 ∧ ¬ValidTable 0x111 ∧
    (let l : List Byte := 0 :: (List.replicate 16 0 ++ [0xFF])
     tokenStart tTable tSym 0 + 8 ≤ 8 * (l.length - 17) ∧ (∀ s, s < 16 → symbolLen tTable s ≠ 0 → ∃ b, b < symbolLen tTable s ∧
       tokenBit l (tokenStart tTable tSym 0 + b) ≠ (tCode s).testBit (symbolLen tTable s - 1 - b))) ∧
    (let l := tBlock.set 21 0x80
     tokenStart tTable tSym 32 ≤ 8 * (l.length - 17) ∧ (∀ i, i < 32 → ∀ b, b < symbolLen tTable (tSym i) →
       tokenBit l (tokenStart tTable tSym i + b) = (tCode (tSym i)).testBit (symbolLen tTable (tSym i) - 1 - b)) ∧
     tokenStart tTable tSym 32 ≤ 39 ∧ 39 < 8 * (l.length - 17) ∧ tokenBit l 39 = true) :=
  ⟨by decide, fun h => absurd (h.1 0 (by decide)) (by decide), fun h => absurd h.2 (by decide), by decide +kernel, by decide +kernel⟩
-- what a store takes: with four equal tables the lowest; no table that codes symbol 0
theorem test_meets_eligible : tCodes.length = 32 ∧ (∀ c ∈ tCodes, c < 256) ∧ (∀ u : Fin 4, (Vector.replicate 4 tTable).get u = tTable) ∧
    (∀ u : Fin 4, tokenStart tTable tSym 32 = tokenStart ((Vector.replicate 4 tTable).get u) tSym 32 ∧ 0 ≤ u) ∧
    (∀ u : Fin 4, ¬(∀ i, i < 32 → symbolLen ((Vector.replicate 4 tTable).get u) (((0 : Nat) :: tCodes.tail).getD i 0 / 8 % 16) ≠ 0)) := by decide +kernel
/-- One block of 1.0, to be written: symbol 0 has the code 0, symbol 7 the code 10. -/
def tPack : State :=
  { State.reset with
    tiles := [(0, { Tile.reset with h0 := { tExpandHart 64 with vl := 1, v := tHart.v.set 8 0x3F80 }, ctab := Vector.replicate 4 0x20000001 })] }
def tPacked : List Byte := [0, 0x00] ++ List.replicate 15 0 ++ [1, 0, 0, 0, 0]
theorem test_meets_pack : Calm tPack ∧ vecTrap (.vstz 8 1 11 0 0) tPack = none ∧ 1 = (tPack.hart.vl.toNat + 31) / 32 ∧
    tPacked.length ≤ (tPack.hart.rg 11).toNat ∧
    writeBlock tPack.tile.ctab ((List.range 32).map fun j =>
      if 32 * 0 + j < tPack.hart.vl.toNat ∧ tPack.hart.maskOn 0 (32 * 0 + j) = true
      then (convElem (modeOf (vmfRnd tPack.hart.vmf)) (vtFmt tPack.hart.vtype) .e4m3 (tPack.hart.elemAt 8 (32 * 0 + j)).1).bits else 0) = some tPacked ∧
    ∀ c, Memory.wf c = true → ∀ j, j < 22 → Plain { tPack with mem := c } .store 1 (0x2000 + BitVec.ofNat 64 j) (0x2000 + j) :=
  ⟨calm_of (by decide +kernel), by decide +kernel, by decide +kernel, by decide +kernel, by decide +kernel,
   fun c _ => plain_any (m := 22) (va := fun j => 0x2000 + BitVec.ofNat 64 j) (pa := fun j => 0x2000 + j) (by decide +kernel) (by decide +kernel) c⟩

-- StepRunsDecoded: a short word, a long instruction, a word that decodes to none; turns, events, no power

/-- A state whose agenda holds one event. -/
def tFire (u : State) (e : Event) : State := { u with events := .event e :: u.events }
theorem fires (u : State) (e : Event) : Fires (tFire u e) u e := ⟨u.events, rfl, rfl⟩

/-- At 0x1000: add g3, g4, g5; or limm g10, 0x12345678. -/
def tShort : State := tState tHart [⟨0x1000, 0x82⟩, ⟨0x1001, 0x41⟩, ⟨0x1002, 0x0A⟩]
def tLong : State := tState tHart [⟨0x1000, 0x03⟩, ⟨0x1001, 0x05⟩, ⟨0x1004, 0x78⟩, ⟨0x1005, 0x56⟩, ⟨0x1006, 0x34⟩, ⟨0x1007, 0x12⟩]
theorem fetches_of {s : State} {va : Word} {w : Nat} (pa : Nat) (h : s.relaxed = false ∧ translate s (hartSpace s s.cur) .fetch va = .ok pa 0 none ∧
    badIn s pa 4 = none ∧ alGet s.tile.icache (pa / 128) = none ∧ conflict s (hartWho s s.cur) [pa / 128] false = .serve [] ∧
    lineDenied s (tileId s.cur.tile) (pa / 128) = false ∧ ageOf s (tileId s.cur.tile) (pa / 128) = 0 ∧ memRead s.mem 4 pa = w) : Fetches s va w := by
  obtain ⟨h1, h2, h3, h4, h5, h6, h7, h8⟩ := h
  exact ⟨h1, pa, 0, none, h2, h3, h4, h5, h6, h7, rfl, h8⟩
theorem running_of {s : State} (h : s.power = true ∧ s.events = [] ∧ s.hart.run = .running ∧ s.hart.inProgress = none ∧ s.hart.trapWait = none ∧
    s.hart.badStore = [] ∧ s.hart.replay = none ∧ s.hart.replayed = none) : Running s := ⟨h.1, h.2.1, h.2.2.1, h.2.2.2.1, h.2.2.2.2.1, h.2.2.2.2.2.1, h.2.2.2.2.2.2⟩
theorem test_meets_step : Running tShort ∧ FetchesPair tShort 0x000A4182 0 ∧ decode 0x000A4182 0 = .instr (.add 3 4 5) ∧
    dueEvent (some (.add 3 4 5)) tShort = none :=
  ⟨running_of (by decide +kernel), ⟨fetches_of 0x1000 (by decide +kernel), fun h => by omega, fun _ => rfl⟩, by decide, by decide +kernel⟩
theorem test_meets_stepLong : Running tLong ∧ FetchesPair tLong 0x00000503 0x12345678 ∧ dueEvent (some (.limm 10 0x12345678)) tLong = none :=
  ⟨running_of (by decide +kernel), ⟨fetches_of 0x1000 (by decide +kernel), fun _ => fetches_of 0x1004 (by decide +kernel), fun h => by omega⟩, by decide +kernel⟩
theorem test_meets_stepReserved : Running tU ∧ FetchesPair tU 0 0 ∧ (∃ r, decode 0 0 = .reserved r) ∧ issueTraps .trapret tU = true :=
  ⟨running_of (by decide +kernel), ⟨fetches_of 0x1000 (by decide +kernel), fun h => by omega, fun _ => rfl⟩, ⟨_, rfl⟩, by decide +kernel⟩
theorem test_meets_agenda : tU.power = true ∧ (tFire tU .powerOn).events = .event .powerOn :: [] ∧
    { tU with events := [.turn ⟨0, true⟩] }.events = .turn ⟨0, true⟩ :: [] ∧ { tU with power := false }.power = false ∧
    .ack 0 0x100005 0 ∈ ({ tU with waiting := [.ack 0 0x100005 0] }).waiting ∧ followsIn tU (.ack 0 0x100005 1) (.ack 0 0x100005 0) = true ∧ followsIn tU (.ack 0 0x100005 1) (.ack 1 0x200005 0) = false ∧
    (applyUpset (.codeword 3) tU).await = [] ∧ ({ tU with await := [{ line := 64 }] }).await ≠ [] ∧ tU.hart.sync = none ∧ tU.hart.capp = none ∧ tU.hart.inProgress = none ∧
    tU.held = [] ∧ tU.hart.answers = [] := by
  decide +kernel

-- beside them: an event that comes behind one that waits, a step of bring-up, ranges of a partition, a home that must wait
theorem test_meets_moves : awaitsQueued (.add 3 4 5) tShort = false ∧ comesBehind (tFire tU .powerOn) .powerOn = false ∧
    comesBehind { tFire tU (.ack 0 0x100005 1) with waiting := [.ack 0 0x100005 0] } (.ack 0 0x100005 1) = true ∧
    ({ tU with events := [.bringUp] }).events = .bringUp :: [] ∧ rangesFit (Partition.whole.ranges.take 1) = true ∧
    (let s : State := { tU with events := [.ranges 0 (Partition.whole.ranges.take 1)] }
     s.power = true ∧ s.events = .ranges 0 (Partition.whole.ranges.take 1) :: [] ∧ s.tile.hart false = tHart) ∧ (∀ i, (getHart tU i).vq = []) ∧
    inStream tU tU.cur = false :=
  ⟨by decide +kernel, by decide +kernel, by decide +kernel, rfl, by decide +kernel, by decide +kernel,
   fun i => by rcases harts_of (s := tU) rfl i with h | h | h <;> rw [h] <;> decide +kernel,
   by decide +kernel⟩

-- Errors: add g3, g4, g5 with a bad g4 (19 R393: register 4 of kind 1); a mismatch at element 37 in protected mode, met once and again (19 R398)
def tBad (l : List StoreWord) : State := { tShort with tiles := [(0, { Tile.reset with h0 := { tHart with badStore := l } })] }
def tReplay (again prot : Bool) (vq : List Queued) : State :=
  tState { tVecHart 0x04 32 with prot := prot, vq := vq, replay := some { cause := .mismatch, elem := 37, again := again, tickets := 0 } } []
theorem test_bad_register : (let h := hartAfter (step (tBad [⟨1, 4, 0⟩])); (h.tcause, h.tval, h.tepc, h.unres, h.level)) =
    (0x0E, 0x8000000000000401, 0x1000, true, .s) ∧ (hartAfter (step (tBad [⟨1, 3, 0⟩]))).badStore = [] := by decide +kernel
theorem test_mismatch : (match meetError (.vadd 1 2 (.v 3) 0) (tReplay true true []) with
      | some t => (t.hart.tcause, t.hart.tval, t.hart.unres, t.log.map LogRecord.kind) | none => (0, 0, false, [])) = (0x12, 37, true, [4]) ∧
    (match meetError (.vadd 1 2 (.v 3) 0) (tReplay false true []) with
      | some t =>
        let z : State := match exec (.vadd 1 2 (.v 3) 0) t with | .next z => settle (.vadd 1 2 (.v 3) 0) t z | _ => t
        decide (t.hart.pc = 0x1000 ∧ t.log = [] ∧ t.hart.replayed = some (0x1000, 37) ∧ z.hart.pc = (0x1004 : Word) ∧ z.log.map (fun r => r.kind) = ([3] : List (BitVec 16)) ∧ z.hart.replayed = none)
      | none => false) = true := by decide +kernel
-- 19 R399: the sixteenth corrected error of a cluster retires it
theorem test_corrected : (applyUpset (.corrected ⟨0, false⟩ 2 0 (some 3))
      { tU with tiles := [(0, { tileAt tU 0 with errCounts := Vector.replicate 8 15 })] }).events = [.event (.clusterRetirement 0 3)] := by decide +kernel
theorem test_meets_errors : tU.power = true ∧ { tU with events := [.upset (.codeword 3)] }.events = .upset (.codeword 3) :: [] ∧
    (getHart (tPlaced tHart []) ⟨0, false⟩).member = some ⟨0, 0⟩ ∧ farmBy (tPlaced tHart []) 0 = some tFarm ∧ (applyUpset (.codeword 3) tU).await = [] ∧
    (tileAt tU 0).icache = [] ∧ (∀ r ∈ tU.resvs, 64 ∉ r.lines) := by decide +kernel
theorem test_meets_errorAtTurn : (tBad [⟨1, 4, 0⟩]).power = true ∧ (tBad [⟨1, 4, 0⟩]).events = [] ∧ (tBad [⟨1, 4, 0⟩]).hart.run = .running ∧
    (tBad [⟨1, 4, 0⟩]).hart.inProgress = none ∧ (tBad [⟨1, 4, 0⟩]).hart.trapWait = none ∧ FetchesPair (tBad [⟨1, 4, 0⟩]) 0x000A4182 0 ∧
    decode 0x000A4182 0 = .instr (.add 3 4 5) ∧ issueTraps (.add 3 4 5) (tBad [⟨1, 4, 0⟩]) = false ∧ dueEvent (some (.add 3 4 5)) (tBad [⟨1, 4, 0⟩]) = none ∧
    (meetError (.add 3 4 5) (tBad [⟨1, 4, 0⟩])).isSome = true :=
  ⟨rfl, rfl, by decide +kernel, by decide +kernel, by decide +kernel, ⟨fetches_of 0x1000 (by decide +kernel), fun h => by omega, fun _ => rfl⟩, by decide,
    by decide +kernel, by decide +kernel, by decide +kernel⟩
theorem test_meets_badRegister : (tBad [⟨1, 4, 0⟩]).hart.level = .u ∧ (tBad [⟨1, 4, 0⟩]).hart.member = none ∧ (tBad [⟨1, 4, 0⟩]).hart.vq = [] ∧
    (tBad [⟨1, 4, 0⟩]).hart.uliActive = false ∧ (tBad [⟨1, 4, 0⟩]).hart.replay = none ∧ (4 : GReg) ≠ 0 ∧
    (tBad [⟨1, 4, 0⟩]).hart.badStore = [⟨1, (4 : GReg).setWidth 8, 0⟩] ∧ (5 : GReg) ≠ 4 ∧ (3 : GReg) ≠ 4 := by decide +kernel
theorem test_meets_replay : (∀ again prot, (tReplay again prot []).hart.level = .u ∧ (tReplay again prot []).hart.run = .running ∧
      (tReplay again prot []).hart.member = none ∧ (tReplay again prot []).relaxed = false ∧ (tReplay again prot []).hart.badStore = [] ∧
      (tReplay again prot []).hart.replay = some { cause := .mismatch, elem := 37, again := again, tickets := 0 } ∧
      (tReplay again prot []).hart.vq = [] ∧ (tReplay again prot []).hart.vl ≠ 0 ∧ (tReplay again prot []).hart.prot = prot) ∧
    (tReplay true true [tQueued]).hart.vq = tQueued :: [] ∧ tQueued.instr = .vadd 1 2 (.v 3) 0 ∧ tQueued.vl ≠ 0 ∧ (tReplay true true [tQueued]).hart.prot = true ∧
    (tFire (tReplay true true [tQueued]) (.vectorInstructionRetirement ⟨0, false⟩)).events = .event (.vectorInstructionRetirement ⟨0, false⟩) :: [] := by
  decide +kernel

/-- A replay that has begun: at the same place, and at another. -/
def tBegun (vq : List Queued) (pc : Word) : State := let s := tReplay false true vq; s.setHart { s.hart with replayed := some (pc, 5) }
theorem test_meets_replayTwice : (∃ e, (tBegun [] 0x1000).hart.replayed = some ((tBegun [] 0x1000).hart.pc, e)) ∧ (tBegun [] 0x1000).hart.replay.isSome = true ∧
    (∃ e, (tBegun [tQueued] tQueued.pc).hart.replayed = some (tQueued.pc, e)) ∧ (tReplay false true [tQueued]).hart.vq = tQueued :: [] ∧
    (tReplay false true [tQueued]).hart.replayed = none := ⟨⟨5, rfl⟩, rfl, ⟨5, rfl⟩, rfl, rfl⟩
-- 19 R398: a queued instruction recovers as it completes; met in its replay, cause 0x12 with the element
theorem test_queuedReplay : ([tReplay false true [tQueued], tBegun [tQueued] tQueued.pc].map fun s =>
      match exec .vectorInstructionRetirement (tFire s (.vectorInstructionRetirement ⟨0, false⟩)) with
      | .next t => (t.hart.tcause, t.hart.tval, t.log.map LogRecord.kind) | _ => (0, 0, [])) = [(0, 0, [3]), (0x12, 37, [4])] := by decide +kernel
theorem test_meets_recovery : (let s : State := let s := tReplay false true []; s.setHart { s.hart with replay := none, replayed := some (0x1000, 37) }
    match exec (.vadd 1 2 (.v 3) 0) s with
    | .next t => decide (s.hart.run = .running ∧ s.hart.replayed = some (s.hart.pc, 37) ∧ s.hart.replay = none ∧ s.hart.badStore = [] ∧ t.cur = s.cur ∧ t.hart.pc ≠ s.hart.pc ∧
        t.hart.level = s.hart.level ∧ t.hart.tip = s.hart.tip ∧ t.hart.vq.length ≤ s.hart.vq.length ∧ t.hart.replayed = s.hart.replayed)
    | _ => false) = true := by decide +kernel
theorem test_meets_clusterUpsets : (getHart (applyUpset (.register ⟨0, false⟩ ⟨2, 3, 1⟩ (some 4)) tU) ⟨0, false⟩).badStore = [⟨2, 3, 1⟩] ∧
    (applyUpset (.replay ⟨0, false⟩ { cause := .badValue 2, elem := 1, again := false, tickets := 0 } (some 4)) tU).events = [.event (.clusterRetirement 0 4)] := by decide +kernel
-- Coherence: a fill with room, with six copies, with six reservations; writes with and without other copies; refusals; acknowledgements
def tFill : HomeReq := { line := 64, tile := 0, h1 := false, action := .fill, age := 0 }
def tWrite : HomeReq := { line := 64, tile := 0, h1 := false, action := .write [⟨0x2000, 7⟩], age := 0 }
def tDirectory (d : DirEntry) : State := { tU with dir := [(64, d)] }
def tShared (l : List DirPtr) : DirEntry := { DirEntry.clear with ptrs := l }
theorem serves_of {u : State} {q : HomeReq} (h : (u.resvs = [] ∧ u.held = [] ∧ (rangeOf (partOf u q.tile) (128 * q.line)).isSome = true) ∧
    (dirAt u q.line).busy = none ∧ (dirAt u q.line).sv = false) : HomeServes u q := ⟨h.1, h.2.1, fun e => by rw [h.2.2] at e; cases e⟩
theorem test_meets_fill : Fires (tFire tU (.fillRequest tFill)) tU (.fillRequest tFill) ∧ Rising tU.dir ∧ HomeServes tU tFill ∧ (dirAt tU 64).ptrs.length < 6 :=
  ⟨fires _ _, .nil, serves_of (by decide +kernel), by decide +kernel⟩
theorem test_meets_fillFull : HomeServes (tDirectory (tShared ((List.range 6).map fun n => .tile (n + 1)))) tFill ∧
    6 ≤ (dirAt (tDirectory (tShared ((List.range 6).map fun n => .tile (n + 1)))) 64).ptrs.length ∧
    (dirAt (tDirectory (tShared ((List.range 6).map fun n => .tile (n + 1)))) 64).ptrs.find? DirPtr.isCopy = some (.tile 1) ∧
    HomeServes (tDirectory (tShared (List.replicate 6 (.resv 1 0)))) tFill ∧
    (dirAt (tDirectory (tShared (List.replicate 6 (.resv 1 0)))) 64).ptrs.find? DirPtr.isCopy = none :=
  ⟨serves_of (by decide +kernel), by decide +kernel, by decide +kernel, serves_of (by decide +kernel), by decide +kernel⟩
theorem test_meets_write : HomeServes tU tWrite ∧ (∀ c ∈ [((0x2000 : Nat), (7 : Byte))], c.1 / 128 = 64) ∧ (dirAt tU 64).ptrs.filter (otherCopy tWrite) = [] ∧
    HomeServes (tDirectory (tShared [.tile 1])) tWrite ∧ (dirAt (tDirectory (tShared [.tile 1])) 64).ptrs.filter (otherCopy tWrite) ≠ [] ∧
    DirPtr.host ∉ (dirAt (tDirectory (tShared [.tile 1])) 64).ptrs.filter (otherCopy tWrite) :=
  ⟨serves_of (by decide +kernel), by decide, by decide +kernel, serves_of (by decide +kernel), by decide +kernel, by decide +kernel⟩
theorem test_meets_refusal : Arrives (tDirectory { DirEntry.clear with busy := some ([.tile 1], .req tFill) }) tFill ∧
    (dirAt (tDirectory { DirEntry.clear with busy := some ([.tile 1], .req tFill) }) 64).busy.isSome = true ∧
    (dirAt (tDirectory { DirEntry.clear with sv := true, sid := 99 }) 64).sid ≠ reqId tFill := by unfold Arrives; decide +kernel
theorem test_meets_acknowledgements :
    (dirAt (tDirectory { DirEntry.clear with busy := some ([.tile 1, .tile 2], .req tWrite) }) 64).busy = some ([.tile 1, .tile 2], .req tWrite) ∧
    .tile 2 ∈ [DirPtr.tile 1, .tile 2] ∧ [DirPtr.tile 1, .tile 2].erase (.tile 2) ≠ [] ∧
    (dirAt (tDirectory { DirEntry.clear with busy := some ([.tile 1], .req tWrite) }) 64).busy = some ([.tile 1], .req tWrite) ∧
    .tile 2 ∉ [DirPtr.tile 1] ∧ (tDirectory DirEntry.clear).bridge = [] := by
  decide +kernel
/-- Writes on their way, a fill made stale, a line held, a refused request. -/
def tLines : State :=
  { State.reset with tiles := [(0, { Tile.reset with h0 := { tHart with wcb := [⟨0x2000, 7⟩], sentLines := [65] }, staleFills := [66], lines := [67] })],
                     backoffs := [tFill] }
theorem test_meets_requester : (getHart tLines ⟨0, false⟩).wcb.filter (fun c => c.1 / 128 == 64) ≠ [] ∧ 64 ∉ (getHart tLines ⟨0, false⟩).sentLines ∧
    64 ∉ (tileAt tLines 0).staleFills ∧ 64 ∉ (tileAt tLines 0).lines ∧ 66 ∈ (tileAt tLines 0).staleFills ∧
    (∀ c ∈ (getHart tLines ⟨0, false⟩).wcb, c.1 / 128 ≠ 65) ∧ tFill ∈ tLines.backoffs ∧
    (.tile 0 ∈ (dirAt (tDirectory (tShared [.tile 0])) 64).ptrs) ∧ .tile 0 ∉ (dirAt tU 64).ptrs ∧
    fillInFlight { tU with events := [.event (.fillResponse tFill true)] } 64 0 = true := by decide +kernel

-- HostAsSharer: an allowed and a refused line, a busy one, no link; a write to host memory that its domain accepts
def tHostWrites : State := { tU with hostWrites := [{ id := 3, hart := ⟨0, false⟩, cells := [⟨0x8000000000000, 1⟩] }] }
theorem test_meets_host : hostAllowed tU 0x2000 = true ∧ hostAllowed tU 0x20000000000 = false ∧ (dirAt tU (0x2000 / 128)).busy = none ∧
    (dirAt tU (0x2000 / 128)).ptrs.length < 6 ∧ tU.link = true ∧ tU.ready = true ∧ tU.bridge = [] ∧ tU.resvs = [] ∧
    ¬(deviceBase ≤ 0x2000 ∧ 0x2000 < deviceBase + 2 ^ 20) ∧ badIn tU 0x2000 64 = none ∧ badIn { tU with bad := [0x101] } 0x2000 64 ≠ none ∧
    tU.dir = [] ∧ tU.bad = [] ∧ (dirAt (tDirectory { DirEntry.clear with busy := some ([.tile 1], .req tFill) }) 64).busy ≠ none ∧
    (dirAt (tDirectory { tShared [.host] with busy := some ([.host], .again none) }) 64).busy = some ([.host], .again none) ∧
    .host ∈ (dirAt (tDirectory { tShared [.host] with busy := some ([.host], .again none) }) 64).ptrs ∧
    (tHostWrites.hostWrites.find? fun w => w.id == 3) =
      some { id := 3, hart := ⟨0, false⟩, cells := [⟨0x8000000000000, 1⟩] } := by decide +kernel

-- a line whose last answer, the host's, ends an eviction or a transaction begun again; snooped lines without and with a tile's copy, of memory and of
-- host memory; a write outside its partition's ranges
theorem test_meets_hostAnswers : (∀ w ∈ [Waiting.evict, .again none, .again (some 1)],
      (dirAt (tDirectory { tShared [.tile 1, .host] with busy := some ([.host], w) }) 64).busy = some ([.host], w) ∧
      .host ∈ (dirAt (tDirectory { tShared [.tile 1, .host] with busy := some ([.host], w) }) 64).ptrs) ∧
    (dirAt tU 64).ptrs.filter DirPtr.isCopy = [] ∧ (dirAt (tDirectory (tShared [.tile 1])) 64).ptrs.filter DirPtr.isCopy ≠ [] ∧
    (dirAt (tDirectory (tShared [.tile 1])) 64).busy = none ∧ (tDirectory (tShared [.tile 1])).await = [] ∧
    windowOf (128 * 64) ≠ .host ∧ windowOf (128 * 0x100000000000) = .host ∧
    (rangeOf (partOf tHostWrites 0) (128 * (0x8000000000000 / 128))).isSome = true ∧ tHostWrites.held = [] ∧
    (rangeOf (partOf { tHostWrites with parts := [{ Partition.whole with ranges := Partition.whole.ranges.take 2 }] } 0) (128 * (0x8000000000000 / 128))).isSome = false := by
  decide +kernel

-- Matrix: a hart that owns accumulator 0 of 16 by 16 elements, in FP32 of BF16 operands and in I32 of I8 operands
def tAcc : AccTile := { AccTile.free with owner := some false, m := 16, n := 16, fmt := 10 }
def tMatrix (h : Hart) (x : AccTile) : State :=
  { State.reset with tiles := [(0, { Tile.reset with h0 := h, acc := (Vector.replicate 4 AccTile.free).set 0 x })] }
theorem test_meets_matrix : (∀ i ∈ [Instr.mcfg 3 .bf16 false false 16 16, .mzero 0, .mrel 0, .mma 0 1 2, .mdrain 0 1 5 0 2 0, .mdrainx 0 1 6 0 2 0, .mldacc 0 1 5 0 2],
      vecTrap i (tMatrix (tMemHart 0x0A 16 0x1F) tAcc) = none) ∧ tAcc.int32 = false ∧ tAcc.sc = vtSc 0x0A := by decide +kernel
theorem tMatrix_shaped : (tMatrix (tMemHart 0x0A 16 0x1F) tAcc).hart.shaped :=
  ⟨by decide +kernel, fun _ => ⟨by decide +kernel, by decide +kernel, 8, by decide, by decide +kernel⟩⟩
theorem test_meets_matrixIntegers : vecTrap (.mma 0 1 2) (tMatrix (tMemHart 0x00 8 0x1F) { tAcc with int32 := true, fmt := 0 }) = none ∧
    vtFmt 0x00 = .i8 ∧ vecTrap (.mma 0 1 2) (tMatrix (tMemHart 0x8C 8 0x1F) { tAcc with sc := true, fmt := 12 }) = none ∧ vtSc 0x8C = true := by decide +kernel
-- the elements of rows 0 and 1 below column 4, rows 8 bytes apart in step
theorem test_meets_drains : ∀ e, (0 ≤ e ∧ e < 64 * 2 ∧ e % 64 < 4 ∧ ((0 : KReg) = 0 ∨ False)) →
    Plain (tMatrix (tMemHart 0x0A 16 0x1F) tAcc) .store 4 (0x2000 + BitVec.ofNat 64 (e / 64) * 8 + BitVec.ofNat 64 (e % 64 * 4)) (0x2000 + 8 * (e / 64) + 4 * (e % 64)) :=
  fun e h => plainAll_iff (m := 128) (va := fun e => 0x2000 + BitVec.ofNat 64 (e / 64) * 8 + BitVec.ofNat 64 (e % 64 * 4))
    (pa := fun e => 0x2000 + 8 * (e / 64) + 4 * (e % 64)) (by decide +kernel) e h.2.1

-- Remote operations: context 1, translated through the tables of tPages, with a heap of 64 KiB at address 0 and peer (1, 1); g5 = 0xFFFF names this package

def tRemoteHart : Hart := { tMemHart 0x04 32 0x1F with
  ctxid := 1, vownId := 1, translated := true, root := 0x40000, asid := 1, g := (tHart.g.set 5 0xFFFF).set 7 0x0101,
  v := (tHart.v.set 6 tOffsets).set 7 0x0000FFFF0000FFFF0000FFFF0000FFFF }
def tRemote (h : Hart) (mem : List Host.Cell) : State :=
  { tState h (mem ++ tPages ++ tContext) with peerTables := [{ part := 0, ctx := 1, heap := 0x10000, peers := [(0x0101, 1)], bars := [] }] }
def tLoadOp : RemoteOp := { kind := .load 8, peer := 0xFFFF, off := 0x2000, elem := 0 }
/-- A hart whose synchronous instruction has the answers of a batch. -/
def tAnswered (ops : List BatchOp) : Hart :=
  { tRemoteHart with sync := some { pc := 0x1000, batch := 0, stop := none }, outstanding := [{ id := 0, sync := true, ops := ops, sent := true }] }

-- RemoteAtSource: an offset that is misaligned, an open batch, a batch sent, answers with code 0 and with a failure
theorem test_meets_remoteScalar : ((tRemoteHart.rg 1 + (4 : BitVec 23).signExtend 64).toNat % 8 ≠ 0) ∧ (tRemoteHart.rg 1 + (0 : BitVec 23).signExtend 64).toNat % 8 = 0 ∧
    BatchesIdle tRemoteHart ∧ (tRemoteHart.rg 5).setWidth 16 = (0xFFFF : BitVec 16) ∧
    ({ tRemoteHart with openBatch := some { id := 0, sync := false, ops := [], sent := false } }).openBatch = some { id := 0, sync := false, ops := [], sent := false } ∧
    (∀ r, Answered (tAnswered [{ op := tLoadOp, res := some r }]) none [{ op := tLoadOp, res := some r }]) ∧ (⟨0, 7⟩ : RemoteResult).code = 0 ∧
    (⟨4, 0⟩ : RemoteResult).code ≠ 0 :=
  ⟨by decide +kernel, by decide +kernel, ⟨rfl, rfl, rfl, rfl⟩, by decide +kernel, rfl,
   fun r => ⟨0x1000, { id := 0, sync := true, ops := [{ op := tLoadOp, res := some r }], sent := true }, rfl, rfl, rfl, by
     intro o h; cases h with | head => rfl | tail _ h => cases h⟩, rfl, by decide⟩
theorem test_meets_remoteVector : (∀ i ∈ [Instr.rldx 1 6 7 0 none, .rstx 1 6 7 0 (some 2), .rapp 1 1 7 0 none], vecTrap i (tRemote tRemoteHart []) = none) ∧
    (tRemote tRemoteHart []).hart.shaped ∧ [0, 1, 2, 3].Pairwise (· < ·) ∧ (∀ j, j ∈ [0, 1, 2, 3] ↔ (tRemote tRemoteHart []).hart.performs 0 j) ∧
    ∀ j ∈ [0, 1, 2, 3], BitVec.ofNat 16 (tRemoteHart.indexElem 7 j) = 0xFFFF ∧ tRemoteHart.indexElem 6 j % 4 = 0 :=
  ⟨by decide +kernel, ⟨by decide +kernel, fun _ => ⟨by decide +kernel, by decide +kernel, 8, by decide, by decide +kernel⟩⟩, by decide, fun j => by
     have e : (tRemote tRemoteHart []).hart.vl.toNat = 4 ∧ (tRemote tRemoteHart []).hart.ves.toNat = 0 := by decide +kernel
     unfold Hart.performs Hart.acts
     rw [e.1, e.2]
     simp only [List.mem_cons, List.not_mem_nil, or_false]
     exact ⟨fun h => ⟨⟨by omega, .inl trivial⟩, Nat.zero_le _⟩, fun h => by have := h.1.1; omega⟩,
   by decide +kernel⟩
theorem test_meets_remoteVectorAnswers : (∀ o ∈ [({ op := { tLoadOp with elem := 0 }, res := some ⟨0, 7⟩ } : BatchOp), { op := { tLoadOp with elem := 3 }, res := some ⟨0, 8⟩ }],
      o.op.elem < tRemoteHart.vlmax.toNat ∧ o.res.map (fun r => r.code) = some 0) ∧ [(0 : Nat), 3].Pairwise (· < ·) ∧
    ([({ op := { tLoadOp with elem := 0 }, res := some ⟨0, 7⟩ } : BatchOp), { op := { tLoadOp with elem := 3 }, res := some ⟨4, 0⟩ }].find?
      fun o => decide (o.res.map (fun r => r.code) ≠ some 0)) = some { op := { tLoadOp with elem := 3 }, res := some ⟨4, 0⟩ } := by decide +kernel

-- RemoteAtDestination: a sub-batch of one operation, served by context 1, its heap access allowed or past the heap; a receive queue of 2 entries
def tSub (k : RemoteKind) (off : Nat) : SubBatch := { src := 0, ctx := 1, hart := ⟨0, false⟩, batch := 0, ops := [{ kind := k, peer := 0, off := off, elem := 0 }], intact := true }
def tDest : State := tRemote tRemoteHart []
def tDestQueue : State := tRemote tRemoteHart [⟨0x2018, 2⟩]
def tServed : Served := { part := Partition.whole, ctx := 1, heap := 0x10000 }
theorem tDest_quiet : tDest.resvs = [] ∧ tDest.dir = [] ∧ tDest.bad = [] ∧ tDest.heldBatches = [] ∧ tDest.refused = [] ∧ tDest.deadPairs = [] ∧ tDest.deadCtxs = [] ∧
    Memory.wf tDest.mem = true := by decide +kernel
theorem test_meets_destination : servedBy tDest (tSub (.load 8) 0x2000) = some tServed ∧
    heapAddr tDest .remote Partition.whole 1 0x10000 .load 0x2000 8 = (some 0x2000, tDest) ∧ heapAddr tDest .remote Partition.whole 1 0x10000 .store 0xFFF8 8 = (some 0xFFF8, tDest) ∧
    heapAddr tDest .remote Partition.whole 1 0x10000 .store 0x2000 128 = (some 0x2000, tDest) ∧ (tSub (.load 8) 0x2000).src = tDest.self :=
  ⟨rfl, rfl, rfl, rfl, rfl⟩
theorem test_meets_destinationRefused : heapAddr tDest .remote Partition.whole 1 0x10000 .load 0xFFF9 8 = (none, tDest) ∧
    servedBy { tDest with peerTables := [] } (tSub (.load 8) 0x2000) = none := ⟨rfl, rfl⟩
theorem test_meets_receive : Memory.wf tDestQueue.mem = true ∧ heapAddr tDestQueue .remote Partition.whole 1 0x10000 .store 0x2000 32 = (some 0x2000, tDestQueue) ∧ 0x2000 % 128 = 0 ∧
    memRead tDestQueue.mem 8 0x2010 ≤ memRead tDestQueue.mem 8 0x2000 ∧ memRead tDestQueue.mem 8 0x2018 = 2 ^ 1 ∧
    0x2000 + 128 + 128 * memRead tDestQueue.mem 8 0x2018 ≤ 0x10000 ∧ memRead tDestQueue.mem 8 0x2008 = memRead tDestQueue.mem 8 0x2000 ∧
    heapAddr tDestQueue .remote Partition.whole 1 0x10000 .store (0x2000 + 128 + 128 * (0 % 2)) 16 = (some 0x2080, tDestQueue) :=
  ⟨by decide +kernel, rfl, by decide, by decide +kernel, by decide +kernel, by decide +kernel, by decide +kernel, rfl⟩
theorem test_meets_serving : tDest.held = [] ∧ (∀ k ∈ [RemoteKind.load 8, .arrive], (tSub k 0x2000).intact = true ∧ (tSub k 0x2000).ops = [{ kind := k, peer := 0, off := 0x2000, elem := 0 }]) ∧
    servedBy tDest (tSub .arrive 0x2000) = some tServed := ⟨rfl, by decide +kernel, rfl⟩
theorem test_meets_receiveFull : memRead (tRemote tRemoteHart [⟨0x2000, 2⟩, ⟨0x2018, 2⟩]).mem 8 0x2018 ≤
    memRead (tRemote tRemoteHart [⟨0x2000, 2⟩, ⟨0x2018, 2⟩]).mem 8 0x2000 - memRead (tRemote tRemoteHart [⟨0x2000, 2⟩, ⟨0x2018, 2⟩]).mem 8 0x2010 := by decide +kernel
-- a barrier that expects two arrivals, or one, and a dead one
theorem test_meets_barrier : (let m := (tRemote tRemoteHart [⟨0x2008, 2⟩]).mem; memRead m 4 0x2000 + 1 < 2 ^ 32 ∧ memRead m 4 0x2000 + 1 + memRead m 4 0x2004 < memRead m 4 0x2008) ∧
    (let m := (tRemote tRemoteHart [⟨0x2008, 1⟩]).mem; memRead m 4 0x2008 ≤ memRead m 4 0x2000 + 1 + memRead m 4 0x2004 ∧ ¬memRead m 1 0x2016 % 2 = 1) ∧
    memRead (tRemote tRemoteHart [⟨0x2016, 1⟩]).mem 1 0x2016 % 2 = 1 := by decide +kernel
/-- A batch of one load from peer (1, 1), without and with its answer. -/
def tBatch (r : Option RemoteResult) : Batch := { id := 0, sync := false, ops := [{ op := { tLoadOp with peer := 0x0101 }, res := r }], sent := true }
theorem test_meets_replies : (getHart (tRemote { tRemoteHart with outstanding := [tBatch none] } []) ⟨0, false⟩).outstanding = [tBatch none] ∧
    (getHart (tRemote { tRemoteHart with outstanding := [tBatch none] } []) ⟨0, false⟩).bwait = none ∧ (0x0101 : BitVec 16) ≠ 0xFFFF ∧ (0x0101 : BitVec 16) ≠ tDest.self ∧
    (getHart (tRemote { tRemoteHart with outstanding := [tBatch (some ⟨0, 7⟩)] } []) ⟨0, false⟩).outstanding = [tBatch (some ⟨0, 7⟩)] ∧
    (tBatch (some ⟨4, 0⟩)).sync = false ∧ (tBatch (some ⟨4, 0⟩)).sent = true := by decide +kernel

-- BatchesAndBarriers
/-- An open batch of one store to this package. -/
def tOpen : Batch := { id := 0, sync := false, ops := [{ op := { kind := .store 8 7, peer := 0xFFFF, off := 0x2000, elem := 0 }, res := none }], sent := false }
theorem test_meets_batches : { tRemoteHart with openBatch := some tOpen }.openBatch = some tOpen ∧ tOpen.sent = false ∧ tOpen.ops ≠ [] ∧
    (∀ o ∈ tOpen.ops, o.res = none ∧ o.op.peer = 0xFFFF ∧ o.op.kind ≠ .arrive) ∧ tRemoteHart.openBatch = none ∧
    tRemoteHart.outstanding.length ≤ (0 : BitVec 5).toNat ∧ tRemoteHart.failures = [] ∧ (0 : BitVec 5).toNat < [tBatch none].length ∧
    { tRemoteHart with failures := [(0, tLoadOp, 4)] }.failures = (0, tLoadOp, 4) :: [] ∧ { tRemoteHart with outstanding := [tBatch none] }.outstanding ≠ [] := by
  decide +kernel
theorem tDest_settled : Settled tDest := ⟨rfl, by decide +kernel⟩
/-- A local barrier at 0x2000 (HOME 0xFFFF), and one at home in package (1, 1). -/
def tBarrier : State := tRemote tRemoteHart [⟨0x2014, 0xFF⟩, ⟨0x2015, 0xFF⟩]
def tFarBarrier : State := tRemote tRemoteHart [⟨0x2014, 0x01⟩, ⟨0x2015, 0x01⟩]
/-- An access through the first page, whose leaf entry is marked. -/
theorem marked_of {s : State} {k : AccKind} {n : Nat} {va : Word} {pa : Nat}
    (h : va.toNat % n = 0 ∧ translate s (hartSpace s s.cur) k va = .ok pa 0 (some (0x43000, 0xFF, 16)) ∧ s.relaxed = false ∧
      s.dir = [] ∧ s.resvs = []) : Plain s k n va pa := by
  obtain ⟨h1, h2, h3, h4, h5⟩ := h
  refine ⟨h1, 0, _, h2, by decide, ?_⟩
  simp only [markLeaf, meetWalk_alone _ _ _ _ h4 h5]
  cases k <;> cases (hartSpace s s.cur).table <;> simp [h3, markBits]
theorem test_meets_barrierLocal : Calm tBarrier ∧ Settled tBarrier ∧ Plain tBarrier .load 2 (0x2000 + 20) 0x2014 ∧ memRead tBarrier.mem 2 0x2014 = 0xFFFF ∧
    Plain tBarrier .store 128 0x2000 0x2000 ∧ Plain tBarrier .load 4 (0x2000 + 12) 0x200C ∧ Plain tBarrier .load 4 (0x2000 + 16) 0x2010 ∧
    Plain tBarrier .load 1 (0x2000 + 22) 0x2016 :=
  ⟨calm_of (by decide +kernel), ⟨rfl, by decide +kernel⟩, marked_of (by decide +kernel), by decide +kernel, marked_of (by decide +kernel), marked_of (by decide +kernel),
   marked_of (by decide +kernel), marked_of (by decide +kernel)⟩
theorem test_meets_barrierFar : Calm tFarBarrier ∧ Settled tFarBarrier ∧ Plain tFarBarrier .load 2 (0x2000 + 20) 0x2014 ∧
    memRead tFarBarrier.mem 2 0x2014 = (0x0101 : BitVec 16).toNat ∧ (tFarBarrier.hart.rg 1 - tFarBarrier.hart.shbase).toNat % 128 = 0 ∧
    isSelf tFarBarrier 0x0101 = false ∧ sourceFailure tFarBarrier (partNum tFarBarrier 0) 1 0x0101 = none :=
  ⟨calm_of (by decide +kernel), ⟨rfl, by decide +kernel⟩, marked_of (by decide +kernel), by decide +kernel, by decide +kernel, by decide +kernel, by decide +kernel⟩
-- BWAIT: the phase has moved on; the barrier is dead; a request is pending; none is
theorem test_meets_barrierWait : memRead tBarrier.mem 4 0x200C ≠ (tBarrier.hart.rg 2).toNat % 2 ^ 32 ∧ memRead tBarrier.mem 4 0x200C = (tBarrier.hart.rg 0).toNat % 2 ^ 32 ∧
    memRead (tRemote tRemoteHart [⟨0x2014, 0xFF⟩, ⟨0x2015, 0xFF⟩, ⟨0x2016, 1⟩]).mem 1 0x2016 % 2 = 1 ∧ ¬memRead tBarrier.mem 1 0x2016 % 2 = 1 ∧
    { tRemoteHart with sip := 1 }.sip.getLsbD 0 = true ∧ tRemoteHart.sip.getLsbD 0 = false := by decide +kernel
/-- A gang of two harts, of which the first has arrived. -/
def tGang (n : Nat) : Farm := { tFarm with packet := { tPacket with gang := true, harts := 2 }, harts := [{ tFarmHart with arrivals := 1 }, { tFarmHart with arrivals := n }] }
theorem test_meets_farmBarrier : (tPlaced tHart []).hart.member = some ⟨0, 0⟩ ∧ farmBy { tPlaced tHart [] with farms := [tGang 1] } 0 = some (tGang 1) ∧
    (tGang 1).packet.gang = true ∧ (∀ x ∈ (tGang 1).harts, 1 ≤ x.arrivals ∨ x.exited = true) ∧ ¬(∀ x ∈ (tGang 0).harts, 1 ≤ x.arrivals ∨ x.exited = true) ∧
    tHart.member = none := by decide +kernel

-- WorkCreation: a quiet hart without and with a farm; a work queue of context 1 with 2 entries, open, full, closed; a packet and a record in memory
def tQueueEntry (tail : Byte) : List Host.Cell :=
  [⟨0x200001, 0x60⟩, ⟨0x200008, 2⟩, ⟨0x20000C, 1⟩, ⟨0x20000E, 0xA0⟩, ⟨0x20000F, 1⟩, ⟨0x200010, 1⟩, ⟨0x200028, tail⟩]
def tLaunch (tail : Byte) : State := tState tRemoteHart (tPages ++ tContext ++ tQueueEntry tail)
theorem test_meets_trigger : Quiet tU ∧ tU.hart.member = none ∧ Quiet (tPlaced tHart []) ∧ (tPlaced tHart []).hart.member = some ⟨0, 0⟩ :=
  ⟨tU_quiet, rfl, test_meets_halt.1, rfl⟩
theorem test_meets_launch : Calm (tLaunch 1) ∧ Settled (tLaunch 1) ∧ ((tLaunch 1).hart.rg 1).toNat % 128 = 0 ∧
    (∀ j, j < 16 → Plain (tLaunch 1) .load 8 (0x2000 + BitVec.ofNat 64 (8 * j)) (0x2000 + 8 * j)) ∧
    partOf (tLaunch 1) (tLaunch 1).cur.tile = some Partition.whole ∧ queuePart (tLaunch 1) (0 : BitVec 10).toNat = some Partition.whole ∧
    queueUsable (tLaunch 1) Partition.whole 0 = true ∧ bitAt (queueCtl (tLaunch 1) Partition.whole 0) 5 = true ∧
    queueDevCtx (tLaunch 1) Partition.whole 0 = (tLaunch 1).hart.ctxid ∧
    (queueCounts (tLaunch 1) Partition.whole 0).tail.toNat - (queueCounts (tLaunch 1) Partition.whole 0).head.toNat ≠ queueSize (tLaunch 1) Partition.whole 0 :=
  ⟨calm_of (by decide +kernel), ⟨rfl, by decide +kernel⟩, by decide +kernel,
   fun j hj => marked_of ((by decide +kernel : ∀ j, j < 16 → (0x2000 + BitVec.ofNat 64 (8 * j) : Word).toNat % 8 = 0 ∧
     translate (tLaunch 1) (hartSpace (tLaunch 1) (tLaunch 1).cur) .load (0x2000 + BitVec.ofNat 64 (8 * j)) = .ok (0x2000 + 8 * j) 0 (some (0x43000, 0xFF, 16)) ∧
     (tLaunch 1).relaxed = false ∧ (tLaunch 1).dir = [] ∧ (tLaunch 1).resvs = []) j hj),
   by decide +kernel, by decide +kernel, by decide +kernel, by decide +kernel, by decide +kernel, by decide +kernel⟩
theorem test_meets_launchRefused : (queueCounts (tLaunch 2) Partition.whole 0).tail.toNat - (queueCounts (tLaunch 2) Partition.whole 0).head.toNat =
      queueSize (tLaunch 2) Partition.whole 0 ∧
    ¬(queueUsable (tLaunch 2) Partition.whole 1 = true) ∧ queuePart { tLaunch 2 with parts := [] } 0 = none ∧ ((tLaunch 2).hart.rg 2).toNat % 128 ≠ 0 ∧
    Settled (tLaunch 2) := by unfold Settled; decide +kernel
theorem test_meets_record : Plain (tLaunch 1) .load 8 ((tLaunch 1).hart.rg 1) 0x2000 := marked_of (by decide +kernel)

-- NextStrip: a strip that remains, and none; 01 R16: strip 1 of 10 elements by 4 starts at 4
def tRake (next : Word) : State := { tPlaced tHart [] with farms := [{ tFarm with packet := { tPacket with n := 10, s := 4 }, nextStrip := next }] }
theorem test_nexts : ([(hartAfter (exec .nexts (tRake 1))).rg 1, (hartAfter (exec .nexts (tRake 1))).rg 2, (hartAfter (exec .nexts (tRake 2))).rg 1,
    (hartAfter (exec .nexts (tRake 2))).rg 2, (hartAfter (exec .nexts (tRake 3))).rg 1, (hartAfter (exec .nexts (tRake 3))).rg 2]) = [4, 4, 8, 2, 10, 0] := by
  decide +kernel
theorem test_meets_nexts : (tRake 2).hart.member = some ⟨0, 0⟩ ∧ (farmBy (tRake 2) 0).isSome = true ∧ 2 * 4 < 10 ∧ 10 ≤ 3 * 4 ∧ tHart.member = none := by decide +kernel

-- The fabric: a region of PE 0, and one of PEs 0 and 1 joined by a wire or a stream to a second region

def tRegionCfg (i : Nat) (pes : BitVec 64) (dup : Bool) : RegionCfg := { index := i, pemask := pes, rank := 0, duplex := dup, fedge := none }
def tRegion (i : Nat) (pes : BitVec 64) (dup : Bool) : Region := { cfg := tRegionCfg i pes dup, stopped := false, barred := false, draining := false }
def tPeCfg (i r : Nat) (slots : List (BitVec 64)) (outs ins : List ChanKind) : PeCfg :=
  { pe := i, region := r, consts := [0, 0, 0, 0], slots := slots, outs := outs, ins := ins }
def tPe (c : PeCfg) : Pe := { cfg := c, d := Vector.replicate 8 0, p := 0, ins := Vector.replicate 4 [], outs := Vector.replicate 4 [], quiescent := false }
def tFab (h : Hart) (x : Fabric) (mem : List Host.Cell) : State :=
  { State.reset with tiles := [(0, { Tile.reset with h0 := h, fabric := x })], mem := mem }
/-- Owned by hart 0 and context 0, with these regions and PEs. -/
def tFabric (rs : List Region) (ps : List (Nat × Pe)) : Fabric := { Fabric.empty with owner := some (false, 0), regions := rs, pes := ps }
/-- PE 0 with the slots, port channel 0 in and out. -/
def tLone (slots : List (BitVec 64)) : Pe := tPe (tPeCfg 0 0 slots [.port] [.port])
def tLoneFab (p : Pe) : State := tFab tHart (tFabric [tRegion 0 1 false] [(0, p)]) []

-- FabricConfigurations: the fabric free, owned, and another's; the smallest good object (one region with PE 0), and one without its MAGIC
def tForeign : Fabric := { tFabric [tRegion 0 1 false] [(0, tLone [])] with owner := some (true, 0) }
theorem test_meets_fabricOwner : (Fabric.empty.regions = [] ∧ Fabric.empty.staged = none ∧ Fabric.empty.swap = none) ∧
    (tLoneFab (tLone [])).tile.fabric.owner = some (false, (tLoneFab (tLone [])).hart.ctxid) ∧ tForeign.regions ≠ [] ∧ tForeign.owner ≠ some (false, 0) ∧
    Settled (tLoneFab (tLone [])) ∧ (tLoneFab (tLone [])).tile.fabric.swap = none ∧ (tU.hart.rg 1 + (4 : BitVec 32).signExtend 64).toNat % 128 ≠ 0 ∧
    { Fabric.empty with swap := some ({ regions := [], streams := [], pes := [] }, []) }.swap ≠ none := by unfold Settled; decide +kernel
def tObject (magic : Byte) : List Host.Cell := [⟨0x2000, 0xB1⟩, ⟨0x2001, magic⟩, ⟨0x2004, 0x01⟩, ⟨0x2010, 0x01⟩, ⟨0x2019, 0xFF⟩]
def tObjectState (magic : Byte) : State := tState tHart (tObject magic)
def tObjectNat : Nat := 0xFAB1 + 2 ^ 32 + 2 ^ 128 + 0xFF * 2 ^ 200
theorem test_meets_object : Calm (tObjectState 0xFA) ∧ Settled (tObjectState 0xFA) ∧ (0x2000 : Word).toNat % 128 = 0 ∧
    (∀ j, j < 1600 → Plain (tObjectState 0xFA) .load 8 (0x2000 + BitVec.ofNat 64 (8 * j)) (0x2000 + 8 * j)) ∧
    ((List.range 4).map fun j => memRead (tObjectState 0xFA).mem 8 (0x2000 + 8 * j) * 2 ^ (64 * j)).foldl (· + ·) 0 = tObjectNat ∧
    checkObject tObjectNat false = none ∧ checkObject 0 false = some ⟨1, 0, 0⟩ ∧ 0 % 2 ^ 32 ≠ 0xFAB1 :=
  ⟨calm_of (by decide +kernel), ⟨rfl, by decide +kernel⟩, by decide,
   plainAll_iff (m := 1600) (va := fun j => 0x2000 + BitVec.ofNat 64 (8 * j)) (pa := fun j => 0x2000 + 8 * j) (by decide +kernel),
   by decide +kernel, by decide +kernel, by decide +kernel, by decide⟩
/-- A staged configuration of region 0 with PE 0, and one whose region 1 is joined to it by a stream. -/
def tStage : FabricCfg := { regions := [tRegionCfg 0 1 false], streams := [], pes := [tPeCfg 0 0 [] [] []] }
def tStageStream : FabricCfg :=
  { regions := [tRegionCfg 0 1 false, tRegionCfg 1 2 false], streams := [{ index := 0, prodPe := 0, prodCh := 0, consPe := 1, consCh := 0, depth := 16 }],
    pes := [tPeCfg 0 0 [] [.stream 0] [], tPeCfg 1 1 [] [] [.stream 0]] }
theorem test_meets_swap : (∀ r ∈ tStage.regions, (2#64).getLsbD r.index = false) ∧ (∃ r ∈ tStage.regions, (1#64).getLsbD r.index = true) ∧
    (∀ y ∈ tStage.streams, y.prodPe = y.consPe) ∧ (∀ r ∈ [tRegion 0 1 false], r.stopped = false) ∧
    (∃ y ∈ tStageStream.streams, (tStageStream.pes.any fun z => z.pe == y.prodPe && (1#64).getLsbD z.region) ≠
      (tStageStream.pes.any fun z => z.pe == y.consPe && (1#64).getLsbD z.region)) ∧
    (tStage.pes.map fun p => p.pe).Nodup ∧ ([tRegion 0 1 false].map fun r => r.cfg.index).Nodup := by decide +kernel
theorem test_meets_swapComplete : (tileAt (tFab tHart { Fabric.empty with swap := some (tStage, [0]) } []) 0).fabric.swap = some (tStage, [0]) ∧
    (tileAt (tFab tHart { Fabric.empty with swap := some (tStage, [0]) } []) 0).fabric.staging = false ∧ Fabric.empty.swapDrains = [] ∧
    (∀ r ∈ [0], ∀ z ∈ Fabric.empty.regions, z.cfg.index ≠ r) ∧ (∀ r ∈ tStage.regions, r.duplex = false) ∧
    (∃ r ∈ [0], ∃ z ∈ (tFabric [tRegion 0 1 false] []).regions, z.cfg.index = r) := by decide +kernel
theorem test_meets_drain : (tHart.rg 2).getLsbD 8 = false ∧ (0x100 : Word).getLsbD 8 = true ∧
    (∀ e ∈ (tLoneFab (tLone [])).tile.engines.toList, e = none) ∧ (tFabric [tRegion 0 1 false] [(0, tLone [])]).home 0 = some (tRegion 0 1 false) ∧
    (tFabric [tRegion 0 1 false] [(0, tLone [])]).pe 0 = some (tLone []) ∧ (tLone []).cfg.inKind 0 = .port := by decide +kernel
/-- Region 0, stopped by a mismatch, with a stream to region 1, which runs; a staged region 0 that takes its place. -/
def tHalted : State :=
  tFab tHart { tFabric [{ tRegion 0 1 false with stopped := true, barred := true }, tRegion 1 2 false]
    [(0, tPe (tPeCfg 0 0 [] [.stream 0] [])), (1, tPe (tPeCfg 1 1 [] [] [.stream 0]))] with
    staged := some tStage, streams := [{ cfg := { index := 0, prodPe := 0, prodCh := 0, consPe := 1, consCh := 0, depth := 16 }, base := 0, q := [.data 7 0], prodGone := false, consGone := false }] } []
theorem test_meets_discard : (tHalted.tile.fabric.regions.map fun r => r.cfg.index).Nodup ∧
    (∀ y ∈ tHalted.tile.fabric.regions, ∀ z ∈ tHalted.tile.fabric.regions, (∃ i ∈ y.cfg.occupied, i ∈ z.cfg.occupied) → y = z) ∧
    (∀ e ∈ tHalted.tile.engines.toList, e = none) ∧ tHalted.tile.fabric.staged = some tStage ∧ tHalted.tile.fabric.swap = none ∧
    (∃ r ∈ tStage.regions, ((0 : GReg) == 0 || (tHalted.hart.rg 0).getLsbD r.index) = true) ∧
    tHalted.tile.fabric.home 0 = some { tRegion 0 1 false with stopped := true, barred := true } ∧
    tHalted.tile.fabric.pe 0 = some (tPe (tPeCfg 0 0 [] [.stream 0] [])) ∧ (tPeCfg 0 0 [] [.stream 0] []).outKind 0 = .stream 0 := by decide +kernel
-- 11 R265, R267: the region that is discarded ends its stream, and no mismatch bars it
theorem test_discard : (match exec (.fswap 0) tHalted with
      | .next t => (t.tile.fabric.regions.map fun r => (r.barred, r.draining), (t.tile.fabric.pe 0).map fun p => (p.outq 0, p.quiescent))
      | _ => ([], none)) = ([(false, true), (false, true)], some ([.drain], true)) := by decide +kernel
theorem test_meets_regionDrained : (let y := (tFabric [tRegion 0 1 false] [(0, { tLone [] with quiescent := true })])
      y.region 0 = some (tRegion 0 1 false) ∧ (∀ i ∈ (tRegion 0 1 false).cfg.occupied, i = 0) ∧ y.pe 0 = some { tLone [] with quiescent := true } ∧
      y.owner = some (false, (getHart (tLoneFab (tLone [])) ⟨0, false⟩).ctxid)) ∧ (∀ k, (tLone []).cfg.outKind 0 ≠ .stream k) ∧
    Fabric.empty.region 0 = none := ⟨by decide +kernel, fun k h => (by have h : ChanKind.port = .stream k := h; cases h), by decide +kernel⟩
theorem test_meets_status : (∀ r ∈ [tRegion 7 1 false], r.cfg.index < 8) ∧ (∀ r ∈ tStageStream.regions, r.index < 8) := by decide +kernel

-- FabricFiring: a slot that adds d0 and d1 into d2, one that faults, one that is not ready
def tAddSlot : BitVec 64 := 0x8000000012010000
def tFaultSlot : BitVec 64 := 0x8000000220000005
def tWaitSlot : BitVec 64 := 0x8000080000000000
theorem test_meets_fire : (tFabric [tRegion 0 1 false] [(0, tLone [tAddSlot])]).home 0 = some (tRegion 0 1 false) ∧ (tRegion 0 1 false).cfg.duplex = false ∧
    (tLone [tAddSlot]).cfg.slots = [] ++ tAddSlot :: [] ∧ (tLone [tWaitSlot, tFaultSlot]).cfg.slots = [tWaitSlot] ++ tFaultSlot :: [] ∧
    (([tAddSlot, tFaultSlot, tWaitSlot].all fun z => (List.range 8).all fun k => !z.getLsbD (47 + k) || z.getLsbD (55 + k)) = true) ∧
    tAddSlot.toNat / 2 ^ 28 % 2 ^ 6 = 0x01 ∧ tFaultSlot.toNat / 2 ^ 28 % 2 ^ 6 = 0x22 ∧
    (∀ k, k < 8 → tAddSlot.getLsbD (55 + k) = false ∧ tFaultSlot.getLsbD (55 + k) = decide (k = 8)) ∧
    (∀ k, k < 4 → tAddSlot.getLsbD (43 + k) = false ∧ tFaultSlot.getLsbD (43 + k) = false ∧ tAddSlot.getLsbD (34 + k) = false ∧ tFaultSlot.getLsbD (34 + k) = false) ∧
    tAddSlot.getLsbD 63 = true ∧ tFaultSlot.getLsbD 63 = true ∧ tAddSlot.getLsbD 42 = false ∧ tFaultSlot.getLsbD 42 = false ∧
    tWaitSlot.getLsbD 43 = true ∧ ((tLone [tWaitSlot]).inq 0).head? = none ∧ (tRegion 0 1 false).cfg.fedge = none := by decide +kernel
-- 11 R251: the three words of its example keep the rules of slots, given two inputs and two outputs in use
theorem test_slots : ([0x80801C0140893000, 0x80801C4548893840, 0x8080800020000800].all fun w =>
    slotOk w [true, true, true, true] [true, true, true, true]) = true := by decide +kernel
/-- PE 0 of region 0 faults; its fault edge names region 1, stopped or with its fault input full, whose edge names region 2. -/
def tEdged (i : Nat) (e : Option Nat) (st : Bool) : Region := { tRegion i (2 ^ i) false with cfg := { tRegionCfg i (2 ^ i) false with fedge := e }, stopped := st }
def tHandler (i : Nat) (l : List Token) : Pe := { tPe (tPeCfg i i [] [] [.unused, .unused, .unused, .faultIn]) with ins := (Vector.replicate 4 []).set 3 l }
def tFaulting (st : Bool) (l m : List Token) (e : Option Nat) : Fabric :=
  tFabric [tEdged 0 (some 1) false, tEdged 1 (some 2) st, tEdged 2 e false] [(0, tLone [tFaultSlot]), (1, tHandler 1 l), (2, tHandler 2 m)]
theorem test_meets_faultEdge : (∀ x ∈ [tFaulting true [] [] none, tFaulting false (List.replicate 4 (.data 1 3)) [] none, tFaulting true [] (List.replicate 4 (.data 1 3)) none],
      x.region 0 = some (tEdged 0 (some 1) false) ∧ x.region 2 = some (tEdged 2 none false) ∧ (x.region 1).isSome = true) ∧
    (∀ l, (l < 2 → ([tEdged 0 (some 1) false, tEdged 1 (some 2) true][l]?).map (fun r => r.cfg.fedge) = some (some (l + 1)))) ∧
    (tFaulting true [] [] none).region 1 = some (tEdged 1 (some 2) true) ∧ (tEdged 1 (some 2) true).stopped = true ∧ (tEdged 1 (some 2) true).cfg.duplex = false ∧
    (let x := tFaulting false (List.replicate 4 (.data 1 3)) [] none
     (tEdged 1 (some 2) false).cfg.pes.head? = some 1 ∧ x.home 1 = some (tEdged 1 (some 2) false) ∧ x.pe 1 = some (tHandler 1 (List.replicate 4 (.data 1 3))) ∧
     4 ≤ ((tHandler 1 (List.replicate 4 (.data 1 3))).inq 3).length ∧ (tEdged 2 none false).cfg.pes.head? = some 2 ∧ x.home 2 = some (tEdged 2 none false) ∧
     x.pe 2 = some (tHandler 2 []) ∧ ((tHandler 2 []).inq 3).length < 4) ∧ (tEdged 2 none false).cfg.fedge = none ∧
    (tFaulting true [] [] none).owner = some (false, 0) ∧ ([] : List Region).length < 8 := by
  refine ⟨by decide +kernel, fun l h => ?_, by decide +kernel⟩
  have : l = 0 ∨ l = 1 := by omega
  rcases this with rfl | rfl <;> decide
-- 11 R260: the record passes the stopped region and enters the next with ESC and tag 3
theorem test_faultEdge : (match exec .peFire (tFire (tFab tHart (tFaulting true [] [] none) []) (.peFire 0 0)) with
      | .next t => (t.tile.fabric.pe 2).map fun p => p.inq 3
      | _ => none) = some [.data 0x80005 3] := by decide +kernel
/-- PE 0 with a token at output 0, which a wire or a stream carries to input 0 of PE 1. -/
def tSender (k : ChanKind) (l : List Token) : Pe := { tPe (tPeCfg 0 0 [] [k] []) with outs := (Vector.replicate 4 []).set 0 l }
def tTaker (r : Nat) (k : ChanKind) (l : List Token) : Pe := { tPe (tPeCfg 1 r [] [] [k]) with ins := (Vector.replicate 4 []).set 0 l }
def tStream (l : List Token) : FStream := { cfg := { index := 0, prodPe := 0, prodCh := 0, consPe := 1, consCh := 0, depth := 16 }, base := 0, q := l, prodGone := false, consGone := false }
def tWired (l : List Token) : Fabric := tFabric [tRegion 0 3 false] [(0, tSender (.wire 1 0) [.data 7 0]), (1, tTaker 0 (.wire 0 0) l)]
def tStreamed (out q l : List Token) : Fabric :=
  { tFabric [tRegion 0 1 false, tRegion 1 2 false] [(0, tSender (.stream 0) out), (1, tTaker 1 (.stream 0) l)] with streams := [tStream q] }
theorem test_meets_wire : (tWired []).home 0 = some (tRegion 0 3 false) ∧ (tWired []).pe 0 = some (tSender (.wire 1 0) [.data 7 0]) ∧
    (∀ z ∈ (tWired []).streams, ¬(z.cfg.prodPe = 0 ∧ z.cfg.prodCh = 0)) ∧ (tSender (.wire 1 0) [.data 7 0]).cfg.outKind 0 = .wire 1 0 ∧
    (tSender (.wire 1 0) [.data 7 0]).outq 0 = .data 7 0 :: [] ∧ (tWired []).pe 1 = some (tTaker 0 (.wire 0 0) []) ∧ ((tTaker 0 (.wire 0 0) []).inq 0).length < 4 ∧
    4 ≤ ((tTaker 0 (.wire 0 0) (List.replicate 4 (.data 1 0))).inq 0).length := by decide +kernel
theorem test_meets_streamTokens : (tStreamed [.data 7 0] [] []).streamFrom 0 0 = some (tStream []) ∧ (tSender (.stream 0) [.data 7 0]).outq 0 = .data 7 0 :: [] ∧
    (tStream []).consGone = false ∧ (tStreamed [.data 7 0] [] []).fromLeft 0 0 = none ∧ 0 < (tStream []).cfg.depth ∧ (tSender (.stream 0) []).outq 0 = [] ∧ (tStream [.data 7 0]).q = .data 7 0 :: [] ∧
    (tStreamed [] [.data 7 0] []).home 1 = some (tRegion 1 2 false) ∧ (tStreamed [] [.data 7 0] []).pe 1 = some (tTaker 1 (.stream 0) []) ∧
    ((tTaker 1 (.stream 0) []).inq 0).length < 4 ∧ 4 ≤ ((tTaker 1 (.stream 0) (List.replicate 4 (.data 1 0))).inq 0).length := by decide +kernel
-- a token of a run whose consumer is gone, or is quiescent
theorem test_meets_lostToken : ({ tStream [.data 7 0] with consGone := true }).consGone = true ∧
    (let x := { tStreamed [] [.data 7 0] [] with pes := [(0, tSender (.stream 0) []), (1, { tTaker 1 (.stream 0) [] with quiescent := true })] }
     x.pe 1 = some { tTaker 1 (.stream 0) [] with quiescent := true } ∧ x.streamFrom 0 0 = some (tStream [.data 7 0]) ∧ (tStream [.data 7 0]).cfg.consPe = 1) ∧
    (tTaker 1 (.stream 0) []).quiescent = false ∧ 0 < 4 ∧ (1 : Nat) ≠ 0 := by decide +kernel
theorem test_meets_quiescence : (∀ ch, ch < 4 ∧ (tTaker 0 (.wire 0 0) [.drain]).cfg.inKind ch ≠ .unused ∧ (tTaker 0 (.wire 0 0) [.drain]).cfg.inKind ch ≠ .faultIn →
      ((tTaker 0 (.wire 0 0) [.drain]).inq ch).head? = some .drain) ∧
    (0 < 4 ∧ (tTaker 0 (.wire 0 0) []).cfg.inKind 0 ≠ .unused ∧ ((tTaker 0 (.wire 0 0) []).inq 0).head? = none) :=
  ⟨fun ch h => by
     have g : ∀ c, c < 4 → (tTaker 0 (.wire 0 0) [.drain]).cfg.inKind c ≠ .unused → ((tTaker 0 (.wire 0 0) [.drain]).inq c).head? = some .drain := by decide +kernel
     exact g ch h.1 h.2.1,
   by decide +kernel⟩
-- ports of PE 0: a word put in, a full channel, a token taken, none, two that differ in a duplex region, one left of a region that has gone
def tOut (l : List Token) : Pe := { tLone [] with outs := (Vector.replicate 4 []).set 0 l }
def tLeft (l : List Token) : LeftPe := { region := tRegionCfg 0 1 false, pe := tOut l, mirror := none, barred := false }
theorem test_meets_ports : (tFabric [tRegion 0 1 false] [(0, tLone [])]).owner = some (false, tHart.ctxid) ∧ (tLone []).cfg.inKind 0 = .port ∧
    (tLone []).cfg.outKind 0 = .port ∧ (∀ e ∈ (tLoneFab (tLone [])).tile.engines.toList, e = none) ∧ (0x400 : Word).getLsbD 10 = true ∧ (0 : Word).getLsbD 10 = false ∧
    ((tLone []).inq 0).length < 4 ∧ 4 ≤ ({ tLone [] with ins := (Vector.replicate 4 []).set 0 (List.replicate 4 (.data 1 0)) }.inq 0).length ∧
    (tOut [.data 7 0]).outq 0 = .data 7 0 :: [] ∧ (tOut []).outq 0 = [] ∧
    (tFabric [tRegion 0 1 true] [(0, tOut [.data 7 0]), (4, tOut [.data 8 0])]).home 0 = some (tRegion 0 1 true) ∧
    (tFabric [tRegion 0 1 true] [(0, tOut [.data 7 0]), (4, tOut [.data 8 0])]).pe (0 + 4) = some (tOut [.data 8 0]) ∧ Token.data 7 0 ≠ .data 8 0 ∧
    { Fabric.empty with leftover := [(0, tLeft [.drain])] }.home 0 = none ∧ alGet { Fabric.empty with leftover := [(0, tLeft [.drain])] }.leftover 0 = some (tLeft [.drain]) ∧
    (tLeft [.drain]).pe.outq 0 = .drain :: [] ∧ (tLeft [.drain]).mirror = none ∧ (tLeft [.drain]).barred = false ∧ (tLeft []).pe.outq 0 = [] ∧
    alGet Fabric.empty.leftover 0 = none := by decide +kernel
theorem test_meets_fabricEvents : (getHart (tState { tHart with fabricEvents := [.fault 0 5] } []) ⟨0, false⟩).fabricEvents = .fault 0 5 :: [] ∧
    tHart.run = .running ∧ tHart.vq = [] ∧ tHart.inProgress = none ∧ tHart.trapWait = none ∧ ¬(tHart.level = .s ∧ tHart.tip = true) ∧
    (tileAt tU 0).seqr ≠ some false ∧ ¬({ tHart with run := .halted }.run = .running) := by decide +kernel

-- StreamInstructions: descriptors at 0x2000, of 4 elements of 4 bytes at 0x3000, plain and with a reservation; a blank one is bad
def tDescriptor (flags : Byte) : List Host.Cell := [⟨0x2001, 0x30⟩, ⟨0x2008, 4⟩, ⟨0x200C, 1⟩, ⟨0x2010, 4⟩, ⟨0x2020, 2⟩] ++
  if flags = 0 then [] else [⟨0x2023, flags⟩]
def tOpening (flags : Byte) : State := tState tHart (tDescriptor flags)
theorem none_held {s : State} {e : Engine} (h : engineAt s s.cur.tile e = none) (x : EngineState) : ¬engineAt s s.cur.tile e = some x := by
  rw [h]; intro h; cases h
theorem test_meets_open : (tU.hart.rg 2).toNat % 64 ≠ 0 ∧ (tU.hart.rg 1).toNat % 64 = 0 ∧ Settled (tOpening 0) ∧ Calm (tOpening 0) ∧
    (∀ x, ¬engineAt (tOpening 0) (tOpening 0).cur.tile 1 = some x) ∧
    (∀ j, j < 8 → Plain (tOpening 0) .load 8 ((tOpening 0).hart.rg 1 + BitVec.ofNat 64 (8 * j)) (0x2000 + 8 * j)) ∧ tU.tlb = [] ∧
    (∀ j, j < 8 → Plain tU .load 8 (tU.hart.rg 1 + BitVec.ofNat 64 (8 * j)) (0x2000 + 8 * j)) ∧
    memRead tU.mem 8 0x2028 % 8 = 0 ∧ memRead tU.mem 8 0x2008 % 2 ^ 32 = 0 :=
  ⟨by decide +kernel, by decide +kernel, ⟨rfl, by decide +kernel⟩, calm_of (by decide +kernel), none_held (by decide +kernel),
   plainAll_iff (m := 8) (va := fun j => (tOpening 0).hart.rg 1 + BitVec.ofNat 64 (8 * j)) (pa := fun j => 0x2000 + 8 * j) (by decide +kernel), rfl,
   plainAll_iff (m := 8) (va := fun j => tU.hart.rg 1 + BitVec.ofNat 64 (8 * j)) (pa := fun j => 0x2000 + 8 * j) (by decide +kernel),
   by decide +kernel, by decide +kernel⟩
theorem test_meets_openGood : [(0 : Byte), 1].all (fun b =>
    let f (j lo len : Nat) : Nat := memRead (tOpening b).mem 8 (0x2000 + 8 * j) / 2 ^ lo % 2 ^ len
    decide (f 1 0 32 ≠ 0 ∧ f 1 32 32 ≠ 0 ∧ f 4 0 8 ≤ 3 ∧ f 4 8 8 ≤ 3 ∧ f 4 16 8 ≤ 2 ∧ f 4 25 7 = 0 ∧ (f 4 8 8 ≠ 3 → f 4 32 32 = 0) ∧
      f 5 0 64 % 8 = 0 ∧ f 6 0 64 = 0 ∧ f 7 0 64 = 0 ∧ f 4 8 8 = 0 ∧ f 4 24 1 = b.toNat)) = true ∧
    (engineAt (tOpening 0) 0 1).isSome = false ∧ (1 : Engine) ≠ 0 ∧ (engineAt (tEngineState tHart tEngine []) 0 1).isSome = true := by decide +kernel
theorem test_meets_openReserved : let ds := descOf ((List.range 8).map fun j => memRead (tOpening 1).mem 8 (0x2000 + 8 * j))
    ((List.range 4).all fun j => (List.range 4).all fun i => decide ((elementAt ds j).toNat + i < 2 ^ 64) &&
      decide (translate (tOpening 1) { level := .u, table := none, part := partByNum (tOpening 1) (partNum (tOpening 1) 0) } .load
        (elementAt ds j + BitVec.ofNat 64 i) = .ok (0x3000 + 4 * j + i) 0 none)) = true := by decide +kernel
/-- The descriptor with elements 0x10000 apart, of which the second lies in a page that is not mapped; an EXFP8 stream that runs into that page. -/
def tFarDescriptor : List Host.Cell := [⟨0x2001, 0x30⟩, ⟨0x2008, 4⟩, ⟨0x200C, 1⟩, ⟨0x2012, 1⟩, ⟨0x2020, 2⟩, ⟨0x2023, 1⟩]
def tCodedDescriptor : List Host.Cell := [⟨0x2000, 0xC0⟩, ⟨0x2001, 0xFF⟩, ⟨0x2008, 32⟩, ⟨0x200C, 1⟩, ⟨0x2021, 3⟩, ⟨0x2023, 1⟩, ⟨0x2024, 0x80⟩]
def tFar (l : List Host.Cell) : State := { tMapped with mem := l ++ tPages.take 10 }
def userSpace (s : State) : Space :=
  { level := .u, table := if s.hart.translated then some (s.hart.root, s.hart.asid) else none, part := partByNum s (partNum s s.cur.tile), who := hartWho s s.cur }
def reachesAll (s : State) (lo n : Nat) : Bool :=
  (List.range n).all fun i => decide (translate s (userSpace s) .load (BitVec.ofNat 64 (lo + i)) = .ok (lo + i) 0 (some (0x43000, 0xFF, 16)))
theorem test_meets_openPages : (tFar tFarDescriptor).tlb = [] ∧ (tFar tCodedDescriptor).tlb = [] ∧ reachesAll (tFar tFarDescriptor) 0x3000 4 = true ∧
    reachesAll (tFar tCodedDescriptor) 0xFFC0 64 = true ∧
    translate (tFar tFarDescriptor) (userSpace (tFar tFarDescriptor)) .load 0x13000 = .trap (trapOf 0x06 0x13000) ∧
    translate (tFar tCodedDescriptor) (userSpace (tFar tCodedDescriptor)) .load 0x10000 = .trap (trapOf 0x06 0x10000) ∧
    (let f (l : List Host.Cell) (j lo len : Nat) : Nat := memRead (tFar l).mem 8 (0x2000 + 8 * j) / 2 ^ lo % 2 ^ len
     (elementAt (descOf ((List.range 8).map fun j => memRead (tFar tFarDescriptor).mem 8 (0x2000 + 8 * j))) 1).toNat = 0x13000 ∧
     f tFarDescriptor 1 0 32 = 4 ∧ f tFarDescriptor 4 24 1 = 1 ∧ f tCodedDescriptor 4 8 8 = 3 ∧ f tCodedDescriptor 4 24 1 = 1 ∧
     f tCodedDescriptor 1 0 32 * f tCodedDescriptor 1 32 32 % 32 = 0 ∧ (f tCodedDescriptor 0 0 64 / 65536 + 1) * 65536 = 0x10000 ∧
     f tCodedDescriptor 0 0 64 + f tCodedDescriptor 4 32 32 = 0x10040) ∧
    (0x3000 : Nat) / 65536 ≠ 0x13000 / 65536 ∧ (0xFFFF : Nat) / 65536 ≠ 0x10000 / 65536 := by decide +kernel
/-- A reservation of engine 1 on line 0x60. -/
def tResv : Resv := { tile := 0, e := 1, h1 := false, ctx := 0, wi := false, policy := .wait, part := 0, asid := 0, lines := [0x60], cut := false }
-- the home of line 0x60 with six reservations on it, and with sixteen; an engine that is being freed
def tCrowded (l : List (Nat × Nat)) : State :=
  { tOpening 1 with resvs := l.map fun x => { tResv with tile := x.1, lines := [x.2] },
                    dir := [(0x60, tShared ((l.filter fun x => x.2 == 0x60).map fun x => .resv x.1 1))] }
def tSix : List (Nat × Nat) := (List.range 6).map fun i => (i + 1, 0x60)
def tSixteen : List (Nat × Nat) := (List.range 16).map fun i => (i + 1, 0x60)
theorem test_meets_openFull : [tSix, tSixteen].all (fun l => let s := tCrowded l
      decide (({ s with resvs := [], dir := [] }).relaxed = false ∧ (∀ y ∈ s.resvs, y.wi = false ∧ y.freeing = false) ∧ (∀ y ∈ s.dir, y.2.busy = none ∧ y.2.sv = false) ∧ s.tlb = [] ∧
        s.tile.seqr = none ∧ engineAt s 0 1 = none)) = true ∧
    (dirAt (tCrowded tSix) 0x60).ptrs.length = 6 ∧ (∀ p ∈ (dirAt (tCrowded tSix) 0x60).ptrs, p.isCopy = false) ∧
    16 ≤ ((tCrowded tSixteen).resvs.filter fun y => y.lines.any fun m => sliceOf (tCrowded tSixteen) m == sliceOf (tCrowded tSixteen) 0x60).length ∧
    (∃ y ∈ ({ tU with resvs := [{ tResv with freeing := true }] }).resvs, y.tile = 0 ∧ y.e = 1 ∧ y.freeing = true) :=
  ⟨by decide +kernel, by decide +kernel, by decide +kernel, by
     have e : ∀ y ∈ (tCrowded tSixteen).resvs, y.lines = [0x60] := by decide +kernel
     rw [List.filter_eq_self.mpr fun y h => by simp [e y h]]
     decide +kernel, ⟨_, .head _, rfl, rfl, rfl⟩⟩
-- 11 R273: code 2, and the trap of the page
theorem test_open : (hartAfter (exec (.sopen 5 1 1 false .wait) (tCrowded tSix))).rg 5 = 2 ∧
    ([tFar tFarDescriptor, tFar tCodedDescriptor].map fun s => let h := hartAfter (exec (.sopen 5 1 1 false .wait) s); (h.tcause, h.tval)) = [(6, 0x13000), (6, 0x10000)] := by
  decide +kernel
-- SBIND: the fabric free, with a port, and with a swap; an engine held with no binding, for reading and for writing
def tReader : EngineState := { tEngine with bind := .none, shape := none, desc := { tDesc with esize := 2 } }
def tWriter : EngineState := { tReader with wr := true }
/-- The current tile with engine 1 and a fabric. -/
def tEngineFab (h : Hart) (x : EngineState) (f : Fabric) (mem : List Host.Cell) : State :=
  { State.reset with tiles := [(0, { Tile.reset with h0 := h, engines := (Vector.replicate 4 none).set 1 (some x), fabric := f })], mem := mem }
theorem test_meets_bind : [tReader, tWriter, tEngine].all (fun x => (let s := tEngineFab (tVecHart 0x04 32) x (tFabric [tRegion 0 1 false] [(0, tLone [])]) []
      decide (engineAt s s.cur.tile 1 = some x ∧ x.h1 = s.cur.h1 ∧ x.ctx = s.hart.ctxid ∧ s.tile.fabric.owner = some (s.cur.h1, s.hart.ctxid) ∧ s.tile.fabric.swap = none ∧
        s.tile.fabric.home 0 = some (tRegion 0 1 false) ∧ s.tile.fabric.pe 0 = some (tLone []) ∧ (tLone []).cfg.outKind 0 = .port ∧ (tLone []).cfg.inKind 0 = .port ∧
        (∀ k ∈ s.tile.engines.toList, ∀ z ∈ k, z.bind ≠ .fin 0 0 false ∧ z.bind ≠ .fout 0 0 false)))) = true ∧
    tEngine.bind ≠ .none ∧ (tFabric [tRegion 0 1 false] [(0, tLone [])]).home 1 = none ∧ tReader.bind = .none ∧ tReader.wr = false ∧ tWriter.wr = true ∧
    (let y : Fabric := { tFabric [] [] with swap := some ({ tStage with pes := [tPeCfg 0 0 [] [.port] [.port]] }, [0]) }
     y.swap = some ({ tStage with pes := [tPeCfg 0 0 [] [.port] [.port]] }, [0]) ∧ (tPeCfg 0 0 [] [.port] [.port]).inKind 0 = .port) ∧
    tForeign.regions ≠ [] ∧ tForeign.owner ≠ some (false, 0) := by decide +kernel
theorem test_meets_bindQueue : elemWidth (vtFmt (tVecHart 0x04 32).vtype) = 32 ∧ (tVecHart 0x04 32).ill = false ∧ tReader.desc.enc = 0 ∧ 2 ^ tReader.desc.esize * 8 = 32 ∧
    2 ^ tReader.desc.esize * 8 ≠ elemWidth (vtFmt (tVecHart 0x0A 16).vtype) ∧
    (∃ k ∈ (tEngineState (tVecHart 0x04 32) tEngine []).tile.engines.toList, ∃ z, k = some z ∧ z.bind = .queue 1 ∧ z.h1 = false ∧ z.ctx = 0) ∧
    (∀ k ∈ (tEngineState (tVecHart 0x04 32) tReader []).tile.engines.toList, ∀ z ∈ k, z.bind ≠ .queue 1) :=
  ⟨by decide +kernel, by decide +kernel, by decide +kernel, by decide +kernel, by decide +kernel,
   ⟨some tEngine, by decide +kernel, tEngine, rfl, by decide +kernel⟩, by decide +kernel⟩
-- SSTAT and SCLOSE: a stream that runs, one that is done, with a reservation and without
def tClosing (x : EngineState) (r : List Resv) : State := { tEngineState tHart x [] with resvs := r }
theorem test_meets_close : [tReader, { tReader with done := true }].all (fun x =>
      decide (engineAt (tClosing x []) 0 1 = some x ∧ x.h1 = false ∧ x.ctx = (tClosing x []).hart.ctxid ∧ (tClosing x []).relaxed = false)) = true ∧
    Settled (tClosing tReader []) ∧ Settled (tClosing { tReader with done := true } [tResv]) ∧ tResv.tile = 0 ∧ tResv.e = 1 ∧
    (tClosing tReader [tResv]).held = [] ∧ Rising (tClosing tReader [tResv]).dir ∧ tReader.desc.sbar = 0 ∧ (∀ p c b, tReader.bind ≠ .fin p c b) :=
  ⟨by decide +kernel, ⟨rfl, by decide +kernel⟩, ⟨rfl, by decide +kernel⟩, rfl, rfl, rfl, .nil, rfl, fun p c b h => by cases (h : Binding.none = .fin p c b)⟩

-- StreamElements: the engine at its element at 0x3000, to a queue, to a port and from a port
def tQueueReader : EngineState := { tEngine with desc := { tDesc with base := 0x3000, esize := 2 } }
def tPortReader (n : Nat) : EngineState := { tReader with bind := .fin 0 0 false, desc := { tDesc with base := 0x3000, esize := 2, sbar := 0x5000 }, count := n, pos := n }
def tPortWriter (n : Nat) : EngineState := { tPortReader n with wr := true, bind := .fout 0 0 false }
def tStreams (x : EngineState) (f : Fabric) : State := tEngineFab tHart x f []
def tPorts (out : List Token) : Fabric := tFabric [tRegion 0 1 false] [(0, tOut out)]
theorem goes_of {u : State} {n : Nat} {e : Engine} {x : EngineState} (h : engineAt u n e = some x ∧ (x.phase = .inUse ∧ x.registering = [] ∧ x.done = false ∧
    x.discarding = false) ∧ (x.pages = [] ∧ u.resvs = [] ∧ u.dir = [] ∧ u.bad = [] ∧ u.refused = [])) : EngineGoes u n e x := ⟨h.1, h.2.1, h.2.2⟩
theorem engine_of {u : State} {n : Nat} {e : Engine} {x : EngineState} {k : AccKind} {m : Nat} {va : Word} {pa : Nat}
    (h : va.toNat % m = 0 ∧ (rangeOf (partByNum u x.part) (128 * (pa / 128))).isSome = true ∧
      translate u { level := .u, table := x.root, part := partByNum u x.part, who := .engine n e } k va = .ok pa 0 none) : EngineReaches u n e x k m va pa :=
  ⟨h.1, h.2.1, 0, none, h.2.2, by decide, rfl⟩
theorem test_meets_queueElement : Fires (tFire (tStreams tQueueReader Fabric.empty) (.streamReadElement 0 1)) (tStreams tQueueReader Fabric.empty) (.streamReadElement 0 1) ∧
    EngineGoes (tStreams tQueueReader Fabric.empty) 0 1 tQueueReader ∧ tQueueReader.wr = false ∧ tQueueReader.desc.enc < 3 ∧ tQueueReader.half = none ∧
    EngineReaches (tStreams tQueueReader Fabric.empty) 0 1 tQueueReader .load 4 (elementAt tQueueReader.desc 0) 0x3000 ∧ tQueueReader.bind = .queue 1 ∧
    tQueueReader.entries.length < max 4 (vtG tHart.vtype) ∧ tQueueReader.count + 1 ≠ 4 * 1 ∧ ¬(512 ≤ tQueueReader.partElems + 1) ∧ 512 ≤ ({ tQueueReader with partElems := 511 }).partElems + 1 :=
  ⟨fires _ _, goes_of (by decide +kernel), rfl, by decide, rfl, engine_of (by decide +kernel), rfl, by decide +kernel, by decide, by decide, by decide⟩
-- EXFP8: the example's block at 0x3000, codes kept from a block before, a header of 4, the range's end within a block; a port
def tCodedReader (pending : List Byte) (pos : Nat) : EngineState :=
  { tEngine with desc := { tDesc with base := 0x3000, icnt := 64, esize := 0, enc := 3, bytes := 44 }, pending := pending, bytePos := pos,
                 shape := some { fmt := .bf16, width := 16, perEntry := 1024, frm := 0 } }
def tCoded (x : EngineState) (m : List Host.Cell) : State :=
  { State.reset with tiles := [(0, { Tile.reset with h0 := tHart, engines := (Vector.replicate 4 none).set 1 (some x), ctab := Vector.replicate 4 tTable, fabric := tPorts [] })], mem := m }
theorem test_meets_codedElement : (∀ p ∈ [([] : List Byte), [0x38]], (tCodedReader p 0).pending = p ∧ engineAt (tCoded (tCodedReader p 0) [⟨0x3002, 0xC0⟩, ⟨0x3011, 0x1A⟩]) 0 1 = some (tCodedReader p 0) ∧
      EngineGoes (tCoded (tCodedReader p 0) [⟨0x3002, 0xC0⟩, ⟨0x3011, 0x1A⟩]) 0 1 (tCodedReader p 0)) ∧ (tCodedReader [] 0).bytePos + tBlock.length ≤ 44 ∧
    (∀ k, k < tBlock.length → EngineReaches (tCoded (tCodedReader [] 0) [⟨0x3002, 0xC0⟩, ⟨0x3011, 0x1A⟩]) 0 1 (tCodedReader [] 0) .load 1 (0x3000 + BitVec.ofNat 64 (0 + k)) (0x3000 + k) ∧
      tBlock[k]? = some (memGet (tCoded (tCodedReader [] 0) [⟨0x3002, 0xC0⟩, ⟨0x3011, 0x1A⟩]).mem (0x3000 + k)) ∧ readBlock (Vector.replicate 4 tTable) (tBlock.take k) = .more) ∧
    readBlock (Vector.replicate 4 tTable) [4] = .error ∧ memGet (tCoded (tCodedReader [] 0) [⟨0x3000, 4⟩]).mem 0x3000 = 4 ∧
    readBlock (Vector.replicate 4 tTable) (tBlock.take 21) = .more ∧ 23 + (tBlock.take 21).length = 44 ∧
    EngineGoes (tCoded { tCodedReader [0x38] 0 with bind := .fin 0 0 false, shape := none } []) 0 1 { tCodedReader [0x38] 0 with bind := .fin 0 0 false, shape := none } := by
  refine ⟨fun p h => ?_, by decide, fun k h => ?_, by decide +kernel, by decide +kernel, by decide +kernel, by decide +kernel, goes_of (by decide +kernel)⟩
  · have hp : p = [] ∨ p = [0x38] := by simpa using h
    rcases hp with rfl | rfl <;> exact ⟨rfl, by decide +kernel, goes_of (by decide +kernel)⟩
  · have g : ((List.range 22).all fun k => decide ((rangeOf (partByNum (tCoded (tCodedReader [] 0) [⟨0x3002, 0xC0⟩, ⟨0x3011, 0x1A⟩]) 0) (128 * ((0x3000 + k) / 128))).isSome = true) &&
        decide (translate (tCoded (tCodedReader [] 0) [⟨0x3002, 0xC0⟩, ⟨0x3011, 0x1A⟩]) { level := .u, table := none, part := partByNum (tCoded (tCodedReader [] 0) [⟨0x3002, 0xC0⟩, ⟨0x3011, 0x1A⟩]) 0, who := .engine 0 1 } .load
          (0x3000 + BitVec.ofNat 64 (0 + k)) = .ok (0x3000 + k) 0 none) &&
        decide (tBlock[k]? = some (memGet (tCoded (tCodedReader [] 0) [⟨0x3002, 0xC0⟩, ⟨0x3011, 0x1A⟩]).mem (0x3000 + k))) &&
        decide (readBlock (Vector.replicate 4 tTable) (tBlock.take k) = .more)) = true := by decide +kernel
    have := List.all_eq_true.mp g k (List.mem_range.mpr h)
    simp only [Bool.and_eq_true, decide_eq_true_eq] at this
    exact ⟨⟨Nat.mod_one _, this.1.1.1, 0, none, this.1.1.2, by decide, rfl⟩, this.1.2, this.2⟩
-- 03 R68, 11 R272: the first code of the block goes to the queue as BF16, 1.0, and 31 codes are kept
theorem test_codedElement : (match exec .streamReadElement (tFire (tCoded (tCodedReader [] 0) [⟨0x3002, 0xC0⟩, ⟨0x3011, 0x1A⟩]) (.streamReadElement 0 1)) with
      | .next t => (engineAt t 0 1).map fun y => (y.partBits.toNat, y.bytePos, y.pending.take 3)
      | _ => none) = some (0x3F80, 22, [0x40, 0x30, 0xBC]) := by decide +kernel
theorem test_meets_portElement : (∀ n ∈ [0, 3], EngineGoes (tStreams (tPortReader n) (tPorts [])) 0 1 (tPortReader n) ∧
      EngineReaches (tStreams (tPortReader n) (tPorts [])) 0 1 (tPortReader n) .load 4 (elementAt (tPortReader n).desc n) (0x3000 + 4 * n) ∧
      EngineReaches (tStreams (tPortReader n) (tPorts [])) 0 1 (tPortReader n) .store 8 0x5000 0x5000) ∧
    (tPorts []).home 0 = some (tRegion 0 1 false) ∧ (tRegion 0 1 false).cfg.duplex = false ∧ (tPorts []).pe 0 = some (tOut []) ∧
    (tOut []).cfg.inKind 0 = .port ∧ ((tOut []).inq 0).length < 4 ∧ (tPortReader 0).bind = .fin 0 0 false ∧ (tPortReader 0).desc.esize < 3 ∧
    (tPortReader 0).count + 1 ≠ 4 ∧ (tPortReader 3).count + 1 = 4 ∧ (tPortReader 3).partElems = 0 ∧ (tPortReader 3).desc.sbar ≠ 0 :=
  ⟨fun n h => by
     have hn : n = 0 ∨ n = 3 := by simpa using h
     rcases hn with rfl | rfl <;> exact ⟨goes_of (by decide +kernel), engine_of (by decide +kernel), engine_of (by decide +kernel)⟩,
   by decide +kernel⟩
def tWide (half : Option (BitVec 32)) : EngineState := { tPortReader 0 with desc := { tDesc with base := 0x3000, esize := 3, istr := 8 }, half := half }
theorem test_meets_wideElement : (∀ h ∈ [none, some (7 : BitVec 32)], EngineGoes (tStreams (tWide h) (tPorts [])) 0 1 (tWide h)) ∧
    EngineReaches (tStreams (tWide none) (tPorts [])) 0 1 (tWide none) .load 8 (elementAt (tWide none).desc 0) 0x3000 ∧ (tWide none).desc.esize = 3 ∧
    (tWide none).desc.enc = 0 :=
  ⟨fun h m => by
     have hm : h = none ∨ h = some 7 := by simpa using m
     rcases hm with rfl | rfl <;> exact goes_of (by decide +kernel),
   engine_of (by decide +kernel), rfl, rfl⟩
/-- A stream whose first element is misaligned, or whose page is not mapped. -/
def tAstray (x : EngineState) : State := { tState tMappedHart tPages with tiles := [(0, { Tile.reset with h0 := tMappedHart, engines := (Vector.replicate 4 none).set 1 (some x) })] }
def tCrooked : EngineState := { tQueueReader with ctx := 1, root := some (0x40000, 1), desc := { tDesc with base := 0x3001, esize := 2 } }
def tUnmapped : EngineState := { tCrooked with desc := { tDesc with base := 0x20000, esize := 2 } }
theorem test_meets_elementFault : EngineGoes (tAstray tCrooked) 0 1 tCrooked ∧ (elementAt tCrooked.desc 0).toNat % 4 ≠ 0 ∧
    EngineGoes (tAstray tUnmapped) 0 1 tUnmapped ∧ (elementAt tUnmapped.desc 0).toNat % 4 = 0 ∧ tCrooked.desc.sbar = 0 ∧
    translate (tAstray tUnmapped) { level := .u, table := some (0x40000, 1), part := partByNum (tAstray tUnmapped) 0, who := .engine 0 1 } .load 0x20000 =
      .trap (trapOf AccKind.load.pageFault 0x20000) :=
  ⟨goes_of (by decide +kernel), by decide +kernel, goes_of (by decide +kernel), by decide +kernel, rfl, by decide +kernel⟩
-- a stream to a page of type 3
def tDeviceReader : EngineState := { tCrooked with desc := { tDesc with base := 0x3000, esize := 2 } }
def tDeviceStream : State := { tAstray tDeviceReader with mem := tHostPages.take 10 ++ [⟨0x43006, 0x08⟩, ⟨0x43007, 0x03⟩] }
theorem test_meets_elementDevice : EngineGoes tDeviceStream 0 1 tDeviceReader ∧ (elementAt tDeviceReader.desc 0).toNat % 4 = 0 ∧ tDeviceStream.tlb = [] ∧
    (match translate tDeviceStream { level := .u, table := some (0x40000, 1), part := partByNum tDeviceStream 0, who := .engine 0 1 } .load 0x3000 with
      | .ok _ ty _ => ty | _ => 0) = 3 := ⟨goes_of (by decide +kernel), by decide +kernel, rfl, by decide +kernel⟩
theorem test_meets_writeElement : EngineGoes (tStreams (tPortWriter 0) (tPorts [.data 7 0])) 0 1 (tPortWriter 0) ∧
    EngineReaches (tStreams (tPortWriter 0) (tPorts [.data 7 0])) 0 1 (tPortWriter 0) .store 4 (elementAt (tPortWriter 0).desc 0) 0x3000 ∧
    (tPorts [.data 7 0]).pe 0 = some (tOut [.data 7 0]) ∧ (tOut []).cfg.outKind 0 = .port ∧ (tOut [.data 7 0]).outq 0 = .data 7 0 :: [] ∧
    (tOut [.drain]).outq 0 = .drain :: [] ∧ (tPortWriter 0).bind = .fout 0 0 false ∧ (tPortWriter 0).wr = true ∧
    EngineGoes (tStreams { tWide (some 5) with wr := true, bind := .fout 0 0 false } (tPorts [.data 7 0])) 0 1 { tWide (some 5) with wr := true, bind := .fout 0 0 false } ∧
    EngineReaches (tStreams { tWide (some 5) with wr := true } (tPorts [.data 7 0])) 0 1 { tWide (some 5) with wr := true } .store 8 (elementAt (tWide none).desc 0) 0x3000 ∧
    ({ tPortWriter 0 with desc := { tDesc with base := 0x3000, esize := 2, sbar := 0 } }).desc.sbar = 0 ∧
    engineAt (tStreams { tPortWriter 4 with done := true, discarding := true } (tPorts [.data 7 0])) 0 1 = some { tPortWriter 4 with done := true, discarding := true } :=
  ⟨goes_of (by decide +kernel), engine_of (by decide +kernel), by decide +kernel, by decide +kernel, by decide +kernel, by decide +kernel, rfl, rfl,
   goes_of (by decide +kernel), engine_of (by decide +kernel), rfl, by decide +kernel⟩
theorem test_meets_reservations : engineAt (tClosing { tReader with registering := [0x60] } [tResv]) 0 1 = some { tReader with registering := [0x60] } ∧
    (tClosing tReader [tResv]).dir = [] ∧ 0x60 ∈ ({ tReader with registering := [0x60] }).registering ∧ 0x60 ∉ tReader.registering ∧ tResv.cut = false ∧
    (tClosing tReader [{ tResv with cut := true }]).resvs = [{ tResv with cut := true }] ∧ ({ tReader with phase := .closing }).phase = .closing ∧
    tReader.phase ≠ .closing ∧ ({ tClosing { tReader with phase := .closing } [tResv] with held := [{ tile := 0, e := 1, hart := some ⟨0, false⟩, action := .write [⟨0x3000, 7⟩], returns := false, fill := none }] }).held =
      [{ tile := 0, e := 1, hart := some ⟨0, false⟩, action := .write [⟨0x3000, 7⟩], returns := false, fill := none }] := by decide +kernel

theorem test_meets_reservationUpset : (let u : State := { tU with resvs := [{ tResv with lines := [64] }] }
    u.resvs = [{ tResv with lines := [64] }] ∧ 64 ∈ ({ tResv with lines := [64] }).lines) := by decide +kernel
-- a home with six reservations on the line; a held sub-batch that is sent again before its reservation is freed
theorem test_meets_registrations : (∀ i, (getHart (tClosing { tReader with registering := [0x60] } [tResv]) i).wcb = [] ∧
      (getHart (tClosing { tReader with registering := [0x60] } [tResv]) i).sentLines = [] ∧ (getHart (tClosing { tReader with registering := [0x60] } [tResv]) i).vq = []) ∧
    (tClosing { tReader with registering := [0x60] } [tResv]).hostWrites = [] ∧ (tClosing { tReader with registering := [0x60] } [tResv]).waiting = [] ∧
    (let u : State := { tClosing { tReader with registering := [0x60] } [tResv] with dir := [(0x60, tShared ((List.range 6).map fun i => .resv (i + 1) 1))] }
     (dirAt u 0x60).ptrs.length = 6 ∧ (∀ p ∈ (dirAt u 0x60).ptrs, p.isCopy = false) ∧ u.held = []) ∧
    (let z : Held := { tile := 0, e := 1, hart := none, action := .fill, returns := false, fill := none, va := 0, event := some (.subBatchArrival (tSub .arrive 0x2000)) }
     z.event = some (.subBatchArrival (tSub .arrive 0x2000)) ∧ ({ tResv with freeing := true }).freeing = true ∧
     (tClosing tReader [{ tResv with freeing := true }]).bad = [] ∧ tReader.phase ≠ .closing) :=
  ⟨fun i => by rcases harts_of (s := tClosing { tReader with registering := [0x60] } [tResv]) rfl i with h | h | h <;> rw [h] <;> decide +kernel,
   rfl, rfl, by decide +kernel, by decide +kernel⟩

-- Weight-driven mode: the hart at the block at 0x2000, its payload at 0x2040 (12 R281)

def tHeader (op fmt count next route crc : Nat) (sp : Bool) (len : Nat) : BitVec 512 :=
  BitVec.ofNat 512 (op + (if sp then 2 ^ 8 else 0) + fmt * 2 ^ 16 + count * 2 ^ 32 + next * 2 ^ 64 + len * 2 ^ 128 + crc * 2 ^ 160 + route * 2 ^ 192)
def tCells (a : Nat) (l : List Byte) : List Host.Cell := (l.mapIdx fun i b => (⟨a + i, b⟩ : Host.Cell)).filter fun c => c.2 ≠ 0
def tDriven (h : Hart) : Hart := { h with run := .weight, wbaRes := true, wbaAddr := 0x80 }
def tWeightTile (h : Hart) (f : Fabric) (x : AccTile) : Tile :=
  { Tile.reset with h0 := tDriven h, seqr := some false, fabric := f, acc := (Vector.replicate 4 AccTile.free).set 0 x }
def tWeight (h : Hart) (l : List Byte) : State := { tState h (tCells 0x2040 l) with tiles := [(0, tWeightTile h Fabric.empty AccTile.free)] }
/-- Decides what AtBlock says of a payload of at most 64 bytes. -/
def blockAt (s : State) (op fmt count next route crc : Nat) (sp : Bool) (l : List Byte) : Bool :=
  decide ((s.hart.run = .weight ∧ s.tile.seqr = some s.cur.h1 ∧ s.hart.vq = []) ∧
    (s.hart.wbesDone = false ∧ s.hart.wbesArr = false ∧ s.hart.wbesTkn = false ∧ s.hart.wbesIdx = 0 ∧ s.hart.wbBlock = none) ∧
    (tHeader op fmt count next route crc sp l.length).toNat =
      op + (if sp then 2 ^ 8 else 0) + fmt * 2 ^ 16 + count * 2 ^ 32 + next * 2 ^ 64 + l.length * 2 ^ 128 + crc * 2 ^ 160 + route * 2 ^ 192 ∧
    (op < 256 ∧ fmt < 256 ∧ count < 2 ^ 32 ∧ next < 2 ^ 64 ∧ l.length ≤ 65536 ∧ crc < 2 ^ 32 ∧ route < 2 ^ 32) ∧ l.length ≤ 64 ∧
    translate s (weightSpace s) .weight (BitVec.ofNat 64 (64 * s.hart.wbaAddr.toNat + 64)) = .ok (64 * s.hart.wbaAddr.toNat + 64) 0 none ∧
    memBytes s.mem l.length (64 * s.hart.wbaAddr.toNat + 64) = l)
theorem blockAt_iff {s : State} {op fmt count next route crc : Nat} {sp : Bool} {l : List Byte} (h : blockAt s op fmt count next route crc sp l = true) :
    AtBlock s (tHeader op fmt count next route crc sp l.length) op fmt count next route crc sp l := by
  obtain ⟨a, b, c, d, e, f, g⟩ := of_decide_eq_true h
  refine ⟨a, b, c, d, fun k hk => ?_⟩
  have : k = 0 := by omega
  subst this
  refine ⟨_, 0, none, f, by decide, rfl, ?_⟩
  have m : min 64 (l.length - 64 * 0) = l.length := by omega
  rw [m, g]
  simp [List.take_of_length_le e]
def calmAt (s : State) : Bool := decide (s.relaxed = false ∧ s.resvs = [] ∧ s.dir = [] ∧ s.bad = [] ∧ s.held = [] ∧ s.hart.answers = [] ∧
  s.hart.wcb = [] ∧ s.hart.heldWrites = 0 ∧ (s.hostWrites = [] ∧ s.hart.sentLines = []) ∧ s.refused = [] ∧ Memory.wf s.mem = true)
def blockReadyAt (s : State) (op fmt count next route : Nat) (l : List Byte) : Bool :=
  calmAt s && blockAt s op fmt count next route (crc32c l).toNat false l && decide (next % 64 = 0 ∧ next < 2 ^ 48)
theorem block_of {s : State} {op fmt count next route : Nat} {l : List Byte} (h : blockReadyAt s op fmt count next route l = true) :
    BlockReady s (tHeader op fmt count next route (crc32c l).toNat false l.length) op fmt count next route l := by
  unfold blockReadyAt at h
  rw [Bool.and_eq_true, Bool.and_eq_true, decide_eq_true_eq] at h
  exact ⟨calm_of (of_decide_eq_true h.1.1), blockAt_iff h.1.2, h.2⟩

-- WeightChains: WDRIVE, then blocks of each kind, their payload an address, aligned and not, above 2^48
def tDriver : Hart := tMemHart 0x04 32 0x1F
theorem test_meets_wdrive : (∀ h ∈ [tDriver, { tDriver with q := tHart.q.set 0 [5] }], h.vq = [] ∧ h.vownV = true ∧ h.vownId = h.ctxid ∧ h.ill = false ∧ vmfKnown h.vmf = true) ∧
    (∃ q ∈ ({ tDriver with q := tHart.q.set 0 [5] }).q.toList, q ≠ []) ∧ (∀ q ∈ tDriver.q.toList, q = []) ∧ Settled (tState tDriver []) ∧
    (tState tDriver []).tile.seqr = none ∧ engineAt (tState tDriver []) 0 0 = none ∧ (tWeight tDriver []).tile.seqr ≠ none ∧
    (let s : State := { State.reset with tiles := [(0, { Tile.reset with h0 := tDriver, engines := (Vector.replicate 4 none).set 0 (some tReader) })] }; engineAt s 0 0 = some tReader) ∧
    tDriver.wbaRes = false ∧ (tDriver.rg 1 + (0 : BitVec 32).signExtend 64).toNat % 64 = 0 ∧ (tDriver.rg 1 + (0 : BitVec 32).signExtend 64).toNat < 2 ^ 48 ∧
    (tDriver.rg 1 + (4 : BitVec 32).signExtend 64).toNat % 64 ≠ 0 ∧ 2 ^ 48 ≤ (tDriver.rg 4 + (0 : BitVec 32).signExtend 64).toNat :=
  ⟨by decide +kernel, ⟨[5], by decide +kernel⟩, by decide +kernel, ⟨rfl, by decide +kernel⟩, by decide +kernel⟩
def tPointer (low high : Byte) : List Byte := [low, 0x40, 0, 0, 0, 0, high, 0]
theorem test_meets_blocks :
    BlockReady (tWeight tDriver [1, 2]) (tHeader 10 0x00 2 0x4000 0 (crc32c [1, 2]).toNat false 2) 10 0x00 2 0x4000 0 [1, 2] ∧
    (∀ next ∈ [0, 0x4000], BlockReady (tWeight tDriver []) (tHeader 10 0xFF 0 next 0 (crc32c []).toNat false 0) 10 0xFF 0 next 0 []) ∧
    BlockReady (tWeight tDriver []) (tHeader 11 0xFF 0 0 0 (crc32c []).toNat false 0) 11 0xFF 0 0 0 [] ∧
    (∀ p ∈ [tPointer 0 0, tPointer 1 0, tPointer 0 1], BlockReady (tWeight tDriver p) (tHeader 6 7 1 0x4000 (5 + 16 * 2) (crc32c p).toNat false p.length) 6 7 1 0x4000 (5 + 16 * 2) p ∧
      BlockReady (tWeight { tDriver with wls := 4 } p) (tHeader 7 7 1 0x4000 0 (crc32c p).toNat false p.length) 7 7 1 0x4000 0 p ∧
      BlockReady (tWeight { tDriver with wls := 3 } p) (tHeader 7 7 1 0x4000 0 (crc32c p).toNat false p.length) 7 7 1 0x4000 0 p) ∧
    (∀ n ∈ [0, 1], BlockReady (tWeight { tDriver with wls := BitVec.ofNat 3 n } []) (tHeader 8 0xFF 0 0 0 (crc32c []).toNat false 0) 8 0xFF 0 0 0 []) ∧
    bytesNat (tPointer 0 0) % 64 = 0 ∧ bytesNat (tPointer 0 0) < 2 ^ 48 ∧ bytesNat (tPointer 1 0) % 64 ≠ 0 ∧ 2 ^ 48 ≤ bytesNat (tPointer 0 1) ∧
    (tPointer 0 0).length = 8 ∧ tDriver.rg 2 ≠ 0 ∧ tDriver.rg 0 = 0 ∧ [(1 : Byte), 2].length = (2 * elemWidth (elemOf 0x00) + 7) / 8 :=
  ⟨block_of (by decide +kernel),
   fun next h => by
     have hn : next = 0 ∨ next = 0x4000 := by simpa using h
     rcases hn with rfl | rfl <;> exact block_of (by decide +kernel),
   block_of (by decide +kernel),
   fun p h => by
     have hp : p = tPointer 0 0 ∨ p = tPointer 1 0 ∨ p = tPointer 0 1 := by simpa using h
     rcases hp with rfl | rfl | rfl <;> exact ⟨block_of (by decide +kernel), block_of (by decide +kernel), block_of (by decide +kernel)⟩,
   fun n h => by
     have hn : n = 0 ∨ n = 1 := by simpa using h
     rcases hn with rfl | rfl <;> exact block_of (by decide +kernel),
   by decide +kernel⟩
-- a block with an unknown format, a wrong length, a bad successor, a ROUTE, a wrong CRC; a safe point at U with a pre-emption pending, and without
theorem test_meets_badBlocks : Calm (tWeight tDriver [1, 2]) ∧
    ([(0x14, 0, 0, 0, false), (0x00, 0x4001, 0, 0, false), (0x00, 2 ^ 48, 0, 0, false), (0x00, 0x4000, 1, 0, false), (0x00, 0x4000, 0, 1, false), (0x00, 0x4000, 0, (crc32c [1, 2]).toNat, true)].all
      fun (fmt, next, route, crc, sp) => blockAt (tWeight tDriver [1, 2]) 10 fmt 2 next route crc sp [1, 2]) = true ∧
    AtBlock (tWeight tDriver [1, 2]) (tHeader 10 0x01 2 0x4000 0 0 false ([1, 2] : List Byte).length) 10 0x01 2 0x4000 0 0 false [1, 2] ∧ elemWidth (elemOf 0x01) = 8 ∧
    (1 : Nat) ≠ (crc32c [1, 2]).toNat ∧ ([1, 2] : List Byte).length ≠ (2 * elemWidth (elemOf 0x04) + 7) / 8 ∧
    (tWeight tDriver [1, 2]).hart.wbResume = false ∧ (tWeight tDriver [1, 2]).hart.sip.getLsbD 0 = false ∧ (tWeight tDriver [1, 2]).hart.level = .u ∧
    (tWeight { tDriver with sip := 1 } [1, 2]).hart.sip.getLsbD 0 = true ∧ (tWeight { tDriver with sip := 1 } [1, 2]).tile.fabric.owner = none ∧
    blockAt (tWeight { tDriver with sip := 1 } [1, 2]) 10 0x00 2 0x4000 0 (crc32c [1, 2]).toNat true [1, 2] = true :=
  ⟨calm_of (by decide +kernel), by decide +kernel, blockAt_iff (l := [1, 2]) (by decide +kernel), by decide +kernel⟩

-- WeightBlocks: groups of FP32 and of I32 with VL 4, of four elements and of one; a port; an accumulator; a barrier
theorem tWeight_shaped : (tWeight (tMemHart 0x09 32 0x1F) []).hart.shaped ∧ (tWeight (tMemHart 0x04 32 0x1F) []).hart.shaped :=
  ⟨⟨by decide +kernel, fun _ => ⟨by decide +kernel, by decide +kernel, 8, by decide, by decide +kernel⟩⟩,
   ⟨by decide +kernel, fun _ => ⟨by decide +kernel, by decide +kernel, 8, by decide, by decide +kernel⟩⟩⟩
def tFours : List Byte := [0, 0, 0x80, 0x3F, 0, 0, 0, 0x40, 0, 0, 0, 0, 0, 0, 0, 0]
theorem test_meets_groups : ([0x09, 0x04].all fun f => let s (l : List Byte) := tWeight (tMemHart (BitVec.ofNat 8 f) 32 0x1F) l
      [2, 3].all fun op => blockReadyAt (s tFours) op f 4 0x4000 (2 + 16 * 1) tFours && blockReadyAt (s (tFours.take 4)) op f 1 0x4000 (2 + 16 * 1) (tFours.take 4)) = true ∧
    ([[0, 0, 0, 0], [1, 0, 0, 0], [2, 0, 0, 0], [3, 0, 0, 0], ([4, 0, 0, 0] : List Byte)].all fun l =>
      blockReadyAt (tWeight (tMemHart 0x09 32 0x1F) l) 4 5 1 0x4000 (2 + 16 * 1) l && blockReadyAt (tWeight (tMemHart 0x04 32 0x1F) l) 4 5 1 0x4000 (2 + 16 * 1) l) = true ∧
    elemForm (vtFmt 0x09) = some fp32Form ∧ elemForm (vtFmt 0x04) = none ∧ vtSc 0x09 = false ∧ 1 % vtG 0x09 = 0 ∧ (tMemHart 0x09 32 0x1F).vl.toNat = 4 ∧
    (tFours.length = (4 * elemWidth (elemOf 0x09) + 7) / 8) ∧ (tMemHart 0x09 32 0x1F).ill = false := by decide +kernel
/-- The mode with a fabric, and with accumulator 0. -/
def tWeightWith (h : Hart) (f : Fabric) (x : AccTile) (l : List Byte) : State :=
  { tState h (tCells 0x2040 l) with tiles := [(0, tWeightTile h f x)] }
def tPortIn (l : List Token) : Fabric := tFabric [tRegion 0 1 false] [(0, { tLone [] with ins := (Vector.replicate 4 []).set 0 l })]
theorem test_meets_portBlock : ([[], [.data 1 0, .data 2 0, .data 3 0, .data 4 0]].all fun q =>
      blockReadyAt (tWeightWith tDriver (tPortIn q) AccTile.free [1, 2]) 2 0x00 2 0x4000 (3 + 16 * 0 + 1024 * 0) [1, 2]) = true ∧
    (tPortIn []).owner = some (false, (tWeight tDriver []).hart.ctxid) ∧ (tPortIn []).home 0 = some (tRegion 0 1 false) ∧ (tRegion 0 1 false).cfg.duplex = false ∧
    (∃ p, (tPortIn []).pe 0 = some p ∧ p.cfg.inKind 0 = .port ∧ (p.inq 0).length + 2 ≤ 4) ∧
    (∃ p, (tPortIn [.data 1 0, .data 2 0, .data 3 0, .data 4 0]).pe 0 = some p ∧ 4 ≤ (p.inq 0).length) ∧
    (∀ e ∈ (tWeight tDriver []).tile.engines.toList, e = none) :=
  ⟨by decide +kernel, by decide +kernel, by decide +kernel, rfl, ⟨tLone [], by decide +kernel⟩,
   ⟨{ tLone [] with ins := (Vector.replicate 4 []).set 0 [.data 1 0, .data 2 0, .data 3 0, .data 4 0] }, by decide +kernel⟩, by decide +kernel⟩
-- a block under way: one token delivered, its header and payload kept or not
theorem under_of {s : State} {op fmt count next route : Nat} {l : List Byte}
    (h : (blockReadyAt (s.setHart { s.hart with wbesArr := false, wbesIdx := 0, wbBlock := none }) op fmt count next route l &&
      decide (s.hart.wbBlock = none ∨ s.hart = s.hart.waitsAtBlock s (tHeader op fmt count next route (crc32c l).toNat false l.length) l)) = true) :
    BlockUnderWay s (tHeader op fmt count next route (crc32c l).toNat false l.length) op fmt count next route l := by
  rw [Bool.and_eq_true, decide_eq_true_eq] at h
  exact ⟨block_of h.1, h.2⟩
def tHalfDone (idx : BitVec 32) (q : List Token) : State := tWeightWith { tDriver with wbesIdx := idx } (tPortIn q) AccTile.free [1, 2]
def tWaits (s : State) (op fmt count next route : Nat) (l : List Byte) : State :=
  s.setHart (s.hart.waitsAtBlock s (tHeader op fmt count next route (crc32c l).toNat false l.length) l)
theorem test_meets_underWay : (∀ s ∈ [tHalfDone 1 [.data 9 0], tWaits (tHalfDone 1 [.data 9 0]) 2 0 2 0x4000 3 [1, 2]],
      BlockUnderWay s (tHeader 2 0 2 0x4000 3 (crc32c [1, 2]).toNat false ([1, 2] : List Byte).length) 2 0 2 0x4000 3 [1, 2] ∧ s.hart.wbesArr = false ∧ s.hart.wbesIdx.toNat < 2) ∧
    (∃ p, (tPortIn [.data 9 0]).pe 0 = some p ∧ (p.inq 0).length + (2 - 1) ≤ 4) :=
  ⟨fun s h => by
     have hs : s = tHalfDone 1 [.data 9 0] ∨ s = tWaits (tHalfDone 1 [.data 9 0]) 2 0 2 0x4000 3 [1, 2] := by simpa using h
     rcases hs with rfl | rfl <;> exact ⟨under_of (l := [1, 2]) (by decide +kernel), by decide +kernel, by decide +kernel⟩,
   ⟨{ tLone [] with ins := (Vector.replicate 4 []).set 0 [.data 9 0] }, by decide +kernel⟩⟩
-- 12 R289, R286: the rest of the tokens, the last with tag 1
theorem test_underWay : (match exec (.wbAdd (tHeader 2 0 2 0x4000 3 (crc32c [1, 2]).toNat false 2)) (tWaits (tHalfDone 1 [.data 9 0]) 2 0 2 0x4000 3 [1, 2]) with
      | .next t => ((t.tile.fabric.pe 0).map fun p => p.inq 0, t.hart.wbBlock)
      | _ => (none, none)) = (some [.data 9 0, .data 2 1], none) := by decide +kernel
/-- Accumulator 0 of 16 by 1 elements, of BF16 or I8 operands; the payload holds one row of four. -/
theorem test_meets_mmaBlock : ([(0x0A, 16, false), (0x00, 8, true)].all fun (f, w, int) =>
      let a : AccTile := { tAcc with n := 1, fmt := BitVec.ofNat 4 f, int32 := int }
      let l : List Byte := tFours.take (w / 2)
      let s := tWeightWith (tMemHart (BitVec.ofNat 8 f) w 0x1F) Fabric.empty a l
      blockReadyAt s 1 f 4 0x4000 (1 + 16 * 0) l && decide (l.length = (4 * w + 7) / 8 ∧ s.hart.ill = false ∧ vtSc s.hart.vtype = false ∧ accAt s 0 0 = a ∧
        a.owner = some false ∧ a.sc = false ∧ a.fmt.toNat = f ∧ f = (vtFmt s.hart.vtype).code ∧ 4 = a.n.toNat * s.hart.vl.toNat ∧ s.hart.vl.toNat ≤ 64 ∧
        a.m.toNat ≤ s.hart.vlmax.toNat / 64)) = true := by decide +kernel
theorem tWeightInt_shaped : (tWeightWith (tMemHart 0x00 8 0x1F) Fabric.empty tAcc []).hart.shaped ∧ (tWeightWith (tMemHart 0x0A 16 0x1F) Fabric.empty tAcc []).hart.shaped :=
  ⟨⟨by decide +kernel, fun _ => ⟨by decide +kernel, by decide +kernel, 8, by decide, by decide +kernel⟩⟩,
   ⟨by decide +kernel, fun _ => ⟨by decide +kernel, by decide +kernel, 8, by decide, by decide +kernel⟩⟩⟩
/-- Rows 64 bytes apart at 0x8000; the elements below VL 4 of each row. -/
def tDrainTo : List Byte := [0, 0x80, 0, 0, 0, 0, 0, 0, 64, 0, 0, 0, 0, 0, 0, 0]
def tDraining : State := tWeightWith tDriver Fabric.empty tAcc tDrainTo
theorem test_meets_drainBlock : BlockReady tDraining (tHeader 5 7 2 0x4000 (1 + 16 * 0) (crc32c tDrainTo).toNat false tDrainTo.length) 5 7 2 0x4000 (1 + 16 * 0) tDrainTo ∧
    tDrainTo.length = 16 ∧ (accAt tDraining 0 0).owner = some false ∧ tDraining.hart.vl.toNat ≤ (accAt tDraining 0 0).n.toNat ∧ vmfEnc tDraining.hart.vmf = 0x1F ∧
    vmfSmode tDraining.hart.vmf = 0 ∧ elemWidth ((storedType 0x1F .fp32).getD .fp32) = 32 ∧
    (∀ e, e < 1024 → Plain tDraining .store 4 (BitVec.ofNat 64 (rawElem 64 tDrainTo 0 + e / 64 * rawElem 64 tDrainTo 1 + e % 64 * 4)) (0x8000 + e / 64 * 64 + e % 64 * 4)) :=
  ⟨block_of (by decide +kernel), by decide +kernel, by decide +kernel, by decide +kernel, by decide +kernel, by decide +kernel, by decide +kernel,
   plainAll_iff (m := 1024) (va := fun e => BitVec.ofNat 64 (rawElem 64 tDrainTo 0 + e / 64 * rawElem 64 tDrainTo 1 + e % 64 * 4))
     (pa := fun e => 0x8000 + e / 64 * 64 + e % 64 * 4) (by decide +kernel)⟩
/-- A barrier at 0x8000 whose HOME is the local package, in phase 5, with failed arrivals, or dead. -/
def tSyncTo : List Byte := [0, 0x80, 0, 0, 0, 0, 0, 0]
def tSyncing (arr : Bool) (idx : BitVec 32) (last dead : Byte) : State :=
  { tState tDriver (tCells 0x2040 tSyncTo ++ tCells 0x800C [5, 0, 0, 0, last, 0, 0, 0, 0xFF, 0xFF, dead]) with
    tiles := [(0, { tWeightTile tDriver Fabric.empty AccTile.free with h0 := { tDriven tDriver with wbesArr := arr, wbesIdx := idx } })] }
theorem test_meets_syncBlock : BlockReady (tSyncing false 0 0 0) (tHeader 9 7 1 0x4000 0 (crc32c tSyncTo).toNat false tSyncTo.length) 9 7 1 0x4000 0 tSyncTo ∧
    ([(0, 0), (1, 0), (0, 1)].all fun (last, dead) => [(4 : BitVec 32), 5].all fun idx => let s := tSyncing true idx last dead
      blockReadyAt (s.setHart { s.hart with wbesArr := false, wbesIdx := 0 }) 9 7 1 0x4000 0 tSyncTo && decide (s.hart.wbesArr = true ∧ s.hart.wbesIdx = idx ∧
        memRead s.mem 4 0x800C = 5 ∧ memRead s.mem 4 0x8010 = last.toNat ∧ memRead s.mem 1 0x8016 = dead.toNat ∧ memRead s.mem 2 0x8014 = 0xFFFF) &&
      plainAll s .load 2 1 (fun _ => 0x8014) (fun _ => 0x8014) && plainAll s .load 4 2 (fun j => 0x800C + 4 * BitVec.ofNat 64 j) (fun j => 0x800C + 4 * j) &&
      plainAll s .load 1 1 (fun _ => 0x8016) (fun _ => 0x8016)) = true ∧
    Plain (tSyncing false 0 0 0) .store 128 0x8000 0x8000 ∧ Settled (tSyncing false 0 0 0) :=
  ⟨block_of (by decide +kernel), by decide +kernel, plain_of (by decide +kernel), ⟨rfl, by decide +kernel⟩⟩
-- waiting there with the block kept
theorem test_meets_syncWaits : ∀ s ∈ [tSyncing true 5 0 0, tWaits (tSyncing true 5 0 0) 9 7 1 0x4000 0 tSyncTo],
    BlockUnderWay s (tHeader 9 7 1 0x4000 0 (crc32c tSyncTo).toNat false tSyncTo.length) 9 7 1 0x4000 0 tSyncTo ∧ s.hart.wbesArr = true ∧ s.hart.wbesIdx = 5 := by
  intro s h
  have hs : s = tSyncing true 5 0 0 ∨ s = tWaits (tSyncing true 5 0 0) 9 7 1 0x4000 0 tSyncTo := by simpa using h
  rcases hs with rfl | rfl <;> exact ⟨under_of (by decide +kernel), by decide +kernel, by decide +kernel⟩
-- A block of KIND 4 for tile 1: no hart of it in the mode, one in the same context, a full mailbox, the poster told
def tPoster (reply : Option Bool) (seqr1 : Option Bool) (box : Option (Nat × BitVec 48)) : State :=
  { tState (tMemHart 0x09 32 0x1F) [] with
    tiles := [(0, { tWeightTile (tMemHart 0x09 32 0x1F) Fabric.empty AccTile.free with postReply := reply }),
              (1, { Tile.reset with h0 := { tMemHart 0x09 32 0x1F with run := .weight }, seqr := seqr1, mailbox := box })] }
def tZeros : List Byte := [0, 0, 0, 0]
theorem test_meets_post : ([tPoster none none none, tPoster none (some false) none, tPoster none (some false) (some (0, 0x2000)), tPoster (some true) none none,
      tPoster (some false) none none].all fun s => blockReadyAt s 4 5 1 0x4000 (4 + 16 * 1 + 2 * 2 ^ 16 + 1 * 2 ^ 20 + 0 * 2 ^ 26) tZeros) = true ∧
    ((tileAt (tPoster none (some false) none) 1).hart false).ctxid = (tPoster none none none).hart.ctxid ∧
    partNum (tPoster none none none) 1 = partNum (tPoster none none none) 0 ∧ tZeros.length = 4 ∧ bytesNat tZeros ≤ 3 ∧ 1 % vtG 0x09 = 0 := by decide +kernel
theorem test_meets_postWaits : BlockUnderWay (tWaits (tPoster (some true) none none) 4 5 1 0x4000 (4 + 16 * 1 + 2 * 2 ^ 16 + 1 * 2 ^ 20 + 0 * 2 ^ 26) tZeros)
      (tHeader 4 5 1 0x4000 (4 + 16 * 1 + 2 * 2 ^ 16 + 1 * 2 ^ 20 + 0 * 2 ^ 26) (crc32c tZeros).toNat false tZeros.length) 4 5 1 0x4000
      (4 + 16 * 1 + 2 * 2 ^ 16 + 1 * 2 ^ 20 + 0 * 2 ^ 26) tZeros ∧
    (tPoster (some true) none none).hart.wbesIdx = 0 ∧ ∀ k ∈ [(0 : Byte), 1, 2, 3], k.toNat ≤ 3 ∧ bytesNat [k, 0, 0, 0] = k.toNat :=
  ⟨under_of (by decide +kernel), by decide +kernel, by decide +kernel⟩
/-- Tile 1 with the block of the post at 0x2000 in memory, its payload zeros. -/
def tPostHeader : BitVec 512 := tHeader 4 5 1 0x4000 (4 + 16 * 1 + 2 * 2 ^ 16 + 1 * 2 ^ 20 + 0 * 2 ^ 26) (crc32c tZeros).toNat false 4
def tPosted : State := { tPoster none (some false) (some (0, 0x2000)) with
  mem := tCells 0x2000 ((List.range 64).map fun i => BitVec.ofNat 8 (tPostHeader.toNat / 256 ^ i)), cur := ⟨1, false⟩ }
theorem test_meets_postRuns : (tileAt tPosted 1).mailbox = some (0, 0x2000) ∧ (tileAt tPosted 1).seqr = some false ∧ (tileAt tPosted 0).seqr = some false ∧
    (getHart tPosted ⟨1, false⟩).ctxid = (getHart tPosted ⟨0, false⟩).ctxid ∧
    translate tPosted (hartSpace tPosted tPosted.cur) .weight ((0x2000 : BitVec 48).setWidth 64) = .ok 0x2000 0 none ∧
    bytesNat (memBytes tPosted.mem 64 0x2000) = tPostHeader.toNat ∧ Calm tPosted ∧ tPosted.hart.shaped ∧
    (∀ w : Hart, w = { tPosted.hart with run := .weight, vq := [], wbesDone := false, wbesArr := false, wbesTkn := false, wbesIdx := 0, wbBlock := none, wbaAddr := 0x80 } →
      BlockReady (tPosted.setHart w) tPostHeader 4 5 1 0x4000 (4 + 16 * 1 + 2 * 2 ^ 16 + 1 * 2 ^ 20 + 0 * 2 ^ 26) tZeros) :=
  ⟨by decide +kernel, by decide +kernel, by decide +kernel, by decide +kernel, by decide +kernel, by decide +kernel, calm_of (by decide +kernel),
   ⟨by decide +kernel, fun _ => ⟨by decide +kernel, by decide +kernel, 8, by decide, by decide +kernel⟩⟩,
   fun w e => by subst e; exact block_of (by decide +kernel)⟩

-- RegisterWriteEvents: at S and at U, with an element queued; a type with bit 63, one past the group limit, a good one; contexts with entries and without
def tSQueued : State := tState { tHart with level := .s, vq := [tQueued] } []
def tHalf1 : Validity := (5 : Validity) <<< 64 ||| ((tS.hart.val.get tS.hart.vvsel.toFin).setWidth 64).setWidth 128
def tHalf0 : Validity := 5 ||| (tS.hart.val.get tS.hart.vvsel.toFin >>> 64) <<< 64
theorem test_meets_registerWrites : Fires (tFire tS (.vlWrite 5)) tS (.vlWrite 5) ∧ tS.hart.vq = [] ∧ tS.hart.level = .s ∧ tU.hart.level = .u ∧
    tSQueued.hart.vq ≠ [] ∧ tSQueued.hart.level = .s ∧ tU.hart.vq = [] ∧
    tHalf1.setWidth 64 = (tS.hart.val.get tS.hart.vvsel.toFin).setWidth 64 ∧ tHalf1 >>> 64 = (5 : Word).setWidth 128 ∧
    tHalf0.setWidth 64 = (5 : Word) ∧ tHalf0 >>> 64 = tS.hart.val.get tS.hart.vvsel.toFin >>> 64 ∧
    (0x8000000000000000 : Word).getLsbD 63 = true ∧ (0x09 : Word).getLsbD 63 = false ∧ tS.ready = true ∧
    ([(0x100 : BitVec 12), 0x1FF].all fun n => decide (0x100 ≤ n.toNat ∧ n.toNat < 0x200)) = true ∧
    ([(0x200 : BitVec 12), 0xFFF].all fun n => decide (0x200 ≤ n.toNat)) = true := ⟨fires _ _, by decide +kernel⟩
def tCtxZero : State := { tCtx with mem := ⟨0x100000, 0x01⟩ :: ⟨0x100002, 0x04⟩ :: ⟨0x100008, 0x02⟩ :: tContext }
theorem test_meets_ctxidWrites : partOf tCtx 0 = some Partition.whole ∧ ctxEntry tCtx Partition.whole 0 = none ∧ ctxEntry tCtx Partition.whole 1 = some (0x40000, 1) ∧
    tCtx.hart.ctxid = 1 ∧ tCtx.hart.translated = true ∧ tCtx.hart.level = .s ∧ ctxEntry tCtxZero Partition.whole 0 = some (0x40000, 2) ∧
    tCtxZero.hart.ctxid ≠ 0 ∧ tCtxZero.hart.member = some ⟨0, 0⟩ := by decide +kernel

-- BoundaryEvents: interrupts at U, and at S with IE = 1; while the hart holds the sequencer; a user-level interrupt, the countdown, the distance, WFE
def tBoundary (h : Hart) : Prop := (h.run = .running ∨ h.run = .wfe ∨ h.run = .weight) ∧ h.vq = [] ∧ h.inProgress = none ∧ h.trapWait = none
def tSip (n : BitVec 3) : State := tState { tHart with sip := n } []
theorem test_meets_interrupts : tBoundary (getHart (tSip 6) ⟨0, false⟩) ∧ (getHart (tSip 6) ⟨0, false⟩).level = .u ∧ (tileAt (tSip 6) 0).seqr ≠ some false ∧
    (getHart (tSip 6) ⟨0, false⟩).sip.getLsbD 2 = true ∧ (getHart (tSip 2) ⟨0, false⟩).sip.getLsbD 2 = false ∧ (getHart (tSip 2) ⟨0, false⟩).sip.getLsbD 1 = true ∧
    (getHart tU ⟨0, false⟩).sip &&& 6 = 0 ∧ ¬tBoundary { tHart with run := .halted } ∧
    ({ tHart with level := .s, ie := true, tip := false }.ie = true) ∧ (tileAt (tWeight { tHart with sip := 4 } []) 0).seqr = some false ∧
    (∀ e ∈ (tWeight { tHart with sip := 4 } []).tiles, ∀ m, e.2.mailbox = some m → m.1 ≠ 0) ∧ Rising (tWeight { tHart with sip := 4 } []).tiles ∧
    (getHart (tWeight { tHart with sip := 4 } []) ⟨0, false⟩).sip.getLsbD 2 = true ∧ tBoundary (getHart (tWeight { tHart with sip := 4 } []) ⟨0, false⟩) :=
  ⟨by unfold tBoundary; decide +kernel, by decide +kernel, by decide +kernel, by decide +kernel, by decide +kernel, by decide +kernel, by decide +kernel,
   by unfold tBoundary; decide +kernel, rfl, by decide +kernel, fun e h m hm => (by cases h with | head => cases hm | tail _ h => cases h),
   List.pairwise_singleton _ _, by decide +kernel, by unfold tBoundary; decide +kernel⟩
def tUserHart : Hart := { tHart with ulivec := 0x3001, ulipend := 0xA, spdist := 5, spcnt := 6, scount := 1 }
theorem test_meets_boundary : tBoundary tUserHart ∧ tUserHart.run ≠ .weight ∧ tUserHart.level = .u ∧ tUserHart.ulivec.getLsbD 0 = true ∧ tUserHart.uliActive = false ∧
    tUserHart.ulipend.getLsbD 1 = true ∧ (∀ k, k < 1 → tUserHart.ulipend.getLsbD k = false) ∧ tHart.ulivec.getLsbD 0 = false ∧ tHart.ulipend = 0 ∧
    tUserHart.scount = 1 ∧ tHart.scount ≠ 1 ∧ tUserHart.spdist ≠ 0 ∧ tUserHart.spdist.toNat < tUserHart.spcnt.toNat ∧ tHart.spdist = 0 ∧
    { tUserHart with spcnt := 5 }.spcnt.toNat ≤ tUserHart.spdist.toNat ∧ ({ tHart with run := .wfe }).run = .wfe ∧ tHart.run ≠ .wfe := by
  unfold tBoundary; decide +kernel

-- ManagementCalls: one call, with its registers and a log; buffers inside the ranges and outside
def tCaller (g11 g12 : Word) : Hart := { tHart with level := .s, run := .mgmt, g := (tHart.g.set 11 g11).set 12 g12 }
def tCall (g11 g12 : Word) (mem : List Host.Cell) : State := { tState (tCaller g11 g12) (mem ++ tContext) with calls := [⟨0, false⟩] }
theorem called_of {u : State} {i : HartId} {p : Partition} {rest : List HartId}
    (h : (u.calls.filter fun j => decide ((getHart u j).run = .mgmt)) = i :: rest ∧ partOf u i.tile = some p) : Called u i p rest := ⟨h.1, h.2⟩
/-- Decides whether a buffer lies in memory and in one range, and whether a byte does. -/
def inside (p : Partition) (a n : Nat) : Bool :=
  decide (a + n ≤ 2 ^ 40 ∨ (0x8000000000000 ≤ a ∧ a + n ≤ 0x10000000000000)) && p.ranges.any fun r => decide (r.base ≤ a ∧ a + n ≤ r.base + r.len)
theorem inside_of {p : Partition} {a n : Nat} (h : inside p a n = true) : InPartition p a n := by
  simp only [inside, Bool.and_eq_true, decide_eq_true_eq, List.any_eq_true] at h
  obtain ⟨h, r, hr, h1, h2⟩ := h
  exact fun x hx hn => ⟨by omega, r, hr, by omega, by omega⟩
theorem outside_of {p : Partition} {a n : Nat} (x : Nat) (h : a ≤ x ∧ x < a + n ∧ inside p x 1 = false) : ¬InPartition p a n := by
  intro g
  obtain ⟨h1, r, hr, h2, h3⟩ := g x h.1 h.2.1
  have : inside p x 1 = true := by
    simp only [inside, Bool.and_eq_true, decide_eq_true_eq, List.any_eq_true]
    exact ⟨by omega, r, hr, by omega, by omega⟩
  rw [h.2.2] at this
  cases this
def tRecord (seq : Word) : LogRecord :=
  { seq := seq, kind := 8, sev := 0, part := 0, ctx := 1, tile := 0, addr := 0, data0 := 0, data1 := 0, data2 := 0 }
theorem test_meets_managementOrder : ([0, 10, 11, 0xFF, 0x100, 0x102, 0x103].all fun n => let u := tCall (BitVec.ofNat 64 n) 0 []
      decide ((getHart u ⟨0, false⟩).run = .mgmt ∧ (u.calls.filter fun j => decide ((getHart u j).run = .mgmt)) = ⟨0, false⟩ :: [] ∧ partOf u 0 = some Partition.whole)) = true ∧
    (Partition.whole.ranges[0x100 - 0x100]?.isSome = true) ∧ (∀ r ∈ Partition.whole.ranges.take 2, r.len < 2 ^ 48) ∧ (∃ r, Partition.whole.ranges[0x102 - 0x100]? = some r ∧ 2 ^ 48 ≤ r.len) ∧ 0x100 + Partition.whole.ranges.length ≤ 0x103 ∧
    (getHart tU ⟨0, false⟩).run ≠ .mgmt ∧ (let u := { tCall 0 0 [] with tiles := (tCall 0 0 []).tiles ++ [(1, { Tile.reset with h0 := tCaller 0 0 })], calls := [⟨1, false⟩, ⟨0, false⟩] }; ⟨0, false⟩ ∈ u.calls ∧
      (u.calls.filter fun j => decide ((getHart u j).run = .mgmt)).head? ≠ some ⟨0, false⟩) ∧
    (let u := { tCall 0 0 [] with calls := [⟨1, false⟩, ⟨0, false⟩] }; (u.calls.filter fun j => decide ((getHart u j).run = .mgmt)) = ⟨0, false⟩ :: []) := by
  decide +kernel
theorem test_meets_logread : Called (tCall 2 0x2000 []) ⟨0, false⟩ Partition.whole [] ∧ InPartition Partition.whole 0x2000 64 ∧ ¬InPartition Partition.whole (2 ^ 40) 64 ∧
    ¬InPartition Partition.whole (2 ^ 40 - 1) 64 ∧
    (∀ r ∈ [tRecord 1], r.part.toNat = Partition.whole.num → r.seq.toNat < 2) ∧ [tRecord 1, tRecord 2, tRecord 3] = [tRecord 1] ++ tRecord 2 :: [tRecord 3] ∧
    (tRecord 2).part.toNat = Partition.whole.num ∧ 2 ≤ (tRecord 2).seq.toNat ∧ PortCalm (tCall 2 0x2000 []) :=
  ⟨called_of (by decide +kernel), inside_of (by decide +kernel), outside_of (2 ^ 40) (by decide +kernel),
   outside_of (2 ^ 40) (by decide +kernel), by decide +kernel, rfl, by decide +kernel, by decide +kernel, ⟨rfl, rfl, rfl, by unfold State.memoryForm; decide +kernel⟩⟩
/-- A table of one peer and one barrier for context 1. -/
def tPeerCells (reserved : Byte) : List Host.Cell := [⟨0x2000, 1⟩, ⟨0x2002, 1⟩, ⟨0x2004, 1⟩, ⟨0x200A, 1⟩] ++ (if reserved = 0 then [] else [⟨0x2010, reserved⟩]) ++
  [⟨0x2040, 1⟩, ⟨0x2041, 1⟩, ⟨0x2042, 1⟩]
theorem test_meets_peerreg : InPartition Partition.whole 0x2000 64 ∧ InPartition Partition.whole 0x2000 (64 + 8 * 1 + 8 * 1) ∧
    ([(0 : Byte), 1].all fun b => decide (memRead (tCall 0x2000 0 (tPeerCells b)).mem 2 0x2002 = 1 ∧ memRead (tCall 0x2000 0 (tPeerCells b)).mem 2 0x2004 = 1 ∧
      memRead (tCall 0x2000 0 (tPeerCells b)).mem 2 0x2006 = 0 ∧ memRead (tCall 0x2000 0 (tPeerCells b)).mem 4 0x2044 = 0 ∧
      memRead (tCall 0x2000 0 (tPeerCells b)).mem 48 0x2010 = b.toNat ∧ ctxEntry (tCall 0x2000 0 (tPeerCells b)) Partition.whole 1 ≠ none)) = true ∧
    ¬InPartition Partition.whole (2 ^ 40 - 64) (64 + 8 * 1 + 8 * 1) ∧ (tCall 0x2000 0 (tPeerCells 0)).resvs = [] ∧ (tCall 0x2000 0 (tPeerCells 0)).dir = [] :=
  ⟨inside_of (by decide +kernel), inside_of (by decide +kernel), by decide +kernel, outside_of (2 ^ 40) (by decide +kernel), rfl, rfl⟩
theorem test_meets_attest : InPartition Partition.whole 0x2000 48 ∧ InPartition Partition.whole 0x3000 352 ∧ ¬InPartition Partition.whole (2 ^ 40 - 351) 352 ∧
    PortCalm (tCall 0x2000 0x3000 []) ∧ (∃ r, State.reset.applied = some r) ∧ (tCall 0x2000 0x3000 []).applied = State.reset.applied :=
  ⟨inside_of (by decide +kernel), inside_of (by decide +kernel), outside_of (2 ^ 40) (by decide +kernel),
   ⟨rfl, rfl, rfl, by unfold State.memoryForm; decide +kernel⟩, ⟨_, rfl⟩, rfl⟩
theorem test_meets_deconfRecord : Rising [(3, true, (0 : BitVec 8)), (7, false, 0x81)] ∧ (3, true, (0 : BitVec 8)) ∈ [(3, true, (0 : BitVec 8)), (7, false, 0x81)] ∧
    Rising [(0, 5), (71, 30)] ∧ (71, 30) ∈ [((0 : Nat), (5 : Nat)), (71, 30)] := by unfold Rising; decide

-- Queue pairs: queue pair 5 of port 0 in context 1, its queues and data in the first page, whose leaf entry is marked. Data below 0x40000 hold no
-- translation of their own access: every entry that the walk reads lies above.

def aboveAt (s : State) (va : Nat) : Nat → Nat → Nat → Bool
  | 0, _, _ => true
  | fuel + 1, lvl, table =>
    let a := table + 8 * fld va (levelShift lvl) 9
    decide (0x40000 ≤ a) && aboveAt s va fuel (lvl + 1) (fld (memRead s.mem 8 a) 12 40 * 4096)
theorem walk_mem {u : State} {m : List Host.Cell} (hb : u.bad = []) (hd : u.dir = []) (h : ∀ a, 0x40000 ≤ a → memRead m 8 a = memRead u.mem 8 a) (p : Option Partition)
    (va : Nat) : ∀ fuel lvl table, aboveAt u va fuel lvl table = true → walkFrom { u with mem := m } p va fuel lvl table = walkFrom u p va fuel lvl table := by
  intro fuel
  induction fuel with
  | zero => intros; rfl
  | succ n ih =>
    intro lvl table ha
    simp only [aboveAt, Bool.and_eq_true, decide_eq_true_eq] at ha
    simp only [walkFrom, badIn_calm u _ _ hd hb, badIn_calm { u with mem := m } _ _ hd hb, physRead, h _ ha.1, ih _ _ ha.2]
    rfl
theorem walkTrans_mem {u : State} {m : List Host.Cell} {sp : Space} {root : Word} {k : AccKind} {va : Nat} (hb : u.bad = []) (hd : u.dir = [])
    (hr : u.resvs = []) (h : ∀ a, 0x40000 ≤ a → memRead m 8 a = memRead u.mem 8 a) (ha : aboveAt u va 4 0 root.toNat = true) :
    walkTrans { u with mem := m } sp root k va = walkTrans u sp root k va := by
  have n : ∀ v : State, v.resvs = [] → walkRefusal v sp root va = none := fun v e => by simp [walkRefusal, e]
  simp only [walkTrans, n u hr, n { u with mem := m } hr, walk, walk_mem hb hd h _ _ 4 0 _ ha]
theorem translate_mem {u : State} {m : List Host.Cell} {sp : Space} {root : Word} {asid : BitVec 16} {k : AccKind} {va : Word} (hb : u.bad = []) (hd : u.dir = [])
    (ht : u.tlb = []) (hr : u.resvs = []) (h : ∀ a, 0x40000 ≤ a → memRead m 8 a = memRead u.mem 8 a) (hs : sp.table = some (root, asid))
    (ha : aboveAt u va.toNat 4 0 root.toNat = true) : translate { u with mem := m } sp k va = translate u sp k va := by
  have n : ∀ v : State, v.tlb = [] → cachedTrans v sp k asid va.toNat = none := fun v e => by simp [cachedTrans, tlbFind, e]
  have c : ∀ v : State, v.resvs = [] → ∀ x, markable v sp k x = x := fun v e x => by
    unfold markable
    split <;> simp [conflict, e]
  simp only [Sys2Proof.Machine.translate, hs, n u ht, n { u with mem := m } ht, c u hr, c { u with mem := m } hr, walkTrans_mem hb hd hr h ha]
theorem ctxSpace_mem {u : State} {m : List Host.Cell} {who : Accessor} {p : Partition} {c : BitVec 16} (hb : u.bad = []) (hd : u.dir = []) (hr : u.resvs = [])
    (h : ∀ a, 0x40000 ≤ a → memRead m 8 a = memRead u.mem 8 a) (hp : 0x40000 ≤ p.ctxBase) : ctxSpace { u with mem := m } who p c = ctxSpace u who p c := by
  have n : ∀ v : State, v.resvs = [] → ctxEntryFor v who p c = ctxEntry v p c := fun v e => by simp [ctxEntryFor, refuses, conflict, e]
  simp only [ctxSpace, n u hr, n { u with mem := m } hr, ctxEntry, badIn_calm u _ _ hd hb, badIn_calm { u with mem := m } _ _ hd hb, physRead,
    h _ (show 0x40000 ≤ p.ctxBase + 16 * c.toNat by omega), h _ (show 0x40000 ≤ p.ctxBase + 16 * c.toNat + 8 by omega)]
  rfl
theorem marked {u : State} {sp : Space} {k : AccKind} {va : Nat} (h : u.relaxed = false ∧ u.dir = [] ∧ u.resvs = []) :
    markLeaf u sp k va (some (0x43000, 0xFF, 16)) = u := by
  simp only [markLeaf, meetWalk_alone _ _ _ _ h.2.1 h.2.2]
  cases k <;> cases sp.table <;> simp [h.1, markBits]
/-- Decides whether each byte of a range is reached through the first page. -/
def rangeAt (u : State) (sp : Space) (k : AccKind) (va : Word) (pa n : Nat) : Bool :=
  (List.range n).all fun j => decide (translate u sp k (va + BitVec.ofNat 64 j) = .ok (pa + j) 0 (some (0x43000, 0xFF, 16))) &&
    aboveAt u (va + BitVec.ofNat 64 j).toNat 4 0 0x40000
/-- The address space of context 1 as an accessor reaches it. -/
def tSpace (who : Accessor) : Space := { level := .u, table := some (0x40000, 1), part := some Partition.whole, who := who, ctxLine := some (ctxLineOf Partition.whole 1) }
def tPortSpace : Space := tSpace .remote
def tRecordSpace : Space := { tSpace .agent with level := .s }
theorem range_of {u : State} {q : Qp} {k : AccKind} {va : Word} {pa n : Nat} (h : u.bad = [] ∧ (u.relaxed = false ∧ u.dir = [] ∧ u.resvs = []) ∧ u.tlb = [] ∧
    partByNum u q.part = some Partition.whole ∧ ctxSpace u .remote Partition.whole q.ctx = some tPortSpace ∧ pa + n ≤ 0x40000)
    (w : rangeAt u tPortSpace k va pa n = true) : QpRange u q k va pa n := by
  intro m _ hm j hj
  have hr : ∀ a, 0x40000 ≤ a → memRead m 8 a = memRead u.mem 8 a := fun a ha => memRead_congr _ _ _ _ fun c hc _ => hm c (.inr (by omega))
  have := List.all_eq_true.mp w j (List.mem_range.mpr hj)
  simp only [Bool.and_eq_true, decide_eq_true_eq] at this
  refine ⟨_, 0, _, ?_, (translate_mem h.1 h.2.1.2.1 h.2.2.1 h.2.1.2.2 hr rfl this.2).trans this.1, by decide, marked h.2.1⟩
  show (match partByNum u q.part with | some p => ctxSpace { u with mem := m } .remote p q.ctx | none => none) = _
  rw [h.2.2.2.1]
  exact (ctxSpace_mem h.1 h.2.1.2.1 h.2.1.2.2 hr (by decide)).trans h.2.2.2.2.1

def tQp : Qp := { state := .ready, part := 0, ctx := 1, mtu := 0, retry := 7, rnr := 7, dqpn := 0, spsn := 0, rpsn := 0, udpSrc := 0, tclass := 0, hopLim := 1, dmac := 0, timeout := 0, rdmax := 1, sip := 0, dip := 0, sq := 0x1000, sqSize := 4, rq := 0x3000, rqSize := 4, cq := 0x4000, cqSize := 4, windows := [{ base := 0x2000, len := 64, tag := 7, read := true, write := true }], sqProd := 1, rqProd := 1, cqCons := 0, sqTaken := 0, rqTaken := 0, completions := 0, sent := [], retries := 0, rnrRetries := 0, rnrWait := false, rate := 256 }
def tPort (q : Qp) (mem : List Host.Cell) : State := { tState tHart (mem ++ tPages ++ tContext) with qps := [(5, q)] }
theorem portCalm_of {u : State} (h : u.resvs = [] ∧ u.dir = [] ∧ u.bad = [] ∧ Memory.wf u.mem = true) : PortCalm u :=
  ⟨h.1, h.2.1, h.2.2.1, by unfold State.memoryForm; exact h.2.2.2⟩
theorem qpReaches_of {u : State} {q : Qp} {k : AccKind} {va : Word} {pa : Nat} {sp : Space} (h : q.space u = some sp ∧
    translate u sp k va = .ok pa 0 (some (0x43000, 0xFF, 16)) ∧ u.relaxed = false ∧ u.dir = [] ∧ u.resvs = []) : QpReaches u q k va pa :=
  ⟨sp, 0, _, h.1, h.2.1, by decide, marked h.2.2⟩

/-- The rules of a descriptor that name no size, and its sizes of 4 entries. -/
theorem descriptor_of {u : State} {p : Partition} {a : Nat} (h : a % 128 = 0 ∧ memRead u.mem 1 a ≤ 2 ∧ memRead u.mem 1 (a + 1) ≤ 2 ∧
      (memRead u.mem 1 (a + 2) ≤ 7 ∧ memRead u.mem 1 (a + 3) ≤ 7) ∧
      (p.firstQp ≤ memRead u.mem 2 (a + 4) ∧ memRead u.mem 2 (a + 4) < p.firstQp + p.qpCount) ∧ memRead u.mem 2 (a + 6) ≠ 0 ∧
      (memRead u.mem 1 (a + 11) = 0 ∧ memRead u.mem 1 (a + 15) = 0 ∧ memRead u.mem 1 (a + 19) = 0 ∧ memRead u.mem 1 (a + 22) % 4 = 0 ∧
        memRead u.mem 3 (a + 101) = 0 ∧ memRead u.mem 16 (a + 112) = 0) ∧
      memRead u.mem 1 (a + 23) ≠ 0 ∧ memRead u.mem 1 (a + 30) ≤ 20 ∧ (1 ≤ memRead u.mem 1 (a + 31) ∧ memRead u.mem 1 (a + 31) ≤ 16) ∧
      (memRead u.mem 1 a, BitVec.ofNat 128 (memRead u.mem 16 (a + 32))) ∈ p.ips ∧
      ((memRead u.mem 10 (a + 32) = 0 ∧ memRead u.mem 2 (a + 42) = 0xFFFF) ↔ (memRead u.mem 10 (a + 48) = 0 ∧ memRead u.mem 2 (a + 58) = 0xFFFF)) ∧
      (memRead u.mem 8 (a + 64) % 4096 = 0 ∧ memRead u.mem 8 (a + 80) % 4096 = 0 ∧ memRead u.mem 8 (a + 88) % 4096 = 0) ∧
      (memRead u.mem 1 (a + 100) ≤ 16 ∧ memRead u.mem 8 (a + 104) % 32 = 0 ∧ (memRead u.mem 1 (a + 100) = 0 → memRead u.mem 8 (a + 104) = 0)))
    (w : ∀ o ∈ [72, 76, 96], memRead u.mem 4 (a + o) = 2 ^ 2) : DescriptorOk u p a := by
  obtain ⟨h1, h2, h3, h4, h5, h6, h7, h8, h9, h10, h11, h12, h13, h14⟩ := h
  exact { aligned := h1, port := h2, mtu := h3, retries := h4, index := h5, ctx := h6, zero := h7, hops := h8, timeout := h9, reads := h10,
          address := h11, family := h12, bases := h13, sizes := fun o m => ⟨2, by decide, w o m⟩, windows := h14 }
/-- The fields of a send entry. -/
theorem sendIs_of {x op flags len : Nat} {laddr raddr wrid : Word} {rkey imm : BitVec 32} (h : x % 2 ^ 8 = op ∧ x / 2 ^ 8 % 2 ^ 8 = flags ∧
    x / 2 ^ 32 % 2 ^ 32 = len ∧ BitVec.ofNat 64 (x / 2 ^ 64) = laddr ∧ BitVec.ofNat 64 (x / 2 ^ 128) = raddr ∧ BitVec.ofNat 32 (x / 2 ^ 192) = rkey ∧
    BitVec.ofNat 32 (x / 2 ^ 224) = imm ∧ BitVec.ofNat 64 (x / 2 ^ 256) = wrid) : SendIs x op flags len laddr raddr rkey imm wrid := by
  obtain ⟨h1, h2, h3, h4, h5, h6, h7, h8⟩ := h
  exact { op := h1, flags := h2, len := h3, laddr := h4, raddr := h5, rkey := h6, imm := h7, wrid := h8 }
theorem sendOk_of {x op flags len : Nat} {raddr : Word} {rkey imm : BitVec 32} (h : op ≤ 4 ∧ flags < 8 ∧ len ≤ 2 ^ 31 ∧
    (x / 2 ^ 16 % 2 ^ 16 = 0 ∧ x / 2 ^ 320 = 0) ∧ (op < 2 → raddr = 0 ∧ rkey = 0) ∧ (op ≠ 1 → op ≠ 3 → imm = 0)) : SendOk x op flags len raddr rkey imm := by
  obtain ⟨known, flags, len, zero, remote, immediate⟩ := h
  exact ⟨known, flags, len, zero, remote, immediate⟩

-- QPOPEN: a good descriptor at 0x2000, without windows and with a table of one; one with a wrong port, a context without an entry
def tDescOf (port ctx windows : Byte) : List Host.Cell :=
  (if port = 0 then [] else [⟨0x2000, port⟩]) ++ [⟨0x2006, ctx⟩, ⟨0x2017, 1⟩, ⟨0x201F, 1⟩, ⟨0x202A, 0xFF⟩, ⟨0x202B, 0xFF⟩, ⟨0x202C, 10⟩, ⟨0x202F, 1⟩, ⟨0x203A, 0xFF⟩, ⟨0x203B, 0xFF⟩,
    ⟨0x2041, 0x10⟩, ⟨0x2048, 4⟩, ⟨0x204C, 4⟩, ⟨0x2051, 0x30⟩, ⟨0x2059, 0x40⟩, ⟨0x2060, 4⟩] ++ (if windows = 0 then [] else [⟨0x2064, windows⟩, ⟨0x2069, 0x50⟩])
def tOpen5 (port ctx windows : Byte) (mem : List Host.Cell) : State := { tCall 0x2000 0 (tDescOf port ctx windows ++ mem ++ tPages) with calls := [⟨0, false⟩] }
theorem test_meets_qpopen : InPartition Partition.whole 0x2000 128 ∧ Called (tOpen5 0 1 0 []) ⟨0, false⟩ Partition.whole [] ∧ DescriptorOk (tOpen5 0 1 0 []) Partition.whole 0x2000 ∧
    DescriptorOk (tOpen5 0 2 0 []) Partition.whole 0x2000 ∧ ¬DescriptorOk (tOpen5 3 1 0 []) Partition.whole 0x2000 ∧ ctxSpace (tOpen5 0 2 0 []) .agent Partition.whole 2 = none ∧
    ctxSpace (tOpen5 0 1 0 []) .agent Partition.whole 1 = some (tSpace .agent) ∧ alGet (tOpen5 0 1 0 []).qps 0 = none ∧ memRead (tOpen5 0 1 0 []).mem 1 0x2064 = 0 ∧
    DescriptorOk (tOpen5 0 1 1 []) Partition.whole 0x2000 ∧ memRead (tOpen5 0 1 1 []).mem 1 0x2064 = 1 ∧
(let u := tOpen5 0 1 1 [⟨0x5000, 1⟩]; agentLoad u .agent (tSpace .agent) 32 0x5000 = (some 1, u)) ∧
    (let u := tOpen5 0 1 1 [⟨0x501F, 1⟩]; agentLoad u .agent (tSpace .agent) 32 0x5000 = (some (2 ^ 248), u) ∧ 2 ^ 248 / 2 ^ 162 ≠ 0) ∧
    (agentLoad (tOpen5 0 1 1 []) .agent (tSpace .agent) 32 0x20000).1 = none ∧ (tOpen5 0 1 0 []).resvs = [] ∧ (tOpen5 0 1 0 []).dir = [] :=
  ⟨inside_of (by decide +kernel), called_of (by decide +kernel),
   descriptor_of (by decide +kernel) (by decide +kernel),
   descriptor_of (by decide +kernel) (by decide +kernel),
   fun h => absurd h.port (by decide +kernel), by decide +kernel, by decide +kernel, rfl, by decide +kernel,
   descriptor_of (by decide +kernel) (by decide +kernel),
   by decide +kernel⟩
-- a table of two windows: each read in a page that is marked; the second reserved; the first in a page that is not mapped
theorem test_meets_windowTables : ([(0 : Byte), 4].all fun b => let u := tOpen5 0 1 2 ([⟨0x5000, 1⟩, ⟨0x5020, 2⟩] ++ if b = 0 then [] else [⟨0x5034, b⟩])
      (List.range 2).all fun j => decide (memRead u.mem 1 0x2064 = 2 ∧ BitVec.ofNat 64 (memRead u.mem 8 0x2068) = (0x5000 : Word) ∧
        agentLoad u .agent (tSpace .agent) 32 (BitVec.ofNat 64 (memRead u.mem 8 0x2068) + BitVec.ofNat 64 (32 * j)) = (some (j + 1 + if j = 1 then b.toNat * 2 ^ 160 else 0), u)) &&
        decide ((j + 1 + if j = 1 then b.toNat * 2 ^ 160 else 0) / 2 ^ 162 = (if j = 1 ∧ b = 4 then 1 else 0))) = true ∧
    (0 : Nat) < 1 ∧ (∀ j, j < 0 → False) := ⟨by decide +kernel, by decide, fun _ h => absurd h (Nat.not_lt_zero _)⟩
theorem test_meets_qpclose : (0 : Nat) ≤ 2 ∧ Partition.whole.firstQp ≤ 5 ∧ 5 < Partition.whole.firstQp + Partition.whole.qpCount ∧
    Partition.whole.firstQp + Partition.whole.qpCount ≤ 4096 ∧ alGet (tPort tQp []).qps 6 = none ∧ Rising (tPort tQp []).qps ∧
    alGet (tPort { tQp with sqProd := 0, rqProd := 0 } []).qps 5 = some { tQp with sqProd := 0, rqProd := 0 } ∧ tQp.sent = [] := by unfold Rising; decide +kernel
-- doorbells: a count within the size, one past it, a word with bits 61:32; completions: a slot free, and none
theorem test_meets_doorbells : (tPort tQp []).ready = true ∧ alGet (tPort tQp []).qps 5 = some tQp ∧ tQp.state ≠ .reset ∧ ({ tQp with state := .error }).state = .error ∧
    (0x100000001 : Word).toNat / 2 ^ 32 % 2 ^ 30 ≠ 0 ∧ (0x4000000000000005 : Word).toNat / 2 ^ 32 % 2 ^ 30 = 0 ∧ ((5 : BitVec 32) - tQp.sqProd).toNat ≤ tQp.sqSize ∧
    tQp.sqSize < ((6 : BitVec 32) - tQp.sqProd).toNat ∧ ((4 : BitVec 32) - tQp.cqCons).toNat ≤ tQp.cqSize ∧ tQp.cqSize < ((5 : BitVec 32) - tQp.cqCons).toNat ∧
    { tPort tQp [] with ready := false }.ready = false := by decide +kernel
theorem tPort_calm : PortCalm (tPort tQp []) := portCalm_of (by decide +kernel)
theorem test_meets_completion : PortCalm (tPort tQp []) ∧ (3 + (2 ^ 32 - tQp.cqCons.toNat)) % 2 ^ 32 < tQp.cqSize ∧ tQp.cqSize ≤ (4 + (2 ^ 32 - tQp.cqCons.toNat)) % 2 ^ 32 ∧
    QpRange (tPort tQp []) tQp .store (tQp.cq + BitVec.ofNat 64 (32 * (3 % tQp.cqSize))) 0x4060 32 ∧
    (∀ j, j < 32 → (tQp.cq + BitVec.ofNat 64 (32 * (3 % tQp.cqSize)) + BitVec.ofNat 64 j).toNat = (tQp.cq + BitVec.ofNat 64 (32 * (3 % tQp.cqSize))).toNat + j) ∧
    (∃ q', alGet (writeCompletion (tPort tQp []) 5 { wrid := 1, bytes := 0, imm := 0, status := 0, op := 0 }).qps 5 = some q' ∧ q'.state = .ready) ∧
    ∃ q', alGet (writeCompletion (tPort tQp []) 5 { wrid := 1, bytes := 0, imm := 0, status := 8, op := 0 }).qps 5 = some q' ∧ q'.state = .error :=
  ⟨tPort_calm, by decide, by decide, range_of (by decide +kernel) (by decide +kernel), by decide +kernel, ⟨_, rfl, by decide +kernel⟩, ⟨_, rfl, by decide +kernel⟩⟩
def tSent : EthSent := { slot := 0, op := 0, psn := 0, last := 0, len := 1, laddr := 0x2000, wrid := 9, sig := true }
theorem test_meets_flush : ({ tQp with sqProd := 0, rqProd := 0, sent := [tSent] }).sent = [tSent] ∧ ({ tQp with rqProd := 0 }).sqProd.toNat = tQp.sqTaken + 1 ∧
    QpReaches (tPort { tQp with rqProd := 0 } []) { tQp with rqProd := 0 } .load (tQp.sq + BitVec.ofNat 64 (64 * (0 % 4))) 0x1000 ∧
    (∃ op flags len laddr raddr rkey imm wrid, SendIs (memRead (tPort { tQp with rqProd := 0 } []).mem 64 0x1000) op flags len laddr raddr rkey imm wrid) :=
  ⟨rfl, by decide, qpReaches_of (sp := tPortSpace) (by decide +kernel), ⟨_, _, _, _, _, _, _, _, rfl, rfl, rfl, rfl, rfl, rfl, rfl, rfl⟩⟩

-- EthernetMessages: send entries of each kind, good, with an unknown operation, with an LADDR that faults, fenced behind a READ
def tSend (op flags : Byte) (laddr : Byte) : List Host.Cell :=
  ([⟨0x1000, op⟩, ⟨0x1001, flags⟩, ⟨0x1004, 1⟩, ⟨0x1009, 0x20⟩, ⟨0x100A, laddr⟩] : List Host.Cell).filter fun c => c.2 ≠ 0
def tSending (op flags laddr : Byte) (q : Qp) : State := tPort q (tSend op flags laddr)
def tRead : EthSent := { tSent with op := 4 }
def tPaused : State := { tSending 0 0 0 tQp with paused := [(0, 0)] }
theorem sendReaches (op flags laddr : Byte) (q : Qp) (h : q.space (tSending op flags laddr q) = some tPortSpace ∧
    translate (tSending op flags laddr q) tPortSpace .load (q.sq + BitVec.ofNat 64 (64 * (q.sqTaken % q.sqSize))) = .ok 0x1000 0 (some (0x43000, 0xFF, 16))) :
    QpReaches (tSending op flags laddr q) q .load (q.sq + BitVec.ofNat 64 (64 * (q.sqTaken % q.sqSize))) 0x1000 :=
  qpReaches_of (sp := tPortSpace) ⟨h.1, h.2, rfl, rfl, rfl⟩
theorem test_meets_sends : (∀ op ∈ [(0 : Byte), 1, 2, 3, 4], QpReaches (tSending op 1 0 tQp) tQp .load (tQp.sq + BitVec.ofNat 64 (64 * (0 % 4))) 0x1000 ∧
      SendIs (memRead (tSending op 1 0 tQp).mem 64 0x1000) op.toNat 1 1 0x2000 0 0 0 0 ∧ SendOk (memRead (tSending op 1 0 tQp).mem 64 0x1000) op.toNat 1 1 0 0 0 ∧
      QpRange (tSending op 1 0 tQp) tQp .load 0x2000 0x2000 1 ∧ PortCalm (tSending op 1 0 tQp)) ∧
    alGet (tSending 0 1 0 tQp).qps 5 = some tQp ∧ tQp.sqProd.toNat ≠ tQp.sqTaken % 2 ^ 32 ∧ partByNum (tSending 0 1 0 tQp) 0 = some Partition.whole ∧
    (0, Partition.whole.prio) ∉ (tSending 0 1 0 tQp).paused ∧ (0, Partition.whole.prio) ∈ tPaused.paused :=
  ⟨fun op h => by
     have hop : op = 0 ∨ op = 1 ∨ op = 2 ∨ op = 3 ∨ op = 4 := by simpa using h
     rcases hop with rfl | rfl | rfl | rfl | rfl <;>
       exact ⟨sendReaches _ _ _ _ (by decide +kernel), sendIs_of (by decide +kernel),
         sendOk_of (by decide +kernel), range_of (by decide +kernel) (by decide +kernel), portCalm_of (by decide +kernel)⟩,
   by decide +kernel, by decide +kernel, by decide +kernel, by decide +kernel, by decide +kernel⟩
theorem test_meets_badSends : SendIs (memRead (tSending 5 0 0 tQp).mem 64 0x1000) 5 0 1 0x2000 0 0 0 0 ∧ ¬SendOk (memRead (tSending 5 0 0 tQp).mem 64 0x1000) 5 0 1 0 0 0 ∧
    SendIs (memRead (tSending 0 0 2 tQp).mem 64 0x1000) 0 0 1 0x22000 0 0 0 0 ∧ QpFaults (tSending 0 0 2 tQp) tQp .load 0x22000 ∧
    SendIs (memRead (tSending 0 2 0 { tQp with sent := [tRead] }).mem 64 0x1000) 0 2 1 0x2000 0 0 0 0 ∧ (2 / 2 % 2 = 1 ∧ ([tRead].filter fun e => e.op == 4).length ≠ 0) ∧
    ({ tQp with sent := [tRead] }).rdmax ≤ 1 ∧ ({ tQp with rnrWait := true }).rnrWait = true ∧ ({ tQp with sqProd := 0 }).sqProd.toNat = 0 % 2 ^ 32 :=
  ⟨sendIs_of (by decide +kernel),
   fun h => absurd h.known (by decide),
   sendIs_of (by decide +kernel),
   .inr ⟨tPortSpace, trapOf AccKind.load.pageFault 0x22000, by decide +kernel, by decide +kernel⟩,
   sendIs_of (by decide +kernel),
   by decide, by decide, rfl, by decide⟩
-- what arrives: a receive entry of 1 byte at 0x2000, one at 0x22000; keys that grant all of the range and not
def tReceive (laddr : Byte) : List Host.Cell := ([⟨0x3001, 0x20⟩, ⟨0x3002, laddr⟩, ⟨0x3008, 1⟩] : List Host.Cell).filter fun c => c.2 ≠ 0
theorem test_meets_arrivals : (∀ a ∈ [(0 : Byte), 2], QpReaches (tPort tQp (tReceive a)) tQp .load (tQp.rq + BitVec.ofNat 64 (32 * (0 % 4))) 0x3000 ∧
      PortCalm (tPort tQp (tReceive a)) ∧ memRead (tPort tQp (tReceive a)).mem 32 0x3000 / 2 ^ 64 % 2 ^ 32 = 1) ∧
    BitVec.ofNat 64 (memRead (tPort tQp (tReceive 0)).mem 32 0x3000) = (0x2000 : Word) ∧ QpRange (tPort tQp (tReceive 0)) tQp .store 0x2000 0x2000 1 ∧
    BitVec.ofNat 64 (memRead (tPort tQp (tReceive 2)).mem 32 0x3000) = (0x22000 : Word) ∧ QpFaults (tPort tQp (tReceive 2)) tQp .store 0x22000 ∧
    tQp.rqProd.toNat ≠ tQp.rqTaken % 2 ^ 32 ∧ ¬({ tQp with rqProd := 0 }).rqProd.toNat ≠ 0 % 2 ^ 32 ∧ (0xFFFFF : BitVec 24).toNat < 0x100000 * (0 + 1) ∧
    0x100000 * (0 + 1) + 4096 ≤ (0x101000 : BitVec 24).toNat :=
  ⟨fun a h => by
     have ha : a = 0 ∨ a = 2 := by simpa using h
     rcases ha with rfl | rfl <;> exact ⟨qpReaches_of (sp := tPortSpace) (by decide +kernel), portCalm_of (by decide +kernel), by decide +kernel⟩,
   by decide +kernel, range_of (by decide +kernel) (by decide +kernel), by decide +kernel,
   .inr ⟨tPortSpace, trapOf AccKind.store.pageFault 0x22000, by decide +kernel, by decide +kernel⟩, by decide, by decide, by decide, by decide⟩
theorem test_meets_windows : tQp.windows[(7 : BitVec 32).toNat / 2 ^ 28]? = some { base := 0x2000, len := 64, tag := 7, read := true, write := true } ∧
    (7 : Nat) = (7 : BitVec 32).toNat % 2 ^ 28 ∧ 0x2000 ≤ 0x203F ∧ 0x203F + 1 ≤ 0x2000 + 64 ∧ ¬0x203F + 2 ≤ 0x2000 + 64 ∧ tQp.windows[(0x10000007 : BitVec 32).toNat / 2 ^ 28]? = none ∧
    QpRange (tPort tQp []) tQp .load 0x203F 0x203F 1 ∧ QpRange (tPort tQp []) tQp .store 0x203F 0x203F 1 ∧
    QpReaches { tPort tQp [] with mem := memPut (tPort tQp []).mem [(0x203F, 7)] } tQp .load (tQp.rq + BitVec.ofNat 64 (32 * (0 % 4))) 0x3000 ∧
    QpFaults { tPort tQp [] with parts := [] } tQp .load 0x2000 :=
  ⟨by decide +kernel, by decide, by decide, by decide, by decide, by decide +kernel, range_of (by decide +kernel) (by decide +kernel), range_of (by decide +kernel) (by decide +kernel),
   qpReaches_of (sp := tPortSpace) (by decide +kernel), .inl (by decide +kernel)⟩

-- AnswersAndRetries: a message sent, signalled and not, a READ, acknowledged and not; retries left and used up
theorem test_meets_answers : ({ tQp with sent := [tSent, tRead] }).sent = tSent :: [tRead] ∧ tSent.op ≠ 4 ∧ tRead.op = 4 ∧ ((0 : BitVec 24) - tSent.last).toNat < 2 ^ 23 ∧
    ¬((0 : BitVec 24) - ({ tSent with last := 1 }).last).toNat < 2 ^ 23 ∧ (∀ e', [tRead].head? = some e' → e'.op = 4) ∧ tSent.sig = true ∧ ({ tSent with sig := false }).sig = false ∧
    ([7] : List Byte).length = tRead.len ∧ tRead.len ≠ 0 ∧ (∀ x ∈ [tRead], x ≠ tSent) ∧ (0 - tSent.psn).toNat < 2 ^ 23 ∧ (tSent.last - 0).toNat < 2 ^ 23 ∧
    tQp.retries < tQp.retry ∧ ({ tQp with retries := 7 }).retry ≤ 7 ∧ ({ tQp with rnrWait := true }).rnrRetries < tQp.rnr ∧ tQp.rnr ≤ ({ tQp with rnrRetries := 7 }).rnrRetries ∧
    tQp.rnrWait = false ∧ (∃ x ∈ tU.parts, x.prio = 0) ∧ (∀ x ∈ tU.parts, x.prio ≠ 1) := by decide +kernel
theorem test_meets_resend : QpRange (tPort { tQp with sent := [tRead] } []) { tQp with sent := [tRead] } .store 0x2000 0x2000 1 ∧
    SentAgain (tSending 0 1 0 { tQp with sent := [tSent] }) { tQp with sent := [tSent] } 0 5 tSent
      (onWire { tQp with sent := [tSent] } 0 5 (.send 0 0 0 0 0 false 1 (memBytes (tSending 0 1 0 { tQp with sent := [tSent] }).mem 1 0x2000))) ∧
    PortCalm (tSending 0 1 0 { tQp with sent := [tSent] }) ∧ ({ tQp with sent := [tSent] }).sent ≠ [] ∧ (∀ x ∈ [tSent], x = tSent) ∧
    QpFaults { tPort { tQp with sent := [tRead] } [] with parts := [] } tQp .store 0x2000 :=
  ⟨range_of (by decide +kernel) (by decide +kernel),
   ⟨0x1000, 0x2000, 0, 1, 1, 0x2000, 0, 0, 0, 0, qpReaches_of (sp := tPortSpace) (by decide +kernel),
    sendIs_of (by decide +kernel),
    fun _ => range_of (by decide +kernel) (by decide +kernel), rfl⟩,
   portCalm_of (by decide +kernel), by decide, by decide +kernel, .inl (by decide +kernel)⟩

/-- A message of three packets at 0x2000 of which the first two may be acknowledged. -/
def tThree (acked : Nat) : EthSent := { tSent with last := 2, len := 2049, acked := acked }
def tThreeSent (acked : Nat) : State :=
  tPort { tQp with sent := [tThree acked] } [⟨0x1001, 1⟩, ⟨0x1004, 1⟩, ⟨0x1005, 8⟩, ⟨0x1009, 0x20⟩, ⟨0x2000, 7⟩, ⟨0x2800, 9⟩]
theorem test_meets_resendPart : PortCalm (tThreeSent 0) ∧ (tThree 0).op ≠ 4 ∧ ¬((2 : BitVec 24) - 1 - (tThree 0).last).toNat < 2 ^ 23 ∧ ((2 : BitVec 24) - 1 - (tThree 0).psn).toNat < 2 ^ 23 ∧
    max (tThree 0).acked ((2 : BitVec 24) - 1 + 1 - (tThree 0).psn).toNat = 2 ∧ ¬((2 : BitVec 24) - (tThree 0).last).toNat ≥ 2 ^ 23 ∧
    ∀ a ∈ [(0 : Nat), 2], SentAgain (tThreeSent a) { tQp with sent := [tThree a] } 0 5 (tThree 2)
      (onWire { tQp with sent := [tThree a] } 0 5 (.send 2 0 0 0 0 false 2049 (memBytes (tThreeSent a).mem 1 0x2800))) := by
  refine ⟨portCalm_of (by decide +kernel), by decide, by decide, by decide, by decide, by decide, fun a h => ?_⟩
  have ha : a = 0 ∨ a = 2 := by simpa using h
  rcases ha with rfl | rfl <;>
    exact ⟨0x1000, 0x2800, 0, 1, 2049, 0x2000, 0, 0, 0, 0, qpReaches_of (sp := tPortSpace) (by decide +kernel), sendIs_of (by decide +kernel),
      fun _ => range_of (by decide +kernel) (by decide +kernel), rfl⟩
-- 18 R390: an ACK of PSN 1 leaves two packets acknowledged, an older one no fewer; a sequence-error NAK of PSN 2 resends the third alone
theorem test_partAcked : ([(0, Event.ack 0 0x100005 1), (2, .ack 0 0x100005 0)].map fun (a, e) => match step { tThreeSent a with events := [.event e] } with
      | .next t => (alGet t.qps 5).map fun q => q.sent.map fun x => x.acked | _ => none) = [some [2], some [2]] ∧
    (match step { tThreeSent 0 with events := [.event (.sequenceErrorNak 0 0x100005 2)] } with
      | .next t => t.ethOut.map fun m => match m with | .message _ _ _ _ (.send p _ _ _ _ _ _ d) => (p, d) | _ => (0, [])
      | _ => []) = [(2, [9])] := by decide +kernel
theorem packet_of {x : Nat} {k : Packet} (h : k.entry = BitVec.ofNat 64 x ∧ k.n = BitVec.ofNat 64 (x / 2 ^ 64) ∧ k.s = BitVec.ofNat 64 (x / 2 ^ 128) ∧
      k.crec = BitVec.ofNat 64 (x / 2 ^ 192) ∧ k.harts = x / 2 ^ 256 % 2 ^ 16 ∧ k.gang = decide (x / 2 ^ 272 % 2 = 1) ∧ k.prot = decide (x / 2 ^ 273 % 2 = 1) ∧
      k.place = BitVec.ofNat 2 (x / 2 ^ 274) ∧ k.tge = BitVec.ofNat 16 (x / 2 ^ 288) ∧
      ∀ m : Fin 10, k.args.get m = if m.val < x / 2 ^ 280 % 2 ^ 8 then BitVec.ofNat 64 (x / 2 ^ (320 + 64 * m.val)) else 0) : PacketIs x k := by
  obtain ⟨entry, n, s, crec, harts, gang, prot, place, tge, args⟩ := h
  exact ⟨entry, n, s, crec, harts, gang, prot, place, tge, args⟩

-- Scheduling: queues 0 and 1 of class 3 of a partition of two tiles, a ring of 2 entries at 0x6000; a packet for context 1

def tPart : Partition := { Partition.whole with tiles := [(0, 2)], queueCount := 2 }
def tQueueAt (q ctl tail : Byte) : List Host.Cell :=
  ([⟨0x200000 + 64 * q.toNat + 1, 0x60⟩, ⟨0x200000 + 64 * q.toNat + 8, 2⟩, ⟨0x200000 + 64 * q.toNat + 12, 1⟩, ⟨0x200000 + 64 * q.toNat + 14, ctl⟩,
    ⟨0x200000 + 64 * q.toNat + 15, 1⟩, ⟨0x200000 + 64 * q.toNat + 40, tail⟩] : List Host.Cell).filter fun c => c.2 ≠ 0
def tPacketAt (s crec1 crec2 tge : Byte) : List Host.Cell :=
  ([⟨0x6001, 0x10⟩, ⟨0x6008, 1⟩, ⟨0x6010, s⟩, ⟨0x6019, crec1⟩, ⟨0x601A, crec2⟩, ⟨0x6020, 1⟩, ⟨0x6024, tge⟩, ⟨0x6025, tge⟩] : List Host.Cell).filter fun c => c.2 ≠ 0
def tScheduled (packet graph : List Host.Cell) (ctl tail0 tail1 : Byte) : State :=
  { tState tHart (packet ++ tPages ++ tContext ++ tQueueAt 0 ctl tail0 ++ tQueueAt 1 ctl tail1 ++ graph) with parts := [tPart] }
def tGood : State := tScheduled (tPacketAt 1 0x20 0 0xFF) [] 0xC3 1 1
theorem tUsable (tail1 : Byte) (q : Nat) (h : (tail1 = 0 ∨ tail1 = 1) ∧ (q = 0 ∨ q = 1)) :
    UsableQueue (tScheduled (tPacketAt 1 0x20 0 0xFF) [] 0xC3 1 tail1) tPart q true (3 : BitVec 2).toNat 1 2 0x6000 1 := by
  rcases h with ⟨rfl | rfl, rfl | rfl⟩ <;>
    exact ⟨by decide +kernel, by decide +kernel, ⟨by decide +kernel, 1, by decide, rfl⟩, by decide +kernel, by decide +kernel, by decide +kernel, by decide +kernel⟩
theorem tReady (q : Nat) (h : q = 0 ∨ q = 1) : ReadyQueue tGood tPart q 3 := by
  rcases h with rfl | rfl <;> exact ⟨true, 1, 2, 0x6000, 1, 0, 1, tUsable 1 _ (by decide), .inr (by decide +kernel), by decide⟩
theorem test_meets_workDoorbells : Fires (tFire tGood (.workQueueDoorbell 0 2)) tGood (.workQueueDoorbell 0 2) ∧ tGood.ready = true ∧ tGood.bridge = [] ∧ tGood.dir = [] ∧ tGood.resvs = [] ∧ queuePart tGood 2 = none ∧
    queuePart tGood 0 = some tPart ∧ UsableQueue tGood tPart 0 true (3 : BitVec 2).toNat 1 2 0x6000 1 ∧ QueueHolds tGood tPart 0 0 1 ∧ PortCalm tGood ∧
    (0 : Word).toNat < (1 : Word).toNat ∧ (0 : Word).toNat + 2 < (3 : Word).toNat ∧ (1 : Word).toNat ≤ (2 : Word).toNat ∧ (2 : Word).toNat ≤ (0 : Word).toNat + 2 ∧
    (¬∃ c x n r w, UsableQueue (tScheduled [] [] 0xA3 1 1) tPart 0 true c x n r w) :=
  ⟨fires _ _, rfl, rfl, rfl, rfl, by decide +kernel, by decide +kernel, tUsable 1 0 (by decide), .inr (by decide +kernel), portCalm_of (by decide +kernel), by decide, by decide, by decide, by decide,
   fun ⟨c, _, _, _, _, h⟩ => by
     have e : memRead (tScheduled [] [] 0xA3 1 1).mem 1 0x20000E = 0xA3 := by decide +kernel
     have := h.ctl.1
     have hc := h.ctl.2
     simp only [if_true] at this
     rw [show tPart.queueBase + 64 * (0 - tPart.firstQueue) + 14 = 0x20000E by decide, e] at this
     omega⟩
theorem test_meets_choice : tGood.memoryForm ∧ (∀ x, tPart.firstQueue ≤ x → x < tPart.firstQueue + tPart.queueCount → queuePart tGood x = some tPart) ∧ ReadyQueue tGood tPart 0 3 ∧
    (∀ y d, ReadyQueue tGood tPart y d → d ≤ (3 : BitVec 2)) ∧ (∀ f ∈ tGood.farms, f.part = tPart.num → 3 ≤ f.cls → f.waits = false) ∧ chooseQueue tGood tPart = some 0 ∧
    roundOf tGood tPart 3 = none ∧ (∃ r, roundOf { tGood with rounds := [{ part := 0, cls := 3, queue := 0, used := 0 }] } tPart 3 = some r ∧ r.queue = 0 ∧ r.used < 1) ∧
    (∃ r, roundOf { tGood with rounds := [{ part := 0, cls := 3, queue := 0, used := 1 }] } tPart 3 = some r ∧ ¬r.used < 1 ∧ r.queue < 1) ∧ ReadyQueue tGood tPart 1 3 :=
  ⟨by unfold State.memoryForm; decide +kernel, fun x _ => (by decide +kernel : ∀ x, x < 2 → queuePart tGood x = some tPart) x, tReady 0 (.inl rfl),
   fun _ d _ => (by decide : ∀ d : BitVec 2, d ≤ 3) d, fun f h => (by cases h), by decide +kernel, by decide +kernel, ⟨_, rfl, by decide⟩, ⟨_, rfl, by decide⟩, tReady 1 (.inr rfl)⟩
/-- The state after a packet is taken, and its parts: with a good packet, with S = 0, with a CREC that is misaligned or not mapped, with entry 0 of the task graph. -/
def tTaken (packet graph : List Host.Cell) : State :=
  let u := tScheduled packet graph 0xC3 1 1
  { u with mem := memWrite (memWrite u.mem 8 0x200020 1) 8 0x200028 1 }
def tTakenPacket (s : Word) (crec : Word) (tge : BitVec 16) : Packet :=
  { entry := 0x1000, n := 1, s := s, crec := crec, harts := 1, gang := false, prot := false, place := 0, tge := tge, args := Vector.replicate 10 0 }
theorem test_meets_packets : chooseQueue tGood tPart = some 0 ∧ PacketIs (memRead tGood.mem 128 0x6000) (tTakenPacket 1 0x2000 0xFFFF) ∧
    PacketIs (memRead (tScheduled (tPacketAt 0 0x20 0 0xFF) [] 0xC3 1 1).mem 128 0x6000) (tTakenPacket 0 0x2000 0xFFFF) ∧
    recordSpace (tTaken [] []) tPart 1 = some { tRecordSpace with part := some tPart } ∧ recordSpace (tTaken [] []) tPart 2 = none ∧
    translate (tTaken [] []) { tRecordSpace with part := some tPart } .store 0x2000 = .ok 0x2000 0 (some (0x43000, 0xFF, 16)) ∧
    translate (tTaken [] []) { tRecordSpace with part := some tPart } .store 0x20000 = .trap (trapOf AccKind.store.pageFault 0x20000) ∧
    (0x2001 : Word).toNat % 32 ≠ 0 ∧ (0x2000 : Word).toNat % 32 = 0 ∧ refusedFor (memRead tGood.mem 128 0x6000) (tTakenPacket 1 0x2000 0xFFFF) 4 none = 0 ∧
    refusedFor (memRead (tScheduled (tPacketAt 0 0x20 0 0xFF) [] 0xC3 1 1).mem 128 0x6000) (tTakenPacket 0 0x2000 0xFFFF) 4 none = 2 :=
  ⟨by decide +kernel,
   packet_of (by decide +kernel),
   packet_of (by decide +kernel),
   by decide +kernel, by decide +kernel, by decide +kernel, by decide +kernel, by decide +kernel⟩
theorem test_meets_graphPackets : (tTakenPacket 1 0x2000 0).tge ≠ 0xFFFF ∧ (tTakenPacket 1 0x2000 0).tge.toNat < tPart.graphLen ∧
    ([(0 : Byte), 3].all fun st => [(0 : Byte), 1].all fun n => let u := tTaken (tPacketAt 1 0x20 0 0) ([⟨0x300000, n⟩, ⟨0x300004, st⟩] : List Host.Cell)
      decide (memRead u.mem 1 0x300004 = st.toNat ∧ memRead u.mem 4 0x300000 = n.toNat ∧ refusedFor (memRead u.mem 128 0x6000) (tTakenPacket 1 0x2000 0) 4 (some st.toNat) = 0 ∧
        refusedFor (memRead u.mem 128 0x6000) (tTakenPacket 0 0x2000 0) 4 (some st.toNat) = 2 ∧ refusedFor (memRead u.mem 128 0x6000) (tTakenPacket 1 0x2000 0) 4 (some 4) = 6)) = true ∧
    PacketIs (memRead (tTaken (tPacketAt 1 0x20 0 0) []).mem 128 0x6000) (tTakenPacket 1 0x2000 0) :=
  ⟨by decide, by decide, by decide +kernel,
   packet_of (by decide +kernel)⟩
-- placement: one index, a gang of two, a farm that cannot be placed and the farm that gives way
def tWaitingFarm (n : Nat) (gang : Bool) (place : BitVec 2) : Farm :=
  { tFarm with id := 1, cls := 1, packet := { tPacket with harts := n, gang := gang, place := place }, tiles := [], harts := List.replicate n { tFarmHart with placed := false, place := none } }
def tPlacing (tiles : Nat) (l : List Farm) : State :=
  { tState tHart (tPages ++ tContext) with farms := l, parts := [{ tPart with tiles := [(0, tiles)] }], tiles := [(0, { Tile.reset with h0 := tHart, h1 := tHart })] }
theorem test_meets_placement : ([(1, false), (2, true)].all fun (n, g) => [(0 : BitVec 2), 1].all fun place => let f := tWaitingFarm n g place
      let u := tPlacing 3 [f]
      let p := { tPart with tiles := [(0, 3)] }
      decide (farmBy u 1 = some f ∧ partByNum u 0 = some p ∧ (placementChoice u p).map (fun g => g.id) = some 1 ∧ placementChoice u p = some f ∧
        (ctxEntry u p f.ctx).isSome = true ∧ f.unplaced = List.range n ∧ n ≤ (farmSlots u p f).length ∧ (farmSlots u p f).Nodup ∧ (∀ g ∈ u.farms, g = f) ∧
        (farmSlots u p f).head? = some ⟨1, false⟩ ∧ f.harts[0]?.isSome = true ∧ u.dir = [] ∧ u.resvs = [])) = true ∧ farmBy (tPlacing 3 []) 1 = none ∧
    (farmSlots (tPlacing 3 [tWaitingFarm 2 false 2]) { tPart with tiles := [(0, 3)] } (tWaitingFarm 2 false 2)).head? = some ⟨1, false⟩ := by decide +kernel
-- a supervisor that waits on hart 0 of tile 0 with nothing queued is free, one with a queued instruction is not; one hart a tile; the pages of the record
def tWaitingHart (l : List Queued) : State :=
  { tPlacing 3 [tWaitingFarm 1 false 0] with tiles := [(0, { Tile.reset with h0 := { tHart with level := .s, ctxid := 0, run := .wfe, vq := l }, h1 := { tHart with vq := l } })] }
theorem test_meets_slots : let p := { tPart with tiles := [(0, 3)] }
    (farmSlots (tWaitingHart []) p (tWaitingFarm 1 false 0)).head? = some ⟨0, false⟩ ∧ (farmSlots (tWaitingHart [tQueued]) p (tWaitingFarm 1 false 0)).head? = some ⟨1, false⟩ ∧
    ⟨2, false⟩ ∈ farmSlots (tPlacing 3 [tWaitingFarm 1 false 1]) p (tWaitingFarm 1 false 1) ∧ ⟨1, true⟩ ∈ farmSlots (tPlacing 3 [tWaitingFarm 2 false 2]) p (tWaitingFarm 2 false 2) ∧
    (tWaitingFarm 1 false 0).packet.place = 0 ∧ (tWaitingFarm 1 false 1).packet.place = 1 ∧ (tWaitingFarm 2 false 2).packet.place = 2 ∧ (tTaken [] []).tlb = [] := by decide +kernel
theorem test_meets_preemption : let f := tWaitingFarm 1 false 0
    let u := tPlacing 1 [tFarm, f]
    let p := { tPart with tiles := [(0, 1)] }
    farmBy u 1 = some f ∧ partByNum u 0 = some p ∧ (placementChoice u p).map (fun g => g.id) = some 1 ∧ (farmSlots u p f).length < f.together ∧ victimOf u p f.cls = some tFarm ∧
      askedAlready u f = false ∧ u.farms = [] ++ tFarm :: [f] ∧ (∃ y ∈ tFarm.harts, y.place ≠ none) ∧ tFarm.cls < f.cls := by decide +kernel
theorem test_meets_completionOfFarm : let f := { tFarm with triggered := true, harts := [{ tFarmHart with place := none, exited := true }] }
    let u := tPlacing 1 [f]
    farmBy u 0 = some f ∧ f.waitsGraph = false ∧ f.allOut = true ∧ drainsLeft u f = false ∧ f.triggered = true ∧ tFarm.allOut = false ∧ farmBy (tPlacing 1 []) 0 = none := by decide +kernel
def tRecording : State := tState tHart (tPages ++ tContext)
theorem test_meets_completionRecord : partByNum tRecording tFarm.part = some Partition.whole ∧ PortCalm tRecording ∧
    RecordReaches tRecording Partition.whole { tFarm with packet := { tPacket with crec := 0x2000 } } 0x2000 := by
  refine ⟨by decide +kernel, portCalm_of (by decide +kernel), tRecordSpace, by decide +kernel, fun m _ hm => ?_⟩
  have hr : ∀ a, 0x40000 ≤ a → memRead m 8 a = memRead tRecording.mem 8 a := fun a ha => memRead_congr _ _ _ _ fun c hc _ => hm c (.inr (by omega))
  exact ⟨0, some (0x43000, 0xFF, 16), 0, some (0x43000, 0xFF, 16), (translate_mem rfl rfl rfl rfl hr rfl (by decide +kernel)).trans (by decide +kernel), by decide, marked ⟨rfl, rfl, rfl⟩,
    (translate_mem rfl rfl rfl rfl hr rfl (by decide +kernel)).trans (by decide +kernel), by decide, marked ⟨rfl, rfl, rfl⟩⟩

-- KillsAndNotices: context 1 with a hart at U, and at S, an engine, the fabric, a farm, and its peer-group table
def tDoomed (level : Level) (bars : List Nat) (mem : List Host.Cell) : State :=
  { tRemote tRemoteHart mem with
    tiles := [(0, { Tile.reset with h0 := { tRemoteHart with level := level }, engines := (Vector.replicate 4 none).set 1 (some { tReader with ctx := 1 }), fabric := { tFabric [] [] with owner := some (false, 1) } })],
    peerTables := [{ part := 0, ctx := 1, heap := 0x10000, peers := [(0x0101, 1)], bars := bars }], farms := [tFarm] }
theorem test_meets_kill : ([Level.u, .s].all fun l => let u := tDoomed l [] []
      decide (partNum u 0 = Partition.whole.num ∧ (getHart u ⟨0, false⟩).ctxid = 1 ∧ (getHart u ⟨0, false⟩).translated = true ∧ (getHart u ⟨0, false⟩).run = .running ∧
        (getHart u ⟨0, false⟩).member = none ∧ (getHart u ⟨0, false⟩).vownV = true ∧ (getHart u ⟨0, false⟩).vownId = 1 ∧ (getHart u ⟨0, false⟩).level = l ∧ u.resvs = [] ∧ u.held = [] ∧ engineAt u 0 1 = some { tReader with ctx := 1 } ∧ (tileAt u 0).fabric.owner = some (false, 1) ∧
        (u.farms.map fun f => f.id).Nodup ∧ (u.tiles.map fun e => e.1) = [0])) = true ∧ Rising (tDoomed .u [] []).tiles ∧
    (∀ b ∈ tU.peerTables, b.part = 0 → b.ctx ≠ 1) ∧ (tDoomed .u [] []).peerTables = [{ part := 0, ctx := 1, heap := 0x10000, peers := [(0x0101, 1)], bars := [] }] ∧ tU.hart.ctxid ≠ 1 :=
  ⟨by decide +kernel, List.pairwise_singleton _ _, by decide +kernel, rfl, by decide⟩
theorem test_meets_killNotice : (∀ b ∈ tU.peerTables, ((0x0101 : BitVec 16), (1 : BitVec 16)) ∉ b.peers) ∧
    (tDoomed .u [0x2000] []).peerTables.filter (fun b => b.peers.contains (0x0101, 1)) = [{ part := 0, ctx := 1, heap := 0x10000, peers := [(0x0101, 1)], bars := [0x2000] }] ∧
    partByNum (tDoomed .u [0x2000] []) 0 = some Partition.whole ∧ (∃ q ∈ [tBatch none], ∃ o ∈ q.ops, o.op.peer = 0x0101 ∧ o.res = none) ∧
    PortCalm (tDoomed .u [0x2000] []) ∧ memRead (tDoomed .u [0x2000] []).mem 2 0x2014 ≠ 0xFFFF ∧ memRead (tDoomed .u [0x2000] []).mem 2 0x2014 = (tDoomed .u [0x2000] []).self.toNat ∧
    memRead (tDoomed .u [0x2000] [⟨0x2014, 0xFF⟩, ⟨0x2015, 0xFF⟩]).mem 2 0x2014 = 0xFFFF ∧
    memRead (tDoomed .u [0x2000] [⟨0x2014, 1⟩, ⟨0x2015, 1⟩]).mem 2 0x2014 = 0x0101 ∧ (0x0101 : Nat) ≠ (tDoomed .u [0x2000] []).self.toNat :=
  ⟨by decide +kernel, by decide +kernel, by decide +kernel, ⟨tBatch none, .head _, _, .head _, rfl, rfl⟩, portCalm_of (by decide +kernel), by decide +kernel, by decide +kernel,
   by decide +kernel, by decide +kernel, by decide +kernel⟩
/-- Sub-batches of the dead context and of others held, retried and behind a reservation. -/
def tHeldOf (src ctx : BitVec 16) : Held :=
  { tile := 0, e := 1, hart := none, action := .fill, returns := false, fill := none, va := 0, event := some (.subBatchArrival { tSub .arrive 0x2000 with src := src, ctx := ctx }) }
def tNoticed : State := { tDoomed .u [0x2000] [] with
  heldBatches := [(0x0101, 1), (0x0101, 2), (0x0202, 1)].map fun x => { tSub .arrive 0x2000 with src := x.1, ctx := x.2 }
  held := [tHeldOf 0x0101 1, tHeldOf 0x0202 1, { tHeldOf 0 0 with event := none }] }
-- 18 R382: those of the pair are dropped, and DEAD is set at the barrier
theorem test_killNotice : (match step { tNoticed with events := [.event (.killNotice 0x0101 1)] } with
      | .next t => (t.heldBatches.length, t.held.length, t.deadPairs, memRead t.mem 1 0x2016) | _ => (0, 0, [], 0)) = (2, 2, [(0x0101, 1)], 1) := by decide +kernel
theorem test_meets_killNoticeBarrier : heapAddr (tDoomed .u [0x2000] []) .agent Partition.whole 1 0x10000 .store 0x2000 128 = (some 0x2000, tDoomed .u [0x2000] []) := rfl
def tKill : Kill := { part := 0, ctx := 1, peers := [0x0101, 0x0202] }
theorem test_meets_killAnswers : (∀ k ∈ tU.kills, k.ctx = 1 → (0x0101 : BitVec 16) ∉ k.peers) ∧ { tU with kills := [tKill] }.kills = [] ++ tKill :: [] ∧ tKill.ctx = 1 ∧
    (0x0101 : BitVec 16) ∈ tKill.peers := by decide +kernel

-- HealthAndPower: clusters left and retired, guard bands at 29 and 30, tiles left and dead, 440 units and one more, monitors; flash of each kind
def tMonitor (ctl : Word) : Monitor := { ctl := ctl, min := 0xFFFFFFFF, max := 0, count := 0, bins := Vector.replicate 16 0 }
theorem test_meets_health : (tileAt tU 0).lanemap.getLsbD (3 : BitVec 3).toNat = false ∧ ({ Tile.reset with lanemap := 8 }).lanemap.getLsbD (3 : BitVec 3).toNat = true ∧
    (alGet tU.gb 71).getD 0 < 30 ∧ (alGet { tU with gb := [(71, 30)] }.gb 71).getD 0 = 30 ∧ (alGet { tU with gb := [(71, 29)] }.gb 71).getD 0 < 30 ∧
    (tileAt tU 0).dead = false ∧ ({ Tile.reset with dead := true }).dead = true ∧ partOf tU 0 = some Partition.whole ∧
    (440 : BitVec 32).toNat ≤ 440 ∧ 440 < (441 : BitVec 32).toNat ∧ tU.ready = true ∧ tFarm.part = Partition.whole.num ∧ Partition.whole ∈ tU.parts ∧
    (∀ a, tU.flash.slot0 = some a → a.valid = true) ∧ tU.flash.slot1 = none ∧
    (tMonitor 0x8000000000000001).ctl.getLsbD 63 = true ∧ (tMonitor 0x8000000000000001).ctl.getLsbD 62 = false ∧ 1 ≤ (tMonitor 0x8000000000000001).ctl.toNat % 2 ^ 8 ∧
    (tMonitor 0x8000000000000007).ctl.toNat % 2 ^ 8 ≤ 7 ∧ 7 < (tMonitor 0x8000000000000008).ctl.toNat % 2 ^ 8 ∧ (tMonitor 0xC000000000000001).ctl.getLsbD 62 = true ∧
    (let h := getHart (tDoomed .u [] []) ⟨0, false⟩; h.run ≠ .halted ∧ h.run ≠ .stopped ∧ h.translated = true ∧ h.ctxid ≠ 0) := by
  have e : ∀ a, tU.flash.slot0 = some a → a.valid = true := fun a h => by
    have : a = { seq := 1, serial := 0, tiles := [], gb := [], valid := true } := (Option.some.inj h).symm
    rw [this]
  exact ⟨by decide +kernel, by decide +kernel, by decide +kernel, by decide +kernel, by decide +kernel, by decide +kernel, by decide +kernel, by decide +kernel, by decide, by decide, rfl, by decide +kernel,
    by decide +kernel, e, rfl, by decide +kernel, by decide +kernel, by decide +kernel, by decide +kernel, by decide +kernel, by decide +kernel, by decide +kernel⟩
def tNote (seq : Word) (valid : Bool) : DeconfRecord := { seq := seq, serial := 0, tiles := [(3, true, 0), (7, false, 1)], gb := [], valid := valid }
def tFlash (a b : Option DeconfRecord) : Flash := { Flash.fresh with slot0 := a, slot1 := b }
theorem test_meets_power : { tU with power := false }.power = false ∧ tU.power = true ∧ ({ Flash.fresh with imageOk := false }).imageOk = false ∧ Flash.fresh.imageOk = true ∧
    (∀ a, (tFlash (some (tNote 1 false)) none).slot0 = some a → ¬a.valid = true) ∧ (tFlash (some (tNote 2 true)) (some (tNote 1 true))).slot0 = some (tNote 2 true) ∧
    (∀ b, (tFlash (some (tNote 2 true)) (some (tNote 1 true))).slot1 = some b → b.valid = true → b.seq ≤ (tNote 2 true).seq) ∧
    (∀ b, (tFlash (some (tNote 2 true)) (some (tNote 2 true))).slot1 = some b → b.valid = true → b.seq ≤ (tNote 2 true).seq) ∧
    (∀ a, (tFlash (some (tNote 1 true)) (some (tNote 2 true))).slot0 = some a → a.valid = true → a.seq < (tNote 2 true).seq) ∧ Rising (tNote 1 true).tiles ∧
    Flash.fresh.calibrates = true ∧ Flash.fresh.memoryOk = true ∧ Flash.fresh.planOk = true ∧ Flash.fresh.plan.head? = some Partition.whole ∧
    (∀ p ∈ Flash.fresh.plan, p.ranges.length ≤ 64 ∧ ∀ x ∈ p.ranges, x.base % 2 ^ 25 = 0 ∧ x.len % 2 ^ 25 = 0) ∧ 1 % 2 ^ 25 ≠ 0 ∧
    (∀ p ∈ Flash.fresh.plan, ∀ q ∈ Flash.fresh.plan, q.boot = p.boot → q = p) ∧ (∀ p ∈ Flash.fresh.plan, p.boot ≠ ⟨0, true⟩) := by
  refine ⟨rfl, rfl, rfl, rfl, fun a h => ?_, rfl, fun b h _ => ?_, fun b h _ => ?_, fun a h _ => ?_, by unfold Rising; decide, rfl, rfl, rfl, rfl, by decide +kernel, by decide, ?_, by decide⟩
  · cases (Option.some.inj h); decide
  · cases (Option.some.inj h); decide
  · cases (Option.some.inj h); decide
  · cases (Option.some.inj h); decide
  · intro p hp q hq _
    rw [List.mem_singleton.mp (show p ∈ [Partition.whole] from hp), List.mem_singleton.mp (show q ∈ [Partition.whole] from hq)]

/-- Bring-up at a step, of a package with module flash f. -/
def tRising (stage : BitVec 8) (f : Flash) : State := { State.reset with ready := false, stage := stage, flash := f, mem := [⟨5, 1⟩] }
def tRisingFlash : Flash := { tFlash (some (tNote 1 true)) (some (tNote 2 true)) with needs := [(3, 7)] }
theorem test_meets_bringUp : ∀ n : BitVec 8, (tRising n tRisingFlash).ready = false ∧ (tRising n tRisingFlash).errCode = 0 ∧ (tRising n tRisingFlash).stage = n ∧
    tRisingFlash.slot1 = some (tNote 2 true) ∧ (tNote 2 true).valid = true ∧ (∀ a, tRisingFlash.slot0 = some a → a.valid = true → a.seq < (tNote 2 true).seq) ∧
    tRisingFlash.imageOk = true ∧ tRisingFlash.calibrates = true ∧ tRisingFlash.memoryOk = true ∧ tRisingFlash.planOk = true ∧ Rising (tNote 2 true).tiles ∧
    (∀ p ∈ tRisingFlash.plan, p.ranges.length ≤ 64 ∧ ∀ x ∈ p.ranges, x.base % 2 ^ 25 = 0 ∧ x.len % 2 ^ 25 = 0) ∧ tRisingFlash.plan.head? = some Partition.whole :=
  fun n => ⟨rfl, rfl, rfl, rfl, rfl, fun a h _ => by cases (Option.some.inj h); decide, rfl, rfl, rfl, rfl, by unfold Rising; decide, by decide +kernel, rfl⟩
-- 21 R409: each step succeeds with the next STAGE, or fails with its ERR; 19 R400: a band starts at its need; 21 R411: memory is written
theorem test_bringUp : ([(1 : BitVec 8), 2, 3, 4, 5].map fun n => let t := bringUp (tRising n tRisingFlash)
      (t.stage, t.errCode, t.ready, t.mem.length, alGet t.gb 3)) = [(2, 0, false, 1, none), (3, 0, false, 1, some 7), (4, 0, false, 0, none), (5, 0, false, 1, none), (5, 0, true, 1, none)] ∧
    ([(1, { tRisingFlash with imageOk := false }), (1, tFlash none (some (tNote 1 false))), (2, { tRisingFlash with calibrates := false }), (3, { tRisingFlash with memoryOk := false }),
      (5, { tRisingFlash with planOk := false })].map fun (n, f) => let t := bringUp (tRising n f)
      (t.stage, t.errCode, t.ready)) = [(1, 1, false), (1, 2, false), (2, 3, false), (3, 4, false), (5, 5, false)] := by decide +kernel
/-- A tile whose hart 0 has two queued instructions, with monitors. -/
def tMonitored (ctl : Word) : State :=
  { tU with tiles := [(0, { Tile.reset with h0 := { tHart with vq := [tQueued, tQueued] }, monitors := Vector.replicate 4 (tMonitor ctl) })] }
-- 19 R404: signal 3 samples the entries queued at the hart that ARG names
theorem test_occupancy : ([(0x8000000000000003 : Word), 0x8000000000000103, 0x8000000000000001].map fun c => match step { tMonitored c with events := [.event (.healthMonitorSample 0 1 9)] } with
      | .next t => ((tileAt t 0).monitors.get 1).max | _ => 0) = [2, 0, 9] := by decide +kernel
theorem test_meets_samples : (tMonitor 0x8000000000000003).ctl.toNat % 2 ^ 8 = 3 ∧ (tMonitor 0x8000000000000003).ctl.getLsbD 8 = false ∧ (tMonitor 0x8000000000000103).ctl.getLsbD 8 = true ∧
    (tMonitor 0x8000000000000103).ctl.toNat % 2 ^ 8 = 3 := by decide +kernel
-- a context that has only a peer-group table, at a thermal stop
theorem test_meets_thermal : ({ part := 0, ctx := 1, heap := 0x10000, peers := [(0x0101, 1)], bars := [] } : PeerTable) ∈ (tDoomed .u [] []).peerTables ∧
    Partition.whole ∈ (tDoomed .u [] []).parts ∧ engineAt (tDoomed .u [] []) 0 1 = some { tReader with ctx := 1 } ∧ partOf (tDoomed .u [] []) 0 = some Partition.whole := by decide +kernel
-- MemoryFormKept, VectorShapeKept, MapsRise: a state with each invariant whose step gives a next state
theorem test_meets_invariants : tShort.memoryForm ∧ tShort.shaped ∧ tShort.rising ∧ (match step tShort with | .next _ => true | _ => false) = true := by
  refine ⟨by unfold State.memoryForm; decide +kernel, fun i => ?_, ⟨.nil, List.pairwise_singleton _ _, .nil, .nil, .nil, fun r h => ?_⟩, by decide +kernel⟩
  · rcases harts_of (s := tShort) rfl i with h | h | h <;> rw [h] <;> exact ⟨by decide +kernel, fun h => by cases h⟩
  · have : r = { seq := 1, serial := 0, tiles := [], gb := [], valid := true } := by
      rcases h with h | h
      · exact (Option.some.inj h).symm
      · cases h
    rw [this]
    exact ⟨.nil, .nil⟩
end

section
/-! MapsRise (O35). A property of the tables that log 4 keeps in a canonical form is kept by every step if every edit of a table that
occurs in the model keeps it (`TableInvariant`, `step_keeps`): one lemma for each function of the model that hands a state on, in
the order of the model's text, says so. That the keys rise is such a property (`risingInvariant`). -/

namespace Sys2Proof.Machine

/-- The tables of the state that the model keeps in a canonical form (log 4). -/
structure Tables where
  mem : List Host.Cell
  dir : List (Nat × DirEntry)
  tiles : List (Nat × Tile)
  qps : List (Nat × Qp)
  queues : List (Nat × QueueCounts)
  gb : List (Nat × Nat)
  flash : Flash

/-- The tables of a state. -/
def State.tables (s : State) : Tables :=
  { mem := s.mem, dir := s.dir, tiles := s.tiles, qps := s.qps, queues := s.queues, gb := s.gb, flash := s.flash }

/-- A property of the tables that each edit of a table that occurs in the model keeps. -/
structure TableInvariant where
  holds : Tables → Prop
  setByte : ∀ {m a b}, holds m → holds { m with mem := memSet m.mem a b }
  noMem : ∀ {m}, holds m → holds { m with mem := [] }
  memOf : ∀ {m n}, holds m → holds n → holds { m with mem := n.mem }
  setDir : ∀ {m l d}, holds m → holds { m with dir := alSet m.dir l d }
  delDir : ∀ {m l}, holds m → holds { m with dir := alDel m.dir l }
  noDir : ∀ {m}, holds m → holds { m with dir := [] }
  dirOf : ∀ {m n}, holds m → holds n → holds { m with dir := n.dir }
  setTile : ∀ {m t x}, holds m → holds { m with tiles := alSet m.tiles t x }
  mapTiles : ∀ {m} {f : Nat × Tile → Nat × Tile}, (∀ e, (f e).1 = e.1) → holds m → holds { m with tiles := m.tiles.map f }
  noTiles : ∀ {m}, holds m → holds { m with tiles := [] }
  setQp : ∀ {m k q}, holds m → holds { m with qps := alSet m.qps k q }
  delQp : ∀ {m k}, holds m → holds { m with qps := alDel m.qps k }
  noQps : ∀ {m}, holds m → holds { m with qps := [] }
  setQueue : ∀ {m k c}, holds m → holds { m with queues := alSet m.queues k c }
  filterQueues : ∀ {m p}, holds m → holds { m with queues := m.queues.filter p }
  noQueues : ∀ {m}, holds m → holds { m with queues := [] }
  setBand : ∀ {m d g}, holds m → holds { m with gb := alSet m.gb d g }
  bands : ∀ {m g}, Rising g → holds m → holds { m with gb := g }
  record0 : ∀ {m r}, List.Sublist (r.tiles.map fun e => e.1) (m.tiles.map fun e => e.1) → r.gb = m.gb → holds m →
      holds { m with flash := { m.flash with slot0 := some r } }
  record1 : ∀ {m r}, List.Sublist (r.tiles.map fun e => e.1) (m.tiles.map fun e => e.1) → r.gb = m.gb → holds m →
      holds { m with flash := { m.flash with slot1 := some r } }

/-- A state whose tables have the invariant. -/
def TableInvariant.Holds (I : TableInvariant) (s : State) : Prop := I.holds s.tables

/-- A step that answers a next state answers one with the invariant. -/
def TableInvariant.After (I : TableInvariant) : Out → Prop
  | .next s => I.Holds s
  | .fault _ | .refused _ => True

/-- A state, where there is one, has the invariant. -/
def TableInvariant.Maybe (I : TableInvariant) : Option State → Prop
  | some s => I.Holds s
  | none => True

/-! The state that each kind of answer hands on. -/

@[reducible] def Access.state {α : Type} : Access α → State
  | .ok _ s | .trap _ s | .stall s => s

@[reducible] def Ended.state : Ended → State
  | .done _ s | .stop _ s | .fail _ s | .wait s => s

@[reducible] def OpEnd.state : OpEnd → State
  | .done _ s | .wait _ s => s

@[reducible] def BlockEnd.state : BlockEnd → State
  | .done _ s | .wait s | .stall s | .trap _ s => s

@[reducible] def Choice.state : Choice → State
  | .stay s | .run _ s => s

@[reducible] def EngineAcc.state : EngineAcc → State
  | .ok _ s | .err _ s | .wait s => s

@[reducible] def resultState {α : Type} : Except State (α × State) → State
  | .ok r => r.2
  | .error s => s

@[reducible] def physState : Except (BitVec 8 × State) (Nat × State) → State
  | .ok r => r.2
  | .error r => r.2

@[reducible] def blockState {α : Type} (r : EngineAcc × α) : State := r.1.state

variable {I : TableInvariant} {s t : State}

/-- A change of the fields that are no tables. -/
theorem TableInvariant.Holds.frame {power ready stage errCode fwver serial link applied cur self bad bridge backoffs refused resvs held
    heldBatches ticket tlb farms nextFarm ended rounds parts peerTables deadCtxs deadPairs kills log logSeq calls gen paused peerOut hostOut
    ethOut hostWrites nextHostWrite events waiting await relaxed draws} (hs : I.Holds s) :
    I.Holds {
      mem := s.mem, dir := s.dir, tiles := s.tiles, qps := s.qps, queues := s.queues, gb := s.gb, flash := s.flash,
      power, ready, stage, errCode, fwver, serial, link, applied, cur, self, bad, bridge, backoffs, refused, resvs, held, heldBatches, ticket,
      tlb, farms, nextFarm, ended, rounds, parts, peerTables, deadCtxs, deadPairs, kills, log, logSeq, calls, gen, paused, peerOut, hostOut,
      ethOut, hostWrites, nextHostWrite, events, waiting, await, relaxed, draws } := hs

theorem TableInvariant.Holds.memPut {cells} (h : I.Holds s) : I.Holds { s with mem := Machine.memPut s.mem cells } := by
  induction cells generalizing s with
  | nil => exact h.frame
  | cons c t ih => exact ih (s := { s with mem := memSet s.mem c.1 c.2 }) (I.setByte h)

section
variable {α β : Type}

/-! The fact about a compound answer, carried over to the answer that a match found it to be. -/

theorem TableInvariant.Holds.snd {p q : α × State} (h : I.Holds p.2) (e : p = q) : I.Holds q.2 := e ▸ h

theorem TableInvariant.Holds.fst {p q : State × α} (h : I.Holds p.1) (e : p = q) : I.Holds q.1 := e ▸ h

theorem TableInvariant.Holds.trd {p q : α × β × State} (h : I.Holds p.2.2) (e : p = q) : I.Holds q.2.2 := e ▸ h

theorem TableInvariant.Holds.access {p q : Access α} (h : I.Holds p.state) (e : p = q) : I.Holds q.state := e ▸ h

theorem TableInvariant.Holds.ended {p q : Ended} (h : I.Holds p.state) (e : p = q) : I.Holds q.state := e ▸ h

theorem TableInvariant.Holds.opEnd {p q : OpEnd} (h : I.Holds p.state) (e : p = q) : I.Holds q.state := e ▸ h

theorem TableInvariant.Holds.choice {p q : Choice} (h : I.Holds p.state) (e : p = q) : I.Holds q.state := e ▸ h

theorem TableInvariant.Holds.engineAcc {p q : EngineAcc} (h : I.Holds p.state) (e : p = q) : I.Holds q.state := e ▸ h

theorem TableInvariant.Holds.result {p q : Except State (α × State)} (h : I.Holds (resultState p)) (e : p = q) :
    I.Holds (resultState q) := e ▸ h

theorem TableInvariant.Holds.phys {p q : Except (BitVec 8 × State) (Nat × State)} (h : I.Holds (physState p)) (e : p = q) :
    I.Holds (physState q) := e ▸ h

theorem TableInvariant.Holds.block {p q : EngineAcc × α} (h : I.Holds (blockState p)) (e : p = q) : I.Holds (blockState q) := e ▸ h

theorem TableInvariant.After.of_eq {p q : Out} (h : I.After p) (e : p = q) : I.After q := e ▸ h

theorem TableInvariant.Maybe.of_eq {p q : Option State} (h : I.Maybe p) (e : p = q) : I.Maybe q := e ▸ h

/-! Folds and choices. -/

theorem holds_ite {c : Prop} [Decidable c] {a b : State} (ha : I.Holds a) (hb : I.Holds b) : I.Holds (if c then a else b) := by
  split
  · exact ha
  · exact hb

theorem holds_apply_ite {β : Type} {c : Prop} [Decidable c] {a b : β} (f : β → State) (ha : I.Holds (f a)) (hb : I.Holds (f b)) :
    I.Holds (f (if c then a else b)) := by
  split
  · exact ha
  · exact hb

theorem after_ite {c : Prop} [Decidable c] {a b : Out} (ha : I.After a) (hb : I.After b) : I.After (if c then a else b) := by
  split
  · exact ha
  · exact hb

theorem holds_foldl {l : List α} {f : State → α → State} (h : I.Holds s) (hf : ∀ s x, I.Holds s → I.Holds (f s x)) :
    I.Holds (l.foldl f s) := List.foldlRecOn l f h fun s hs x _ => hf s x hs

theorem holds_foldl_fst {l : List α} {f : State × β → α → State × β} {x : State × β} (h : I.Holds x.1)
    (hf : ∀ x a, I.Holds x.1 → I.Holds (f x a).1) : I.Holds (l.foldl f x).1 :=
  List.foldlRecOn (motive := fun x => I.Holds x.1) l f h fun x hx a _ => hf x a hx

theorem holds_foldl_queues {l : List α} {f : List (Nat × QueueCounts) → α → List (Nat × QueueCounts)} {m : Tables} {q}
    (h : I.holds { m with queues := q }) (hf : ∀ q x, I.holds { m with queues := q } → I.holds { m with queues := f q x }) :
    I.holds { m with queues := l.foldl f q } :=
  List.foldlRecOn (motive := fun q => I.holds { m with queues := q }) l f h fun q hq x _ => hf q x hq

theorem holds_foldl_tiles {l : List α} {f : List (Nat × Tile) → α → List (Nat × Tile)} {m : Tables} {q}
    (h : I.holds { m with tiles := q }) (hf : ∀ q x, I.holds { m with tiles := q } → I.holds { m with tiles := f q x }) :
    I.holds { m with tiles := l.foldl f q } :=
  List.foldlRecOn (motive := fun q => I.holds { m with tiles := q }) l f h fun q hq x _ => hf q x hq

theorem resultState_map {r : Except State (α × State)} {f : α × State → β × State} (h : I.Holds (resultState r))
    (hf : ∀ x, I.Holds x.2 → I.Holds (f x).2) : I.Holds (resultState (r.map f)) := by
  cases r with
  | error s => exact h
  | ok x => exact hf x h

/-! Edits of whole tables. -/

theorem TableInvariant.Holds.mapTiles {f : Nat × Tile → Nat × Tile} (hf : ∀ e, (f e).1 = e.1) (hs : I.Holds s) :
    I.Holds { s with tiles := s.tiles.map f } := I.mapTiles hf hs

theorem TableInvariant.Holds.memOf (hs : I.Holds s) (ht : I.Holds t) : I.Holds { s with mem := t.mem } := I.memOf hs ht

theorem TableInvariant.Holds.dirOf (hs : I.Holds s) (ht : I.Holds t) : I.Holds { s with dir := t.dir } := I.dirOf hs ht

theorem recordNow_keys (s : State) (q : Word) : List.Sublist ((recordNow s q).tiles.map fun e => e.1) (s.tiles.map fun e => e.1) := by
  unfold recordNow
  dsimp only
  induction s.tiles with
  | nil => exact .slnil
  | cons e t ih =>
    rw [List.filterMap_cons]
    split
    · exact ih.cons _
    · next x =>
      split at x
      · cases x; exact ih.cons_cons _
      · cases x

theorem rising_filterMap {α : Type} {f : Nat → Option (Nat × α)} (hf : ∀ n x, f n = some x → x.1 = n) {l : List Nat}
    (hl : l.Pairwise (· < ·)) : Rising (l.filterMap f) := by
  unfold Rising
  rw [List.pairwise_map, List.pairwise_filterMap]
  exact hl.imp fun h x hx y hy => by rwa [hf _ x hx, hf _ y hy]

theorem upTo_pairwise {a n : Nat} : (upTo a n).Pairwise (· < ·) := by
  induction n generalizing a with
  | zero => exact .nil
  | succ n ih => exact .cons (fun x hx => ((mem_upTo _ _ _).mp hx).1) ih

theorem startBands_rises (f : Flash) (r : DeconfRecord) : Rising (startBands f r) := by
  refine rising_filterMap (fun d x e => ?_) upTo_pairwise
  dsimp only at e
  split at e
  · cases e
  · cases e; rfl

theorem recordTiles_keeps {r} (hs : I.Holds s) : I.Holds { s with tiles := recordTiles r } :=
  holds_foldl_tiles (I.noTiles hs) fun _ _ h => I.setTile h

theorem startBoots_keeps {ps} (hs : I.Holds s) : I.Holds { s with tiles := startBoots ps s.tiles } := by
  refine holds_foldl_tiles (m := s.tables) hs fun l p h => ?_
  dsimp only
  split
  · exact h
  · exact I.setTile h
end

/-! The functions of Sys2Proof/Machine/Base.lean. -/

theorem setTile_keeps {t x} (hs : I.Holds s) : I.Holds (setTile s t x) := I.setTile hs

theorem modTile_keeps {t f} (hs : I.Holds s) : I.Holds (modTile s t f) := setTile_keeps hs

theorem putHart_keeps {i h} (hs : I.Holds s) : I.Holds (putHart s i h) := modTile_keeps hs

theorem modHart_keeps {i f} (hs : I.Holds s) : I.Holds (modHart s i f) := putHart_keeps hs

theorem State.setHart_keeps {h} (hs : I.Holds s) : I.Holds (State.setHart s h) := putHart_keeps hs

theorem State.modHart_keeps {f} (hs : I.Holds s) : I.Holds (State.modHart s f) := State.setHart_keeps hs

theorem State.modTile_keeps {f} (hs : I.Holds s) : I.Holds (State.modTile s f) := Machine.modTile_keeps hs

theorem schedule_keeps {es} (hs : I.Holds s) : I.Holds (schedule s es) := hs.frame

theorem headEvent_keeps {x} (hs : I.Holds s) (e : headEvent s = some x) : I.Holds x.2 := by
  unfold headEvent at e
  split at e
  · cases e; exact hs.frame
  · cases e

theorem setDir_keeps {l d} (hs : I.Holds s) : I.Holds (setDir s l d) := by
  unfold setDir
  split
  · exact I.delDir hs
  · exact I.setDir hs

theorem dropLine_keeps {t l} (hs : I.Holds s) : I.Holds (dropLine s t l) := holds_ite (modTile_keeps hs) hs

theorem dropCopy_keeps {t l} (hs : I.Holds s) : I.Holds (dropCopy s t l) := by
  unfold dropCopy
  extract_lets s₁
  have h₁ : I.Holds s₁ := dropLine_keeps hs
  exact holds_ite (modTile_keeps h₁) h₁

theorem awaitOn_keeps {a} (hs : I.Holds s) : I.Holds (awaitOn s a) := holds_ite hs hs.frame

theorem awaitLine_keeps {l} (hs : I.Holds s) : I.Holds (awaitLine s l) := awaitOn_keeps hs

theorem invalidateOthers_keeps {writer l} (hs : I.Holds s) : I.Holds (invalidateOthers s writer l) := by
  unfold invalidateOthers
  split
  · exact hs
  · exact holds_ite (awaitOn_keeps hs) (holds_ite hs (awaitOn_keeps hs))

theorem performWrite_keeps {writer cells} (hs : I.Holds s) : I.Holds (performWrite s writer cells) :=
  have written := holds_foldl hs.memPut fun _ _ h => invalidateOthers_keeps h
  have repaired := holds_foldl written fun _ _ h => holds_ite (setDir_keeps h) h
  holds_ite repaired repaired.frame

theorem performAction_keeps {writer x} (hs : I.Holds s) : I.Holds (performAction s writer x) := by
  unfold performAction
  split
  · exact hs
  · exact hs
  · exact performWrite_keeps hs
  · exact performWrite_keeps hs
  · split
    · exact performWrite_keeps hs
    · exact hs

theorem addLog_keeps {kind sev part ctx tile addr data0 data1} (hs : I.Holds s) :
    I.Holds (addLog s kind sev part ctx tile addr data0 data1) :=
  hs.frame

theorem notify_keeps {i seq} (hs : I.Holds s) : I.Holds (notify s i seq) := by
  unfold notify
  extract_lets s₁
  have h₁ : I.Holds s₁ := modHart_keeps hs
  exact holds_ite h₁.frame h₁

/-! The functions of Sys2Proof/Machine/Mmu.lean. -/

theorem cutResvs_keeps {cuts} (hs : I.Holds s) : I.Holds (cutResvs s cuts) := holds_ite hs (schedule_keeps hs.frame)

theorem refuseLines_keeps {id lines} (hs : I.Holds s) : I.Holds (refuseLines s id lines) :=
  holds_foldl hs fun _ _ h => (setDir_keeps h).frame

theorem completeLines_keeps {id lines} (hs : I.Holds s) : I.Holds (completeLines s id lines) :=
  holds_ite hs (holds_foldl hs fun _ _ h => holds_ite h (setDir_keeps h).frame)

theorem meetAt_keeps {who lines write} (hs : I.Holds s) : I.Holds (meetAt s who lines write).2 := by
  unfold meetAt
  split
  · exact hs
  · exact holds_foldl (cutResvs_keeps hs) fun _ _ h => awaitOn_keeps h
  · extract_lets s₁
    have h₁ : I.Holds s₁ := cutResvs_keeps hs
    split
    · exact completeLines_keeps h₁
    · exact holds_foldl h₁ fun _ _ h => awaitOn_keeps h

theorem meet_keeps {who lines write} (hs : I.Holds s) : I.Holds (meet s who lines write) := meetAt_keeps hs

theorem dropTrans_keeps {sp va} (hs : I.Holds s) : I.Holds (dropTrans s sp va) := by
  unfold dropTrans
  split
  · exact hs
  · exact holds_ite hs hs.frame

theorem meetWalk_keeps {sp k va} (hs : I.Holds s) : I.Holds (meetWalk s sp k va) := by
  unfold meetWalk
  split
  · exact hs
  · extract_lets s₁
    have h₁ : I.Holds s₁ := by
      unfold s₁
      split
      · exact meet_keeps hs
      · exact hs
    split
    · exact h₁
    · exact holds_ite h₁ (meet_keeps h₁)

theorem markLeaf_keeps {sp k va x} (hs : I.Holds s) : I.Holds (markLeaf s sp k va x) := by
  unfold markLeaf
  split
  · exact hs
  · extract_lets s₁ _ _ _ s₂ _
    have h₁ : I.Holds s₁ := meetWalk_keeps hs
    have h₂ : I.Holds s₂ := holds_ite h₁ (holds_ite h₁ (performWrite_keeps (meet_keeps h₁)))
    split
    · exact h₂
    · exact holds_ite h₂ (dropTrans_keeps h₂).frame

theorem failTrans_keeps {sp k va} (hs : I.Holds s) : I.Holds (failTrans s sp k va) := dropTrans_keeps (meetWalk_keeps hs)

theorem holdAction_keeps {tile e i x} (hs : I.Holds s) : I.Holds (holdAction s tile e i x) := by
  unfold holdAction
  extract_lets s₁
  have h₁ : I.Holds s₁ := hs.frame
  split
  · exact h₁
  · exact modHart_keeps h₁

theorem holdRead_keeps {tile e i va x} (hs : I.Holds s) : I.Holds (holdRead s tile e i va x) := by
  unfold holdRead
  split
  · exact hs
  · exact holds_ite hs hs.frame

theorem holdWrite_keeps {tile e i cells} (hs : I.Holds s) : I.Holds (holdWrite s tile e i cells) := holdAction_keeps hs

theorem agentLoad_keeps {who sp n va} (hs : I.Holds s) : I.Holds (agentLoad s who sp n va).2 := by
  unfold agentLoad
  split
  · exact failTrans_keeps hs
  · split
    · exact failTrans_keeps hs
    · exact holds_apply_ite Prod.snd hs (holds_apply_ite Prod.snd (meet_keeps hs) (markLeaf_keeps (meet_keeps hs)))

theorem agentStore_keeps {who sp n va x} (hs : I.Holds s) : I.Holds (agentStore s who sp n va x).2 := by
  unfold agentStore
  split
  · exact failTrans_keeps hs
  · exact holds_apply_ite Prod.snd (failTrans_keeps hs) (holds_apply_ite Prod.snd hs (performWrite_keeps (markLeaf_keeps (meet_keeps hs))))

/-! The functions of Sys2Proof/Machine/Farms.lean. -/

theorem modFarm_keeps {id f} (hs : I.Holds s) : I.Holds (modFarm s id f) := hs.frame

theorem graphWrite_keeps {p e off n x} (hs : I.Holds s) : I.Holds (graphWrite s p e off n x) :=
  holds_ite hs (performWrite_keeps (meet_keeps hs))

theorem meetGraph_keeps {p e} (hs : I.Holds s) : I.Holds (meetGraph s p e) := meet_keeps hs

theorem writeRecord_keeps {f status reason verdict harts undisp notrig bittern} (hs : I.Holds s) :
    I.Holds (writeRecord s f status reason verdict harts undisp notrig bittern) := by
  unfold writeRecord
  split
  · exact hs
  · split
    · exact hs
    · dsimp only
      split
      · next e => exact (agentStore_keeps hs).snd e
      · next e => exact agentStore_keeps ((agentStore_keeps hs).snd e)

theorem endFarm_keeps {f status reason} (hs : I.Holds s) : I.Holds (endFarm s f status reason) := (writeRecord_keeps hs).frame

theorem markTainted_keeps {f kind} (hs : I.Holds s) : I.Holds (markTainted s f kind) := by
  unfold markTainted
  refine (modFarm_keeps ?_).frame
  split
  · exact notify_keeps (addLog_keeps hs)
  · exact addLog_keeps hs

theorem succActs_keeps {f reason} (hs : I.Holds s) : I.Holds (succActs s f reason).1 := by
  unfold succActs
  split
  · refine holds_foldl_fst (meetGraph_keeps hs) fun x m h => ?_
    split
    · exact addLog_keeps h
    · dsimp only
      split
      · split
        · exact meetGraph_keeps h
        · exact meetGraph_keeps h
      · exact meetGraph_keeps h
  · exact hs

theorem spread_keeps {fuel acts} (hs : I.Holds s) : I.Holds (spread fuel acts s) := by
  induction fuel generalizing acts s with
  | zero => exact hs
  | succ fuel ih =>
    cases acts with
    | nil => exact hs
    | cons act rest =>
      cases act with
      | taint id kind reason =>
        unfold spread
        split
        · exact ih hs
        · refine holds_ite (ih hs) ?_
          split
          next e => exact ih ((succActs_keeps (markTainted_keeps hs)).fst e)
      | hold pn e reason ctx crec =>
        unfold spread
        split
        · exact ih hs
        · refine holds_ite (ih (meetGraph_keeps hs)) (ih (holds_foldl_fst ?_ fun x m h => ?_))
          · split
            · exact (writeRecord_keeps (graphWrite_keeps (graphWrite_keeps (meetGraph_keeps hs)))).frame
            · exact graphWrite_keeps (graphWrite_keeps (meetGraph_keeps hs))
          · exact holds_apply_ite Prod.fst (addLog_keeps h) h

theorem taintFarm_keeps {id kind} (hs : I.Holds s) : I.Holds (taintFarm s id kind) := spread_keeps hs

theorem chargeFarm_keeps {id kind} (hs : I.Holds s) : I.Holds (chargeFarm s id kind) := by
  unfold chargeFarm
  split
  · exact holds_ite (modFarm_keeps hs) (taintFarm_keeps hs)
  · exact hs

theorem taintHart_keeps {i kind} (hs : I.Holds s) : I.Holds (taintHart s i kind) := by
  unfold taintHart
  split
  · exact hs
  · exact chargeFarm_keeps hs

theorem decrement_keeps {p f m} (hs : I.Holds s) : I.Holds (decrement s p f m) := by
  unfold decrement
  split
  · exact addLog_keeps hs
  · split
    · exact hs
    · extract_lets s₁ _ s₂ _
      have h₁ : I.Holds s₁ := meetGraph_keeps hs
      have h₂ : I.Holds s₂ := graphWrite_keeps h₁
      exact holds_ite (addLog_keeps h₁) (holds_ite (graphWrite_keeps h₂).frame h₂)

theorem checkTrigger_keeps {id} (hs : I.Holds s) : I.Holds (checkTrigger s id) := by
  unfold checkTrigger
  split
  · exact hs
  · split
    · exact hs
    · extract_lets s₁
      have h₁ : I.Holds s₁ := modFarm_keeps hs
      split
      · exact h₁
      · split
        · exact holds_foldl (meetGraph_keeps h₁) fun _ _ h => decrement_keeps h
        · exact h₁

theorem modFarmHart_keeps {m g} (hs : I.Holds s) : I.Holds (modFarmHart s m g) := modFarm_keeps hs

theorem leaveFarm_keeps {i exits} (hs : I.Holds s) : I.Holds (leaveFarm s i exits) := by
  unfold leaveFarm
  split
  · exact hs
  · extract_lets _ s₂
    have h₂ : I.Holds s₂ := modHart_keeps (modFarmHart_keeps hs)
    exact holds_ite (checkTrigger_keeps (modFarm_keeps h₂)) h₂

theorem passClusters_keeps {i} (hs : I.Holds s) : I.Holds (passClusters s i) := modHart_keeps (modTile_keeps hs)

/-! The functions of Sys2Proof/Machine/Kill.lean. -/

theorem modDir_keeps {l f} (hs : I.Holds s) : I.Holds (modDir s l f) := setDir_keeps hs

theorem refuseReq_keeps {q counts} (hs : I.Holds s) : I.Holds (refuseReq s q counts) :=
  schedule_keeps (holds_ite (modDir_keeps hs) hs)

theorem sendInvalidation_keeps {l p} (hs : I.Holds s) : I.Holds (sendInvalidation s l p) := by
  unfold sendInvalidation
  split
  · exact schedule_keeps hs
  · exact hs.frame
  · exact hs

theorem becomeBusy_keeps {l out w} (hs : I.Holds s) : I.Holds (becomeBusy s l out w) :=
  holds_foldl (modDir_keeps hs) fun _ _ h => sendInvalidation_keeps h

theorem sendFill_keeps {q cacheable} (hs : I.Holds s) : I.Holds (sendFill s q cacheable) := schedule_keeps (setDir_keeps hs)

theorem answerFill_keeps {q} (hs : I.Holds s) : I.Holds (answerFill s q) := by
  unfold answerFill
  split
  · exact sendFill_keeps hs
  · exact becomeBusy_keeps hs
  · exact sendFill_keeps hs

theorem performOne_keeps {h} (hs : I.Holds s) : I.Holds (performOne s h) := by
  unfold performOne
  split
  · exact holds_ite (refuseReq_keeps hs) (answerFill_keeps hs)
  · exact performAction_keeps hs
  · split
    · exact modHart_keeps (performAction_keeps hs)
    · split
      · exact holds_ite hs (modHart_keeps (performAction_keeps hs))
      · exact holds_ite hs (modHart_keeps (performAction_keeps hs))
      · exact hs
      · exact hs
      · exact hs

theorem performHeld_keeps {l} (hs : I.Holds s) : I.Holds (performHeld l s).2 := by
  induction l generalizing s with
  | nil => exact hs
  | cons h t ih =>
    unfold performHeld
    split
    · exact ih hs.frame
    · dsimp only
      split
      · exact hs.frame
      · exact ih (performOne_keeps hs.frame)

theorem dropResvPtrs_keeps {tile e lines} (hs : I.Holds s) : I.Holds (dropResvPtrs s tile e lines) :=
  holds_foldl hs fun _ _ h => setDir_keeps h

theorem freeResv_keeps {tile e} (hs : I.Holds s) : I.Holds (freeResv s tile e) := by
  unfold freeResv
  split
  · exact hs
  · extract_lets s₁
    have h₁ : I.Holds s₁ := hs.frame
    split
    · next e => exact (performHeld_keeps h₁).snd e
    · next e => exact (dropResvPtrs_keeps ((performHeld_keeps h₁).snd e)).frame

theorem setEngine_keeps {tile e x} (hs : I.Holds s) : I.Holds (setEngine s tile e x) := modTile_keeps hs

theorem releaseEngine_keeps {tile e} (hs : I.Holds s) : I.Holds (releaseEngine s tile e) := setEngine_keeps (freeResv_keeps hs)

theorem loseEngine_keeps {tile e} (hs : I.Holds s) : I.Holds (loseEngine s tile e) := by
  unfold loseEngine
  split
  · exact releaseEngine_keeps hs
  · exact releaseEngine_keeps (addLog_keeps (holds_foldl hs fun _ _ h => setDir_keeps h))

theorem barrierArrive_keeps {pa good} (hs : I.Holds s) : I.Holds (barrierArrive s pa good) := by
  unfold barrierArrive
  dsimp only
  exact holds_ite hs (holds_ite (performWrite_keeps hs) (performWrite_keeps hs))

theorem barrierDead_keeps {pa} (hs : I.Holds s) : I.Holds (barrierDead s pa) := holds_ite hs (performWrite_keeps (meet_keeps hs))

theorem heapAddr_keeps {who p c heap k off n} (hs : I.Holds s) : I.Holds (heapAddr s who p c heap k off n).2 := by
  unfold heapAddr
  split
  · exact hs
  · split
    · split
      · exact holds_apply_ite Prod.snd (failTrans_keeps hs) (markLeaf_keeps hs)
      · exact failTrans_keeps hs
    · exact hs

theorem deadBarriers_keeps {p t} (hs : I.Holds s) : I.Holds (deadBarriers s p t) := by
  unfold deadBarriers
  refine holds_foldl hs fun _ _ h => ?_
  split
  · next e => exact (heapAddr_keeps h).snd e
  · next e =>
    extract_lets s₁ _
    have h₁ : I.Holds s₁ := meet_keeps ((heapAddr_keeps h).snd e)
    exact holds_ite (barrierDead_keeps h₁) h₁

theorem killFarms_keeps {ids} (hs : I.Holds s) : I.Holds (killFarms s ids) := by
  unfold killFarms
  split
  next e =>
  refine holds_foldl (spread_keeps (TableInvariant.Holds.fst (holds_foldl_fst hs fun x id h => ?_) e)) fun s id h => ?_
  · split
    · exact h
    · exact succActs_keeps (holds_ite h (markTainted_keeps h))
  · split
    · exact endFarm_keeps h
    · exact h

theorem leaveWeight_keeps {i} (hs : I.Holds s) : I.Holds (leaveWeight s i) := by
  refine holds_ite hs (TableInvariant.Holds.mapTiles (fun e => ?_) (modTile_keeps hs))
  dsimp only
  split
  · split
    · rfl
    · rfl
  · rfl

theorem releaseAccs_keeps {ctx t} (hs : I.Holds s) : I.Holds (releaseAccs s ctx t) := modTile_keeps hs

theorem killTile_keeps {ctx t} (hs : I.Holds s) : I.Holds (killTile s ctx t) := by
  unfold killTile
  extract_lets one s₁ s₂
  have h₀ : ∀ {s i}, I.Holds s → I.Holds (one s i) := fun h =>
    holds_ite (modHart_keeps (holds_ite (leaveWeight_keeps h) h).frame) h
  have h₁ : I.Holds s₁ := h₀ (h₀ (releaseAccs_keeps hs))
  have h₂ : I.Holds s₂ := by
    refine holds_foldl h₁ fun _ _ h => ?_
    split
    · exact holds_ite (releaseEngine_keeps h) h
    · exact h
  split
  · exact holds_ite (modTile_keeps h₂) h₂
  · exact h₂

theorem killContext_keeps {p ctx} (hs : I.Holds s) : I.Holds (killContext s p ctx) := by
  unfold killContext
  extract_lets table s₁ s₂ s₃ s₄
  have h₁ : I.Holds s₁ := holds_foldl hs fun _ _ h => holds_ite (killTile_keeps h) h
  have h₄ : I.Holds s₄ := (killFarms_keeps h₁.frame).frame
  cases table with
  | none => exact h₄
  | some t => exact holds_ite (deadBarriers_keeps h₄) (deadBarriers_keeps h₄).frame

theorem killOf_keeps {i ctx} (hs : I.Holds s) : I.Holds (killOf s i ctx) := by
  unfold killOf
  split
  · exact killContext_keeps hs
  · exact hs

theorem escalateLog_keeps {i} (hs : I.Holds s) : I.Holds (escalateLog s i) := addLog_keeps hs

theorem escalateKill_keeps {i} (hs : I.Holds s) : I.Holds (escalateKill s i) :=
  modHart_keeps (holds_ite (escalateLog_keeps (leaveWeight_keeps hs)) (killOf_keeps (escalateLog_keeps (leaveWeight_keeps hs))))

/-! The functions of Sys2Proof/Machine/Ports.lean. -/

theorem modQp_keeps {k f} (hs : I.Holds s) : I.Holds (modQp s k f) := by
  unfold modQp
  split
  · exact I.setQp hs
  · exact hs

theorem qpLoad_keeps {q n va} (hs : I.Holds s) : I.Holds (qpLoad s q n va).2 := by
  unfold qpLoad
  split
  · exact agentLoad_keeps hs
  · exact hs

theorem qpStore_keeps {q n va x} (hs : I.Holds s) : I.Holds (qpStore s q n va x).2 := by
  unfold qpStore
  split
  · exact agentStore_keeps hs
  · exact hs

theorem qpStoreBytes_keeps {q va l} (hs : I.Holds s) : I.Holds (qpStoreBytes s q va l).1 := by
  induction l generalizing s va with
  | nil => exact hs
  | cons b t ih =>
    unfold qpStoreBytes
    split
    · next e => exact (qpStore_keeps hs).snd e
    · next e => exact ih ((qpStore_keeps hs).snd e)

theorem qpLoadBytes_keeps {q n va} (hs : I.Holds s) : I.Holds (qpLoadBytes s q n va).2 := by
  induction n generalizing s va with
  | zero => exact hs
  | succ n ih =>
    unfold qpLoadBytes
    split
    · next e => exact (qpLoad_keeps hs).snd e
    · next e => exact ih ((qpLoad_keeps hs).snd e)

theorem writeCompletion_keeps {k c} (hs : I.Holds s) : I.Holds (writeCompletion s k c) := by
  unfold writeCompletion
  split
  · exact hs
  · extract_lets _ _ _ _ _ s₃
    have h₃ : I.Holds s₃ := modQp_keeps (qpStore_keeps (qpStore_keeps hs))
    exact holds_ite (addLog_keeps (modQp_keeps hs)) (holds_ite h₃ (modQp_keeps h₃))

theorem entryOf_keeps {q n va} (hs : I.Holds s) : I.Holds (entryOf s q n va).2 := by
  unfold entryOf
  split
  · next e => exact (qpLoad_keeps hs).snd e
  · next e => exact ((qpLoad_keeps hs).snd e).frame

theorem flushed_keeps {k wrid op} (hs : I.Holds s) : I.Holds (flushed s k wrid op) := writeCompletion_keeps hs

theorem flushQp_keeps {k} (hs : I.Holds s) : I.Holds (flushQp s k) := by
  unfold flushQp
  split
  · exact hs
  · extract_lets
    exact modQp_keeps (holds_foldl (holds_foldl (holds_foldl hs fun _ _ h => flushed_keeps h) fun _ _ h => flushed_keeps
        (entryOf_keeps h)) fun _ _ h => flushed_keeps (entryOf_keeps h))

theorem completeQp_keeps {k c} (hs : I.Holds s) : I.Holds (completeQp s k c) := by
  unfold completeQp
  extract_lets s₁
  have h₁ : I.Holds s₁ := writeCompletion_keeps hs
  split
  · exact holds_ite (flushQp_keeps h₁) h₁
  · exact h₁

theorem ethDoorbell_keeps {k who v} (hs : I.Holds s) : I.Holds (ethDoorbell s k who v) := by
  unfold ethDoorbell
  refine holds_ite hs ?_
  dsimp only
  split
  · exact addLog_keeps hs
  · refine holds_ite (addLog_keeps hs) ?_
    split
    · exact holds_ite (flushQp_keeps (modQp_keeps hs)) (modQp_keeps hs)
    · exact holds_ite (flushQp_keeps (modQp_keeps hs)) (modQp_keeps hs)
    · exact modQp_keeps hs

/-! The functions of Sys2Proof/Machine/Device.lean. -/

theorem setCounts_keeps {p q c} (hs : I.Holds s) : I.Holds (setCounts s p q c) := by
  unfold setCounts
  extract_lets s₁
  have h₁ : I.Holds s₁ := I.setQueue hs
  exact holds_ite h₁ (performWrite_keeps (meet_keeps h₁))

theorem afterHostWrites_keeps (hs : I.Holds s) : I.Holds (afterHostWrites s) := holds_foldl hs fun _ _ h => awaitLine_keeps h

theorem queueDoorbell_keeps {q v} (hs : I.Holds s) : I.Holds (queueDoorbell s q v) := by
  unfold queueDoorbell
  split
  · exact hs
  · split
    · exact addLog_keeps hs
    · extract_lets s₁ _
      have h₁ : I.Holds s₁ := meet_keeps hs
      exact holds_ite (setCounts_keeps h₁) (addLog_keeps h₁)

theorem modMonitor_keeps {t m f} (hs : I.Holds s) : I.Holds (modMonitor s t m f) := modTile_keeps hs

theorem sampleRefusals_keeps {t age} (hs : I.Holds s) : I.Holds (sampleRefusals s t age) := modTile_keeps hs

theorem devWrite_keeps {who off n x} (hs : I.Holds s) : I.Holds (devWrite s who off n x) := by
  unfold devWrite
  split
  · exact hs
  · split
    · exact holds_ite (queueDoorbell_keeps hs) hs
    · exact holds_ite (holds_ite (ethDoorbell_keeps hs) hs) (holds_ite (modMonitor_keeps hs) hs)

/-! The functions of Sys2Proof/Machine/Ops.lean. -/

theorem Access.bind_keeps {α β : Type} {x : Access α} {f : α → State → Access β} (hx : I.Holds x.state)
    (hf : ∀ a s, I.Holds s → I.Holds (f a s).state) : I.Holds (x.bind f).state := by
  cases x with
  | ok a s => exact hf a s hx
  | trap | stall => exact hx

theorem consumeBad_keeps {who pa} (hs : I.Holds s) : I.Holds (consumeBad s who pa) := by
  unfold consumeBad
  split
  · exact hs
  · exact taintHart_keeps (addLog_keeps hs)

theorem answerOf_keeps {who va n x} (hs : I.Holds s) (e : answerOf s who va n = some x) : I.Holds x.2 := by
  unfold answerOf at e
  split at e
  · cases e
  · obtain ⟨a, _, rfl⟩ := Option.map_eq_some_iff.mp e
    exact modHart_keeps hs

theorem lagWrite_keeps {i ty cells} (hs : I.Holds s) : I.Holds (lagWrite s i ty cells) :=
  holds_ite (schedule_keeps hs.frame) (schedule_keeps (putHart_keeps hs))

theorem acceptWrite_keeps {who ty hold cells} (hs : I.Holds s) : I.Holds (acceptWrite s who ty hold cells) := by
  unfold acceptWrite
  split
  · split
    · exact holdWrite_keeps hs
    · exact performWrite_keeps hs
  · dsimp only
    split
    · exact lagWrite_keeps hs
    · split
      · exact holds_ite (lagWrite_keeps hs) (holdWrite_keeps hs)
      · exact performWrite_keeps hs

theorem wantFill_keeps {a ty pa} (hs : I.Holds s) : I.Holds (wantFill a ty pa s) := by
  unfold wantFill
  split
  · exact holds_ite (schedule_keeps hs) hs
  · exact hs

theorem Actor.faulted_keeps {a k t va} (hs : I.Holds s) : I.Holds (Actor.faulted a k t va s) := by
  unfold Actor.faulted
  extract_lets s₁
  have h₁ : I.Holds s₁ := failTrans_keeps hs
  split
  · exact consumeBad_keeps h₁
  · exact h₁

theorem ioRead_keeps {n pa} (hs : I.Holds s) : I.Holds (ioRead s n pa).2 := holds_apply_ite Prod.snd hs.frame hs

theorem ioWrite_keeps {who n pa x} (hs : I.Holds s) : I.Holds (ioWrite s who n pa x) := holds_ite hs.frame (devWrite_keeps hs)

theorem loadAs_keeps {a k n va} (hs : I.Holds s) : I.Holds (loadAs a k n va s).state := by
  unfold loadAs
  split
  · next e => exact answerOf_keeps hs e
  · split
    · exact hs
    · split
      · exact Actor.faulted_keeps hs
      · split
        · exact holds_apply_ite Access.state hs (markLeaf_keeps (ioRead_keeps hs))
        · extract_lets _ s₁
          have h₁ : I.Holds s₁ := cutResvs_keeps hs
          split
          · exact hs
          · exact holds_apply_ite Access.state h₁ (holdRead_keeps (markLeaf_keeps h₁))
          · split
            · exact refuseLines_keeps hs
            · extract_lets s₂
              have h₂ : I.Holds s₂ := completeLines_keeps (cutResvs_keeps hs)
              split
              · exact consumeBad_keeps h₂
              · exact wantFill_keeps (markLeaf_keeps h₂)

theorem storeProbe_keeps {a n va} (hs : I.Holds s) : I.Holds (storeProbe a n va s).state := by
  unfold storeProbe
  split
  · exact Actor.faulted_keeps hs
  · split
    · exact holds_apply_ite Access.state hs (markLeaf_keeps hs)
    · dsimp only
      split
      · exact hs
      · exact markLeaf_keeps (cutResvs_keeps hs)
      · exact holds_apply_ite Access.state (refuseLines_keeps hs) (markLeaf_keeps (completeLines_keeps (cutResvs_keeps hs)))

theorem storeTo_keeps {a t cells} (hs : I.Holds s) : I.Holds (storeTo a t cells s) := acceptWrite_keeps hs

theorem storeAs_keeps {a n va x} (hs : I.Holds s) : I.Holds (storeAs a n va x s).state :=
  Access.bind_keeps (storeProbe_keeps hs) (fun _ _ h => holds_apply_ite Access.state (ioWrite_keeps h) (storeTo_keeps h))

theorem flushLine_keeps {i l} (hs : I.Holds s) : I.Holds (flushLine s i l) := by
  unfold flushLine
  extract_lets
  exact holds_ite hs (performWrite_keeps (putHart_keeps hs))

theorem atomicAs_keeps {a n va f} (hs : I.Holds s) : I.Holds (atomicAs a n va f s).state := by
  unfold atomicAs
  split
  · next e => exact answerOf_keeps hs e
  · split
    · exact hs
    · split
      · exact Actor.faulted_keeps hs
      · split
        · split
          · exact hs
          · extract_lets s₁
            have h₁ : I.Holds s₁.2 := ioRead_keeps (markLeaf_keeps hs)
            split
            · exact h₁
            · exact ioWrite_keeps h₁
        · extract_lets _ s₁
          have h₁ : I.Holds s₁ := cutResvs_keeps hs
          split
          · exact hs
          · exact holds_apply_ite Access.state h₁ (holdRead_keeps (markLeaf_keeps h₁))
          · split
            · exact refuseLines_keeps hs
            · extract_lets s₂ s₃ s₄ _
              have h₂ : I.Holds s₂ := completeLines_keeps (cutResvs_keeps hs)
              have h₃ : I.Holds s₃ := by
                unfold s₃
                split
                · exact flushLine_keeps h₂
                · exact h₂
              have h₄ : I.Holds s₄ := markLeaf_keeps h₃
              split
              · exact consumeBad_keeps h₃
              · split
                · exact h₄
                · exact performWrite_keeps h₄

theorem aligned_keeps {α : Type} {n va} {k : Access α} (hs : I.Holds s) (hk : I.Holds k.state) : I.Holds (aligned n va s k).state := by
  unfold aligned
  split
  · exact hk
  · exact hs

theorem waitVq_keeps {k} (hs : I.Holds s) (hs1 : I.After k) : I.After (waitVq s k) := after_ite hs1 (schedule_keeps hs)

theorem waitPerformed_keeps {k} (hs : I.Holds s) (hk : ∀ s, I.Holds s → I.After (k s)) : I.After (waitPerformed s k) :=
  waitVq_keeps hs (after_ite (hk _ hs) hs)

theorem trapAt_keeps {i t} (hs : I.Holds s) : I.Holds (trapAt s i t) := by
  unfold trapAt
  dsimp only
  exact holds_ite (escalateKill_keeps hs) (putHart_keeps (leaveWeight_keeps hs))

theorem trapNow_keeps {t} (hs : I.Holds s) : I.Holds (trapNow s t) := holds_ite (trapAt_keeps hs) (State.modHart_keeps hs)

theorem takeTrap_keeps {t} (hs : I.Holds s) : I.After (takeTrap s t) := trapNow_keeps hs

theorem takeInterrupt_keeps {i code} (hs : I.Holds s) : I.Holds (takeInterrupt s i code) := modHart_keeps (leaveWeight_keeps hs)

theorem Access.finish_keeps {α : Type} {x : Access α} {f : α → State → State} (hx : I.Holds x.state)
    (hf : ∀ a s, I.Holds s → I.Holds (f a s)) : I.After (x.finish f) := by
  cases x with
  | ok a s => exact hf a s hx
  | trap => exact takeTrap_keeps hx
  | stall => exact hx

/-! The functions of Sys2Proof/Machine/Registers.lean. -/

theorem vlWriteOp_keeps {i v} (hs : I.Holds s) : I.Holds (vlWriteOp s i v) := modHart_keeps hs

theorem vtypeWriteOp_keeps {i v} (hs : I.Holds s) : I.Holds (vtypeWriteOp s i v) := modHart_keeps hs

theorem vlpWriteOp_keeps {i v} (hs : I.Holds s) : I.Holds (vlpWriteOp s i v) := modTile_keeps hs

theorem fflagsWriteOp_keeps {i v} (hs : I.Holds s) : I.Holds (fflagsWriteOp s i v) := modHart_keeps hs

theorem vesWriteOp_keeps {i v} (hs : I.Holds s) : I.Holds (vesWriteOp s i v) := modHart_keeps hs

theorem validityWriteOp_keeps {i high v} (hs : I.Holds s) : I.Holds (validityWriteOp s i high v) := modHart_keeps hs

theorem resumeIndex_keeps {i c} (hs : I.Holds s) : I.Holds (resumeIndex s i c) := by
  unfold resumeIndex
  dsimp only
  split
  · exact hs
  · exact modHart_keeps (modFarm_keeps (modFarmHart_keeps (holds_ite hs hs.frame)))

theorem ctxidWriteOp_keeps {i v} (hs : I.Holds s) : I.Maybe (ctxidWriteOp s i v) := by
  unfold ctxidWriteOp
  extract_lets
  split
  · exact trivial
  · extract_lets _ s₁ s₂
    have h₁ : I.Holds s₁ := meet_keeps hs
    have h₂ : I.Holds s₂ := holds_ite (leaveFarm_keeps h₁) h₁
    split
    · exact trivial
    · exact holds_ite (resumeIndex_keeps (modHart_keeps h₂)) (modHart_keeps h₂)

theorem crPut_keeps {o n v} (hs : I.Holds s) : I.Maybe (crPut s o n v) := by
  unfold crPut
  dsimp only
  split
  · exact modHart_keeps hs
  · exact fflagsWriteOp_keeps hs
  · exact modHart_keeps hs
  · exact modHart_keeps hs
  · exact modHart_keeps hs
  · exact vesWriteOp_keeps hs
  · exact modHart_keeps hs
  · exact modHart_keeps hs
  · exact modHart_keeps hs
  · exact vlWriteOp_keeps hs
  · exact vtypeWriteOp_keeps hs
  · exact vlpWriteOp_keeps hs
  · exact modHart_keeps hs
  · exact modHart_keeps hs
  · exact modHart_keeps hs
  · exact modHart_keeps hs
  · exact modHart_keeps hs
  · exact modHart_keeps hs
  · exact modHart_keeps hs
  · exact modHart_keeps hs
  · exact modHart_keeps hs
  · exact modHart_keeps hs
  · exact modHart_keeps hs
  · exact ctxidWriteOp_keeps hs
  · exact modHart_keeps hs
  · exact modHart_keeps hs
  · exact modHart_keeps hs
  · exact modHart_keeps hs
  · exact modHart_keeps hs
  · exact modHart_keeps hs
  · exact validityWriteOp_keeps hs
  · exact validityWriteOp_keeps hs
  · exact modHart_keeps hs
  · exact modHart_keeps hs
  · exact modHart_keeps hs
  · split
    · exact modHart_keeps hs
    · split
      · exact modTile_keeps hs
      · split
        · exact modHart_keeps hs
        · exact hs

/-! The functions of Sys2Proof/Machine/Scalar.lean. -/

theorem regOp_keeps {f d a b} (hs : I.Holds s) : I.After (regOp f d a b s) := State.modHart_keeps hs

theorem immOp_keeps {f d a imm} (hs : I.Holds s) : I.After (immOp f d a imm s) := State.modHart_keeps hs

theorem setG_keeps {n d f} (hs : I.Holds s) : I.After (setG n d f s) := State.modHart_keeps hs

theorem execAdd_keeps {d a b} (hs : I.Holds s) : I.After (execAdd d a b s) := regOp_keeps hs

theorem execSub_keeps {d a b} (hs : I.Holds s) : I.After (execSub d a b s) := regOp_keeps hs

theorem execAnd_keeps {d a b} (hs : I.Holds s) : I.After (execAnd d a b s) := regOp_keeps hs

theorem execOr_keeps {d a b} (hs : I.Holds s) : I.After (execOr d a b s) := regOp_keeps hs

theorem execXor_keeps {d a b} (hs : I.Holds s) : I.After (execXor d a b s) := regOp_keeps hs

theorem execSll_keeps {d a b} (hs : I.Holds s) : I.After (execSll d a b s) := regOp_keeps hs

theorem execSrl_keeps {d a b} (hs : I.Holds s) : I.After (execSrl d a b s) := regOp_keeps hs

theorem execSra_keeps {d a b} (hs : I.Holds s) : I.After (execSra d a b s) := regOp_keeps hs

theorem execSlt_keeps {d a b} (hs : I.Holds s) : I.After (execSlt d a b s) := regOp_keeps hs

theorem execSltn_keeps {d a b} (hs : I.Holds s) : I.After (execSltn d a b s) := regOp_keeps hs

theorem execMin_keeps {d a b} (hs : I.Holds s) : I.After (execMin d a b s) := regOp_keeps hs

theorem execMax_keeps {d a b} (hs : I.Holds s) : I.After (execMax d a b s) := regOp_keeps hs

theorem execMinn_keeps {d a b} (hs : I.Holds s) : I.After (execMinn d a b s) := regOp_keeps hs

theorem execMaxn_keeps {d a b} (hs : I.Holds s) : I.After (execMaxn d a b s) := regOp_keeps hs

theorem execMul_keeps {d a b} (hs : I.Holds s) : I.After (execMul d a b s) := regOp_keeps hs

theorem execMulh_keeps {d a b} (hs : I.Holds s) : I.After (execMulh d a b s) := regOp_keeps hs

theorem execMulhn_keeps {d a b} (hs : I.Holds s) : I.After (execMulhn d a b s) := regOp_keeps hs

theorem execDiv_keeps {d a b} (hs : I.Holds s) : I.After (execDiv d a b s) := regOp_keeps hs

theorem execDivn_keeps {d a b} (hs : I.Holds s) : I.After (execDivn d a b s) := regOp_keeps hs

theorem execRem_keeps {d a b} (hs : I.Holds s) : I.After (execRem d a b s) := regOp_keeps hs

theorem execRemn_keeps {d a b} (hs : I.Holds s) : I.After (execRemn d a b s) := regOp_keeps hs

theorem execClz_keeps {d a} (hs : I.Holds s) : I.After (execClz d a s) := setG_keeps hs

theorem execCtz_keeps {d a} (hs : I.Holds s) : I.After (execCtz d a s) := setG_keeps hs

theorem execPopc_keeps {d a} (hs : I.Holds s) : I.After (execPopc d a s) := setG_keeps hs

theorem execBrev_keeps {d a} (hs : I.Holds s) : I.After (execBrev d a s) := setG_keeps hs

theorem execAddi_keeps {d a imm} (hs : I.Holds s) : I.After (execAddi d a imm s) := immOp_keeps hs

theorem execAndi_keeps {d a imm} (hs : I.Holds s) : I.After (execAndi d a imm s) := immOp_keeps hs

theorem execOri_keeps {d a imm} (hs : I.Holds s) : I.After (execOri d a imm s) := immOp_keeps hs

theorem execXori_keeps {d a imm} (hs : I.Holds s) : I.After (execXori d a imm s) := immOp_keeps hs

theorem execSlti_keeps {d a imm} (hs : I.Holds s) : I.After (execSlti d a imm s) := immOp_keeps hs

theorem execSltni_keeps {d a imm} (hs : I.Holds s) : I.After (execSltni d a imm s) := immOp_keeps hs

theorem execSlli_keeps {d a sh} (hs : I.Holds s) : I.After (execSlli d a sh s) := setG_keeps hs

theorem execSrli_keeps {d a sh} (hs : I.Holds s) : I.After (execSrli d a sh s) := setG_keeps hs

theorem execSrai_keeps {d a sh} (hs : I.Holds s) : I.After (execSrai d a sh s) := setG_keeps hs

theorem execLui_keeps {d imm} (hs : I.Holds s) : I.After (execLui d imm s) := setG_keeps hs

theorem execAuipc_keeps {d imm} (hs : I.Holds s) : I.After (execAuipc d imm s) := setG_keeps hs

theorem execLimm_keeps {d imm} (hs : I.Holds s) : I.After (execLimm d imm s) := setG_keeps hs

theorem execLimmH_keeps {d imm} (hs : I.Holds s) : I.After (execLimmH d imm s) := setG_keeps hs

theorem loadG_keeps {n zero d va} (hs : I.Holds s) : I.After (loadG n zero d va s) :=
  Access.finish_keeps (aligned_keeps hs (loadAs_keeps hs)) (fun _ _ h => State.modHart_keeps h)

theorem storeG_keeps {n d va} (hs : I.Holds s) : I.After (storeG n d va s) :=
  Access.finish_keeps (aligned_keeps hs (storeAs_keeps hs)) (fun _ _ h => State.modHart_keeps h)

theorem execLdb_keeps {d a off} (hs : I.Holds s) : I.After (execLdb d a off s) := loadG_keeps hs

theorem execLdh_keeps {d a off} (hs : I.Holds s) : I.After (execLdh d a off s) := loadG_keeps hs

theorem execLdw_keeps {d a off} (hs : I.Holds s) : I.After (execLdw d a off s) := loadG_keeps hs

theorem execLdd_keeps {d a off} (hs : I.Holds s) : I.After (execLdd d a off s) := loadG_keeps hs

theorem execLdbN_keeps {d a off} (hs : I.Holds s) : I.After (execLdbN d a off s) := loadG_keeps hs

theorem execLdhN_keeps {d a off} (hs : I.Holds s) : I.After (execLdhN d a off s) := loadG_keeps hs

theorem execLdwN_keeps {d a off} (hs : I.Holds s) : I.After (execLdwN d a off s) := loadG_keeps hs

theorem execLdaq_keeps {d a n sz x} (hs : I.Holds s) : I.After (execLdaq d a n sz x s) := loadG_keeps hs

theorem execStb_keeps {d a off} (hs : I.Holds s) : I.After (execStb d a off s) := storeG_keeps hs

theorem execSth_keeps {d a off} (hs : I.Holds s) : I.After (execSth d a off s) := storeG_keeps hs

theorem execStw_keeps {d a off} (hs : I.Holds s) : I.After (execStw d a off s) := storeG_keeps hs

theorem execStd_keeps {d a off} (hs : I.Holds s) : I.After (execStd d a off s) := storeG_keeps hs

theorem execStrel_keeps {d a sz x} (hs : I.Holds s) : I.After (execStrel d a sz x s) :=
  waitPerformed_keeps hs fun _ h => storeG_keeps h

theorem amoG_keeps {op d a b sz n} (hs : I.Holds s) : I.After (amoG op d a b sz n s) :=
  Access.finish_keeps (aligned_keeps hs (atomicAs_keeps hs)) (fun _ _ h => State.modHart_keeps h)

theorem amo_keeps {op d a b o sz n} (hs : I.Holds s) : I.After (amo op d a b o sz n s) :=
  after_ite (waitPerformed_keeps hs fun _ h => amoG_keeps h) (amoG_keeps hs)

theorem execAmoadd_keeps {d a b o x sz} (hs : I.Holds s) : I.After (execAmoadd d a b o x sz s) := amo_keeps hs

theorem execAmoand_keeps {d a b o x sz} (hs : I.Holds s) : I.After (execAmoand d a b o x sz s) := amo_keeps hs

theorem execAmoor_keeps {d a b o x sz} (hs : I.Holds s) : I.After (execAmoor d a b o x sz s) := amo_keeps hs

theorem execAmoxor_keeps {d a b o x sz} (hs : I.Holds s) : I.After (execAmoxor d a b o x sz s) := amo_keeps hs

theorem execAmomin_keeps {d a b o x sz n} (hs : I.Holds s) : I.After (execAmomin d a b o x sz n s) := amo_keeps hs

theorem execAmomax_keeps {d a b o x sz n} (hs : I.Holds s) : I.After (execAmomax d a b o x sz n s) := amo_keeps hs

theorem execAmoswp_keeps {d a b o x sz} (hs : I.Holds s) : I.After (execAmoswp d a b o x sz s) := amo_keeps hs

theorem execAmocas_keeps {d a b o x sz} (hs : I.Holds s) : I.After (execAmocas d a b o x sz s) := amo_keeps hs

theorem branch_keeps {c a b off} (hs : I.Holds s) : I.After (branch c a b off s) := State.modHart_keeps hs

theorem execBeq_keeps {a b off} (hs : I.Holds s) : I.After (execBeq a b off s) := branch_keeps hs

theorem execBne_keeps {a b off} (hs : I.Holds s) : I.After (execBne a b off s) := branch_keeps hs

theorem execBlt_keeps {a b off} (hs : I.Holds s) : I.After (execBlt a b off s) := branch_keeps hs

theorem execBge_keeps {a b off} (hs : I.Holds s) : I.After (execBge a b off s) := branch_keeps hs

theorem execBltn_keeps {a b off} (hs : I.Holds s) : I.After (execBltn a b off s) := branch_keeps hs

theorem execBgen_keeps {a b off} (hs : I.Holds s) : I.After (execBgen a b off s) := branch_keeps hs

theorem execJal_keeps {d imm} (hs : I.Holds s) : I.After (execJal d imm s) := State.modHart_keeps hs

theorem execJalr_keeps {d a imm} (hs : I.Holds s) : I.After (execJalr d a imm s) := by
  unfold execJalr
  dsimp only
  exact after_ite (takeTrap_keeps hs) (State.modHart_keeps hs)

/-! The functions of Sys2Proof/Machine/Batches.lean. -/

theorem sendBatch_keeps {i b} (hs : I.Holds s) : I.Holds (sendBatch s i b) := by
  unfold sendBatch
  extract_lets _ _ _ _ _ _ s₂
  have h₂ : I.Holds s₂ := holds_foldl (modHart_keeps hs) fun _ _ h => holds_ite (schedule_keeps h) h.frame
  exact holds_ite (schedule_keeps h₂) h₂

theorem sendReady_keeps {fuel i} (hs : I.Holds s) : I.Holds (sendReady fuel s i) := by
  induction fuel generalizing s with
  | zero => exact hs
  | succ fuel ih =>
    unfold sendReady
    dsimp only
    split
    · exact hs
    · split
      · exact hs
      · exact holds_ite hs (ih (sendBatch_keeps hs))

theorem sendWaiting_keeps {i} (hs : I.Holds s) : I.Holds (sendWaiting s i) := sendReady_keeps hs

theorem closeNow_keeps {i b} (hs : I.Holds s) : I.Holds (closeNow s i b) := sendWaiting_keeps (modHart_keeps hs)

theorem batchStall_keeps (hs : I.Holds s) : I.After (batchStall s) := State.modHart_keeps hs

theorem closeBatch_keeps {k} (hs : I.Holds s) (hk : ∀ s, I.Holds s → I.After (k s)) : I.After (closeBatch s k) := by
  unfold closeBatch
  split
  · exact hk _ hs
  · exact after_ite (batchStall_keeps hs) (hk _ (closeNow_keeps hs))

theorem waitBatches_keeps {n k} (hs : I.Holds s) (hk : ∀ s, I.Holds s → I.After (k s)) : I.After (waitBatches n s k) :=
  after_ite (hk _ (State.modHart_keeps hs)) (batchStall_keeps hs)

theorem reportFailures_keeps {k} (hs : I.Holds s) (hk : ∀ s, I.Holds s → I.After (k s)) : I.After (reportFailures s k) := by
  unfold reportFailures
  split
  · exact hk _ hs
  · exact takeTrap_keeps (State.modHart_keeps hs)

theorem appendOp_keeps {op k} (hs : I.Holds s) (hk : ∀ s, I.Holds s → I.After (k s)) : I.After (appendOp s op k) := by
  unfold appendOp
  dsimp only
  exact after_ite (hk _ (State.modHart_keeps hs)) (after_ite (batchStall_keeps hs) (hk _ (closeNow_keeps (State.modHart_keeps hs))))

theorem completeBatch_keeps {i id} (hs : I.Holds s) : I.Holds (completeBatch s i id) := by
  unfold completeBatch
  split
  · exact hs
  · exact holds_ite hs (sendWaiting_keeps (modHart_keeps hs))

theorem enterReplies_keeps {i id mine res intact} (hs : I.Holds s) : I.Holds (enterReplies s i id mine res intact) := by
  unfold enterReplies
  extract_lets s₁
  have h₁ : I.Holds s₁ := modHart_keeps hs
  split
  · exact holds_ite (schedule_keeps h₁) h₁
  · exact h₁

/-! The functions of Sys2Proof/Machine/ScalarFp.lean. -/

theorem fpResult_keeps {d g} (hs : I.Holds s) : I.After (fpResult d g s) := State.modHart_keeps hs

theorem execFadd_keeps {d a b f} (hs : I.Holds s) : I.After (execFadd d a b f s) := fpResult_keeps hs

theorem execFsub_keeps {d a b f} (hs : I.Holds s) : I.After (execFsub d a b f s) := fpResult_keeps hs

theorem execFmul_keeps {d a b f} (hs : I.Holds s) : I.After (execFmul d a b f s) := fpResult_keeps hs

theorem execFdiv_keeps {d a b f} (hs : I.Holds s) : I.After (execFdiv d a b f s) := fpResult_keeps hs

theorem execFsqrt_keeps {d a f} (hs : I.Holds s) : I.After (execFsqrt d a f s) := fpResult_keeps hs

theorem execFmin_keeps {d a b f} (hs : I.Holds s) : I.After (execFmin d a b f s) := fpResult_keeps hs

theorem execFmax_keeps {d a b f} (hs : I.Holds s) : I.After (execFmax d a b f s) := fpResult_keeps hs

theorem execFcmp_keeps {d a b f c} (hs : I.Holds s) : I.After (execFcmp d a b f c s) := fpResult_keeps hs

theorem execFcvtToFloat_keeps {d a f src} (hs : I.Holds s) : I.After (execFcvtToFloat d a f src s) := fpResult_keeps hs

theorem execFcvtToInteger_keeps {d a f dst} (hs : I.Holds s) : I.After (execFcvtToInteger d a f dst s) := fpResult_keeps hs

theorem execFclass_keeps {d a f} (hs : I.Holds s) : I.After (execFclass d a f s) := setG_keeps hs

theorem execFma_keeps {d a b c f} (hs : I.Holds s) : I.After (execFma d a b c f s) := fpResult_keeps hs

/-! The functions of Sys2Proof/Machine/Operands.lean. -/

theorem takeBound_keeps {e x g} (hs : I.Holds s) : I.Holds (resultState (takeBound s e x g)) := by
  unfold takeBound
  dsimp only
  split
  · exact holds_ite (setEngine_keeps hs) hs
  · exact setEngine_keeps hs

theorem consume_keeps {b} (hs : I.Holds s) : I.Holds (resultState (consume s b)) := by
  unfold consume
  split
  · exact hs
  · dsimp only
    split
    · exact State.setHart_keeps hs
    · exact resultState_map (takeBound_keeps hs) fun _ h => State.modHart_keeps h

/-! The functions of Sys2Proof/Machine/Issue.lean. -/

theorem setAcc_keeps {t c x} (hs : I.Holds s) : I.Holds (setAcc s t c x) := modTile_keeps hs

/-! The functions of Sys2Proof/Machine/VecArith.lean. -/

theorem putQueued_keeps {x n} (hs : I.Holds s) : I.Holds (putQueued x n s) := State.modHart_keeps (State.modTile_keeps hs)

theorem reserveQueue_keeps {q x} (hs : I.Holds s) : I.Holds (resultState (reserveQueue s q x)) := by
  unfold reserveQueue
  split
  · exact hs
  · split
    · exact hs
    · exact resultState_map (takeBound_keeps hs) fun _ h => h

theorem awaitRetirement_keeps (hs : I.Holds s) : I.After (awaitRetirement s) := schedule_keeps hs

theorem vecRun_keeps {i} (hs : I.Holds s) : I.After (vecRun i s) := by
  unfold vecRun
  split
  · exact takeTrap_keeps hs
  · dsimp only
    split
    · exact awaitRetirement_keeps hs
    · split
      · split
        · next e => exact (reserveQueue_keeps hs).result e
        · next e => exact putQueued_keeps ((reserveQueue_keeps hs).result e)
      · split
        · next e => exact (consume_keeps hs).result e
        · next e => exact State.modHart_keeps ((consume_keeps hs).result e)

theorem execVadd_keeps {d a b k} (hs : I.Holds s) : I.After (execVadd d a b k s) := vecRun_keeps hs

theorem execVsub_keeps {d a b k} (hs : I.Holds s) : I.After (execVsub d a b k s) := vecRun_keeps hs

theorem execVmul_keeps {d a b k} (hs : I.Holds s) : I.After (execVmul d a b k s) := vecRun_keeps hs

theorem execVmulh_keeps {d a b k} (hs : I.Holds s) : I.After (execVmulh d a b k s) := vecRun_keeps hs

theorem execVsll_keeps {d a b k} (hs : I.Holds s) : I.After (execVsll d a b k s) := vecRun_keeps hs

theorem execVsrl_keeps {d a b k} (hs : I.Holds s) : I.After (execVsrl d a b k s) := vecRun_keeps hs

theorem execVsra_keeps {d a b k} (hs : I.Holds s) : I.After (execVsra d a b k s) := vecRun_keeps hs

theorem execVmin_keeps {d a b k} (hs : I.Holds s) : I.After (execVmin d a b k s) := vecRun_keeps hs

theorem execVmax_keeps {d a b k} (hs : I.Holds s) : I.After (execVmax d a b k s) := vecRun_keeps hs

theorem execVminn_keeps {d a b k} (hs : I.Holds s) : I.After (execVminn d a b k s) := vecRun_keeps hs

theorem execVmaxn_keeps {d a b k} (hs : I.Holds s) : I.After (execVmaxn d a b k s) := vecRun_keeps hs

theorem execVsadd_keeps {d a b k} (hs : I.Holds s) : I.After (execVsadd d a b k s) := vecRun_keeps hs

theorem execVssub_keeps {d a b k} (hs : I.Holds s) : I.After (execVssub d a b k s) := vecRun_keeps hs

theorem execVmadd_keeps {d a b k} (hs : I.Holds s) : I.After (execVmadd d a b k s) := vecRun_keeps hs

theorem execVand_keeps {d a b k} (hs : I.Holds s) : I.After (execVand d a b k s) := vecRun_keeps hs

theorem execVor_keeps {d a b k} (hs : I.Holds s) : I.After (execVor d a b k s) := vecRun_keeps hs

theorem execVxor_keeps {d a b k} (hs : I.Holds s) : I.After (execVxor d a b k s) := vecRun_keeps hs

theorem execVcmpEq_keeps {d a b k} (hs : I.Holds s) : I.After (execVcmpEq d a b k s) := vecRun_keeps hs

theorem execVcmpNe_keeps {d a b k} (hs : I.Holds s) : I.After (execVcmpNe d a b k s) := vecRun_keeps hs

theorem execVcmpLt_keeps {d a b k} (hs : I.Holds s) : I.After (execVcmpLt d a b k s) := vecRun_keeps hs

theorem execVcmpGe_keeps {d a b k} (hs : I.Holds s) : I.After (execVcmpGe d a b k s) := vecRun_keeps hs

theorem execVcmpLtn_keeps {d a b k} (hs : I.Holds s) : I.After (execVcmpLtn d a b k s) := vecRun_keeps hs

theorem execVcmpGen_keeps {d a b k} (hs : I.Holds s) : I.After (execVcmpGen d a b k s) := vecRun_keeps hs

theorem execVmerge_keeps {d a b k} (hs : I.Holds s) : I.After (execVmerge d a b k s) := vecRun_keeps hs

theorem execVmv_keeps {d b k} (hs : I.Holds s) : I.After (execVmv d b k s) := vecRun_keeps hs

theorem execVfadd_keeps {d a b k} (hs : I.Holds s) : I.After (execVfadd d a b k s) := vecRun_keeps hs

theorem execVfsub_keeps {d a b k} (hs : I.Holds s) : I.After (execVfsub d a b k s) := vecRun_keeps hs

theorem execVfmul_keeps {d a b k} (hs : I.Holds s) : I.After (execVfmul d a b k s) := vecRun_keeps hs

theorem execVfmin_keeps {d a b k} (hs : I.Holds s) : I.After (execVfmin d a b k s) := vecRun_keeps hs

theorem execVfmax_keeps {d a b k} (hs : I.Holds s) : I.After (execVfmax d a b k s) := vecRun_keeps hs

theorem execVfdiv_keeps {d a b k} (hs : I.Holds s) : I.After (execVfdiv d a b k s) := vecRun_keeps hs

theorem execVfsqrt_keeps {d b k} (hs : I.Holds s) : I.After (execVfsqrt d b k s) := vecRun_keeps hs

theorem execVfcmpEq_keeps {d a b k} (hs : I.Holds s) : I.After (execVfcmpEq d a b k s) := vecRun_keeps hs

theorem execVfcmpNe_keeps {d a b k} (hs : I.Holds s) : I.After (execVfcmpNe d a b k s) := vecRun_keeps hs

theorem execVfcmpLt_keeps {d a b k} (hs : I.Holds s) : I.After (execVfcmpLt d a b k s) := vecRun_keeps hs

theorem execVfcmpLe_keeps {d a b k} (hs : I.Holds s) : I.After (execVfcmpLe d a b k s) := vecRun_keeps hs

theorem execVfexp2_keeps {d b k} (hs : I.Holds s) : I.After (execVfexp2 d b k s) := vecRun_keeps hs

theorem execVfrcp_keeps {d b k} (hs : I.Holds s) : I.After (execVfrcp d b k s) := vecRun_keeps hs

theorem execVfrsq_keeps {d b k} (hs : I.Holds s) : I.After (execVfrsq d b k s) := vecRun_keeps hs

theorem execVfma_keeps {d a b k} (hs : I.Holds s) : I.After (execVfma d a b k s) := vecRun_keeps hs

theorem execVfnma_keeps {d a b k} (hs : I.Holds s) : I.After (execVfnma d a b k s) := vecRun_keeps hs

theorem execVfcvt_keeps {d src b k} (hs : I.Holds s) : I.After (execVfcvt d src b k s) := vecRun_keeps hs

theorem execKand_keeps {d a b} (hs : I.Holds s) : I.After (execKand d a b s) := vecRun_keeps hs

theorem execKor_keeps {d a b} (hs : I.Holds s) : I.After (execKor d a b s) := vecRun_keeps hs

theorem execKxor_keeps {d a b} (hs : I.Holds s) : I.After (execKxor d a b s) := vecRun_keeps hs

theorem execKnot_keeps {d b} (hs : I.Holds s) : I.After (execKnot d b s) := vecRun_keeps hs

theorem execKpopc_keeps {d a b} (hs : I.Holds s) : I.After (execKpopc d a b s) := vecRun_keeps hs

theorem execKfirst_keeps {d a b} (hs : I.Holds s) : I.After (execKfirst d a b s) := vecRun_keeps hs

theorem execKmov_keeps {d b} (hs : I.Holds s) : I.After (execKmov d b s) := vecRun_keeps hs

theorem execVredsum_keeps {d a b k} (hs : I.Holds s) : I.After (execVredsum d a b k s) := vecRun_keeps hs

theorem execVredmax_keeps {d a b k} (hs : I.Holds s) : I.After (execVredmax d a b k s) := vecRun_keeps hs

theorem execVredmin_keeps {d a b k} (hs : I.Holds s) : I.After (execVredmin d a b k s) := vecRun_keeps hs

theorem execVfredsum_keeps {d a b k} (hs : I.Holds s) : I.After (execVfredsum d a b k s) := vecRun_keeps hs

theorem execVfredo_keeps {d a b k} (hs : I.Holds s) : I.After (execVfredo d a b k s) := vecRun_keeps hs

theorem execVslideup_keeps {d a b k} (hs : I.Holds s) : I.After (execVslideup d a b k s) := vecRun_keeps hs

theorem execVslidedn_keeps {d a b k} (hs : I.Holds s) : I.After (execVslidedn d a b k s) := vecRun_keeps hs

theorem execVperm_keeps {d a b k} (hs : I.Holds s) : I.After (execVperm d a b k s) := vecRun_keeps hs

theorem execVcompress_keeps {d b k} (hs : I.Holds s) : I.After (execVcompress d b k s) := vecRun_keeps hs

theorem execVexpand_keeps {d b k} (hs : I.Holds s) : I.After (execVexpand d b k s) := vecRun_keeps hs

theorem execViota_keeps {d b k} (hs : I.Holds s) : I.After (execViota d b k s) := vecRun_keeps hs

theorem execVbcast_keeps {d b k} (hs : I.Holds s) : I.After (execVbcast d b k s) := vecRun_keeps hs

theorem execVextr_keeps {d a b} (hs : I.Holds s) : I.After (execVextr d a b s) := vecRun_keeps hs

theorem execVins_keeps {d a b k} (hs : I.Holds s) : I.After (execVins d a b k s) := vecRun_keeps hs

/-! The functions of Sys2Proof/Machine/VecConfig.lean. -/

theorem setVl_keeps {d req t ok} (hs : I.Holds s) : I.After (setVl d req t ok s) := by
  unfold setVl
  extract_lets _ _ _ _ _ _ _ _ _ _ _ _ _ _ s₂
  have h₂ : I.After s₂ := State.modHart_keeps (State.modTile_keeps hs)
  exact after_ite (waitVq_keeps hs h₂) h₂

theorem execSetvl_keeps {d a b} (hs : I.Holds s) : I.After (execSetvl d a b s) := by
  unfold execSetvl
  split
  · exact takeTrap_keeps hs
  · exact setVl_keeps hs

theorem execSetvli_keeps {d a fmt grp sc} (hs : I.Holds s) : I.After (execSetvli d a fmt grp sc s) := by
  unfold execSetvli
  split
  · exact takeTrap_keeps hs
  · exact setVl_keeps hs

theorem execLpreq_keeps {d a} (hs : I.Holds s) : I.After (execLpreq d a s) := State.modHart_keeps (State.modHart_keeps hs)

/-! The functions of Sys2Proof/Machine/VecMem.lean. -/

theorem walkElems_keeps {β : Type} {one : List β → Nat → State → Access β} {l acc}
    (h₁ : ∀ acc i s, I.Holds s → I.Holds (one acc i s).state) (hs : I.Holds s) : I.Holds (walkElems one l acc s).st := by
  induction l generalizing acc s with
  | nil => exact hs
  | cons i t ih =>
    unfold walkElems
    split
    · next e => exact ih ((h₁ _ _ _ hs).access e)
    · next e => exact (h₁ _ _ _ hs).access e
    · next e => exact (h₁ _ _ _ hs).access e

theorem endElems_keeps {stop pos n} (hs : I.Holds s) : I.Holds (endElems stop pos n s).state := by
  unfold endElems
  dsimp only
  split
  · exact State.modHart_keeps hs
  · exact State.modHart_keeps hs
  · exact State.modHart_keeps hs

theorem Ended.out_keeps {i x} (hs : I.Holds x.state) : I.After (Ended.out i x) := by
  unfold Ended.out
  split
  · exact State.modHart_keeps hs
  · exact takeTrap_keeps hs
  · exact takeTrap_keeps hs
  · exact holds_ite hs (State.modHart_keeps hs)

theorem configure_keeps {t} (hs : I.Holds s) : I.Holds (configure s t) := State.modTile_keeps hs

theorem vecMemRun_keeps {core i} (hk : ∀ a s, I.Holds s → I.Holds (core a s).state) (hs : I.Holds s) : I.After (vecMemRun core i s) := by
  unfold vecMemRun
  split
  · exact takeTrap_keeps hs
  · split
    · exact waitVq_keeps hs (Ended.out_keeps (hk _ _ hs))
    · exact after_ite (awaitRetirement_keeps hs) (putQueued_keeps (configure_keeps hs))

theorem readElem_keeps {w ad i} (hs : I.Holds s) : I.Holds (readElem w ad i s).state :=
  Access.bind_keeps (aligned_keeps hs (loadAs_keeps hs)) (fun _ _ h => h)

theorem loadElem_keeps {h sc w ad x i} (hs : I.Holds s) : I.Holds (loadElem h sc w ad x i s).state :=
  Access.bind_keeps (readElem_keeps hs) (fun _ _ h => holds_ite h.frame h)

theorem plainLoad_keeps {sc d ad k n} (hs : I.Holds s) : I.Holds (plainLoad sc d ad k n s).state :=
  endElems_keeps (State.modHart_keeps (walkElems_keeps (fun _ _ _ h => loadElem_keeps h) hs))

theorem readScale_keeps {va} (hs : I.Holds s) : I.Holds (readScale va s).state := by
  have h : ∀ {a k n va}, I.Holds (loadAs a k n va s).state := loadAs_keeps hs
  unfold readScale
  dsimp only
  split
  · next e _ => exact holds_apply_ite Access.state (markLeaf_keeps (h.access e)) (h.access e)
  · exact h

theorem elemPair_keeps {α β : Type} {p : State → Access α} {q : α → State → Access β}
    (hp : ∀ s, I.Holds s → I.Holds (p s).state) (hq : ∀ a s, I.Holds s → I.Holds (q a s).state) (hs : I.Holds s) :
    I.Holds (elemPair p q s).state := by
  refine Access.bind_keeps (hp s hs) fun x t ht => ?_
  split
  · next e => exact (hq x t ht).access e
  · exact hq x s hs
  · exact hq x s hs

theorem packedElem_keeps {h t len base acc i} (hs : I.Holds s) : I.Holds (packedElem h t len base acc i s).state := by
  unfold packedElem
  refine elemPair_keeps (fun _ h => ?_) (fun _ _ h => Access.bind_keeps (readElem_keeps h) fun _ _ h' => h') hs
  split
  · exact holds_apply_ite Access.state h (readScale_keeps h)
  · exact readScale_keeps h

theorem packedLoad_keeps {t len d base k} (hs : I.Holds s) : I.Holds (packedLoad t len d base k s).state :=
  endElems_keeps (State.modHart_keeps (walkElems_keeps (fun _ _ _ h => packedElem_keeps h) hs))

theorem unitLoad_keeps {d a off k} (hs : I.Holds s) : I.Holds (unitLoad d a off k s).state := by
  unfold unitLoad
  dsimp only
  split
  · exact packedLoad_keeps hs
  · exact plainLoad_keeps hs

theorem onceWritten_keeps {k} (hs : I.Holds s) (hk : ∀ s, I.Holds s → I.Holds (k s).state) : I.Holds (onceWritten s k).state :=
  holds_apply_ite Ended.state (hk _ hs) hs

theorem storeElem_keeps {before w va nib x fl} (hs : I.Holds s) : I.Holds (storeElem before w va nib x fl s).state := by
  unfold storeElem
  refine aligned_keeps hs (Access.bind_keeps (storeProbe_keeps hs) fun _ _ h => ?_)
  split
  · exact h
  · exact holds_apply_ite Access.state h h

theorem acceptCells_keeps {ty cells} (hs : I.Holds s) : I.Holds (acceptCells s ty cells) := holds_ite hs (acceptWrite_keeps hs)

theorem holdCells_keeps {ty r cells} (hs : I.Holds s) : I.Holds (holdCells s ty r cells) :=
  holds_foldl hs fun _ _ h => acceptWrite_keeps h

theorem putNibble_keeps {pa hi x hold} (hs : I.Holds s) : I.Holds (putNibble s pa hi x hold) := by
  unfold putNibble
  dsimp only
  split
  · exact holdAction_keeps hs
  · exact performAction_keeps (flushLine_keeps hs)

theorem commitUnit_keeps {l} (hs : I.Holds s) : I.Holds (commitUnit l s) := by
  unfold commitUnit
  extract_lets _ s₁ _ _ _
  have h₁ : I.Holds s₁ := by
    refine holds_foldl hs fun _ _ h => ?_
    split
    · exact putNibble_keeps h
    · exact h
  exact acceptCells_keeps (acceptCells_keeps (holds_foldl h₁ fun _ _ h => holdCells_keeps h))

theorem commitEach_keeps {l} (hs : I.Holds s) : I.Holds (commitEach l s) := holds_foldl hs fun _ _ h => commitUnit_keeps h

theorem endStore_keeps {unit n r} (hs : I.Holds r.st) : I.Holds (endStore unit n r).state :=
  endElems_keeps (State.modHart_keeps (holds_ite (commitUnit_keeps hs) (commitEach_keeps hs)))

theorem plainStore_keeps {unit d ad k n} (hs : I.Holds s) : I.Holds (plainStore unit d ad k n s).state :=
  endStore_keeps (walkElems_keeps (fun _ _ _ h => storeElem_keeps h) hs)

theorem storeElemSc_keeps {h d ad x i} (hs : I.Holds s) : I.Holds (storeElemSc h d ad x i s).state :=
  aligned_keeps hs (Access.bind_keeps (storeProbe_keeps hs) fun _ _ h => holds_apply_ite Access.state h (performAction_keeps h).frame)

theorem packedStoreElem_keeps {h t len d base k acc i} (hs : I.Holds s) : I.Holds (packedStoreElem h t len d base k acc i s).state :=
  have elem : ∀ {n w ad c b f} {g : StoreElem → Nat × StoreElem} {s}, I.Holds s →
      I.Holds ((storeElem n w ad c b f s).bind fun x s => .ok (g x) s).state :=
    fun h => Access.bind_keeps (storeElem_keeps h) fun _ _ h => h
  holds_apply_ite Access.state (elem hs) (elemPair_keeps (fun _ h => storeElem_keeps h) (fun _ _ h => elem h) hs)

theorem packedStore_keeps {t len d base k} (hs : I.Holds s) : I.Holds (packedStore t len d base k s).state :=
  endStore_keeps (walkElems_keeps (fun _ _ _ h => packedStoreElem_keeps h) hs)

theorem fetchBlock_keeps {ctab start fuel left got} (hs : I.Holds s) : I.Holds (fetchBlock ctab start fuel left got s).state := by
  induction fuel generalizing left got s with
  | zero => exact hs
  | succ fuel ih =>
    unfold fetchBlock
    split
    · exact hs
    · exact hs
    · split
      · exact hs
      · exact Access.bind_keeps (loadAs_keeps hs) fun _ _ h => ih h

theorem unpackLoop_keeps {h ctab start bound k fuel u} (hs : I.Holds s) : I.Holds (unpackLoop h ctab start bound k fuel u s).2.2 := by
  induction fuel generalizing u s with
  | zero => exact hs
  | succ fuel ih =>
    unfold unpackLoop
    split
    · exact hs
    · dsimp only
      split
      · next e => exact TableInvariant.Holds.memOf ((fetchBlock_keeps hs).access e) hs
      · next e => exact ih ((fetchBlock_keeps hs).access e)
      · next e => exact TableInvariant.Holds.memOf ((fetchBlock_keeps hs).access e) hs
      · next e => exact (fetchBlock_keeps hs).access e

theorem endStream_keeps {stop vl p res} (hs : I.Holds s) : I.Holds (endStream stop vl p res s).state := by
  unfold endStream
  split
  · exact State.modHart_keeps hs
  · exact State.modHart_keeps hs
  · exact hs

theorem probeBytes_keeps {va l} (hs : I.Holds s) : I.Holds (probeBytes va l s).state := by
  induction l generalizing va s with
  | nil => exact hs
  | cons b t ih => exact Access.bind_keeps (storeProbe_keeps hs) fun _ _ h => Access.bind_keeps (ih h) fun _ _ h => h

theorem writeProbed_keeps {l} (hs : I.Holds s) : I.Holds (writeProbed l s) :=
  acceptCells_keeps (acceptCells_keeps (holds_foldl hs fun _ _ h => holdCells_keeps h))

theorem packLoop_keeps {h ctab d start bound k fuel pos blocks fl} (hs : I.Holds s) :
    I.Holds (packLoop h ctab d start bound k fuel pos blocks fl s).2.2 := by
  induction fuel generalizing pos blocks fl s with
  | zero => exact hs
  | succ fuel ih =>
    unfold packLoop
    dsimp only
    split
    · exact hs
    · split
      · exact hs
      · split
        · next e => exact ih (writeProbed_keeps ((probeBytes_keeps hs).access e))
        · exact hs
        · next e => exact (probeBytes_keeps hs).access e

theorem vamo_keeps {op d a b k} (hs : I.Holds s) : I.Holds (vamo op d a b k s).state :=
  endElems_keeps (State.modHart_keeps (walkElems_keeps (fun _ _ _ h => Access.bind_keeps (aligned_keeps h (atomicAs_keeps h)) fun _ _ h' =>
      h') hs))

theorem postElem_keeps {op uns n va x} (hs : I.Holds s) : I.Holds (postElem op uns n va x s).state := by
  unfold postElem
  refine aligned_keeps hs (Access.bind_keeps (storeProbe_keeps hs) fun _ _ h => ?_)
  split
  · exact holds_apply_ite Access.state h (holdAction_keeps h)
  · exact Access.bind_keeps (atomicAs_keeps hs) fun _ _ h' => h'

theorem vpost_keeps {op a b k} (hs : I.Holds s) : I.Holds (vpost op a b k s).state :=
  endElems_keeps (walkElems_keeps (fun _ _ _ h => postElem_keeps h) hs)

theorem cappMeet_keeps {pa write k} (hs : I.Holds s) (hk : ∀ s, I.Holds s → I.Holds (k s).state) :
    I.Holds (cappMeet pa write s k).state := by
  unfold cappMeet
  split
  · next e => exact State.modHart_keeps ((meetAt_keeps hs).snd e)
  · next e => exact hk _ ((meetAt_keeps hs).snd e)

theorem cappPublish_keeps {pa old n} (hs : I.Holds s) : I.Holds (cappPublish pa old n s).state :=
  cappMeet_keeps hs fun _ h => State.modHart_keeps (performWrite_keeps h)

theorem cappWait_keeps {pa old n} (hs : I.Holds s) : I.Holds (cappWait pa old n s).state :=
  cappMeet_keeps hs fun _ h => holds_apply_ite Ended.state (cappPublish_keeps h) (State.modHart_keeps h)

theorem cappAt_keeps {i a els va pa entry} (hs : I.Holds s) : I.Holds (cappAt i a els va pa entry s).state := by
  unfold cappAt
  extract_lets
  split
  · exact hs
  · exact cutResvs_keeps hs
  · split
    · exact refuseLines_keeps hs
    · split
      · exact consumeBad_keeps hs
      · split
        · exact hs
        · extract_lets
          exact cappWait_keeps (performWrite_keeps (performWrite_keeps (holds_foldl (markLeaf_keeps (completeLines_keeps
              (cutResvs_keeps hs))) fun _ _ h => flushLine_keeps h)))

theorem memCore_keeps {x} (hs : I.Holds s) : I.Holds (memCore x s).state := by
  unfold memCore
  split
  · exact unitLoad_keeps hs
  · exact onceWritten_keeps hs fun _ h => plainLoad_keeps h
  · exact plainLoad_keeps hs
  · exact plainLoad_keeps hs
  · exact unitLoad_keeps hs
  · exact plainLoad_keeps hs
  · exact plainLoad_keeps hs
  · exact plainLoad_keeps hs
  · split
    · exact packedStore_keeps hs
    · exact plainStore_keeps hs
  · exact onceWritten_keeps hs fun _ h => endElems_keeps (State.modHart_keeps (walkElems_keeps (fun _ _ _ h' => storeElemSc_keeps h') h))
  · exact plainStore_keeps hs
  · exact plainStore_keeps hs
  · exact plainStore_keeps hs
  · extract_lets
    split
    · next e =>
      have ht := (unpackLoop_keeps hs).trd e
      refine endStream_keeps ?_
      split
      · exact ht
      · exact State.modHart_keeps ht
  · extract_lets
    split
    · next e =>
      extract_lets s₁ s₂
      have h₁ : I.Holds s₁ := State.modHart_keeps ((packLoop_keeps hs).trd e)
      have h₂ : I.Holds s₂ := by
        unfold s₂
        split
        · exact holds_ite h₁ (State.modHart_keeps h₁)
        · exact h₁
        · exact h₁
      exact endStream_keeps h₂
  · exact endStore_keeps (walkElems_keeps (fun _ _ _ h => elemPair_keeps (fun _ h' => readElem_keeps h') (fun _ _ h' =>
        storeElem_keeps h') h) hs)
  · exact endStore_keeps (walkElems_keeps (fun _ _ _ h => storeElem_keeps h) hs)
  · dsimp only
    split
    · exact cappWait_keeps hs
    · split
      · exact State.modHart_keeps hs
      · split
        · exact hs
        · split
          · exact Actor.faulted_keeps hs
          · exact holds_apply_ite Ended.state hs (cappAt_keeps hs)
  · exact vamo_keeps hs
  · exact vamo_keeps hs
  · exact vamo_keeps hs
  · exact vamo_keeps hs
  · exact vamo_keeps hs
  · exact vamo_keeps hs
  · exact vamo_keeps hs
  · exact vpost_keeps hs
  · exact vpost_keeps hs
  · exact vpost_keeps hs
  · exact vpost_keeps hs
  · exact vpost_keeps hs
  · exact vpost_keeps hs
  · exact vpost_keeps hs
  · exact hs

theorem memRun_keeps {i} (hs : I.Holds s) : I.After (vecMemRun memCore i s) := vecMemRun_keeps (fun _ _ h => memCore_keeps h) hs

theorem execVld_keeps {d a off k} (hs : I.Holds s) : I.After (execVld d a off k s) := memRun_keeps hs

theorem execVldSc_keeps {d a off k} (hs : I.Holds s) : I.After (execVldSc d a off k s) := memRun_keeps hs

theorem execVlds_keeps {d a b k} (hs : I.Holds s) : I.After (execVlds d a b k s) := memRun_keeps hs

theorem execVldx_keeps {d a b k} (hs : I.Holds s) : I.After (execVldx d a b k s) := memRun_keeps hs

theorem execVldq_keeps {q a off k} (hs : I.Holds s) : I.After (execVldq q a off k s) := memRun_keeps hs

theorem execVldqStrided_keeps {q a b k} (hs : I.Holds s) : I.After (execVldqStrided q a b k s) := memRun_keeps hs

theorem execVldqIndexed_keeps {q a b k} (hs : I.Holds s) : I.After (execVldqIndexed q a b k s) := memRun_keeps hs

theorem execVldsImmediate_keeps {d a k stride} (hs : I.Holds s) : I.After (execVldsImmediate d a k stride s) := memRun_keeps hs

theorem execVst_keeps {d a off k} (hs : I.Holds s) : I.After (execVst d a off k s) := memRun_keeps hs

theorem execVstSc_keeps {d a off k} (hs : I.Holds s) : I.After (execVstSc d a off k s) := memRun_keeps hs

theorem execVsts_keeps {d a b k} (hs : I.Holds s) : I.After (execVsts d a b k s) := memRun_keeps hs

theorem execVstx_keeps {d a b k} (hs : I.Holds s) : I.After (execVstx d a b k s) := memRun_keeps hs

theorem execVstsImmediate_keeps {d a k stride} (hs : I.Holds s) : I.After (execVstsImmediate d a k stride s) := memRun_keeps hs

theorem execVldz_keeps {d a p k off} (hs : I.Holds s) : I.After (execVldz d a p k off s) := memRun_keeps hs

theorem execVstz_keeps {d a p k off} (hs : I.Holds s) : I.After (execVstz d a p k off s) := memRun_keeps hs

theorem execVcopy_keeps {d a k} (hs : I.Holds s) : I.After (execVcopy d a k s) := memRun_keeps hs

theorem execVfill_keeps {d p k} (hs : I.Holds s) : I.After (execVfill d p k s) := memRun_keeps hs

theorem execVcapp_keeps {a k} (hs : I.Holds s) : I.After (execVcapp a k s) := memRun_keeps hs

theorem execVamoadd_keeps {d a b k} (hs : I.Holds s) : I.After (execVamoadd d a b k s) := memRun_keeps hs

theorem execVamoand_keeps {d a b k} (hs : I.Holds s) : I.After (execVamoand d a b k s) := memRun_keeps hs

theorem execVamoor_keeps {d a b k} (hs : I.Holds s) : I.After (execVamoor d a b k s) := memRun_keeps hs

theorem execVamoxor_keeps {d a b k} (hs : I.Holds s) : I.After (execVamoxor d a b k s) := memRun_keeps hs

theorem execVamomin_keeps {d a b k} (hs : I.Holds s) : I.After (execVamomin d a b k s) := memRun_keeps hs

theorem execVamomax_keeps {d a b k} (hs : I.Holds s) : I.After (execVamomax d a b k s) := memRun_keeps hs

theorem execVamoswp_keeps {d a b k} (hs : I.Holds s) : I.After (execVamoswp d a b k s) := memRun_keeps hs

theorem execVpostadd_keeps {a b k} (hs : I.Holds s) : I.After (execVpostadd a b k s) := memRun_keeps hs

theorem execVpostand_keeps {a b k} (hs : I.Holds s) : I.After (execVpostand a b k s) := memRun_keeps hs

theorem execVpostor_keeps {a b k} (hs : I.Holds s) : I.After (execVpostor a b k s) := memRun_keeps hs

theorem execVpostxor_keeps {a b k} (hs : I.Holds s) : I.After (execVpostxor a b k s) := memRun_keeps hs

theorem execVpostmin_keeps {a b k} (hs : I.Holds s) : I.After (execVpostmin a b k s) := memRun_keeps hs

theorem execVpostmax_keeps {a b k} (hs : I.Holds s) : I.After (execVpostmax a b k s) := memRun_keeps hs

theorem execVpostswp_keeps {a b k} (hs : I.Holds s) : I.After (execVpostswp a b k s) := memRun_keeps hs

/-! The functions of Sys2Proof/Machine/Remote.lean. -/

theorem dropSync_keeps {id} (hs : I.Holds s) : I.Holds (dropSync s id) := sendWaiting_keeps (State.modHart_keeps hs)

theorem syncRemote_keeps {ops stop finish} (hk : ∀ a b s, I.Holds s → I.After (finish a b s)) (hs : I.Holds s) :
    I.After (syncRemote ops stop finish s) := by
  unfold syncRemote
  split
  · split
    · exact after_ite (hk _ _ _ (dropSync_keeps hs)) hs
    · exact hk _ _ _ (dropSync_keeps hs)
  · exact closeBatch_keeps hs fun _ h => reportFailures_keeps h fun _ h' => after_ite (hk _ _ _ h') (after_ite (batchStall_keeps h')
        (closeNow_keeps (State.modHart_keeps h')))

theorem finishScalar_keeps {n d st ops} (hs : I.Holds s) : I.After (finishScalar n d st ops s) := by
  unfold finishScalar
  split
  · exact hs
  · dsimp only
    split
    · exact State.modHart_keeps hs
    · exact after_ite (State.modHart_keeps hs) (takeTrap_keeps hs)

theorem scalarRemote_keeps {kind n batched d st a p off} (hs : I.Holds s) : I.After (scalarRemote kind n batched d st a p off s) := by
  unfold scalarRemote
  dsimp only
  split
  · exact takeTrap_keeps hs
  · exact after_ite (appendOp_keeps hs fun _ h => State.modHart_keeps h) (syncRemote_keeps (fun _ _ _ h => finishScalar_keeps h) hs)

theorem execRld_keeps {d a p sz st off} (hs : I.Holds s) : I.After (execRld d a p sz st off s) := scalarRemote_keeps hs

theorem execRst_keeps {c a p sz st off} (hs : I.Holds s) : I.After (execRst c a p sz st off s) := scalarRemote_keeps hs

theorem ramo_keeps {op d c a p sz st off} (hs : I.Holds s) : I.After (ramo op d c a p sz st off s) := scalarRemote_keeps hs

theorem execRamoadd_keeps {d c a p sz st off} (hs : I.Holds s) : I.After (execRamoadd d c a p sz st off s) := ramo_keeps hs

theorem execRamoand_keeps {d c a p sz st off} (hs : I.Holds s) : I.After (execRamoand d c a p sz st off s) := ramo_keeps hs

theorem execRamoor_keeps {d c a p sz st off} (hs : I.Holds s) : I.After (execRamoor d c a p sz st off s) := ramo_keeps hs

theorem execRamoxor_keeps {d c a p sz st off} (hs : I.Holds s) : I.After (execRamoxor d c a p sz st off s) := ramo_keeps hs

theorem execRamomin_keeps {d c a p sz st off} (hs : I.Holds s) : I.After (execRamomin d c a p sz st off s) := ramo_keeps hs

theorem execRamomax_keeps {d c a p sz st off} (hs : I.Holds s) : I.After (execRamomax d c a p sz st off s) := ramo_keeps hs

theorem execRamoswp_keeps {d c a p sz st off} (hs : I.Holds s) : I.After (execRamoswp d c a p sz st off s) := ramo_keeps hs

theorem execRamocas_keeps {d c a p sz st off} (hs : I.Holds s) : I.After (execRamocas d c a p sz st off s) := ramo_keeps hs

theorem execRfence_keeps (hs : I.Holds s) : I.After (execRfence s) :=
  waitPerformed_keeps hs fun _ h => closeBatch_keeps h fun _ h' => waitBatches_keeps h' fun _ h'' => reportFailures_keeps h'' fun _ h''' =>
      State.modHart_keeps h'''

theorem execRbatch_keeps (hs : I.Holds s) : I.After (execRbatch s) := closeBatch_keeps hs fun _ h => State.modHart_keeps h

theorem execRwait_keeps {n} (hs : I.Holds s) : I.After (execRwait n s) :=
  closeBatch_keeps hs fun _ h => waitBatches_keeps h fun _ h' => reportFailures_keeps h' fun _ h'' => State.modHart_keeps h''

theorem finishVector_keeps {d st ops stop} (hs : I.Holds s) : I.After (finishVector d st ops stop s) := by
  unfold finishVector
  extract_lets _ s₁ _
  have h₁ : I.Holds s₁ := State.modHart_keeps hs
  split
  · exact takeTrap_keeps (State.modHart_keeps h₁)
  · split
    · exact takeTrap_keeps (State.modHart_keeps h₁)
    · exact State.modHart_keeps (State.modHart_keeps h₁)

theorem vectorRemote_keeps {i kind off checked d p k st} (hs : I.Holds s) : I.After (vectorRemote i kind off checked d p k st s) := by
  unfold vectorRemote
  split
  · exact takeTrap_keeps hs
  · exact waitVq_keeps hs (syncRemote_keeps (fun _ _ _ h => finishVector_keeps h) hs)

theorem execRldx_keeps {d a p k st} (hs : I.Holds s) : I.After (execRldx d a p k st s) := vectorRemote_keeps hs

theorem execRstx_keeps {d a p k st} (hs : I.Holds s) : I.After (execRstx d a p k st s) := vectorRemote_keeps hs

theorem execRapp_keeps {d a p k st} (hs : I.Holds s) : I.After (execRapp d a p k st s) := vectorRemote_keeps hs

theorem OpEnd.fail_keeps {code} (hs : I.Holds s) : I.Holds (OpEnd.fail code s).state := hs

theorem remoteAccess_keeps {v k off n reads f} (hs : I.Holds s) (hk : ∀ a s, I.Holds s → I.Holds (f a s).state) :
    I.Holds (remoteAccess s v k off n reads f).state := by
  unfold remoteAccess
  split
  · next e => exact OpEnd.fail_keeps ((heapAddr_keeps hs).snd e)
  · next e =>
    have ht := (heapAddr_keeps hs).snd e
    extract_lets
    split
    · exact OpEnd.fail_keeps ht
    · exact cutResvs_keeps ht
    · split
      · exact refuseLines_keeps ht
      · extract_lets s₁
        have h₁ : I.Holds s₁ := completeLines_keeps (cutResvs_keeps ht)
        exact holds_apply_ite OpEnd.state (OpEnd.fail_keeps h₁) (hk _ _ h₁)

theorem appendElem_keeps {v src off i x} (hs : I.Holds s) : I.Holds (appendElem s v src off i x).state := by
  unfold appendElem
  split
  · exact OpEnd.fail_keeps hs
  · exact remoteAccess_keeps hs fun _ _ h => holds_apply_ite OpEnd.state (OpEnd.fail_keeps h) (holds_apply_ite OpEnd.state
        (OpEnd.fail_keeps h) (holds_apply_ite OpEnd.state h (remoteAccess_keeps h fun _ _ h' => performWrite_keeps (performWrite_keeps
        (performWrite_keeps h')))))

theorem performOp_keeps {v src o} (hs : I.Holds s) : I.Holds (performOp s v src o).state := by
  unfold performOp
  split
  · exact remoteAccess_keeps hs fun _ _ h => h
  · exact remoteAccess_keeps hs fun _ _ h => performWrite_keeps h
  · refine remoteAccess_keeps hs fun _ _ h => ?_
    dsimp only
    split
    · exact performWrite_keeps h
    · exact h
  · exact appendElem_keeps hs
  · exact remoteAccess_keeps hs fun _ _ h => holds_apply_ite OpEnd.state (OpEnd.fail_keeps h) (barrierArrive_keeps h)

theorem scribble_keeps {n a} (hs : I.Holds s) : I.Holds (scribble s n a) := by
  induction n generalizing s a with
  | zero => exact hs
  | succ n ih => exact ih (performWrite_keeps hs).frame

theorem spoilOp_keeps {old v before o} (hs1 : I.Holds s) : I.Holds (spoilOp old s v before o).state := by
  unfold spoilOp
  extract_lets
  split
  · exact remoteAccess_keeps hs1 fun _ _ h => scribble_keeps h
  · exact remoteAccess_keeps hs1 fun _ _ h => scribble_keeps h
  · exact remoteAccess_keeps hs1 fun _ _ h => scribble_keeps h
  · split
    · exact hs1
    · exact remoteAccess_keeps hs1 fun _ _ h => holds_apply_ite OpEnd.state (scribble_keeps h) (remoteAccess_keeps
          (scribble_keeps h) fun _ _ h' => scribble_keeps h')
  · exact remoteAccess_keeps hs1 fun _ _ h => barrierArrive_keeps h

theorem spoilOps_keeps {old v before l} (hs : I.Holds s) : I.Holds (spoilOps old v before l s).state := by
  induction l generalizing before s with
  | nil => exact hs
  | cons o t ih =>
    unfold spoilOps
    split
    · next e => exact (spoilOp_keeps hs).opEnd e
    · next e => exact ih ((spoilOp_keeps hs).opEnd e)

theorem performOps_keeps {v src l} (hs : I.Holds s) : I.Holds (performOps v src l s).st := by
  induction l generalizing s with
  | nil => exact hs
  | cons o t ih =>
    unfold performOps
    split
    · next e => exact (performOp_keeps hs).opEnd e
    · next e => exact ih ((performOp_keeps hs).opEnd e)

theorem replyTo_keeps {b rs} (hs : I.Holds s) : I.Holds (replyTo s b rs) := holds_ite (schedule_keeps hs) hs.frame

theorem answerAll_keeps {b code} (hs : I.Holds s) : I.Holds (answerAll s b code) := replyTo_keeps hs

theorem keepBatch_keeps {b hold} (hs : I.Holds s) : I.Holds (keepBatch s b hold) := by
  unfold keepBatch
  split
  · exact holds_ite hs.frame hs.frame
  · exact hs.frame

theorem subBatch_keeps {b} (hs : I.Holds s) : I.Holds (subBatch s b) := by
  unfold subBatch
  refine holds_ite hs ?_
  split
  · exact answerAll_keeps hs
  · refine holds_ite (answerAll_keeps hs) (holds_ite hs.frame ?_)
    split
    · split
      · next e => exact answerAll_keeps ((spoilOps_keeps hs).opEnd e)
      · next e => exact keepBatch_keeps (TableInvariant.Holds.dirOf hs ((spoilOps_keeps hs).opEnd e)).frame
    · extract_lets x s₁
      have h₁ : I.Holds s₁ := holds_ite (performOps_keeps hs) (replyTo_keeps (performOps_keeps hs))
      exact holds_ite h₁ (keepBatch_keeps h₁)

theorem execSubBatchArrival_keeps (hs : I.Holds s) : I.After (execSubBatchArrival s) := by
  unfold execSubBatchArrival
  split
  · next e => exact subBatch_keeps (headEvent_keeps hs e)
  · exact hs

theorem answerBwait_keeps {i id rs intact} (hs : I.Holds s) : I.Holds (answerBwait s i id rs intact) := modHart_keeps hs

theorem execRemoteReply_keeps (hs : I.Holds s) : I.After (execRemoteReply s) := by
  unfold execRemoteReply
  split
  · next e =>
    have ht := headEvent_keeps hs e
    exact holds_ite (answerBwait_keeps ht) (enterReplies_keeps ht)
  · exact hs

theorem execBatchCompletion_keeps (hs : I.Holds s) : I.After (execBatchCompletion s) := by
  unfold execBatchCompletion
  split
  · next e => exact completeBatch_keeps (headEvent_keeps hs e)
  · exact hs

theorem execPeerUnreachable_keeps (hs : I.Holds s) : I.After (execPeerUnreachable s) := by
  unfold execPeerUnreachable
  split
  · next e =>
    have ht := headEvent_keeps hs e
    exact holds_ite (answerBwait_keeps ht) (enterReplies_keeps ht)
  · exact hs

theorem execBarrierArrival_keeps (hs : I.Holds s) : I.After (execBarrierArrival s) := by
  unfold execBarrierArrival
  split
  · next e =>
    have ht := headEvent_keeps hs e
    split
    · next e1 => exact (meetAt_keeps ht).snd e1
    · next e1 => exact barrierArrive_keeps ((meetAt_keeps ht).snd e1)
  · exact hs

theorem arriveRemote_keeps {peer off done} (hs : I.Holds s) : I.After (arriveRemote peer off done s) := by
  unfold arriveRemote
  extract_lets
  exact after_ite (takeTrap_keeps hs) (after_ite (batchStall_keeps hs) (State.modHart_keeps (closeNow_keeps (State.modHart_keeps hs))))

theorem arriveAt_keeps {va done} (hs : I.Holds s) : I.After (arriveAt va done s) := by
  unfold arriveAt
  dsimp only
  split
  · next e => exact takeTrap_keeps ((aligned_keeps hs (loadAs_keeps hs)).access e)
  · next e => exact (aligned_keeps hs (loadAs_keeps hs)).access e
  · next e =>
    have ht := (aligned_keeps hs (loadAs_keeps hs)).access e
    split
    · exact arriveRemote_keeps ht
    · refine Access.finish_keeps (aligned_keeps ht (Access.bind_keeps (storeProbe_keeps ht) fun _ _ h =>
          holds_apply_ite Access.state h ?_)) fun _ _ h => State.modHart_keeps (schedule_keeps h)
      split
      · exact consumeBad_keeps h
      · exact h

theorem execBarrive_keeps {a} (hs : I.Holds s) : I.After (execBarrive a s) := by
  unfold execBarrive
  refine waitPerformed_keeps hs fun _ h => after_ite ?_ (arriveAt_keeps h)
  split
  · exact takeTrap_keeps h
  · exact State.modHart_keeps (modFarmHart_keeps h)

theorem endBwait_keeps {d x} (hs : I.Holds s) : I.After (endBwait d x s) := by
  unfold endBwait
  split
  · exact State.modHart_keeps hs
  · exact State.modHart_keeps hs

theorem bwaitRemote_keeps {d peer off} (hs : I.Holds s) : I.After (bwaitRemote d peer off s) := by
  unfold bwaitRemote
  extract_lets _ _ _ s₁
  have h₁ : I.Holds s₁ := State.modHart_keeps hs
  split
  · dsimp only
    exact after_ite (endBwait_keeps hs) (endBwait_keeps hs)
  · exact after_ite (endBwait_keeps hs) (after_ite (endBwait_keeps hs) hs)
  · exact after_ite (takeTrap_keeps hs) (after_ite (endBwait_keeps hs) (holds_ite (schedule_keeps h₁) h₁.frame))

theorem barrierField_keeps {va k n} (hs : I.Holds s) : I.Holds (barrierField va k n s).state := aligned_keeps hs (loadAs_keeps hs)

theorem execBwait_keeps {d a} (hs : I.Holds s) : I.After (execBwait d a s) := by
  unfold execBwait
  split
  · split
    · exact takeTrap_keeps hs
    · exact after_ite (endBwait_keeps hs) hs
  · extract_lets va
    generalize read : Access.bind _ _ = r
    have h : I.Holds r.state := by
      subst read
      exact Access.bind_keeps (barrierField_keeps hs) fun _ _ h => holds_apply_ite Access.state h
        (Access.bind_keeps (barrierField_keeps h) fun _ _ h => Access.bind_keeps (barrierField_keeps h) fun _ _ h =>
          Access.bind_keeps (barrierField_keeps h) fun _ _ h => h)
    split
    · exact takeTrap_keeps h
    · exact h
    · exact bwaitRemote_keeps h
    · exact endBwait_keeps h

theorem execTrigger_keeps (hs : I.Holds s) : I.After (execTrigger s) := by
  unfold execTrigger
  refine waitVq_keeps hs (closeBatch_keeps hs fun _ h => waitBatches_keeps h fun _ h' => reportFailures_keeps h' fun _ h'' =>
      waitPerformed_keeps h'' fun _ h''' => State.modHart_keeps ?_)
  split
  · exact h'''
  · exact checkTrigger_keeps (modFarmHart_keeps h''')

theorem loadWords_keeps {a n va} (hs : I.Holds s) : I.Holds (loadWords a n va s).state := by
  induction n generalizing va s with
  | zero => exact hs
  | succ n ih => exact Access.bind_keeps (loadAs_keeps hs) fun _ _ h => Access.bind_keeps (ih h) fun _ _ h => h

theorem meetOwn_keeps {lines write} (hs : I.Holds s) : I.Holds (meetOwn s lines write).state := by
  unfold meetOwn
  split
  · next e => exact (meetAt_keeps hs).snd e
  · next e => exact (meetAt_keeps hs).snd e

theorem enqueue_keeps {q words} (hs : I.Holds s) : I.Holds (enqueue s q words).state := by
  unfold enqueue
  split
  · exact Access.bind_keeps (meetOwn_keeps hs) fun _ _ h => holds_apply_ite Access.state h (holds_apply_ite Access.state h
        (Access.bind_keeps (meetOwn_keeps h) fun _ _ h' => setCounts_keeps (performWrite_keeps h')))
  · exact hs

theorem execLaunch_keeps {d a q} (hs : I.Holds s) : I.After (execLaunch d a q s) :=
  waitPerformed_keeps hs fun _ h => Access.finish_keeps (Access.bind_keeps (aligned_keeps h (loadWords_keeps h)) fun _ _ h' =>
      enqueue_keeps h') fun _ _ h' => State.modHart_keeps h'

theorem execCrec_keeps {d a} (hs : I.Holds s) : I.After (execCrec d a s) :=
  Access.finish_keeps (aligned_keeps hs (loadAs_keeps hs)) (fun _ _ h => State.modHart_keeps h)

/-! The functions of Sys2Proof/Machine/Channels.lean. -/

theorem setFabric_keeps {t x} (hs : I.Holds s) : I.Holds (setFabric s t x) := modTile_keeps hs

theorem tellOwner_keeps {t f} (hs : I.Holds s) : I.Holds (tellOwner s t f) := by
  unfold tellOwner
  split
  · exact hs
  · exact modHart_keeps hs

theorem tellMismatch_keeps {t region pe ch} (hs : I.Holds s) : I.Holds (tellMismatch s t region pe ch) := by
  unfold tellMismatch
  extract_lets _ s₁
  have h₁ : I.Holds s₁ := tellOwner_keeps hs
  split
  · exact h₁
  · extract_lets s₂
    have h₂ : I.Holds s₂ := addLog_keeps h₁
    split
    · exact chargeFarm_keeps h₂
    · exact h₂

theorem fabricMismatch_keeps {t region pe ch} (hs : I.Holds s) : I.Holds (fabricMismatch s t region pe ch) :=
  tellMismatch_keeps (setFabric_keeps hs)

theorem routeFault_keeps {fuel t r rec'} (hs : I.Holds s) : I.Holds (routeFault fuel s t r rec') := by
  induction fuel generalizing r rec' with
  | zero => exact hs
  | succ fuel ih =>
    unfold routeFault
    dsimp only
    split
    · exact tellOwner_keeps hs
    · split
      · exact tellOwner_keeps hs
      · split
        · exact tellOwner_keeps hs
        · refine holds_ite ih ?_
          split
          · exact ih
          · split
            · exact setFabric_keeps hs
            · exact ih

theorem regionFault_keeps {t r pe code} (hs : I.Holds s) : I.Holds (regionFault s t r pe code) :=
  routeFault_keeps (setFabric_keeps hs)

theorem peFire_keeps {t n} (hs : I.Holds s) : I.Holds (peFire s t n) := by
  unfold peFire
  extract_lets
  split
  · exact hs
  · split
    · extract_lets s₁
      have h₁ : I.Holds s₁ := setFabric_keeps hs
      split
      · exact regionFault_keeps h₁
      · exact h₁

theorem execPeFire_keeps (hs : I.Holds s) : I.After (execPeFire s) := by
  unfold execPeFire
  split
  · next e => exact peFire_keeps (headEvent_keeps hs e)
  · exact hs

theorem execTokenTransfer_keeps (hs : I.Holds s) : I.After (execTokenTransfer s) := by
  unfold execTokenTransfer
  split
  · next e =>
    have h := headEvent_keeps hs e
    dsimp only
    split
    · exact setFabric_keeps h
    · exact fabricMismatch_keeps (setFabric_keeps h)
    · exact h
  · exact hs

/-! The functions of Sys2Proof/Machine/Streams.lean. -/

theorem enginePhys_keeps {t e x k va} (hs : I.Holds s) : I.Holds (physState (enginePhys s t e x k va)) := by
  unfold enginePhys
  split
  · exact hs
  · dsimp only
    split
    · exact failTrans_keeps hs
    · split
      · exact failTrans_keeps hs
      · exact markLeaf_keeps hs

theorem engineHome_keeps {s' t e x ls write out k} (hs : I.Holds s) (hs1 : I.Holds s') (hk : ∀ s, I.Holds s → I.Holds (out s).state)
    (hk1 : ∀ s, I.Holds s → I.Holds (k s).state) : I.Holds (engineHome s s' t e x ls write out k).state := by
  unfold engineHome
  split
  · exact hs
  · exact holds_foldl (cutResvs_keeps hs) fun _ _ h => awaitOn_keeps h
  · split
    · exact hk _ (addLog_keeps hs)
    · exact holds_apply_ite EngineAcc.state (refuseLines_keeps hs) (hk1 _ (completeLines_keeps (cutResvs_keeps hs1)))

theorem engineRead_keeps {t e x n va} (hs : I.Holds s) : I.Holds (engineRead s t e x n va).state := by
  unfold engineRead
  split
  · exact hs
  · split
    · next e => exact (enginePhys_keeps hs).phys e
    · next e => exact engineHome_keeps hs ((enginePhys_keeps hs).phys e) (fun _ h => taintHart_keeps h) fun _ h =>
          holds_apply_ite EngineAcc.state h h

theorem engineWrite_keeps {t e x n va v} (hs : I.Holds s) : I.Holds (engineWrite s t e x n va v).state := by
  unfold engineWrite
  split
  · exact hs
  · split
    · next e => exact (enginePhys_keeps hs).phys e
    · next e => exact engineHome_keeps hs ((enginePhys_keeps hs).phys e) (fun _ h => h) fun _ h => performWrite_keeps h

theorem modEngine_keeps {t e f} (hs : I.Holds s) : I.Holds (modEngine s t e f) := by
  unfold modEngine
  split
  · exact setEngine_keeps hs
  · exact hs

theorem endEngine_keeps {t e err cause byDrain} (hs : I.Holds s) : I.Holds (endEngine s t e err cause byDrain) := by
  unfold endEngine
  split
  · exact hs
  · extract_lets _ _ s₁ _ s₂ s₃
    have h₁ : I.Holds s₁ := setEngine_keeps hs
    have h₂ : I.Holds s₂ := by
      unfold s₂
      split
      · exact holds_ite h₁ (setFabric_keeps h₁)
      · exact h₁
    have h₃ : I.Holds s₃ := by
      refine holds_ite h₂ ?_
      split
      · next e => exact (agentStore_keeps h₂).snd e
      · next e => exact modEngine_keeps ((agentStore_keeps h₂).snd e)
    exact modHart_keeps h₃

theorem countElem_keeps {t e} (hs : I.Holds s) : I.Holds (countElem s t e) := by
  unfold countElem
  extract_lets s₁
  have h₁ : I.Holds s₁ := modEngine_keeps hs
  split
  · exact holds_ite (endEngine_keeps h₁) h₁
  · exact h₁

theorem engineBlock_keeps {t e x fuel got} (hs : I.Holds s) : I.Holds (blockState (engineBlock s t e x fuel got)) := by
  induction fuel generalizing s got with
  | zero => exact hs
  | succ fuel ih =>
    unfold engineBlock
    split
    · exact hs
    · exact hs
    · split
      · exact hs
      · split
        · next e => exact ih ((engineRead_keeps hs).engineAcc e)
        · next e => exact (engineRead_keeps hs).engineAcc e
        · next e => exact (engineRead_keeps hs).engineAcc e

theorem toPort_keeps {t pe ch w tag} (hs : I.Holds s) : I.Maybe (toPort s t pe ch w tag) := by
  unfold toPort
  cases (fabricAt s t).pushIn pe ch (.data (BitVec.ofNat 32 w) tag) with
  | none => trivial
  | some x => exact setFabric_keeps hs

theorem deliver_keeps {t e x v} (hs : I.Holds s) : I.Holds (deliver s t e x v) := by
  unfold deliver
  extract_lets
  split
  · split
    · split
      · next e => exact modEngine_keeps ((toPort_keeps hs).of_eq e)
      · exact hs
    · split
      · next e => exact countElem_keeps ((toPort_keeps hs).of_eq e)
      · exact hs
  · exact countElem_keeps (modEngine_keeps hs)
  · exact hs

theorem readStep_keeps {t e} (hs : I.Holds s) : I.Holds (readStep s t e) := by
  unfold readStep
  split
  · exact hs
  · split
    · exact hs
    · split
      · split
        · next e => exact countElem_keeps ((toPort_keeps hs).of_eq e)
        · exact hs
      · split
        · split
          · exact deliver_keeps (modEngine_keeps hs)
          · split
            · next e => exact endEngine_keeps ((engineBlock_keeps hs).block e)
            · next e => exact (engineBlock_keeps hs).block e
            · next e => exact endEngine_keeps ((engineBlock_keeps hs).block e)
            · next e => exact deliver_keeps (modEngine_keeps ((engineBlock_keeps hs).block e))
        · split
          · next e => exact endEngine_keeps ((engineRead_keeps hs).engineAcc e)
          · next e => exact (engineRead_keeps hs).engineAcc e
          · next e => exact deliver_keeps ((engineRead_keeps hs).engineAcc e)

theorem execStreamReadElement_keeps (hs : I.Holds s) : I.After (execStreamReadElement s) := by
  unfold execStreamReadElement
  split
  · next e => exact readStep_keeps (headEvent_keeps hs e)
  · exact hs

theorem takeToken_keeps {t e x pe ch tok} (hs : I.Holds s) : I.Holds (takeToken s t e x pe ch tok) := by
  unfold takeToken
  dsimp only
  split
  · split
    · exact modEngine_keeps (setFabric_keeps hs)
    · exact holds_ite (modEngine_keeps (setFabric_keeps hs)) (endEngine_keeps (setFabric_keeps hs))
  · split
    · exact setFabric_keeps hs
    · split
      · exact hs
      · split
        · exact modEngine_keeps (setFabric_keeps hs)
        · split
          · next e => exact endEngine_keeps ((engineWrite_keeps hs).engineAcc e)
          · next e => exact (engineWrite_keeps hs).engineAcc e
          · next e => exact countElem_keeps (setFabric_keeps ((engineWrite_keeps hs).engineAcc e))

theorem writeStep_keeps {t e} (hs : I.Holds s) : I.Holds (writeStep s t e) := by
  unfold writeStep
  split
  · exact hs
  · split
    · exact takeToken_keeps hs
    · exact fabricMismatch_keeps hs
    · exact hs

theorem execStreamWriteElement_keeps (hs : I.Holds s) : I.After (execStreamWriteElement s) := by
  unfold execStreamWriteElement
  split
  · next e => exact writeStep_keeps (headEvent_keeps hs e)
  · exact hs

theorem capture_keeps {a k l acc} (hs : I.Holds s) : I.Holds (capture a k l acc s).state := by
  induction l generalizing acc s with
  | nil => exact hs
  | cons va t ih =>
    unfold capture
    split
    · exact ih hs
    · split
      · exact Actor.faulted_keeps hs
      · split
        · exact hs
        · exact ih (markLeaf_keeps hs)

theorem settleLine_keeps {pol l} (hs : I.Holds s) : I.Holds (settleLine s pol l) := by
  unfold settleLine
  dsimp only
  exact holds_ite hs (awaitLine_keeps (schedule_keeps hs))

theorem registerLine_keeps {t e wi pol l} (hs : I.Holds s) : I.Holds (registerLine s t e wi pol l) := by
  unfold registerLine
  extract_lets s₁ s₂ s₃ _ _
  have h₁ : I.Holds s₁ := settleLine_keeps (holds_ite (awaitLine_keeps hs) hs)
  have h₂ : I.Holds s₂ := holds_ite (invalidateOthers_keeps h₁) h₁
  have h₃ : I.Holds s₃ := by
    unfold s₃
    split
    · exact awaitOn_keeps h₂
    · exact h₂
    · exact h₂
  exact (setDir_keeps h₃).frame

theorem execReservationRegistration_keeps (hs : I.Holds s) : I.After (execReservationRegistration s) := by
  unfold execReservationRegistration
  split
  · next e =>
    have ht := headEvent_keeps hs e
    split
    · split
      · exact ht
      · split
        · exact setEngine_keeps (freeResv_keeps ht)
        · exact modEngine_keeps (registerLine_keeps ht)
    · exact ht
  · exact hs

theorem execCutNotice_keeps (hs : I.Holds s) : I.After (execCutNotice s) := by
  unfold execCutNotice
  split
  · next e =>
    have ht := headEvent_keeps hs e
    exact holds_ite (modEngine_keeps (freeResv_keeps ht)) ht
  · exact hs

theorem execReservationFree_keeps (hs : I.Holds s) : I.After (execReservationFree s) := by
  unfold execReservationFree
  split
  · next e =>
    have ht := headEvent_keeps hs e
    exact holds_ite (freeResv_keeps ht) ht
  · exact hs

theorem reserve_keeps {d e wr pol ds} (hs : I.Holds s) : I.After (reserve d e wr pol ds s) := by
  unfold reserve
  extract_lets
  split
  · next e => exact takeTrap_keeps ((capture_keeps hs).access e)
  · next e => exact (capture_keeps hs).access e
  · next e =>
    have ht := (capture_keeps hs).access e
    extract_lets
    split
    · exact takeTrap_keeps ht
    · exact cutResvs_keeps ht
    · split
      · exact State.modHart_keeps ht
      · extract_lets _ _ _ s₂ _ _ _
        have h₂ : I.Holds s₂ := (cutResvs_keeps ht).frame
        exact after_ite (schedule_keeps (setEngine_keeps h₂)) (State.modHart_keeps (setEngine_keeps (holds_foldl h₂ fun _ _ h =>
            registerLine_keeps h)))

theorem execSopen_sopenRead_keeps {d a e wr pol done} (hs : I.Holds s) (hd : ∀ code s, I.Holds s → I.After (done code s)) :
    I.After (execSopen.sopenRead d a e wr pol s done) := by
  unfold execSopen.sopenRead
  refine after_ite hs ?_
  split
  · next x => exact takeTrap_keeps ((aligned_keeps hs (loadWords_keeps hs)).access x)
  · next x => exact (aligned_keeps hs (loadWords_keeps hs)).access x
  · next x =>
    have h := (aligned_keeps hs (loadWords_keeps hs)).access x
    exact after_ite (hd _ _ h) (after_ite (hd _ _ h) (after_ite (reserve_keeps h) (hd _ _ (setEngine_keeps h))))

theorem execSopen_keeps {d a e wr pol} (hs : I.Holds s) : I.After (execSopen d a e wr pol s) := by
  refine waitPerformed_keeps hs fun s h => ?_
  have done : ∀ code s, I.Holds s → I.After (.next (s.modHart fun h => (h.wg d code).advance 8)) := fun _ _ h => State.modHart_keeps h
  dsimp only
  split
  · exact after_ite (after_ite (done _ _ (modEngine_keeps h)) h) (execSopen_sopenRead_keeps h done)
  · exact execSopen_sopenRead_keeps h done

theorem execSbind_keeps {d e b} (hs : I.Holds s) : I.After (execSbind d e b s) := by
  unfold execSbind
  extract_lets t h done isQueue
  have hdone : ∀ {code s}, I.Holds s → I.After (done code s) := State.modHart_keeps
  refine after_ite (takeTrap_keeps hs) ?_
  split
  · exact hdone hs
  · refine after_ite (hdone hs) (after_ite (hdone hs) ?_)
    split
    · split
      · exact hdone (modEngine_keeps hs)
      · exact hdone hs
    · split
      · exact hdone (modEngine_keeps hs)
      · exact hdone hs
    · exact after_ite (hdone hs) (after_ite (hdone hs) (hdone (modEngine_keeps hs)))

theorem beginClose_keeps {e x} (hs : I.Holds s) : I.Holds (beginClose s e x) := by
  unfold beginClose
  extract_lets _ _ s₂
  have h₂ : I.Holds s₂ := modEngine_keeps (holds_ite hs (endEngine_keeps hs))
  exact holds_ite (holds_ite (schedule_keeps h₂) h₂) (freeResv_keeps h₂)

theorem execSclose_keeps {d e} (hs : I.Holds s) : I.After (execSclose d e s) := by
  refine waitPerformed_keeps hs fun s h => ?_
  dsimp only
  split
  · exact State.modHart_keeps h
  · exact after_ite (holds_ite h (beginClose_keeps h)) (State.modHart_keeps (releaseEngine_keeps (holds_ite h (beginClose_keeps h))))

theorem execSstat_keeps {d e} (hs : I.Holds s) : I.After (execSstat d e s) := State.modHart_keeps hs

/-! The functions of Sys2Proof/Machine/Coherence.lean. -/

theorem performReq_keeps {q} (hs : I.Holds s) : I.Holds (performReq s q) := schedule_keeps (modDir_keeps (performAction_keeps hs))

theorem writeLanded_keeps {q} (hs : I.Holds s) : I.Holds (writeLanded s q) := by
  unfold writeLanded
  extract_lets _ s₁
  have h₁ : I.Holds s₁ := modHart_keeps hs
  exact holds_ite (schedule_keeps h₁) h₁

theorem logOutside_keeps {i l} (hs : I.Holds s) : I.Holds (logOutside s i l) := addLog_keeps hs

theorem outsidePartition_keeps {q} (hs : I.Holds s) : I.Holds (outsidePartition s q) := by
  unfold outsidePartition
  extract_lets _ s₁
  have h₁ : I.Holds s₁ := logOutside_keeps hs
  exact holds_ite (taintHart_keeps h₁) (writeLanded_keeps h₁)

theorem serveFill_keeps {q} (hs : I.Holds s) : I.Holds (serveFill s q) := by
  unfold serveFill
  split
  · exact outsidePartition_keeps hs
  · extract_lets _ s₁
    have h₁ : I.Holds s₁ := cutResvs_keeps hs
    split
    · exact refuseReq_keeps hs
    · split
      · exact hs
      · exact holds_ite (refuseReq_keeps h₁) h₁.frame
      · exact answerFill_keeps (cutResvs_keeps hs)

theorem execFillRequest_keeps (hs : I.Holds s) : I.After (execFillRequest s) := by
  unfold execFillRequest
  split
  · next e => exact serveFill_keeps (headEvent_keeps hs e)
  · exact hs

theorem serveWrite_keeps {q} (hs : I.Holds s) : I.Holds (serveWrite s q) := by
  unfold serveWrite
  split
  · exact outsidePartition_keeps hs
  · dsimp only
    split
    · exact refuseReq_keeps hs
    · split
      · exact modHart_keeps (writeLanded_keeps hs)
      · exact holds_ite (refuseReq_keeps (cutResvs_keeps hs)) (schedule_keeps (holdAction_keeps (cutResvs_keeps hs)))
      · split
        · exact holds_ite (refuseReq_keeps (cutResvs_keeps hs)) (schedule_keeps (holdAction_keeps (cutResvs_keeps hs)))
        · exact holds_ite (performReq_keeps (cutResvs_keeps hs)) (becomeBusy_keeps (cutResvs_keeps hs))

theorem execWriteRequest_keeps (hs : I.Holds s) : I.After (execWriteRequest s) := by
  unfold execWriteRequest
  split
  · next e => exact serveWrite_keeps (headEvent_keeps hs e)
  · exact hs

theorem answerHost_keeps {addr cacheable} (hs : I.Holds s) : I.Holds (answerHost s addr cacheable) :=
  (holds_ite (modDir_keeps hs) hs).frame

theorem performHost_keeps {addr data} (hs : I.Holds s) : I.Holds (performHost s addr data) :=
  (modDir_keeps (performWrite_keeps (modDir_keeps hs))).frame

theorem serveHost_keeps {addr data} (hs : I.Holds s) : I.Holds (serveHost s addr data) := by
  unfold serveHost
  split
  · exact hs.frame
  · extract_lets _ s₁ _
    have h₁ : I.Holds s₁ := by
      unfold s₁
      split
      · exact cutResvs_keeps hs
      · exact hs
    split
    · split
      · exact answerHost_keeps h₁
      · exact becomeBusy_keeps h₁
      · exact answerHost_keeps h₁
    · exact holds_ite (performHost_keeps h₁) (becomeBusy_keeps h₁)

theorem serveBridge_keeps {l} (hs : I.Holds s) : I.Holds (serveBridge l s) := by
  induction l generalizing s with
  | nil => exact hs
  | cons x t ih => exact holds_ite (ih hs.frame) (ih (serveHost_keeps hs))

theorem drainBridge_keeps (hs : I.Holds s) : I.Holds (drainBridge s) := holds_ite hs (serveBridge_keeps hs.frame)

theorem hostRegister_keeps {a data} (hs : I.Holds s) : I.Holds (hostRegister s a data) := by
  unfold hostRegister
  extract_lets
  split
  · exact hs.frame
  · exact (devWrite_keeps (afterHostWrites_keeps hs)).frame

theorem execHostRequest_keeps (hs : I.Holds s) : I.After (execHostRequest s) := by
  unfold execHostRequest
  split
  · next e =>
    have ht := headEvent_keeps hs e
    exact holds_ite ht (holds_ite (hostRegister_keeps ht) (drainBridge_keeps ht.frame))
  · exact hs

theorem completeWaiting_keeps {l w gone} (hs : I.Holds s) : I.Holds (completeWaiting s l w gone) := by
  unfold completeWaiting
  extract_lets s₁ _
  have h₁ : I.Holds s₁ := modDir_keeps hs
  split
  · split
    · exact sendFill_keeps (modDir_keeps h₁)
    · exact performReq_keeps (modDir_keeps h₁)
    · exact performReq_keeps (modDir_keeps h₁)
    · exact performReq_keeps (modDir_keeps h₁)
    · exact performReq_keeps (modDir_keeps h₁)
  · exact modDir_keeps h₁
  · exact modDir_keeps h₁
  · exact answerHost_keeps (modDir_keeps h₁)
  · exact performHost_keeps h₁

theorem countAck_keeps {l gone} (hs : I.Holds s) : I.Holds (countAck s l gone) := by
  unfold countAck
  split
  · exact hs
  · exact holds_ite hs (holds_ite (drainBridge_keeps (completeWaiting_keeps hs)) (modDir_keeps hs))

theorem execInvalidationAcknowledgement_keeps (hs : I.Holds s) : I.After (execInvalidationAcknowledgement s) := by
  unfold execInvalidationAcknowledgement
  split
  · next e => exact countAck_keeps (headEvent_keeps hs e)
  · exact hs

theorem execEvictionNotice_keeps (hs : I.Holds s) : I.After (execEvictionNotice s) := by
  unfold execEvictionNotice
  split
  · next e => exact modDir_keeps (dropLine_keeps (headEvent_keeps hs e))
  · exact hs

theorem execInvalidation_keeps (hs : I.Holds s) : I.After (execInvalidation s) := by
  unfold execInvalidation
  split
  · next e => exact schedule_keeps (dropCopy_keeps (headEvent_keeps hs e))
  · exact hs

theorem installLine_keeps {t l} (hs : I.Holds s) : I.Holds (installLine s t l) := modTile_keeps hs

theorem execFillResponse_keeps (hs : I.Holds s) : I.After (execFillResponse s) := by
  unfold execFillResponse
  split
  · next e =>
    extract_lets s₁
    have h₁ : I.Holds s₁ := sampleRefusals_keeps (headEvent_keeps hs e)
    exact holds_ite (modTile_keeps h₁) (holds_ite (installLine_keeps h₁) h₁)
  · exact hs

theorem execWriteAcknowledgement_keeps (hs : I.Holds s) : I.After (execWriteAcknowledgement s) := by
  unfold execWriteAcknowledgement
  split
  · next e =>
    extract_lets s₁
    have h₁ : I.Holds s₁ := sampleRefusals_keeps (headEvent_keeps hs e)
    exact writeLanded_keeps (holds_ite (installLine_keeps h₁) h₁)
  · exact hs

theorem execHoldAcknowledgement_keeps (hs : I.Holds s) : I.After (execHoldAcknowledgement s) := by
  unfold execHoldAcknowledgement
  split
  · next e => exact writeLanded_keeps (headEvent_keeps hs e)
  · exact hs

theorem execRequestRefusal_keeps (hs : I.Holds s) : I.After (execRequestRefusal s) := by
  unfold execRequestRefusal
  split
  · next e => exact schedule_keeps (headEvent_keeps hs e).frame
  · exact hs

theorem execRetryBackoffExpiry_keeps (hs : I.Holds s) : I.After (execRetryBackoffExpiry s) := by
  unfold execRetryBackoffExpiry
  split
  · next e =>
    have ht := headEvent_keeps hs e
    exact holds_ite (schedule_keeps ht.frame) ht
  · exact hs

theorem execBackInvalidateResponse_keeps (hs : I.Holds s) : I.After (execBackInvalidateResponse s) := by
  unfold execBackInvalidateResponse
  split
  · next e =>
    have ht := headEvent_keeps hs e
    exact holds_ite (countAck_keeps (modDir_keeps ht)) ht
  · exact hs

theorem execHostSnoop_keeps (hs : I.Holds s) : I.After (execHostSnoop s) := by
  unfold execHostSnoop
  split
  · next e =>
    have h : ∀ {l}, I.Holds (invalidateOthers _ none l) := invalidateOthers_keeps (headEvent_keeps hs e)
    exact (holds_ite h.memPut h).frame
  · exact hs

theorem acceptHost_keeps {w} (hs : I.Holds s) : I.Holds (acceptHost s w) := by
  unfold acceptHost
  dsimp only
  split
  · exact logOutside_keeps hs
  · split
    · exact modHart_keeps hs
    · exact holds_ite (holds_foldl (cutResvs_keeps hs) fun _ _ h => awaitLine_keeps h) (holdWrite_keeps (cutResvs_keeps hs))
    · split
      · exact holds_ite (holds_foldl (cutResvs_keeps hs) fun _ _ h => awaitLine_keeps h) (holdWrite_keeps (cutResvs_keeps hs))
      · exact performWrite_keeps (cutResvs_keeps hs)

theorem execCxlCacheResponse_keeps (hs : I.Holds s) : I.After (execCxlCacheResponse s) := by
  unfold execCxlCacheResponse
  split
  · next e =>
    have ht := headEvent_keeps hs e
    split
    · exact acceptHost_keeps ht.frame
    · exact ht
  · exact hs

theorem execWriteCombineFlush_keeps (hs : I.Holds s) : I.After (execWriteCombineFlush s) := by
  unfold execWriteCombineFlush
  split
  · next e =>
    have ht := headEvent_keeps hs e
    exact holds_ite ht (schedule_keeps (putHart_keeps ht))
  · exact hs

theorem failBatches_keeps {i peer} (hs : I.Holds s) : I.Holds (failBatches s i peer) := schedule_keeps (modHart_keeps hs)

theorem execKillNotice_keeps (hs : I.Holds s) : I.After (execKillNotice s) := by
  unfold execKillNotice
  split
  · next e =>
    extract_lets _ _ _ _ s₃
    have h₃ : I.Holds s₃ := by
      refine holds_foldl (holds_foldl (headEvent_keeps hs e).frame fun _ _ h => holds_ite (failBatches_keeps h) h) fun _ _ h => ?_
      split
      · exact deadBarriers_keeps h
      · exact h
    exact h₃.frame
  · exact hs

theorem killAnswered_keeps {peer ctx} (hs : I.Holds s) : I.Holds (killAnswered s peer ctx) := hs.frame

theorem execKillAcknowledgement_keeps (hs : I.Holds s) : I.After (execKillAcknowledgement s) := by
  unfold execKillAcknowledgement
  split
  · next e => exact killAnswered_keeps (headEvent_keeps hs e)
  · exact hs

theorem execKillAcknowledgementTimeout_keeps (hs : I.Holds s) : I.After (execKillAcknowledgementTimeout s) := by
  unfold execKillAcknowledgementTimeout
  split
  · next e =>
    have ht := headEvent_keeps hs e
    split
    · exact killAnswered_keeps (addLog_keeps ht)
    · exact ht
  · exact hs

/-! The functions of Sys2Proof/Machine/Fabric.lean. -/

theorem execFload_keeps {a off} (hs : I.Holds s) : I.After (execFload a off s) := by
  refine after_ite (takeTrap_keeps hs) (waitPerformed_keeps hs fun s h => after_ite h ?_)
  have read : ∀ {n va a m v}, I.Holds (aligned n va s (loadWords a m v s)).state := aligned_keeps h (loadWords_keeps h)
  dsimp only
  split
  · next e => exact takeTrap_keeps (read.access e)
  · next e => exact read.access e
  · next e =>
    split
    · exact takeTrap_keeps (read.access e)
    · exact State.modHart_keeps (setFabric_keeps (read.access e))

theorem execStagingComplete_keeps (hs : I.Holds s) : I.After (execStagingComplete s) := by
  unfold execStagingComplete
  split
  · next e => exact setFabric_keeps (headEvent_keeps hs e)
  · exact hs

theorem discardRegion_keeps {t ri} (hs : I.Holds s) : I.Holds (discardRegion s t ri) := by
  unfold discardRegion
  split
  · exact hs
  · refine setFabric_keeps (holds_foldl hs fun _ _ h => holds_ite h ?_)
    split
    · exact holds_ite h (endEngine_keeps h)
    · exact h

theorem drainRegion_keeps {t ri} (hs : I.Holds s) : I.Holds (drainRegion s t ri) := by
  unfold drainRegion
  split
  · exact hs
  · exact setFabric_keeps hs

theorem swapDrain_keeps {t ri} (hs : I.Holds s) : I.Holds (swapDrain s t ri) := by
  unfold swapDrain
  split
  · exact holds_ite (discardRegion_keeps hs) (drainRegion_keeps hs)
  · exact hs

theorem execFswap_keeps {a} (hs : I.Holds s) : I.After (execFswap a s) := by
  unfold execFswap
  extract_lets
  split
  · exact takeTrap_keeps hs
  · exact waitPerformed_keeps hs fun _ h => after_ite h (after_ite (State.modHart_keeps h) (after_ite (takeTrap_keeps h)
        (State.modHart_keeps (holds_foldl (setFabric_keeps h) fun _ _ h' => swapDrain_keeps h'))))

theorem swapIn_keeps {t} (hs : I.Holds s) : I.Holds (swapIn s t) := by
  unfold swapIn
  extract_lets
  split
  · exact hs
  · exact holds_foldl (setFabric_keeps hs) fun _ _ h => modEngine_keeps h

theorem execSwapComplete_keeps (hs : I.Holds s) : I.After (execSwapComplete s) := by
  unfold execSwapComplete
  split
  · next e =>
    have ht := headEvent_keeps hs e
    exact holds_ite (swapIn_keeps ht) ht
  · exact hs

theorem execFdrain_keeps {a} (hs : I.Holds s) : I.After (execFdrain a s) := by
  unfold execFdrain
  extract_lets
  exact after_ite (takeTrap_keeps hs) (State.modHart_keeps (holds_foldl hs fun _ _ h => holds_ite (discardRegion_keeps h)
      (drainRegion_keeps h)))

theorem execPeQuiescence_keeps (hs : I.Holds s) : I.After (execPeQuiescence s) := by
  unfold execPeQuiescence
  split
  · next e =>
    have ht := headEvent_keeps hs e
    exact holds_ite (setFabric_keeps ht) ht
  · exact hs

theorem regionLeaves_keeps {t ri} (hs : I.Holds s) : I.Holds (regionLeaves s t ri) := by
  unfold regionLeaves
  dsimp only
  split
  · exact hs
  · refine setFabric_keeps ?_
    split
    · exact modHart_keeps hs
    · exact hs

theorem execRegionDrained_keeps (hs : I.Holds s) : I.After (execRegionDrained s) := by
  unfold execRegionDrained
  split
  · next e =>
    have ht := headEvent_keeps hs e
    exact holds_ite (regionLeaves_keeps ht) ht
  · exact hs

theorem execFstat_keeps {d} (hs : I.Holds s) : I.After (execFstat d s) := State.modHart_keeps hs

theorem execFpush_keeps {a b} (hs : I.Holds s) : I.After (execFpush a b s) := by
  unfold execFpush
  dsimp only
  split
  · exact takeTrap_keeps hs
  · split
    · exact State.modHart_keeps (setFabric_keeps hs)
    · exact hs

theorem leftMismatch_keeps {t pe ch r} (hs : I.Holds s) : I.Holds (leftMismatch s t pe ch r) :=
  tellMismatch_keeps (setFabric_keeps hs)

theorem execFpop_keeps {d a} (hs : I.Holds s) : I.After (execFpop d a s) := by
  unfold execFpop
  dsimp only
  split
  · exact takeTrap_keeps hs
  · split
    · split
      · exact State.modHart_keeps (setFabric_keeps hs)
      · exact fabricMismatch_keeps hs
      · exact hs
    · split
      · split
        · exact takeTrap_keeps hs
        · split
          · exact State.modHart_keeps (setFabric_keeps hs)
          · exact leftMismatch_keeps hs
          · exact hs
      · exact takeTrap_keeps hs

theorem execFabricFaultDelivery_keeps (hs : I.Holds s) : I.After (execFabricFaultDelivery s) := by
  unfold execFabricFaultDelivery
  split
  · next e =>
    have ht := headEvent_keeps hs e
    split
    · exact trapAt_keeps (modHart_keeps ht)
    · exact ht
  · exact hs

theorem fabricHalt_keeps {i} (hs : I.Holds s) : I.Holds (fabricHalt s i) := by
  refine holds_foldl (holds_ite (holds_foldl (setFabric_keeps hs) fun _ _ h => drainRegion_keeps h) hs) fun _ _ h => ?_
  dsimp only
  split
  · exact holds_ite (releaseEngine_keeps (holds_ite h (endEngine_keeps h))) h
  · exact h

/-! The functions of Sys2Proof/Machine/Matrix.lean. -/

theorem drain_keeps {top c row rows k base} (hs : I.Holds s) : I.Holds (drain top c row rows k base s).state :=
  endStore_keeps (walkElems_keeps (fun _ _ _ h => storeElem_keeps h) hs)

theorem drainTo_keeps {top x} (hs : I.Holds s) : I.Holds (drainTo top x s).state := by
  unfold drainTo
  split
  · exact drain_keeps hs
  · exact drain_keeps hs
  · exact hs

theorem matrixCore_keeps {x} (hs : I.Holds s) : I.Holds (matrixCore x s).state := by
  unfold matrixCore
  split
  · extract_lets
    exact holds_apply_ite Ended.state hs (State.modHart_keeps (holds_foldl hs fun _ _ h => holds_ite h (State.modHart_keeps
        (setAcc_keeps h))))
  · exact State.modHart_keeps (setAcc_keeps hs)
  · exact State.modHart_keeps (setAcc_keeps hs)
  · exact State.modHart_keeps (setAcc_keeps hs)
  · exact drainTo_keeps hs
  · exact drainTo_keeps hs
  · extract_lets _ _ s₁ s₂
    have h₁ : I.Holds s₁.st := walkElems_keeps (fun _ _ _ h => Access.bind_keeps (readElem_keeps h) fun _ _ h' => h') hs
    have h₂ : I.Holds s₂ := setAcc_keeps h₁
    exact endElems_keeps (holds_ite h₂ (State.modHart_keeps h₂))
  · exact hs

theorem execMcfg_keeps {tiles fmt sc int32 m n} (hs : I.Holds s) : I.After (execMcfg tiles fmt sc int32 m n s) :=
  vecMemRun_keeps (fun _ _ h => matrixCore_keeps h) hs

theorem execMzero_keeps {c} (hs : I.Holds s) : I.After (execMzero c s) := vecMemRun_keeps (fun _ _ h => matrixCore_keeps h) hs

theorem execMrel_keeps {c} (hs : I.Holds s) : I.After (execMrel c s) := vecMemRun_keeps (fun _ _ h => matrixCore_keeps h) hs

theorem execMma_keeps {c a b} (hs : I.Holds s) : I.After (execMma c a b s) := vecMemRun_keeps (fun _ _ h => matrixCore_keeps h) hs

theorem execMdrain_keeps {c a p row rows k} (hs : I.Holds s) : I.After (execMdrain c a p row rows k s) :=
  vecMemRun_keeps (fun _ _ h => matrixCore_keeps h) hs

theorem execMdrainx_keeps {c a p row rows k} (hs : I.Holds s) : I.After (execMdrainx c a p row rows k s) :=
  vecMemRun_keeps (fun _ _ h => matrixCore_keeps h) hs

theorem execMldacc_keeps {c a p row rows} (hs : I.Holds s) : I.After (execMldacc c a p row rows s) :=
  vecMemRun_keeps (fun _ _ h => matrixCore_keeps h) hs

/-! The functions of Sys2Proof/Machine/Errors.lean. -/

theorem hartLog_keeps {i kind sev addr data0 data1} (hs : I.Holds s) : I.Holds (hartLog s i kind sev addr data0 data1) :=
  addLog_keeps hs

theorem correctHart_keeps {i} (hs : I.Holds s) : I.Holds (correctHart s i) := by
  unfold correctHart
  split
  · exact hs
  · exact modFarm_keeps hs

theorem coreOf_keeps {i j core} (hs : I.Holds s) (e : coreOf i = some core) : I.Holds (core j s).state := by
  unfold coreOf at e
  split at e
  · cases e; exact matrixCore_keeps hs
  · split at e
    · cases e; exact memCore_keeps hs
    · cases e

theorem Ended.map_keeps {f x} (hk : ∀ s, I.Holds s → I.Holds (f s)) (hs : I.Holds x.state) : I.Holds (Ended.map f x).state := by
  unfold Ended.map
  split
  · exact hk _ hs
  · exact hk _ hs
  · exact hk _ hs
  · exact hk _ hs

theorem performBelow_keeps {i e} (hs : I.Holds s) : I.Holds (performBelow i e s).state := by
  unfold performBelow
  dsimp only
  split
  · exact drainTo_keeps hs
  · exact drainTo_keeps hs
  · exact hs
  · exact hs
  · exact hs
  · exact hs
  · exact holds_apply_ite Ended.state hs (Ended.map_keeps (fun _ h => State.modHart_keeps h) (memCore_keeps (State.modHart_keeps hs)))

theorem giveBack_keeps {i l} (hs : I.Holds s) : I.Holds (giveBack s i l) := by
  unfold giveBack
  refine holds_foldl hs fun _ _ h => ?_
  split
  · split
    · exact setEngine_keeps h
    · exact h
  · exact h

theorem unconfigure_keeps {i l} (hs : I.Holds s) : I.Holds (unconfigure s i l) :=
  holds_foldl hs fun _ _ h => holds_foldl h fun _ _ h' => holds_ite h' (setAcc_keeps h')

theorem unwind_keeps {i pc ves} (hs : I.Holds s) : I.Holds (unwind s i pc ves) :=
  modHart_keeps (unconfigure_keeps (giveBack_keeps hs))

theorem consumeStored_keeps {i pc vector x e} (hs : I.Holds s) : I.Holds (consumeStored s i pc vector x e) :=
  trapAt_keeps (unwind_keeps (taintHart_keeps (hartLog_keeps hs)))

theorem squashTickets_keeps {r} (hs : I.Holds s) : I.Holds (squashTickets s r) := hs.frame

theorem logLost_keeps {i r} (hs : I.Holds s) : I.Holds (logLost s i r) := squashTickets_keeps (taintHart_keeps (hartLog_keeps hs))

theorem notRecovered_keeps {i pc r} (hs : I.Holds s) : I.Holds (notRecovered s i pc r) := by
  unfold notRecovered
  extract_lets s₁ _ s₂
  have h₁ : I.Holds s₁ := logLost_keeps hs
  have h₂ : I.Holds s₂ := by
    unfold s₂
    split
    · exact modHart_keeps (unwind_keeps h₁)
    · exact modHart_keeps (unwind_keeps h₁)
    · exact unwind_keeps h₁
    · exact unwind_keeps h₁
  exact trapAt_keeps h₂

theorem beginReplay_keeps {i place r} (hs : I.Holds s) : I.Holds (beginReplay s i place r) :=
  modHart_keeps (squashTickets_keeps hs)

theorem recovered_keeps {i pc elem} (hs : I.Holds s) : I.Holds (recovered s i pc elem) :=
  modHart_keeps (correctHart_keeps (hartLog_keeps hs))

theorem finishReplay_keeps {i place pc} (hs : I.Holds s) : I.Holds (finishReplay s i place pc) := by
  unfold finishReplay
  split
  · exact holds_ite (recovered_keeps hs) hs
  · exact hs

theorem Ended.followed_keeps {e i k} (hs : I.Holds e.state) (hk : ∀ s, I.Holds s → I.Holds (k s)) : I.Holds (Ended.followed e i k) := by
  unfold Ended.followed
  split
  · exact hk _ hs
  · exact trapAt_keeps hs
  · exact trapAt_keeps hs
  · exact hs

theorem meetError_keeps {i} (hs : I.Holds s) : I.Maybe (meetError i s) := by
  unfold meetError
  dsimp only
  split
  · split
    · exact schedule_keeps hs
    · exact Ended.followed_keeps (performBelow_keeps hs) fun _ h => consumeStored_keeps h
  · split
    · exact trivial
    · split
      · exact trivial
      · split
        · exact State.modHart_keeps hs
        · split
          · split
            · exact trivial
            · exact State.modHart_keeps hs
          · exact holds_ite (Ended.followed_keeps (performBelow_keeps hs) fun _ h => notRecovered_keeps h) (beginReplay_keeps hs)
          · exact holds_ite (notRecovered_keeps hs) (beginReplay_keeps hs)

theorem settle_keeps {i t} (hs1 : I.Holds t) : I.Holds (settle i s t) := by
  unfold settle
  extract_lets _ _ _ s₁ _
  have h₁ : I.Holds s₁ := holds_ite hs1 (State.modHart_keeps hs1)
  split
  · exact holds_ite (finishReplay_keeps h₁) h₁
  · exact holds_ite (notRecovered_keeps (State.modHart_keeps h₁)) (holds_ite (finishReplay_keeps h₁) h₁)

theorem staged_keeps {i x} (hs : I.Holds s) : I.Holds (staged s i x) := State.modHart_keeps (State.modTile_keeps hs.frame)

theorem unstaged_keeps {old i l t} (hs1 : I.Holds t) : I.Holds (unstaged old i l t) := (modHart_keeps (modTile_keeps hs1)).frame

theorem executeOldest_keeps {i x rest} (hs : I.Holds s) : I.Holds (executeOldest s i x rest) := by
  unfold executeOldest
  dsimp only
  split
  · exact finishReplay_keeps (modHart_keeps hs)
  · next c =>
    split
    · next e =>
      have h := (coreOf_keeps (staged_keeps hs) c).ended e
      split
      · exact holds_ite (notRecovered_keeps (modHart_keeps (modHart_keeps (unstaged_keeps (State.modHart_keeps h)))))
          (finishReplay_keeps (modHart_keeps (unstaged_keeps (State.modHart_keeps h))))
      · exact finishReplay_keeps (modHart_keeps (unstaged_keeps (State.modHart_keeps h)))
    · next e => exact unstaged_keeps ((coreOf_keeps (staged_keeps hs) c).ended e)
    · next e => exact trapAt_keeps (unwind_keeps (unstaged_keeps ((coreOf_keeps (staged_keeps hs) c).ended e)))
    · next e => exact trapAt_keeps (unwind_keeps (unstaged_keeps ((coreOf_keeps (staged_keeps hs) c).ended e)))

theorem stopOldest_keeps {i x rest e k} (hs : I.Holds s) (hk : ∀ s, I.Holds s → I.Holds (k s)) : I.Holds (stopOldest s i x rest e k) := by
  unfold stopOldest
  split
  · next e => exact hk _ (unstaged_keeps ((performBelow_keeps (staged_keeps hs)).ended e))
  · next e => exact unstaged_keeps ((performBelow_keeps (staged_keeps hs)).ended e)
  · next e => exact trapAt_keeps (unwind_keeps (unstaged_keeps ((performBelow_keeps (staged_keeps hs)).ended e)))
  · next e => exact trapAt_keeps (unwind_keeps (unstaged_keeps ((performBelow_keeps (staged_keeps hs)).ended e)))

theorem retireOldest_keeps {i} (hs : I.Holds s) : I.Holds (retireOldest s i) := by
  unfold retireOldest
  dsimp only
  split
  · exact hs
  · split
    · exact stopOldest_keeps hs fun _ h => consumeStored_keeps h
    · split
      · exact executeOldest_keeps hs
      · split
        · exact executeOldest_keeps hs
        · split
          · split
            · exact executeOldest_keeps (beginReplay_keeps hs)
            · split
              · exact stopOldest_keeps hs fun _ h => notRecovered_keeps h
              · exact notRecovered_keeps hs
          · exact executeOldest_keeps (modHart_keeps hs)

theorem countError_keeps {t c} (hs : I.Holds s) : I.Holds (countError s t c) := by
  unfold countError
  extract_lets _ s₁
  have h₁ : I.Holds s₁ := modTile_keeps hs
  exact holds_ite (schedule_keeps h₁) h₁

theorem applyUpset_keeps {u} (hs : I.Holds s) : I.Holds (applyUpset u s) := by
  unfold applyUpset
  split
  · refine correctHart_keeps (hartLog_keeps ?_)
    split
    · exact countError_keeps hs
    · exact hs
  · exact hs.frame
  · exact correctHart_keeps (hartLog_keeps (modTile_keeps hs))
  · exact addLog_keeps (setDir_keeps hs)
  · split
    · exact addLog_keeps (setDir_keeps hs)
    · exact hs
  · extract_lets s₁
    have h₁ : I.Holds s₁ := modHart_keeps hs
    split
    · exact schedule_keeps h₁
    · exact h₁
  · split
    · exact holds_ite hs (regionFault_keeps hs)
    · exact hs
  · split
    · exact holds_ite hs (fabricMismatch_keeps hs)
    · exact hs
  · extract_lets s₁
    have h₁ : I.Holds s₁ := modHart_keeps hs
    split
    · exact schedule_keeps h₁
    · exact h₁
  · exact addLog_keeps hs

/-! The functions of Sys2Proof/Machine/Lifecycle.lean. -/

theorem haltLeaves_keeps (hs : I.Holds s) : I.Holds (haltLeaves s) := by
  unfold haltLeaves
  extract_lets _ _ _ s₂ _
  have h₂ : I.Holds s₂ := holds_foldl (fabricHalt_keeps hs) fun _ _ h => setAcc_keeps h
  exact passClusters_keeps (holds_ite h₂ (State.modHart_keeps h₂))

theorem haltUser_keeps (hs : I.Holds s) : I.Holds (haltUser s) := State.modHart_keeps (leaveFarm_keeps (haltLeaves_keeps hs))

theorem haltSupervisor_keeps (hs : I.Holds s) : I.Holds (haltSupervisor s) :=
  State.modHart_keeps (escalateLog_keeps (haltLeaves_keeps hs))

theorem execHalt_keeps (hs : I.Holds s) : I.After (execHalt s) := by
  unfold execHalt
  refine waitVq_keeps hs (closeBatch_keeps hs fun _ h => waitBatches_keeps h fun _ h' => reportFailures_keeps h' fun _ h'' =>
      waitPerformed_keeps h'' fun _ h''' => ?_)
  split
  · exact haltUser_keeps h'''
  · exact haltSupervisor_keeps h'''

theorem safePointEntry_keeps {id} (hs : I.Holds s) : I.Holds (safePointEntry s id).state := by
  unfold safePointEntry
  dsimp only
  split
  · exact hs
  · split
    · next e => exact (loadAs_keeps hs).access e
    · next e => exact (loadAs_keeps hs).access e
    · next e => exact (loadAs_keeps hs).access e

theorem preempt_keeps {pc tval full spf spe0 spe1} (hs : I.Holds s) : I.Holds (preempt s pc tval full spf spe0 spe1) :=
  State.modHart_keeps (leaveWeight_keeps hs)

theorem execSafept_keeps {id} (hs : I.Holds s) : I.After (execSafept id s) := by
  unfold execSafept
  refine waitVq_keeps hs (closeBatch_keeps hs fun _ h => waitBatches_keeps h fun _ h' => reportFailures_keeps h' fun _ h'' => after_ite
      (takeTrap_keeps h'') ?_)
  split
  · exact State.modHart_keeps h''
  · split
    · split
      · next e => exact (safePointEntry_keeps h'').access e
      · next e => exact takeTrap_keeps ((safePointEntry_keeps h'').access e)
      · next e =>
        extract_lets s₁
        have h₁ : I.Holds s₁ := State.modHart_keeps ((safePointEntry_keeps h'').access e)
        split
        · exact preempt_keeps h₁
        · exact preempt_keeps h₁
    · exact State.modHart_keeps h''

theorem execNexts_keeps (hs : I.Holds s) : I.After (execNexts s) := by
  unfold execNexts
  split
  · exact takeTrap_keeps hs
  · exact State.modHart_keeps (modFarm_keeps hs)

theorem execVectorInstructionRetirement_keeps (hs : I.Holds s) : I.After (execVectorInstructionRetirement s) := by
  unfold execVectorInstructionRetirement
  split
  · next e => exact retireOldest_keeps (headEvent_keeps hs e)
  · exact hs

theorem execInterruptEntry_keeps (hs : I.Holds s) : I.After (execInterruptEntry s) := by
  unfold execInterruptEntry
  split
  · next e =>
    have ht := headEvent_keeps hs e
    split
    · exact takeInterrupt_keeps ht
    · exact ht
  · exact hs

theorem execUserLevelInterrupt_keeps (hs : I.Holds s) : I.After (execUserLevelInterrupt s) := by
  unfold execUserLevelInterrupt
  split
  · next e =>
    have ht := headEvent_keeps hs e
    exact holds_ite (modHart_keeps ht) ht
  · exact hs

theorem execScountZero_keeps (hs : I.Holds s) : I.After (execScountZero s) := by
  unfold execScountZero
  split
  · next e => exact modHart_keeps (headEvent_keeps hs e)
  · exact hs

theorem execSafePointDistanceFault_keeps (hs : I.Holds s) : I.After (execSafePointDistanceFault s) := by
  unfold execSafePointDistanceFault
  split
  · next e =>
    have ht := headEvent_keeps hs e
    exact holds_ite (trapAt_keeps ht) ht
  · exact hs

theorem execWfeTimeLimit_keeps (hs : I.Holds s) : I.After (execWfeTimeLimit s) := by
  unfold execWfeTimeLimit
  split
  · next e => exact modHart_keeps (headEvent_keeps hs e)
  · exact hs

/-! The functions of Sys2Proof/Machine/Health.lean. -/

theorem writeDeconf_keeps (hs : I.Holds s) : I.Holds (writeDeconf s) := by
  unfold writeDeconf
  split
  · exact I.record0 (recordNow_keys s _) rfl hs
  · exact I.record1 (recordNow_keys s _) rfl hs
  · exact I.record0 (recordNow_keys s _) rfl hs

theorem retireCluster_keeps {t c} (hs : I.Holds s) : I.Holds (retireCluster s t c) :=
  holds_ite hs (writeDeconf_keeps (addLog_keeps (modTile_keeps hs).frame))

theorem execClusterRetirement_keeps (hs : I.Holds s) : I.After (execClusterRetirement s) := by
  unfold execClusterRetirement
  split
  · next e => exact retireCluster_keeps (headEvent_keeps hs e)
  · exact hs

theorem execGuardBandRaise_keeps (hs : I.Holds s) : I.After (execGuardBandRaise s) := by
  unfold execGuardBandRaise
  split
  · next e =>
    have h := headEvent_keeps hs e
    exact holds_ite h (writeDeconf_keeps (addLog_keeps (I.setBand h)))
  · exact hs

theorem deconfigure_keeps {t} (hs : I.Holds s) : I.Holds (deconfigure s t) := by
  unfold deconfigure
  split
  · exact hs
  · extract_lets _ s₁ s₂ _ _ _
    have h₁ : I.Holds s₁ := by
      refine holds_foldl hs fun _ _ h => ?_
      split
      · exact loseEngine_keeps h
      · exact h
    have h₂ : I.Holds s₂ := by
      unfold s₂
      split
      · exact holds_foldl h₁ fun _ _ h => killContext_keeps h
      · exact h₁
    exact writeDeconf_keeps (addLog_keeps (modTile_keeps h₂).frame.frame)

theorem execTileDeconfiguration_keeps (hs : I.Holds s) : I.After (execTileDeconfiguration s) := by
  unfold execTileDeconfiguration
  split
  · next e => exact deconfigure_keeps (headEvent_keeps hs e)
  · exact hs

theorem execThermalStop_keeps (hs : I.Holds s) : I.After (execThermalStop s) := by
  unfold execThermalStop
  split
  · next e =>
    have h := headEvent_keeps hs e
    refine holds_ite h (TableInvariant.Holds.frame (addLog_keeps (TableInvariant.Holds.mapTiles ?_ (holds_foldl h ?_))))
    · exact fun _ => rfl
    · exact fun _ _ h => killContext_keeps h
  · exact hs

theorem execHealthMonitorSample_keeps (hs : I.Holds s) : I.After (execHealthMonitorSample s) := by
  unfold execHealthMonitorSample
  split
  · next e => exact modMonitor_keeps (headEvent_keeps hs e)
  · exact hs

theorem execHealthMonitorClear_keeps (hs : I.Holds s) : I.After (execHealthMonitorClear s) := by
  unfold execHealthMonitorClear
  split
  · next e => exact modMonitor_keeps (headEvent_keeps hs e)
  · exact hs

/-! The functions of Sys2Proof/Machine/Bringup.lean. -/

theorem offState_keeps (hs : I.Holds s) : I.Holds (offState s) :=
  I.bands (g := []) .nil (I.noQueues (I.noQps (I.noTiles (I.noDir (I.noMem hs)))))

theorem execPowerLoss_keeps (hs : I.Holds s) : I.After (execPowerLoss s) := by
  unfold execPowerLoss
  split
  · next e => exact offState_keeps (headEvent_keeps hs e)
  · exact hs

theorem nextStage_keeps (hs : I.Holds s) : I.Holds (nextStage s) := hs.frame

theorem bringUpStep_keeps (hs : I.Holds s) : I.Holds (bringUpStep s) := by
  unfold bringUpStep
  dsimp only
  split
  · refine holds_ite hs.frame ?_
    split
    · exact hs.frame
    · exact nextStage_keeps hs.frame
  · exact holds_ite (nextStage_keeps (I.bands (startBands_rises _ _) hs)) hs.frame
  · exact holds_ite (nextStage_keeps (I.noTiles (I.noDir (I.noMem hs)))) hs.frame
  · exact nextStage_keeps (recordTiles_keeps hs).frame
  · exact holds_ite (startBoots_keeps hs).frame hs.frame
  · exact hs

theorem bringUp_keeps (hs : I.Holds s) : I.Holds (bringUp s) := holds_ite hs (bringUpStep_keeps hs)

theorem execPowerOn_keeps (hs : I.Holds s) : I.After (execPowerOn s) := by
  unfold execPowerOn
  split
  · next e =>
    have ht := headEvent_keeps hs e
    exact holds_ite ht ht.frame
  · exact hs

theorem execHostLinkTraining_keeps (hs : I.Holds s) : I.After (execHostLinkTraining s) := by
  unfold execHostLinkTraining
  split
  · next e => exact (headEvent_keeps hs e).frame
  · exact hs

theorem serveCall_keeps {e i k} (hs : I.Holds s) (hk : ∀ a s, I.Holds s → I.Holds (k a s)) : I.After (serveCall e i s k) := by
  unfold serveCall
  dsimp only
  split
  · exact hs
  · split
    · exact schedule_keeps hs
    · split
      · exact hs
      · exact hk _ _ hs.frame

theorem answerCall_keeps {i code more} (hs : I.Holds s) : I.Holds (answerCall s i code more) := modHart_keeps hs

theorem callMeet_keeps {i lines write k} (hs : I.Holds s) (hk : ∀ s, I.Holds s → I.Holds (k s)) :
    I.Holds (callMeet s i lines write k) := by
  unfold callMeet
  split
  · next e => exact answerCall_keeps ((meetAt_keeps hs).snd e)
  · next e => exact hk _ ((meetAt_keeps hs).snd e)

theorem execPinfo_keeps (hs : I.Holds s) : I.After (execPinfo s) := by
  unfold execPinfo
  split
  · next e =>
    refine serveCall_keeps (headEvent_keeps hs e) fun _ _ h => ?_
    split
    · exact answerCall_keeps h
    · exact answerCall_keeps h
  · exact hs

theorem execLogread_keeps (hs : I.Holds s) : I.After (execLogread s) := by
  unfold execLogread
  split
  · next e =>
    refine serveCall_keeps (headEvent_keeps hs e) fun _ _ h => holds_ite (answerCall_keeps h) ?_
    split
    · exact answerCall_keeps h
    · exact callMeet_keeps h fun _ h' => answerCall_keeps (performWrite_keeps h')
  · exact hs

theorem execPeerreg_keeps (hs : I.Holds s) : I.After (execPeerreg s) := by
  unfold execPeerreg
  split
  · next e =>
    refine serveCall_keeps (headEvent_keeps hs e) fun _ _ h => holds_ite (answerCall_keeps h) (callMeet_keeps h fun _ h' => holds_ite
        (answerCall_keeps h') (callMeet_keeps h' fun _ h'' => ?_))
    split
    · exact answerCall_keeps h''
    · exact answerCall_keeps (meet_keeps h'').frame
  · exact hs

theorem execFabesc_keeps (hs : I.Holds s) : I.After (execFabesc s) := by
  unfold execFabesc
  split
  · next e => exact serveCall_keeps (headEvent_keeps hs e) fun _ _ h => answerCall_keeps (killContext_keeps (addLog_keeps h))
  · exact hs

theorem execAttest_keeps (hs : I.Holds s) : I.After (execAttest s) := by
  unfold execAttest
  split
  · next e => exact serveCall_keeps (headEvent_keeps hs e) fun _ _ h => holds_ite (answerCall_keeps h) (callMeet_keeps h fun _ h' =>
        callMeet_keeps h' fun _ h'' => answerCall_keeps (performWrite_keeps h''))
  · exact hs

/-! The functions of Sys2Proof/Machine/Ether.lean. -/

theorem doorbell_keeps {port qp kind v} (hs : I.Holds s) : I.Holds (doorbell s port qp kind v) := ethDoorbell_keeps hs

theorem execSendQueueDoorbell_keeps (hs : I.Holds s) : I.After (execSendQueueDoorbell s) := by
  unfold execSendQueueDoorbell
  split
  · next e => exact doorbell_keeps (headEvent_keeps hs e)
  · exact hs

theorem execReceiveQueueDoorbell_keeps (hs : I.Holds s) : I.After (execReceiveQueueDoorbell s) := by
  unfold execReceiveQueueDoorbell
  split
  · next e => exact doorbell_keeps (headEvent_keeps hs e)
  · exact hs

theorem execCompletionQueueDoorbell_keeps (hs : I.Holds s) : I.After (execCompletionQueueDoorbell s) := by
  unfold execCompletionQueueDoorbell
  split
  · next e => exact doorbell_keeps (headEvent_keeps hs e)
  · exact hs

theorem failEntry_keeps {k wrid op status} (hs : I.Holds s) : I.Holds (failEntry s k wrid op status) := completeQp_keeps hs

theorem transmit_keeps {q k e psn acked} (hs : I.Holds s) : I.Holds (transmit s q k e psn acked).2 := by
  unfold transmit
  dsimp only
  split
  · exact hs.frame
  · split
    · next e => exact (qpLoadBytes_keeps hs).snd e
    · next e => exact ((qpLoadBytes_keeps hs).snd e).frame

theorem takeSend_keeps {q k} (hs : I.Holds s) : I.Holds (takeSend s q k) := by
  unfold takeSend
  extract_lets _ _ s₁
  have h₁ : I.Holds s₁ := modQp_keeps hs
  split
  · next e => exact failEntry_keeps (entryOf_keeps ((qpLoad_keeps h₁).snd e))
  · next e =>
    have ht := (qpLoad_keeps h₁).snd e
    dsimp only
    split
    · exact failEntry_keeps ht
    · split
      · next e1 => exact failEntry_keeps ((transmit_keeps ht).snd e1)
      · next e1 => exact modQp_keeps ((transmit_keeps ht).snd e1)

theorem portSends_keeps {port qp op} (hs : I.Holds s) : I.Holds (portSends s port qp op) := by
  unfold portSends
  dsimp only
  split
  · exact holds_ite (takeSend_keeps hs) hs
  · exact hs

theorem execSend_keeps (hs : I.Holds s) : I.After (execSend s) := by
  unfold execSend
  split
  · next e => exact portSends_keeps (headEvent_keeps hs e)
  · exact hs

theorem execSendWithImmediate_keeps (hs : I.Holds s) : I.After (execSendWithImmediate s) := by
  unfold execSendWithImmediate
  split
  · next e => exact portSends_keeps (headEvent_keeps hs e)
  · exact hs

theorem execRdmaWrite_keeps (hs : I.Holds s) : I.After (execRdmaWrite s) := by
  unfold execRdmaWrite
  split
  · next e => exact portSends_keeps (headEvent_keeps hs e)
  · exact hs

theorem execRdmaWriteWithImmediate_keeps (hs : I.Holds s) : I.After (execRdmaWriteWithImmediate s) := by
  unfold execRdmaWriteWithImmediate
  split
  · next e => exact portSends_keeps (headEvent_keeps hs e)
  · exact hs

theorem execRdmaRead_keeps (hs : I.Holds s) : I.After (execRdmaRead s) := by
  unfold execRdmaRead
  split
  · next e => exact portSends_keeps (headEvent_keeps hs e)
  · exact hs

theorem reply_keeps {port qp b} (hs : I.Holds s) : I.Holds (reply s port qp b) := by
  unfold reply
  split
  · exact hs.frame
  · exact hs

theorem acknowledge_keeps {port qp len} (hs : I.Holds s) : I.Holds (acknowledge s port qp len) := by
  unfold acknowledge
  split
  · exact hs
  · exact modQp_keeps (reply_keeps hs)

theorem takeRecv_keeps {q k} (hs : I.Holds s) : I.Holds (takeRecv s q k).2 := by
  unfold takeRecv
  extract_lets _ s₁
  have h₁ : I.Holds s₁ := modQp_keeps hs
  split
  · next e => exact (qpLoad_keeps h₁).snd e
  · next e => exact entryOf_keeps ((qpLoad_keeps h₁).snd e)

theorem completeRecv_keeps {k entry bytes op status imm} (hs : I.Holds s) : I.Holds (completeRecv s k entry bytes op status imm) :=
  completeQp_keeps hs

theorem receiveSend_keeps {q port qp data imm} (hs : I.Holds s) : I.Holds (receiveSend s q port qp data imm) := by
  unfold receiveSend
  extract_lets _ _ s₁
  have h₁ : I.Holds s₁.2 := takeRecv_keeps hs
  split
  · exact reply_keeps hs
  · split
    · split
      · exact completeRecv_keeps (reply_keeps h₁)
      · split
        · exact completeRecv_keeps (reply_keeps h₁)
        · split
          · next e => exact completeRecv_keeps (reply_keeps ((qpStoreBytes_keeps h₁).fst e))
          · next e => exact acknowledge_keeps (completeRecv_keeps ((qpStoreBytes_keeps h₁).fst e))

theorem execIncomingSend_keeps (hs : I.Holds s) : I.After (execIncomingSend s) := by
  unfold execIncomingSend
  split
  · next e =>
    have ht := headEvent_keeps hs e
    split
    · exact receiveSend_keeps ht
    · exact ht
  · exact hs

theorem receiveWrite_keeps {q port qp key addr data imm} (hs : I.Holds s) : I.Holds (receiveWrite s q port qp key addr data imm) := by
  unfold receiveWrite
  extract_lets
  split
  · exact reply_keeps hs
  · split
    · exact reply_keeps hs
    · split
      · next e => exact reply_keeps ((qpStoreBytes_keeps hs).fst e)
      · next e =>
        have ht := (qpStoreBytes_keeps hs).fst e
        split
        · exact acknowledge_keeps ht
        · extract_lets s₁
          have h₁ : I.Holds s₁.2 := takeRecv_keeps ht
          split
          · exact holds_ite (acknowledge_keeps (completeRecv_keeps h₁)) (completeRecv_keeps (reply_keeps h₁))

theorem execIncomingRdmaWrite_keeps (hs : I.Holds s) : I.After (execIncomingRdmaWrite s) := by
  unfold execIncomingRdmaWrite
  split
  · next e =>
    have ht := headEvent_keeps hs e
    split
    · exact receiveWrite_keeps ht
    · exact ht
  · exact hs

theorem execIncomingRdmaRead_keeps (hs : I.Holds s) : I.After (execIncomingRdmaRead s) := by
  unfold execIncomingRdmaRead
  split
  · next e =>
    have ht := headEvent_keeps hs e
    split
    · exact ht
    · split
      · exact reply_keeps ht
      · split
        · next e1 => exact reply_keeps ((qpLoadBytes_keeps ht).snd e1)
        · next e1 => exact modQp_keeps (reply_keeps ((qpLoadBytes_keeps ht).snd e1))
  · exact hs

theorem completeSent_keeps {k l} (hs : I.Holds s) : I.Holds (completeSent k l s) := by
  induction l generalizing s with
  | nil => exact hs
  | cons e t ih => exact ih (holds_ite (completeQp_keeps (modQp_keeps hs)) (modQp_keeps hs))

theorem acknowledgeTo_keeps {q k psn} (hs : I.Holds s) : I.Holds (acknowledgeTo s q k psn) := modQp_keeps (completeSent_keeps hs)

theorem execAck_keeps (hs : I.Holds s) : I.After (execAck s) := by
  unfold execAck
  split
  · next e =>
    have ht := headEvent_keeps hs e
    split
    · exact acknowledgeTo_keeps ht
    · exact ht
  · exact hs

theorem execRdmaReadResponse_keeps (hs : I.Holds s) : I.After (execRdmaReadResponse s) := by
  unfold execRdmaReadResponse
  split
  · next e =>
    have ht := headEvent_keeps hs e
    split
    · exact ht
    · split
      · exact ht
      · extract_lets _ s₁
        have h₁ : I.Holds s₁ := completeSent_keeps ht
        split
        · next e1 => exact completeSent_keeps ((qpStoreBytes_keeps h₁).fst e1)
        · next e1 => exact failEntry_keeps (modQp_keeps ((qpStoreBytes_keeps h₁).fst e1))
  · exact hs

theorem failOldest_keeps {q k status} (hs : I.Holds s) : I.Holds (failOldest s q k status) := by
  unfold failOldest
  split
  · exact hs
  · exact failEntry_keeps (modQp_keeps hs)

theorem resend_keeps {k l} (hs : I.Holds s) : I.Holds (resend k l s) := by
  induction l generalizing s with
  | nil => exact hs
  | cons e t ih =>
    unfold resend
    split
    · exact hs
    · refine holds_ite hs ?_
      dsimp only
      split
      · next x => exact failEntry_keeps (modQp_keeps ((qpLoad_keeps hs).snd x))
      · next x =>
        have h := (qpLoad_keeps hs).snd x
        split
        · next y => exact ih ((transmit_keeps h).snd y)
        · next y => exact failEntry_keeps (modQp_keeps ((transmit_keeps h).snd y))

theorem retrySend_keeps {q k} (hs : I.Holds s) : I.Holds (retrySend s q k) :=
  holds_ite hs (holds_ite (resend_keeps (modQp_keeps hs)) (failOldest_keeps hs))

theorem execSequenceErrorNak_keeps (hs : I.Holds s) : I.After (execSequenceErrorNak s) := by
  unfold execSequenceErrorNak
  split
  · next e =>
    have ht := headEvent_keeps hs e
    split
    · extract_lets s₁
      have h₁ : I.Holds s₁ := acknowledgeTo_keeps ht
      split
      · exact retrySend_keeps h₁
      · exact h₁
    · exact ht
  · exact hs

theorem execAckTimeout_keeps (hs : I.Holds s) : I.After (execAckTimeout s) := by
  unfold execAckTimeout
  split
  · next e =>
    have ht := headEvent_keeps hs e
    split
    · exact retrySend_keeps ht
    · exact ht
  · exact hs

theorem execReceiverNotReadyNak_keeps (hs : I.Holds s) : I.After (execReceiverNotReadyNak s) := by
  unfold execReceiverNotReadyNak
  split
  · next e =>
    have ht := headEvent_keeps hs e
    split
    · exact holds_ite ht (modQp_keeps ht)
    · exact ht
  · exact hs

theorem execRnrWaitExpiry_keeps (hs : I.Holds s) : I.After (execRnrWaitExpiry s) := by
  unfold execRnrWaitExpiry
  split
  · next e =>
    have ht := headEvent_keeps hs e
    split
    · exact ht
    · extract_lets _ s₁
      have h₁ : I.Holds s₁ := modQp_keeps ht
      exact holds_ite ht (holds_ite (resend_keeps (modQp_keeps h₁)) (failOldest_keeps h₁))
  · exact hs

/-- The definition is unfolded as a function, not at its arguments: there the kernel would evaluate the comparison of `qpIndex` by
unary steps. -/
theorem nakEntry_keeps {p qpn psn status} (hs : I.Holds s) : I.Holds (nakEntry s p qpn psn status) := by
  generalize body : @nakEntry = f
  delta nakEntry at body
  subst body
  dsimp -zeta only
  generalize wireQp s p qpn = found
  split
  · exact hs
  · dsimp only
    split
    · exact hs
    · exact failEntry_keeps (modQp_keeps hs)

theorem execRemoteAccessNak_keeps (hs : I.Holds s) : I.After (execRemoteAccessNak s) := by
  unfold execRemoteAccessNak
  split
  · next e => exact nakEntry_keeps (headEvent_keeps hs e)
  · exact hs

theorem execRemoteOperationNak_keeps (hs : I.Holds s) : I.After (execRemoteOperationNak s) := by
  unfold execRemoteOperationNak
  split
  · next e => exact nakEntry_keeps (headEvent_keeps hs e)
  · exact hs

theorem execCongestionNotificationPacket_keeps (hs : I.Holds s) : I.After (execCongestionNotificationPacket s) := by
  unfold execCongestionNotificationPacket
  split
  · next e =>
    have ht := headEvent_keeps hs e
    split
    · exact modQp_keeps ht
    · exact ht
  · exact hs

theorem execRateRecovery_keeps (hs : I.Holds s) : I.After (execRateRecovery s) := by
  unfold execRateRecovery
  split
  · next e => exact modQp_keeps (headEvent_keeps hs e)
  · exact hs

theorem execCeMarkedPacket_keeps (hs : I.Holds s) : I.After (execCeMarkedPacket s) := by
  unfold execCeMarkedPacket
  split
  · next e =>
    have ht := headEvent_keeps hs e
    split
    · exact ht
    · extract_lets s₁
      have h₁ : I.Holds s₁ := ht.frame
      exact holds_ite (reply_keeps h₁) h₁
  · exact hs

theorem execPriorityFlowControl_keeps (hs : I.Holds s) : I.After (execPriorityFlowControl s) := by
  unfold execPriorityFlowControl
  split
  · next e =>
    have ht := headEvent_keeps hs e
    exact after_ite (holds_ite ht.frame ht) (ht.frame)
  · exact hs

theorem readWindows_keeps {sp n va} (hs : I.Holds s) : I.Holds (readWindows s sp n va).2 := by
  induction n generalizing s va with
  | zero => exact hs
  | succ n ih =>
    unfold readWindows
    split
    · next e => exact (agentLoad_keeps hs).snd e
    · next e => exact ih ((agentLoad_keeps hs).snd e)

theorem execQpopen_keeps (hs : I.Holds s) : I.After (execQpopen s) := by
  unfold execQpopen
  split
  · next e =>
    refine serveCall_keeps (headEvent_keeps hs e) fun p s h => ?_
    extract_lets a x s₁
    have h₁ : I.Holds s₁ := meet_keeps h
    refine holds_ite (answerCall_keeps h) (holds_ite (answerCall_keeps h₁) ?_)
    split
    · exact answerCall_keeps h₁
    · split
      · exact answerCall_keeps (meet_keeps h₁)
      · split
        · next e => exact answerCall_keeps ((readWindows_keeps (meet_keeps h₁)).snd e)
        · next e =>
          have ht := (readWindows_keeps (meet_keeps h₁)).snd e
          exact holds_ite (answerCall_keeps ht) (holds_ite (answerCall_keeps ht) (answerCall_keeps (I.setQp ht)))
  · exact hs

theorem execQpclose_keeps (hs : I.Holds s) : I.After (execQpclose s) := by
  unfold execQpclose
  split
  · next e =>
    exact serveCall_keeps (headEvent_keeps hs e) fun p s h => holds_ite (answerCall_keeps h) (answerCall_keeps (I.delQp (flushQp_keeps h)))
  · exact hs

/-! The functions of Sys2Proof/Machine/Sched.lean. -/

theorem execWorkQueueDoorbell_keeps (hs : I.Holds s) : I.After (execWorkQueueDoorbell s) := by
  unfold execWorkQueueDoorbell
  split
  · next e => exact queueDoorbell_keeps (afterHostWrites_keeps (headEvent_keeps hs e))
  · exact hs

theorem advanceRound_keeps {p q c w} (hs : I.Holds s) : I.Holds (advanceRound s p q c w) := by
  unfold advanceRound
  dsimp only
  exact holds_ite hs.frame hs.frame

theorem acceptPacket_keeps {p f} (hs : I.Holds s) : I.Holds (acceptPacket s p f) := by
  unfold acceptPacket
  extract_lets
  split
  · exact hs.frame
  · extract_lets s₁ _
    have h₁ : I.Holds s₁ := hs.frame
    exact holds_ite (writeRecord_keeps h₁) (holds_ite (graphWrite_keeps h₁).frame (graphWrite_keeps h₁).frame)

theorem checkPacket_keeps {p q slot cls ctx shb x} (hs : I.Holds s) : I.Holds (checkPacket s p q slot cls ctx shb x) := by
  unfold checkPacket
  extract_lets k dropped f s₂ s₃
  have hd : I.Holds dropped := addLog_keeps hs
  have h₂ : I.Holds s₂ := by
    unfold s₂
    split
    · exact holds_ite hs (meetGraph_keeps hs)
    · exact hs
  have h₃ : I.Holds s₃ := by
    unfold s₃
    split
    · exact holds_ite (graphWrite_keeps h₂) h₂
    · exact h₂
  split
  · exact hd
  · refine holds_ite hd ?_
    split
    · exact failTrans_keeps hd
    · split
      · exact acceptPacket_keeps h₂
      · exact writeRecord_keeps h₃

theorem takePacket_keeps {p q} (hs : I.Holds s) : I.Holds (takePacket s p q) :=
  checkPacket_keeps (advanceRound_keeps (setCounts_keeps (meet_keeps (meet_keeps hs))))

theorem execPacketTake_keeps (hs : I.Holds s) : I.After (execPacketTake s) := by
  unfold execPacketTake
  split
  · next e =>
    have ht := headEvent_keeps hs e
    split
    · exact holds_ite (takePacket_keeps ht) ht
    · exact ht
  · exact hs

theorem placeHart_keeps {f n i root asid} (hs : I.Holds s) : I.Holds (placeHart s f n i root asid) := by
  unfold placeHart
  extract_lets _ _ _ _ s₂
  have h₂ : I.Holds s₂ := modTile_keeps (holds_ite (modTile_keeps hs) hs)
  split
  · exact h₂
  · exact modFarm_keeps (modHart_keeps h₂)

theorem placeAll_keeps {f root asid l} (hs : I.Holds s) : I.Holds (placeAll f root asid l s) := by
  induction l generalizing s with
  | nil => exact hs
  | cons x t ih => exact ih (placeHart_keeps hs)

theorem requestPreemption_keeps {p f} (hs : I.Holds s) : I.Holds (requestPreemption s p f) := by
  unfold requestPreemption
  split
  · exact hs
  · split
    · exact hs
    · refine holds_foldl (modFarm_keeps hs) fun _ _ h => ?_
      split
      · exact modHart_keeps h
      · exact h

theorem placeNext_keeps {p f} (hs : I.Holds s) : I.Holds (placeNext s p f) := by
  unfold placeNext
  split
  · exact hs
  · exact placeAll_keeps (meet_keeps hs)

theorem execHartPlacement_keeps (hs : I.Holds s) : I.After (execHartPlacement s) := by
  unfold execHartPlacement
  split
  · next e =>
    have ht := headEvent_keeps hs e
    split
    · exact ht
    · split
      · exact ht
      · split
        · exact ht
        · exact holds_ite (placeNext_keeps ht) (requestPreemption_keeps ht)
  · exact hs

theorem execFarmCompletion_keeps (hs : I.Holds s) : I.After (execFarmCompletion s) := by
  unfold execFarmCompletion
  split
  · next e =>
    have ht := headEvent_keeps hs e
    split
    · exact ht
    · split
      · exact ht
      · extract_lets s₁
        have h₁ : I.Holds s₁ := checkTrigger_keeps ht
        split
        · exact endFarm_keeps h₁
        · exact h₁
  · exact hs

/-! The functions of Sys2Proof/Machine/Weights.lean. -/

theorem blockBytes_keeps {fuel n va} (hs : I.Holds s) : I.Holds (blockBytes fuel n va s).state := by
  induction fuel generalizing n va s with
  | zero => exact hs
  | succ fuel ih =>
    unfold blockBytes
    split
    · exact hs
    · exact Access.bind_keeps (loadAs_keeps hs) fun _ _ h => Access.bind_keeps (ih h) fun _ _ h => h

theorem readHeader_keeps {va} (hs : I.Holds s) : I.Holds (readHeader va s).state :=
  Access.bind_keeps (blockBytes_keeps hs) (fun _ _ h => h)

theorem readPayload_keeps {b ctab va} (hs : I.Holds s) : I.Holds (readPayload b ctab va s).state := by
  unfold readPayload
  refine Access.bind_keeps (blockBytes_keeps hs) fun _ _ h => holds_apply_ite Access.state h ?_
  split
  · exact h
  · split
    · exact h
    · exact h

theorem mmaEffect_keeps {b p} (hs : I.Holds s) : I.Holds (mmaEffect b p s) := by
  unfold mmaEffect
  dsimp only
  exact holds_ite hs (State.modHart_keeps (setAcc_keeps hs))

theorem leaveChain_keeps (hs : I.Holds s) : I.Holds (leaveChain s) := State.modHart_keeps (leaveWeight_keeps hs)

theorem toSuccessor_keeps {next} (hs : I.Holds s) : I.Holds (toSuccessor next s) :=
  holds_ite (leaveChain_keeps hs) (State.modHart_keeps hs)

theorem blockWaits_keeps (hs : I.Holds s) : I.Holds (blockWaits s) := State.modHart_keeps hs

theorem blockStalls_keeps {hdr} (hs : I.Holds s) : I.Holds (blockStalls hdr s) := State.modHart_keeps (blockWaits_keeps hs)

theorem beginBlock_keeps {hdr l} (hs : I.Holds s) : I.Holds (beginBlock hdr l s) := State.modHart_keeps (blockWaits_keeps hs)

theorem weightPreempt_keeps (hs : I.Holds s) : I.Holds (weightPreempt s) := preempt_keeps hs

theorem postBlock_keeps {b} (hs : I.Holds s) : I.Holds (postBlock b s).state := by
  unfold postBlock
  extract_lets _ s₁ _ _ _
  have h₁ : I.Holds s₁ := modTile_keeps hs
  split
  · exact holds_apply_ite BlockEnd.state h₁ h₁
  · split
    · exact hs
    · split
      · exact hs
      · exact State.modHart_keeps (modTile_keeps hs)

theorem BlockEnd.out_keeps {x hdr} (hs : I.Holds x.state) : I.After (BlockEnd.out x hdr) := by
  unfold BlockEnd.out
  split
  · exact toSuccessor_keeps hs
  · exact blockWaits_keeps hs
  · exact blockStalls_keeps hs
  · exact takeTrap_keeps hs

theorem runBlock_keeps {hdr eff} (hk : ∀ b p s, I.Holds s → I.After (eff b p s)) (hs : I.Holds s) : I.After (runBlock hdr eff s) := by
  unfold runBlock
  extract_lets b va perform point s₁
  have hp : ∀ {p s}, I.Holds s → I.After (perform p s) := fun h => after_ite (BlockEnd.out_keeps (postBlock_keeps h)) (hk _ _ _ h)
  have h₁ : I.Holds s₁ := holds_ite (State.modHart_keeps hs) hs
  split
  · exact hp hs
  · split
    · exact takeTrap_keeps hs
    · split
      · have read : ∀ {c : Prop} [Decidable c] {b ctab va p}, I.Holds (if c then readPayload b ctab va s else .ok p s).state :=
          holds_apply_ite Access.state (readPayload_keeps hs) hs
        split
        · next e => exact toSuccessor_keeps (read.access e)
        · next e => exact takeTrap_keeps (read.access e)
        · next e => exact blockStalls_keeps (read.access e)
      · refine after_ite (weightPreempt_keeps h₁) ?_
        split
        · next e => exact takeTrap_keeps (State.modHart_keeps ((readPayload_keeps h₁).access e))
        · next e => exact blockStalls_keeps ((readPayload_keeps h₁).access e)
        · next e =>
          have h := (readPayload_keeps h₁).access e
          split
          · exact takeTrap_keeps h
          · exact hp (beginBlock_keeps h)

theorem execWbMma_keeps {hdr} (hs : I.Holds s) : I.After (execWbMma hdr s) :=
  runBlock_keeps (fun _ _ _ h => toSuccessor_keeps (mmaEffect_keeps h)) hs

theorem portEffect_keeps {b p fuel} (hs : I.Holds s) : I.Holds (portEffect b p fuel s).state := by
  induction fuel generalizing s with
  | zero => exact hs
  | succ fuel ih =>
    unfold portEffect
    dsimp only
    split
    · exact hs
    · split
      · exact hs
      · exact ih (State.modHart_keeps (setFabric_keeps hs))

theorem ownGroup_keeps {b p} (hs : I.Holds s) : I.After (ownGroup b p s) := toSuccessor_keeps (State.modHart_keeps hs)

theorem execWbAdd_keeps {hdr} (hs : I.Holds s) : I.After (execWbAdd hdr s) :=
  runBlock_keeps (fun _ _ _ h => after_ite (BlockEnd.out_keeps (portEffect_keeps h)) (ownGroup_keeps h)) hs

theorem execWbScale_keeps {hdr} (hs : I.Holds s) : I.After (execWbScale hdr s) :=
  runBlock_keeps (fun _ _ _ h => ownGroup_keeps h) hs

theorem execWbAct_keeps {hdr} (hs : I.Holds s) : I.After (execWbAct hdr s) := runBlock_keeps (fun _ _ _ h => ownGroup_keeps h) hs

theorem drainBlock_keeps {top b p} (hs : I.Holds s) : I.Holds (drainBlock top b p s).state := by
  unfold drainBlock
  extract_lets _ _ _ _ _ _ s₂ _
  have h₂ : I.Holds s₂ := State.modHart_keeps (commitEach_keeps (walkElems_keeps (fun _ _ _ h => storeElem_keeps h) hs))
  split
  · exact h₂
  · exact State.modHart_keeps h₂
  · exact State.modHart_keeps h₂

theorem execWbDrain_keeps {hdr} (hs : I.Holds s) : I.After (execWbDrain hdr s) := by
  unfold execWbDrain
  refine runBlock_keeps (fun _ _ _ h => ?_) hs
  split
  · next e => exact toSuccessor_keeps ((drainBlock_keeps h).ended e)
  · next e => exact takeTrap_keeps ((drainBlock_keeps h).ended e)
  · next e => exact takeTrap_keeps ((drainBlock_keeps h).ended e)
  · next e => exact blockStalls_keeps ((drainBlock_keeps h).ended e)

theorem execWbBranch_keeps {hdr} (hs : I.Holds s) : I.After (execWbBranch hdr s) :=
  runBlock_keeps (fun _ _ _ h => toSuccessor_keeps h) hs

theorem execWbCall_keeps {hdr} (hs : I.Holds s) : I.After (execWbCall hdr s) :=
  runBlock_keeps (fun _ _ _ h => toSuccessor_keeps (State.modHart_keeps h)) hs

theorem execWbRet_keeps {hdr} (hs : I.Holds s) : I.After (execWbRet hdr s) :=
  runBlock_keeps (fun _ _ _ h => toSuccessor_keeps (State.modHart_keeps h)) hs

theorem syncRead_keeps {va} (hs : I.Holds s) : I.Holds (syncRead va s).state := by
  refine Access.bind_keeps (barrierField_keeps hs) fun _ s h => holds_apply_ite Access.state
    (Access.bind_keeps (barrierField_keeps h) fun _ _ h => Access.bind_keeps (barrierField_keeps h) fun _ _ h =>
      Access.bind_keeps (barrierField_keeps h) fun _ _ h => h) ?_
  dsimp only
  split
  · exact State.modHart_keeps h
  · exact holds_apply_ite Access.state (State.modHart_keeps h) h
  · exact holds_apply_ite Access.state h (holds_apply_ite Access.state h
      (holds_ite (schedule_keeps (State.modHart_keeps h)) (State.modHart_keeps h).frame))

theorem syncWait_keeps {b va} (hs : I.Holds s) : I.Holds (syncWait b va s).state := by
  unfold syncWait
  dsimp only
  split
  · exact weightPreempt_keeps hs
  · split
    · next e => exact (syncRead_keeps hs).access e
    · next e => exact (syncRead_keeps hs).access e
    · next e => exact (syncRead_keeps hs).access e
    · next e => exact State.modHart_keeps ((syncRead_keeps hs).access e)
    · next e =>
      have ht := (syncRead_keeps hs).access e
      split
      · exact holds_apply_ite BlockEnd.state ht (State.modHart_keeps ht)
      · exact holds_apply_ite BlockEnd.state (State.modHart_keeps ht) ht

theorem syncArrive_keeps {hdr va} (hs : I.Holds s) : I.After (syncArrive hdr va s) := by
  unfold syncArrive
  refine waitPerformed_keeps (blockStalls_keeps hs) fun _ h => ?_
  split
  · next e => exact takeTrap_keeps ((syncRead_keeps h).access e)
  · next e => exact (syncRead_keeps h).access e
  · next e => exact State.modHart_keeps ((syncRead_keeps h).access e)
  · next e => exact takeTrap_keeps (State.modHart_keeps ((syncRead_keeps h).access e))
  · next e => exact arriveAt_keeps (State.modHart_keeps ((syncRead_keeps h).access e))

theorem execWbSync_keeps {hdr} (hs : I.Holds s) : I.After (execWbSync hdr s) :=
  runBlock_keeps (fun _ _ _ h => after_ite (BlockEnd.out_keeps (syncWait_keeps h)) (syncArrive_keeps h)) hs

theorem execWbNop_keeps {hdr} (hs : I.Holds s) : I.After (execWbNop hdr s) :=
  runBlock_keeps (fun _ _ _ h => toSuccessor_keeps h) hs

theorem execWbExit_keeps {hdr} (hs : I.Holds s) : I.After (execWbExit hdr s) :=
  runBlock_keeps (fun _ _ _ h => toSuccessor_keeps h) hs

theorem execWdrive_keeps {a off} (hs : I.Holds s) : I.After (execWdrive a off s) := by
  unfold execWdrive
  split
  · exact takeTrap_keeps hs
  · exact waitPerformed_keeps hs fun _ h => after_ite h (after_ite (State.modHart_keeps (State.modHart_keeps (State.modTile_keeps h)))
        (after_ite (takeTrap_keeps h) (State.modHart_keeps (State.modHart_keeps (State.modTile_keeps h)))))

theorem postedEffect_keeps {hdr p} (hs : I.Holds s) : I.Holds (postedEffect hdr p s).2 := by
  unfold postedEffect
  extract_lets _ _ _ _ _ _ s₁
  have h₁ : I.Holds s₁ := State.modHart_keeps hs
  split
  · exact consumeStored_keeps (holds_ite hs (State.modHart_keeps hs))
  · split
    · exact holds_ite (mmaEffect_keeps hs) (State.modHart_keeps hs)
    · split
      · exact holds_ite (mmaEffect_keeps h₁) (State.modHart_keeps h₁)
      · split
        · exact trapAt_keeps (unwind_keeps (logLost_keeps (holds_ite h₁ (State.modHart_keeps h₁))))
        · exact recovered_keeps (holds_ite (mmaEffect_keeps (squashTickets_keeps h₁)) (State.modHart_keeps (squashTickets_keeps h₁)))

theorem runPosted_keeps {va x} (hs : I.Holds s) (e : runPosted va s = some x) : I.Holds x.2 := by
  unfold runPosted at e
  dsimp only at e
  generalize run : Access.bind _ _ = r at e
  have h : I.Holds r.state := by
    subst run
    refine Access.bind_keeps (readHeader_keeps hs) fun hdr t ht => holds_apply_ite Access.state ht ?_
    split
    · next e => exact holds_apply_ite Access.state ((readPayload_keeps ht).access e) (postedEffect_keeps ((readPayload_keeps ht).access e))
    · next e => exact (readPayload_keeps ht).access e
    · next e => exact (readPayload_keeps ht).access e
  cases r with
  | ok ok t => cases e; exact h
  | trap r t => cases e; exact h
  | stall t => cases e

theorem execWeightBlockPost_keeps (hs : I.Holds s) : I.After (execWeightBlockPost s) := by
  unfold execWeightBlockPost
  split
  · next e =>
    have ht := headEvent_keeps hs e
    split
    · exact ht
    · extract_lets
      split
      · split
        · exact modTile_keeps (modTile_keeps ht)
        · split
          · next e1 => exact modTile_keeps (modTile_keeps (runPosted_keeps ht.frame e1).frame)
          · exact ht
      · exact modTile_keeps (modTile_keeps ht)
  · exact hs

/-! The functions of Sys2Proof/Machine/System.lean. -/

theorem crInstr_keeps {i o d n src} (hs : I.Holds s) : I.After (crInstr i o d n src s) := by
  unfold crInstr
  extract_lets writes old go
  have hgo : I.After go := by
    refine after_ite (State.modHart_keeps hs) ?_
    split
    · exact takeTrap_keeps hs
    · next e => exact State.modHart_keeps ((crPut_keeps hs).of_eq e)
  exact after_ite (takeTrap_keeps hs) (after_ite (waitVq_keeps hs hgo) hgo)

theorem execCrr_keeps {d n} (hs : I.Holds s) : I.After (execCrr d n s) := crInstr_keeps hs

theorem execCrw_keeps {d a n} (hs : I.Holds s) : I.After (execCrw d a n s) := crInstr_keeps hs

theorem execCrs_keeps {d a n} (hs : I.Holds s) : I.After (execCrs d a n s) := crInstr_keeps hs

theorem execCrc_keeps {d a n} (hs : I.Holds s) : I.After (execCrc d a n s) := crInstr_keeps hs

theorem execEcall_keeps (hs : I.Holds s) : I.After (execEcall s) := by
  unfold execEcall
  refine waitVq_keeps hs ?_
  split
  · exact takeTrap_keeps hs
  · split
    · exact State.modHart_keeps hs
    · exact schedule_keeps (State.modHart_keeps hs).frame

theorem execEbrk_keeps (hs : I.Holds s) : I.After (execEbrk s) := by
  unfold execEbrk
  refine waitVq_keeps hs ?_
  split
  · exact takeTrap_keeps hs
  · exact escalateKill_keeps hs

theorem execTrapret_keeps (hs : I.Holds s) : I.After (execTrapret s) :=
  after_ite (takeTrap_keeps hs) (waitPerformed_keeps hs fun _ h => State.modHart_keeps h)

theorem execUret_keeps (hs : I.Holds s) : I.After (execUret s) := after_ite (takeTrap_keeps hs) (State.modHart_keeps hs)

theorem execWfe_keeps (hs : I.Holds s) : I.After (execWfe s) := State.modHart_keeps hs

theorem execTlbinv_keeps {d a} (hs : I.Holds s) : I.After (execTlbinv d a s) := by
  unfold execTlbinv
  split
  · exact takeTrap_keeps hs
  · exact waitPerformed_keeps hs fun _ h => after_ite h (after_ite (schedule_keeps h) (State.modHart_keeps (holds_foldl h fun _ _ h' =>
        holds_ite h' (modHart_keeps h')).frame))

theorem execCinv_keeps {d a} (hs : I.Holds s) : I.After (execCinv d a s) := State.modHart_keeps (State.modTile_keeps hs)

theorem execFence_keeps {x y} (hs : I.Holds s) : I.After (execFence x y s) :=
  waitPerformed_keeps hs fun _ h => State.modHart_keeps h

/-! The functions of Sys2Proof/Machine/Writes.lean. -/

theorem writeCr_keeps {e n v} (hs : I.Holds s) : I.After (writeCr e n v s) := by
  unfold writeCr
  dsimp only
  split
  · exact takeTrap_keeps hs
  · split
    · exact hs.frame
    · split
      · exact takeTrap_keeps hs
      · next e => exact (crPut_keeps hs).of_eq e

theorem execCtxidWrite_keeps (hs : I.Holds s) : I.After (execCtxidWrite s) := by
  unfold execCtxidWrite
  split
  · next e => exact writeCr_keeps (headEvent_keeps hs e)
  · exact hs

theorem execVlWrite_keeps (hs : I.Holds s) : I.After (execVlWrite s) := by
  unfold execVlWrite
  split
  · next e => exact writeCr_keeps (headEvent_keeps hs e)
  · exact hs

theorem execVtypeWrite_keeps (hs : I.Holds s) : I.After (execVtypeWrite s) := by
  unfold execVtypeWrite
  split
  · next e => exact writeCr_keeps (headEvent_keeps hs e)
  · exact hs

theorem execVlpWrite_keeps (hs : I.Holds s) : I.After (execVlpWrite s) := by
  unfold execVlpWrite
  split
  · next e => exact writeCr_keeps (headEvent_keeps hs e)
  · exact hs

theorem execFflagsWrite_keeps (hs : I.Holds s) : I.After (execFflagsWrite s) := by
  unfold execFflagsWrite
  split
  · next e => exact writeCr_keeps (headEvent_keeps hs e)
  · exact hs

theorem execVesWrite_keeps (hs : I.Holds s) : I.After (execVesWrite s) := by
  unfold execVesWrite
  split
  · next e => exact writeCr_keeps (headEvent_keeps hs e)
  · exact hs

theorem execValidityFieldWrite_keeps (hs : I.Holds s) : I.After (execValidityFieldWrite s) := by
  unfold execValidityFieldWrite
  split
  · next e => exact writeCr_keeps (headEvent_keeps hs e)
  · exact hs

theorem execRegisterWrite_keeps (hs : I.Holds s) : I.After (execRegisterWrite s) := by
  unfold execRegisterWrite
  split
  · next e =>
    have ht := headEvent_keeps hs e
    split
    · exact writeCr_keeps ht
    · exact holds_ite ht (devWrite_keeps ht)
  · exact hs

/-! The functions of Sys2Proof/Machine/Fetch.lean. -/

theorem cachedWord_keeps {t pa} (hs : I.Holds s) : I.Holds (cachedWord s t pa).state := by
  unfold cachedWord
  extract_lets
  split
  · exact hs
  · exact holds_ite (modTile_keeps hs) hs

theorem fetchWord_keeps {va} (hs : I.Holds s) : I.Holds (fetchWord s va).state := by
  unfold fetchWord
  extract_lets
  split
  · exact Actor.faulted_keeps hs
  · extract_lets
    split
    · exact cachedWord_keeps (markLeaf_keeps hs)
    · split
      · exact hs
      · exact cutResvs_keeps hs
      · split
        · exact refuseLines_keeps hs
        · extract_lets s₁
          have h₁ : I.Holds s₁ := completeLines_keeps (cutResvs_keeps hs)
          split
          · exact consumeBad_keeps h₁
          · exact cachedWord_keeps (markLeaf_keeps h₁)

theorem fetchInstr_keeps (hs : I.Holds s) : I.Holds (fetchInstr s).state := by
  unfold fetchInstr
  refine Access.bind_keeps (fetchWord_keeps hs) fun _ _ h => Access.bind_keeps (holds_apply_ite Access.state
      (fetchWord_keeps h) h) fun _ _ h' => ?_
  split
  · exact h'
  · exact h'

theorem nextBlock_keeps (hs : I.Holds s) : I.Holds (nextBlock s).state := by
  unfold nextBlock
  refine Access.bind_keeps ?_ fun _ _ h => ?_
  · split
    · exact hs
    · exact readHeader_keeps hs
  · split
    · exact h
    · exact h

/-! The functions of Sys2Proof/Machine/Agenda.lean. -/

theorem tick_keeps (hs : I.Holds s) : I.Holds (tick s) := by
  unfold tick
  extract_lets _ _ _ _ s₂
  have h₂ : I.Holds s₂ := (State.setHart_keeps hs).frame
  exact holds_ite (schedule_keeps h₂) h₂

theorem retryParked_keeps (hs : I.Holds s) : I.Holds (retryParked s) := hs.frame

theorem askHomes_keeps {l} (hs : I.Holds s) : I.Holds (askHomes s l) := by
  refine holds_foldl hs fun s a h => ?_
  extract_lets s₁
  have h₁ : I.Holds s₁ := holds_ite h (becomeBusy_keeps h)
  split
  · exact refuseLines_keeps h₁
  · exact h₁

theorem noteCounts_keeps (hs : I.Holds s) : I.Holds (noteCounts s) := by
  unfold noteCounts
  refine holds_foldl_queues (I.filterQueues hs) fun l p h => holds_foldl_queues h fun l q h => ?_
  split
  · exact I.setQueue h
  · exact h

theorem endTurn_keeps {goesOn} (hs : I.Holds s) : I.Holds (endTurn goesOn s) :=
  (schedule_keeps (noteCounts_keeps (retryParked_keeps (tick_keeps (State.modHart_keeps hs))))).frame

theorem forgetReads_keeps (hs : I.Holds s) : I.Holds (forgetReads s) := holds_ite hs (State.modHart_keeps hs.frame)

theorem closeTurn_keeps {ran u} (hs : I.Holds s) (hs1 : I.Holds u) : I.Holds (closeTurn s ran u) := by
  unfold closeTurn
  split
  · exact endTurn_keeps (askHomes_keeps hs)
  · split
    · exact endTurn_keeps hs1
    · exact endTurn_keeps (forgetReads_keeps hs1)

theorem runEvent_keeps {e} (hs : I.Holds s) : I.Holds (runEvent s e).state := hs.frame

theorem takeDue_keeps {e} (hs : I.Holds s) : I.Holds (takeDue s e).state :=
  holds_apply_ite Choice.state (runEvent_keeps hs) (schedule_keeps hs)

theorem unlessError_keeps {i} (hs : I.Holds s) : I.Holds (unlessError i s).state := by
  unfold unlessError
  split
  · next e => exact (meetError_keeps hs).of_eq e
  · exact hs

theorem commitBefore_keeps {i b p} (hs : I.Holds s) : I.Holds (commitBefore i b p s).state := by
  unfold commitBefore
  split
  · split
    · split
      · exact holds_apply_ite Ended.state (State.modHart_keeps hs) hs
      · exact holds_apply_ite Ended.state (State.modHart_keeps hs) hs
      · exact holds_apply_ite Ended.state (State.modHart_keeps hs) hs
      · exact drainBlock_keeps hs
      · exact hs
    · exact hs
  · exact hs

theorem blockOrError_keeps {i} (hs : I.Holds s) : I.Holds (blockOrError i s).state := by
  unfold blockOrError
  split
  · exact unlessError_keeps hs
  · split
    · exact hs
    · split
      · exact hs
      · split
        · next e => exact unlessError_keeps ((commitBefore_keeps hs).ended e)
        · next e => exact trapNow_keeps ((commitBefore_keeps hs).ended e)
        · next e => exact trapNow_keeps ((commitBefore_keeps hs).ended e)
        · next e => exact blockStalls_keeps (beginBlock_keeps ((commitBefore_keeps hs).ended e))

theorem runningTurn_keeps (hs : I.Holds s) : I.Holds (runningTurn s).state := by
  unfold runningTurn
  split
  · next e => exact trapNow_keeps ((fetchInstr_keeps hs).access e)
  · next e =>
    split
    · exact takeDue_keeps hs
    · exact (fetchInstr_keeps hs).access e
  · next e =>
    have ht := (fetchInstr_keeps hs).access e
    split
    · exact ht
    · split
      · exact takeDue_keeps hs
      · exact holds_apply_ite Choice.state (schedule_keeps hs) (unlessError_keeps ht)

theorem weightTurn_keeps (hs : I.Holds s) : I.Holds (weightTurn s).state := by
  unfold weightTurn
  split
  · exact takeDue_keeps hs
  · split
    · next e => exact trapNow_keeps ((nextBlock_keeps hs).access e)
    · next e => exact (nextBlock_keeps hs).access e
    · next e => exact blockOrError_keeps ((nextBlock_keeps hs).access e)

theorem wfeTurn_keeps (hs : I.Holds s) : I.Holds (wfeTurn s).state :=
  holds_apply_ite Choice.state (State.modHart_keeps hs) (schedule_keeps hs)

theorem turn_keeps (hs : I.Holds s) : I.Holds (turn s).state := by
  unfold turn
  extract_lets _ s₁
  have h₁ : I.Holds s₁ := State.modHart_keeps hs
  split
  · exact hs
  · split
    · exact holds_apply_ite Choice.state h₁ (holds_apply_ite Choice.state (blockOrError_keeps h₁) (unlessError_keeps h₁))
    · exact holds_apply_ite Choice.state (trapAt_keeps (State.modHart_keeps hs)) (schedule_keeps hs)
    · split
      · exact runningTurn_keeps hs
      · exact weightTurn_keeps hs
      · exact wfeTurn_keeps hs
      · exact hs
      · exact hs
      · exact hs

/-! The functions of Sys2Proof/Machine/Dispatch.lean. -/

theorem exec_keeps {i} (hs : I.Holds s) : I.After (exec i s) := by
  cases i with
  | add => exact execAdd_keeps hs
  | sub => exact execSub_keeps hs
  | and => exact execAnd_keeps hs
  | or => exact execOr_keeps hs
  | xor => exact execXor_keeps hs
  | sll => exact execSll_keeps hs
  | srl => exact execSrl_keeps hs
  | sra => exact execSra_keeps hs
  | slt => exact execSlt_keeps hs
  | sltn => exact execSltn_keeps hs
  | min => exact execMin_keeps hs
  | max => exact execMax_keeps hs
  | minn => exact execMinn_keeps hs
  | maxn => exact execMaxn_keeps hs
  | mul => exact execMul_keeps hs
  | mulh => exact execMulh_keeps hs
  | mulhn => exact execMulhn_keeps hs
  | div => exact execDiv_keeps hs
  | divn => exact execDivn_keeps hs
  | rem => exact execRem_keeps hs
  | remn => exact execRemn_keeps hs
  | clz => exact execClz_keeps hs
  | ctz => exact execCtz_keeps hs
  | popc => exact execPopc_keeps hs
  | brev => exact execBrev_keeps hs
  | addi => exact execAddi_keeps hs
  | andi => exact execAndi_keeps hs
  | ori => exact execOri_keeps hs
  | xori => exact execXori_keeps hs
  | slti => exact execSlti_keeps hs
  | sltni => exact execSltni_keeps hs
  | slli => exact execSlli_keeps hs
  | srli => exact execSrli_keeps hs
  | srai => exact execSrai_keeps hs
  | lui => exact execLui_keeps hs
  | auipc => exact execAuipc_keeps hs
  | limm => exact execLimm_keeps hs
  | limmH => exact execLimmH_keeps hs
  | ldb => exact execLdb_keeps hs
  | ldh => exact execLdh_keeps hs
  | ldw => exact execLdw_keeps hs
  | ldd => exact execLdd_keeps hs
  | ldbN => exact execLdbN_keeps hs
  | ldhN => exact execLdhN_keeps hs
  | ldwN => exact execLdwN_keeps hs
  | ldaq d a n sz sc => exact execLdaq_keeps (x := sc) hs
  | stb => exact execStb_keeps hs
  | sth => exact execSth_keeps hs
  | stw => exact execStw_keeps hs
  | std => exact execStd_keeps hs
  | strel d a sz sc => exact execStrel_keeps (x := sc) hs
  | amoadd d a b o sc sz => exact execAmoadd_keeps (x := sc) hs
  | amoand d a b o sc sz => exact execAmoand_keeps (x := sc) hs
  | amoor d a b o sc sz => exact execAmoor_keeps (x := sc) hs
  | amoxor d a b o sc sz => exact execAmoxor_keeps (x := sc) hs
  | amomin d a b o sc sz n => exact execAmomin_keeps (x := sc) hs
  | amomax d a b o sc sz n => exact execAmomax_keeps (x := sc) hs
  | amoswp d a b o sc sz => exact execAmoswp_keeps (x := sc) hs
  | amocas d a b o sc sz => exact execAmocas_keeps (x := sc) hs
  | beq => exact execBeq_keeps hs
  | bne => exact execBne_keeps hs
  | blt => exact execBlt_keeps hs
  | bge => exact execBge_keeps hs
  | bltn => exact execBltn_keeps hs
  | bgen => exact execBgen_keeps hs
  | jal => exact execJal_keeps hs
  | jalr => exact execJalr_keeps hs
  | fadd => exact execFadd_keeps hs
  | fsub => exact execFsub_keeps hs
  | fmul => exact execFmul_keeps hs
  | fdiv => exact execFdiv_keeps hs
  | fsqrt => exact execFsqrt_keeps hs
  | fmin => exact execFmin_keeps hs
  | fmax => exact execFmax_keeps hs
  | fcmp => exact execFcmp_keeps hs
  | fcvtToFloat => exact execFcvtToFloat_keeps hs
  | fcvtToInteger => exact execFcvtToInteger_keeps hs
  | fclass => exact execFclass_keeps hs
  | fma => exact execFma_keeps hs
  | crr => exact execCrr_keeps hs
  | crw => exact execCrw_keeps hs
  | crs => exact execCrs_keeps hs
  | crc => exact execCrc_keeps hs
  | ecall => exact execEcall_keeps hs
  | ebrk => exact execEbrk_keeps hs
  | trapret => exact execTrapret_keeps hs
  | uret => exact execUret_keeps hs
  | wfe => exact execWfe_keeps hs
  | halt => exact execHalt_keeps hs
  | tlbinv => exact execTlbinv_keeps hs
  | cinv => exact execCinv_keeps hs
  | fence o sc => exact execFence_keeps (x := o) (y := sc) hs
  | safept => exact execSafept_keeps hs
  | setvl => exact execSetvl_keeps hs
  | setvli => exact execSetvli_keeps hs
  | lpreq => exact execLpreq_keeps hs
  | vadd => exact execVadd_keeps hs
  | vsub => exact execVsub_keeps hs
  | vmul => exact execVmul_keeps hs
  | vmulh => exact execVmulh_keeps hs
  | vmadd => exact execVmadd_keeps hs
  | vand => exact execVand_keeps hs
  | vor => exact execVor_keeps hs
  | vxor => exact execVxor_keeps hs
  | vsll => exact execVsll_keeps hs
  | vsrl => exact execVsrl_keeps hs
  | vsra => exact execVsra_keeps hs
  | vmin => exact execVmin_keeps hs
  | vmax => exact execVmax_keeps hs
  | vminn => exact execVminn_keeps hs
  | vmaxn => exact execVmaxn_keeps hs
  | vsadd => exact execVsadd_keeps hs
  | vssub => exact execVssub_keeps hs
  | vcmpEq => exact execVcmpEq_keeps hs
  | vcmpNe => exact execVcmpNe_keeps hs
  | vcmpLt => exact execVcmpLt_keeps hs
  | vcmpGe => exact execVcmpGe_keeps hs
  | vcmpLtn => exact execVcmpLtn_keeps hs
  | vcmpGen => exact execVcmpGen_keeps hs
  | vmerge => exact execVmerge_keeps hs
  | vmv => exact execVmv_keeps hs
  | vfadd => exact execVfadd_keeps hs
  | vfsub => exact execVfsub_keeps hs
  | vfmul => exact execVfmul_keeps hs
  | vfdiv => exact execVfdiv_keeps hs
  | vfsqrt => exact execVfsqrt_keeps hs
  | vfmin => exact execVfmin_keeps hs
  | vfmax => exact execVfmax_keeps hs
  | vfcmpEq => exact execVfcmpEq_keeps hs
  | vfcmpNe => exact execVfcmpNe_keeps hs
  | vfcmpLt => exact execVfcmpLt_keeps hs
  | vfcmpLe => exact execVfcmpLe_keeps hs
  | vfexp2 => exact execVfexp2_keeps hs
  | vfrcp => exact execVfrcp_keeps hs
  | vfrsq => exact execVfrsq_keeps hs
  | vfma => exact execVfma_keeps hs
  | vfnma => exact execVfnma_keeps hs
  | vfcvt => exact execVfcvt_keeps hs
  | kand => exact execKand_keeps hs
  | kor => exact execKor_keeps hs
  | kxor => exact execKxor_keeps hs
  | knot => exact execKnot_keeps hs
  | kpopc => exact execKpopc_keeps hs
  | kfirst => exact execKfirst_keeps hs
  | kmov => exact execKmov_keeps hs
  | vredsum => exact execVredsum_keeps hs
  | vredmax => exact execVredmax_keeps hs
  | vredmin => exact execVredmin_keeps hs
  | vfredsum => exact execVfredsum_keeps hs
  | vfredo => exact execVfredo_keeps hs
  | vslideup => exact execVslideup_keeps hs
  | vslidedn => exact execVslidedn_keeps hs
  | vperm => exact execVperm_keeps hs
  | vcompress => exact execVcompress_keeps hs
  | vexpand => exact execVexpand_keeps hs
  | viota => exact execViota_keeps hs
  | vbcast => exact execVbcast_keeps hs
  | vextr => exact execVextr_keeps hs
  | vins => exact execVins_keeps hs
  | vld => exact execVld_keeps hs
  | vldSc => exact execVldSc_keeps hs
  | vlds => exact execVlds_keeps hs
  | vldx => exact execVldx_keeps hs
  | vst => exact execVst_keeps hs
  | vstSc => exact execVstSc_keeps hs
  | vsts => exact execVsts_keeps hs
  | vstx => exact execVstx_keeps hs
  | vldq => exact execVldq_keeps hs
  | vldqStrided => exact execVldqStrided_keeps hs
  | vldqIndexed => exact execVldqIndexed_keeps hs
  | vamoadd => exact execVamoadd_keeps hs
  | vamoand => exact execVamoand_keeps hs
  | vamoor => exact execVamoor_keeps hs
  | vamoxor => exact execVamoxor_keeps hs
  | vamomin => exact execVamomin_keeps hs
  | vamomax => exact execVamomax_keeps hs
  | vamoswp => exact execVamoswp_keeps hs
  | vpostadd => exact execVpostadd_keeps hs
  | vpostand => exact execVpostand_keeps hs
  | vpostor => exact execVpostor_keeps hs
  | vpostxor => exact execVpostxor_keeps hs
  | vpostmin => exact execVpostmin_keeps hs
  | vpostmax => exact execVpostmax_keeps hs
  | vpostswp => exact execVpostswp_keeps hs
  | vcapp => exact execVcapp_keeps hs
  | vldz => exact execVldz_keeps hs
  | vstz => exact execVstz_keeps hs
  | vcopy => exact execVcopy_keeps hs
  | vfill => exact execVfill_keeps hs
  | vldsImmediate => exact execVldsImmediate_keeps hs
  | vstsImmediate => exact execVstsImmediate_keeps hs
  | mcfg => exact execMcfg_keeps hs
  | mma => exact execMma_keeps hs
  | mzero => exact execMzero_keeps hs
  | mrel => exact execMrel_keeps hs
  | mdrain => exact execMdrain_keeps hs
  | mdrainx => exact execMdrainx_keeps hs
  | mldacc => exact execMldacc_keeps hs
  | rld => exact execRld_keeps hs
  | rst => exact execRst_keeps hs
  | ramoadd => exact execRamoadd_keeps hs
  | ramoand => exact execRamoand_keeps hs
  | ramoor => exact execRamoor_keeps hs
  | ramoxor => exact execRamoxor_keeps hs
  | ramomin => exact execRamomin_keeps hs
  | ramomax => exact execRamomax_keeps hs
  | ramoswp => exact execRamoswp_keeps hs
  | ramocas => exact execRamocas_keeps hs
  | rfence => exact execRfence_keeps hs
  | rldx => exact execRldx_keeps hs
  | rstx => exact execRstx_keeps hs
  | rapp => exact execRapp_keeps hs
  | rbatch => exact execRbatch_keeps hs
  | rwait => exact execRwait_keeps hs
  | barrive => exact execBarrive_keeps hs
  | bwait => exact execBwait_keeps hs
  | trigger => exact execTrigger_keeps hs
  | nexts => exact execNexts_keeps hs
  | launch => exact execLaunch_keeps hs
  | crec => exact execCrec_keeps hs
  | fswap => exact execFswap_keeps hs
  | fdrain => exact execFdrain_keeps hs
  | fstat => exact execFstat_keeps hs
  | fpush => exact execFpush_keeps hs
  | fpop => exact execFpop_keeps hs
  | fload => exact execFload_keeps hs
  | sopen => exact execSopen_keeps hs
  | sbind => exact execSbind_keeps hs
  | sclose => exact execSclose_keeps hs
  | sstat => exact execSstat_keeps hs
  | wdrive => exact execWdrive_keeps hs
  | wbMma => exact execWbMma_keeps hs
  | wbAdd => exact execWbAdd_keeps hs
  | wbScale => exact execWbScale_keeps hs
  | wbAct => exact execWbAct_keeps hs
  | wbDrain => exact execWbDrain_keeps hs
  | wbBranch => exact execWbBranch_keeps hs
  | wbCall => exact execWbCall_keeps hs
  | wbRet => exact execWbRet_keeps hs
  | wbSync => exact execWbSync_keeps hs
  | wbNop => exact execWbNop_keeps hs
  | wbExit => exact execWbExit_keeps hs
  | weightBlockPost => exact execWeightBlockPost_keeps hs
  | interruptEntry => exact execInterruptEntry_keeps hs
  | userLevelInterrupt => exact execUserLevelInterrupt_keeps hs
  | scountZero => exact execScountZero_keeps hs
  | safePointDistanceFault => exact execSafePointDistanceFault_keeps hs
  | wfeTimeLimit => exact execWfeTimeLimit_keeps hs
  | ctxidWrite => exact execCtxidWrite_keeps hs
  | vlWrite => exact execVlWrite_keeps hs
  | vtypeWrite => exact execVtypeWrite_keeps hs
  | vlpWrite => exact execVlpWrite_keeps hs
  | fflagsWrite => exact execFflagsWrite_keeps hs
  | vesWrite => exact execVesWrite_keeps hs
  | validityFieldWrite => exact execValidityFieldWrite_keeps hs
  | registerWrite => exact execRegisterWrite_keeps hs
  | pinfo => exact execPinfo_keeps hs
  | logread => exact execLogread_keeps hs
  | peerreg => exact execPeerreg_keeps hs
  | fabesc => exact execFabesc_keeps hs
  | attest => exact execAttest_keeps hs
  | qpopen => exact execQpopen_keeps hs
  | qpclose => exact execQpclose_keeps hs
  | workQueueDoorbell => exact execWorkQueueDoorbell_keeps hs
  | packetTake => exact execPacketTake_keeps hs
  | hartPlacement => exact execHartPlacement_keeps hs
  | farmCompletion => exact execFarmCompletion_keeps hs
  | killNotice => exact execKillNotice_keeps hs
  | killAcknowledgement => exact execKillAcknowledgement_keeps hs
  | killAcknowledgementTimeout => exact execKillAcknowledgementTimeout_keeps hs
  | fillRequest => exact execFillRequest_keeps hs
  | writeRequest => exact execWriteRequest_keeps hs
  | evictionNotice => exact execEvictionNotice_keeps hs
  | invalidation => exact execInvalidation_keeps hs
  | invalidationAcknowledgement => exact execInvalidationAcknowledgement_keeps hs
  | fillResponse => exact execFillResponse_keeps hs
  | writeAcknowledgement => exact execWriteAcknowledgement_keeps hs
  | holdAcknowledgement => exact execHoldAcknowledgement_keeps hs
  | requestRefusal => exact execRequestRefusal_keeps hs
  | retryBackoffExpiry => exact execRetryBackoffExpiry_keeps hs
  | hostRequest => exact execHostRequest_keeps hs
  | backInvalidateResponse => exact execBackInvalidateResponse_keeps hs
  | hostSnoop => exact execHostSnoop_keeps hs
  | writeCombineFlush => exact execWriteCombineFlush_keeps hs
  | reservationRegistration => exact execReservationRegistration_keeps hs
  | cutNotice => exact execCutNotice_keeps hs
  | reservationFree => exact execReservationFree_keeps hs
  | subBatchArrival => exact execSubBatchArrival_keeps hs
  | remoteReply => exact execRemoteReply_keeps hs
  | batchCompletion => exact execBatchCompletion_keeps hs
  | barrierArrival => exact execBarrierArrival_keeps hs
  | streamReadElement => exact execStreamReadElement_keeps hs
  | streamWriteElement => exact execStreamWriteElement_keeps hs
  | peFire => exact execPeFire_keeps hs
  | tokenTransfer => exact execTokenTransfer_keeps hs
  | fabricFaultDelivery => exact execFabricFaultDelivery_keeps hs
  | peQuiescence => exact execPeQuiescence_keeps hs
  | regionDrained => exact execRegionDrained_keeps hs
  | stagingComplete => exact execStagingComplete_keeps hs
  | swapComplete => exact execSwapComplete_keeps hs
  | clusterRetirement => exact execClusterRetirement_keeps hs
  | guardBandRaise => exact execGuardBandRaise_keeps hs
  | tileDeconfiguration => exact execTileDeconfiguration_keeps hs
  | thermalStop => exact execThermalStop_keeps hs
  | healthMonitorSample => exact execHealthMonitorSample_keeps hs
  | healthMonitorClear => exact execHealthMonitorClear_keeps hs
  | powerOn => exact execPowerOn_keeps hs
  | sendQueueDoorbell => exact execSendQueueDoorbell_keeps hs
  | receiveQueueDoorbell => exact execReceiveQueueDoorbell_keeps hs
  | completionQueueDoorbell => exact execCompletionQueueDoorbell_keeps hs
  | send => exact execSend_keeps hs
  | sendWithImmediate => exact execSendWithImmediate_keeps hs
  | rdmaWrite => exact execRdmaWrite_keeps hs
  | rdmaWriteWithImmediate => exact execRdmaWriteWithImmediate_keeps hs
  | rdmaRead => exact execRdmaRead_keeps hs
  | incomingSend => exact execIncomingSend_keeps hs
  | incomingRdmaWrite => exact execIncomingRdmaWrite_keeps hs
  | incomingRdmaRead => exact execIncomingRdmaRead_keeps hs
  | ack => exact execAck_keeps hs
  | sequenceErrorNak => exact execSequenceErrorNak_keeps hs
  | receiverNotReadyNak => exact execReceiverNotReadyNak_keeps hs
  | remoteAccessNak => exact execRemoteAccessNak_keeps hs
  | ackTimeout => exact execAckTimeout_keeps hs
  | rnrWaitExpiry => exact execRnrWaitExpiry_keeps hs
  | congestionNotificationPacket => exact execCongestionNotificationPacket_keeps hs
  | ceMarkedPacket => exact execCeMarkedPacket_keeps hs
  | rateRecovery => exact execRateRecovery_keeps hs
  | priorityFlowControl => exact execPriorityFlowControl_keeps hs
  | vectorInstructionRetirement => exact execVectorInstructionRetirement_keeps hs
  | peerUnreachable => exact execPeerUnreachable_keeps hs
  | powerLoss => exact execPowerLoss_keeps hs
  | rdmaReadResponse => exact execRdmaReadResponse_keeps hs
  | remoteOperationNak => exact execRemoteOperationNak_keeps hs
  | hostLinkTraining => exact execHostLinkTraining_keeps hs
  | cxlCacheResponse => exact execCxlCacheResponse_keeps hs

/-! The functions of Sys2Proof/Machine/Step.lean. -/

theorem runTurn_keeps (hs : I.Holds s) : I.After (runTurn s) := by
  unfold runTurn
  split
  · next e => exact closeTurn_keeps hs ((turn_keeps hs).choice e)
  · next e =>
    split
    · next e1 => exact closeTurn_keeps hs (settle_keeps ((exec_keeps ((turn_keeps hs).choice e)).of_eq e1))
    · exact trivial
    · exact trivial

theorem parkAt_keeps {e l} (hs : I.Holds s) : I.Holds (parkAt s e l) := by
  unfold parkAt
  extract_lets s₁
  have h₁ : I.Holds s₁ := hs.frame
  split
  · split
    · exact holds_ite h₁ (holds_ite h₁.frame h₁.frame)
    · exact h₁
  · exact h₁.frame
  · exact h₁.frame

theorem park_keeps {e l} (hs : I.Holds s) : I.Holds (park s e l) := askHomes_keeps (parkAt_keeps hs)

theorem runMove_keeps {e} (hs : I.Holds s) : I.After (runMove e s) := by
  refine after_ite (park_keeps hs) ?_
  have h := exec_keeps (i := e.row) hs
  split
  · next x => exact holds_ite (noteCounts_keeps (h.of_eq x)) (park_keeps hs)
  · exact h

theorem runUpset_keeps {u} (hs : I.Holds s) : I.Holds (runUpset u s) := by
  unfold runUpset
  extract_lets s₁ _
  have h₁ : I.Holds s₁ := hs.frame
  exact holds_ite (applyUpset_keeps h₁) (askHomes_keeps h₁.frame)

theorem changeRanges_keeps {part rs} (hs : I.Holds s) : I.Holds (changeRanges part rs s) := by
  unfold changeRanges
  extract_lets s₁
  have h₁ : I.Holds s₁ := hs.frame
  exact holds_ite h₁ (holds_ite (schedule_keeps h₁.frame) h₁.frame)

theorem step_keeps (hs : I.Holds s) : I.After (step s) := by
  unfold step
  split
  · exact after_ite (runMove_keeps hs) trivial
  · exact after_ite (runUpset_keeps hs) trivial
  · exact after_ite (bringUp_keeps hs.frame) trivial
  · exact after_ite (changeRanges_keeps hs) trivial
  · exact after_ite (runTurn_keeps hs.frame) trivial
  · exact after_ite (runTurn_keeps hs) trivial

/-! Log 4: the maps' edits keep their keys rising. -/

section
variable {α : Type} {l : List (Nat × α)}

theorem rising_cons {e : Nat × α} : Rising (e :: l) ↔ (∀ n ∈ l.map fun x => x.1, e.1 < n) ∧ Rising l := List.pairwise_cons

theorem Rising.of_sublist {β : Type} {r : List (Nat × β)} (h : Rising l)
    (keys : List.Sublist (r.map fun e => e.1) (l.map fun e => e.1)) : Rising r := h.sublist keys

theorem mem_keys_alSet {a n : Nat} {y : α} (h : n ∈ (alSet l a y).map fun x => x.1) : n = a ∨ n ∈ l.map fun x => x.1 := by
  induction l with
  | nil => exact .inl (List.mem_singleton.mp h)
  | cons e t ih =>
    unfold alSet at h
    split at h
    · rcases List.mem_cons.mp h with rfl | h
      · exact .inr (List.mem_cons_self ..)
      · exact (ih h).imp_right (List.mem_cons_of_mem _)
    · split at h
      · exact (List.mem_cons.mp h).imp_right (List.mem_cons_of_mem _)
      · exact List.mem_cons.mp h

theorem Rising.alSet {a : Nat} {y : α} (h : Rising l) : Rising (Machine.alSet l a y) := by
  induction l with
  | nil => exact List.pairwise_singleton _ _
  | cons e t ih =>
    obtain ⟨below, rises⟩ := rising_cons.mp h
    unfold Machine.alSet
    split
    · next lt =>
      refine rising_cons.mpr ⟨fun n hn => ?_, ih rises⟩
      rcases mem_keys_alSet hn with rfl | hn
      · exact lt
      · exact below n hn
    · next ge =>
      split
      · next eq => exact rising_cons.mpr ⟨fun n hn => eq ▸ below n hn, rises⟩
      · next ne =>
        have lt : a < e.1 := by omega
        refine rising_cons.mpr ⟨fun n hn => ?_, h⟩
        rcases List.mem_cons.mp hn with rfl | hn
        · exact lt
        · exact Nat.lt_trans lt (below n hn)

theorem alDel_sublist {a : Nat} : List.Sublist (alDel l a) l := by
  induction l with
  | nil => exact .slnil
  | cons e t ih =>
    unfold alDel
    split
    · exact List.sublist_cons_self ..
    · exact ih.cons_cons _

theorem Rising.alDel {a : Nat} (h : Rising l) : Rising (Machine.alDel l a) := h.of_sublist (alDel_sublist.map _)

theorem Rising.map {f : Nat × α → Nat × α} (hf : ∀ e, (f e).1 = e.1) (h : Rising l) : Rising (l.map f) := by
  unfold Rising
  rw [List.map_map]
  exact (List.map_congr_left fun e _ => hf e : l.map (Prod.fst ∘ f) = _) ▸ h
end

/-- The keys of the tables rise (log 4; of a state: `holds_risingInvariant_iff`). -/
def Tables.rising (m : Tables) : Prop :=
  Rising m.dir ∧ Rising m.tiles ∧ Rising m.qps ∧ Rising m.queues ∧ Rising m.gb ∧
  ∀ r, m.flash.slot0 = some r ∨ m.flash.slot1 = some r → Rising r.tiles ∧ Rising r.gb

/-- Each edit of a table keeps the keys rising. -/
def risingInvariant : TableInvariant where
  holds := Tables.rising
  setByte h := h
  noMem h := h
  memOf h _ := h
  setDir := fun ⟨dir, rest⟩ => ⟨dir.alSet, rest⟩
  delDir := fun ⟨dir, rest⟩ => ⟨dir.alDel, rest⟩
  noDir := fun ⟨_, rest⟩ => ⟨.nil, rest⟩
  dirOf := fun ⟨_, rest⟩ ⟨dir, _⟩ => ⟨dir, rest⟩
  setTile := fun ⟨dir, tiles, rest⟩ => ⟨dir, tiles.alSet, rest⟩
  mapTiles := fun hf ⟨dir, tiles, rest⟩ => ⟨dir, tiles.map hf, rest⟩
  noTiles := fun ⟨dir, _, rest⟩ => ⟨dir, .nil, rest⟩
  setQp := fun ⟨dir, tiles, qps, rest⟩ => ⟨dir, tiles, qps.alSet, rest⟩
  delQp := fun ⟨dir, tiles, qps, rest⟩ => ⟨dir, tiles, qps.alDel, rest⟩
  noQps := fun ⟨dir, tiles, _, rest⟩ => ⟨dir, tiles, .nil, rest⟩
  setQueue := fun ⟨dir, tiles, qps, queues, rest⟩ => ⟨dir, tiles, qps, queues.alSet, rest⟩
  filterQueues := fun ⟨dir, tiles, qps, queues, rest⟩ => ⟨dir, tiles, qps, queues.of_sublist (List.filter_sublist.map _), rest⟩
  noQueues := fun ⟨dir, tiles, qps, _, rest⟩ => ⟨dir, tiles, qps, .nil, rest⟩
  setBand := fun ⟨dir, tiles, qps, queues, gb, records⟩ => ⟨dir, tiles, qps, queues, gb.alSet, records⟩
  bands := fun hg ⟨dir, tiles, qps, queues, _, records⟩ => ⟨dir, tiles, qps, queues, hg, records⟩
  record0 := fun keys bands h => by
    obtain ⟨dir, tiles, qps, queues, gb, records⟩ := h
    refine ⟨dir, tiles, qps, queues, gb, fun r slot => ?_⟩
    rcases slot with slot | slot
    · cases slot
      exact ⟨tiles.of_sublist keys, bands ▸ gb⟩
    · exact records r (.inr slot)
  record1 := fun keys bands h => by
    obtain ⟨dir, tiles, qps, queues, gb, records⟩ := h
    refine ⟨dir, tiles, qps, queues, gb, fun r slot => ?_⟩
    rcases slot with slot | slot
    · exact records r (.inl slot)
    · cases slot
      exact ⟨tiles.of_sublist keys, bands ▸ gb⟩

theorem holds_risingInvariant_iff : risingInvariant.Holds s ↔ s.rising := Iff.rfl

/-- Settles O35: the keys of the tables rise after a step, since each edit of a table that a step makes keeps them rising. -/
theorem mapsRise : Obligations.MapsRise := by
  intro s t h e
  exact holds_risingInvariant_iff.mp ((step_keeps (holds_risingInvariant_iff.mpr h)).of_eq e)

end Sys2Proof.Machine
end

section
/-! ResetHolds (O36). After reset every hart is the free hart, but that the boot hart runs (`getHart_reset`); the registers are read off
there, and each invariant is a lemma of its own. -/

namespace Sys2Proof.Machine

/-- The boot hart's tile alone differs from the reset tile (21 R413; log 1). -/
theorem tileAt_reset (n : Nat) : tileAt State.reset n = if n = 0 then { Tile.reset with h0 := Hart.boot 0 } else Tile.reset := by
  by_cases hn : n = 0
  · cases hn
    rfl
  · simp only [tileAt, State.reset, alGet, if_neg (Ne.symm hn), if_neg hn, if_neg (Nat.not_lt_zero n), Option.getD_none]

/-- Every hart is the free hart, but that the boot hart runs: the entry address of the model's plan is 0 (log 1). -/
theorem getHart_reset (i : HartId) : getHart State.reset i = { Hart.free with run := if i = State.reset.cur then .running else .wfe } := by
  obtain ⟨n, h1⟩ := i
  by_cases hn : n = 0
  · cases hn
    cases h1 <;> rfl
  · have other : (⟨n, h1⟩ : HartId) ≠ State.reset.cur := fun e => hn (congrArg HartId.tile e)
    rw [if_neg other, getHart, tileAt_reset, if_neg hn]
    cases h1 <;> rfl

/-- No byte is listed, so memory is in its canonical form (21 R411, log 4). -/
theorem memoryForm_reset : State.reset.memoryForm := rfl

/-- VTYPE is ill with VL and VLMAX 0 in every hart (02 R42, R52). -/
theorem shaped_reset : State.reset.shaped := by
  intro i
  rw [getHart_reset]
  exact ⟨fun _ => ⟨rfl, rfl⟩, fun wellFormed => nomatch wellFormed⟩

/-- One tile is listed, in the other tables and in the deconfiguration record nothing (log 1, 4). -/
theorem rising_reset : State.reset.rising := by
  refine ⟨.nil, List.pairwise_singleton _ _, .nil, .nil, .nil, fun r slot => ?_⟩
  rcases slot with slot | slot
  · cases slot
    exact ⟨.nil, .nil⟩
  · cases slot

/-- The hart queues are empty in every hart (01 R23; log 3). -/
theorem getD_q_free (n : Nat) : Hart.free.q.toList.getD n [] = [] := by
  rw [Hart.free, Vector.toList_replicate, List.getD_eq_getElem?_getD, List.getElem?_replicate]
  split <;> rfl

/-- Settles O36: the invariants hold at reset, and the fields of every hart are those of `Hart.free`, but that the boot hart runs. -/
theorem resetHolds : Obligations.ResetHolds := by
  refine ⟨memoryForm_reset, shaped_reset, rising_reset, rfl, rfl, rfl, rfl, fun _ => rfl, rfl, rfl, fun i => ?_⟩
  rw [getHart_reset]
  refine ⟨rfl, rfl, rfl, fun other => if_neg other, rfl, rfl, rfl, rfl, rfl, rfl, rfl, rfl, rfl, rfl, rfl, rfl, rfl, rfl, rfl, rfl, rfl,
    rfl, rfl, rfl, rfl, rfl, rfl, rfl, getD_q_free, Hart.rg_zero _⟩

end Sys2Proof.Machine
end

section
/-! MemoryFormKept (O33). The canonical form of memory (log 4) is a property of one table, `mem`: of the edits of the tables that occur
in the model (`TableInvariant`) three touch it, a byte set (`memSet_wf`), memory cleared, and memory taken over from another state. -/

namespace Sys2Proof.Machine

/-- Memory is in its canonical form (of a state: `holds_memoryInvariant_iff`); an edit of any other table leaves memory alone. -/
def memoryInvariant : TableInvariant where
  holds m := Memory.wf m.mem = true
  setByte h := memSet_wf _ _ _ h
  noMem _ := rfl
  memOf _ hn := hn
  setDir h := h
  delDir h := h
  noDir h := h
  dirOf h _ := h
  setTile h := h
  mapTiles _ h := h
  noTiles h := h
  setQp h := h
  delQp h := h
  noQps h := h
  setQueue h := h
  filterQueues h := h
  noQueues h := h
  setBand h := h
  bands _ h := h
  record0 _ _ h := h
  record1 _ _ h := h

theorem holds_memoryInvariant_iff {s : State} : memoryInvariant.Holds s ↔ s.memoryForm := Iff.rfl

/-- Settles O33: memory is in its canonical form after a step, since a step edits memory only by setting bytes, by clearing it and by
taking over the memory of another state that has the form. -/
theorem memoryFormKept : Obligations.MemoryFormKept := by
  intro s t h e
  exact holds_memoryInvariant_iff.mp ((step_keeps (holds_memoryInvariant_iff.mpr h)).of_eq e)

end Sys2Proof.Machine
end

section
/-! DecodeAndEncodeAgree (O32). What the encoder makes is read back: the lemmas of the instructions (`RoundTrip`), put together. The other
way round, each decoder is exact (`Decoded.Exact`): a word of a major opcode is the sum of the fields of its format (`ShortWord.encF3_eq` and
its like), and each operand that the decoder reads has the code that its field holds (`code_of_srcOf` and its like). -/

namespace Sys2Proof

/-- What a decoder reads of two words is well-formed and encodes as them; of what it rejects nothing is said. -/
def Decoded.Exact (w0 w1 : Nat) : Decoded → Prop
  | .instr i => i.wellFormed = true ∧ encode i = (w0, w1)
  | .reserved _ => True

theorem exact_reserved {w0 w1 : Nat} {r : Reject} : (Decoded.reserved r).Exact w0 w1 := trivial

theorem exact_need {w0 w1 : Nat} {p : Prop} [Decidable p] {r : Reject} {k : Decoded} (h : p → k.Exact w0 w1) :
    (need (decide p) r k).Exact w0 w1 := by
  by_cases hp : p
  · rw [decide_eq_true hp, Laws.need_true]; exact h hp
  · rw [decide_eq_false hp, Laws.need_false]; exact exact_reserved

theorem exact_withVal {w0 w1 : Nat} {α : Type} {o : Option α} {k : α → Decoded} (h : ∀ a, o = some a → (k a).Exact w0 w1) :
    (withVal o k).Exact w0 w1 := by
  cases o with
  | none => exact exact_reserved
  | some a => exact h a rfl

/-! The codes of the operands (05 R103, R109, R111, R114, R116): a code that is read as an operand is the code of that operand. -/

theorem code_of_scopeOf {n : Nat} {x : Scope} (h : scopeOf n = some x) : x.code = n := by
  unfold scopeOf at h; split at h <;> cases h <;> rfl

theorem code_of_memOrdOf {n : Nat} {x : MemOrd} (h : memOrdOf n = some x) : x.code = n := by
  unfold memOrdOf at h; split at h <;> cases h <;> rfl

theorem code_of_sizeOf {n : Nat} {x : Size} (h : sizeOf n = some x) : x.code = n := by
  unfold sizeOf at h; split at h <;> cases h <;> rfl

theorem code_of_wSizeOf {n : Nat} {x : WSize} (h : wSizeOf n = some x) : x.code = n := by
  unfold wSizeOf at h; split at h <;> cases h <;> rfl

theorem code_of_fFmtOf {n : Nat} {x : FFmt} (h : fFmtOf n = some x) : x.code = n := by
  unfold fFmtOf at h; split at h <;> cases h <;> rfl

theorem code_of_fCmpCondOf {n : Nat} {x : FCmpCond} (h : fCmpCondOf n = some x) : x.code = n := by
  unfold fCmpCondOf at h; split at h <;> cases h <;> rfl

theorem code_of_intTyOf {n : Nat} {x : IntTy} (h : intTyOf n = some x) : x.code = n := by
  unfold intTyOf at h; split at h <;> cases h <;> rfl

theorem code_of_elemTyOf {n : Nat} {x : ElemTy} (h : elemTyOf n = some x) : x.code = n := by
  unfold elemTyOf at h; split at h <;> cases h <;> rfl

theorem code_of_policyOf {n : Nat} {x : Policy} (h : policyOf n = some x) : x.code = n := by
  unfold policyOf at h; split at h <;> cases h <;> rfl

theorem code_of_cvtSrcOf {n : Nat} {x : CvtSrc} (h : cvtSrcOf n = some x) : x.code = n := by
  unfold cvtSrcOf at h
  split at h
  · obtain ⟨f, hf, rfl⟩ := Option.map_eq_some_iff.mp h
    exact code_of_fFmtOf hf
  · obtain ⟨t, ht, rfl⟩ := Option.map_eq_some_iff.mp h
    have := code_of_intTyOf ht
    simp only [CvtSrc.code]; omega

/-! Fields of a word: two that adjoin are one, and one of them that is zero drops out. -/

theorem fld_lt (w lo n : Nat) : fld w lo n < 2 ^ n := Nat.mod_lt _ (Nat.two_pow_pos n)

theorem fld_append (w lo n m : Nat) : fld w lo (n + m) = fld w lo n + 2 ^ n * fld w (lo + n) m := by
  unfold fld
  rw [Nat.pow_add, Nat.mod_mul, Nat.div_div_eq_div_mul, ← Nat.pow_add]

theorem fld_of_ofNat_eq_zero {w lo n : Nat} (h : BitVec.ofNat n (w / 2 ^ lo) = 0) : fld w lo n = 0 := congrArg BitVec.toNat h

theorem fld_eq_low {w lo n m : Nat} (h : fld w (lo + n) m = 0) : fld w lo (n + m) = fld w lo n := by
  rw [fld_append, h, Nat.mul_zero, Nat.add_zero]

theorem fld_append_eq_zero {w lo n m : Nat} (h : fld w lo (n + m) = 0) : fld w lo n = 0 ∧ fld w (lo + n) m = 0 := by
  rw [fld_append] at h
  have high : 2 ^ n * fld w (lo + n) m = 0 := Nat.eq_zero_of_add_eq_zero_left h
  exact ⟨Nat.eq_zero_of_add_eq_zero_right h, (Nat.mul_eq_zero.mp high).resolve_left (Nat.ne_of_gt (Nat.two_pow_pos n))⟩

theorem toNat_ofNat_div (n w lo : Nat) : (BitVec.ofNat n (w / 2 ^ lo)).toNat = fld w lo n := rfl

theorem toNat_ofNat_fld (n w : Nat) : (BitVec.ofNat n w).toNat = fld w 0 n := by rw [fld, Nat.pow_zero, Nat.div_one]; rfl

theorem fld_all {w : Nat} (h : w < 2 ^ 32) : fld w 0 32 = w := by rw [fld, Nat.pow_zero, Nat.div_one, Nat.mod_eq_of_lt h]

theorem bit_fld (w lo : Nat) : bit (decide (fld w lo 1 = 1)) = fld w lo 1 := by
  have := fld_lt w lo 1
  by_cases h : fld w lo 1 = 1
  · rw [h]; rfl
  · rw [decide_eq_false h]
    show 0 = fld w lo 1
    omega

theorem eq_three {n : Nat} (h : n < 2 ^ 2) (h0 : n ≠ 0) (h1 : n ≠ 1) (h2 : n ≠ 2) : n = 3 := by omega

theorem srcOf_cases {w : Nat} {b : Src} (h : srcOf w = some b) :
    (fld w 25 2 = 0 ∧ b = .v (fldB w)) ∨ (fld w 25 2 = 1 ∧ b = .g (fldB w)) ∨
    (fld w 25 2 = 2 ∧ fld w 19 3 = 0 ∧ b = .q (BitVec.ofNat 2 (w / 2 ^ 17))) ∨ (fld w 25 2 = 3 ∧ b = .imm (fldB w)) := by
  unfold srcOf at h
  split at h
  next hk => exact .inl ⟨hk, (Option.some.inj h).symm⟩
  next hk => exact .inr (.inl ⟨hk, (Option.some.inj h).symm⟩)
  next hk =>
    split at h
    next hz => exact .inr (.inr (.inl ⟨hk, hz, (Option.some.inj h).symm⟩))
    next => cases h
  next h0 h1 h2 => exact .inr (.inr (.inr ⟨eq_three (fld_lt w 25 2) h0 h1 h2, (Option.some.inj h).symm⟩))

theorem code_of_srcOf {w : Nat} {b : Src} (h : srcOf w = some b) : b.code = fld w 25 2 * 2 ^ 25 + fld w 17 5 * 2 ^ 17 := by
  have hq : fld w 17 5 = fld w 17 2 + 2 ^ 2 * fld w 19 3 := fld_append w 17 2 3
  rcases srcOf_cases h with ⟨hk, rfl⟩ | ⟨hk, rfl⟩ | ⟨hk, hz, rfl⟩ | ⟨hk, rfl⟩ <;> rw [hk]
  · rw [Nat.zero_mul, Nat.zero_add]; rfl
  · rw [Nat.one_mul]; rfl
  · rw [hq, hz]; rfl
  · rfl

theorem isVec_of_srcOf {w : Nat} {b : Src} (h : srcOf w = some b) (hs : fld w 25 1 = 0) : b.isVec = true := by
  have hj : fld w 25 2 = fld w 25 1 + 2 ^ 1 * fld w 26 1 := fld_append w 25 1 1
  rcases srcOf_cases h with ⟨hk, rfl⟩ | ⟨hk, rfl⟩ | ⟨hk, hz, rfl⟩ | ⟨hk, rfl⟩
  · rfl
  · omega
  · rfl
  · omega

theorem isIndex_of_srcOf {w : Nat} {b : Src} (h : srcOf w = some b) (hs : fld w 25 1 = 1 ∧ fld w 26 1 * fld w 21 1 = 0) :
    b.isIndex = true := by
  have hj : fld w 25 2 = fld w 25 1 + 2 ^ 1 * fld w 26 1 := fld_append w 25 1 1
  obtain ⟨odd, hn⟩ := hs
  rcases srcOf_cases h with ⟨hk, rfl⟩ | ⟨hk, rfl⟩ | ⟨hk, hz, rfl⟩ | ⟨hk, rfl⟩
  · omega
  · rfl
  · omega
  · have low := fld_lt w 17 4
    have hb : fld w 17 5 = fld w 17 4 + 2 ^ 4 * fld w 21 1 := fld_append w 17 4 1
    rw [show fld w 26 1 = 1 by omega, Nat.one_mul] at hn
    have msb : (fldB w).msb = false := by
      rw [BitVec.msb_eq_false_iff_two_mul_lt, show (fldB w).toNat = fld w 17 5 from rfl]
      omega
    rw [Src.isIndex, msb]; rfl

theorem code_of_vAddrOf {w : Nat} {b : VAddr} (h : vAddrOf w = some b) : b.code = fld w 25 2 * 2 ^ 25 + fld w 17 5 * 2 ^ 17 := by
  have hs := fld_lt w 25 2
  unfold vAddrOf at h
  split at h
  next hk => cases h; rw [hk, Nat.zero_mul, Nat.zero_add]; rfl
  next hk => cases h; rw [hk, Nat.one_mul]; rfl
  next => cases h
  next h0 h1 h2 => cases h; rw [eq_three hs h0 h1 h2]; rfl

theorem encStatus_of_statusOf {w : Nat} {x : Status} (h : statusOf (fld w 31 1) (fld w 23 5) = some x) :
    encStatus x = fld w 31 1 * 2 ^ 31 + fld w 23 5 * 2 ^ 23 := by
  have hs := fld_lt w 31 1
  unfold statusOf at h
  split at h
  next hk =>
    cases h
    rw [encStatus, BitVec.toNat_ofNat, Nat.mod_eq_of_lt (fld_lt w 23 5), hk, Nat.one_mul]
  next hk =>
    split at h
    next hz => cases h; rw [hz, show fld w 31 1 = 0 by omega]; rfl
    next => cases h

theorem encKStatus_of_kStatusOf {w : Nat} {x : KStatus} (h : kStatusOf (fld w 31 1) (fld w 22 3) = some x) :
    encKStatus x = fld w 31 1 * 2 ^ 31 + fld w 22 3 * 2 ^ 22 := by
  have hs := fld_lt w 31 1
  unfold kStatusOf at h
  split at h
  next hk =>
    cases h
    rw [encKStatus, BitVec.toNat_ofNat, Nat.mod_eq_of_lt (fld_lt w 22 3), hk, Nat.one_mul]
  next hk =>
    split at h
    next hz => cases h; rw [hz, show fld w 31 1 = 0 by omega]; rfl
    next => cases h

theorem code_of_bindTargetOf {w : Nat} {x : BindTarget} (h : bindTargetOf w = some x) :
    x.code = fld w 2 3 * 2 ^ 2 + fld w 5 6 * 2 ^ 5 + fld w 11 2 * 2 ^ 11 := by
  unfold bindTargetOf at h
  split at h
  next hk => cases h; rw [hk, Nat.zero_mul, Nat.zero_add]; rfl
  next hk => cases h; rw [hk, Nat.one_mul]; rfl
  next hk =>
    split at h
    next hz => cases h; rw [hk, hz]; rfl
    next => cases h
  next => cases h

/-! The formats (05 R103): a word is what its fields encode. -/

/-- A word of 32 bits that begins no long form, of a major opcode (05 R101, R107). -/
structure ShortWord (w major : Nat) : Prop where
  lt : w < 2 ^ 32
  even : w % 2 = 0
  major_eq : fld w 1 6 = major

/-- Two words of 32 bits of which the first begins a long form of a long major opcode (05 R101, R116). -/
structure LongWords (w0 w1 major : Nat) : Prop where
  lt0 : w0 < 2 ^ 32
  lt1 : w1 < 2 ^ 32
  odd : w0 % 2 = 1
  major_eq : fld w0 1 6 = major

/-- The lowest bit, the major opcode and the d field stand in every format, below bit 12 (05 R103). -/
theorem word_eq_fields {w : Nat} (lt : w < 2 ^ 32) : w = w % 2 + 2 * fld w 1 6 + 2 ^ 7 * fld w 7 5 + 2 ^ 12 * fld w 12 20 := by
  have h0 : fld w 0 32 = fld w 0 1 + 2 ^ 1 * fld w 1 31 := fld_append w 0 1 31
  have h1 : fld w 1 31 = fld w 1 6 + 2 ^ 6 * fld w 7 25 := fld_append w 1 6 25
  have h7 : fld w 7 25 = fld w 7 5 + 2 ^ 5 * fld w 12 20 := fld_append w 7 5 20
  have even : fld w 0 1 = w % 2 := by rw [fld, Nat.pow_zero, Nat.div_one, Nat.pow_one]
  rw [fld_all lt, even] at h0
  omega

/-- The fields above the a field, as F3 and L cut them (05 R103). -/
theorem upper_eq_fields (w : Nat) : fld w 12 20 = fld w 12 5 + 2 ^ 5 * fld w 17 5 + 2 ^ 10 * fld w 22 10 := by
  have h12 : fld w 12 20 = fld w 12 5 + 2 ^ 5 * fld w 17 15 := fld_append w 12 5 15
  have h17 : fld w 17 15 = fld w 17 5 + 2 ^ 5 * fld w 22 10 := fld_append w 17 5 10
  omega

section
variable {w m fn b a d : Nat} (h : ShortWord w m)
include h

theorem ShortWord.encFU_eq {imm : Nat} (hd : fld w 7 5 = d) (hi : fld w 12 20 = imm) : (encFU imm d m, 0) = (w, 0) := by
  obtain ⟨lt, even, major⟩ := h
  have whole := word_eq_fields lt
  rw [encFU, Prod.mk.injEq]
  omega

theorem ShortWord.encF3_eq (hd : fld w 7 5 = d) (ha : fld w 12 5 = a) (hb : fld w 17 5 = b) (hfn : fld w 22 10 = fn) :
    (encF3 fn b a d m, 0) = (w, 0) := by
  rw [← h.encFU_eq hd (upper_eq_fields w), ha, hb, hfn, encF3, encFU, Prod.mk.injEq]
  omega

theorem ShortWord.encFI_eq {imm : Nat} (hd : fld w 7 5 = d) (ha : fld w 12 5 = a) (hi : fld w 17 15 = imm) :
    (encFI imm a d m, 0) = (w, 0) := by
  rw [← h.encFU_eq hd (fld_append w 12 5 15), ha, hi, encFI, encFU, Prod.mk.injEq]
  omega

theorem ShortWord.encFM_eq {imm wf : Nat} (hd : fld w 7 5 = d) (ha : fld w 12 5 = a) (hi : fld w 17 10 = imm) (hwf : fld w 27 5 = wf) :
    (encFM wf imm a d m, 0) = (w, 0) := by
  rw [← h.encFI_eq hd ha (fld_append w 17 10 5), hi, hwf, encFM, encFI, Prod.mk.injEq]
  omega

theorem ShortWord.encFV_eq {src k : Nat} (hd : fld w 7 5 = d) (ha : fld w 12 5 = a) (hk : fld w 22 3 = k)
    (hs : src = fld w 25 2 * 2 ^ 25 + fld w 17 5 * 2 ^ 17) (hfn : fld w 27 5 = fn) : (encFV fn src k a d m, 0) = (w, 0) := by
  have h22 : fld w 22 10 = fld w 22 3 + 2 ^ 3 * fld w 25 7 := fld_append w 22 3 7
  have h25 : fld w 25 7 = fld w 25 2 + 2 ^ 2 * fld w 27 5 := fld_append w 25 2 5
  rw [← h.encF3_eq hd ha rfl rfl, hs, h22, h25, hk, hfn, encFV, encF3, Prod.mk.injEq]
  omega

end

theorem LongWords.encL_eq {w0 w1 m fn b a d x : Nat} (h : LongWords w0 w1 m) (hd : fld w0 7 5 = d) (ha : fld w0 12 5 = a)
    (hb : fld w0 17 5 = b) (hfn : fld w0 22 10 = fn) (hx : x = w1) : (encL fn b a d m, x) = (w0, w1) := by
  obtain ⟨lt, -, odd, major⟩ := h
  have whole := word_eq_fields lt
  have upper := upper_eq_fields w0
  rw [encL, hx, Prod.mk.injEq]
  omega

theorem ShortWord.encFP_eq {w op fmt aux b a d : Nat} (h : ShortWord w 0x11) (hd : fld w 7 5 = d) (ha : fld w 12 5 = a)
    (hb : fld w 17 5 = b) (ho : fld w 27 5 = op) (hf : fmt = fld w 25 2) (hx : fld w 22 3 = aux) :
    (encFP op fmt aux b a d, 0) = (w, 0) := by
  have h22 : fld w 22 10 = fld w 22 3 + 2 ^ 3 * fld w 25 7 := fld_append w 22 3 7
  have h25 : fld w 25 7 = fld w 25 2 + 2 ^ 2 * fld w 27 5 := fld_append w 25 2 5
  exact h.encF3_eq hd ha hb (by omega)

/-! The short forms (05 R107 to R115), each exact. -/

theorem exact_decodeIntReg {w : Nat} (h : ShortWord w 0x01) : (decodeIntReg w).Exact w 0 := by
  unfold decodeIntReg
  split
  iterate 21 next hf => exact ⟨rfl, h.encF3_eq rfl rfl rfl hf⟩
  iterate 4 next hf => exact exact_need fun hb => ⟨rfl, h.encF3_eq rfl rfl (fld_of_ofNat_eq_zero hb) hf⟩
  exact exact_reserved

theorem exact_decodeShiftImm {w : Nat} (h : ShortWord w 0x08) : (decodeShiftImm w).Exact w 0 := by
  have hi : fld w 17 15 = fld w 17 6 + 2 ^ 6 * fld w 23 9 := fld_append w 17 6 9
  have hk : fld w 23 9 = fld w 23 2 + 2 ^ 2 * fld w 25 7 := fld_append w 23 2 7
  refine exact_need fun hz => ?_
  have join : ∀ k, fld w 23 2 = k → fld w 17 15 = k * 2 ^ 6 + fld w 17 6 := by omega
  split
  iterate 3 next hf => exact ⟨rfl, h.encFI_eq rfl rfl (join _ hf)⟩
  exact exact_reserved

theorem exact_decodeLoad {w : Nat} (h : ShortWord w 0x0B) : (decodeLoad w).Exact w 0 := by
  have hi : fld w 17 10 = fld w 17 3 + 2 ^ 3 * fld w 20 7 := fld_append w 17 3 7
  have h27 : fld w 27 5 = fld w 27 3 + 2 ^ 3 * fld w 30 2 := fld_append w 27 3 2
  have h27' : fld w 27 3 = fld w 27 2 + 2 ^ 2 * fld w 29 1 := fld_append w 27 2 1
  have h30 : fld w 30 2 = fld w 30 1 + 2 ^ 1 * fld w 31 1 := fld_append w 30 1 1
  have lt30 := fld_lt w 30 1
  refine exact_need fun h31 => ?_
  split
  next hq =>
    refine exact_need fun hz => exact_need fun h7 => exact_withVal fun sz hsz => exact_withVal fun sc hsc => ⟨?_, ?_⟩
    · show (!(decide (fld w 29 1 = 1) && sz == .d)) = true
      cases wide : decide (fld w 29 1 = 1) && sz == .d with
      | false => rfl
      | true =>
        rw [Bool.and_eq_true, decide_eq_true_eq, beq_iff_eq] at wide
        obtain ⟨hn, rfl⟩ := wide
        have : 3 = fld w 27 2 := code_of_sizeOf hsz
        omega
    · have hsz := code_of_sizeOf hsz
      have hsc := code_of_scopeOf hsc
      refine h.encFM_eq rfl rfl ?_ ?_
      · omega
      · rw [bit_fld]; omega
  next hq =>
    have join : ∀ k, fld w 27 3 = k → fld w 27 5 = k := by omega
    split
    iterate 7 next hf => exact ⟨rfl, h.encFM_eq rfl rfl rfl (join _ hf)⟩
    exact exact_reserved

theorem exact_decodeStore {w : Nat} (h : ShortWord w 0x0C) : (decodeStore w).Exact w 0 := by
  have hi : fld w 17 10 = fld w 17 3 + 2 ^ 3 * fld w 20 7 := fld_append w 17 3 7
  have h27 : fld w 27 5 = fld w 27 2 + 2 ^ 2 * fld w 29 3 := fld_append w 27 2 3
  have h29 : fld w 29 3 = fld w 29 1 + 2 ^ 1 * fld w 30 2 := fld_append w 29 1 2
  have h30 : fld w 30 2 = fld w 30 1 + 2 ^ 1 * fld w 31 1 := fld_append w 30 1 1
  have lt30 := fld_lt w 30 1
  refine exact_need fun h31 => exact_need fun hu => ?_
  split
  next hq =>
    refine exact_need fun hz => exact_withVal fun sz hsz => exact_withVal fun sc hsc => ⟨rfl, ?_⟩
    have hsz := code_of_sizeOf hsz
    have hsc := code_of_scopeOf hsc
    exact h.encFM_eq rfl rfl (by omega) (by omega)
  next hq =>
    have join : ∀ k, fld w 27 2 = k → fld w 27 5 = k := by omega
    split
    iterate 4 next hf => exact ⟨rfl, h.encFM_eq rfl rfl rfl (join _ hf)⟩
    exact exact_reserved

theorem exact_decodeAmo {w : Nat} (h : ShortWord w 0x0D) : (decodeAmo w).Exact w 0 := by
  have h22 : fld w 22 10 = fld w 22 1 + 2 ^ 1 * fld w 23 9 := fld_append w 22 1 9
  have h23 : fld w 23 9 = fld w 23 1 + 2 ^ 1 * fld w 24 8 := fld_append w 23 1 8
  have h24 : fld w 24 8 = fld w 24 3 + 2 ^ 3 * fld w 27 5 := fld_append w 24 3 5
  have h27 : fld w 27 5 = fld w 27 2 + 2 ^ 2 * fld w 29 3 := fld_append w 27 2 3
  refine exact_withVal fun o ho => exact_withVal fun sc hsc => exact_withVal fun sz hsz => ?_
  rw [← code_of_memOrdOf ho] at h27
  rw [← code_of_scopeOf hsc] at h24
  rw [← code_of_wSizeOf hsz] at h23
  have join : ∀ k, fld w 29 3 = k →
      fld w 22 10 = k * 2 ^ 7 + o.code * 2 ^ 5 + sc.code * 2 ^ 2 + sz.code * 2 + fld w 22 1 := by omega
  have plain : ∀ k, fld w 29 3 = k → fld w 22 1 = 0 →
      fld w 22 10 = k * 2 ^ 7 + o.code * 2 ^ 5 + sc.code * 2 ^ 2 + sz.code * 2 := by omega
  rw [← bit_fld w 22] at join
  split
  iterate 4 next hf => exact exact_need fun hn => ⟨rfl, h.encF3_eq rfl rfl rfl (plain _ hf hn)⟩
  iterate 2 next hf => exact ⟨rfl, h.encF3_eq rfl rfl rfl (join _ hf)⟩
  iterate 2 next hf => exact exact_need fun hn => ⟨rfl, h.encF3_eq rfl rfl rfl (plain _ hf hn)⟩
  exact exact_reserved

theorem exact_decodeBranch {w : Nat} (h : ShortWord w 0x0E) : (decodeBranch w).Exact w 0 := by
  unfold decodeBranch
  split
  iterate 6 next hf => exact ⟨rfl, h.encF3_eq hf rfl rfl rfl⟩
  exact exact_reserved

theorem exact_decodeFp {w : Nat} (h : ShortWord w 0x11) : (decodeFp w).Exact w 0 := by
  refine exact_withVal fun f hf => ?_
  have hf := code_of_fFmtOf hf
  split
  iterate 4 next ho => exact exact_need fun hx => ⟨rfl, h.encFP_eq rfl rfl rfl ho hf hx⟩
  next ho => exact exact_need fun hz => ⟨rfl, h.encFP_eq rfl rfl (fld_of_ofNat_eq_zero hz.2) ho hf hz.1⟩
  iterate 2 next ho => exact exact_need fun hx => ⟨rfl, h.encFP_eq rfl rfl rfl ho hf hx⟩
  next ho => exact exact_withVal fun c hc => ⟨rfl, h.encFP_eq rfl rfl rfl ho hf (code_of_fCmpCondOf hc).symm⟩
  next ho =>
    exact exact_need fun hb => exact_withVal fun s hs => exact_need fun hne =>
      ⟨bne_iff_ne.mpr hne, h.encFP_eq rfl rfl (fld_of_ofNat_eq_zero hb) ho hf (code_of_cvtSrcOf hs).symm⟩
  next ho =>
    refine exact_need fun hb => exact_need fun h4 => exact_withVal fun t ht => ⟨rfl, ?_⟩
    have hx : fld w 22 3 = fld w 22 2 + 2 ^ 2 * fld w 24 1 := fld_append w 22 2 1
    have ht := code_of_intTyOf ht
    exact h.encFP_eq rfl rfl (fld_of_ofNat_eq_zero hb) ho hf (by omega)
  next ho => exact exact_need fun hz => ⟨rfl, h.encFP_eq rfl rfl (fld_of_ofNat_eq_zero hz.2) ho hf hz.1⟩
  exact exact_reserved

theorem exact_decodeFma {w : Nat} (h : ShortWord w 0x12) : (decodeFma w).Exact w 0 := by
  refine exact_need fun hz => exact_withVal fun f hf => ⟨rfl, h.encF3_eq rfl rfl rfl ?_⟩
  have h22 : fld w 22 10 = fld w 22 5 + 2 ^ 5 * fld w 27 5 := fld_append w 22 5 5
  have h27 : fld w 27 5 = fld w 27 2 + 2 ^ 2 * fld w 29 3 := fld_append w 27 2 3
  have hf := code_of_fFmtOf hf
  rw [show (fldC w).toNat = fld w 22 5 from rfl]
  omega

theorem exact_decodeSystemN {w : Nat} (h : ShortWord w 0x13) (ho : fld w 29 3 = 4) : (decodeSystemN w).Exact w 0 := by
  have h17 : fld w 17 15 = fld w 17 12 + 2 ^ 12 * fld w 29 3 := fld_append w 17 12 3
  have join : ∀ n, fld w 17 12 = n → fld w 17 15 = 4 * 2 ^ 12 + n := by omega
  unfold decodeSystemN
  split
  iterate 6 next hn =>
    exact exact_need fun hz => ⟨rfl, h.encFI_eq (fld_of_ofNat_eq_zero hz.1) (fld_of_ofNat_eq_zero hz.2) (join _ hn)⟩
  iterate 2 next hn => exact ⟨rfl, h.encFI_eq rfl rfl (join _ hn)⟩
  exact exact_reserved

theorem exact_decodeSystem {w : Nat} (h : ShortWord w 0x13) : (decodeSystem w).Exact w 0 := by
  have h17 : fld w 17 15 = fld w 17 12 + 2 ^ 12 * fld w 29 3 := fld_append w 17 12 3
  have join : ∀ k, fld w 29 3 = k → fld w 17 15 = k * 2 ^ 12 + fld w 17 12 := by omega
  unfold decodeSystem
  split
  next ho => exact exact_need fun ha => ⟨rfl, h.encFI_eq rfl (fld_of_ofNat_eq_zero ha) (h17.trans (by rw [ho]; rfl))⟩
  iterate 3 next ho => exact ⟨rfl, h.encFI_eq rfl rfl (join _ ho)⟩
  next ho => exact exact_decodeSystemN h ho
  exact exact_reserved

theorem exact_decodeFence {w : Nat} (h : ShortWord w 0x14) : (decodeFence w).Exact w 0 := by
  refine exact_need fun hz => exact_need fun h0 => exact_withVal fun o ho => exact_withVal fun sc hsc => ?_
  obtain ⟨h27, h7⟩ := hz
  have h7' : fld w 7 15 = fld w 7 5 + 2 ^ 5 * fld w 12 10 := fld_append w 7 5 10
  have h12 : fld w 12 10 = fld w 12 5 + 2 ^ 5 * fld w 17 5 := fld_append w 12 5 5
  have h22 : fld w 22 10 = fld w 22 2 + 2 ^ 2 * fld w 24 8 := fld_append w 22 2 8
  have h24 : fld w 24 8 = fld w 24 3 + 2 ^ 3 * fld w 27 5 := fld_append w 24 3 5
  have ho := code_of_memOrdOf ho
  have hsc := code_of_scopeOf hsc
  refine ⟨bne_iff_ne.mpr fun hr => h0 ?_, h.encF3_eq (by omega) (by omega) (by omega) (by omega)⟩
  rw [← ho, hr]; rfl

theorem exact_decodeSafept {w : Nat} (h : ShortWord w 0x15) : (decodeSafept w).Exact w 0 := by
  refine exact_need fun hz => ⟨rfl, h.encFU_eq (fld_of_ofNat_eq_zero hz.2) ?_⟩
  have h12 : fld w 12 20 = fld w 12 16 + 2 ^ 16 * fld w 28 4 := fld_append w 12 16 4
  rw [h12, hz.1]; rfl


/-- SETVLI holds GRP and FMT across the b and fn fields (05 R112). -/
theorem ShortWord.setvliWord_eq {w grp fmt sc : Nat} (h : ShortWord w 0x18) (ho : fld w 29 3 = 1) (hz : fld w 25 4 = 0)
    (hg : grp = fld w 21 3) (ht : fmt = fld w 17 4) (hs : sc = fld w 24 1) :
    (encF3 (2 ^ 7 + sc * 2 ^ 2) 0 (fld w 12 5) (fld w 7 5) 0x18 + grp * 2 ^ 21 + fmt * 2 ^ 17, 0) = (w, 0) := by
  have h22 : fld w 22 10 = fld w 22 2 + 2 ^ 2 * fld w 24 8 := fld_append w 22 2 8
  have h24 : fld w 24 8 = fld w 24 1 + 2 ^ 1 * fld w 25 7 := fld_append w 24 1 7
  have h25 : fld w 25 7 = fld w 25 4 + 2 ^ 4 * fld w 29 3 := fld_append w 25 4 3
  have h17 : fld w 17 5 = fld w 17 4 + 2 ^ 4 * fld w 21 1 := fld_append w 17 4 1
  have h21 : fld w 21 3 = fld w 21 1 + 2 ^ 1 * fld w 22 2 := fld_append w 21 1 2
  have hfn : fld w 22 10 = 2 ^ 7 + sc * 2 ^ 2 + fld w 22 2 := by omega
  rw [← h.encF3_eq rfl rfl rfl hfn, hg, ht, h17, h21]
  rw [encF3, encF3, Prod.mk.injEq]
  omega

theorem exact_decodeConfig {w : Nat} (h : ShortWord w 0x18) : (decodeConfig w).Exact w 0 := by
  have h22 : fld w 22 10 = fld w 22 7 + 2 ^ 7 * fld w 29 3 := fld_append w 22 7 3
  have h17 : fld w 17 12 = fld w 17 5 + 2 ^ 5 * fld w 22 7 := fld_append w 17 5 7
  unfold decodeConfig
  split
  next ho => exact exact_need fun hz => ⟨rfl, h.encF3_eq rfl rfl rfl (by omega)⟩
  next ho =>
    exact exact_need fun hz => exact_withVal fun t ht =>
      ⟨rfl, h.setvliWord_eq ho hz rfl (code_of_elemTyOf ht) (bit_fld w 24)⟩
  next ho => exact exact_need fun hz => ⟨rfl, h.encF3_eq rfl rfl (by omega) (by omega)⟩
  exact exact_reserved

theorem exact_decodeVecIntA {w : Nat} (h : ShortWord w 0x19) : (decodeVecIntA w).Exact w 0 := by
  refine exact_withVal fun b hb => ?_
  split
  iterate 17 next hf => exact ⟨rfl, h.encFV_eq rfl rfl rfl (code_of_srcOf hb) hf⟩
  exact exact_reserved

theorem exact_decodeVecIntB {w : Nat} (h : ShortWord w 0x1A) : (decodeVecIntB w).Exact w 0 := by
  refine exact_withVal fun b hb => ?_
  split
  iterate 6 next hf => exact exact_need fun hd => ⟨rfl, h.encFV_eq (fld_eq_low (lo := 7) (n := 3) hd) rfl rfl (code_of_srcOf hb) hf⟩
  next hf => exact exact_need fun hk => ⟨bne_iff_ne.mpr hk, h.encFV_eq rfl rfl rfl (code_of_srcOf hb) hf⟩
  next hf => exact exact_need fun ha => ⟨rfl, h.encFV_eq rfl (fld_of_ofNat_eq_zero ha) rfl (code_of_srcOf hb) hf⟩
  exact exact_reserved

theorem exact_decodeVecFp {w : Nat} (h : ShortWord w 0x1B) : (decodeVecFp w).Exact w 0 := by
  refine exact_withVal fun b hb => ?_
  split
  iterate 4 next hf => exact ⟨rfl, h.encFV_eq rfl rfl rfl (code_of_srcOf hb) hf⟩
  next hf => exact exact_need fun ha => ⟨rfl, h.encFV_eq rfl (fld_of_ofNat_eq_zero ha) rfl (code_of_srcOf hb) hf⟩
  iterate 2 next hf => exact ⟨rfl, h.encFV_eq rfl rfl rfl (code_of_srcOf hb) hf⟩
  iterate 4 next hf => exact exact_need fun hd => ⟨rfl, h.encFV_eq (fld_eq_low (lo := 7) (n := 3) hd) rfl rfl (code_of_srcOf hb) hf⟩
  iterate 3 next hf => exact exact_need fun ha => ⟨rfl, h.encFV_eq rfl (fld_of_ofNat_eq_zero ha) rfl (code_of_srcOf hb) hf⟩
  exact exact_reserved

theorem exact_decodeVecFma {w : Nat} (h : ShortWord w 0x1C) : (decodeVecFma w).Exact w 0 := by
  refine exact_withVal fun b hb => ?_
  split
  iterate 2 next hf => exact ⟨rfl, h.encFV_eq rfl rfl rfl (code_of_srcOf hb) hf⟩
  exact exact_reserved

theorem exact_decodeVecCvt {w : Nat} (h : ShortWord w 0x1D) : (decodeVecCvt w).Exact w 0 := by
  refine exact_need fun hu => exact_need fun ha => exact_need fun h3 => exact_withVal fun b hb => exact_withVal fun t ht => ⟨?_, ?_⟩
  · rcases srcOf_cases hb with ⟨hk, rfl⟩ | ⟨hk, rfl⟩ | ⟨hk, hz, rfl⟩ | ⟨hk, rfl⟩
    · rfl
    · rfl
    · rfl
    · exact absurd hk h3
  · have h27 : fld w 27 5 = fld w 27 4 := fld_eq_low (lo := 27) (n := 4) hu
    exact h.encFV_eq rfl (fld_of_ofNat_eq_zero ha) rfl (code_of_srcOf hb) (h27.trans (code_of_elemTyOf ht).symm)

theorem exact_decodeMask {w : Nat} (h : ShortWord w 0x1E) : (decodeMask w).Exact w 0 := by
  refine exact_need fun hz => exact_need fun h20 => ?_
  obtain ⟨hk, hs⟩ : fld w 22 3 = 0 ∧ fld w 25 2 = 0 := fld_append_eq_zero (n := 3) hz
  have h17 : fld w 17 5 = fld w 17 3 := fld_eq_low (lo := 17) (n := 3) h20
  have hb : (BitVec.ofNat 3 (w / 2 ^ 17)).toNat * 2 ^ 17 = fld w 25 2 * 2 ^ 25 + fld w 17 5 * 2 ^ 17 := by
    rw [hs, Nat.zero_mul, Nat.zero_add, h17]; rfl
  have kd : fld w 10 2 = 0 → fld w 7 5 = fld w 7 3 := fld_eq_low (lo := 7) (n := 3)
  have ka : fld w 15 2 = 0 → fld w 12 5 = fld w 12 3 := fld_eq_low (lo := 12) (n := 3)
  split
  iterate 3 next hf => exact exact_need fun hr => ⟨rfl, h.encFV_eq (kd hr.1) (ka hr.2) hk hb hf⟩
  next hf => exact exact_need fun ha => exact_need fun hd => ⟨rfl, h.encFV_eq (kd hd) (fld_of_ofNat_eq_zero ha) hk hb hf⟩
  iterate 2 next hf => exact exact_need fun ha => ⟨rfl, h.encFV_eq rfl (ka ha) hk hb hf⟩
  next hf => exact exact_need fun ha => exact_need fun hd => ⟨rfl, h.encFV_eq (kd hd) (fld_of_ofNat_eq_zero ha) hk hb hf⟩
  exact exact_reserved

theorem exact_decodePermute {w : Nat} (h : ShortWord w 0x1F) : (decodePermute w).Exact w 0 := by
  refine exact_withVal fun b hb => ?_
  have hc := code_of_srcOf hb
  split
  iterate 5 next hf => exact exact_need fun hs => ⟨isVec_of_srcOf hb hs, h.encFV_eq rfl rfl rfl hc hf⟩
  iterate 2 next hf => exact exact_need fun hs => ⟨isIndex_of_srcOf hb hs, h.encFV_eq rfl rfl rfl hc hf⟩
  next hf => exact exact_need fun hs => ⟨isVec_of_srcOf hb hs, h.encFV_eq rfl rfl rfl hc hf⟩
  iterate 2 next hf =>
    exact exact_need fun hs => exact_need fun ha => ⟨isVec_of_srcOf hb hs, h.encFV_eq rfl (fld_of_ofNat_eq_zero ha) rfl hc hf⟩
  next hf =>
    refine exact_need fun ha => exact_need fun hz => ⟨rfl, h.encFV_eq rfl (fld_of_ofNat_eq_zero ha) rfl ?_ hf⟩
    rw [hz.1, Nat.zero_mul, Nat.zero_add, show fld w 17 5 = fld w 17 3 from fld_eq_low (lo := 17) (n := 3) hz.2]; rfl
  next hf =>
    refine exact_need fun h2 => exact_need fun ha => ⟨?_, h.encFV_eq rfl (fld_of_ofNat_eq_zero ha) rfl hc hf⟩
    rcases srcOf_cases hb with ⟨hk, rfl⟩ | ⟨hk, rfl⟩ | ⟨hk, hz, rfl⟩ | ⟨hk, rfl⟩
    · rfl
    · rfl
    · exact absurd hk h2
    · rfl
  next hf =>
    exact exact_need fun hs => exact_need fun hk => ⟨isIndex_of_srcOf hb hs, h.encFV_eq rfl rfl (fld_of_ofNat_eq_zero hk) hc hf⟩
  next hf => exact exact_need fun hs => ⟨isIndex_of_srcOf hb hs, h.encFV_eq rfl rfl rfl hc hf⟩
  exact exact_reserved

/-- The operand b of an access by its source kind (08 R185). -/
theorem accessOperand_code {w k : Nat} (hk : fld w 25 2 = k) :
    k * 2 ^ 25 + (fldB w).toNat * 2 ^ 17 = fld w 25 2 * 2 ^ 25 + fld w 17 5 * 2 ^ 17 := by rw [hk]; rfl

theorem exact_decodeVecLoad {w : Nat} (h : ShortWord w 0x20) : (decodeVecLoad w).Exact w 0 := by
  refine exact_need fun hz => ?_
  have h27 : fld w 27 5 = fld w 27 1 := fld_eq_low (lo := 27) (n := 1) hz
  have lt := fld_lt w 27 1
  split
  next hs =>
    split
    iterate 2 next hp => exact ⟨rfl, h.encFV_eq rfl rfl rfl (accessOperand_code hs) (by omega)⟩
  next hs => exact exact_need fun hp => ⟨rfl, h.encFV_eq rfl rfl rfl (accessOperand_code hs) (by omega)⟩
  next hs => exact exact_need fun hp => ⟨rfl, h.encFV_eq rfl rfl rfl (by rw [← accessOperand_code hs]; omega) (by omega)⟩
  exact exact_reserved


theorem exact_decodeVecStore {w : Nat} (h : ShortWord w 0x21) : (decodeVecStore w).Exact w 0 := by
  refine exact_need fun hz => ?_
  have h27 : fld w 27 5 = fld w 27 1 := fld_eq_low (lo := 27) (n := 1) hz
  have lt := fld_lt w 27 1
  split
  next hs =>
    split
    iterate 2 next hp => exact ⟨rfl, h.encFV_eq rfl rfl rfl (accessOperand_code hs) (by omega)⟩
  next hs => exact exact_need fun hp => ⟨rfl, h.encFV_eq rfl rfl rfl (accessOperand_code hs) (by omega)⟩
  next hs => exact exact_need fun hp => ⟨rfl, h.encFV_eq rfl rfl rfl (by rw [← accessOperand_code hs]; omega) (by omega)⟩
  exact exact_reserved

theorem exact_decodeVecLoadQ {w : Nat} (h : ShortWord w 0x22) : (decodeVecLoadQ w).Exact w 0 := by
  refine exact_need fun hz => ?_
  have h27 : fld w 27 5 = fld w 27 1 := fld_eq_low (lo := 27) (n := 1) hz.1
  have h7 : fld w 7 5 = fld w 7 2 := fld_eq_low (lo := 7) (n := 2) hz.2
  have lt := fld_lt w 27 1
  split
  next hs =>
    split
    next hp => exact exact_reserved
    next hp => exact ⟨rfl, h.encFV_eq h7 rfl rfl (accessOperand_code hs) (by omega)⟩
  next hs => exact exact_need fun hp => ⟨rfl, h.encFV_eq h7 rfl rfl (accessOperand_code hs) (by omega)⟩
  next hs => exact exact_need fun hp => ⟨rfl, h.encFV_eq h7 rfl rfl (by rw [← accessOperand_code hs]; omega) (by omega)⟩
  exact exact_reserved

theorem exact_decodeVecAmo {w : Nat} (h : ShortWord w 0x23) : (decodeVecAmo w).Exact w 0 := by
  unfold decodeVecAmo
  split
  iterate 7 next hf => exact exact_withVal fun b hb => ⟨rfl, h.encFV_eq rfl rfl rfl (code_of_vAddrOf hb) hf⟩
  iterate 7 next hf =>
    exact exact_need fun hd => exact_withVal fun b hb => ⟨rfl, h.encFV_eq (fld_of_ofNat_eq_zero hd) rfl rfl (code_of_vAddrOf hb) hf⟩
  next hf =>
    refine exact_need fun hz => ?_
    obtain ⟨hd, hb, hs⟩ := hz
    have hb := fld_of_ofNat_eq_zero hb
    exact ⟨rfl, h.encFV_eq (fld_of_ofNat_eq_zero hd) rfl rfl (by omega) hf⟩
  exact exact_reserved

theorem exact_decodeFabric {w : Nat} (h : ShortWord w 0x25) : (decodeFabric w).Exact w 0 := by
  unfold decodeFabric
  split
  iterate 2 next hf =>
    exact exact_need fun hz => ⟨rfl, h.encF3_eq (fld_of_ofNat_eq_zero hz.2) rfl (fld_of_ofNat_eq_zero hz.1) hf⟩
  next hf => exact exact_need fun hz => ⟨rfl, h.encF3_eq rfl (fld_of_ofNat_eq_zero hz.2) (fld_of_ofNat_eq_zero hz.1) hf⟩
  next hf => exact exact_need fun hd => ⟨rfl, h.encF3_eq (fld_of_ofNat_eq_zero hd) rfl rfl hf⟩
  next hf => exact exact_need fun hb => ⟨rfl, h.encF3_eq rfl rfl (fld_of_ofNat_eq_zero hb) hf⟩
  exact exact_reserved

theorem exact_decodeMatrix {w : Nat} (h : ShortWord w 0x26) : (decodeMatrix w).Exact w 0 := by
  refine exact_need fun hc => ?_
  have h7 : fld w 7 5 = fld w 7 2 := fld_eq_low (lo := 7) (n := 2) hc
  split
  next hf => exact ⟨rfl, h.encF3_eq h7 rfl rfl hf⟩
  iterate 2 next hf =>
    exact exact_need fun hz => ⟨rfl, h.encF3_eq h7 (fld_of_ofNat_eq_zero hz.2) (fld_of_ofNat_eq_zero hz.1) hf⟩
  exact exact_reserved

theorem exact_decodeSync {w : Nat} (h : ShortWord w 0x27) : (decodeSync w).Exact w 0 := by
  have zero : fld w 7 15 = 0 → fld w 7 5 = 0 ∧ fld w 12 5 = 0 ∧ fld w 17 5 = 0 := fun hz =>
    have hd := fld_append_eq_zero (n := 5) (m := 10) hz
    ⟨hd.1, fld_append_eq_zero (n := 5) (m := 5) hd.2⟩
  unfold decodeSync
  split
  next hf => exact exact_need fun hz => ⟨rfl, h.encF3_eq (fld_of_ofNat_eq_zero hz.2) rfl (fld_of_ofNat_eq_zero hz.1) hf⟩
  next hf => exact exact_need fun hb => ⟨rfl, h.encF3_eq rfl rfl (fld_of_ofNat_eq_zero hb) hf⟩
  next hf => exact exact_need fun hz => ⟨rfl, h.encF3_eq (zero hz).1 (zero hz).2.1 (zero hz).2.2 hf⟩
  next hf =>
    refine exact_need fun hz => ?_
    obtain ⟨hd, ha⟩ := fld_append_eq_zero (n := 5) (m := 5) hz
    exact ⟨rfl, h.encF3_eq hd ha rfl hf⟩
  iterate 2 next hf => exact exact_need fun hz => ⟨rfl, h.encF3_eq (zero hz).1 (zero hz).2.1 (zero hz).2.2 hf⟩
  exact exact_reserved

theorem exact_decodeShort {w : Nat} (lt : w < 2 ^ 32) (even : w % 2 = 0) : (decodeShort w).Exact w 0 := by
  have word : ∀ {m}, fld w 1 6 = m → ShortWord w m := fun hm => ⟨lt, even, hm⟩
  unfold decodeShort
  split
  next hm => exact exact_decodeIntReg (word hm)
  iterate 6 next hm => exact ⟨rfl, (word hm).encFI_eq rfl rfl rfl⟩
  next hm => exact exact_decodeShiftImm (word hm)
  iterate 2 next hm => exact ⟨rfl, (word hm).encFU_eq rfl rfl⟩
  next hm => exact exact_decodeLoad (word hm)
  next hm => exact exact_decodeStore (word hm)
  next hm => exact exact_decodeAmo (word hm)
  next hm => exact exact_decodeBranch (word hm)
  next hm => exact ⟨rfl, (word hm).encFU_eq rfl rfl⟩
  next hm => exact ⟨rfl, (word hm).encFI_eq rfl rfl rfl⟩
  next hm => exact exact_decodeFp (word hm)
  next hm => exact exact_decodeFma (word hm)
  next hm => exact exact_decodeSystem (word hm)
  next hm => exact exact_decodeFence (word hm)
  next hm => exact exact_decodeSafept (word hm)
  next hm => exact exact_decodeConfig (word hm)
  next hm => exact exact_decodeVecIntA (word hm)
  next hm => exact exact_decodeVecIntB (word hm)
  next hm => exact exact_decodeVecFp (word hm)
  next hm => exact exact_decodeVecFma (word hm)
  next hm => exact exact_decodeVecCvt (word hm)
  next hm => exact exact_decodeMask (word hm)
  next hm => exact exact_decodePermute (word hm)
  next hm => exact exact_decodeVecLoad (word hm)
  next hm => exact exact_decodeVecStore (word hm)
  next hm => exact exact_decodeVecLoadQ (word hm)
  next hm => exact exact_decodeVecAmo (word hm)
  next hm => exact exact_decodeFabric (word hm)
  next hm => exact exact_decodeMatrix (word hm)
  next hm => exact exact_decodeSync (word hm)
  exact exact_reserved


/-! The long forms (05 R116), each exact. -/

theorem exact_decodeLimm {w0 w1 : Nat} (h : LongWords w0 w1 0x01) : (decodeLimm w0 w1).Exact w0 w1 := by
  refine exact_need fun hz => ?_
  obtain ⟨h23, ha, hb⟩ := hz
  have hfn : fld w0 22 10 = fld w0 22 1 := fld_eq_low (lo := 22) (n := 1) h23
  have lt := fld_lt w0 22 1
  split
  iterate 2 next hh =>
    exact ⟨rfl, h.encL_eq rfl (fld_of_ofNat_eq_zero ha) (fld_of_ofNat_eq_zero hb) (by omega) (Nat.mod_eq_of_lt h.lt1)⟩

/-- The second word of a scalar remote form: S, the operation of an atomic, the status register and the offset. -/
theorem remoteWord_eq {w1 op : Nat} {s : Status} (lt : w1 < 2 ^ 32) (hs : statusOf (fld w1 31 1) (fld w1 23 5) = some s)
    (ho : fld w1 28 3 = op) : encStatus s + op * 2 ^ 28 + (BitVec.ofNat 23 w1).toNat = w1 := by
  have h0 : fld w1 0 32 = fld w1 0 23 + 2 ^ 23 * fld w1 23 9 := fld_append w1 0 23 9
  have h23 : fld w1 23 9 = fld w1 23 5 + 2 ^ 5 * fld w1 28 4 := fld_append w1 23 5 4
  have h28 : fld w1 28 4 = fld w1 28 3 + 2 ^ 3 * fld w1 31 1 := fld_append w1 28 3 1
  rw [encStatus_of_statusOf hs, toNat_ofNat_fld]
  rw [fld_all lt] at h0
  omega

theorem exact_decodeRamo {w0 w1 : Nat} (h : LongWords w0 w1 0x02) (hop : fld w0 29 3 = 2) : (decodeRamo w0 w1).Exact w0 w1 := by
  refine exact_need fun h28 => exact_withVal fun sz hsz => exact_withVal fun s hs => ?_
  have h22 : fld w0 22 10 = fld w0 22 5 + 2 ^ 5 * fld w0 27 5 := fld_append w0 22 5 5
  have h27 : fld w0 27 5 = fld w0 27 1 + 2 ^ 1 * fld w0 28 4 := fld_append w0 27 1 4
  have h28' : fld w0 28 4 = fld w0 28 1 + 2 ^ 1 * fld w0 29 3 := fld_append w0 28 1 3
  rw [← code_of_wSizeOf hsz] at h27
  have hfn : fld w0 22 10 = 2 * 2 ^ 7 + (sz.code + 2) * 2 ^ 5 + fld w0 22 5 := by omega
  split
  iterate 8 next ho => exact ⟨rfl, h.encL_eq rfl rfl rfl hfn (remoteWord_eq h.lt1 hs ho)⟩
  exact exact_reserved

theorem exact_decodeRemote {w0 w1 : Nat} (h : LongWords w0 w1 0x02) : (decodeRemote w0 w1).Exact w0 w1 := by
  have h22 : fld w0 22 10 = fld w0 22 5 + 2 ^ 5 * fld w0 27 5 := fld_append w0 22 5 5
  have h27 : fld w0 27 5 = fld w0 27 2 + 2 ^ 2 * fld w0 29 3 := fld_append w0 27 2 3
  unfold decodeRemote
  split
  next hop =>
    refine exact_need fun hz => exact_withVal fun sz hsz => exact_withVal fun s hs => ⟨rfl, ?_⟩
    have hc := fld_of_ofNat_eq_zero hz.1
    rw [← code_of_sizeOf hsz] at h27
    exact h.encL_eq rfl rfl rfl (by omega) (remoteWord_eq h.lt1 hs hz.2)
  next hop =>
    refine exact_need fun hz => exact_withVal fun sz hsz => exact_withVal fun s hs => ⟨rfl, ?_⟩
    rw [← code_of_sizeOf hsz] at h27
    have hfn : fld w0 22 10 = 2 ^ 7 + sz.code * 2 ^ 5 + fld w0 22 5 := by omega
    exact h.encL_eq (fld_of_ofNat_eq_zero hz.1) rfl rfl hfn (remoteWord_eq h.lt1 hs hz.2)
  next hop => exact exact_decodeRamo h hop
  next hop =>
    refine exact_need fun hz => ?_
    obtain ⟨hd, h12⟩ := fld_append_eq_zero (n := 5) (m := 17) hz.1
    obtain ⟨ha, h17⟩ := fld_append_eq_zero (n := 5) (m := 12) h12
    obtain ⟨hb, h22'⟩ := fld_append_eq_zero (n := 5) (m := 7) h17
    have hfn : fld w0 22 10 = fld w0 22 7 + 2 ^ 7 * fld w0 29 3 := fld_append w0 22 7 3
    exact ⟨rfl, h.encL_eq hd ha hb (hfn.trans (by rw [hop, h22', Nat.zero_add, Nat.mul_comm])) hz.2.symm⟩
  exact exact_reserved

/-- The second word of a vector remote form: S, the operation, the mask and the status k register. -/
theorem vecRemoteWord_eq {w1 op : Nat} {s : KStatus} (lt : w1 < 2 ^ 32) (hz : fld w1 0 22 = 0)
    (hs : kStatusOf (fld w1 31 1) (fld w1 22 3) = some s) (ho : fld w1 28 3 = op) :
    encKStatus s + op * 2 ^ 28 + fld w1 25 3 * 2 ^ 25 = w1 := by
  have h0 : fld w1 0 32 = fld w1 0 22 + 2 ^ 22 * fld w1 22 10 := fld_append w1 0 22 10
  have h22 : fld w1 22 10 = fld w1 22 3 + 2 ^ 3 * fld w1 25 7 := fld_append w1 22 3 7
  have h25 : fld w1 25 7 = fld w1 25 3 + 2 ^ 3 * fld w1 28 4 := fld_append w1 25 3 4
  have h28 : fld w1 28 4 = fld w1 28 3 + 2 ^ 3 * fld w1 31 1 := fld_append w1 28 3 1
  rw [encKStatus_of_kStatusOf hs]
  rw [fld_all lt] at h0
  omega

theorem exact_decodeVecRemote {w0 w1 : Nat} (h : LongWords w0 w1 0x03) : (decodeVecRemote w0 w1).Exact w0 w1 := by
  refine exact_need fun hz => exact_withVal fun s hs => ?_
  split
  iterate 3 next ho => exact ⟨rfl, h.encL_eq rfl rfl rfl hz.1 (vecRemoteWord_eq h.lt1 hz.2 hs ho)⟩
  exact exact_reserved

theorem exact_decodeStream {w0 w1 : Nat} (h : LongWords w0 w1 0x04) : (decodeStream w0 w1).Exact w0 w1 := by
  refine exact_need fun hb => ?_
  have hb := fld_of_ofNat_eq_zero hb
  have h0 : fld w1 0 32 = fld w1 0 2 + 2 ^ 2 * fld w1 2 30 := fld_append w1 0 2 30
  rw [fld_all h.lt1, ← toNat_ofNat_fld] at h0
  split
  next hf =>
    refine exact_need fun hz => exact_withVal fun pol hp => ⟨rfl, h.encL_eq rfl rfl hb hf ?_⟩
    have h2 : fld w1 2 30 = fld w1 2 1 + 2 ^ 1 * fld w1 3 29 := fld_append w1 2 1 29
    have h3 : fld w1 3 29 = fld w1 3 2 + 2 ^ 2 * fld w1 5 27 := fld_append w1 3 2 27
    rw [bit_fld, code_of_policyOf hp]
    omega
  next hf =>
    refine exact_need fun hz => exact_withVal fun t ht => ⟨rfl, h.encL_eq rfl (fld_of_ofNat_eq_zero hz.1) hb hf ?_⟩
    have h2 : fld w1 2 30 = fld w1 2 3 + 2 ^ 3 * fld w1 5 27 := fld_append w1 2 3 27
    have h5 : fld w1 5 27 = fld w1 5 6 + 2 ^ 6 * fld w1 11 21 := fld_append w1 5 6 21
    have h11 : fld w1 11 21 = fld w1 11 2 + 2 ^ 2 * fld w1 13 19 := fld_append w1 11 2 19
    have ht := code_of_bindTargetOf ht
    omega
  iterate 2 next hf =>
    exact exact_need fun hz => ⟨rfl, h.encL_eq rfl (fld_of_ofNat_eq_zero hz.1) hb hf (by omega)⟩
  exact exact_reserved

theorem exact_decodeVecExt {w0 w1 : Nat} (h : LongWords w0 w1 0x05) : (decodeVecExt w0 w1).Exact w0 w1 := by
  have h22 : fld w0 22 10 = fld w0 22 3 + 2 ^ 3 * fld w0 25 7 := fld_append w0 22 3 7
  have h1 : w1 % 2 ^ 32 = w1 := Nat.mod_eq_of_lt h.lt1
  have join : ∀ op, fld w0 25 7 = op → fld w0 22 10 = op * 2 ^ 3 + fld w0 22 3 := by omega
  unfold decodeVecExt
  split
  next ho => exact ⟨rfl, h.encL_eq rfl rfl rfl (h22.trans (by rw [ho]; rfl)) h1⟩
  next ho => exact ⟨rfl, h.encL_eq rfl rfl rfl (join _ ho) h1⟩
  next ho => exact exact_need fun hz => ⟨rfl, h.encL_eq rfl rfl (fld_of_ofNat_eq_zero hz.1) (join _ ho) hz.2.symm⟩
  next ho => exact exact_need fun hz => ⟨rfl, h.encL_eq rfl (fld_of_ofNat_eq_zero hz.1) rfl (join _ ho) hz.2.symm⟩
  iterate 2 next ho => exact exact_need fun hb => ⟨rfl, h.encL_eq rfl rfl (fld_of_ofNat_eq_zero hb) (join _ ho) h1⟩
  exact exact_reserved

theorem exact_decodeMatrixLong {w0 w1 : Nat} (h : LongWords w0 w1 0x06) : (decodeMatrixLong w0 w1).Exact w0 w1 := by
  refine exact_need fun hc => ?_
  have h7 : fld w0 7 5 = fld w0 7 2 := fld_eq_low (lo := 7) (n := 2) hc
  have rows : fld w1 0 32 = fld w1 0 6 + 2 ^ 6 * fld w1 6 26 := fld_append w1 0 6 26
  have h6 : fld w1 6 26 = fld w1 6 7 + 2 ^ 7 * fld w1 13 19 := fld_append w1 6 7 19
  have h13 : fld w1 13 19 = fld w1 13 3 + 2 ^ 3 * fld w1 16 16 := fld_append w1 13 3 16
  rw [fld_all h.lt1, ← toNat_ofNat_fld] at rows
  split
  next hf =>
    refine exact_need fun hz => exact_need fun hu => exact_withVal fun t ht => ⟨rfl, ?_⟩
    obtain ⟨hd, ha, hb, h25⟩ := hz
    have h0 : fld w1 0 32 = fld w1 0 4 + 2 ^ 4 * fld w1 4 28 := fld_append w1 0 4 28
    have h4 : fld w1 4 28 = fld w1 4 4 + 2 ^ 4 * fld w1 8 24 := fld_append w1 4 4 24
    have h8 : fld w1 8 24 = fld w1 8 1 + 2 ^ 1 * fld w1 9 23 := fld_append w1 8 1 23
    have h9 : fld w1 9 23 = fld w1 9 1 + 2 ^ 1 * fld w1 10 22 := fld_append w1 9 1 22
    have h10 : fld w1 10 22 = fld w1 10 1 + 2 ^ 1 * fld w1 11 21 := fld_append w1 10 1 21
    have h11 : fld w1 11 21 = fld w1 11 7 + 2 ^ 7 * fld w1 18 14 := fld_append w1 11 7 14
    have h18 : fld w1 18 14 = fld w1 18 7 + 2 ^ 7 * fld w1 25 7 := fld_append w1 18 7 7
    rw [fld_all h.lt1, ← toNat_ofNat_fld] at h0
    refine h.encL_eq (fld_of_ofNat_eq_zero hd) (fld_of_ofNat_eq_zero ha) (fld_of_ofNat_eq_zero hb) hf ?_
    rw [bit_fld, bit_fld, code_of_elemTyOf ht, toNat_ofNat_div, toNat_ofNat_div]
    omega
  iterate 2 next hf =>
    refine exact_need fun hz => ⟨rfl, h.encL_eq h7 rfl rfl hf ?_⟩
    rw [toNat_ofNat_div, toNat_ofNat_div]
    omega
  next hf =>
    refine exact_need fun hz => ⟨rfl, h.encL_eq h7 rfl rfl hf ?_⟩
    rw [toNat_ofNat_div]
    omega
  exact exact_reserved

theorem exact_decodeFload {w0 w1 : Nat} (h : LongWords w0 w1 0x07) : (decodeFload w0 w1).Exact w0 w1 :=
  exact_need fun hz =>
    ⟨rfl, h.encL_eq (fld_of_ofNat_eq_zero hz.2.1) rfl (fld_of_ofNat_eq_zero hz.2.2) hz.1 (Nat.mod_eq_of_lt h.lt1)⟩

theorem exact_decodeLaunch {w0 w1 : Nat} (h : LongWords w0 w1 0x08) : (decodeLaunch w0 w1).Exact w0 w1 := by
  refine exact_need fun hb => ?_
  split
  next hf =>
    refine exact_need fun hz => ⟨rfl, h.encL_eq rfl rfl (fld_of_ofNat_eq_zero hb) hf ?_⟩
    rw [toNat_ofNat_fld, ← fld_eq_low (lo := 0) (n := 10) hz]
    exact fld_all h.lt1
  next hf => exact exact_need fun hz => ⟨rfl, h.encL_eq rfl rfl (fld_of_ofNat_eq_zero hb) hf hz.symm⟩
  exact exact_reserved

theorem exact_decodeWdrive {w0 w1 : Nat} (h : LongWords w0 w1 0x09) : (decodeWdrive w0 w1).Exact w0 w1 :=
  exact_need fun hz =>
    ⟨rfl, h.encL_eq (fld_of_ofNat_eq_zero hz.2.1) rfl (fld_of_ofNat_eq_zero hz.2.2) hz.1 (Nat.mod_eq_of_lt h.lt1)⟩

theorem exact_decodeLong {w0 w1 : Nat} (lt0 : w0 < 2 ^ 32) (lt1 : w1 < 2 ^ 32) (odd : w0 % 2 = 1) :
    (decodeLong w0 w1).Exact w0 w1 := by
  unfold decodeLong
  split
  next hm => exact exact_decodeLimm ⟨lt0, lt1, odd, hm⟩
  next hm => exact exact_decodeRemote ⟨lt0, lt1, odd, hm⟩
  next hm => exact exact_decodeVecRemote ⟨lt0, lt1, odd, hm⟩
  next hm => exact exact_decodeStream ⟨lt0, lt1, odd, hm⟩
  next hm => exact exact_decodeVecExt ⟨lt0, lt1, odd, hm⟩
  next hm => exact exact_decodeMatrixLong ⟨lt0, lt1, odd, hm⟩
  next hm => exact exact_decodeFload ⟨lt0, lt1, odd, hm⟩
  next hm => exact exact_decodeLaunch ⟨lt0, lt1, odd, hm⟩
  next hm => exact exact_decodeWdrive ⟨lt0, lt1, odd, hm⟩
  exact exact_reserved

/-- Two words that decode hold the encoding of what they decode to: no bit of them is dropped (05 R104). -/
theorem exact_decode {w0 w1 : Nat} (lt0 : w0 < 2 ^ 32) (lt1 : w1 < 2 ^ 32) (short : w0 % 2 = 0 → w1 = 0) :
    (decode w0 w1).Exact w0 w1 := by
  rcases Nat.mod_two_eq_zero_or_one w0 with even | odd
  · rw [short even, Laws.decode_short w0 even]
    exact exact_decodeShort lt0 even
  · rw [Laws.decode_long w0 w1 odd]
    exact exact_decodeLong lt0 lt1 odd

/-- The decoder reads back, with every operand, what the encoder makes of an instruction; blocks and events encode as word 0, which is none. -/
theorem roundTrip (i : Instr) : Laws.RoundTrip.Statement i := by
  cases i with
  | add d a b => exact Laws.RoundTrip.add d a b
  | sub d a b => exact Laws.RoundTrip.sub d a b
  | and d a b => exact Laws.RoundTrip.and d a b
  | or d a b => exact Laws.RoundTrip.or d a b
  | xor d a b => exact Laws.RoundTrip.xor d a b
  | sll d a b => exact Laws.RoundTrip.sll d a b
  | srl d a b => exact Laws.RoundTrip.srl d a b
  | sra d a b => exact Laws.RoundTrip.sra d a b
  | slt d a b => exact Laws.RoundTrip.slt d a b
  | sltn d a b => exact Laws.RoundTrip.sltn d a b
  | min d a b => exact Laws.RoundTrip.min d a b
  | max d a b => exact Laws.RoundTrip.max d a b
  | minn d a b => exact Laws.RoundTrip.minn d a b
  | maxn d a b => exact Laws.RoundTrip.maxn d a b
  | mul d a b => exact Laws.RoundTrip.mul d a b
  | mulh d a b => exact Laws.RoundTrip.mulh d a b
  | mulhn d a b => exact Laws.RoundTrip.mulhn d a b
  | div d a b => exact Laws.RoundTrip.div d a b
  | divn d a b => exact Laws.RoundTrip.divn d a b
  | rem d a b => exact Laws.RoundTrip.rem d a b
  | remn d a b => exact Laws.RoundTrip.remn d a b
  | clz d a => exact Laws.RoundTrip.clz d a
  | ctz d a => exact Laws.RoundTrip.ctz d a
  | popc d a => exact Laws.RoundTrip.popc d a
  | brev d a => exact Laws.RoundTrip.brev d a
  | addi d a imm => exact Laws.RoundTrip.addi d a imm
  | andi d a imm => exact Laws.RoundTrip.andi d a imm
  | ori d a imm => exact Laws.RoundTrip.ori d a imm
  | xori d a imm => exact Laws.RoundTrip.xori d a imm
  | slti d a imm => exact Laws.RoundTrip.slti d a imm
  | sltni d a imm => exact Laws.RoundTrip.sltni d a imm
  | slli d a sh => exact Laws.RoundTrip.slli d a sh
  | srli d a sh => exact Laws.RoundTrip.srli d a sh
  | srai d a sh => exact Laws.RoundTrip.srai d a sh
  | lui d imm => exact Laws.RoundTrip.lui d imm
  | auipc d imm => exact Laws.RoundTrip.auipc d imm
  | limm d imm => exact Laws.RoundTrip.limm d imm
  | limmH d imm => exact Laws.RoundTrip.limmH d imm
  | ldb d a off => exact Laws.RoundTrip.ldb d a off
  | ldh d a off => exact Laws.RoundTrip.ldh d a off
  | ldw d a off => exact Laws.RoundTrip.ldw d a off
  | ldd d a off => exact Laws.RoundTrip.ldd d a off
  | ldbN d a off => exact Laws.RoundTrip.ldbN d a off
  | ldhN d a off => exact Laws.RoundTrip.ldhN d a off
  | ldwN d a off => exact Laws.RoundTrip.ldwN d a off
  | ldaq d a n sz sc => exact Laws.RoundTrip.ldaq d a n sz sc
  | stb d a off => exact Laws.RoundTrip.stb d a off
  | sth d a off => exact Laws.RoundTrip.sth d a off
  | stw d a off => exact Laws.RoundTrip.stw d a off
  | std d a off => exact Laws.RoundTrip.std d a off
  | strel d a sz sc => exact Laws.RoundTrip.strel d a sz sc
  | amoadd d a b o sc sz => exact Laws.RoundTrip.amoadd d a b o sc sz
  | amoand d a b o sc sz => exact Laws.RoundTrip.amoand d a b o sc sz
  | amoor d a b o sc sz => exact Laws.RoundTrip.amoor d a b o sc sz
  | amoxor d a b o sc sz => exact Laws.RoundTrip.amoxor d a b o sc sz
  | amomin d a b o sc sz n => exact Laws.RoundTrip.amomin d a b o sc sz n
  | amomax d a b o sc sz n => exact Laws.RoundTrip.amomax d a b o sc sz n
  | amoswp d a b o sc sz => exact Laws.RoundTrip.amoswp d a b o sc sz
  | amocas d a b o sc sz => exact Laws.RoundTrip.amocas d a b o sc sz
  | beq a b off => exact Laws.RoundTrip.beq a b off
  | bne a b off => exact Laws.RoundTrip.bne a b off
  | blt a b off => exact Laws.RoundTrip.blt a b off
  | bge a b off => exact Laws.RoundTrip.bge a b off
  | bltn a b off => exact Laws.RoundTrip.bltn a b off
  | bgen a b off => exact Laws.RoundTrip.bgen a b off
  | jal d imm => exact Laws.RoundTrip.jal d imm
  | jalr d a imm => exact Laws.RoundTrip.jalr d a imm
  | fadd d a b f => exact Laws.RoundTrip.fadd d a b f
  | fsub d a b f => exact Laws.RoundTrip.fsub d a b f
  | fmul d a b f => exact Laws.RoundTrip.fmul d a b f
  | fdiv d a b f => exact Laws.RoundTrip.fdiv d a b f
  | fsqrt d a f => exact Laws.RoundTrip.fsqrt d a f
  | fmin d a b f => exact Laws.RoundTrip.fmin d a b f
  | fmax d a b f => exact Laws.RoundTrip.fmax d a b f
  | fcmp d a b f c => exact Laws.RoundTrip.fcmp d a b f c
  | fcvtToFloat d a f src => exact Laws.RoundTrip.fcvtToFloat d a f src
  | fcvtToInteger d a f dst => exact Laws.RoundTrip.fcvtToInteger d a f dst
  | fclass d a f => exact Laws.RoundTrip.fclass d a f
  | fma d a b c f => exact Laws.RoundTrip.fma d a b c f
  | crr d n => exact Laws.RoundTrip.crr d n
  | crw d a n => exact Laws.RoundTrip.crw d a n
  | crs d a n => exact Laws.RoundTrip.crs d a n
  | crc d a n => exact Laws.RoundTrip.crc d a n
  | ecall => exact Laws.RoundTrip.ecall
  | ebrk => exact Laws.RoundTrip.ebrk
  | trapret => exact Laws.RoundTrip.trapret
  | uret => exact Laws.RoundTrip.uret
  | wfe => exact Laws.RoundTrip.wfe
  | halt => exact Laws.RoundTrip.halt
  | tlbinv d a => exact Laws.RoundTrip.tlbinv d a
  | cinv d a => exact Laws.RoundTrip.cinv d a
  | fence o sc => exact Laws.RoundTrip.fence o sc
  | safept id => exact Laws.RoundTrip.safept id
  | setvl d a b => exact Laws.RoundTrip.setvl d a b
  | setvli d a fmt grp sc => exact Laws.RoundTrip.setvli d a fmt grp sc
  | lpreq d a => exact Laws.RoundTrip.lpreq d a
  | vadd d a b k => exact Laws.RoundTrip.vadd d a b k
  | vsub d a b k => exact Laws.RoundTrip.vsub d a b k
  | vmul d a b k => exact Laws.RoundTrip.vmul d a b k
  | vmulh d a b k => exact Laws.RoundTrip.vmulh d a b k
  | vmadd d a b k => exact Laws.RoundTrip.vmadd d a b k
  | vand d a b k => exact Laws.RoundTrip.vand d a b k
  | vor d a b k => exact Laws.RoundTrip.vor d a b k
  | vxor d a b k => exact Laws.RoundTrip.vxor d a b k
  | vsll d a b k => exact Laws.RoundTrip.vsll d a b k
  | vsrl d a b k => exact Laws.RoundTrip.vsrl d a b k
  | vsra d a b k => exact Laws.RoundTrip.vsra d a b k
  | vmin d a b k => exact Laws.RoundTrip.vmin d a b k
  | vmax d a b k => exact Laws.RoundTrip.vmax d a b k
  | vminn d a b k => exact Laws.RoundTrip.vminn d a b k
  | vmaxn d a b k => exact Laws.RoundTrip.vmaxn d a b k
  | vsadd d a b k => exact Laws.RoundTrip.vsadd d a b k
  | vssub d a b k => exact Laws.RoundTrip.vssub d a b k
  | vcmpEq d a b k => exact Laws.RoundTrip.vcmpEq d a b k
  | vcmpNe d a b k => exact Laws.RoundTrip.vcmpNe d a b k
  | vcmpLt d a b k => exact Laws.RoundTrip.vcmpLt d a b k
  | vcmpGe d a b k => exact Laws.RoundTrip.vcmpGe d a b k
  | vcmpLtn d a b k => exact Laws.RoundTrip.vcmpLtn d a b k
  | vcmpGen d a b k => exact Laws.RoundTrip.vcmpGen d a b k
  | vmerge d a b k => exact Laws.RoundTrip.vmerge d a b k
  | vmv d b k => exact Laws.RoundTrip.vmv d b k
  | vfadd d a b k => exact Laws.RoundTrip.vfadd d a b k
  | vfsub d a b k => exact Laws.RoundTrip.vfsub d a b k
  | vfmul d a b k => exact Laws.RoundTrip.vfmul d a b k
  | vfdiv d a b k => exact Laws.RoundTrip.vfdiv d a b k
  | vfsqrt d b k => exact Laws.RoundTrip.vfsqrt d b k
  | vfmin d a b k => exact Laws.RoundTrip.vfmin d a b k
  | vfmax d a b k => exact Laws.RoundTrip.vfmax d a b k
  | vfcmpEq d a b k => exact Laws.RoundTrip.vfcmpEq d a b k
  | vfcmpNe d a b k => exact Laws.RoundTrip.vfcmpNe d a b k
  | vfcmpLt d a b k => exact Laws.RoundTrip.vfcmpLt d a b k
  | vfcmpLe d a b k => exact Laws.RoundTrip.vfcmpLe d a b k
  | vfexp2 d b k => exact Laws.RoundTrip.vfexp2 d b k
  | vfrcp d b k => exact Laws.RoundTrip.vfrcp d b k
  | vfrsq d b k => exact Laws.RoundTrip.vfrsq d b k
  | vfma d a b k => exact Laws.RoundTrip.vfma d a b k
  | vfnma d a b k => exact Laws.RoundTrip.vfnma d a b k
  | vfcvt d src b k => exact Laws.RoundTrip.vfcvt d src b k
  | kand d a b => exact Laws.RoundTrip.kand d a b
  | kor d a b => exact Laws.RoundTrip.kor d a b
  | kxor d a b => exact Laws.RoundTrip.kxor d a b
  | knot d b => exact Laws.RoundTrip.knot d b
  | kpopc d a b => exact Laws.RoundTrip.kpopc d a b
  | kfirst d a b => exact Laws.RoundTrip.kfirst d a b
  | kmov d b => exact Laws.RoundTrip.kmov d b
  | vredsum d a b k => exact Laws.RoundTrip.vredsum d a b k
  | vredmax d a b k => exact Laws.RoundTrip.vredmax d a b k
  | vredmin d a b k => exact Laws.RoundTrip.vredmin d a b k
  | vfredsum d a b k => exact Laws.RoundTrip.vfredsum d a b k
  | vfredo d a b k => exact Laws.RoundTrip.vfredo d a b k
  | vslideup d a b k => exact Laws.RoundTrip.vslideup d a b k
  | vslidedn d a b k => exact Laws.RoundTrip.vslidedn d a b k
  | vperm d a b k => exact Laws.RoundTrip.vperm d a b k
  | vcompress d b k => exact Laws.RoundTrip.vcompress d b k
  | vexpand d b k => exact Laws.RoundTrip.vexpand d b k
  | viota d b k => exact Laws.RoundTrip.viota d b k
  | vbcast d b k => exact Laws.RoundTrip.vbcast d b k
  | vextr d a b => exact Laws.RoundTrip.vextr d a b
  | vins d a b k => exact Laws.RoundTrip.vins d a b k
  | vld d a off k => exact Laws.RoundTrip.vld d a off k
  | vldSc d a off k => exact Laws.RoundTrip.vldSc d a off k
  | vlds d a b k => exact Laws.RoundTrip.vlds d a b k
  | vldx d a b k => exact Laws.RoundTrip.vldx d a b k
  | vst d a off k => exact Laws.RoundTrip.vst d a off k
  | vstSc d a off k => exact Laws.RoundTrip.vstSc d a off k
  | vsts d a b k => exact Laws.RoundTrip.vsts d a b k
  | vstx d a b k => exact Laws.RoundTrip.vstx d a b k
  | vldq q a off k => exact Laws.RoundTrip.vldq q a off k
  | vldqStrided q a b k => exact Laws.RoundTrip.vldqStrided q a b k
  | vldqIndexed q a b k => exact Laws.RoundTrip.vldqIndexed q a b k
  | vamoadd d a b k => exact Laws.RoundTrip.vamoadd d a b k
  | vamoand d a b k => exact Laws.RoundTrip.vamoand d a b k
  | vamoor d a b k => exact Laws.RoundTrip.vamoor d a b k
  | vamoxor d a b k => exact Laws.RoundTrip.vamoxor d a b k
  | vamomin d a b k => exact Laws.RoundTrip.vamomin d a b k
  | vamomax d a b k => exact Laws.RoundTrip.vamomax d a b k
  | vamoswp d a b k => exact Laws.RoundTrip.vamoswp d a b k
  | vpostadd a b k => exact Laws.RoundTrip.vpostadd a b k
  | vpostand a b k => exact Laws.RoundTrip.vpostand a b k
  | vpostor a b k => exact Laws.RoundTrip.vpostor a b k
  | vpostxor a b k => exact Laws.RoundTrip.vpostxor a b k
  | vpostmin a b k => exact Laws.RoundTrip.vpostmin a b k
  | vpostmax a b k => exact Laws.RoundTrip.vpostmax a b k
  | vpostswp a b k => exact Laws.RoundTrip.vpostswp a b k
  | vcapp a k => exact Laws.RoundTrip.vcapp a k
  | vldz d a p k off => exact Laws.RoundTrip.vldz d a p k off
  | vstz d a p k off => exact Laws.RoundTrip.vstz d a p k off
  | vcopy d a k => exact Laws.RoundTrip.vcopy d a k
  | vfill d p k => exact Laws.RoundTrip.vfill d p k
  | vldsImmediate d a k stride => exact Laws.RoundTrip.vldsImmediate d a k stride
  | vstsImmediate d a k stride => exact Laws.RoundTrip.vstsImmediate d a k stride
  | mcfg tiles fmt sc int32 m n => exact Laws.RoundTrip.mcfg tiles fmt sc int32 m n
  | mma c a b => exact Laws.RoundTrip.mma c a b
  | mzero c => exact Laws.RoundTrip.mzero c
  | mrel c => exact Laws.RoundTrip.mrel c
  | mdrain c a p row rows k => exact Laws.RoundTrip.mdrain c a p row rows k
  | mdrainx c a p row rows k => exact Laws.RoundTrip.mdrainx c a p row rows k
  | mldacc c a p row rows => exact Laws.RoundTrip.mldacc c a p row rows
  | rld d a p sz s off => exact Laws.RoundTrip.rld d a p sz s off
  | rst c a p sz s off => exact Laws.RoundTrip.rst c a p sz s off
  | ramoadd d c a p sz s off => exact Laws.RoundTrip.ramoadd d c a p sz s off
  | ramoand d c a p sz s off => exact Laws.RoundTrip.ramoand d c a p sz s off
  | ramoor d c a p sz s off => exact Laws.RoundTrip.ramoor d c a p sz s off
  | ramoxor d c a p sz s off => exact Laws.RoundTrip.ramoxor d c a p sz s off
  | ramomin d c a p sz s off => exact Laws.RoundTrip.ramomin d c a p sz s off
  | ramomax d c a p sz s off => exact Laws.RoundTrip.ramomax d c a p sz s off
  | ramoswp d c a p sz s off => exact Laws.RoundTrip.ramoswp d c a p sz s off
  | ramocas d c a p sz s off => exact Laws.RoundTrip.ramocas d c a p sz s off
  | rfence => exact Laws.RoundTrip.rfence
  | rldx d a p k s => exact Laws.RoundTrip.rldx d a p k s
  | rstx d a p k s => exact Laws.RoundTrip.rstx d a p k s
  | rapp d a p k s => exact Laws.RoundTrip.rapp d a p k s
  | rbatch => exact Laws.RoundTrip.rbatch
  | rwait n => exact Laws.RoundTrip.rwait n
  | barrive a => exact Laws.RoundTrip.barrive a
  | bwait d a => exact Laws.RoundTrip.bwait d a
  | trigger => exact Laws.RoundTrip.trigger
  | nexts => exact Laws.RoundTrip.nexts
  | launch d a q => exact Laws.RoundTrip.launch d a q
  | crec d a => exact Laws.RoundTrip.crec d a
  | fswap a => exact Laws.RoundTrip.fswap a
  | fdrain a => exact Laws.RoundTrip.fdrain a
  | fstat d => exact Laws.RoundTrip.fstat d
  | fpush a b => exact Laws.RoundTrip.fpush a b
  | fpop d a => exact Laws.RoundTrip.fpop d a
  | fload a off => exact Laws.RoundTrip.fload a off
  | sopen d a e wr pol => exact Laws.RoundTrip.sopen d a e wr pol
  | sbind d e t => exact Laws.RoundTrip.sbind d e t
  | sclose d e => exact Laws.RoundTrip.sclose d e
  | sstat d e => exact Laws.RoundTrip.sstat d e
  | wdrive a off => exact Laws.RoundTrip.wdrive a off
  | _ => exact fun h => absurd rfl h

/-- Settles O32: the round trip of every instruction (`roundTrip`), and what each decoder reads is exact (`exact_decode`). -/
theorem decodeAndEncodeAgree : Obligations.DecodeAndEncodeAgree := by
  refine ⟨roundTrip, fun w0 w1 i lt0 lt1 short hd => ?_⟩
  have exact_i := exact_decode lt0 lt1 short
  rw [hd] at exact_i
  exact exact_i

end Sys2Proof
end

section
/-! DecodesSpecWords (O31). -/

namespace Sys2Proof

/-- Settles O31: each word, written out, is evaluated by the decoder. -/
theorem decodesSpecWords : Obligations.DecodesSpecWords :=
  ⟨rfl, rfl, rfl, rfl, rfl, rfl, rfl, rfl, rfl, rfl, rfl, rfl, rfl, rfl, rfl, rfl, rfl, rfl, rfl, rfl, rfl, rfl, rfl, rfl, rfl, rfl,
    rfl, rfl, rfl, rfl, ⟨_, rfl⟩, ⟨_, rfl⟩, ⟨_, rfl⟩⟩

end Sys2Proof
end

section
/-! StepRunsDecoded (O30). The fetch of words that stand at the pc (`fetchInstr_of_instr`), the turn of a running hart at them
(`Running.runs_decoded`), what each other move on the agenda does, and what the end of a turn leaves alone (`getHart_endTurn`). -/

namespace Sys2Proof.Machine

variable {s u : State} {w0 w1 : Nat} {i : Instr}

/-! Fetch. -/

theorem fetchWord_of_fetches {va : Word} {w : Nat} (h : Fetches s va w) : fetchWord s va = .ok w s := by
  obtain ⟨relaxed, pa, ty, e, trans, good, uncached, serve, granted, fresh, marked, rfl⟩ := h
  have done : completeLines s (tileId s.cur.tile) [pa / 128] = s :=
    completeLines_fresh s _ _ fun l hl => by rw [List.mem_singleton.mp hl]; exact fresh
  have uncached' : alGet (tileAt s s.cur.tile).icache (pa / 128) = none := uncached
  simp [fetchWord, lineOf, trans, uncached, serve, granted, done, good, marked, cachedWord, uncached', relaxed, physRead]

theorem fetchSecond_of_fetchesPair (h : FetchesPair s w0 w1) :
    (if isLong w0 then fetchWord s (s.hart.pc + 4) else .ok 0 s) = .ok w1 s := by
  obtain ⟨-, long, short⟩ := h
  rcases Nat.mod_two_eq_zero_or_one w0 with even | odd
  · simp [isLong, even, short even]
  · rw [if_pos (by simp [isLong, odd])]
    exact fetchWord_of_fetches (long odd)

theorem fetchInstr_of_instr (h : FetchesPair s w0 w1) (hd : decode w0 w1 = .instr i) : fetchInstr s = .ok i s := by
  simp only [fetchInstr, fetchWord_of_fetches h.1, Access.bind, fetchSecond_of_fetchesPair h, hd]

theorem fetchInstr_of_reserved {r : Sys2Proof.Reject} (h : FetchesPair s w0 w1) (hd : decode w0 w1 = .reserved r) :
    fetchInstr s = .trap (reservedTrap w0 w1) s := by
  simp only [fetchInstr, fetchWord_of_fetches h.1, Access.bind, fetchSecond_of_fetchesPair h, hd]

/-! The turn of a hart that runs. -/

theorem Running.turn_eq (h : Running s) : turn s = runningTurn s := by
  simp [turn, Hart.takesTurns, h.runs, h.fresh, h.untrapped]

theorem Hart.badSource_of_sound {h : Hart} (n : Names) (hb : h.badStore = []) : h.badSource n = none := by
  simp [Hart.badSource, hb]

theorem Running.meetError_eq_none (h : Running s) (i : Instr) : meetError i s = none := by
  simp [meetError, Hart.badSource_of_sound _ h.sound, h.undisturbed.1]

theorem Running.settle_eq (h : Running s) (i : Instr) (u : State) : settle i s u = u := by
  simp [settle, h.sound, h.undisturbed.1, h.undisturbed.2]

theorem runningTurn_of_due (hf : fetchInstr s = .ok i s) (ht : issueTraps i s = false) (hd : dueEvent (some i) s = none) :
    runningTurn s = if awaitsQueued i s then .stay (schedule s [.vectorInstructionRetirement s.cur]) else unlessError i s := by
  simp [runningTurn, hf, ht, hd]

theorem Running.runs_decoded (h : Running s) (hf : fetchInstr s = .ok i s)
    (ready : issueTraps i s = true ∨ (dueEvent (some i) s = none ∧ awaitsQueued i s = false)) : turn s = .run i s := by
  rw [h.turn_eq]
  rcases ready with traps | ⟨due, free⟩
  · simp [runningTurn, hf, traps]
  · cases traps : issueTraps i s
    · simp [runningTurn_of_due hf traps due, free, unlessError, h.meetError_eq_none]
    · simp [runningTurn, hf, traps]

theorem Running.runTurn_of_run (h : Running s) (ht : turn s = .run i s) :
    runTurn s = match exec i s with | .next u => .next (closeTurn s (some i) u) | o => o := by
  rw [runTurn, ht]
  dsimp only
  cases exec i s with
  | next u => dsimp only; rw [h.settle_eq]
  | fault f => rfl
  | refused r => rfl

theorem runTurn_of_stay (ht : turn s = .stay u) : runTurn s = .next (closeTurn s none u) := by
  rw [runTurn, ht]

/-! The agenda. -/

theorem runMove_of_behind {e : Event} {rest : List Move} (he : s.events = .event e :: rest) (hb : comesBehind s e = true) :
    runMove e s = .next { s with events := rest, waiting := s.waiting ++ [e] } := by
  have none_held : heldUnder s = none := by
    rw [comesBehind, Bool.and_eq_true] at hb
    exact Option.isNone_iff_eq_none.mp hb.1
  rw [runMove, if_pos hb]
  simp [park, askHomes, parkAt, none_held, he]

theorem runMove_of_first {e : Event} (hb : comesBehind s e = false) :
    runMove e s = match exec e.row s with
      | .next u => .next (if u.await = [] then noteCounts u else park s e u.await)
      | o => o := by
  rw [runMove, hb]
  cases exec e.row s <;> simp

theorem runUpset_eq {x : Upset} {rest : List Move} (he : s.events = .upset x :: rest) :
    runUpset x s = if (applyUpset x { s with events := rest }).await = [] then applyUpset x { s with events := rest }
      else askHomes { s with events := rest ++ [.upset x] } (applyUpset x { s with events := rest }).await := by
  simp [runUpset, he]

theorem changeRanges_of_idle {p : Nat} {rs : List PRange} {rest : List Move} (he : s.events = .ranges p rs :: rest)
    (fits : rangesFit rs = true) (idle : ∀ i, partNum s i.tile = p → (getHart s i).vq = []) :
    changeRanges p rs s =
      { s with events := rest, tlb := [], parts := s.parts.map fun y => if y.num == p then { y with ranges := rs } else y } := by
  have free : ((listedHarts s).any fun i => partNum s i.tile == p && !((getHart s i).vq.all fun x => x.pages.isEmpty)) = false := by
    rw [List.any_eq_false]
    intro i _ hi
    rw [Bool.and_eq_true, beq_iff_eq] at hi
    rw [idle i hi.1] at hi
    exact Bool.noConfusion hi.2
  rw [changeRanges, fits, he, if_neg (by decide)]
  exact if_neg (ne_true_of_eq_false free)

section
variable {rest : List Move} (power : s.power = true)
include power

theorem step_turn {h : HartId} (events : s.events = .turn h :: rest) : step s = runTurn { s with events := rest, cur := h } := by
  unfold step; rw [events]; exact if_pos power

theorem step_event {e : Event} (events : s.events = .event e :: rest) : step s = runMove e s := by
  unfold step; rw [events]; exact if_pos (by rw [power, Bool.true_or])

theorem step_upset {x : Upset} (events : s.events = .upset x :: rest) : step s = .next (runUpset x s) := by
  unfold step; rw [events]; exact if_pos power

theorem step_bringUp (events : s.events = .bringUp :: rest) : step s = .next (bringUp { s with events := rest }) := by
  unfold step; rw [events]; exact if_pos power

theorem step_ranges {p : Nat} {rs : List PRange} (events : s.events = .ranges p rs :: rest) : step s = .next (changeRanges p rs s) := by
  unfold step; rw [events]; exact if_pos power

theorem step_idle (events : s.events = []) : step s = runTurn s := by
  unfold step; rw [events]; exact if_pos power

end

theorem step_without_power (off : s.power = false) (h : ∀ rest, s.events ≠ .event .powerOn :: rest) : step s = .fault .noPower := by
  unfold step
  split
  next e rest he =>
    have other : e ≠ .powerOn := fun hp => h rest (hp ▸ he)
    simp [off, other]
  all_goals simp [off]

/-! The end of a turn. -/

theorem heldReads_of_none (h : u.held = []) (i : HartId) : heldReads u i = 0 := by simp [heldReads, h]

theorem closeTurn_of_await (h : u.await ≠ []) (r : Option Instr) : closeTurn s r u = endTurn s.hart.inProgress (askHomes s u.await) := by
  simp [closeTurn, h]

theorem goesOn_eq_none (sync : u.hart.sync = none) (capp : u.hart.capp = none) (fresh : u.hart.inProgress = none) (held : u.held = [])
    (stream : inStream u s.cur = false) (r : Option Instr) : goesOn s r u = none := by
  simp [goesOn, sync, capp, fresh, stream, heldReads_of_none held]

theorem forgetReads_of_none (held : u.held = []) (answers : u.hart.answers = []) : forgetReads u = u := by
  simp [forgetReads, answers, heldReads_of_none held]

@[simp] theorem noteCounts_mem (s : State) : (noteCounts s).mem = s.mem := rfl

@[simp] theorem tick_mem (s : State) : (tick s).mem = s.mem := by unfold tick; dsimp only; split <;> rfl

theorem endTurn_mem (r : Option Instr) (s : State) : (endTurn r s).mem = s.mem := by simp [endTurn, retryParked]

theorem tick_tiles (s : State) : (tick s).tiles = (s.setHart (s.hart.tick (Config.clocks s.draws))).tiles := by
  unfold tick; dsimp only; split <;> rfl

theorem endTurn_tiles (r : Option Instr) (s : State) :
    (endTurn r s).tiles = (s.setHart (Hart.tick { s.hart with inProgress := r } (Config.clocks s.draws))).tiles := by
  simp [endTurn, retryParked, noteCounts, tick_tiles, State.modHart_eq]

theorem getHart_of_tiles {t : State} (h : t.tiles = u.tiles) (j : HartId) : getHart t j = getHart u j := by
  rw [getHart, tileAt, h]; rfl

theorem getHart_endTurn (r : Option Instr) (s : State) (j : HartId) : ∃ c n m p, getHart (endTurn r s) j =
    { getHart s j with cyc := c, spcnt := n, scount := m, inProgress := p } ∧ (j ≠ s.cur → getHart (endTurn r s) j = getHart s j) := by
  rw [getHart_of_tiles (endTurn_tiles r s) j]
  by_cases hj : j = s.cur
  · subst hj
    exact ⟨_, _, _, _, State.hart_setHart s _, fun hne => absurd rfl hne⟩
  · rw [State.getHart_setHart_ne s _ j hj]
    exact ⟨_, _, _, _, rfl, fun _ => rfl⟩

/-- Settles O30: each clause is the lemma of its kind of move; a turn at words that decode is `Running.runs_decoded`. -/
theorem stepRunsDecoded : Obligations.StepRunsDecoded := by
  intro s w0 w1
  refine ⟨?runs, ?waits, ?reserved, ?turn, ?event, ?behind, ?upset, ?bringUp, ?ranges, ?await, ?close, ?noPower, ?frame⟩
  case runs =>
    intro i run words hd ready
    rw [step_idle run.power run.agenda]
    exact run.runTurn_of_run (run.runs_decoded (fetchInstr_of_instr words hd) ready)
  case waits =>
    intro i run words hd quiet due waits
    rw [step_idle run.power run.agenda]
    refine runTurn_of_stay (run.turn_eq.trans ?_)
    rw [runningTurn_of_due (fetchInstr_of_instr words hd) quiet due, if_pos waits]
  case reserved =>
    intro r run words hd
    rw [step_idle run.power run.agenda]
    refine runTurn_of_stay (run.turn_eq.trans ?_)
    rw [runningTurn, fetchInstr_of_reserved words hd]
    rfl
  case turn =>
    rintro h rest power events rfl
    rw [step_turn power events]
    exact (step_idle (s := { s with events := [], cur := h }) power rfl).symm
  case event => exact fun e rest power events first => (step_event power events).trans (runMove_of_first first)
  case behind => exact fun e rest power events behind => (step_event power events).trans (runMove_of_behind events behind)
  case upset => exact fun x rest power events => (step_upset power events).trans (congrArg _ (runUpset_eq events))
  case bringUp => exact fun rest power events => step_bringUp power events
  case ranges =>
    exact fun p rs rest power events fits idle => (step_ranges power events).trans (congrArg _ (changeRanges_of_idle events fits idle))
  case await => exact fun r u met => closeTurn_of_await met r
  case close =>
    intro r u met sync capp fresh held answers stream
    rw [closeTurn, met, goesOn_eq_none sync capp fresh held stream, forgetReads_of_none held answers]
    rfl
  case noPower => exact step_without_power
  case frame => exact fun r => ⟨endTurn_mem r s, getHart_endTurn r s⟩

end Sys2Proof.Machine
end
